-- ==== Sys2Proof/Word.lean ====
section
/-! DEFINITION. The word types of the module and the sparse map that holds its many like units. -/

namespace Sys2Proof

abbrev Byte := BitVec 8
abbrev Word := BitVec 32
abbrev DWord := BitVec 64
/-- One 64 B block, byte i in bits [8i+7:8i] (R8). -/
abbrev Block := BitVec 512

/-- A sparse map: pairs of a key and a value, keys strictly rising. A key that is not listed reads as the default that
the reader names. -/
abbrev SMap (α : Type) := List (Nat × α)

end Sys2Proof
end

