-- ==== Sys2Proof/Syntax.lean ====
section
/-! DEFINITION. The commands the module takes: every row of spec/opcode_table.json, with its operands.
The module is modelled as a block: a command is one indivisible step of the table, and its operands name the unit that
acts, the edge inside the present beat at which it acts, and whatever the surroundings of the module supply (a pin, a host's
data, a sensor's reading). -/

namespace Sys2Proof

/-- The four conditions that hold module reset asserted (R428). -/
inductive ResetSource where
  | modRstN | input | alwaysOnRail | beatPll
deriving DecidableEq, Repr

/-- The reset domains of R442 (KIND 1 to 4). -/
inductive DomainKind where
  | hostPort | stack | vault | curator
deriving DecidableEq, Repr

/-- The six kinds of switched domain a timetable can wake (R370, KIND 0x1 to 0x6). -/
inductive SwKind where
  | wing | cabinet | bankGroup | slice | conservator | engine
deriving DecidableEq, Repr

/-- A switched domain: its kind and its module-wide index within the kind (R370). -/
structure DomainRef where
  kind : SwKind
  index : Nat
deriving DecidableEq, Repr

/-- A logical cabinet: wing 16s + w and cabinet 0 to 8 (R66). -/
structure CabRef where
  wing : Fin 128
  cab : Fin 9
deriving DecidableEq, Repr

/-- A logical core: wing 16s + w, cabinet 0 to 8, core 0 to 95 (R66). -/
structure CoreRef where
  wing : Fin 128
  cab : Fin 9
  core : Fin 96
deriving DecidableEq, Repr

/-- A physical core site: wing, physical cabinet site 0 to 9, physical core site 0 to 99 (R66). -/
structure SiteRef where
  wing : Fin 128
  cabSite : Fin 10
  coreSite : Fin 100
deriving DecidableEq, Repr

/-- Who issues a register access: a host port's BAR0, the sideband or the curator (R9). -/
inductive Requester where
  | port (p : Fin 8)
  | sideband
  | curator
deriving DecidableEq, Repr

/-- What a host answers to a read of its memory; `inside` where the read was not of host memory (R284, R303). -/
inductive HostReply where
  | inside
  | data (d : BitVec 512)
  | error
deriving DecidableEq, Repr

/-- A checker's report to its collector (R419). -/
structure Report where
  source : BitVec 16
  mem : BitVec 4
  cls : BitVec 4
  synd : BitVec 4
  loc : BitVec 48
  syndrome : BitVec 32
  scrub : Bool
deriving DecidableEq, Repr

/-- A scrubber: of a physical shelf bank, (site × 2 + layer) × 7 + bank, of a slice, or of a pseudo-channel (R416). -/
inductive Scrubber where
  | bank (b : Fin 1792000)
  | slice (i : Fin 512)
  | pch (P : Fin 1024)
deriving DecidableEq, Repr

/-- A cycle of a scrubber: edge j of the present beat (R416). -/
structure ScrubCycle where
  scrubber : Scrubber
  j : Fin 8
deriving DecidableEq, Repr

/-- A unit that one scrub lap visits (R418). -/
inductive ScrubUnit where
  | shelves (s : Fin 8)
  | slices (s : Fin 8)
  | vault (v : Fin 16)
deriving DecidableEq, Repr

/-- What training finds (R211, R432 to R434): the failing bonds of each channel at its two interfaces, the failing lanes of each bridge or
crossing direction by group of 64 (spares that fail included), the vaults whose saved settings cannot be used, the vaults that cannot
train, the banks whose page has no repair row left, and the failing wires of mesh links, each by the cabinet sites 10 × wing + site
that it joins. -/
structure TrainReport where
  channels : List (SiteRef × Nat × Nat)
  bridges : List (BitVec 12 × Nat × List Nat)
  fullVaults : BitVec 16
  deadVaults : BitVec 16
  unrepaired : List (BitVec 10 × BitVec 6)
  meshLinks : List (Fin 1280 × Fin 1280 × List Nat)
deriving DecidableEq, Repr

/-- The unit that holds a failing encoder-checker pair (R413, R435). -/
inductive SelfTestUnit where
  | slice (s : Fin 512)
  | controller (v : Fin 16)
  | stepStore (s : Fin 8)
  | engine (e : Fin 48)
  | core (site : SiteRef)
  | conservator (v : Fin 16) (site : Fin 68)
deriving DecidableEq, Repr

/-- A pair that failed the start-up self-test: its memory class (R419) and the unit that holds it. -/
structure SelfTestFail where
  mem : BitVec 4
  unit : SelfTestUnit
deriving DecidableEq, Repr

/-- The commands of spec/opcode_table.json: one constructor per row, in the table's order, with the operands that
say which unit acts, at which edge inside the beat, and what the surroundings supply. -/
inductive Instr where
  /-- MODULE_RESET_ASSERT, R428: Module reset asserts when MOD_RST_N goes low, the input leaves its range, the always-on rail leaves regulation or the beat PLL loses lock. -/
  | moduleResetAssert (src : ResetSource)
  /-- MODULE_RESET_DEASSERT, R428: Module reset deasserts at the beat boundary where no reset condition holds; that beat becomes beat 0. -/
  | moduleResetDeassert (legacySel : Bool) (addrSel : BitVec 2)
  /-- INPUT_OUT_OF_RANGE, R469: The 54 V input has lain outside 44.0 V to 60.0 V for 1 µs, so module reset is entered and the rails are switched off. -/
  | inputOutOfRange
  /-- INPUT_BACK_IN_RANGE, R469: The input has lain within 44.5 V to 59.5 V for 10 ms and counts as inside its operating range again. -/
  | inputBackInRange
  /-- CLOCK_MONITOR_TRIP, R376: The monitor finds the crystal stopped or the beat PLL unlocked, records the cause and asserts module reset. -/
  | clockMonitorTrip (pllLost : Bool)
  /-- TRIP_LATCH_CLEAR, R405: The input has stayed below 20 V for 1 s, so the thermal trip latch clears. -/
  | tripLatchClear
  /-- PERST_RELEASE, R430: A port's fundamental reset is released, which starts the time limit for answering configuration requests. -/
  | perstRelease (port : Fin 8)
  /-- PCIE_FUNCTION_LEVEL_RESET, R311: A PCIe function-level reset resets that port's host-port domain with cause 9. -/
  | pcieFunctionLevelReset (port : Fin 8)
  /-- PCIE_HOT_RESET, R311: A PCIe hot reset resets that port's host-port domain with cause 9. -/
  | pcieHotReset (port : Fin 8)
  /-- PCIE_LINK_DOWN, R311: A link-down resets that port's host-port domain with cause 9. -/
  | pcieLinkDown (port : Fin 8)
  /-- BEAT_TICK, R30: The beat counter increases by 1 at every beat. -/
  | beatTick
  /-- STAGE_RAILS, R429: The VPS raises the rails in order, with the wings at k = 4. -/
  | stageRails
  /-- STAGE_TRAIN, R432: Channels, crossings, bridges and vault PHYs train in parallel. -/
  | stageTrain (report : TrainReport)
  /-- STAGE_TEST, R413: Every encoder-checker pair is tested with four codewords. -/
  | stageTest (fails : List SelfTestFail)
  /-- STAGE_REPAIR, R434: Spares are assigned from fuses, the retirement table and the training and test failures, and the maps are built. -/
  | stageRepair
  /-- STAGE_FILL, R438: The unwritten marker is written into every shelf, vault and on-die memory, and every slice tag is invalidated. -/
  | stageFill
  /-- STAGE_CSV, R429: The conservators are woken and run the conservator boot image. -/
  | stageCsv
  /-- STAGE_DONE, R430: The curator sets CUR_CAP0.VALID. -/
  | stageDone
  /-- RECOVERY_ERASE, R440: A write of CUR_REC_CTL.ERASE erases slot A. -/
  | recoveryErase
  /-- RECOVERY_DATA_WRITE, R440: A write to CUR_REC_DATA stores four image bytes in slot A and advances the offset by 4. -/
  | recoveryDataWrite (data : BitVec 32)
  /-- RECOVERY_COMMIT, R440: A write of CUR_REC_CTL.COMMIT checks slot A against the image rules using CUR_REC_BYTES. -/
  | recoveryCommit
  /-- RECOVERY_OPERATION_DONE, R440: An erase or check finishes, clearing BUSY and, on a passed check, restarting the ROM stage. -/
  | recoveryOperationDone
  /-- HOST_PORT_RESET, R442: A host-port domain is reset, losing its counters, held entries and outstanding host reads. -/
  | hostPortReset (port : Fin 8) (cause : BitVec 4)
  /-- STACK_RESET, R442: A stack domain is reset for 25,000 beats, losing slice lines, trackers, engine contexts and core state. -/
  | stackReset (stack : Fin 8) (cause : BitVec 4)
  /-- VAULT_RESET, R442: A vault domain is reset, losing bursts and command queues while DRAM refresh continues. -/
  | vaultReset (vault : Fin 16) (cause : BitVec 4)
  /-- CURATOR_RESET, R442: The curator domain is reset and reboots, keeping queued commands and all state outside the domain. -/
  | curatorReset (cause : BitVec 4)
  /-- DOMAIN_RESET_END, R443: A domain reset ends and the domain resumes with the state R443 keeps. -/
  | domainResetEnd (kind : DomainKind) (index : Nat)
  /-- DEACCESSION_RAIL_SHUTDOWN, R449: 2,500 beats after entry into the deaccessioned state, the VPS switches off the wing, archive and vault rails. -/
  | deaccessionRailShutdown
  /-- EVALUATE_STEP, R52: At the evaluation beat the sequencer evaluates the next step's gate and the governor's tiers. -/
  | evaluateStep (part : Fin 8)
  /-- GATE_MET, R53: At a later multiple-of-4 beat, a gated step finds its gate counter non-zero, consumes one count and enters BUDGET. -/
  | gateMet (part : Fin 8)
  /-- BUDGET_RETRY, R53: After a 256-beat budget wait, the governor repeats the tier comparison. -/
  | budgetRetry (part : Fin 8)
  /-- COMMIT_ARRIVAL, R29: The commit reaches every named stack sequencer 64 beats after the commit beat. -/
  | commitArrival (part : Fin 8)
  /-- ADVANCE_NOTICE_RECEIPT, R372: The notice reaches the VPS 8 beats after commit, and the VPS holds the named rails' phases engaged. -/
  | advanceNoticeReceipt (part : Fin 8)
  /-- DOMAIN_WAKE_START, R57: At s − d, a listed domain begins its wake or ratio change. -/
  | domainWakeStart (part : Fin 8) (dom : DomainRef)
  /-- DOMAIN_WAKE_COMPLETE, R58: A domain's wake finishes and it becomes usable. -/
  | domainWakeComplete (dom : DomainRef)
  /-- STEP_START, R60: A committed step starts at beat s, and its wings run at the tier's k. -/
  | stepStart (part : Fin 8)
  /-- SLOT_PLAN_ENTRY_START, R60: At s plus its beat offset, a slot-plan entry assigns its lane slot to its route. -/
  | slotPlanEntryStart (part : Fin 8) (entry : Nat)
  /-- STACK_SEQUENCER_RECORD_READ, R475: A launch record or engine descriptor read returns; it is delivered, or an uncorrectable word faults the job. -/
  | stackSequencerRecordRead (part : Fin 8) (isEngine : Bool) (entry : Nat)
  /-- KERNEL_LAUNCH, R99: At the launch beat the cabinet checks the launch record and its masked cores load code and initial contexts. -/
  | kernelLaunch (part : Fin 8) (cab : CabRef)
  /-- DELAYED_LAUNCH_START, R102: A launch that arrived while the cabinet was busy starts at the first beat after the previous done report. -/
  | delayedLaunchStart (cab : CabRef)
  /-- CABINET_DONE_REPORT, R103: A cabinet whose tours have exited and whose stores are acknowledged reports done at the next beat boundary. -/
  | cabinetDoneReport (cab : CabRef)
  /-- STEP_PLANNED_END, R61: The planned end passes without every done report, so overrun begins. -/
  | stepPlannedEnd (part : Fin 8)
  /-- STEP_END, R61: A step ends at the later of its planned end and its last done report, and its successor is started or evaluated. -/
  | stepEnd (part : Fin 8)
  /-- STEP_TIMEOUT, R62: At s + 2 × LENGTH, stacks lacking done reports are reset and the job faults. -/
  | stepTimeout (part : Fin 8)
  /-- KERNEL_TIMEOUT, R104: A launch not done within TIMEOUT_BEATS resets its stack and faults the partition. -/
  | kernelTimeout (cab : CabRef)
  /-- STEP_DELAYED, R65: A step's budget wait reaches SEQ_WAIT_EVT and a STEP_DELAYED event is posted. -/
  | stepDelayed (part : Fin 8)
  /-- JOB_FAULT_DELIVERY, R337: A job fault is delivered at beat F, ending the job, returning the run to BOUND and completing pending descriptors. -/
  | jobFaultDelivery (part : Fin 8)
  /-- ABANDONED_DESCRIPTOR_COMPLETION, R305: An abandoned ring-driven descriptor posts JOB_FAULT once its issued requests have completed. -/
  | abandonedDescriptorCompletion (eng : Fin 48) (ctx : Fin 9)
  /-- ROTATION_SLOT_TAKE, R35: A waiting request is taken at the first slot of its lane or class, or at an idle slot under reclaim. -/
  | rotationSlotTake (req : Nat) (j : Fin 5)
  /-- XILON_NOP, R117: Xilon nop issues with no effect. -/
  | xilonNop (core : CoreRef) (j : Fin 7)
  /-- ADD, R117: Integer add modulo 2³². -/
  | add (core : CoreRef) (j : Fin 7)
  /-- SUB, R117: Integer subtract modulo 2³². -/
  | sub (core : CoreRef) (j : Fin 7)
  /-- MUL, R117: Low 32 bits of the product. -/
  | mul (core : CoreRef) (j : Fin 7)
  /-- MULHI_S, R117: High 32 bits of the signed product. -/
  | mulhiS (core : CoreRef) (j : Fin 7)
  /-- MULHI_U, R117: High 32 bits of the unsigned product. -/
  | mulhiU (core : CoreRef) (j : Fin 7)
  /-- AND, R117: Bitwise AND. -/
  | and (core : CoreRef) (j : Fin 7)
  /-- OR, R117: Bitwise OR. -/
  | or (core : CoreRef) (j : Fin 7)
  /-- XOR, R117: Bitwise XOR. -/
  | xor (core : CoreRef) (j : Fin 7)
  /-- SHL, R119: Shift left by B[4:0]. -/
  | shl (core : CoreRef) (j : Fin 7)
  /-- SHR_U, R119: Logical shift right. -/
  | shrU (core : CoreRef) (j : Fin 7)
  /-- SHR_S, R119: Arithmetic shift right. -/
  | shrS (core : CoreRef) (j : Fin 7)
  /-- MIN_S, R117: Signed minimum. -/
  | minS (core : CoreRef) (j : Fin 7)
  /-- MIN_U, R117: Unsigned minimum. -/
  | minU (core : CoreRef) (j : Fin 7)
  /-- MAX_S, R117: Signed maximum. -/
  | maxS (core : CoreRef) (j : Fin 7)
  /-- MAX_U, R117: Unsigned maximum. -/
  | maxU (core : CoreRef) (j : Fin 7)
  /-- SEL, R117: Selects A or B by a predicate. -/
  | sel (core : CoreRef) (j : Fin 7)
  /-- ADDI, R117: Add immediate. -/
  | addi (core : CoreRef) (j : Fin 7)
  /-- ANDI, R117: AND immediate. -/
  | andi (core : CoreRef) (j : Fin 7)
  /-- ORI, R117: OR immediate. -/
  | ori (core : CoreRef) (j : Fin 7)
  /-- XORI, R117: XOR immediate. -/
  | xori (core : CoreRef) (j : Fin 7)
  /-- SHLI, R117: Shift left by immediate. -/
  | shli (core : CoreRef) (j : Fin 7)
  /-- SHRI_U, R117: Logical shift right by immediate. -/
  | shriU (core : CoreRef) (j : Fin 7)
  /-- SHRI_S, R117: Arithmetic shift right by immediate. -/
  | shriS (core : CoreRef) (j : Fin 7)
  /-- MOVI, R117: Moves an immediate. -/
  | movi (core : CoreRef) (j : Fin 7)
  /-- FADD, R120: binary32 add. -/
  | fadd (core : CoreRef) (j : Fin 7)
  /-- FSUB, R120: binary32 subtract. -/
  | fsub (core : CoreRef) (j : Fin 7)
  /-- FMUL, R120: binary32 multiply. -/
  | fmul (core : CoreRef) (j : Fin 7)
  /-- FMIN, R183: IEEE minimum. -/
  | fmin (core : CoreRef) (j : Fin 7)
  /-- FMAX, R183: IEEE maximum. -/
  | fmax (core : CoreRef) (j : Fin 7)
  /-- FABS, R117: Clears the sign bit. -/
  | fabs (core : CoreRef) (j : Fin 7)
  /-- FNEG, R117: Inverts the sign bit. -/
  | fneg (core : CoreRef) (j : Fin 7)
  /-- FFMA, R120: Fused multiply-add with vector operands. -/
  | ffma (core : CoreRef) (j : Fin 7)
  /-- FFMA_UB, R120: Fused multiply-add with B uniform. -/
  | ffmaUb (core : CoreRef) (j : Fin 7)
  /-- FFMA_UC, R120: Fused multiply-add with C uniform. -/
  | ffmaUc (core : CoreRef) (j : Fin 7)
  /-- FFMA_UBC, R120: Fused multiply-add with B and C uniform. -/
  | ffmaUbc (core : CoreRef) (j : Fin 7)
  /-- FRCP, R121: Reciprocal on the special-function unit. -/
  | frcp (core : CoreRef) (j : Fin 7)
  /-- FRSQRT, R121: Reciprocal square root on the special-function unit. -/
  | frsqrt (core : CoreRef) (j : Fin 7)
  /-- FEXP2, R121: Base-2 exponential on the special-function unit. -/
  | fexp2 (core : CoreRef) (j : Fin 7)
  /-- FLOG2, R121: Base-2 logarithm on the special-function unit. -/
  | flog2 (core : CoreRef) (j : Fin 7)
  /-- SETP_S, R122: Signed compare into a predicate. -/
  | setpS (core : CoreRef) (j : Fin 7)
  /-- SETP_U, R122: Unsigned compare into a predicate. -/
  | setpU (core : CoreRef) (j : Fin 7)
  /-- SETP_F, R122: binary32 compare into a predicate. -/
  | setpF (core : CoreRef) (j : Fin 7)
  /-- PLOG, R123: Predicate logic. -/
  | plog (core : CoreRef) (j : Fin 7)
  /-- CVT, R124: Format conversion selected by M. -/
  | cvt (core : CoreRef) (j : Fin 7)
  /-- UADD, R117: Uniform add. -/
  | uadd (core : CoreRef) (j : Fin 7)
  /-- USUB, R117: Uniform subtract. -/
  | usub (core : CoreRef) (j : Fin 7)
  /-- UMUL, R117: Uniform multiply, low 32 bits. -/
  | umul (core : CoreRef) (j : Fin 7)
  /-- UAND, R117: Uniform AND. -/
  | uand (core : CoreRef) (j : Fin 7)
  /-- UOR, R117: Uniform OR. -/
  | uor (core : CoreRef) (j : Fin 7)
  /-- UXOR, R117: Uniform XOR. -/
  | uxor (core : CoreRef) (j : Fin 7)
  /-- USHL, R117: Uniform shift left. -/
  | ushl (core : CoreRef) (j : Fin 7)
  /-- USHR, R117: Uniform logical shift right. -/
  | ushr (core : CoreRef) (j : Fin 7)
  /-- UADDI, R117: Uniform add immediate. -/
  | uaddi (core : CoreRef) (j : Fin 7)
  /-- UMOVI, R117: Uniform move immediate. -/
  | umovi (core : CoreRef) (j : Fin 7)
  /-- U_GET, R125: Reads one lane's vector register into a uniform register. -/
  | uGet (core : CoreRef) (j : Fin 7)
  /-- VOTE, R125: Ballot of a predicate into a uniform register. -/
  | vote (core : CoreRef) (j : Fin 7)
  /-- SHFL, R125: Tour-wide lane shuffle. -/
  | shfl (core : CoreRef) (j : Fin 7)
  /-- LD_L, R87: CLM load. -/
  | ldL (core : CoreRef) (j : Fin 7)
  /-- ST_L, R87: CLM store. -/
  | stL (core : CoreRef) (j : Fin 7)
  /-- LD_S, R88: Own-shelf load over the private channel. -/
  | ldS (core : CoreRef) (j : Fin 7)
  /-- ST_S, R194: Own-shelf store, whole words to the channel and narrow words to the merge buffer. -/
  | stS (core : CoreRef) (j : Fin 7)
  /-- LD_G, R90: Global load split into egress requests per 64 B block. -/
  | ldG (core : CoreRef) (j : Fin 7)
  /-- ST_G, R90: Posted global store. -/
  | stG (core : CoreRef) (j : Fin 7)
  /-- ATOM_L, R131: CLM atomic. -/
  | atomL (core : CoreRef) (j : Fin 7)
  /-- ATOM_S, R198: Own-shelf atomic. -/
  | atomS (core : CoreRef) (j : Fin 7)
  /-- ATOM_G, R131: Global atomic. -/
  | atomG (core : CoreRef) (j : Fin 7)
  /-- RED_G, R132: Posted global reduction with lane combining. -/
  | redG (core : CoreRef) (j : Fin 7)
  /-- MESH_PUT, R133: Tour-wide 64 B put to another core's CLM. -/
  | meshPut (core : CoreRef) (j : Fin 7)
  /-- BR, R134: Relative branch. -/
  | br (core : CoreRef) (j : Fin 7)
  /-- BRX, R134: Indirect branch. -/
  | brx (core : CoreRef) (j : Fin 7)
  /-- EXIT, R135: Marks the issuing threads exited. -/
  | exit (core : CoreRef) (j : Fin 7)
  /-- TRAP, R135: Raises fault 0x30 + imm. -/
  | trap (core : CoreRef) (j : Fin 7)
  /-- TOUR_SYNC, R136: Tour-wide reconvergence point. -/
  | tourSync (core : CoreRef) (j : Fin 7)
  /-- TOUR_YIELD, R83: Tour-wide yield that starts an exchange when the pending set is not empty. -/
  | tourYield (core : CoreRef) (j : Fin 7)
  /-- FENCE, R137: Waits until the selected spaces are settled. -/
  | fence (core : CoreRef) (j : Fin 7)
  /-- BEAT_READ, R138: Reads the beat counter into a uniform pair. -/
  | beatRead (core : CoreRef) (j : Fin 7)
  /-- BEAT_WAIT, R138: Issues once the beat counter reaches uA. -/
  | beatWait (core : CoreRef) (j : Fin 7)
  /-- MX_TILE, R158: Loads a stationary tile into the shadow buffer. -/
  | mxTile (core : CoreRef) (j : Fin 7)
  /-- MX_RUN, R160: Streams vectors or steps through the array into an accumulator tile. -/
  | mxRun (core : CoreRef) (j : Fin 7)
  /-- MX_ACC_CLEAR, R157: Clears an accumulator tile and sets its type. -/
  | mxAccClear (core : CoreRef) (j : Fin 7)
  /-- MX_ACC_STORE, R157: Stores an accumulator tile as a 1,024 B image. -/
  | mxAccStore (core : CoreRef) (j : Fin 7)
  /-- MX_ACC_LOAD, R157: Loads an accumulator tile from an image. -/
  | mxAccLoad (core : CoreRef) (j : Fin 7)
  /-- MX_ENC, R141: Encodes lanes into an MX block and updates the running maximum. -/
  | mxEnc (core : CoreRef) (j : Fin 7)
  /-- MX_DEC, R142: Decodes an MX block into lanes. -/
  | mxDec (core : CoreRef) (j : Fin 7)
  /-- INSTRUCTION_RESULT_WRITE, R115: A result is written at the end of GCLK g + r − 1. -/
  | instructionResultWrite (core : CoreRef) (j : Fin 7)
  /-- TOUR_SWAP_START, R85: An exchange or swap-in begins at the first GCLK meeting its conditions. -/
  | tourSwapStart (core : CoreRef) (j : Fin 7) (crcRead : List Nat) (crcWrite : List Nat)
  /-- TOUR_SWAP_COMPLETE, R85: The incoming tour becomes issuable. -/
  | tourSwapComplete (core : CoreRef) (j : Fin 7)
  /-- CHANNEL_TRANSFER_START, R86: A transfer starts in its channel direction once that direction is free. -/
  | channelTransferStart (core : CoreRef) (j : Fin 7) (write : Bool) (crcBad : List Nat)
  /-- MERGE_BUFFER_TIMEOUT, R195: An open merge entry still open at g_o + 3 leaves as an RMW at g_o + 4. -/
  | mergeBufferTimeout (core : CoreRef) (j : Fin 7)
  /-- SHELF_RMW_READ, R196: An RMW reads its word at the first free GCLK of the read direction. -/
  | shelfRmwRead (core : CoreRef) (j : Fin 7) (crcBad : Bool)
  /-- SHELF_RMW_WRITE, R196: An RMW writes the merged word at t_w, or writes nothing when the read was uncorrectable. -/
  | shelfRmwWrite (core : CoreRef) (j : Fin 7) (crcBad : Bool)
  /-- EGRESS_TAKE, R89: The cabinet egress takes a core's request in that core's GCLK slot. -/
  | egressTake (core : CoreRef) (j : Fin 7)
  /-- GLOBAL_LOAD_RETURN, R91: A global load's last request returns and its result becomes usable. -/
  | globalLoadReturn (core : CoreRef) (j : Fin 7)
  /-- POSTED_WRITE_ACK, R103: A posted store or reduction is acknowledged to its cabinet. -/
  | postedWriteAck (req : Nat) (j : Fin 7)
  /-- MESH_PUT_DELIVERY, R92: A mesh flit crosses the routers and is written into the target CLM. -/
  | meshPutDelivery (flit : Nat) (j : Fin 7)
  /-- SHADOW_ARMED, R158: The shadow buffer becomes ARMED at the tile image's ready time. -/
  | shadowArmed (core : CoreRef) (j : Fin 7)
  /-- ARRAY_RUN_ENTRY, R161: A run's first vector or step enters the array at e₀. -/
  | arrayRunEntry (core : CoreRef) (j : Fin 7)
  /-- ARRAY_TILE_WRITE, R162: A run writes its output words into the accumulator tile. -/
  | arrayTileWrite (core : CoreRef) (j : Fin 7)
  /-- ACC_LOAD_COMPLETE, R163: An mx.acc load sets the tile and its type at ρ. -/
  | accLoadComplete (core : CoreRef) (j : Fin 7)
  /-- GATEWAY_REQUEST, R200: A request enters the shelf gateway and is presented to the target core's channel. -/
  | gatewayRequest (cab : CabRef) (j : Fin 7)
  /-- IDLE_CHECK_PASS, R206: A channel idle check completes a pass of check patterns over all bonds. -/
  | idleCheckPass (site : SiteRef) (failGa : Nat) (failUl : Nat)
  /-- IDLE_CHECK_LATE, R206: An idle check has not completed 1 s after falling due, and CHECK_LATE is set. -/
  | idleCheckLate (site : SiteRef)
  /-- SLICE_LOAD, R227: A slice serves a load as a hit, miss, bypass or uncached access. -/
  | sliceLoad (slice : Fin 512) (req : Nat) (j : Fin 5)
  /-- SLICE_STORE, R227: A slice serves a store of whole or partial sectors. -/
  | sliceStore (slice : Fin 512) (req : Nat) (j : Fin 5)
  /-- SLICE_ATOMIC, R227: A slice applies an atom.g and returns the old value. -/
  | sliceAtomic (slice : Fin 512) (req : Nat) (j : Fin 5)
  /-- SLICE_REDUCTION, R231: A slice applies a red.g reduction, merging into the write-back buffer when the line is held there. -/
  | sliceReduction (slice : Fin 512) (req : Nat) (j : Fin 5)
  /-- SLICE_FILL_COMPLETE, R222: A fetch completes, and the line is placed whole or in a half and served to its waiters. -/
  | sliceFillComplete (slice : Fin 512) (j : Fin 5)
  /-- WRITE_BACK_ACK, R233: The controller acknowledges a write-back and frees its buffer entry. -/
  | writeBackAck (slice : Fin 512) (j : Fin 5)
  /-- RANGE_PREFETCH, R236: A prefetch line request makes the line most recent or allocates and fetches it. -/
  | rangePrefetch (slice : Fin 512) (req : Nat) (j : Fin 5)
  /-- RANGE_FLUSH, R236: A flush line request copies a dirty line to the write-back buffer and marks it clean. -/
  | rangeFlush (slice : Fin 512) (req : Nat) (j : Fin 5)
  /-- RANGE_INVALIDATE, R236: An invalidate line request drops or writes back the line. -/
  | rangeInvalidate (slice : Fin 512) (req : Nat) (j : Fin 5)
  /-- RANGE_DEAD, R236: A dead line request marks the line DEAD and discards dirty data. -/
  | rangeDead (slice : Fin 512) (req : Nat) (j : Fin 5)
  /-- CONTROLLER_REQUEST_ARRIVAL, R252: A slice request or write-back arrives at the controller and queues for a window. -/
  | controllerRequestArrival (pch : Fin 1024) (j : Fin 5)
  /-- DRAM_WINDOW, R252: A request takes its DRAM window, and any clash wait is counted. -/
  | dramWindow (pch : Fin 1024) (j : Fin 5)
  /-- DRAM_DATA_RETURN, R252: Load data or an old value returns to the slice, checked by the vault code. -/
  | dramDataReturn (pch : Fin 1024) (j : Fin 5)
  /-- REFRESH_WINDOW_START, R254: A pseudo-channel's refresh window begins and the restricted table applies. -/
  | refreshWindowStart (pch : Fin 1024)
  /-- REFRESH_WINDOW_END, R254: A refresh window ends after 64 beats. -/
  | refreshWindowEnd (pch : Fin 1024)
  /-- REFRESH_MULTIPLIER_CHANGE, R255: A new refresh multiplier takes effect at a multiple of 976 beats. -/
  | refreshMultiplierChange (vault : Fin 16)
  /-- NEAR_BANK_MODE_SWITCH, R258: A mode write takes effect once no request holds an unserved window under the old table. -/
  | nearBankModeSwitch (pch : Fin 1024)
  /-- NB_WINDOW_READ, R262: A near-bank window read returns data at t + 40 PCLK. -/
  | nbWindowRead (req : Nat) (j : Fin 5)
  /-- NB_WINDOW_WRITE, R262: A near-bank window write takes effect at the first CCLK at or after t + 20. -/
  | nbWindowWrite (req : Nat) (j : Fin 5)
  /-- NB_WINDOW_ACCESS_AFTER_WAKE, R262: A window access to an OFF conservator takes effect after the 2,500-beat wake. -/
  | nbWindowAccessAfterWake (req : Nat) (j : Fin 5)
  /-- CSV_START, R265: A write of CSV_CTL.START moves a halted or faulted conservator to RUNNING. -/
  | csvStart (pch : Fin 1024)
  /-- CSV_HALT, R265: A write of CSV_CTL.HALT halts a running conservator at the next instruction boundary. -/
  | csvHalt (pch : Fin 1024)
  /-- CSV_DOORBELL, R266: A doorbell write advances the command ring's TAIL, or sets DOORBELL_OVF. -/
  | csvDoorbell (pch : Fin 1024) (count : BitVec 5)
  /-- CONSERVATOR_SWITCH_OFF, R265: A conservator switched off under R59 goes OFF once no burst is in flight. -/
  | conservatorSwitchOff (pch : Fin 1024)
  /-- RV_INTEGER_ALU, R264: An RV32I ALU, lui or auipc instruction. -/
  | rvIntegerAlu (pch : Fin 1024) (j : Fin 4)
  /-- RV_BRANCH_JUMP, R264: An RV32I branch, jal or jalr. -/
  | rvBranchJump (pch : Fin 1024) (j : Fin 4)
  /-- RV_LOAD, R264: A load from a mapped window offset. -/
  | rvLoad (pch : Fin 1024) (j : Fin 4)
  /-- RV_STORE, R264: A store to the D-SRAM or the result slots. -/
  | rvStore (pch : Fin 1024) (j : Fin 4)
  /-- RV_MUL, R264: An M-extension multiply. -/
  | rvMul (pch : Fin 1024) (j : Fin 4)
  /-- RV_DIV, R264: An M-extension divide or remainder. -/
  | rvDiv (pch : Fin 1024) (j : Fin 4)
  /-- RV_FENCE, R263: fence executes as a 1 CCLK no-op. -/
  | rvFence (pch : Fin 1024) (j : Fin 4)
  /-- ECALL, R263: ecall traps the hart into FAULTED. -/
  | ecall (pch : Fin 1024) (j : Fin 4)
  /-- EBREAK, R263: ebreak traps the hart into FAULTED. -/
  | ebreak (pch : Fin 1024) (j : Fin 4)
  /-- NB_RD, R269: A burst read of n lines into the D-SRAM returns a ticket. -/
  | nbRd (pch : Fin 1024) (j : Fin 4)
  /-- NB_WR, R269: A burst write of n lines from the D-SRAM returns a ticket. -/
  | nbWr (pch : Fin 1024) (j : Fin 4)
  /-- NB_WAIT, R268: Waits until the bursts up to a ticket have completed. -/
  | nbWait (pch : Fin 1024) (j : Fin 4)
  /-- NB_BEAT, R268: Reads the beat counter. -/
  | nbBeat (pch : Fin 1024) (j : Fin 4)
  /-- NB_UNTIL, R268: Waits until the beat counter reaches a value. -/
  | nbUntil (pch : Fin 1024) (j : Fin 4)
  /-- NB_ACFG, R268: Sets the attention format, block size, G and score scale. -/
  | nbAcfg (pch : Fin 1024) (j : Fin 4)
  /-- NB_QLD, R273: Loads G queries and resets the attention state. -/
  | nbQld (pch : Fin 1024) (j : Fin 4)
  /-- NB_ATTN, R273: Runs n token steps of online-softmax attention. -/
  | nbAttn (pch : Fin 1024) (j : Fin 4)
  /-- NB_SCORE, R274: Writes the largest query score for each of n label rows. -/
  | nbScore (pch : Fin 1024) (j : Fin 4)
  /-- NB_OST, R275: Writes G partial records once the state is final. -/
  | nbOst (pch : Fin 1024) (j : Fin 4)
  /-- NB_CMD, R268: Reads the head command slot index. -/
  | nbCmd (pch : Fin 1024) (j : Fin 4)
  /-- NB_DONE, R268: Retires the head command and may post a CSV_DONE event. -/
  | nbDone (pch : Fin 1024) (j : Fin 4)
  /-- NB_FLT, R268: Reads CSV_FAULT. -/
  | nbFlt (pch : Fin 1024) (j : Fin 4)
  /-- BURST_LINE, R269: A burst line performs its DRAM access at its line slot, skipping closed refresh windows. -/
  | burstLine (pch : Fin 1024) (j : Fin 4)
  /-- BURST_COMPLETE, R269: A burst completes at the end of L_(n−1) + 68. -/
  | burstComplete (pch : Fin 1024) (j : Fin 4)
  /-- ATTENTION_STATE_FINAL, R273: The attention unit's state becomes final after an nb.attn. -/
  | attentionStateFinal (pch : Fin 1024) (j : Fin 4)
  /-- PACE_LEVEL_CHANGE, R276: A new pace level takes effect at a multiple of 976 beats. -/
  | paceLevelChange (vault : Fin 16)
  /-- COPY, R288: A courier copies rows of bytes from SRC to DST. -/
  | copy (eng : Fin 48) (ctx : Fin 9) (j : Fin 5)
  /-- FILL, R289: A courier writes a repeated pattern over a range. -/
  | fill (eng : Fin 48) (ctx : Fin 9) (j : Fin 5)
  /-- RANGE, R290: A courier sends one range line request per 128 B line. -/
  | range (eng : Fin 48) (ctx : Fin 9) (j : Fin 5)
  /-- WINDOW, R291: A courier writes transpose windows into one core's shelf. -/
  | window (eng : Fin 48) (ctx : Fin 9) (j : Fin 5)
  /-- TRANSPOSE, R292: The transposer transposes a matrix tile by tile. -/
  | transpose (eng : Fin 48) (ctx : Fin 9) (j : Fin 5)
  /-- FRAME, R294: A framer converts elements between formats and scales. -/
  | frame (eng : Fin 48) (ctx : Fin 9) (j : Fin 5)
  /-- TOPK, R299: The sorter writes the positions of the top K keys. -/
  | topk (eng : Fin 48) (ctx : Fin 9) (j : Fin 5)
  /-- ENGINE_READ_ISSUE, R283: An engine issues a source read once buffer room and order allow. -/
  | engineReadIssue (eng : Fin 48) (ctx : Fin 9) (j : Fin 5)
  /-- ENGINE_READ_RETURN, R284: A source read returns to the engine, possibly poisoned or with a host error. -/
  | engineReadReturn (eng : Fin 48) (ctx : Fin 9) (j : Fin 5) (host : HostReply)
  /-- FLIT_ENTRY, R285: A flit enters the engine intake in its context's slot. -/
  | flitEntry (eng : Fin 48) (ctx : Fin 9) (j : Fin 5)
  /-- ENGINE_WRITE_ISSUE, R286: An engine issues a write at the PCLK its op gives. -/
  | engineWriteIssue (eng : Fin 48) (ctx : Fin 9) (j : Fin 5)
  /-- ENGINE_WRITE_ACK, R286: An engine write is acknowledged. -/
  | engineWriteAck (eng : Fin 48) (ctx : Fin 9) (j : Fin 5) (hostError : Bool)
  /-- DESCRIPTOR_DONE, R286: A descriptor is done after its last acknowledgement and reports done or posts its completion. -/
  | descriptorDone (eng : Fin 48) (ctx : Fin 9) (j : Fin 5)
  /-- ENGINE_DESCRIPTOR_TIMEOUT, R306: A ring-driven descriptor times out, resetting the port or the stack. -/
  | engineDescriptorTimeout (eng : Fin 48) (ctx : Fin 9)
  /-- HELD_DESCRIPTOR_RELEASE, R279: A ring-driven descriptor held during a stack reset goes to its engine after the reset. -/
  | heldDescriptorRelease (eng : Fin 48)
  /-- ENGINE_STATUS_WRITE, R281: A W1C write to an engine STATUS register, which clears CAUSE when the cause bits all become 0. -/
  | engineStatusWrite (eng : Fin 48) (value : BitVec 32)
  /-- CONFIG_REQUEST, R311: The port answers a PCIe configuration request. -/
  | configRequest (port : Fin 8) (write : Bool) (offset : BitVec 12) (value : BitVec 32)
  /-- BAR2_READ, R317: A BAR2 read is served as unscheduled traffic of the port's class. -/
  | bar2Read (port : Fin 8) (offset : BitVec 36) (lanes : BitVec 64) (tag : BitVec 10)
  /-- BAR2_WRITE, R317: A BAR2 write is served as unscheduled traffic of the port's class. -/
  | bar2Write (port : Fin 8) (offset : BitVec 36) (lanes : BitVec 64) (data : BitVec 512)
  /-- BAR2_READ_COMPLETION, R317: A BAR2 read completes to the host, with EP set when the data is poisoned. -/
  | bar2ReadCompletion (req : Nat)
  /-- HP_BAR2_BASE_WRITE, R315: A write to HP_BAR2_BASE commits a new base for later requests and moves the epoch. -/
  | hpBar2BaseWrite (who : Requester) (port : Fin 8) (high : Bool) (value : BitVec 32)
  /-- SQ_DOORBELL, R321: A submission-ring doorbell sets the ring's tail, or is ignored. -/
  | sqDoorbell (port : Fin 8) (ring : Fin 32768) (be : BitVec 4) (value : BitVec 32)
  /-- CQ_DOORBELL, R321: A completion- or event-ring doorbell sets the ring's head, or is ignored. -/
  | cqDoorbell (port : Fin 8) (ring : Fin 32768) (be : BitVec 4) (value : BitVec 32)
  /-- RING_ARM, R328: A doorbell with ARM sets the ring's ARMED bit and may send the message at once. -/
  | ringArm (port : Fin 8) (ring : Fin 32768) (be : BitVec 4) (value : BitVec 32)
  /-- FETCH_READ_ISSUE, R323: The registrar issues a fetch of up to 16 descriptors from the ring at the head of the port's queue. -/
  | fetchReadIssue (port : Fin 8) (j : Fin 5)
  /-- FETCH_DATA_RETURN, R323: Fetch data returns from the host. -/
  | fetchDataReturn (port : Fin 8) (j : Fin 5) (data : List (BitVec 512))
  /-- FETCH_TIMEOUT, R447: A fetch read not completed within 25,000,000 beats resets the host port. -/
  | fetchTimeout (port : Fin 8)
  /-- SUBMISSION_NOP, R324: A NOP descriptor is delivered and may post an acceptance. -/
  | submissionNop (ring : Fin 262144)
  /-- RUN, R325: A RUN descriptor is checked and starts a run of a bound timetable. -/
  | run (ring : Fin 262144)
  /-- GATE, R47: A GATE descriptor adds its increment to a gate counter, saturating. -/
  | gate (ring : Fin 262144)
  /-- STOP, R51: A STOP descriptor asks the run to end. -/
  | stop (ring : Fin 262144)
  /-- ENGINE, R325: An ENGINE descriptor is checked and passed to its engine's unscheduled context. -/
  | engine (ring : Fin 262144)
  /-- ACCEPTANCE_COMPLETION_POST, R326: An acceptance or failure completion is posted at delivery beat + 1. -/
  | acceptanceCompletionPost (ring : Fin 262144)
  /-- HELD_ENTRY_WRITE, R329: A held entry is written once the host frees ring space. -/
  | heldEntryWrite (ring : Fin 262144)
  /-- RGS_JOB_HELD_CLEAR, R338: Writing 1 to RGS_JOB.HELD clears it, and fetching resumes at the next beat. -/
  | rgsJobHeldClear (part : Fin 8)
  /-- MAILBOX_GO, R341: A GO write captures the command block and queues it, or is ignored. -/
  | mailboxGo (chan : Fin 33)
  /-- COMMAND_ARRIVAL, R342: A queued command arrives at the first beat boundary after its GO. -/
  | commandArrival (chan : Fin 33)
  /-- COMMAND_END, R342: A command ends at start + T, writing its response, setting DONE and signalling. -/
  | commandEnd
  /-- MAILBOX_COMMAND_TIMEOUT, R343: A command not ended 1 ms after its exact end resets the curator and gets TIMED_OUT. -/
  | mailboxCommandTimeout
  /-- NOP, R353: Mailbox NOP. -/
  | nop
  /-- MODULE_QUERY, R354: Returns the module state, settings, firmware versions and epoch. -/
  | moduleQuery
  /-- CAPS_READ, R354: Returns the capability words. -/
  | capsRead
  /-- PARTITION_QUERY, R354: Returns a partition's resources. -/
  | partitionQuery
  /-- LOG_READ, R354: Returns up to three error log entries. -/
  | logRead
  /-- THERMAL_GRACE_SET, R361: Sets the grace time for new thermal episodes. -/
  | thermalGraceSet
  /-- ESCALATION_SET, R361: Sets the escalation count and window. -/
  | escalationSet
  /-- ACCOUNT_SET, R361: Sets a partition's energy SHARE. -/
  | accountSet
  /-- PARTITION_CREATE, R355: Creates a partition with the named resources and builds its wing maps. -/
  | partitionCreate
  /-- PARTITION_COMMIT, R356: Locks the partition's RWL fields and applies VC_CTL and VC_WAYS. -/
  | partitionCommit
  /-- PARTITION_RENEW, R356: Renews a committed partition as a creation while keeping its resources. -/
  | partitionRenew
  /-- PARTITION_DESTROY, R357: Tears down a partition and frees its resources. -/
  | partitionDestroy
  /-- GRANULE_ASSIGN, R358: Assigns a vault granule as interleaved or pinned. -/
  | granuleAssign
  /-- GRANULE_RELEASE, R358: Writes back a granule's lines and unassigns it. -/
  | granuleRelease
  /-- GRANULE_SHARE, R358: Sets or clears a pinned granule's conservator-shared mark. -/
  | granuleShare
  /-- NB_MODE, R359: Enters or leaves near-bank mode for a pseudo-channel. -/
  | nbMode
  /-- RING_CREATE, R360: Creates a ring. -/
  | ringCreate
  /-- RING_DELETE, R360: Deletes a ring. -/
  | ringDelete
  /-- TIMETABLE_BIND, R44: Checks and binds a timetable image to a handle. -/
  | timetableBind
  /-- TIMETABLE_UNBIND, R360: Unbinds a timetable handle. -/
  | timetableUnbind
  /-- RETIRE, R361: Adds a retirement record to the flash table. -/
  | retire
  /-- DOMAIN_RESET, R361: Resets a host-port, stack or vault domain on request. -/
  | domainReset
  /-- FW_CHUNK, R364: Writes 192 B of image into the non-running slot. -/
  | fwChunk
  /-- FW_UPDATE, R364: Checks an image, writes it and marks its slot preferred. -/
  | fwUpdate
  /-- FW_SECURITY_RAISE, R365: Raises the fused SECURITY_MIN and revokes lower key slots. -/
  | fwSecurityRaise
  /-- REGISTER_WRITE, R10: A write to a register with no row of its own acts by its access code. -/
  | registerWrite (who : Requester) (offset : BitVec 26) (be : BitVec 4) (value : BitVec 32)
  /-- REGISTER_LOW_HALF_READ, R9: A read of a 64-bit register's low half latches the high half for that requester. -/
  | registerLowHalfRead (who : Requester) (offset : BitVec 26)
  /-- REGISTER_LOW_HALF_WRITE, R9: A write to a 64-bit register's low half is held for that requester. -/
  | registerLowHalfWrite (who : Requester) (offset : BitVec 26) (value : BitVec 32)
  /-- REGISTER_HIGH_HALF_WRITE, R9: A write to a 64-bit register's high half commits both halves, or the high half alone. -/
  | registerHighHalfWrite (who : Requester) (offset : BitVec 26) (value : BitVec 32)
  /-- SEQ_LANES_WRITE, R34: A host write of the lane grant before commitment, accepted only without overlap. -/
  | seqLanesWrite (part : Fin 8) (value : BitVec 32)
  /-- VC_WAYS_WRITE, R218: A host write of the way mask before commitment, accepted only without overlap. -/
  | vcWaysWrite (part : Fin 8) (value : BitVec 32)
  /-- SEQ_SVC_WRITE, R38: Sets the reclaim opt-ins, which apply from the next beat boundary. -/
  | seqSvcWrite (part : Fin 8) (value : BitVec 32)
  /-- EPOCH_REGISTER_WRITE, R351: A value-changing write to SEQ_TIER_CAP, SEQ_WAIT_EVT or VC_CTL moves the epoch. -/
  | epochRegisterWrite (who : Requester) (offset : BitVec 26) (value : BitVec 32)
  /-- PWR_INPUT_LIMIT_WRITE, R381: Sets the input limit, clamped to 2,000-8,000 W, effective at the next 250,000-beat boundary. -/
  | pwrInputLimitWrite (value : BitVec 32)
  /-- ERR_LOG_HEAD_WRITE, R423: Advances the log ring's head, or is ignored if out of range. -/
  | errLogHeadWrite (value : BitVec 32)
  /-- ERR_SRC_SEL_WRITE, R422: Selects a source and latches its first, last and lost views. -/
  | errSrcSelWrite (stack : Fin 8) (value : BitVec 32)
  /-- ERR_SRC_CLR, R422: Clears the selected source's first, last and lost records. -/
  | errSrcClr (stack : Fin 8) (value : BitVec 32)
  /-- RAW_READ, R414: Starts a raw read of a codeword that bypasses the checker. -/
  | rawRead (value : BitVec 32)
  /-- RAW_WRITE, R414: Starts a raw write of data and check bits. -/
  | rawWrite (value : BitVec 32)
  /-- RAW_MODE_ENABLE, R415: Setting ERR_RAW_CTL.ENABLE pauses every scrubber. -/
  | rawModeEnable (value : BitVec 32)
  /-- RAW_OPERATION_DONE, R414: A raw operation completes after its fixed time, or is refused. -/
  | rawOperationDone
  /-- CURRENT_REPORT, R374: Every 1 ms, the VPS's mean rail and input readings appear in the PWR registers. -/
  | currentReport (volts : BitVec 16) (amps : BitVec 16) (rails : List (BitVec 16))
  /-- MODEL_RUN, R392: At the result beat, the thermal model's temperatures and the decisions resting on them take effect. -/
  | modelRun (sensors : List (BitVec 12)) (coolant : BitVec 12) (coolantBroken : Bool)
  /-- TRIP_RAIL_SHUTDOWN, R403: 2,500 beats after a trip, the VPS switches off the wing, archive and vault rails. -/
  | tripRailShutdown
  /-- CYCLE_COUNT_FLASH_WRITE, R406: The curator writes a new cycle count to flash within 1 s of the increment. -/
  | cycleCountFlashWrite (stack : Fin 8)
  /-- SENSOR_SELF_CHECK, R393: Every sensor runs its 60 s self-check. -/
  | sensorSelfCheck (failed : List Nat)
  /-- ALLOWED_POWER_EFFECT, R381: New allowed powers, limit or guard take effect at a 250,000-beat boundary. -/
  | allowedPowerEffect
  /-- ALWAYS_ON_TRIP_CHECK, R445: During a curator reset, the always-on domain compares sensors with trip limits every 250,000 beats. -/
  | alwaysOnTripCheck (sensors : List (BitVec 12))
  /-- RAIL_FAULT, R369: A rail out of band or over current for 250 beats is switched off and its domain reset. -/
  | railFault (rail : Fin 210)
  /-- COLLECTOR_REPORT, R420: A checker report reaches its collector and matches or creates an entry, or is lost. -/
  | collectorReport (stack : Fin 8) (soft : Option Report)
  /-- COLLECTOR_ENTRY_CLOSE, R421: A collector entry closes at f + 250,000. -/
  | collectorEntryClose (stack : Fin 8)
  /-- LOG_ENTRY_WRITE, R421: A closed entry is written into the log ring at f + 252,500. -/
  | logEntryWrite (stack : Fin 8)
  /-- SCRUB_READ, R416: A scrubber reads one codeword in an idle cycle. -/
  | scrubRead (cycle : ScrubCycle)
  /-- SCRUB_WRITE_BACK, R417: A scrub writes back a corrected codeword, or poison, unless the word was written since. -/
  | scrubWriteBack (cycle : ScrubCycle)
  /-- SCRUB_LAP_LATE, R418: A lap not completed within 86,400 s sets SCRUB_LATE. -/
  | scrubLapLate (unit : ScrubUnit)
  /-- SIDEBAND_WRITE, R464: An I3C private write with first byte 0x10 writes words to the sideband view. -/
  | sidebandWrite (offset : BitVec 32) (bytes : List (BitVec 8))
  /-- SIDEBAND_SET_POINTER, R464: An I3C private write with first byte 0x20 sets the read pointer. -/
  | sidebandSetPointer (offset : BitVec 32)
  /-- SIDEBAND_READ, R464: An I3C private read returns words from the pointer and advances it. -/
  | sidebandRead (words : Nat)
  /-- HOT_JOIN, R463: The sideband target requests Hot-Join. -/
  | hotJoin
  /-- ENEC, R463: CCC that enables target events. -/
  | enec (events : BitVec 8)
  /-- DISEC, R463: CCC that disables target events. -/
  | disec (events : BitVec 8)
  /-- RSTDAA, R463: CCC that resets the dynamic address. -/
  | rstdaa
  /-- ENTDAA, R463: CCC for dynamic address assignment. -/
  | entdaa (addr : BitVec 7)
  /-- SETDASA, R463: CCC that sets the dynamic address from the static address. -/
  | setdasa (staticAddr : BitVec 7) (addr : BitVec 7)
  /-- SETNEWDA, R463: CCC that sets a new dynamic address. -/
  | setnewda (addr : BitVec 7)
  /-- GETPID, R463: CCC that returns the provisioned ID. -/
  | getpid
  /-- GETBCR, R463: CCC that returns BCR 0x06. -/
  | getbcr
  /-- GETDCR, R463: CCC that returns DCR 0x00. -/
  | getdcr
  /-- GETSTATUS, R463: CCC that returns the target status. -/
  | getstatus
  /-- GETMXDS, R463: CCC that returns the maximum data speed. -/
  | getmxds
  /-- JTAG_TRST, R466: Assertion of JTAG_TRST_N resets the TAP. -/
  | jtagTrst
  /-- IDCODE, R466: The TAP returns IDCODE 0x2916_0FFF. -/
  | idcode
  /-- EXTEST, R467: Boundary-scan EXTEST, effective only during module reset. -/
  | extest
  /-- CLAMP, R467: Boundary-scan CLAMP, effective only during module reset. -/
  | clamp
  /-- HIGHZ, R467: Boundary-scan HIGHZ, effective only during module reset. -/
  | highz
  /-- JTAG_BYPASS, R467: The TAP selects the bypass register. -/
  | jtagBypass
  /-- CONSERVATOR_COMMAND_TIMEOUT, R447: A conservator command has stood at HEAD for 2,500,000 beats while its conservator is RUNNING, so the vault is reset with cause 5. -/
  | conservatorCommandTimeout (pch : Fin 1024)
  /-- PCIE_LINK_UP, R442: PCIe link training of a host port completes with its partner, and the link is up at the rate and width that HP_LINK reports. -/
  | pcieLinkUp (port : Fin 8) (rate : BitVec 3) (width : BitVec 5) (flit : Bool)
  /-- INPUT_BELOW_20_V, R469: The 54 V input falls below 20 V, the always-on rail leaves regulation, and the trip latch's 1 s timer starts on the holdup store. -/
  | inputBelow20V
  /-- INPUT_RISES_ABOVE_20_V, R470: The input rises above 20 V, which restarts the trip timer and brings the always-on rail, crystal and beat PLL up in turn. -/
  | inputRisesAbove20V
deriving DecidableEq, Repr

end Sys2Proof
end

