-- ==== Sys2Proof/Decode.lean ====
section
/-! DEFINITION. The host's reading of a command word. The opcode table gives no row a bit, so no word spells a command. -/

namespace Sys2Proof

/-- The command that a word spells by the table's bits: none, since every row's list of fields is empty. -/
def decodeTableWord (_nbits _w : Nat) : Option Instr := none

end Sys2Proof
end

