-- ==== Sys2Proof/Config.lean ====
section
/-! DEFINITION. What an individual module or its firmware fixes, and the values the spec leaves open. Every constant here is
opaque: no proof can see its value. -/

namespace Sys2Proof.Config

/-- A value that the spec leaves open, fresh for each number the state's counter `free` gives out. -/
opaque freeWord : Nat → Word
/-- As `freeWord`, for a 64 B block. -/
opaque freeBlock : Nat → Block
/-- What an erased byte of a firmware slot reads as (R364, R440 give no value). -/
opaque flashErased : Byte
/-- The unit of a stack in which a raw operation finds its codeword: 10w + cabinet site for a shelf, the slice for a slice.
ERR_RAW_LOC follows the LOCATION layout of R419, and no field of it is said to name that unit. -/
opaque rawUnit : (target : Nat) → (loc : BitVec 64) → Nat
/-- Where a capability of configuration space lies: 0 MSI-X, 1 power management, 2 PCI Express (R311 names them and no place). -/
opaque capability : (kind : Nat) → Nat
/-- What a word of configuration space holds in the bits that R311 does not fix, until it is written (the device's names among them). -/
opaque configWord : (word : Nat) → Word
/-- The low bits of the module serial number (R463). -/
opaque serial : BitVec 14
/-- The four key hashes in the fuses (R362). -/
opaque keyHash : Nat → BitVec 384
/-- The tour whose registers hold the word of a register-file LOCATION, which has a byte offset and no tour (R419). -/
opaque registerTour : (loc : BitVec 48) → Nat
/-- The flit of its descriptor that an engine-buffer LOCATION's 64-bit word holds (R419). -/
opaque bufferFlit : (loc : BitVec 48) → Nat
/-- The footprints beside a footprint of a stack (R390 has lateral links between them; the spec lays no two of them side by side). -/
opaque besideFootprint : (footprint : Nat) → List Nat
/-- One run of the thermal network for one region (R390, R391): its new temperature in 0.125 °C, from its own before the run, those of the
nodes it is linked to vertically and laterally with their regions, the mean powers in µW of the rails that cover it, and the boundary temperature. The
coefficients and the rails' proportions belong to the firmware image that runs and to the module's calibration record, and `calibrated`
says whether that record is used. -/
opaque thermalNode : (image : List Byte) → (calibrated : Bool) → (region : Nat) → (own : Int) → (linked : List (Nat × Int)) →
  (powers : List Nat) → (boundary : Int) → Int

end Sys2Proof.Config
end

