-- ==== Sys2Proof/Machine/State.lean ====
section
/-! DEFINITION. The state of the module: every register, memory, queue, counter, mode and pin the spec gives it, as plain
data. Units that come in thousands are held as sparse maps keyed by the module-wide index of the unit; a unit that is not
listed is in the state its default names. Times are values of the beat counter, of PCLK (5 × beat + edge), of CCLK
(4 × beat + edge) or of the wing time of `Wing.gOff`. -/

namespace Sys2Proof.Machine

/-- Where the model stops with a fault. No rule of the spec stops the module for good: a job fault, a reset and the
deaccessioned state are states the module goes on from. -/
inductive Fault where
  /-- The beat counter would pass 2⁶⁴ − 1 (R30 gives it 64 bits and no wrap). Raised by BEAT_TICK. Safe: it stops. -/
  | beatCounterEnd
deriving DecidableEq, Repr

/-- Why the model gives a command no meaning. -/
inductive Refusal where
  /-- The command has no meaning yet. Raised by Dispatch alone. Safe: it stops. -/
  | notModelled (mnemonic : String)
  /-- The command's operands are not ones its row can carry (WellFormed). Safe: it stops. -/
  | illFormed
deriving DecidableEq, Repr

/-! ### Module flash, fuses, bring-up and the always-on domain -/

/-- One firmware slot of the module flash (R362, R363): its bytes, and the length recorded for it. -/
structure FwSlot where
  bytes : List Host.Cell := []
  len : Option Nat := none
deriving DecidableEq, Repr

/-- The module flash (R18, R363, R391, R406, R425, R433). -/
structure Flash where
  slotA : FwSlot := {}
  slotB : FwSlot := {}
  /-- The slot marked preferred: false A, true B. -/
  preferredB : Bool := false
  /-- The retirement table, oldest first (R425). -/
  retire : List (BitVec 256) := []
  /-- Spare rows of shelf banks that have failed, as `shelfRow` numbers rows (R209; the model's own note). -/
  failedSpares : List Nat := []
  /-- THM_CYCLES as written to flash, by stack (R406). -/
  cycles : SMap Nat := []
  /-- The vaults whose saved training settings can be used (R433). -/
  savedTraining : BitVec 16 := 0
  /-- The calibration record is present and its CRC is right (R391). -/
  calibrationOk : Bool := false
deriving DecidableEq, Repr

/-- The fuses (R362, R365, R434). -/
structure Fuses where
  securityMin : Nat := 0
  keyRevoked : BitVec 4 := 0
  /-- Repair marks blown at manufacturing test, as retirement records (R434). -/
  repair : List (BitVec 256) := []
  /-- Lanes of bridges and crossings marked bad: direction, group of 64 and lane (R434). -/
  lanes : List (Nat × Nat × Nat) := []
  /-- Wires of mesh links marked bad: the two cabinet sites, 10 × wing + site, and the wire (R434). -/
  wires : List (Nat × Nat × Nat) := []
  /-- Conservator sites marked bad: vault and site (R434, R436). -/
  csvSites : List (Nat × Nat) := []
deriving DecidableEq, Repr

/-- An operation of firmware recovery in progress (R440). -/
inductive RecoveryOp where
  | erase
  | check
deriving DecidableEq, Repr

/-- The power supervisor and the conditions of module reset (R428, R469). -/
structure Supervisor where
  /-- Module reset is asserted. -/
  inReset : Bool := true
  modRstLow : Bool := false
  inputOut : Bool := false
  railOut : Bool := false
  pllOut : Bool := false
  /-- The input lies below 20 V and the trip latch's timer runs (R405, R469). -/
  below20 : Bool := false
  /-- The rails that are on (R429), by rail index (R368); the wing rails stand in `Wing`. -/
  rails : SMap Bool := []
  /-- Rails that a fault has switched off, up to the end of their domain's reset (R369). -/
  railsDown : List Nat := []
  /-- The TAP controller is in Test-Logic-Reset; otherwise, between commands, in Run-Test/Idle (R466). -/
  tapReset : Bool := true
  /-- The boundary-scan register, a bit for each signal that it covers (R456, R466): HP0 to HP7_PERST_N, SB_SCL, SB_SDA, ALERT_N, THERM_TRIP_N,
  MOD_RST_N, LEGACY_SEL, ADDR_SEL[0], ADDR_SEL[1]. -/
  scan : BitVec 16 := 0
deriving DecidableEq, Repr

/-- The always-on domain and the CUR block (R24, R346, R375, R429 to R451, R461). -/
structure Boot where
  valid : Bool := false
  legacy : Bool := false
  addrSel : BitVec 2 := 0
  stage : BitVec 4 := 1
  /-- The beat at which the stage in progress began (R429). -/
  stageAt : Nat := 0
  slotRun : BitVec 2 := 0
  failA : Bool := false
  failB : Bool := false
  check : BitVec 8 := 0
  failKind : BitVec 4 := 0
  failIndex : BitVec 12 := 0
  failStage : BitVec 4 := 0
  /-- Register writes of the present beat: by register, the beat, how many MCLKs before it their order has used, and the last one's place in the
  order of R462. -/
  landed : SMap (Nat × Nat × Nat) := []
  /-- The channels have trained at this boot (R211). -/
  trained : Bool := false
  /-- The beat at which channel training ends, with the failing bonds that it finds at the two interfaces of a channel (R211). -/
  training : Option (Nat × List (SiteRef × Nat × Nat)) := none
  /-- Failing lanes steered onto spares, by bridge or crossing direction and group of 64 (R432). -/
  laneSpares : List (Nat × Nat × List Nat) := []
  /-- Failing wires of mesh links steered onto spares (R434). -/
  wireSpares : List (Nat × Nat × List Nat) := []
  /-- Marks of this boot's TRAIN and TEST that found the retirement table full (R427, R434). -/
  marks : List (BitVec 256) := []
  trainFull : BitVec 16 := 0
  trainSaved : Bool := false
  shrunk : BitVec 128 := 0
  tripped : Bool := false
  tripRegion : BitVec 10 := 0
  deaccessioned : Bool := false
  /-- Beats at which the VPS switches the rails of R403 off, after a trip and after deaccessioning. -/
  tripOffAt : Option Nat := none
  deaccOffAt : Option Nat := none
  clkCause : BitVec 2 := 0
  ratioChanges : Nat := 0
  alertRail : Bool := false
  alertSensor : Bool := false
  alertLog : Bool := false
  alertMask : BitVec 6 := 0
  /-- ALERT_N is driven low. -/
  alertLow : Bool := false
  recBusy : Option RecoveryOp := none
  recPassed : Bool := false
  recFailed : Bool := false
  recCheck : BitVec 8 := 0
  recOffset : BitVec 24 := 0
  recBytes : BitVec 25 := 0
  /-- Keys of W1C bits, with the cycle in which hardware last set each (R11). -/
  setAt : SMap Nat := []
deriving DecidableEq, Repr

/-- Escalation (R448) and its registers. -/
structure Escalation where
  count : BitVec 4 := 4
  windowS : BitVec 12 := 60
  /-- First beats of the counted resets. -/
  resets : List Nat := []
  escCount : BitVec 4 := 0
  lastKind : BitVec 3 := 0
  lastIndex : BitVec 8 := 0
  lastCause : BitVec 4 := 0
  total : BitVec 32 := 0
deriving DecidableEq, Repr

/-! ### Timetables (R41, R42) -/

structure WakeEntry where
  kind : Nat
  index : Nat
  kcodes : BitVec 8
deriving DecidableEq, Repr

structure EnergyEntry where
  rail : Nat
  uj : Nat
  current : Nat
deriving DecidableEq, Repr

structure LaunchEntry where
  wing : Nat
  cab : Nat
  beat : Nat
  record : Nat
deriving DecidableEq, Repr

structure SlotEntry where
  kind : Nat
  res : Nat
  slot : Nat
  first : Nat
  rotations : Nat
  route : Nat
deriving DecidableEq, Repr

structure EngineEntry where
  engine : Nat
  beat : Nat
  desc : Nat
deriving DecidableEq, Repr

structure Tier where
  length : Nat
  total : Nat
  energy : List EnergyEntry
  launches : List LaunchEntry
  slots : List SlotEntry
  engines : List EngineEntry
deriving DecidableEq, Repr

structure StepRec where
  /-- Offset and length of the record in its image (R41). -/
  at_ : Nat
  len : Nat
  next : BitVec 32
  gateEn : Bool
  complete : Bool
  gateId : Nat
  lead : Nat
  wakes : List WakeEntry
  /-- Tier bodies T0 to T3; none where the tier is absent. -/
  tiers : List (Option Tier)
deriving DecidableEq, Repr

/-- A bound image: header, wing table and steps (R43). -/
structure Timetable where
  entryStep : Nat
  laneMask : BitVec 8
  stackMask : BitVec 8
  /-- Cabinets needed, by wing 16s + w (R41). -/
  wingTable : List Nat
  steps : List StepRec
  bytes : Nat
  /-- Where the image lies in each named stack's step store, as spans of base and length in order (R43; DESIGN CHOICE). -/
  places : SMap (List (Nat × Nat)) := []
  /-- 64-bit words of the image's copies that do not hold their encoder's codeword: key 2^20 × stack + word of the image; data and check
  bits (R407, R410). -/
  bad : SMap (Nat × Nat) := []
deriving DecidableEq, Repr

/-! ### Partitions and runs -/

inductive PartState where
  | absent | forming | committed
deriving DecidableEq, Repr

/-- The run state of R48. -/
inductive RunState where
  | unbound | bound | gated | budget | committed | stepping | stopping
deriving DecidableEq, Repr

/-- A step under evaluation (R52, R53). -/
structure EvalStep where
  index : Nat
  /-- The planned start P. -/
  planned : Nat
  /-- The next beat at which the evaluation looks at the gate or at the budget. -/
  at_ : Nat
  /-- The beat g at which the gate was met. -/
  gate : Option Nat := none
  eventPosted : Bool := false
deriving DecidableEq, Repr

/-- A committed or executing step. -/
structure LiveStep where
  index : Nat
  tier : Nat
  /-- The commit beat. -/
  commit : Nat
  start : Nat
  planned : Nat
  budgetWait : Nat
  body : Tier
  step : StepRec
  /-- Commit received by the stack sequencers (R29). -/
  arrived : Bool := false
  /-- Stacks whose sequencer was off when the commit arrived (R29, R370). -/
  unheard : List Nat := []
  /-- The wake entries whose wake has begun or been skipped (R57, R371). -/
  woken : List Nat := []
  /-- Launch records and engine descriptors read and delivered, by entry number (R99, R279, R475). -/
  launchRead : SMap (BitVec 512) := []
  engineRead : SMap (BitVec 384) := []
  /-- Engine entries that their engine has queued or taken. -/
  engineTaken : List Nat := []
  /-- Entries delivered to their unit. -/
  launched : List Nat := []
  slotsOn : List Nat := []
  /-- Done reports still awaited: launch entries and engine entries (R61). -/
  launchOpen : List Nat := []
  engineOpen : List Nat := []
  /-- The starting boundary of the last done report. -/
  lastDone : Nat := 0
  overrunOn : Bool := false
  /-- Its timeout has passed (R62). -/
  timedOut : Bool := false
deriving DecidableEq, Repr

/-- A run in progress (R47 to R65). -/
structure RunCtx where
  handle : Nat
  cq : Nat
  sq : Nat
  tag : BitVec 16
  /-- Head of the submission ring after the RUN. -/
  sqHead : BitVec 16 := 0
  eval : Option EvalStep := none
  next : Option LiveStep := none
  exec : Option LiveStep := none
  lastEnded : Option Nat := none
deriving DecidableEq, Repr

/-- The source of a job fault (R477); `match_` holds SOURCE, CLASS, SYND and stack of the report it names. -/
structure FaultRec where
  kind : Nat
  code : Nat
  stack : Nat
  unit : Nat
  match_ : Option (Nat × Nat × Nat × Nat) := none
deriving DecidableEq, Repr

/-- One partition: its resources (R334), its SEQ, VC, RGS and PWR blocks, its run and its accounts. -/
structure Part where
  state : PartState := .absent
  ports : BitVec 8 := 0
  wings : BitVec 128 := 0
  slots : BitVec 16 := 0
  share : Nat := 0
  /-- The interleave half it holds (R248). -/
  half : Option Bool := none
  lanes : BitVec 8 := 0
  /-- VC_CTL and VC_WAYS as written, and as in force since the commit (R241). -/
  vcCtl : BitVec 3 := 3
  ways : BitVec 16 := 0
  vcCtlOn : BitVec 3 := 0
  waysOn : BitVec 16 := 0
  /-- SEQ_SVC, its value before the last write, and the beat from which the last write applies (R38, R452). -/
  svc : BitVec 2 := 0
  /-- Earlier opt-ins, each with the beat from which it held, newest first (R452). -/
  svcPast : List (Nat × BitVec 2) := []
  svcFrom : Nat := 0
  capHost : BitVec 2 := 0
  capThermal : BitVec 2 := 0
  /-- The beat of the last change of a gate counter or a tier cap, and what they were as that beat began (R54). -/
  changedAt : Option Nat := none
  gatesWas : SMap Nat := []
  capHostWas : BitVec 2 := 0
  capThermalWas : BitVec 2 := 0
  waitEvt : BitVec 32 := 25000
  runState : RunState := .unbound
  handle : Nat := 0
  bound : SMap Timetable := []
  lost : BitVec 16 := 0
  gates : SMap Nat := []
  stepIndex : BitVec 32 := 0
  steps : BitVec 64 := 0
  budgetWait : BitVec 64 := 0
  slip : BitVec 64 := 0
  overrun : BitVec 64 := 0
  tierCount : SMap Nat := []
  seqStatus : BitVec 4 := 0
  job : BitVec 16 := 0
  held : Bool := false
  heldClearedAt : Option Nat := none
  rgsLost : BitVec 32 := 0
  pStatus : BitVec 2 := 0
  inBalance : Int := 0
  balances : SMap Int := []
  metered : BitVec 64 := 0
  missRail : BitVec 8 := 0
  missInput : Bool := false
  acctSel : BitVec 8 := 0
  run : Option RunCtx := none
  /-- Job faults raised and not yet delivered, in order. -/
  faults : List FaultRec := []
  /-- Keys of W1C bits, with the cycle in which hardware last set each (R11). -/
  setAt : SMap Nat := []
deriving DecidableEq, Repr

/-! ### Switched domains and wings (R58, R370, R377) -/

inductive WingClock where
  | off | stopped | running | changing
deriving DecidableEq, Repr

structure Wing where
  clock : WingClock := .off
  /-- The clock is running while it changes (a change from RUNNING k). -/
  k : Nat := 0
  kNext : Nat := 0
  /-- The beat at which the wake or change ends. -/
  until_ : Nat := 0
  /-- The rail is on, and the ratio whose voltage it is set to: the higher one through a change (R378). -/
  railOn : Bool := false
  kVolt : Nat := 0
  /-- The rail still falls, from the voltage of this ratio, until the beat `fallEnd` (R378). -/
  kFrom : Nat := 0
  fallEnd : Nat := 0
  /-- The wake under way began with the rail off (R377). -/
  fromOff : Bool := false
  /-- The wing's time in GCLK is k × beat + edge + gOff: it goes on unbroken when k changes. -/
  gOff : Int := 0
  /-- WNG_MAP (R69): physical site of logical cabinets 0 to 8. -/
  map : List Nat := [0, 1, 2, 3, 4, 5, 6, 7, 8]
  retired : BitVec 10 := 0
  /-- Cabinet sites that a failed mesh link retires since bring-up (R434). -/
  linkBad : BitVec 10 := 0
deriving DecidableEq, Repr

inductive DomState where
  | off | waking | on
deriving DecidableEq, Repr

/-- A switched domain of kinds 0x2 to 0x6. -/
structure Dom where
  state : DomState := .off
  until_ : Nat := 0
deriving DecidableEq, Repr

/-! ### Cores -/

structure Thread where
  pc : Nat := 0
  pred : BitVec 7 := 0
  exited : Bool := false
deriving DecidableEq, Repr

/-- A tour: its threads, vector registers (key 32 × lane + r) and uniform registers (R70). -/
structure Tour where
  index : Nat
  threads : List Thread
  v : SMap Word := []
  u : SMap Word := []
  /-- Stopped by TOUR_WIDE_MISMATCH or another fault. -/
  stopped : Bool := false
  /-- The wing time at which each space's earlier accesses of the tour are settled (R137): CLM. -/
  clmBusy : Nat := 0
  /-- As `clmBusy`, for the write transfers of its shelf stores. -/
  shelfBusy : Nat := 0
  /-- Words of its register file whose stored codeword is not the encoder's, with its data and check bits (R407 to R410): v at
  32 × lane + r, u at 512 + r, thread state at 528 + lane. -/
  bad : SMap (Nat × Nat) := []
deriving DecidableEq, Repr

/-- What a result writes. -/
inductive RDest where
  | vec (reg : Nat) (vals : List (Nat × Word))
  | uni (reg : Nat) (val : Word)
  | pred (reg : Nat) (vals : List (Nat × Bool))
deriving DecidableEq, Repr

/-- A result on its way (R115): it is written at the end of wing time `at_`. -/
structure PendResult where
  tour : Nat
  dest : RDest
  at_ : Nat
deriving DecidableEq, Repr

/-- A load or atomic whose data has not returned. -/
structure PendLoad where
  id : Nat
  /-- Its tour, or 128 more where no register of the tour waits for it. -/
  tour : Nat
  pc : Nat
  /-- Lanes that it writes, and lanes of its issue (R145). -/
  lanes : BitVec 16
  issued : BitVec 16 := 0
  /-- Destination register and access size in bytes, and sign extension. -/
  reg : Nat
  size : Nat
  sx : Bool
  /-- Lane and byte address. -/
  addrs : List (Nat × Nat)
  /-- Bytes to a block of `got`: 16 for a shelf load, 64 for a global one. -/
  unit : Nat := 16
  /-- Requests of the load still out. -/
  open_ : List Nat := []
  /-- Blocks returned: block number, data, poisoned. -/
  got : List (Nat × BitVec 512 × Bool) := []
  /-- Values of an atomic, by lane. -/
  vals : List (Nat × DWord) := []
  /-- GCLK that an atomic's result takes beyond its last request's return (R95). -/
  extra : Nat := 0
  poisoned : Bool := false
  /-- The report behind the poison: SOURCE, CLASS, SYND and stack. -/
  why : Option (Nat × Nat × Nat × Nat) := none
  /-- Wing time at whose end the result is written. -/
  at_ : Option Nat := none
deriving DecidableEq, Repr

/-- What a channel transfer is for. -/
inductive XferKind where
  /-- A load of a tour (PendLoad id). -/
  | load (id : Nat)
  /-- An atomic on the own shelf (PendLoad id): function, byte address, and per-lane operand pairs. -/
  | atomic (id : Nat) (fn : Nat) (groups : List (Nat × List (Nat × DWord × DWord)))
  | store
  /-- A word of the merge buffer that has become full (R195). -/
  | merged
  /-- The read leg and the write leg of a read-modify-write. -/
  | rmwRead
  | rmwWrite
  /-- Code load of a launch; code bytes. -/
  | code
  | swapIn
  | swapOut
  | tile
  /-- The stationary image that a run of an earlier launch has claimed (R164). -/
  | oldTile
  | run (n : Nat)
  | accStore
  | accLoad (tile : Nat)
  /-- A gateway request (net id). -/
  | gateRead (req : Nat)
  | gateWrite (req : Nat)
  | gateAtomic (req : Nat)
  | window
deriving DecidableEq, Repr

/-- A transfer waiting in, or occupying, one direction of a private channel (R86). -/
structure Xfer where
  kind : XferKind
  /-- Wing time of issue. -/
  issue : Nat
  /-- The aligned 16 B words it moves, by shelf word number, with byte mask and data for writes. -/
  words : List (Nat × BitVec 16 × BitVec 128)
  /-- Bytes of earlier stores that a read returns instead of the shelf's (R130). -/
  fwd : List (Nat × BitVec 16 × BitVec 128) := []
  /-- Codewords as they stood before a later-issued write replaced them: word, data and check bits (R130, R164). -/
  frozen : List (Nat × Nat × Nat) := []
  /-- The tour, or 64 for the gateway's; 128 more where a later launch has replaced the tour. -/
  tour : Nat := 0
  /-- Other tours whose bytes it carries. -/
  also : List Nat := []
  /-- Gateway requests it belongs to. -/
  reqs : List Nat := []
deriving DecidableEq, Repr

/-- A read-modify-write that has read its word and waits for its write (R196). -/
structure Rmw where
  word : Nat
  mask : BitVec 16
  data : BitVec 128
  /-- The stored word read, or none where it was uncorrectable. -/
  old : Option (BitVec 128)
  /-- The earliest wing time of the write. -/
  writeAt : Nat
  tour : Nat := 0
  also : List Nat := []
  /-- The new word of an atomic, which takes no place in the write queue; its wing time of issue. -/
  atomic : Option Nat := none
  /-- The gateway requests it belongs to. -/
  reqs : List Nat := []
deriving DecidableEq, Repr

structure MergeEntry where
  word : Nat
  mask : BitVec 16
  data : BitVec 128
  opened : Nat
  /-- The tours whose bytes it holds. -/
  tours : List Nat
deriving DecidableEq, Repr

inductive SwapKind where
  | exchange | swapIn
deriving DecidableEq, Repr

structure SwapReq where
  kind : SwapKind
  slot : Nat
  /-- The tour that triggered it. -/
  tour : Nat
  /-- First wing time at which it may begin. -/
  from_ : Nat
deriving DecidableEq, Repr

structure Swap where
  slot : Nat
  tour : Nat
  /-- The tour's context comes from the shelf. -/
  hasRun : Bool
  /-- Wing time at which the incoming tour becomes issuable. -/
  doneAt : Nat
deriving DecidableEq, Repr

structure AccTile where
  int : Bool := false
  owner : Option Nat := none
  words : SMap Word := []
  /-- Words whose stored codeword is not the encoder's, with its data and check bits (R407, R410). -/
  bad : SMap (Nat × Nat) := []
deriving DecidableEq, Repr

structure MxShape where
  mode : Nat
  fmt : Nat
  blk16 : Bool
deriving DecidableEq, Repr

/-- A stationary image held in the array or its shadow buffer (R158). -/
structure TileImage where
  shape : MxShape
  bytes : List Byte
  poisoned : Bool := false
  /-- The instruction that loaded it, for LOAD_POISONED. -/
  tour : Nat := 0
  pc : Nat := 0
  lanes : BitVec 16 := 0
  claimed : Bool := false
  /-- Wing time at which it becomes ARMED; none while its transfer has not started. -/
  ready : Option Nat := none
  armed : Bool := false
deriving DecidableEq, Repr

/-- An mx.run accepted and not complete (R160 to R162). -/
structure MxRun where
  id : Nat
  shape : MxShape
  n : Nat
  tile : Nat
  acc : Bool
  claims : Bool
  tour : Nat
  pc : Nat
  lanes : BitVec 16 := 0
  stream : List Byte
  poisoned : Bool := false
  held : List Byte := []
  /-- Ready time of the stream image; none while its transfer has not started. -/
  ready : Option Nat := none
  /-- The stationary image it uses, where a later launch has emptied the array before its entry (R158, R164). -/
  image : Option TileImage := none
  /-- e₀, once entered. -/
  entry : Option Nat := none
  /-- Vectors whose words have been written. -/
  written : Nat := 0
deriving DecidableEq, Repr

/-- An mx.acc load under way. -/
structure AccLoad where
  tile : Nat
  int : Bool
  words : List Word
  poisoned : Bool := false
  tour : Nat
  pc : Nat
  lanes : BitVec 16 := 0
  ready : Option Nat
deriving DecidableEq, Repr

/-- A core that a launch has started (R70 to R86, R155 to R158). -/
structure Core where
  /-- Instruction store words, and CODE_BYTES. -/
  code : SMap Word := []
  codeBytes : Nat := 0
  /-- Instruction store words whose stored codeword is not the encoder's, with its data and check bits (R407, R410). -/
  codeBad : SMap (Nat × Nat) := []
  /-- Wing time of the first issue (R100), once the code load has its channel start. -/
  firstIssue : Option Nat := none
  ctxOff : Nat := 0
  tours : Nat := 0
  args : List Word := []
  entryPc : Nat := 0
  active : SMap Tour := []
  /-- Pending tours, in queue order. -/
  pendingSet : List Nat := []
  /-- Pending tours that have run (their context is in the shelf). -/
  hasRun : List Nat := []
  docent : Nat := 3
  lastIssue : Option Nat := none
  /-- The model's own: the wing time at whose end results were last written, after which that GCLK issues nothing (R115). -/
  wroteAt : Option Nat := none
  clmFree : Nat := 0
  sfuFree : Nat := 0
  rdFree : Nat := 0
  wrFree : Nat := 0
  /-- The shelf words of the last transfer of each direction, the last of them moved in the GCLK before the direction is free. -/
  rdWords : List Nat := []
  wrWords : List Nat := []
  /-- The last word that an atomic has written, and the wing time of that write (R198). -/
  atomicWrote : Option (Nat × Nat) := none
  /-- Wing time at which the last write transfer of a tour's stores ends (R103). -/
  storeEnd : Nat := 0
  rdQueue : List Xfer := []
  wrQueue : List Xfer := []
  merge : Option MergeEntry := none
  rmws : List Rmw := []
  results : List PendResult := []
  loads : List PendLoad := []
  nextLoad : Nat := 0
  /-- Global requests and mesh flits waiting for the egress, in order: true for a flit, and its number. -/
  egress : List (Bool × Nat) := []
  /-- The model's own: the wing time at which the egress last took one of them. -/
  egressAt : Option Nat := none
  /-- Global stores, atomics, reductions and puts not yet acknowledged: tour, true for a flit, and number. -/
  unacked : List (Nat × Bool × Nat) := []
  swap : Option Swap := none
  swapQueue : List SwapReq := []
  /-- The swap at the head of the queue has its turn, and waits for its bank groups from this wing time on (R192). -/
  swapMet : Option Nat := none
  tiles : SMap AccTile := []
  current : Option TileImage := none
  shadow : Option TileImage := none
  runs : List MxRun := []
  nextRun : Nat := 0
  /-- The previous run: shape, e₀ and n. -/
  prevRun : Option (MxShape × Nat × Nat) := none
  /-- W + 1 of the last run into each tile, and ρ of its last mx.acc load (R161, R163). -/
  lastWrite : SMap Nat := []
  accReady : SMap Nat := []
  accLoads : List AccLoad := []
  done : Bool := false
deriving DecidableEq, Repr

/-- The shelf gateway's open transpose window (R201 to R203). -/
structure GateWindow where
  engine : Nat
  ctx : Nat
  core : Nat
  elt : Nat
  base : Nat
  pitch : Nat
  /-- Row number, data, and whether the engine skips the write (R302). -/
  rows : List (Nat × BitVec 512 × Bool)
  part : Nat
  reqs : List Nat
deriving DecidableEq, Repr

/-- A cabinet: its launch, its CAB and SHF registers and its gateway (R99 to R105, R187 to R211). -/
structure Cabinet where
  /-- CAB_MAP: physical site of logical cores 0 to 95; none is the identity. -/
  map : Option (List Nat) := none
  busy : Bool := false
  part : Nat := 0
  /-- Launch entry number of the running launch, its step index, and its first beat and timeout. -/
  entry : Nat := 0
  started : Nat := 0
  timeout : Nat := 0
  mask : BitVec 96 := 0
  /-- Launches that wait for the previous one, in order (R102): record, entry number and launch beat of each. -/
  waiting : List (BitVec 512 × Nat × Nat) := []
  /-- Beat boundary at which the done report may go (R103). -/
  doneFrom : Nat := 0
  faultSet : Bool := false
  launchWait : BitVec 32 := 0
  fault0 : BitVec 32 := 0
  fault1 : BitVec 32 := 0
  /-- Wing time and core of the recorded fault, for R145. -/
  faultAt : Nat := 0
  status : BitVec 5 := 0
  rmwCount : BitVec 32 := 0
  crcCount : BitVec 32 := 0
  retainWait : BitVec 32 := 0
  siteSel : BitVec 7 := 0
  remapped : BitVec 96 := 0
  /-- Gateway requests off the crossing, with the wing time of their entry. -/
  gateQueue : List (Nat × Nat) := []
  gateLast : Nat := 0
  window : Option GateWindow := none
  /-- Keys of W1C bits, with the cycle in which hardware last set each (R11). -/
  setAt : SMap Nat := []
deriving DecidableEq, Repr

/-- A physical core site's channel (R205 to R211). -/
structure Channel where
  spareGa : Nat := 0
  spareUl : Nat := 0
  failed : Bool := false
  /-- The channel could not train (R211). -/
  untrained : Bool := false
  retired : Bool := false
  /-- Beat of the last completed idle check, and the beat at which the next falls due. -/
  checkedAt : Option Nat := none
  dueAt : Nat := 250000000
deriving DecidableEq, Repr

/-! ### The network -/

/-- What a request asks for. -/
inductive ReqKind where
  | load
  | store
  /-- An atomic: function of R131, and operands by lane: (lane, byte address, operand, new value for cas). -/
  | atomic (fn : Nat) (ops : List (Nat × Nat × DWord × DWord))
  /-- The reductions of R132 in one block: function, and byte address and combined operand of each location. -/
  | red (fn : Nat) (ops : List (Nat × DWord))
  | prefetch | flush | invalidate | dead
  /-- An engine's accesses to host memory, through the port's DMA engine. -/
  | hostRead
  | hostWrite
  /-- A write of a transpose window: element size, D₀, P and row. -/
  | window (elt : Nat) (base : Nat) (pitch : Nat) (row : Nat)
deriving DecidableEq, Repr

/-- Who issued a request. -/
inductive Origin where
  /-- A core: logical core id, tour, and PendLoad id for loads and atomics. -/
  | core (c : Nat) (tour : Nat) (load : Option Nat)
  | engRead (eng : Nat) (ctx : Nat) (i : Nat)
  | engWrite (eng : Nat) (ctx : Nat) (j : Nat)
  | bar2 (port : Nat) (tag : Nat)
  /-- The registrar's write of an entry of a completion or event ring (R327, R331). -/
  | registrar (ring : Nat)
  /-- A raw operation on a vault word (R414): its address counts bytes over the pseudo-channels, 2^30 each. -/
  | curator
deriving DecidableEq, Repr

/-- Where a request stands. -/
inductive ReqStage where
  /-- In the core, waiting for the egress from wing time g. -/
  | egress (g : Nat)
  /-- Presented at the first resource of `route` at PCLK c. -/
  | route (c : Nat)
  /-- Taken at the slice input stage at PCLK t. -/
  | slice (t : Nat)
  /-- Waiting on a fill, or sent to the controller by a slice. -/
  | inSlice
  /-- Off the crossing, at the gateway of its target cabinet. -/
  | gateway
  /-- A near-bank window access taken at PCLK t, with the beat of its wake when it met OFF. -/
  | window (t : Nat) (wake : Option Nat)
  /-- Answered: back at the issuing plinth at PCLK c. -/
  | answered (c : Nat)
  /-- On its way down the crossing after the egress: the beat boundary at which the plinth takes it. -/
  | crossing (beat : Nat)
  /-- Lost inside a domain in reset (R444). -/
  | lost
deriving DecidableEq, Repr

structure Req where
  origin : Origin
  /-- Owning partition; 8 for the curator. -/
  part : Nat
  /-- Route code of a scheduled request, or the unscheduled class. -/
  lane : Option Nat
  cls : Nat
  reclaim : Bool := false
  kind : ReqKind
  addr : Nat
  mask : BitVec 64 := 0
  data : BitVec 512 := 0
  /-- The rotated resources still ahead: kind and module-wide index (R31, R333). -/
  route : List (Nat × Nat) := []
  /-- Bridge hops of the return path. -/
  hops : Nat := 0
  stage : ReqStage
  resp : BitVec 512 := 0
  /-- Old values of an atomic, by lane. -/
  olds : List (Nat × DWord) := []
  poison : Bool := false
  /-- A write that an engine skips: it keeps every time of the write and writes no byte (R302). -/
  skip : Bool := false
  /-- A window write of a job that has ended: the gateway discards it (R203). -/
  ended : Bool := false
  /-- PCLK of its slot at a slice's input stage (R225). -/
  entered : Nat := 0
  /-- The report behind the poison: SOURCE, CLASS, SYND and stack. -/
  why : Option (Nat × Nat × Nat × Nat) := none
  /-- Order of issue. -/
  seq : Nat := 0
deriving DecidableEq, Repr

/-- A mesh flit (R92). -/
structure Flit where
  source : Nat
  slot : Nat
  target : Nat
  offset : Nat
  data : BitVec 512
  part : Nat
  /-- none while it waits for the egress; then its links and cabinet entry with the beat and edge of each. -/
  path : Option (List (Nat × Nat × Nat)) := none
  /-- Wing and wing time of the write into the target CLM. -/
  writeAt : Option (Nat × Nat) := none
  /-- Beat and edge at which a collision stops it (R93). -/
  lostAt : Option (Nat × Nat) := none
  presented : Nat := 0
deriving DecidableEq, Repr

/-! ### Slices (R212 to R243) -/

/-- A VALID or DEAD tag entry. -/
structure Line where
  dead : Bool := false
  tag : Nat
  granule : Nat
  /-- The line occupies one 64 B half (compressed) and not the frame. -/
  halfOnly : Bool := false
  valid : BitVec 4 := 0
  dirty : BitVec 4 := 0
  /-- Stored bytes and check bits, 32 per 32 B unit: 4 units of a frame, 2 of a half. -/
  data : BitVec 1024 := 0
  chk : BitVec 128 := 0
  /-- Sector codes of a compressed line. -/
  codes : List Nat := []
deriving DecidableEq, Repr

/-- A frame's two tag entries, and the order of its last use. -/
structure Frame where
  half0 : Option Line := none
  half1 : Option Line := none
  used : Nat := 0
deriving DecidableEq, Repr

/-- What a controller request carries. -/
inductive CtrlKind where
  | fetch (lineAddr : Nat)
  | uncached (req : Nat)
  | writeBack (entry : Nat)
  /-- A raw operation's turn at the pseudo-channel (R253, R414). -/
  | raw
deriving DecidableEq, Repr

/-- A request of a slice to its vault controller (R252). -/
structure CtrlReq where
  slice : Nat
  kind : CtrlKind
  arrive : Nat := 0
  scheduled : Bool
  arrived : Bool := false
  /-- The first window a₀ its class owned since its arrival, and the window a it took. -/
  first : Option Nat := none
  window : Option Nat := none
  /-- Byte offset of the line in the pseudo-channel. -/
  off : Nat
  /-- The line's stored words and check bytes as the request met them in slice order; none for a conservator-shared granule,
  whose words are read in the window. -/
  raw : Option (BitVec 1024 × BitVec 128) := none
  /-- Sectors of a load that come from the vault. -/
  need : BitVec 4 := 0
deriving DecidableEq, Repr

/-- What a checker finds in a codeword: the data, or one of the uncorrectable findings with its SYND code and raw syndrome
(R409, R419). -/
inductive Checked where
  | clean (d : Nat)
  | corrected (d : Nat) (synd : Nat) (raw : Nat)
  | marker
  | poison
  | bad (synd : Nat) (raw : Nat)
deriving DecidableEq, Repr

/-- A request that waits on a fill: the PCLK from which its times count, the place it met, and what it found there. -/
structure Waiter where
  req : Nat
  from_ : Nat := 0
  way : Nat := 0
  half : Bool := false
  bad : List (Nat × Checked) := []
deriving DecidableEq, Repr

/-- What an access still has to do, counted from its base PCLK (R226, R235, R243). -/
inductive SliceEff where
  | answer (req : Nat) (dt : Nat)
  | send (pch : Nat) (c : CtrlReq)
  /-- It waits on the fill of a line of a slice. -/
  | join (slice : Nat) (line : Nat) (w : Waiter)
deriving DecidableEq, Repr

structure WbEntry where
  lineAddr : Nat
  part : Nat
  granule : Nat
  data : BitVec 1024
  chk : BitVec 128
  valid : BitVec 4
  dirty : BitVec 4
  set : Nat
  way : Nat
  half : Bool
  /-- Order of entry, and the acknowledgement once the write-back has a window. -/
  order : Nat
  ack : Option Nat := none
  /-- Range requests that end at the acknowledgement + 1. -/
  waiters : List Nat := []
  /-- Accesses whose times count from the acknowledgement + 1: their slot PCLK, whether for want of an entry, and their effects
  (R234, R235). -/
  stalled : List (Nat × Bool × List SliceEff) := []
deriving DecidableEq, Repr

structure Tracker where
  granule : Nat
  lambda : Nat
  count : Nat
  used : Nat
deriving DecidableEq, Repr

/-- A fetch of a line that has not completed (R226): the place it was made for, and the requests that wait on it in order, the first of
which caused it. The line stands in its place from the request's turn on (R225); the fill fixes the times. -/
structure Fill where
  lineAddr : Nat
  part : Nat
  /-- Way, and whether half 1. -/
  place : Nat × Bool
  waiters : List Waiter
  /-- The line's stored words and check bytes in the vault. -/
  raw : BitVec 1024 × BitVec 128
  pch : Nat
  off : Nat
  back : Option Nat := none
  /-- The vault was in reset when the fetch met it: what it brings is poison (R444). -/
  lost : Bool := false
deriving DecidableEq, Repr

structure Slice where
  frames : SMap Frame := []
  clock : Nat := 0
  wb : SMap WbEntry := []
  trackers : SMap Tracker := []
  fills : List Fill := []
  /-- The PCLK of the last request taken, fill completed or write-back acknowledged (R416). -/
  lastAct : Option Nat := none
  /-- SLICE_WAY records in force and spare ways used (R437). -/
  spareUsed : List Nat := []
  status : BitVec 6 := 0
  deadReads : BitVec 32 := 0
  wbMerges : BitVec 32 := 0
  pairSplits : BitVec 32 := 0
  bypassMisses : BitVec 32 := 0
  wbWait : BitVec 32 := 0
  wakeWait : BitVec 32 := 0
  /-- Keys of W1C bits, with the cycle in which hardware last set each (R11). -/
  setAt : SMap Nat := []
deriving DecidableEq, Repr

/-! ### Vaults and conservators (R244 to R276) -/

structure Burst where
  ticket : BitVec 32
  write : Bool
  dst : Nat
  line : Nat
  n : Nat
  /-- CCLK of its launch, and the pace its slots are assigned with (R269, R276). -/
  beta : Nat
  pace : Nat
  /-- CCLK slots of the lines, in order, and the lines that a refresh window moves (R270). -/
  slots : List Nat
  moved : List Nat := []
  done : Nat := 0
  /-- Lines read and not yet written into the D-SRAM: first CCLK at which they stand there, D-SRAM byte, words. -/
  landing : List (Nat × Nat × List (Option (BitVec 256))) := []
deriving DecidableEq, Repr

inductive CsvState where
  | halted | running | faulted
deriving DecidableEq, Repr

/-- One query of the attention unit (R273). -/
structure AttnState where
  m : Word
  l : Word
  o : List Word
deriving DecidableEq, Repr

/-- An nb.attn or nb.score under way in the attention unit: its issue, the PC it stood at, its addresses (of the values, or of the
scores) and its steps, each of which reads its rows in its own CCLK (R273, R274). -/
structure UnitWork where
  score : Bool
  issue : Nat
  pc : Word
  rows : Nat
  second : Nat
  n : Nat
  done : Nat := 0
deriving DecidableEq, Repr

/-- A conservator beside its pseudo-channel. Whether it is OFF stands in its switched domain. -/
structure Csv where
  state : CsvState := .halted
  haltAsked : Bool := false
  /-- The hart's PC; CSV_PC is its low 15 bits. -/
  pc : Word := 0
  x : SMap Word := []
  /-- CCLK from which each register's result is usable. -/
  xReady : SMap Nat := []
  /-- CCLK from which the hart may issue. -/
  free : Nat := 0
  isram : List Host.Cell := []
  dsram : List Host.Cell := []
  cmds : List Host.Cell := []
  results : List Host.Cell := []
  head : BitVec 4 := 0
  tail : BitVec 4 := 0
  pending : Nat := 0
  /-- Beat since which the command at HEAD has stood there while RUNNING (R447). -/
  headSince : Nat := 0
  status : BitVec 2 := 0
  faultBits : BitVec 3 := 0
  cause : BitVec 4 := 0
  faultLine : BitVec 23 := 0
  doneCount : BitVec 32 := 0
  paceWait : BitVec 32 := 0
  refreshWait : BitVec 32 := 0
  wakeWait : BitVec 32 := 0
  bursts : List Burst := []
  nextTicket : BitVec 32 := 1
  lastSlot : Nat := 0
  fmt : BitVec 4 := 5
  blk16 : Bool := false
  g : Nat := 1
  scale : Word := 0
  q : List Word := []
  attn : List AttnState := []
  /-- The attention unit is busy until this CCLK, and its state is final from this one. -/
  unitFree : Nat := 0
  unit : Option UnitWork := none
  /-- Scores not yet in the D-SRAM: first CCLK at which they stand there, address and value. -/
  scores : List (Nat × Nat × Word) := []
  /-- The model's own: bytes of window writes that prevail over a store at their CCLK edge: edge, word offset and byte mask (R262). -/
  windowBytes : List (Nat × Nat × Nat) := []
  finalAt : Nat := 0
  final : Bool := true
  /-- A Boolean for R59: a switch-off waits for bursts in flight. -/
  switchOff : Bool := false
  /-- Keys of W1C bits, with the cycle in which hardware last set each (R11). -/
  setAt : SMap Nat := []
deriving DecidableEq, Repr

/-- A pseudo-channel (R245 to R258). -/
structure Pch where
  nbMode : Bool := false
  /-- Mode write under way and its value. -/
  modeWrite : Option Bool := none
  inRefresh : Bool := false
  refreshEnd : Nat := 0
  queue : List CtrlReq := []
  /-- The model's own: PCLK of the last window that a request took. -/
  lastWindow : Option Nat := none
  /-- PCLKs of the windows taken since the last multiple of 4,096 (R416), and the beat of the last switch of the near-bank mode. -/
  taken : List Nat := []
  modeAt : Nat := 0
deriving DecidableEq, Repr

/-- A vault controller (R253 to R255, R276). -/
structure Vault where
  status : BitVec 3 := 0
  mult : Nat := 1
  multNext : Option Nat := none
  /-- The multiplier before the last change, and the beat of that change (R254, R255). -/
  multPrev : Nat := 1
  multAt : Nat := 0
  pace : BitVec 2 := 0
  paceNext : Option (BitVec 2) := none
  clashWait : BitVec 32 := 0
  /-- The conservator site that serves pseudo-channel q, where it is not site q (R436). -/
  csvSites : SMap Nat := []
  /-- Conservator sites that failed this boot's self-test (R413, R435). -/
  csvBad : List Nat := []
  /-- Beats of the fill at which a refresh multiplier came into force, latest first (R411, R438). -/
  fillSpans : List (Nat × Nat) := []
  /-- Keys of W1C bits, with the cycle in which hardware last set each (R11). -/
  setAt : SMap Nat := []
deriving DecidableEq, Repr

inductive GranuleKind where
  | interleaved | pinned
deriving DecidableEq, Repr

/-- An assigned granule (VMC_GMAP). -/
structure Granule where
  kind : GranuleKind
  part : Nat
  shared : Bool := false
  pch : Nat := 0
  half : Bool := false
  rank : Nat := 0
deriving DecidableEq, Repr

/-! ### Engines (R277 to R307) -/

/-- A descriptor on its way to a context. -/
structure EngJob where
  desc : BitVec 384
  part : Nat
  /-- Submission ring and its TAG for a ring-driven descriptor, with its SQ_HEAD. -/
  ring : Option (Nat × BitVec 16 × BitVec 16) := none
  /-- Engine entry number in its step for a scheduled one. -/
  entry : Nat := 0
  /-- PCLK from which it can be taken, and the beat for a scheduled one. -/
  from_ : Nat := 0
  /-- It waits outside a stack in reset (R279). -/
  held : Bool := false
deriving DecidableEq, Repr

/-- A context that works on a descriptor. -/
structure EngCtx where
  job : EngJob
  take : Nat
  start : Nat
  reads : Nat := 0
  lastRead : Nat := 0
  /-- Returned blocks not yet entered: index, data, PCLK of return. -/
  back : List (Nat × BitVec 512 × Nat) := []
  /-- Flits entered: data by index, and entry PCLK. -/
  flits : SMap (BitVec 512) := []
  /-- Words of the flits held whose stored codeword is not the encoder's, with its data and check bits: word w of flit i at 8i + w
  (R302, R407 to R410). -/
  bad : SMap (Nat × Nat) := []
  eTimes : List Nat := []
  writes : Nat := 0
  lastWrite : Nat := 0
  /-- Issue PCLK of each tile's last write (transposer). -/
  tileEnd : List Nat := []
  /-- Write requests out, and the PCLK of acknowledgements of skipped writes. -/
  openWrites : List Nat := []
  openReads : List Nat := []
  lastAck : Nat := 0
  poisoned : Bool := false
  refused : Option Nat := none
  /-- PCLK of the refusal (R281, R476). -/
  refusedAt : Nat := 0
  hostError : Bool := false
  /-- The write that the host completed with an error (R303). -/
  failedWrite : Option Nat := none
  /-- Abandoned at this beat (R305). -/
  abandoned : Option Nat := none
deriving DecidableEq, Repr

structure Engine where
  ctx : SMap EngCtx := []
  /-- Scheduled descriptors delivered, and ring-driven ones by port, waiting to be taken. -/
  queue : List (Nat × EngJob) := []
  /-- PCLK at which the last scheduled descriptor was done. -/
  schedDone : Nat := 0
  status : BitVec 6 := 0
  cause : BitVec 8 := 0
  causeCtx : BitVec 4 := 0
  causeTag : BitVec 16 := 0
  schedWait : BitVec 32 := 0
  wakeWait : BitVec 32 := 0
  flits : BitVec 64 := 0
  descs : BitVec 32 := 0
  hostWait : BitVec 32 := 0
  /-- Ring-driven completions still to post: job, status and cause, beat. -/
  done : List (EngJob × Nat × Nat × Nat) := []
  /-- Keys of W1C bits, with the cycle in which hardware last set each (R11). -/
  setAt : SMap Nat := []
deriving DecidableEq, Repr

/-! ### Ports and rings (R311 to R339) -/

structure Ring where
  type_ : BitVec 2
  base : BitVec 64
  log2 : Nat
  part : Nat
  cq : Nat
  vector : BitVec 11
  head : BitVec 16 := 0
  tail : BitVec 16 := 0
  armed : Bool := false
  held : List (BitVec 512) := []
  overflow : Bool := false
  lost : Nat := 0
  /-- Fetched descriptors not yet delivered, with the beat of their delivery. -/
  fetched : List (BitVec 512 × Nat) := []
  /-- Acceptance and failure completions to post: entry and beat. -/
  accept : List (BitVec 512 × Nat) := []
deriving DecidableEq, Repr

structure Fetch where
  ring : Nat
  first : BitVec 16
  count : Nat
  /-- Descriptors of it that no doorbell has discarded since (R322). -/
  keep : Nat
  /-- PCLK at which it issued, and beat of issue. -/
  issue : Nat
deriving DecidableEq, Repr

structure Port where
  status : BitVec 5 := 0
  rate : BitVec 3 := 0
  width : BitVec 5 := 0
  flit : Bool := false
  up : Bool := false
  perstReleased : Bool := false
  /-- Beat by which configuration requests must be answered (R430). -/
  configBy : Nat := 0
  bar2Base : BitVec 64 := 0
  bar2Rd : BitVec 64 := 0
  bar2Wr : BitVec 64 := 0
  slotWait : BitVec 64 := 0
  reclaimed : BitVec 64 := 0
  refused : BitVec 32 := 0
  dbDropped : BitVec 32 := 0
  msix : SMap Word := []
  /-- MSI-X Enable and Function Mask of configuration space (R311, R328). -/
  msixOn : Bool := false
  msixMasked : Bool := false
  pba : List Nat := []
  config : SMap Word := []
  fetchQueue : List Nat := []
  fetch : Option Fetch := none
  nextFetch : Nat := 0
  /-- Keys of W1C bits, with the cycle in which hardware last set each (R11). -/
  setAt : SMap Nat := []
deriving DecidableEq, Repr

/-! ### Curator and mailboxes (R340 to R352) -/

inductive ChanState where
  | idle | queued | running | done
deriving DecidableEq, Repr

structure Chan where
  cmd : SMap Word := []
  rsp : SMap Word := []
  irqEn : Bool := false
  vector : BitVec 11 := 0
  state : ChanState := .idle
  goIgnored : Bool := false
  /-- The beat in which GO_IGNORED was last set (R11). -/
  ignoredAt : Option Nat := none
  captured : SMap Word := []
  /-- The beat of the GO, until the command arrives. -/
  goAt : Option Nat := none
  arrivedAt : Nat := 0
deriving DecidableEq, Repr

/-- The command the curator executes. -/
structure Running where
  chan : Nat
  start : Nat
  arrived : Nat
  t : Nat
  block : SMap Word
  /-- The check that failed and its status, as evaluated at the start. -/
  check : Nat
  status : Nat
  /-- The half of the banks that a GRANULE_ASSIGN's checks found (R350, R358). -/
  half : Option Bool := none
  /-- End of the reset that a DOMAIN_RESET started or met (R361, R446). -/
  until_ : Nat := 0
  /-- The command's effects have been applied, with its results. -/
  applied : Bool := false
  results : SMap Word := []
  /-- The image that a TIMETABLE_BIND checked, and the one that an FW_UPDATE read. -/
  image : Option Timetable := none
  fw : List Byte := []
deriving DecidableEq, Repr

structure Curator where
  queue : List Nat := []
  running : Option Running := none
  /-- Beat of the end of the command before. -/
  freeAt : Nat := 0
  /-- Partition that the command before named. -/
  lastPart : Option Nat := none
  epoch : BitVec 64 := 0
  /-- An EPOCH event is due for this beat. -/
  epochMoved : Bool := false
deriving DecidableEq, Repr

/-! ### Power and heat -/

structure Power where
  railFaultFlag : Bool := false
  guard : Bool := false
  guardHit : Bool := false
  volts : BitVec 16 := 0
  amps : BitVec 16 := 0
  inputLimit : Nat := 8000
  /-- The beat of the last write to PWR_INPUT_LIMIT, and the limit as that beat began (R381). -/
  limitAt : Option Nat := none
  limitWas : Nat := 8000
  /-- Input limit and guard in force for the fills (R381). -/
  limitOn : Nat := 8000
  guardOn : Bool := false
  curSeq : BitVec 32 := 0
  railFault : BitVec 224 := 0
  railSel : BitVec 8 := 0
  /-- Mean currents of the last report. -/
  currents : SMap (BitVec 16) := []
  /-- Allowed powers in mW, as last computed and as in force (R381, R399); a rail has 0, PWR_RAIL_ALLOW's reset value, until its first. -/
  allowNext : SMap Nat := []
  allow : SMap Nat := []
  /-- Input powers of the last 1,000 reports, newest first, in units of 100 µW. -/
  history : List Nat := []
  reports : Nat := 0
  /-- The last report came while the curator was out of reset, and its model run is still to come (R392, R445). -/
  forModel : Bool := false
  /-- The model's own: beat of the last current report. -/
  reportAt : Option Nat := none
  /-- Number of the last report that met a guard condition. -/
  guardAt : Nat := 0
  /-- Notices held by the VPS: rail, end of the held period and START_CURRENT (R372). -/
  notices : List (Nat × Nat × Nat) := []
  /-- Notices on their way: partition and the beat of receipt. -/
  noticeAt : List (Nat × Nat × List (Nat × Nat × Nat)) := []
  /-- Keys of W1C bits, with the cycle in which hardware last set each (R11). -/
  setAt : SMap Nat := []
deriving DecidableEq, Repr

inductive Episode where
  | normal | grace | enforcing
deriving DecidableEq, Repr

structure Region where
  model : Int := 0
  sensor : BitVec 12 := 0
  eff : Int := 0
  suspect : Bool := false
  broken : Bool := false
  modelLow : Bool := false
  selfFail : Bool := false
  episode : Episode := .normal
  cap : Nat := 0
  graceAt : Nat := 0
  graceMs : Nat := 0
  sinceChange : Nat := 0
  /-- Consecutive runs with an unchanged reading, and the model's temperatures before and over the last 1,000 of them, latest first
  (R393). -/
  still : Nat := 0
  stillTemps : List Int := []
  lowRuns : Nat := 0
  highRuns : Nat := 0
deriving DecidableEq, Repr

structure CycleCounter where
  rising : Bool := false
  lo : Int := 0
  hi : Int := 0
  count : Nat := 0
  started : Bool := false
  /-- A count not yet written to flash, and the beat of its increment. -/
  unwritten : Option Nat := none
deriving DecidableEq, Repr

structure Thermal where
  regions : SMap Region := []
  runs : Nat := 0
  coolant : BitVec 12 := 0
  calDefault : Bool := false
  sensorFlag : Bool := false
  modelLowFlag : Bool := false
  coolantBroken : Bool := false
  cyclesRated : Bool := false
  regionSel : BitVec 10 := 0
  grace : BitVec 8 := 20
  cycles : SMap CycleCounter := []
  /-- Beat of the last self-check of the sensors. -/
  lastSelfCheck : Option Nat := none
  /-- Keys of W1C bits, with the cycle in which hardware last set each (R11). -/
  setAt : SMap Nat := []
deriving DecidableEq, Repr

/-! ### Errors (R407 to R427) -/

structure ColEntry where
  rep : Report
  count : Nat
  first : Nat
  last : Nat
  index : Nat
  part : Option Nat
  job : BitVec 16
  closed : Bool := false
deriving DecidableEq, Repr

structure SrcRec where
  first : Option (Report × Nat) := none
  last : Option (Report × Nat) := none
  lost : BitVec 32 := 0
deriving DecidableEq, Repr

structure Lap where
  /-- The beat at which the lap in progress began. -/
  began : Option Nat := none
  ms : BitVec 16 := 0xFFFF
  laps : BitVec 16 := 0
deriving DecidableEq, Repr

/-- A scrubber's place in the lap in progress (R416 to R418). -/
structure Scrub where
  /-- Rows, sectors or lines it has visited. -/
  pos : Nat := 0
  /-- The codewords that wait to be corrected or poisoned: the visit that read them, and for each its number within the visit and its data
  and check bits as read. -/
  fix : Option (Nat × List (Nat × Nat × Nat)) := none
  /-- The wing time or PCLK of the last cycle it used. -/
  usedAt : Option Nat := none
deriving DecidableEq, Repr

/-- A report before its collector, with the owner of its location when it was found (R424). -/
structure Heard where
  rep : Report
  part : Option Nat
deriving DecidableEq, Repr

structure Collector where
  entries : List ColEntry := []
  /-- Reports of the present beat, not yet taken. -/
  queue : List Heard := []
  sources : SMap SrcRec := []
  overflow : Bool := false
  scrubLate : Bool := false
  sel : BitVec 16 := 0
  view : SrcRec := {}
  /-- Laps of the shelves, the slices and the two vaults. -/
  laps : SMap Lap := []
  /-- Scrubbers of the stack's banks, then of its slices, then of its vaults' pseudo-channels. -/
  scrubs : SMap Scrub := []
  /-- Keys of W1C bits, with the cycle in which hardware last set each (R11). -/
  setAt : SMap Nat := []
deriving DecidableEq, Repr

/-- A raw operation in progress (R414): the operands it was started with, and the beat of its end. -/
structure RawOp where
  write : Bool
  target : Nat
  end_ : Nat
  loc : BitVec 64
  data : SMap Word
  check : Word
deriving DecidableEq, Repr

structure ErrLog where
  ring : SMap (BitVec 512) := []
  /-- Entries written since module reset (R354). -/
  written : BitVec 32 := 0
  head : BitVec 32 := 0
  tail : BitVec 32 := 0
  overflow : Bool := false
  retireFull : Bool := false
  selfTest : BitVec 13 := 0
  retSel : BitVec 12 := 0
  rawWrite : Bool := false
  rawTarget : BitVec 2 := 0
  rawEnable : Bool := false
  /-- DG takes effect at the next beat boundary (R452). -/
  rawFrom : Nat := 0
  rawDone : Bool := false
  rawRefused : Bool := false
  rawLoc : BitVec 64 := 0
  rawData : SMap Word := []
  rawCheck : Word := 0
  rawOp : Option RawOp := none
  /-- Writes to DATA and CHECK held until the operation ends: (word index, 8 for CHECK; value). -/
  rawHeld : List (Nat × Word) := []
  /-- Keys of W1C bits, with the cycle in which hardware last set each (R11). -/
  setAt : SMap Nat := []
deriving DecidableEq, Repr

/-! ### Sideband and JTAG -/

structure Sideband where
  dynAddr : Option (BitVec 7) := none
  /-- Enabled events as ENEC and DISEC number them: bit 0 in-band interrupts, bit 3 Hot-Join. -/
  events : BitVec 8 := 8
  pointer : BitVec 32 := 0
  hotJoin : Bool := false
deriving DecidableEq, Repr

inductive JtagInstr where
  | idcode | bypass | extest | clamp | highz
deriving DecidableEq, Repr

/-- What leaves the module, oldest first. It is the model's own record of the outputs. -/
inductive Output where
  /-- A 64 B posted write to host memory of a port. -/
  | hostWrite (port : Nat) (addr : Nat) (mask : BitVec 64) (data : BitVec 512)
  | hostRead (port : Nat) (addr : Nat) (bytes : Nat)
  | msix (port : Nat) (vector : Nat)
  | config (port : Nat) (value : Word)
  /-- A BAR2 read completion: port, tag, data and EP. -/
  | bar2 (port : Nat) (tag : Nat) (data : BitVec 512) (ep : Bool)
  | reg (who : Requester) (value : Word)
  | ibi (byte : BitVec 8)
  /-- A private read, with the address that it was answered at. -/
  | sideband (addr : BitVec 7) (words : List Word)
  | ccc (value : BitVec 64)
  | jtag (value : Word)
  /-- A boundary-scan instruction takes effect on the pins, with the boundary-scan register. -/
  | pins (instr : JtagInstr) (scan : BitVec 16)
  | hotJoin
deriving DecidableEq, Repr

/-- The half of a 64-bit register that a requester's low access latched or holds (R9), by register offset. -/
structure Halves where
  latched : SMap Word := []
  heldLow : SMap Word := []
deriving DecidableEq, Repr

/-- The state of the module. -/
structure State where
  beat : BitVec 64
  sup : Supervisor
  boot : Boot
  flash : Flash
  fuses : Fuses
  esc : Escalation
  parts : SMap Part
  wings : SMap Wing
  cabSites : SMap Dom
  bankGroups : SMap Dom
  sliceDoms : SMap Dom
  csvDoms : SMap Dom
  engineDoms : SMap Dom
  /-- Reset domains in reset: key 256 × KIND + index (R442), with the beat of the reset's end. -/
  resets : SMap Nat
  cores : SMap Core
  cabinets : SMap Cabinet
  channels : SMap Channel
  /-- Shelf storage by physical row: 18 B per codeword (16 data, 2 check). -/
  shelf : List Host.Cell
  /-- Row steering: shelf word of a site, layer and bank to spare row (R209). -/
  rowMap : SMap Nat
  /-- CLM by physical core site: 2 B per codeword (1 data, 1 check). -/
  clm : List Host.Cell
  slices : SMap Slice
  pchs : SMap Pch
  vaults : SMap Vault
  csvs : SMap Csv
  granules : SMap Granule
  /-- Vault storage: 36 B per word (32 data, 4 check), word number 2²⁵ × P + ⌊offset ÷ 32⌋. -/
  dram : List Host.Cell
  engines : SMap Engine
  ports : SMap Port
  rings : SMap Ring
  chans : SMap Chan
  curator : Curator
  power : Power
  thermal : Thermal
  collectors : SMap Collector
  errLog : ErrLog
  sideband : Sideband
  jtag : JtagInstr
  /-- Register access latches by requester: ports 0 to 7, sideband 8, curator 9. -/
  halves : SMap Halves
  net : SMap Req
  nextReq : Nat
  flits : SMap Flit
  nextFlit : Nat
  /-- Slot-plan entries in force (R60): partition, the entry, and the beat of its first rotation. -/
  plan : List (Nat × SlotEntry × Nat)
  /-- The last PCLK in which each rotated resource served a request, by kind × 65536 + index. -/
  slotUse : SMap Nat
  /-- The next free value (the model's own field): `Config.freeWord` of it is the value left open. -/
  free : Nat
  /-- What has left the module (the model's own record). -/
  out : List Output
  /-- Commands waiting, first in, first out. -/
  pending : List Instr
deriving DecidableEq, Repr

/-- The module in module reset: every register at its reset value, nothing written, the flash as `Flash` names it. -/
def State.reset : State where
  beat := 0
  sup := {}
  boot := {}
  flash := {}
  fuses := {}
  esc := {}
  parts := []
  wings := []
  cabSites := []
  bankGroups := []
  sliceDoms := []
  csvDoms := []
  engineDoms := []
  resets := []
  cores := []
  cabinets := []
  channels := []
  shelf := []
  rowMap := []
  clm := []
  slices := []
  pchs := []
  vaults := []
  csvs := []
  granules := []
  dram := []
  engines := []
  ports := []
  rings := []
  chans := []
  curator := {}
  power := {}
  thermal := {}
  collectors := []
  errLog := {}
  sideband := {}
  jtag := .idcode
  halves := []
  net := []
  nextReq := 0
  flits := []
  nextFlit := 0
  plan := []
  slotUse := []
  free := 0
  out := []
  pending := []

end Sys2Proof.Machine
end

