-- ==== Sys2Proof/Machine/Ops.lean ====
section
/-! DEFINITION. The shared operations: sparse maps, codes and coded storage, time, partitions, reports, job faults, the
completion and event rings, and the switched domains. -/

namespace Sys2Proof.Machine

abbrev Result := Host.Outcome State Fault Refusal

/-! ### Sparse maps -/

/-- The value listed under a key. -/
def find {α : Type} : SMap α → Nat → Option α
  | [], _ => none
  | (a, v) :: m, k => if k = a then some v else if k < a then none else find m k

/-- The value listed under a key, or the default. -/
def look {α : Type} (m : SMap α) (k : Nat) (d : α) : α := (find m k).getD d

/-- List a value under a key. -/
def put {α : Type} : SMap α → Nat → α → SMap α
  | [], k, v => [(k, v)]
  | (a, w) :: m, k, v =>
    if k = a then (k, v) :: m else if k < a then (k, v) :: (a, w) :: m else (a, w) :: put m k v

/-- Take a key off the map. -/
def drop {α : Type} : SMap α → Nat → SMap α
  | [], _ => []
  | (a, w) :: m, k => if k = a then m else if k < a then (a, w) :: m else (a, w) :: drop m k

/-! ### Bits and numbers -/

/-- Bits [lo + n − 1 : lo] of a number. -/
def bits (x lo n : Nat) : Nat := (x >>> lo) % 2 ^ n

/-- Add to a counter that saturates. -/
def satAdd {w : Nat} (x : BitVec w) (n : Nat) : BitVec w :=
  if x.toNat + n < 2 ^ w then x + BitVec.ofNat w n else BitVec.allOnes w

/-- Set bit i. -/
def setBit {w : Nat} (x : BitVec w) (i : Nat) : BitVec w := x ||| BitVec.ofNat w (2 ^ i)

def clearBit {w : Nat} (x : BitVec w) (i : Nat) : BitVec w := x &&& ~~~ BitVec.ofNat w (2 ^ i)

def putBit {w : Nat} (x : BitVec w) (i : Nat) (b : Bool) : BitVec w := if b then setBit x i else clearBit x i

/-- Number of set bits among the lowest n. -/
def popCount (x : Nat) : Nat → Nat
  | 0 => 0
  | n + 1 => popCount x n + (x >>> n) % 2

/-- Signed reading of the low w bits. -/
def toSigned (w x : Nat) : Int := if x % 2 ^ w < 2 ^ (w - 1) then (x % 2 ^ w : Nat) else (x % 2 ^ w : Nat) - (2 ^ w : Nat)

def roundUp (x m : Nat) : Nat := (x + (m - 1)) / m * m

def ceilDiv (x m : Nat) : Nat := (x + (m - 1)) / m

def b2n (b : Bool) : Nat := if b then 1 else 0

/-- Byte i of a number, little-endian (R8). -/
def byteOf (x i : Nat) : Byte := BitVec.ofNat 8 (x >>> (8 * i))

/-- The number that bytes spell, the first byte lowest (R8). -/
def leNat : List Byte → Nat
  | [] => 0
  | b :: bs => b.toNat + 256 * leNat bs

/-- The n bytes of a number, lowest first. -/
def leBytes (x n : Nat) : List Byte := (List.range n).map (byteOf x)

/-- Replace the bytes of `old` that `mask` names by those of `new`. -/
def mergeBytes (n old new mask : Nat) : Nat :=
  leNat ((List.range n).map fun i => if mask.testBit i then byteOf new i else byteOf old i)

/-- The least n below `bound` that satisfies p, counting from `start`. -/
def firstFrom (p : Nat → Bool) (start : Nat) : Nat → Option Nat
  | 0 => none
  | n + 1 => if p start then some start else firstFrom p (start + 1) n

/-! ### Codes (R256, R407 to R409) -/

/-- The data a consumer gets, if it gets any. -/
def Checked.data? : Checked → Option Nat
  | .clean d => some d
  | .corrected d _ _ => some d
  | _ => none

/-- Codeword positions of the data bits of R408, in ascending order: the numbers from 1 that are no power of two. -/
def dataPositions (count : Nat) : List Nat :=
  ((List.range (count + 16)).filter fun p => p ≠ 0 && p ≠ 2 ^ Nat.log2 p).take count

/-- XOR of the positions of the set data bits. -/
def positionXor (d : Nat) : List Nat → Nat → Nat
  | [], _ => 0
  | p :: ps, i => (if d.testBit i then p else 0) ^^^ positionXor d ps (i + 1)

/-- Check bits of the extended Hamming code over m data bits with r check bits (R408). -/
def hammingCheck (m r d : Nat) : Nat :=
  let h := positionXor d (dataPositions m) 0 % 2 ^ (r - 1)
  h + 2 ^ (r - 1) * ((popCount d m + popCount h (r - 1)) % 2)

/-- A codeword of a SEC-DED code that reads with a given raw syndrome, its first data bit set: what an uncorrectable codeword is kept
as where only its finding is known. -/
def hammingPlant (r raw : Nat) : Nat × Nat :=
  let c := (raw ^^^ 3) % 2 ^ (r - 1)
  (1, c + 2 ^ (r - 1) * ((popCount c (r - 1) + 1 + raw / 2 ^ (r - 1)) % 2))

/-- Check one SEC-DED codeword (R408, R409). -/
def hammingRead (m r d c : Nat) : Checked :=
  if d = 0 ∧ c = 2 ^ r - 1 then .marker
  else if d = 2 ^ m - 1 ∧ c = 0 then .poison
  else
    let ps := dataPositions m
    let s := (positionXor d ps 0 ^^^ c) % 2 ^ (r - 1)
    let odd := (popCount d m + popCount c r) % 2
    let raw := s + 2 ^ (r - 1) * odd
    if odd = 0 then (if s = 0 then .clean d else .bad 0 raw)
    else if s = 0 ∨ s = 2 ^ Nat.log2 s then .corrected d 1 raw
    else match ps.findIdx? (· = s) with
      | some i => .corrected (d ^^^ 2 ^ i) 0 raw
      | none => .bad 1 raw

/-- Multiplication by 0x02 in the field of R256. -/
def gfDouble (a : Nat) : Nat := if a < 128 then 2 * a else (2 * a) ^^^ 0x11D

def gfMulAux (a b : Nat) : Nat → Nat
  | 0 => 0
  | n + 1 => (if b % 2 = 1 then a else 0) ^^^ gfMulAux (gfDouble a) (b / 2) n

/-- Multiplication in GF(2⁸) with polynomial x⁸ + x⁴ + x³ + x² + 1 (R256). -/
def gfMul (a b : Nat) : Nat := gfMulAux a b 8

/-- α^n. -/
def gfPow : Nat → Nat
  | 0 => 1
  | n + 1 => gfDouble (gfPow n)

def gfExp (a : Nat) : Nat → Nat
  | 0 => 1
  | n + 1 => gfMul a (gfExp a n)

/-- The value of the polynomial with these coefficients, highest first, at x. -/
def gfEval (x : Nat) (cs : List Nat) : Nat := cs.foldl (fun acc c => gfMul acc x ^^^ c) 0

/-- One step of division by (x − 1)(x − α)(x − α²)(x − α³) = x⁴ + 15x³ + 54x² + 120x + 64. -/
def rsShift (r : Nat × Nat × Nat × Nat) (d : Nat) : Nat × Nat × Nat × Nat :=
  let f := r.1 ^^^ d
  (r.2.1 ^^^ gfMul f 15, r.2.2.1 ^^^ gfMul f 54, r.2.2.2 ^^^ gfMul f 120, gfMul f 64)

/-- The four check bytes of a vault word, c₀ lowest (R256). -/
def rsCheck (d : Nat) : Nat :=
  let r := ((List.range 32).map fun i => (byteOf d i).toNat).foldl rsShift (0, 0, 0, 0)
  r.1 + 2 ^ 8 * r.2.1 + 2 ^ 16 * r.2.2.1 + 2 ^ 24 * r.2.2.2

/-- The codeword's coefficients, highest first. -/
def rsWord (d c : Nat) : List Nat :=
  ((List.range 32).map fun i => (byteOf d i).toNat) ++ ((List.range 4).map fun i => (byteOf c i).toNat)

/-- Some two bytes account for the syndromes. -/
def rsTwoBytes (s0 s1 s2 s3 : Nat) : Bool :=
  (List.range 36).any fun i => (List.range i).any fun j =>
    let x := gfPow i
    let y := gfPow j
    let e := gfMul (s1 ^^^ gfMul s0 y) (gfExp (x ^^^ y) 254)
    let f := s0 ^^^ e
    gfMul e (gfMul x x) ^^^ gfMul f (gfMul y y) = s2 && gfMul e (gfExp x 3) ^^^ gfMul f (gfExp y 3) = s3

/-- Check one vault word (R256, R409). -/
def rsRead (d c : Nat) : Checked :=
  if d = 0 ∧ c = 2 ^ 32 - 1 then .marker
  else if d = 2 ^ 256 - 1 ∧ c = 0 then .poison
  else
    let w := rsWord d c
    let s0 := gfEval 1 w
    let s1 := gfEval 2 w
    let s2 := gfEval 4 w
    let s3 := gfEval 8 w
    let raw := s0 + 2 ^ 8 * s1 + 2 ^ 16 * s2 + 2 ^ 24 * s3
    if raw = 0 then .clean d
    else
      match firstFrom (fun p => s0 ≠ 0 && gfMul s0 (gfPow p) = s1 && gfMul s1 (gfPow p) = s2
          && gfMul s2 (gfPow p) = s3) 0 36 with
      | some p => if p < 4 then .corrected d 1 raw else .corrected (d ^^^ (s0 * 2 ^ (8 * (35 - p)))) 0 raw
      | none => .bad (if rsTwoBytes s0 s1 s2 s3 then 0 else 1) raw

/-! ### Coded storage -/

/-- The layout of a store: n data bytes and k check bytes to a codeword; r check bits of the Hamming code, or the vault
code where r is 32. -/
structure Codec where
  n : Nat
  k : Nat
  r : Nat

def shelfCodec : Codec := ⟨16, 2, 9⟩
def clmCodec : Codec := ⟨1, 1, 5⟩
def sramCodec : Codec := ⟨4, 1, 7⟩
def vaultCodec : Codec := ⟨32, 4, 32⟩

/-- What a byte reads as that nothing has written: the byte of the unwritten marker (R409, R411). -/
def Codec.unlisted (c : Codec) (a : Nat) : Byte :=
  if a % (c.n + c.k) < c.n then 0 else byteOf (2 ^ c.r - 1) (a % (c.n + c.k) - c.n)

/-- A byte of a store. -/
def cellRead (m : List Host.Cell) (c : Codec) (a : Nat) : Byte := look m a (c.unlisted a)

/-- Write a byte of a store; a byte equal to what an unlisted one reads as is not listed. -/
def cellWrite (m : List Host.Cell) (c : Codec) (a : Nat) (b : Byte) : List Host.Cell :=
  if b = c.unlisted a then drop m a else put m a b

/-- The canonical form of a store: addresses strictly rising, and no entry that equals what an unlisted address reads as. -/
def storeOk (c : Codec) : List Host.Cell → Bool
  | [] => true
  | [(a, b)] => b ≠ c.unlisted a
  | (a, b) :: (a', b') :: m => a < a' && b ≠ c.unlisted a && storeOk c ((a', b') :: m)

/-- Write bytes from an address upward. -/
def cellsWrite (m : List Host.Cell) (c : Codec) (a : Nat) : List Byte → List Host.Cell
  | [] => m
  | b :: bs => cellsWrite (cellWrite m c a b) c (a + 1) bs

/-- Data and check bits of codeword i as stored (a raw read, R414). -/
def rawGet (m : List Host.Cell) (c : Codec) (i : Nat) : Nat × Nat :=
  (leNat ((List.range c.n).map fun b => cellRead m c ((c.n + c.k) * i + b)),
   leNat ((List.range c.k).map fun b => cellRead m c ((c.n + c.k) * i + c.n + b)))

/-- Store data and check bits exactly as given (R414). -/
def rawPut (m : List Host.Cell) (c : Codec) (i d chk : Nat) : List Host.Cell :=
  cellsWrite m c ((c.n + c.k) * i) (leBytes d c.n ++ leBytes (chk % 2 ^ c.r) c.k)

def Codec.encode (c : Codec) (d : Nat) : Nat := if c.r = 32 then rsCheck d else hammingCheck (8 * c.n) c.r d

def Codec.check (c : Codec) (d chk : Nat) : Checked :=
  if c.r = 32 then rsRead d chk else hammingRead (8 * c.n) c.r d chk

/-- Read codeword i through its checker. -/
def wordRead (m : List Host.Cell) (c : Codec) (i : Nat) : Checked :=
  let x := rawGet m c i
  c.check x.1 x.2

/-- Write codeword i through its encoder. -/
def wordWrite (m : List Host.Cell) (c : Codec) (i d : Nat) : List Host.Cell := rawPut m c i d (c.encode d)

/-- Write the poison codeword (R409). -/
def wordPoison (m : List Host.Cell) (c : Codec) (i : Nat) : List Host.Cell := rawPut m c i (2 ^ (8 * c.n) - 1) 0

/-- Write the unwritten marker (R409). -/
def wordMark (m : List Host.Cell) (c : Codec) (i : Nat) : List Host.Cell := rawPut m c i 0 (2 ^ c.r - 1)

/-- Merge bytes into codeword i; an uncorrectable codeword stays as it was and is returned (R474). -/
def wordMerge (m : List Host.Cell) (c : Codec) (i new mask : Nat) : List Host.Cell × Checked :=
  if mask % 2 ^ c.n = 2 ^ c.n - 1 then (wordWrite m c i new, .clean new)
  else
    let f := wordRead m c i
    match f.data? with
    | some old => (wordWrite m c i (mergeBytes c.n old new mask), f)
    | none => (m, f)

/-! ### Words held with their codeword only where it is not the encoder's (R407, R410) -/

/-- The poison codeword of a 32-bit word (R409). -/
def poison32 : Nat × Nat := (2 ^ 32 - 1, 0)

/-- What the checker of a 32-bit word finds, where the word is uncorrectable. -/
def badWord (m : SMap (Nat × Nat)) (k : Nat) : Option Checked :=
  (find m k).bind fun x =>
    let f := hammingRead 32 7 x.1 x.2
    if f.data?.isNone then some f else none

/-! ### Time (R5, R30, R32) -/

/-- The present beat. -/
def now (s : State) : Nat := s.beat.toNat
/-- PCLK cycle number of edge j (R32). -/
def pclk (s : State) (j : Nat) : Nat := 5 * now s + j
/-- CCLK cycle number of edge j. -/
def cclk (s : State) (j : Nat) : Nat := 4 * now s + j

def wingOf (s : State) (w : Nat) : Wing := look s.wings w {}
def setWing (s : State) (w : Nat) (x : Wing) : State := { s with wings := put s.wings w x }

/-- The wing's clock runs: RUNNING, or in a change from RUNNING k (R377, R378). -/
def clockRuns (w : Wing) : Bool := w.clock = .running || (w.clock = .changing && w.k ≠ 0)

/-- The wing's GCLK number k × B + j of R89. -/
def gclk (s : State) (w j : Nat) : Nat := (wingOf s w).k * now s + j

/-- The wing's time at edge j: GCLK counted on unbroken through changes of k. -/
def wtime (s : State) (w j : Nat) : Nat := (((gclk s w j : Nat) : Int) + (wingOf s w).gOff).toNat

/-- The ratio to whose voltage a wing's rail is set: through a change, and for 500 beats after one to a lower ratio, the higher
(R377, R378). -/
def voltK (s : State) (x : Wing) : Nat := if now s < x.fallEnd then max x.kFrom x.kVolt else x.kVolt

/-- Edge j exists in this beat on the wing. -/
def edgeOk (s : State) (w j : Nat) : Bool := clockRuns (wingOf s w) && decide (j < (wingOf s w).k)

/-- The module is out of module reset, the condition of every command that is not the supervisor's. -/
def live (s : State) : Bool := !s.sup.inReset
/-- The always-on rail is up (R460, R467, R469). -/
def powered (s : State) : Bool := !s.sup.below20 && !s.sup.railOut
/-- The rails that R403 names stay off (R404, R449). -/
def coldHeld (s : State) : Bool := s.boot.tripped || s.boot.deaccessioned
/-- Registers outside CUR and the port-local regions take writes: not in the deaccessioned state (R450). -/
def regsOpen (s : State) : Bool := live s && !s.boot.deaccessioned

/-- The effect of an event whose condition holds; where it does not hold, the event has no effect. -/
def onlyIf (c : Bool) (s t : State) : Result := .next (if c then t else s)

/-! ### Units -/

def partOf (s : State) (p : Nat) : Part := look s.parts p {}
def setPart (s : State) (p : Nat) (x : Part) : State := { s with parts := put s.parts p x }
def mapPart (s : State) (p : Nat) (f : Part → Part) : State := setPart s p (f (partOf s p))

def coreOf (s : State) (c : Nat) : Core := look s.cores c {}
def setCore (s : State) (c : Nat) (x : Core) : State := { s with cores := put s.cores c x }
def cabOf (s : State) (c : Nat) : Cabinet := look s.cabinets c {}
def setCab (s : State) (c : Nat) (x : Cabinet) : State := { s with cabinets := put s.cabinets c x }
def mapCab (s : State) (c : Nat) (f : Cabinet → Cabinet) : State := setCab s c (f (cabOf s c))
def chanOf (s : State) (site : Nat) : Channel := look s.channels site {}
def setChannel (s : State) (site : Nat) (x : Channel) : State := { s with channels := put s.channels site x }
def sliceOf (s : State) (i : Nat) : Slice := look s.slices i {}
def setSlice (s : State) (i : Nat) (x : Slice) : State := { s with slices := put s.slices i x }
def mapSlice (s : State) (i : Nat) (f : Slice → Slice) : State := setSlice s i (f (sliceOf s i))
def pchOf (s : State) (i : Nat) : Pch := look s.pchs i {}
def setPch (s : State) (i : Nat) (x : Pch) : State := { s with pchs := put s.pchs i x }
def vaultOf (s : State) (i : Nat) : Vault := look s.vaults i {}
def setVault (s : State) (i : Nat) (x : Vault) : State := { s with vaults := put s.vaults i x }
def csvOf (s : State) (i : Nat) : Csv := look s.csvs i {}
def setCsv (s : State) (i : Nat) (x : Csv) : State := { s with csvs := put s.csvs i x }
def engOf (s : State) (i : Nat) : Engine := look s.engines i {}
def setEng (s : State) (i : Nat) (x : Engine) : State := { s with engines := put s.engines i x }
def portOf (s : State) (i : Nat) : Port := look s.ports i {}
def setPort (s : State) (i : Nat) (x : Port) : State := { s with ports := put s.ports i x }
def mapPort (s : State) (i : Nat) (f : Port → Port) : State := setPort s i (f (portOf s i))
def chanBlock (s : State) (i : Nat) : Chan := look s.chans i {}
def setChan (s : State) (i : Nat) (x : Chan) : State := { s with chans := put s.chans i x }
def colOf (s : State) (i : Nat) : Collector := look s.collectors i {}
def setCol (s : State) (i : Nat) (x : Collector) : State := { s with collectors := put s.collectors i x }
def regionOf (s : State) (i : Nat) : Region := look s.thermal.regions i {}

/-- Logical core number (16s + w) × 864 + 96 × cabinet + core. -/
def coreId (c : CoreRef) : Nat := c.wing.val * 864 + c.cab.val * 96 + c.core.val
def cabId (c : CabRef) : Nat := c.wing.val * 9 + c.cab.val
def wingOfCore (c : Nat) : Nat := c / 864
def cabOfCore (c : Nat) : Nat := c / 96
def coreInCab (c : Nat) : Nat := c % 96
def stackOfCore (c : Nat) : Nat := c / 13824

/-- Physical site number: (wing × 10 + cabinet site) × 100 + core site. -/
def siteId (r : SiteRef) : Nat := (r.wing.val * 10 + r.cabSite.val) * 100 + r.coreSite.val

/-- Physical cabinet site of a logical cabinet (R67, R69). -/
def cabSiteOf (s : State) (cab : Nat) : Nat := ((wingOf s (cab / 9)).map[cab % 9]?).getD (cab % 9)

/-- Physical core site of a logical core (R67, R69). -/
def siteOfCore (s : State) (c : Nat) : Nat :=
  let inCab := match (cabOf s (cabOfCore c)).map with
    | some l => (l[coreInCab c]?).getD (coreInCab c)
    | none => coreInCab c
  (wingOfCore c * 10 + cabSiteOf s (cabOfCore c)) * 100 + inCab

/-- Logical cabinets of a wing (R69). -/
def logicalCabs (s : State) (w : Nat) : Nat := (wingOf s w).map.length

/-- Cabinet sites of a core's cabinet, as R419 numbers them in the stack. -/
def cabUnit (s : State) (cab : Nat) : Nat := 10 * ((cab / 9) % 16) + cabSiteOf s cab

/-! ### Ownership (R312, R334) -/

def owned (p : Part) : Bool := p.state ≠ .absent

/-- The partition, if any, that satisfies a test. -/
def ownerWhere (s : State) (f : Part → Bool) : Option Nat :=
  (List.range 8).find? fun p => owned (partOf s p) && f (partOf s p)

def ownerOfWing (s : State) (w : Nat) : Option Nat := ownerWhere s fun p => p.wings.getLsbD w
def ownerOfPort (s : State) (i : Nat) : Option Nat := ownerWhere s fun p => p.ports.getLsbD i
def ownerOfGranule (s : State) (g : Nat) : Option Nat := (find s.granules g).map (·.part)

/-- The pinned granule of a pseudo-channel. -/
def pinnedAt (s : State) (P : Nat) : Option (Nat × Granule) :=
  s.granules.find? fun g => g.2.kind = .pinned && g.2.pch = P

/-- The partition a pseudo-channel belongs to (R249). -/
def ownerOfPch (s : State) (P : Nat) : Option Nat :=
  match pinnedAt s P with
  | some g => some g.2.part
  | none => ownerWhere s fun p => p.half = some (decide (P % 2 = 1))

/-! ### Pins, alarms and outputs -/

def emit (s : State) (o : Output) : State := { s with out := s.out ++ [o] }

/-- CUR_ALERT (R461). -/
def alertWord (s : State) : BitVec 6 :=
  let thermal := s.thermal.regions.any fun r => r.2.episode ≠ .normal
  BitVec.ofNat 6 (b2n thermal + 2 * b2n s.power.guard + 4 * b2n s.boot.alertRail + 8 * b2n s.boot.deaccessioned
    + 16 * b2n s.boot.alertSensor + 32 * b2n s.boot.alertLog)

/-- Raise an in-band interrupt with its payload byte, if ENEC has enabled them (R465). -/
def raiseIbi (s : State) (b : BitVec 8) : State := if s.sideband.events.getLsbD 0 then emit s (.ibi b) else s

/-! ### Error reports (R419 to R422) -/

/-- The byte of an image that lies at a byte of a step store, given the image's spans. -/
def imageByte : List (Nat × Nat) → Nat → Option Nat
  | [], _ => none
  | (b, n) :: l, off => if b ≤ off ∧ off < b + n then some (off - b) else (imageByte l off).map (· + n)

/-- The byte of a step store that holds a byte of an image. -/
def storeByte : List (Nat × Nat) → Nat → Nat
  | [], _ => 0
  | (b, n) :: l, i => if i < n then b + i else storeByte l (i - n)

/-- The partition, and the handle, whose image holds a byte of a stack's step store (R43, R410). -/
def stepHolder (s : State) (stack off : Nat) : Option (Nat × Nat × Nat) :=
  (List.range 8).findSome? fun p => (partOf s p).bound.findSome? fun b =>
    (imageByte (look b.2.places stack []) off).map fun i => (p, b.1, i)

def stepOwner (s : State) (stack off : Nat) : Option Nat := (stepHolder s stack off).map (·.1)

/-- Interleaved granule that holds byte `off` of pseudo-channel P, or the one pinned to P. -/
def granuleAt (s : State) (P off : Nat) : Option Granule :=
  match pinnedAt s P with
  | some g => some g.2
  | none => (s.granules.find? fun g => g.2.kind = .interleaved && g.2.half = decide (P % 2 = 1)
      && g.2.rank = off / 2097152).map (·.2)

/-- The line a slice location names. -/
def lineAt (sl : Slice) (loc : Nat) : Option Line :=
  match find sl.frames (16 * bits loc 0 11 + bits loc 11 4) with
  | some f => if bits loc 15 1 = 0 then f.half0 else f.half1
  | none => none

/-- The owner of a report's location. -/
def locOwner (s : State) (stack : Nat) (r : Report) : Option Nat :=
  let unit := r.source.toNat % 4096
  let loc := r.loc.toNat
  match r.source.toNat / 4096 with
  | 1 => ownerOfWing s (16 * stack + unit / 10)
  | 2 =>
    if bits loc 18 1 = 1 then (find (sliceOf s (64 * stack + unit)).wb (bits loc 19 4)).map (·.part)
    else (lineAt (sliceOf s (64 * stack + unit)) loc).bind fun l => ownerOfGranule s l.granule
  | 3 => (granuleAt s (bits loc 0 10) (bits loc 10 30)).map (·.part)
  | 4 => ownerOfPch s (64 * (2 * stack + unit / 64) + unit % 64)
  | 5 =>
    if r.mem = 8 then (granuleAt s (bits loc 0 10) (bits loc 10 30)).map (·.part)
    else (find (engOf s (6 * stack + unit)).ctx (bits loc 0 4)).map (·.job.part)
  | 6 => if r.mem = 8 then (granuleAt s (bits loc 0 10) (bits loc 10 30)).map (·.part) else ownerOfPort s stack
  | 7 =>
    stepOwner s stack (bits loc 0 23)
  | _ => none

/-- Put a checker's report before its collector, with the owner of its location (R419, R424). -/
def reportOwned (s : State) (stack : Nat) (r : Report) (p : Option Nat) : State :=
  let c := colOf s stack
  setCol s stack { c with queue := c.queue ++ [⟨r, p⟩] }

/-- Put a checker's report before its collector (R419). -/
def report (s : State) (stack : Nat) (r : Report) : State := reportOwned s stack r (locOwner s stack r)

/-- CLASS and SYND of a finding (R419). -/
def Checked.cls : Checked → Nat × Nat × Nat
  | .clean _ => (0, 0, 0)
  | .corrected _ y raw => (1, y, raw)
  | .marker => (3, 0, 0)
  | .poison => (2, 2, 0)
  | .bad y raw => (2, y, raw)

def mkReport (kind unit mem : Nat) (f : Checked) (loc : Nat) (scrub : Bool) : Report :=
  { source := BitVec.ofNat 16 (kind * 4096 + unit), mem := BitVec.ofNat 4 mem, cls := BitVec.ofNat 4 f.cls.1,
    synd := BitVec.ofNat 4 f.cls.2.1, loc := BitVec.ofNat 48 loc, syndrome := BitVec.ofNat 32 f.cls.2.2, scrub := scrub }

/-- Report a finding, if it is one that is reported. -/
def reportFinding (s : State) (stack kind unit mem : Nat) (f : Checked) (loc : Nat) : State :=
  if f.cls.1 = 0 then s else report s stack (mkReport kind unit mem f loc false)

/-! ### Job faults (R337, R477) -/

/-- A job fault is raised in a partition; JOB_FAULT_DELIVERY delivers it. -/
def raiseFault (s : State) (p : Nat) (f : FaultRec) : State :=
  if owned (partOf s p) then mapPart s p fun x => { x with faults := x.faults ++ [f] } else s

def raiseFaultO (s : State) (p : Option Nat) (f : FaultRec) : State :=
  match p with
  | some p => raiseFault s p f
  | none => s

/-- A finding is reported, and an uncorrectable one is a job fault in the owner of the storage (R21, R424, R477). -/
def faultFinding (s : State) (p : Option Nat) (stack kind unit mem : Nat) (f : Checked) (loc : Nat) : State :=
  let s := if f.cls.1 = 0 then s else reportOwned s stack (mkReport kind unit mem f loc false) p
  if 2 ≤ f.cls.1 then
    raiseFaultO s p ⟨kind, f.cls.1, stack, unit, some (kind * 4096 + unit, f.cls.1, f.cls.2.1, stack)⟩
  else s

/-- Record a kernel fault in CAB_FAULT0 and CAB_FAULT1: the first in the cabinet, and in one GCLK the lowest core's
(R105, R145). -/
def recordKernelFault (s : State) (cab core tour code pc lanes g : Nat) : State :=
  let c := cabOf s cab
  let first := !c.faultSet || (c.faultAt = g && core < bits c.fault0.toNat 8 7)
  setCab s cab (if first then
      { c with faultSet := true, faultAt := g,
               fault0 := BitVec.ofNat 32 (code + 256 * core + 32768 * tour),
               fault1 := BitVec.ofNat 32 (4 * pc + 65536 * lanes) }
    else c)

/-- Record a kernel fault; the partition takes a job fault. -/
def kernelFault (s : State) (cab core tour code pc lanes g : Nat)
    (why : Option (Nat × Nat × Nat × Nat) := none) : State :=
  raiseFaultO (recordKernelFault s cab core tour code pc lanes g) (ownerOfWing s (cab / 9)) ⟨1, code, cab / 144, cabUnit s cab, why⟩

/-! ### W1C bits (R11)

A register write has no finer time than its beat, so the cycle of a bit is the beat, and the CCLK in a conservator's window (DESIGN CHOICE). -/

/-- The bits, of a register of w bits whose keys begin at `off`, that hardware has set in cycle t. -/
def setIn (m : SMap Nat) (off w t : Nat) : BitVec w :=
  BitVec.ofNat w ((List.range w).foldl (fun a i => if find m (off + i) = some t then a + 2 ^ i else a) 0)

/-- A field of type W1C after a write; `fresh` are the bits that hardware has set in this cycle (R11). -/
def w1c {w : Nat} (old : BitVec w) (lo : Nat) (ones : Word) (fresh : BitVec w) : BitVec w :=
  old &&& ~~~ ((ones >>> lo).setWidth w &&& ~~~ fresh)

/-- A one-bit W1C field, whose last set by hardware was in cycle `setAt`, after a write in cycle t (R11). -/
def w1cBit (old : Bool) (i : Nat) (ones : Word) (setAt : Option Nat) (t : Nat) : Bool := old && (!ones.getLsbD i || setAt = some t)

def Cabinet.flag (x : Cabinet) (i t : Nat) : Cabinet := { x with status := setBit x.status i, setAt := put x.setAt i t }
def Slice.flag (x : Slice) (i t : Nat) : Slice := { x with status := setBit x.status i, setAt := put x.setAt i t }
def Vault.flag (x : Vault) (i t : Nat) : Vault := { x with status := setBit x.status i, setAt := put x.setAt i t }
def Engine.flag (x : Engine) (i t : Nat) : Engine := { x with status := setBit x.status i, setAt := put x.setAt i t }
def Port.flag (x : Port) (i t : Nat) : Port := { x with status := setBit x.status i, setAt := put x.setAt i t }
def Csv.flag (x : Csv) (i t : Nat) : Csv := { x with status := setBit x.status i, setAt := put x.setAt i t }
/-- A bit of CSV_FAULT. -/
def Csv.faultFlag (x : Csv) (i t : Nat) : Csv := { x with faultBits := setBit x.faultBits i, setAt := put x.setAt (16 + i) t }
/-- RAIL_FAULT (2), SENSOR (4) or LOG_OVERFLOW (5) of CUR_ALERT. -/
def Boot.alert (x : Boot) (i t : Nat) : Boot :=
  { x with alertRail := x.alertRail || i = 2, alertSensor := x.alertSensor || i = 4, alertLog := x.alertLog || i = 5
           setAt := put x.setAt i t }
/-- A bit of SEQ_STATUS. -/
def Part.flag (x : Part) (i t : Nat) : Part := { x with seqStatus := setBit x.seqStatus i, setAt := put x.setAt i t }
/-- A bit of PWR_P_STATUS. -/
def Part.powerFlag (x : Part) (i t : Nat) : Part := { x with pStatus := setBit x.pStatus i, setAt := put x.setAt (16 + i) t }

/-! ### Host ports: messages, completions and events (R327 to R332) -/

/-- The vector is masked, by its own Mask bit or the function's. Vector Control is word 4v + 3 of the table. -/
def vectorMasked (p : Port) (vec : Nat) : Bool := p.msixMasked || (look p.msix (4 * vec + 3) 1).getLsbD 0

/-- Send a vector's message, or hold it pending while the vector is masked; with MSI-X off the port sends none (R311, R328). -/
def sendVector (s : State) (port vec : Nat) : State :=
  let p := portOf s port
  if !p.msixOn then s
  else if vectorMasked p vec then
    setPort s port { p with pba := if vec ∈ p.pba then p.pba else p.pba ++ [vec] }
  else emit s (.msix port vec)

/-- Send every pending message whose vector is no longer masked. -/
def sendPending (s : State) (port : Nat) : State :=
  let p := portOf s port
  if !p.msixOn then s
  else
    (p.pba.filter fun v => !vectorMasked p v).foldl (fun s v => emit s (.msix port v))
      (setPort s port { p with pba := p.pba.filter (vectorMasked p) })

def portOfRing (id : Nat) : Nat := id / 32768

def ringEntries (r : Ring) : Nat := 2 ^ r.log2
/-- Entries a ring holds (R320). -/
def ringHeld (r : Ring) : Nat := (r.tail - r.head).toNat

/-- PHASE of the entry at the tail (R327). -/
def ringPhase (r : Ring) : Nat := 1 - (r.tail.toNat / ringEntries r) % 2

/-- The entry with its PHASE, OVERFLOW and, for an event, its count of lost entries filled in (R327, R331). -/
def stampEntry (r : Ring) (e : BitVec 512) : BitVec 512 :=
  let e := e ||| (BitVec.ofNat 512 (ringPhase r) <<< 63)
  if r.type_ = 2 then
    e ||| (BitVec.ofNat 512 (b2n r.overflow) <<< 8) ||| (BitVec.ofNat 512 (min r.lost 0xFFFF) <<< 16)
  else e ||| (BitVec.ofNat 512 (b2n r.overflow) <<< 54)

/-- Write an entry at the tail, advance the tail and send the message of an ARMED ring (R327, R328). -/
def writeRingEntry (s : State) (id : Nat) (r : Ring) (e : BitVec 512) : State :=
  let s := emit s (.hostWrite (portOfRing id) (r.base.toNat + 64 * (r.tail.toNat % ringEntries r))
    (BitVec.allOnes 64) (stampEntry r e))
  let s := { s with rings := put s.rings id { r with tail := r.tail + 1, armed := false, overflow := false, lost := 0 } }
  if r.armed then sendVector s (portOfRing id) r.vector.toNat else s

/-- Entries of a ring whose writes wait for the port's DMA engine. -/
def entriesOut (s : State) (id : Nat) : Nat := (s.net.filter fun x => x.2.origin = .registrar id).length

/-- A ring has an entry free for one more write (R329). -/
def entryFree (s : State) (id : Nat) (r : Ring) : Bool := ringHeld r + entriesOut s id < ringEntries r

/-- The registrar presents an entry's write at the port's DMA engine at PCLK pc (R333, R336); PHASE, OVERFLOW and the place are those
of the write. -/
def presentEntry (s : State) (id : Nat) (r : Ring) (e : BitVec 512) (pc : Nat) : State :=
  let q : Req := { origin := .registrar id, part := r.part, lane := none, cls := portOfRing id, kind := .hostWrite, addr := 0
                   mask := BitVec.allOnes 64, data := e, route := [(5, portOfRing id)], stage := .route pc, seq := s.nextReq }
  { s with net := put s.net s.nextReq q, nextReq := s.nextReq + 1 }

/-- Post an entry on a completion or event ring at PCLK pc: presented, held, or dropped and counted (R327, R329). -/
def postEntryAt (s : State) (id : Nat) (e : BitVec 512) (pc : Nat) : State :=
  match find s.rings id with
  | none => s
  | some r =>
    if r.held = [] ∧ entryFree s id r then presentEntry s id r e pc
    else if r.held.length < 64 then { s with rings := put s.rings id { r with held := r.held ++ [e] } }
    else
      let s := { s with rings := put s.rings id { r with overflow := true, lost := r.lost + 1 } }
      mapPart s r.part fun p => { p with rgsLost := satAdd p.rgsLost 1 }

/-- Post an entry at the beat's first PCLK. -/
def postEntry (s : State) (id : Nat) (e : BitVec 512) : State := postEntryAt s id e (5 * now s)

/-- Descriptors of a submission ring that no fetch has read or is reading (R323). -/
def unfetched (x : Port) (id : Nat) (r : Ring) : Nat :=
  ringHeld r - (match x.fetch with | some f => if f.ring = id then f.keep else 0 | none => 0)

/-- A ring with unfetched descriptors joins the tail of its port's fetch queue; from beat b the port may fetch (R323). -/
def queueRing (s : State) (id b : Nat) : State :=
  match find s.rings id with
  | none => s
  | some r => mapPort s (portOfRing id) fun x =>
      if id ∈ x.fetchQueue || unfetched x id r = 0 then x
      else { x with fetchQueue := x.fetchQueue ++ [id]
                    nextFetch := if x.fetchQueue = [] then max x.nextFetch (5 * b) else x.nextFetch }

/-- HELD clears, and the fetches of the partition's ports resume at the next beat (R338). -/
def clearHeld (s : State) (p : Nat) : State :=
  let s := mapPart s p fun x => { x with held := find x.setAt 32 = some (now s), heldClearedAt := some (now s) }
  { s with ports := s.ports.map fun q =>
      if (partOf s p).ports.getLsbD q.1 then (q.1, { q.2 with nextFetch := max q.2.nextFetch (5 * (now s + 1)) }) else q }

/-- Little-endian packing of 32-bit words into a 64 B block. -/
def packWords : List Nat → Nat
  | [] => 0
  | w :: ws => w % 2 ^ 32 + 2 ^ 32 * packWords ws

def eventBlock (code part beat : Nat) (payload : List Nat) : BitVec 512 :=
  BitVec.ofNat 512 (packWords ([code, part, beat, beat / 2 ^ 32] ++ payload))

/-- Post an event on every event ring of a partition (R331). -/
def postEvent (s : State) (part code : Nat) (payload : List Nat) : State :=
  (s.rings.filter fun r => r.2.type_ = 2 && r.2.part = part).foldl
    (fun s r => postEntry s r.1 (eventBlock code part (now s) payload)) s

/-- Set an HP_STATUS bit on every port and send vector 0 of each (R332). -/
def portsNotice (s : State) (bit : Nat) : State :=
  (List.range 8).foldl (fun s p => sendVector (mapPort s p fun x => x.flag bit (now s)) p 0) s

/-- Post an event marked "all" (R331, R332). -/
def postEventAll (s : State) (code bit : Nat) (payload : List Nat) : State :=
  portsNotice ((List.range 8).foldl (fun s p => if owned (partOf s p) then postEvent s p code payload else s) s) bit

/-- The run state's code (R48). -/
def RunState.code : RunState → Nat
  | .unbound => 0 | .bound => 1 | .gated => 2 | .budget => 3 | .committed => 4 | .stepping => 5 | .stopping => 6

/-- A completion entry (R327). -/
def completionBlock (s : State) (part kind status : Nat) (tag : BitVec 16) (sq : Nat) (sqHead : Nat) (index : Nat)
    (rest : List Nat) (tier beat : Nat) : BitVec 512 :=
  let p := partOf s part
  BitVec.ofNat 512 (packWords ([kind + 256 * status + 65536 * tag.toNat, sq + 2 ^ 18 * p.runState.code,
    sqHead + 65536 * p.job.toNat, index] ++ rest ++ [tier, beat, beat / 2 ^ 32]))

/-! ### The configuration epoch (R351) -/

/-- The epoch moves; the EPOCH event of the beat goes out at the beat's end. -/
def moveEpoch (s : State) : State :=
  { s with curator := { s.curator with epoch := s.curator.epoch + 1, epochMoved := true } }

/-! ### The inputs of an evaluation (R54) -/

/-- Keep a partition's gate counters and tier caps as the beat began, before a change of one of them in beat b. -/
def latchInputs (x : Part) (b : Nat) : Part :=
  if x.changedAt = some b then x
  else { x with changedAt := some b, gatesWas := x.gates, capHostWas := x.capHost, capThermalWas := x.capThermal }

/-- The partition as an evaluation in beat b reads it, at the beat's first edge. -/
def seenInputs (x : Part) (b : Nat) : Part :=
  if x.changedAt = some b then { x with gates := x.gatesWas, capHost := x.capHostWas, capThermal := x.capThermalWas } else x

/-! ### Switched domains (R58, R59, R370) -/

def domsOf (s : State) : SwKind → SMap Dom
  | .wing => []
  | .cabinet => s.cabSites
  | .bankGroup => s.bankGroups
  | .slice => s.sliceDoms
  | .conservator => s.csvDoms
  | .engine => s.engineDoms

def domOf (s : State) (k : SwKind) (i : Nat) : Dom := look (domsOf s k) i {}

def setDom (s : State) (k : SwKind) (i : Nat) (d : Dom) : State :=
  match k with
  | .wing => s
  | .cabinet => { s with cabSites := put s.cabSites i d }
  | .bankGroup => { s with bankGroups := put s.bankGroups i d }
  | .slice => { s with sliceDoms := put s.sliceDoms i d }
  | .conservator => { s with csvDoms := put s.csvDoms i d }
  | .engine => { s with engineDoms := put s.engineDoms i d }

def domOn (s : State) (k : SwKind) (i : Nat) : Bool := (domOf s k i).state = .on

/-- Wake time of a switched-off domain (R58). -/
def wakeBeats : SwKind → Nat
  | .wing => 10000
  | .cabinet => 300
  | .bankGroup => 250
  | .slice => 300
  | .conservator => 2500
  | .engine => 300

/-- The rail that feeds a domain of kinds 0x3 to 0x6 (R368). -/
def railOfDom (k : SwKind) (i : Nat) : Nat :=
  match k with
  | .wing => i
  | .cabinet => i / 10
  | .bankGroup => 128 + 2 * (i / 32) + i % 2
  | .slice => 144 + i / 64
  | .conservator => 152 + i / 64
  | .engine => 144 + i / 6

/-- A domain that no committed step lists sends its own notice for its rail when its wake begins (R373). The spec gives such a
notice no held period and no current: it stands for the wake. -/
def demandNotice (s : State) (k : SwKind) (i : Nat) : State :=
  { s with power := { s.power with
      notices := (s.power.notices.filter fun x => now s < x.2.1) ++ [(railOfDom k i, now s + wakeBeats k, 0)] } }

/-- A request meets a domain that is not awake: its wake starts, if it has not (R192, R240, R262, R307, R373). -/
def demandWake (s : State) (k : SwKind) (i : Nat) : State :=
  let d := domOf s k i
  if d.state = .off then demandNotice (setDom s k i ⟨.waking, now s + wakeBeats k⟩) k i else s

/-- The beat at which a domain that a request met becomes usable. -/
def usableAt (s : State) (k : SwKind) (i : Nat) : Nat :=
  match (domOf s k i).state with
  | .on => now s
  | .waking => (domOf s k i).until_
  | .off => now s + wakeBeats k

def SwKind.code : SwKind → Nat
  | .wing => 1 | .cabinet => 2 | .bankGroup => 3 | .slice => 4 | .conservator => 5 | .engine => 6

def SwKind.ofCode : Nat → Option SwKind
  | 1 => some .wing | 2 => some .cabinet | 3 => some .bankGroup | 4 => some .slice | 5 => some .conservator
  | 6 => some .engine | _ => none

def SwKind.count : SwKind → Nat
  | .wing => 128 | .cabinet => 1280 | .bankGroup => 256 | .slice => 512 | .conservator => 1024 | .engine => 48

/-- A domain of R442 is in reset. -/
def inDomainReset (s : State) (kind index : Nat) : Bool := (find s.resets (256 * kind + index)).isSome

/-- A free value (the spec leaves it open), and the state with the next one in line. -/
def freeWord (s : State) : Word × State := (Config.freeWord s.free, { s with free := s.free + 1 })
def freeBlock (s : State) : Block × State := (Config.freeBlock s.free, { s with free := s.free + 1 })

/-! ### Rails and accounts (R368, R380 to R385) -/

/-- Rated and idle power of a rail in mW, with the 0.375 mW of the vault base-die logic's 20.625 W kept (R368). -/
def ratedMw (r : Nat) : Nat :=
  if r < 128 then 52500 else if r < 144 then 28000 else if r < 152 then 90000 else if r < 168 then 20625
  else if r < 184 then 31500 else if r < 200 then 24000 else if r < 208 then 36000 else if r = 208 then 15000 else 2160

def idleMw (r : Nat) : Nat :=
  if r < 128 then 6000 else if r < 144 then 8000 else if r < 152 then 25000 else if r < 168 then 5000
  else if r < 184 then 6000 else if r < 200 then 4000 else if r < 208 then 12000 else if r = 208 then 8000 else 2000

/-- Rated current in 10 mA (R368). -/
def ratedAmps (r : Nat) : Nat :=
  if r < 128 then 7000 else if r < 144 then 4000 else if r < 152 then 12000 else if r < 168 then 2750
  else if r < 184 then 3000 else if r < 200 then 6000 else if r < 208 then 4000 else if r = 208 then 2000 else 120

/-- Wings of stack s that a partition holds. -/
def wingsHeld (p : Part) (s : Nat) : Nat := popCount (p.wings.toNat >>> (16 * s)) 16

/-- The weight w of a rail for a partition, as numerator and denominator (R368). -/
def weight (p : Part) (r : Nat) : Nat × Nat :=
  if r < 128 then (b2n (p.wings.getLsbD r), 1)
  else if r < 144 then (wingsHeld p ((r - 128) / 2), 16)
  else if r < 200 then (p.share, 1024)
  else if r < 208 then (b2n (p.ports.getLsbD (r - 200)), 1)
  else (0, 1)

/-- The input limit as beat b began: a write in b acts at a later beat (R381). -/
def limitAtStart (w : Power) (b : Nat) : Nat := if w.limitAt = some b then w.limitWas else w.inputLimit

/-- The allowed power of a rail in force, in mW (R381, R399). -/
def allowedMw (s : State) (r : Nat) : Nat := look s.power.allow r 0

/-- Fill rate of a rail account in mW (R380). -/
def railFill (s : State) (p : Part) (r : Nat) : Nat :=
  (allowedMw s r - idleMw r) * (weight p r).1 / (weight p r).2

/-- Capacity of a rail account in µJ (R380): 20 ms of (q − i) × w. -/
def railCap (p : Part) (r : Nat) : Nat := (ratedMw r - idleMw r) * 20 * (weight p r).1 / (weight p r).2

/-- P_lim in mW: PWR_INPUT_LIMIT in force, or 0.9 times it while the guard is engaged (R380, R381). -/
def limitMw (s : State) : Nat := if s.power.guardOn then s.power.limitOn * 900 else s.power.limitOn * 1000

/-- Fill rate of the input account in mW (R380). -/
def inputFill (s : State) (p : Part) : Nat := (limitMw s * 92 / 100 - 1442000) * p.share / 1024

/-- Capacity of the input account in µJ (R380). -/
def inputCap (p : Part) : Nat := 29440000 * p.share / 1024

def clip (b : Int) (capUj : Nat) : Int := min b ((capUj : Int) * 1000000)

/-- The rails for which a partition holds an account. -/
def accountRails (p : Part) : List Nat := (List.range 210).filter fun r => (weight p r).1 ≠ 0

/-- The energy accounts exist from the partition's creation (R387). -/
def balanceOf (p : Part) (r : Nat) : Int := look p.balances r 0

/-- Charge work that no committed step accounts for (R385). -/
def charge (s : State) (pi rail pj : Nat) : State :=
  let p := partOf s pi
  if !owned p then s else
    let inB := p.inBalance - pj
    let hasRail := (weight p rail).1 ≠ 0
    let rb := balanceOf p rail - pj
    let p := { p with inBalance := inB, metered := satAdd p.metered pj,
                      balances := if hasRail then put p.balances rail rb else p.balances }
    let neg := inB < 0 || (hasRail && rb < 0)
    setPart s pi (if neg then p.powerFlag 1 (now s) else p)

end Sys2Proof.Machine
end

