-- ==== Sys2Proof/Machine/Flags.lean ====
section
/-! DEFINITION. The number formats and their arithmetic (R120 to R124, R131, R132, R152, R166 to R186). The module has no
condition flags and raises no IEEE exception flags (R166); predicates are computed here. -/

namespace Sys2Proof.Machine

/-- The value of an encoding: NaN, an infinity, or (−1)^neg × m × 2^e. -/
inductive Val where
  | nan
  | inf (neg : Bool)
  | fin (neg : Bool) (m : Nat) (e : Int)
deriving DecidableEq, Repr

/-! ### Rounding (R178) -/

/-- m × 2^e ÷ 2^q rounded to the nearest integer, ties to even. -/
def roundAt (m : Nat) (e q : Int) : Nat :=
  if q ≤ e then m * 2 ^ (e - q).toNat
  else
    let d := (q - e).toNat
    let h := m / 2 ^ d
    let r := 2 * (m % 2 ^ d)
    if r < 2 ^ d then h else if 2 ^ d < r then h + 1 else h + h % 2

/-- A binary floating-point layout: p mantissa bits, w exponent bits, and the bias. -/
structure FpFmt where
  p : Nat
  w : Nat
  bias : Int

def fmt32 : FpFmt := ⟨23, 8, 127⟩
def fmt16 : FpFmt := ⟨10, 5, 15⟩
def fmtB16 : FpFmt := ⟨7, 8, 127⟩

/-- Exponent of the last place of a subnormal. -/
def FpFmt.emin (f : FpFmt) : Int := 1 - f.bias - f.p

/-- The value of sign, exponent field and mantissa field, all exponents finite (R168). -/
def FpFmt.finite (f : FpFmt) (x : Nat) : Val :=
  let neg := x.testBit (f.p + f.w)
  let e := bits x f.p f.w
  let m := bits x 0 f.p
  if e = 0 then .fin neg m f.emin else .fin neg (2 ^ f.p + m) (f.emin + e - 1)

/-- The value of an IEEE 754-2019 encoding (R174). -/
def FpFmt.decode (f : FpFmt) (x : Nat) : Val :=
  if bits x f.p f.w = 2 ^ f.w - 1 then
    if bits x 0 f.p = 0 then .inf (x.testBit (f.p + f.w)) else .nan
  else f.finite x

/-- The magnitude bits of m × 2^e rounded to the format, with the exponent range unbounded above (R178). -/
def FpFmt.roundMag (f : FpFmt) (m : Nat) (e : Int) : Nat :=
  let q := max f.emin ((Nat.log2 m : Int) + e - f.p)
  (q - f.emin).toNat * 2 ^ f.p + roundAt m e q

/-- Round to an IEEE 754-2019 format: NaN is the quiet NaN, overflow gives infinity (R120, R174, R178). -/
def FpFmt.encode (f : FpFmt) (v : Val) : Nat :=
  let top := (2 ^ f.w - 1) * 2 ^ f.p
  let sign (neg : Bool) := b2n neg * 2 ^ (f.p + f.w)
  match v with
  | .nan => top + 2 ^ (f.p - 1)
  | .inf neg => sign neg + top
  | .fin neg m e => sign neg + (if m = 0 then 0 else min top (f.roundMag m e))

def dec32 (x : Word) : Val := fmt32.decode x.toNat
def enc32 (v : Val) : Word := BitVec.ofNat 32 (fmt32.encode v)

/-! ### Arithmetic on values -/

def Val.neg : Val → Val
  | .nan => .nan
  | .inf n => .inf (!n)
  | .fin n m e => .fin (!n) m e

/-- The exact product (R182). A zero product has the sign that the operands' signs give, in MXINT8 too (DEDUCED, log entry 188). -/
def Val.mul : Val → Val → Val
  | .nan, _ => .nan
  | _, .nan => .nan
  | .inf a, .inf b => .inf (a != b)
  | .inf a, .fin b m _ => if m = 0 then .nan else .inf (a != b)
  | .fin a m _, .inf b => if m = 0 then .nan else .inf (a != b)
  | .fin a m e, .fin b n f => .fin (a != b) (m * n) (e + f)

def signedMag (neg : Bool) (m : Nat) : Int := if neg then -(m : Int) else m

/-- Exact sum; an exact zero is −0 only where both operands are negative (IEEE 754-2019, rounding to nearest). -/
def Val.add : Val → Val → Val
  | .nan, _ => .nan
  | _, .nan => .nan
  | .inf a, .inf b => if a = b then .inf a else .nan
  | .inf a, .fin .. => .inf a
  | .fin .., .inf b => .inf b
  | .fin a m e, .fin b n f =>
    let g := min e f
    let x := signedMag a (m * 2 ^ (e - g).toNat) + signedMag b (n * 2 ^ (f - g).toNat)
    if x = 0 then .fin (a && b) 0 g else .fin (x < 0) x.natAbs g

def fadd32 (a b : Word) : Word := enc32 ((dec32 a).add (dec32 b))
def fsub32 (a b : Word) : Word := enc32 ((dec32 a).add (dec32 b).neg)
def fmul32 (a b : Word) : Word := enc32 ((dec32 a).mul (dec32 b))
def ffma32 (a b c : Word) : Word := enc32 (((dec32 a).mul (dec32 b)).add (dec32 c))

def isNan32 (a : Word) : Bool := dec32 a = .nan

def quietNan : Word := 0x7FC00000#32

/-- The order of IEEE 754-2019 numbers, with −0 below +0. -/
def totalKey (a : Word) : Int :=
  if a.getLsbD 31 then -1 - ((a.toNat % 2 ^ 31 : Nat) : Int) else ((a.toNat % 2 ^ 31 : Nat) : Int)

/-- The order of numbers, with −0 equal to +0. -/
def numKey (a : Word) : Int :=
  if a.getLsbD 31 then -((a.toNat % 2 ^ 31 : Nat) : Int) else ((a.toNat % 2 ^ 31 : Nat) : Int)

/-- Minimum and maximum (R183). -/
def fmin32 (a b : Word) : Word :=
  if isNan32 a || isNan32 b then quietNan else if totalKey a ≤ totalKey b then a else b
def fmax32 (a b : Word) : Word :=
  if isNan32 a || isNan32 b then quietNan else if totalKey a ≤ totalKey b then b else a

/-! ### The special functions (R121) -/

def isqrtAux (x : Nat) : Nat → Nat → Nat
  | 0, r => r
  | n + 1, r => isqrtAux x n (if (r + 2 ^ n) * (r + 2 ^ n) ≤ x then r + 2 ^ n else r)

/-- ⌊√x⌋. -/
def isqrt (x : Nat) : Nat := isqrtAux x (Nat.log2 x / 2 + 1) 0

/-- A quotient with 30 bits or more, and a last bit for the inexact. -/
def recipVal (neg : Bool) (m : Nat) (e : Int) : Val :=
  let k := Nat.log2 m + 30
  .fin neg (2 * (2 ^ k / m) + b2n (2 ^ k % m ≠ 0)) (-(k : Int) - 1 - e)

def frcp32 (a : Word) : Word :=
  enc32 (match dec32 a with
    | .nan => .nan
    | .inf n => .fin n 0 0
    | .fin n m e => if m = 0 then .inf n else recipVal n m e)

def rsqrtVal (m : Nat) (e : Int) : Val :=
  let m' := if e % 2 = 0 then m else 2 * m
  let e' := if e % 2 = 0 then e else e - 1
  let k := Nat.log2 m' / 2 + 31
  let r := isqrt (2 ^ (2 * k) / m')
  .fin false (2 * r + b2n (r * r * m' ≠ 2 ^ (2 * k))) (-(k : Int) - 1 - e' / 2)

/-- rSqrt: ±0 gives ±∞, and a negative number NaN. -/
def frsqrt32 (a : Word) : Word :=
  enc32 (match dec32 a with
    | .nan => .nan
    | .inf n => if n then .nan else .fin false 0 0
    | .fin n m e => if m = 0 then .inf n else if n then .nan else rsqrtVal m e)

/-- ⌊ln 2 × 2¹⁶⁰⌋. -/
def ln2Scaled : Nat := 1013035739299659071135698605846798551586536899366

/-- Σ yᵏ ÷ k! in units of 2⁻¹⁶⁰, from term k on. -/
def expSeries (y : Nat) : Nat → Nat → Nat → Nat
  | 0, _, _ => 0
  | n + 1, k, t => t + expSeries y n (k + 1) (t * y / 2 ^ 160 / (k + 1))

/-- 2^(i + f ÷ 2¹⁶⁰), with a last bit for the inexact. -/
def exp2Val (i : Int) (f : Nat) : Val :=
  if f = 0 then .fin false 1 i
  else .fin false (2 * expSeries (f * ln2Scaled / 2 ^ 160) 48 0 (2 ^ 160) + 1) (i - 161)

def fexp232 (a : Word) : Word :=
  enc32 (match dec32 a with
    | .nan => .nan
    | .inf n => if n then .fin false 0 0 else .inf false
    | .fin n m e =>
      if (2 : Int) ^ 32 ≤ (m : Int) * 2 ^ e.toNat then (if n then .fin false 1 (-200) else .inf false)
      else
        let x := signedMag n (m * 2 ^ (e + 160).toNat)
        exp2Val (x / (2 ^ 160 : Nat)) (x % (2 ^ 160 : Nat)).toNat)

/-- The fraction bits of log₂ of a number x ÷ 2²⁴⁰ from 1 to 2. -/
def log2Bits (x : Nat) : Nat → Nat → Nat
  | 0, acc => acc
  | n + 1, acc =>
    let y := x * x / 2 ^ 240
    if 2 ^ 241 ≤ y then log2Bits (y / 2) n (2 * acc + 1) else log2Bits y n (2 * acc)

def flog232 (a : Word) : Word :=
  enc32 (match dec32 a with
    | .nan => .nan
    | .inf n => if n then .nan else .inf false
    | .fin n m e =>
      if m = 0 then .inf true else if n then .nan
      else
        let l := Nat.log2 m
        let i := e + l
        if m = 2 ^ l then .fin (i < 0) i.natAbs 0
        else
          let t := 2 * (i * (2 ^ 100 : Nat) + log2Bits (m * 2 ^ (240 - l)) 100 0) + 1
          .fin (t < 0) t.natAbs (-101))

/-! ### Conversions (R124, R179, R182) -/

/-- The nearest integer, ties to even. -/
def roundInt (neg : Bool) (m : Nat) (e : Int) : Int := signedMag neg (roundAt m e 0)

def clampInt (lo hi x : Int) : Int := max lo (min hi x)

def toIntWord (lo hi : Int) (a : Word) : Word :=
  match dec32 a with
  | .nan => 0
  | .inf n => BitVec.ofInt 32 (if n then lo else hi)
  | .fin n m e =>
    if (2 : Int) ^ 40 ≤ (m : Int) * 2 ^ e.toNat then BitVec.ofInt 32 (if n then lo else hi)
    else BitVec.ofInt 32 (clampInt lo hi (roundInt n m e))

def ofIntWord (x : Int) : Word := enc32 (.fin (x < 0) x.natAbs 0)

def toB16 (a : Word) : Nat := fmtB16.encode (dec32 a)
def toF16 (a : Word) : Nat := fmt16.encode (dec32 a)
def ofB16 (x : Nat) : Word := enc32 (fmtB16.decode (x % 2 ^ 16))
def ofF16 (x : Nat) : Word := enc32 (fmt16.decode (x % 2 ^ 16))

/-- cvt: A, B and the code of M; none for a reserved code. -/
def cvtWord (code : Nat) (a b : Word) : Option Word :=
  match code with
  | 0x00 => some (toIntWord (-2147483648) 2147483647 a)
  | 0x01 => some (toIntWord 0 4294967295 a)
  | 0x02 => some (ofIntWord a.toInt)
  | 0x03 => some (ofIntWord a.toNat)
  | 0x04 => some (BitVec.ofNat 32 (toB16 a))
  | 0x05 => some (BitVec.ofNat 32 (toF16 a))
  | 0x06 => some (ofB16 a.toNat)
  | 0x07 => some (ofB16 (a.toNat / 2 ^ 16))
  | 0x08 => some (ofF16 a.toNat)
  | 0x09 => some (ofF16 (a.toNat / 2 ^ 16))
  | 0x0A => some (BitVec.ofNat 32 (toB16 a + 2 ^ 16 * toB16 b))
  | 0x0B => some (BitVec.ofNat 32 (toF16 a + 2 ^ 16 * toF16 b))
  | 0x0C => some (toIntWord (-128) 127 a)
  | 0x0D => some (ofIntWord (toSigned 8 a.toNat))
  | _ => none

/-! ### Comparisons and predicates (R122, R123) -/

def condInt (cond : Nat) (x y : Int) : Option Bool :=
  match cond with
  | 0 => some (x = y)
  | 1 => some (x ≠ y)
  | 2 => some (x < y)
  | 3 => some (x ≤ y)
  | 4 => some (y < x)
  | 5 => some (y ≤ x)
  | _ => none

def condFloat (cond : Nat) (a b : Word) : Option Bool :=
  let un := isNan32 a || isNan32 b
  match cond with
  | 0 => some (!un && numKey a = numKey b)
  | 1 => some (un || numKey a ≠ numKey b)
  | 2 => some (!un && numKey a < numKey b)
  | 3 => some (!un && numKey a ≤ numKey b)
  | 4 => some (!un && numKey b < numKey a)
  | 5 => some (!un && numKey b ≤ numKey a)
  | 6 => some un
  | 7 => some (!un)
  | _ => none

def predLogic (f : Nat) (inv a b : Bool) : Bool :=
  let r := match f % 4 with
    | 0 => a && b
    | 1 => a || b
    | 2 => a != b
    | _ => a && !b
  r != inv

/-! ### Element formats (R139, R167 to R176) -/

/-- Bits of an element. -/
def eltBits : Nat → Nat
  | 0 => 32 | 1 => 16 | 2 => 16 | 3 => 8 | 4 => 32 | 7 => 6 | 8 => 6 | 9 => 4 | _ => 8

def isMx (fmt : Nat) : Bool := 5 ≤ fmt && fmt ≤ 10

/-- The layouts of the MX floating-point elements. -/
def mxFmt : Nat → FpFmt
  | 5 => ⟨3, 4, 7⟩
  | 6 => ⟨2, 5, 15⟩
  | 7 => ⟨3, 2, 1⟩
  | 8 => ⟨2, 3, 3⟩
  | _ => ⟨1, 2, 1⟩

/-- The largest finite encoding. -/
def mxMax : Nat → Nat
  | 5 => 0x7E | 6 => 0x7B | 7 => 0x1F | 8 => 0x1F | 9 => 0x7 | _ => 0x7F

/-- The value of an element without its scale. -/
def decodeElt (fmt x : Nat) : Val :=
  match fmt with
  | 0 => fmt32.decode x
  | 1 => fmt16.decode x
  | 2 => fmtB16.decode x
  | 3 => let i := toSigned 8 x; .fin (i < 0) i.natAbs 0
  | 4 => let i := toSigned 32 x; .fin (i < 0) i.natAbs 0
  | 5 => if x % 128 = 127 then .nan else (mxFmt 5).finite x
  | 6 => (mxFmt 6).decode x
  | 10 => let i := toSigned 8 x; .fin (i < 0) i.natAbs (-6)
  | f => (mxFmt f).finite x

/-- One element from a binary32 and a scale byte (R180). -/
def encodeElt (fmt : Nat) (x : Word) (scale : Nat) : Nat :=
  let neg := x.getLsbD 31
  let sign := if fmt = 10 then 0 else b2n neg * 2 ^ (eltBits fmt - 1)
  let mxint (i : Int) : Nat := (BitVec.ofInt 8 (clampInt (-127) 127 i)).toNat
  let nan := if fmt = 5 ∨ fmt = 6 then sign + 0x7F else 0
  if scale % 256 = 255 then nan
  else match dec32 x with
    | .nan => nan
    | .inf _ => if fmt = 6 then sign + 0x7C else if fmt = 10 then (if neg then 0x81 else 0x7F) else sign + mxMax fmt
    | .fin n m e =>
      let e' := e + 127 - (scale % 256 : Nat)
      if fmt = 10 then
        if (2 : Int) ^ 40 ≤ (m : Int) * 2 ^ e'.toNat then mxint (if n then -127 else 127)
        else mxint (signedMag n (roundAt m e' (-6)))
      else if m = 0 then sign
      else sign + min (mxMax fmt) ((mxFmt fmt).roundMag m e')

/-- The scale of a block (R173): none for the NaN scale. -/
def scaleExp (scale : Nat) : Option Int := if scale % 256 = 255 then none else some ((scale % 256 : Nat) - 127)

/-- The binary32 of an element under a scale byte (R181). -/
def decodeScaled (fmt x scale : Nat) : Word :=
  match scaleExp scale, decodeElt fmt x with
  | some k, .fin n m e => enc32 (.fin n m (e + k))
  | some _, v => enc32 v
  | none, _ => quietNan

/-- Element p of a packed area (R175). -/
def unpackElt (fmt : Nat) (area p : Nat) : Nat := bits area (eltBits fmt * p) (eltBits fmt)

/-- Pack elements, element 0 lowest (R175). -/
def packElts (w : Nat) : List Nat → Nat
  | [] => 0
  | x :: xs => x % 2 ^ w + 2 ^ w * packElts w xs

/-- The larger magnitude of a block's non-NaN inputs and the old running maximum (R185). -/
def runningMax (old : Word) (xs : List Word) : Word :=
  let mag (x : Word) : Nat := if isNan32 x then 0 else x.toNat % 2 ^ 31
  BitVec.ofNat 32 (xs.foldl (fun a x => max a (mag x)) (mag old))

/-! ### Atomics and reductions (R131, R132, R184) -/

/-- Size in bytes of an atomic's location; none for a reserved function. -/
def atomicSize (fn : Nat) : Option Nat := if fn ≤ 0x0A then some 4 else if fn = 0x0B then some 8 else none

/-- The new value of a location from the old one, the operand and, for cas, the new value. -/
def atomicNew (fn : Nat) (old opnd new : DWord) : DWord :=
  let a := old.setWidth 32
  let b := opnd.setWidth 32
  let w (x : Word) : DWord := x.setWidth 64
  match fn with
  | 0x00 => w (a + b)
  | 0x01 => w (fadd32 a b)
  | 0x02 => w (if a.toInt ≤ b.toInt then a else b)
  | 0x03 => w (if a.toInt ≤ b.toInt then b else a)
  | 0x04 => w (if a.toNat ≤ b.toNat then a else b)
  | 0x05 => w (if a.toNat ≤ b.toNat then b else a)
  | 0x06 => w (a &&& b)
  | 0x07 => w (a ||| b)
  | 0x08 => w (a ^^^ b)
  | 0x09 => w b
  | 0x0A => w (if a = b then new.setWidth 32 else a)
  | _ => old + opnd

/-- bfloat16 addition (R184). -/
def addB16 (a b : Nat) : Nat := fmtB16.encode ((fmtB16.decode (a % 2 ^ 16)).add (fmtB16.decode (b % 2 ^ 16)))

def redSize (fn : Nat) : Option Nat := if fn = 3 then some 8 else if fn ≤ 5 then some 4 else none

/-- One reduction of two operands. -/
def reduce (fn : Nat) (x y : DWord) : DWord :=
  let a := x.setWidth 32
  let b := y.setWidth 32
  let w (x : Word) : DWord := x.setWidth 64
  match fn with
  | 0 => w (fadd32 a b)
  | 1 => BitVec.ofNat 64 (addB16 a.toNat b.toNat + 2 ^ 16 * addB16 (a.toNat / 2 ^ 16) (b.toNat / 2 ^ 16))
  | 2 => w (a + b)
  | 3 => x + y
  | 4 => w (fmax32 a b)
  | _ => w (fmin32 a b)

/-- The updates of one location in lane order: the final value, and the value before each lane's update (R94). -/
def atomicFold (fn : Nat) (old : DWord) : List (Nat × DWord × DWord) → DWord × List (Nat × DWord)
  | [] => (old, [])
  | (lane, b, c) :: ops =>
    let r := atomicFold fn (atomicNew fn old b c) ops
    (r.1, (lane, old) :: r.2)

/-- The scale rule (R186). -/
def scaleFor (fmt : Nat) (a : Word) : Nat :=
  let emax : Int := match fmt with | 5 => 8 | 6 => 15 | 7 => 2 | 8 => 4 | 9 => 2 | _ => 0
  match dec32 a with
  | .fin _ m e => if m = 0 then 0x7F else (clampInt (-127) 127 ((Nat.log2 m : Int) + e - emax) + 127).toNat
  | _ => (clampInt (-127) 127 (128 - emax) + 127).toNat

end Sys2Proof.Machine
end

