-- ==== Sys2Proof/Machine/Firmware.lean ====
section
/-! DEFINITION. Firmware slots, images and signatures (R362 to R365): SHA-384 as FIPS 180-4 and ECDSA over P-384 as FIPS 186-5,
which R362 names, define them (PRESUMED). -/

namespace Sys2Proof.Machine

/-! ### SHA-384 -/

/-- Integer cube root, by n bits from the top. -/
def icbrtAux (x : Nat) : Nat → Nat → Nat
  | 0, r => r
  | n + 1, r => icbrtAux x n (if (r + 2 ^ n) ^ 3 ≤ x then r + 2 ^ n else r)

def icbrt (x : Nat) : Nat := icbrtAux x (Nat.log2 x / 3 + 1) 0

def isPrime (n : Nat) : Bool := 2 ≤ n && (List.range n).all fun d => d < 2 || n % d ≠ 0

/-- The first 80 primes. -/
def primes80 : List Nat := ((List.range 410).filter isPrime).take 80

/-- First 64 bits of the fractional parts of the cube roots of the first 80 primes. -/
def shaK : List (BitVec 64) := primes80.map fun p => BitVec.ofNat 64 (icbrt (p * 2 ^ 192))

/-- First 64 bits of the fractional parts of the square roots of the ninth to sixteenth primes. -/
def shaIv : List (BitVec 64) := ((primes80.drop 8).take 8).map fun p => BitVec.ofNat 64 (isqrt (p * 2 ^ 128))

def bigEndian (l : List Byte) : Nat := l.foldl (fun x b => 256 * x + b.toNat) 0

/-- The next word of the message schedule from the last sixteen, newest first. -/
def shaNext (w : List (BitVec 64)) : BitVec 64 :=
  let g (i : Nat) : BitVec 64 := (w[i]?).getD 0
  let s0 := (g 14).rotateRight 1 ^^^ (g 14).rotateRight 8 ^^^ ((g 14) >>> 7)
  let s1 := (g 1).rotateRight 19 ^^^ (g 1).rotateRight 61 ^^^ ((g 1) >>> 6)
  g 15 + s0 + g 6 + s1

/-- The 80 schedule words, newest first. -/
def shaSchedule : Nat → List (BitVec 64) → List (BitVec 64)
  | 0, w => w
  | n + 1, w => shaSchedule n (shaNext w :: w)

structure ShaRegs where
  a : BitVec 64
  b : BitVec 64
  c : BitVec 64
  d : BitVec 64
  e : BitVec 64
  f : BitVec 64
  g : BitVec 64
  h : BitVec 64

def shaRound (r : ShaRegs) (kw : BitVec 64 × BitVec 64) : ShaRegs :=
  let s1 := r.e.rotateRight 14 ^^^ r.e.rotateRight 18 ^^^ r.e.rotateRight 41
  let ch := (r.e &&& r.f) ^^^ (~~~ r.e &&& r.g)
  let t1 := r.h + s1 + ch + kw.1 + kw.2
  let s0 := r.a.rotateRight 28 ^^^ r.a.rotateRight 34 ^^^ r.a.rotateRight 39
  let mj := (r.a &&& r.b) ^^^ (r.a &&& r.c) ^^^ (r.b &&& r.c)
  ⟨t1 + s0 + mj, r.a, r.b, r.c, r.d + t1, r.e, r.f, r.g⟩

def shaBlock (k : List (BitVec 64)) (r : ShaRegs) (block : List (BitVec 64)) : ShaRegs :=
  let w := (shaSchedule 64 block.reverse).reverse
  let x := (k.zip w).foldl shaRound r
  ⟨r.a + x.a, r.b + x.b, r.c + x.c, r.d + x.d, r.e + x.e, r.f + x.f, r.g + x.g, r.h + x.h⟩

/-- The message with its padding: 0x80, zeros, and its length in bits over 16 bytes. -/
def shaPad (m : List Byte) : List Byte :=
  let z := (128 - (m.length + 17) % 128) % 128
  m ++ [0x80#8] ++ List.replicate z 0 ++ (leBytes (8 * m.length) 16).reverse

def shaWords : Nat → List Byte → List (BitVec 64)
  | 0, _ => []
  | n + 1, l => BitVec.ofNat 64 (bigEndian (l.take 8)) :: shaWords n (l.drop 8)

def shaBlocks (k : List (BitVec 64)) : Nat → List Byte → ShaRegs → ShaRegs
  | 0, _, r => r
  | n + 1, l, r => shaBlocks k n (l.drop 128) (shaBlock k r (shaWords 16 (l.take 128)))

/-- SHA-384 of a message. -/
def sha384 (m : List Byte) : Nat :=
  let p := shaPad m
  let iv := shaIv
  let g (i : Nat) : BitVec 64 := (iv[i]?).getD 0
  let r := shaBlocks shaK (p.length / 128) p ⟨g 0, g 1, g 2, g 3, g 4, g 5, g 6, g 7⟩
  [r.a, r.b, r.c, r.d, r.e, r.f].foldl (fun x w => 2 ^ 64 * x + w.toNat) 0

/-! ### ECDSA over P-384 -/

def curveP : Nat := 2 ^ 384 - 2 ^ 128 - 2 ^ 96 + 2 ^ 32 - 1
def curveN : Nat :=
  0xFFFFFFFFFFFFFFFFFFFFFFFFFFFFFFFFFFFFFFFFFFFFFFFFC7634D81F4372DDF581A0DB248B0A77AECEC196ACCC52973
def curveB : Nat :=
  0xB3312FA7E23EE7E4988E056BE3F82D19181D9C6EFE8141120314088F5013875AC656398D8A2ED19D2A85C8EDD3EC2AEF
def curveGx : Nat :=
  0xAA87CA22BE8B05378EB1C71EF320AD746E1D3B628BA79B9859F741E082542A385502F25DBF55296C3A545E3872760AB7
def curveGy : Nat :=
  0x3617DE4A96262C6F5D9E98BF9292DC29F8F41DBD289A147CE9DA3113B5F0B8C00A60B1CE1D7E819D7A431D7C90EA0E5F

/-- b^e mod m, by n bits of e. -/
def powMod (b m : Nat) : Nat → Nat → Nat
  | 0, _ => 1
  | n + 1, e =>
    let h := powMod b m n (e / 2)
    let h2 := h * h % m
    if e % 2 = 1 then h2 * b % m else h2

/-- Inverse modulo a prime. -/
def invMod (x m : Nat) : Nat := powMod x m 384 (m - 2)

/-- A point in Jacobian coordinates: (X, Y, Z) stands for (X ÷ Z², Y ÷ Z³), and Z = 0 for the point at infinity. -/
structure Jac where
  x : Nat
  y : Nat
  z : Nat

def subMod (a b : Nat) : Nat := (a + (curveP - b % curveP)) % curveP

def Jac.double (q : Jac) : Jac :=
  if q.z = 0 then q
  else
    let y2 := q.y * q.y % curveP
    let s := 4 * q.x * y2 % curveP
    let z2 := q.z * q.z % curveP
    let m := 3 * (q.x + z2) % curveP * subMod q.x z2 % curveP
    let x := subMod (m * m) (2 * s)
    ⟨x, subMod (m * subMod s x) (8 * (y2 * y2 % curveP)), 2 * q.y * q.z % curveP⟩

def Jac.add (p q : Jac) : Jac :=
  if p.z = 0 then q
  else if q.z = 0 then p
  else
    let pz := p.z * p.z % curveP
    let qz := q.z * q.z % curveP
    let u1 := p.x * qz % curveP
    let u2 := q.x * pz % curveP
    let s1 := p.y * (qz * q.z % curveP) % curveP
    let s2 := q.y * (pz * p.z % curveP) % curveP
    if u1 = u2 then (if s1 = s2 then p.double else ⟨1, 1, 0⟩)
    else
      let h := subMod u2 u1
      let r := subMod s2 s1
      let h2 := h * h % curveP
      let h3 := h * h2 % curveP
      let v := u1 * h2 % curveP
      let x := subMod (subMod (r * r) h3) (2 * v)
      ⟨x, subMod (r * subMod v x) (s1 * h3), h * p.z % curveP * q.z % curveP⟩

/-- k · q, by n bits of k. -/
def Jac.mul (q : Jac) : Nat → Nat → Jac
  | 0, _ => ⟨1, 1, 0⟩
  | n + 1, k =>
    let h := (q.mul n (k / 2)).double
    if k % 2 = 1 then h.add q else h

/-- The point lies on the curve y² = x³ − 3x + b. -/
def onCurve (x y : Nat) : Bool :=
  x < curveP && y < curveP && y * y % curveP = subMod (x * x % curveP * x + curveB) (3 * x)

/-- An ECDSA signature (r, s) over a digest under the public key (x, y) is valid. -/
def ecdsaValid (x y r s digest : Nat) : Bool :=
  if !onCurve x y || r = 0 || curveN ≤ r || s = 0 || curveN ≤ s then false
  else
    let w := invMod s curveN
    let q := ((Jac.mul ⟨curveGx, curveGy, 1⟩ 384 (digest * w % curveN))).add (Jac.mul ⟨x, y, 1⟩ 384 (r * w % curveN))
    let zi := invMod (q.z % curveP) curveP
    q.z ≠ 0 && q.x * (zi * zi % curveP) % curveP % curveN = r

/-! ### Slots and images (R362, R363) -/

def slotOf (s : State) (isB : Bool) : FwSlot := if isB then s.flash.slotB else s.flash.slotA

def setSlot (s : State) (isB : Bool) (x : FwSlot) : State :=
  { s with flash := if isB then { s.flash with slotB := x } else { s.flash with slotA := x } }

/-- A byte of a slot; a byte equal to what an erased one reads as is not listed. -/
def FwSlot.read (x : FwSlot) (a : Nat) : Byte := look x.bytes a Config.flashErased

def fwWrite (x : FwSlot) (a : Nat) (b : Byte) : FwSlot :=
  { x with bytes := if b = Config.flashErased then drop x.bytes a else put x.bytes a b }

def fwWrites (x : FwSlot) (a : Nat) : List Byte → FwSlot
  | [] => x
  | b :: bs => fwWrites (fwWrite x a b) (a + 1) bs

/-- The first n bytes of a slot. -/
def FwSlot.image (x : FwSlot) (n : Nat) : List Byte := (List.range n).map x.read

/-- n bytes of an image from an offset, as a little-endian number. -/
def imgField (img : List Byte) (off n : Nat) : Nat := leNat ((img.drop off).take n)

/-- The fuses' slot of the hash of an image's public key, if it has one. -/
def keySlot (img : List Byte) : Option Nat :=
  let h := sha384 ((img.drop 0x30).take 97)
  (List.range 4).find? fun i => (Config.keyHash i).toNat = h

/-- A section lies within 0x100 to IMAGE_BYTES − 97. -/
def sectionOk (img : List Byte) (i : Nat) : Bool :=
  let off := imgField img (0x18 + 8 * i) 4
  let len := imgField img (0x1C + 8 * i) 4
  0x100 ≤ off && off + len + 96 ≤ imgField img 0x0C 4

/-- The first check of R362 that fails for an image of `bytes` bytes: 0 for a valid image. The member is AQG-9160, code 4. -/
def imageCheck (s : State) (img : List Byte) (bytes : Nat) : Nat :=
  let size := imgField img 0x0C 4
  if imgField img 0 4 ≠ 0x47435941 ∨ imgField img 4 4 ≠ 1 then 1
  else if size ≠ bytes ∨ 2 ^ 24 < size then 2
  else if (imgField img 0x14 4).testBit 4 = false then 3
  else if !(List.range 3).all (sectionOk img) || imgField img 0x91 0x6F ≠ 0 then 4
  else match keySlot img with
    | none => 5
    | some k =>
      if s.fuses.keyRevoked.getLsbD k then 6
      else if imgField img 0x10 4 < s.fuses.securityMin then 7
      else
        let x := bigEndian ((img.drop 0x31).take 48)
        let y := bigEndian ((img.drop 0x61).take 48)
        let r := bigEndian ((img.drop (size - 96)).take 48)
        let t := bigEndian ((img.drop (size - 48)).take 48)
        if imgField img 0x30 1 = 4 && ecdsaValid x y r t (sha384 (img.take (size - 96))) then 0 else 8

/-- The check of R363 that a slot fails at boot: BYTES is the recorded length, and a slot with none fails check 2. -/
def slotCheck (s : State) (isB : Bool) : Nat :=
  let x := slotOf s isB
  match x.len with
  | some n => imageCheck s (x.image n) n
  | none => if imgField (x.image 8) 0 4 ≠ 0x47435941 ∨ imgField (x.image 8) 4 4 ≠ 1 then 1 else 2

/-- A slot's version word as CUR_CAP1 reports it; its reserved byte reads 0. -/
def slotVersion (s : State) (isB : Bool) : Nat := imgField ((slotOf s isB).image 12) 8 4 % 2 ^ 24

end Sys2Proof.Machine
end

