-- ==== Sys2Proof/Machine/Operands.lean ====
section
/-! DEFINITION. Xilon instruction words, their operands, the docent's choice and the issue of an instruction (R70 to R79,
R107 to R118, R134, R137, R138, R143, R145). -/

namespace Sys2Proof.Machine

/-! ### Instruction words (R107 to R112) -/

/-- An instruction's first word and its extension word. -/
structure XInst where
  w0 : Nat
  w1 : Nat
deriving DecidableEq, Repr

def XInst.op (x : XInst) : Nat := bits x.w0 25 7
def XInst.d (x : XInst) : Nat := bits x.w0 20 5
def XInst.a (x : XInst) : Nat := bits x.w0 15 5
def XInst.b (x : XInst) : Nat := bits x.w0 10 5
/-- Field M of the Reg form and C of the Tri form. -/
def XInst.m (x : XInst) : Nat := bits x.w0 5 5
def XInst.ext (x : XInst) : Bool := x.w0.testBit 4
def XInst.g (x : XInst) : Nat := bits x.w0 0 4
def XInst.imm10 (x : XInst) : Nat := bits x.w0 5 10
/-- The signed branch offset of the Jmp form. -/
def XInst.imm20 (x : XInst) : Int := toSigned 20 (bits x.w0 5 20)
def XInst.w (x : XInst) : Nat := bits x.w0 12 3
/-- SA of the Mem form. -/
def XInst.memSa (x : XInst) : Bool := x.w0.testBit 11
def XInst.sx (x : XInst) : Bool := x.w0.testBit 10
/-- SA and SB of the Reg form (R113). -/
def XInst.sa (x : XInst) : Bool := x.w0.testBit 5
def XInst.sb (x : XInst) : Bool := x.w0.testBit 6

def XInst.words (x : XInst) : Nat := if x.ext then 2 else 1

/-- The immediate of the Imm form (R110). -/
def XInst.imm (x : XInst) : Word := if x.ext then BitVec.ofNat 32 x.w1 else BitVec.ofInt 32 (toSigned 10 x.imm10)

/-- Access size of a Mem-form instruction in bytes (R127). -/
def XInst.size (x : XInst) : Nat := 2 ^ x.w

/-- The signed byte offset of a Mem-form access (R110). -/
def XInst.memOff (x : XInst) : Int := if x.ext then toSigned 32 x.w1 else ((x.m * x.size : Nat) : Int)

/-- The signed byte offset of an atomic or a reduction (R110). -/
def XInst.regOff (x : XInst) : Int := if x.ext then toSigned 32 x.w1 else 0

/-- Fields of the extension word of a matrix instruction (R140, R141). -/
def XInst.mode (x : XInst) : Nat := bits x.w1 0 2
def XInst.fmt (x : XInst) : Nat := bits x.w1 2 4
def XInst.blk16 (x : XInst) : Bool := x.w1.testBit 6
def XInst.count (x : XInst) : Nat := bits x.w1 7 6
def XInst.shelf (x : XInst) : Bool := x.w1.testBit 13
def XInst.acc (x : XInst) : Bool := x.w1.testBit 14

/-- A register that an instruction reads or writes: of the thread, of a named lane, of every lane, of the tour, or a
predicate. -/
inductive XReg where
  | v (r : Nat)
  | vAt (lane r : Nat)
  | vAll (r : Nat)
  | u (r : Nat)
  | p (i : Nat)
deriving DecidableEq, Repr

def uReg (r : Nat) : Option (List XReg) := if r ≤ 15 then some [.u r] else none
def pReg (r : Nat) : Option (List XReg) := if r ≤ 7 then some [.p r] else none
/-- n vector registers from r, aligned (R112). -/
def vRegs (r n : Nat) : Option (List XReg) :=
  if r % n = 0 then some ((List.range n).map fun i => .v (r + i)) else none
def when_ (c : Bool) : Option (List XReg) := if c then some [] else none

/-- Join the parts of an instruction's operand list; one part that is not there makes the instruction illegal. -/
def joinRegs : List (Option (List XReg)) → Option (List XReg)
  | [] => some []
  | none :: _ => none
  | some l :: ls => (joinRegs ls).map (l ++ ·)

def srcA (x : XInst) : Option (List XReg) := if x.sa then uReg x.a else vRegs x.a 1
def srcB (x : XInst) : Option (List XReg) := if x.sb then uReg x.b else vRegs x.b 1

/-- Vector registers that an access of a size moves (R112, R127). -/
def dataRegs (size : Nat) : Nat := if size ≤ 4 then 1 else size / 4

/-- The matrix instructions' format and block size agree (R140, R167). -/
def fmtLegal (fmt : Nat) : Bool := fmt ≤ 10

/-- The opcodes of R117. -/
def opListed (op : Nat) : Bool :=
  (1 ≤ op && op ≤ 0x11) || (0x18 ≤ op && op ≤ 0x26) || (0x28 ≤ op && op ≤ 0x34) || (0x38 ≤ op && op ≤ 0x44)
    || (0x48 ≤ op && op ≤ 0x4D) || (0x50 ≤ op && op ≤ 0x53) || op = 0x58 || (0x60 ≤ op && op ≤ 0x63)
    || (0x68 ≤ op && op ≤ 0x6C) || (0x70 ≤ op && op ≤ 0x74)

/-- The tour-wide instructions (R117). -/
def tourWide (op : Nat) : Bool := op = 0x44 || op = 0x58 || op = 0x68 || op = 0x69 || (0x70 ≤ op && op ≤ 0x74)

/-- The extension word an instruction requires (R110). -/
def extLegal (x : XInst) : Bool :=
  if 0x18 ≤ x.op ∧ x.op ≤ 0x1F ∨ x.op = 0x40 ∨ x.op = 0x41 ∨ x.op = 0x63 then !x.ext || x.imm10 = 0
  else if 0x48 ≤ x.op ∧ x.op ≤ 0x4D then !x.ext || x.m = 0
  else if 0x50 ≤ x.op ∧ x.op ≤ 0x53 then true
  else if 0x70 ≤ x.op ∧ x.op ≤ 0x74 then x.ext
  else !x.ext

/-- Registers of the integer, floating-point and compare instructions. R117 asks imm[31:5] = 0 of shli alone: shri.u and shri.s
take their count from imm[4:0] whatever stands above it. -/
def aluRegs (x : XInst) : Option (List XReg) :=
  if x.op = 0x01 then when_ (x.d = 0 && x.a = 0 && x.b = 0 && x.m = 0)
  else if x.op ≤ 0x10 ∨ 0x20 ≤ x.op ∧ x.op ≤ 0x24 then
    joinRegs [srcA x, srcB x, vRegs x.d 1, when_ (x.m < 4)]
  else if x.op = 0x11 then joinRegs [srcA x, srcB x, vRegs x.d 1, pReg (x.m / 4)]
  else if x.op = 0x1F then joinRegs [vRegs x.d 1, when_ (x.a = 0)]
  else if x.op ≤ 0x1B then joinRegs [vRegs x.a 1, vRegs x.d 1]
  else if x.op ≤ 0x1E then joinRegs [vRegs x.a 1, vRegs x.d 1, when_ (x.op ≠ 0x1C || x.imm.toNat < 32)]
  else if x.op ≤ 0x26 ∨ 0x2C ≤ x.op ∧ x.op ≤ 0x2F then
    joinRegs [srcA x, vRegs x.d 1, when_ (x.b = 0 && x.m < 2)]
  else if x.op = 0x28 then joinRegs [vRegs x.a 1, vRegs x.b 1, vRegs x.m 1, vRegs x.d 1]
  else if x.op = 0x29 then joinRegs [vRegs x.a 1, uReg x.b, vRegs x.m 1, vRegs x.d 1]
  else if x.op = 0x2A then joinRegs [vRegs x.a 1, vRegs x.b 1, uReg x.m, vRegs x.d 1]
  else if x.op = 0x2B then joinRegs [vRegs x.a 1, uReg x.b, uReg x.m, vRegs x.d 1]
  else if x.op = 0x30 ∨ x.op = 0x31 then joinRegs [srcA x, srcB x, pReg x.d, when_ (x.m / 4 < 6)]
  else if x.op = 0x32 then joinRegs [srcA x, srcB x, pReg x.d]
  else if x.op = 0x33 then joinRegs [pReg x.a, pReg x.b, pReg x.d, when_ (x.m < 8)]
  else joinRegs [vRegs x.a 1, if x.m = 0x0A ∨ x.m = 0x0B then vRegs x.b 1 else when_ (x.b = 0), vRegs x.d 1,
    when_ (x.m ≤ 0x0D)]

/-- Registers of the uniform and lane instructions. -/
def uniformRegs (x : XInst) : Option (List XReg) :=
  if x.op ≤ 0x3F then joinRegs [uReg x.a, uReg x.b, uReg x.d, when_ (x.m = 0)]
  else if x.op = 0x40 then joinRegs [uReg x.a, uReg x.d]
  else if x.op = 0x41 then joinRegs [uReg x.d, when_ (x.a = 0)]
  else if x.op = 0x42 then joinRegs [some [.vAt (x.b % 16) x.a], uReg x.d, when_ (x.b < 16 && x.m = 0)]
  else if x.op = 0x43 then joinRegs [pReg x.a, uReg x.d, when_ (x.b = 0 && x.m = 0)]
  else joinRegs [some [.vAll x.a], if x.sb then uReg x.b else some [.vAll x.b], some [.vAll x.d],
    when_ (x.m = 0 || x.m = 2)]

/-- Registers of a Mem-form access (R126, R127). -/
def memRegs (x : XInst) : Option (List XReg) :=
  let base :=
    if x.op = 0x4C ∨ x.op = 0x4D then
      (if x.a % 2 ≠ 0 then none else if x.memSa then joinRegs [uReg x.a, uReg (x.a + 1)] else vRegs x.a 2)
    else if x.memSa then uReg x.a else vRegs x.a 1
  joinRegs [base, when_ (x.w ≤ 4), vRegs x.d (dataRegs x.size),
    when_ (!x.sx || (x.w ≤ 1 && (x.op = 0x48 || x.op = 0x4A || x.op = 0x4C)))]

/-- Registers of the atomics, the reduction and mesh.put (R131 to R133). -/
def atomRegs (x : XInst) : Option (List XReg) :=
  let addr := if x.op = 0x52 ∨ x.op = 0x53 then vRegs x.a 2 else vRegs x.a 1
  if x.op = 0x53 then
    joinRegs [addr, vRegs x.b (if x.m = 3 then 2 else 1), when_ (x.d = 0 && x.m ≤ 5)]
  else if x.op = 0x58 then joinRegs [some [.vAll x.d], uReg x.a, uReg x.b, when_ (x.m = 0)]
  else joinRegs [addr, vRegs x.b (if x.m = 0x0A ∨ x.m = 0x0B then 2 else 1),
    vRegs x.d (if x.m = 0x0B then 2 else 1), when_ (x.m ≤ 0x0B)]

/-- Registers of the control and synchronisation instructions. -/
def controlRegs (x : XInst) : Option (List XReg) :=
  if x.op = 0x60 then some []
  else if x.op = 0x61 then joinRegs [vRegs x.a 1, when_ (x.d = 0 && x.b = 0 && x.m = 0)]
  else if x.op = 0x63 then when_ (x.d = 0 && x.a = 0 && x.imm.toNat < 16)
  else if x.op = 0x6A then when_ (x.d = 0 && x.a = 0 && x.b = 0 && x.m < 8)
  else if x.op = 0x6B then joinRegs [uReg x.d, uReg (x.d + 1), when_ (x.d % 2 = 0 && x.a = 0 && x.b = 0 && x.m = 0)]
  else if x.op = 0x6C then joinRegs [uReg x.a, when_ (x.d = 0 && x.b = 0 && x.m = 0)]
  else when_ (x.d = 0 && x.a = 0 && x.b = 0 && x.m = 0)

/-- Registers of the matrix instructions (R140 to R142). What R140 gives the fault MX_OPERAND is not illegal here. An odd D of mx.dec with
BLK16 = 0 is illegal, and mx.acc clear takes any register in A (DEDUCED, log entries 184 and 186). -/
def matrixRegs (x : XInst) : Option (List XReg) :=
  let pair (r : Nat) : Option (List XReg) :=
    if x.blk16 then some [.vAll r] else if r % 2 = 0 then some [.vAll r, .vAll (r + 1)] else none
  if x.op = 0x70 then
    joinRegs [uReg x.a, when_ (x.d = 0 && x.b = 0 && x.m = 0 && fmtLegal x.fmt && x.count = 0 && bits x.w1 14 18 = 0)]
  else if x.op = 0x71 then
    joinRegs [uReg x.a, when_ (x.d < 8 && x.b = 0 && x.m = 0 && fmtLegal x.fmt && bits x.w1 15 17 = 0)]
  else if x.op = 0x72 then
    joinRegs [if x.mode = 0 then when_ (x.a ≤ 15) else uReg x.a,
      when_ (x.d < 8 && x.b = 0 && x.m = 0 && (x.fmt = 0 || x.fmt = 4) && !x.blk16 && x.count = 0
        && bits x.w1 14 18 = 0)]
  else if x.op = 0x73 then
    joinRegs [pair x.d, uReg x.a, uReg x.b, uReg x.m, when_ (bits x.w1 0 2 = 0 && bits x.w1 7 25 = 0)]
  else joinRegs [pair x.d, uReg x.a, uReg x.b, when_ (x.m = 0 && bits x.w1 0 2 = 0 && bits x.w1 7 25 = 0)]

/-- The instructions that require G = 0x7 (R116, R117). -/
def needsTrueGuard (op : Nat) : Bool := tourWide op || (0x38 ≤ op && op ≤ 0x43) || op = 0x6B

/-- The registers an instruction waits for (R114), its guard apart; none where it is illegal (R111). -/
def XInst.regs (x : XInst) : Option (List XReg) :=
  if !opListed x.op || !extLegal x || (needsTrueGuard x.op && x.g ≠ 7) then none
  else if x.op ≤ 0x34 then aluRegs x
  else if x.op ≤ 0x44 then uniformRegs x
  else if x.op ≤ 0x4D then memRegs x
  else if x.op ≤ 0x58 then atomRegs x
  else if x.op ≤ 0x6C then controlRegs x
  else matrixRegs x

/-- The registers an instruction only writes. -/
def XInst.dests (x : XInst) : List XReg :=
  let vs (n : Nat) : List XReg := (List.range n).map fun i => .v (x.d + i)
  if x.op = 0x30 ∨ x.op = 0x31 ∨ x.op = 0x32 ∨ x.op = 0x33 then [.p x.d]
  else if 0x02 ≤ x.op ∧ x.op ≤ 0x34 then [.v x.d]
  else if 0x38 ≤ x.op ∧ x.op ≤ 0x43 then [.u x.d]
  else if x.op = 0x44 then [.vAll x.d]
  else if x.op = 0x48 ∨ x.op = 0x4A ∨ x.op = 0x4C then vs (dataRegs x.size)
  else if 0x50 ≤ x.op ∧ x.op ≤ 0x52 then vs (if x.m = 0x0B then 2 else 1)
  else if x.op = 0x6B then [.u x.d, .u (x.d + 1)]
  else if x.op = 0x74 then [.vAll x.d, .vAll (x.d + 1)]
  else []

/-- The registers an instruction reads. -/
def XInst.sources (x : XInst) : List XReg := x.dests.foldl (fun l r => l.erase r) (x.regs.getD [])

/-! ### Reading registers -/

def getV (t : Tour) (lane r : Nat) : Word := look t.v (32 * lane + r) 0
def getU (t : Tour) (r : Nat) : Word := look t.u r 0
def threadOf (t : Tour) (lane : Nat) : Thread := (t.threads[lane]?).getD { exited := true }
/-- A predicate; p7 reads 1 (R70). -/
def getP (t : Tour) (lane i : Nat) : Bool := i = 7 || (threadOf t lane).pred.getLsbD i

/-- A and B of a Reg-form instruction in a lane (R113). -/
def opA (t : Tour) (x : XInst) (lane : Nat) : Word := if x.sa then getU t x.a else getV t lane x.a
def opB (t : Tour) (x : XInst) (lane : Nat) : Word := if x.sb then getU t x.b else getV t lane x.b

/-- The pair at an even register: a vector's in a lane, or a uniform one. -/
def pairV (t : Tour) (lane r : Nat) : Nat := (getV t lane r).toNat + 2 ^ 32 * (getV t lane (r + 1)).toNat
def pairU (t : Tour) (r : Nat) : Nat := (getU t r).toNat + 2 ^ 32 * (getU t (r + 1)).toNat

/-- The guard is true in a lane (R109). -/
def guardTrue (t : Tour) (x : XInst) (lane : Nat) : Bool := getP t lane (x.g % 8) != x.g.testBit 3

/-- The instruction at a PC, as the instruction store holds it. -/
def fetchInst (c : Core) (pc : Nat) : XInst :=
  ⟨(look c.code pc 0).toNat, if (look c.code pc 0).getLsbD 4 then (look c.code (pc + 1) 0).toNat else 0⟩

/-- Register-file words of a register for an issuing lane. -/
def XReg.keys (lane : Nat) : XReg → List Nat
  | .v r => [32 * lane + r]
  | .vAt l r => [32 * l + r]
  | .vAll r => (List.range 16).map fun l => 32 * l + r
  | .u r => [512 + r]
  | .p _ => []

/-- What a reader meets in a word it cannot use: memory class, byte offset and finding (R409, R419). -/
abbrev BadRead := Nat × Nat × Checked

/-- The first uncorrectable register-file word that the issue reads (R410). -/
def poisonRead (t : Tour) (x : XInst) (lanes : List Nat) : Option BadRead :=
  (lanes.flatMap fun l => (528 + l) :: x.sources.flatMap (XReg.keys l)).findSome? fun k =>
    (badWord t.bad k).map fun f => (1, 4 * k, f)

/-! ### Readiness (R72, R114, R137, R138) -/

/-- A result of the register is outstanding for a lane. -/
def RDest.hits (d : RDest) (lane : Nat) : XReg → Bool
  | .v r => match d with | .vec q vals => q = r && vals.any (·.1 = lane) | _ => false
  | .vAt at_ r => match d with | .vec q vals => q = r && vals.any (·.1 = at_) | _ => false
  | .vAll r => match d with | .vec q _ => q = r | _ => false
  | .u r => match d with | .uni q _ => q = r | _ => false
  | .p i => match d with | .pred q vals => q = i && vals.any (·.1 = lane) | _ => false

def PendLoad.hits (l : PendLoad) (lane : Nat) : XReg → Bool
  | .v r => l.lanes.getLsbD lane && l.reg ≤ r && r < l.reg + dataRegs l.size
  | .vAt at_ r => l.lanes.getLsbD at_ && l.reg ≤ r && r < l.reg + dataRegs l.size
  | .vAll r => l.reg ≤ r && r < l.reg + dataRegs l.size
  | _ => false

def regFree (c : Core) (tour lane : Nat) (r : XReg) : Bool :=
  c.results.all (fun p => p.tour ≠ tour || !p.dest.hits lane r)
    && c.loads.all (fun l => l.tour ≠ tour || !l.hits lane r)

/-- The instruction's registers and its guard are free of outstanding results. An illegal instruction waits for none. -/
def operandsReady (c : Core) (tour lane : Nat) (x : XInst) : Bool :=
  match x.regs with
  | none => true
  | some l => l.all (regFree c tour lane) && regFree c tour lane (.p (x.g % 8))

/-- The transfer carries bytes of the tour. -/
def Xfer.of (q : Xfer) (tour : Nat) : Bool := q.tour = tour || tour ∈ q.also
def Rmw.of (m : Rmw) (tour : Nat) : Bool := m.tour = tour || tour ∈ m.also

/-- Earlier accesses of the tour are settled in each space the fence selects (R137). -/
def fenceSettled (c : Core) (t : Tour) (g : Nat) (x : XInst) : Bool :=
  (!x.m.testBit 0 || t.clmBusy ≤ g)
    && (!x.m.testBit 1 || (t.shelfBusy ≤ g && c.wrQueue.all (fun q => !q.of t.index) && c.rmws.all (fun m => m.atomic.isSome || !m.of t.index)
      && c.rdQueue.all (fun q => q.kind ≠ .rmwRead || !q.of t.index)
      && (match c.merge with | some e => t.index ∉ e.tours | none => true)))
    && (!x.m.testBit 2 || c.unacked.all (·.1 ≠ t.index))

/-- The instruction uses the CLM (R87, R141, R142, R159). -/
def usesClm (x : XInst) : Bool :=
  x.op = 0x48 || x.op = 0x49 || x.op = 0x50 || x.op = 0x73 || x.op = 0x74
    || ((x.op = 0x70 || x.op = 0x71) && !x.shelf) || (x.op = 0x72 && (x.mode = 1 || x.mode = 2) && !x.shelf)

/-- The unit the instruction needs accepts an issue in wing time g, beat b (R72, R87, R118, R137, R138, R158 to R163). -/
def unitAccepts (c : Core) (t : Tour) (g b : Nat) (x : XInst) : Bool :=
  (!(0x2C ≤ x.op && x.op ≤ 0x2F) || c.sfuFree ≤ g)
    && (!usesClm x || c.clmFree ≤ g)
    && (x.op ≠ 0x6A || fenceSettled c t g x)
    && (x.op ≠ 0x6C || 0 ≤ toSigned 32 ((BitVec.ofNat 32 b - getU t x.a).toNat))
    && (x.op ≠ 0x70 || c.shadow = none)
    && (x.op ≠ 0x71 || c.runs.all fun r => match r.entry with | some e => e ≤ g | none => false)
    && (x.op ≠ 0x72 || (c.runs.all (fun r => r.tile ≠ x.d % 8) && look c.lastWrite (x.d % 8) 0 ≤ g))

/-- Non-exited lanes of a tour. -/
def aliveLanes (t : Tour) : List Nat := (List.range 16).filter fun l => !(threadOf t l).exited

/-- A thread is parked: its next instruction is tour-wide (R77). -/
def parked (c : Core) (t : Tour) (lane : Nat) : Bool := tourWide (fetchInst c (threadOf t lane).pc).op

def laneReady (c : Core) (t : Tour) (g b lane : Nat) : Bool :=
  let x := fetchInst c (threadOf t lane).pc
  !tourWide x.op && operandsReady c t.index lane x && unitAccepts c t g b x

/-- The PC and the lanes of the issue that the docent would make for a tour (R74, R77); none where it is not ready. -/
def tourChoice (c : Core) (t : Tour) (g b : Nat) : Option (Nat × List Nat) :=
  let alive := aliveLanes t
  let pc0 := (threadOf t (alive.headD 0)).pc
  if t.stopped || alive = [] then none
  else if alive.all (fun l => parked c t l && (threadOf t l).pc = pc0) then
    let x := fetchInst c pc0
    if (List.range 16).all (fun l => operandsReady c t.index l x) && unitAccepts c t g b x then some (pc0, alive) else none
  else
    let ready := alive.filter (laneReady c t g b)
    match ready with
    | [] => none
    | l :: ls =>
      let m := ls.foldl (fun a l => min a (threadOf t l).pc) (threadOf t l).pc
      some (m, ready.filter fun l => (threadOf t l).pc = m)

/-! ### The merge buffer (R130, R194 to R196) -/

/-- Bytes of earlier-issued stores of the core for a word: the queued writes in order, then the merge buffer (R130). -/
def forwarded (c : Core) (w : Nat) : Nat × Nat :=
  let step (acc : Nat × Nat) (x : Nat × BitVec 16 × BitVec 128) : Nat × Nat :=
    if x.1 = w then (acc.1 ||| x.2.1.toNat, mergeBytes 16 acc.2 x.2.2.toNat x.2.1.toNat) else acc
  let acc := c.wrQueue.foldl (fun acc q => q.words.foldl step acc) (0, 0)
  match c.merge with
  | some e => step acc (e.word, e.mask, e.data)
  | none => acc

def readWords (ws : List Nat) : List (Nat × BitVec 16 × BitVec 128) := ws.map fun w => (w, 0, 0)
def forwardWords (c : Core) (ws : List Nat) : List (Nat × BitVec 16 × BitVec 128) :=
  ws.map fun w => (w, BitVec.ofNat 16 (forwarded c w).1, BitVec.ofNat 128 (forwarded c w).2)

/-- The open entry leaves the merge buffer as a read-modify-write (R194 to R196). -/
def leaveRmw (c : Core) (g : Nat) (e : MergeEntry) : Core :=
  let tour := e.tours.headD 0
  { c with merge := none,
           rdQueue := c.rdQueue ++ [{ kind := .rmwRead, issue := g, words := [(e.word, e.mask, e.data)],
                                      fwd := forwardWords { c with merge := none } [e.word], tour := tour, also := e.tours.tail }],
           wrQueue := c.wrQueue ++ [{ kind := .rmwWrite, issue := g, words := [(e.word, e.mask, e.data)],
                                      tour := tour, also := e.tours.tail }] }

/-- An entry still open at the end of g_o + 3 leaves at g_o + 4, before anything else of that GCLK (R195). -/
def mergeDue (c : Core) (g : Nat) : Bool :=
  match c.merge with
  | some e => decide (e.opened + 4 ≤ g)
  | none => false

/-! ### Swaps (R83, R85) -/

/-- Both directions of the channel are free of transfers, whether waiting or under way (R206). R85 asks it of earlier-issued
transfers: every transfer issued before g₀ counts as one, those issued after the swap's trigger among them. -/
def channelFree (c : Core) (g : Nat) : Bool := c.rdQueue = [] && c.wrQueue = [] && c.rmws = [] && c.rdFree ≤ g && c.wrFree ≤ g

/-- A tour's trigger joins the queue, one for each tour: a tour that has a swap in line gets no second one, and once its last
thread has exited that swap is a swap-in, for then it has nothing to save (R83). -/
def queueSwap (c : Core) (r : SwapReq) : List SwapReq :=
  if c.swapQueue.any (·.tour = r.tour) then
    c.swapQueue.map fun q => if q.tour = r.tour && r.kind = .swapIn then { q with kind := .swapIn } else q
  else if c.pendingSet = [] then c.swapQueue
  else c.swapQueue ++ [r]

/-- The swap at the head of the queue has its turn at g. One that waits for its bank groups keeps it: later-issued transfers wait behind
it (R192). -/
def swapBegins (c : Core) (g : Nat) : Option SwapReq :=
  match c.swap, c.swapQueue with
  | none, r :: _ =>
    let t := ((find c.active r.slot).map (·.index)).getD 64
    if r.from_ ≤ g && (if c.swapMet.isSome then c.rdFree ≤ g && c.wrFree ≤ g else channelFree c g)
        && (r.kind = .swapIn || (c.results.all (·.tour ≠ t) && c.loads.all (·.tour ≠ t))) then some r else none
  | _, _ => none

/-- A slot accepts no issue from the start of its swap until the incoming tour is issuable (R85). -/
def slotOpen (c : Core) (slot g : Nat) : Bool :=
  (match c.swap with | some w => w.slot ≠ slot | none => true)
    && (match swapBegins c g with | some r => r.slot ≠ slot | none => true)

/-! ### The docent and the issue (R73 to R79) -/

/-- An issue: its core, wing time, slot, tour, PC, lanes and instruction. -/
structure Issue where
  id : Nat
  core : Core
  g : Nat
  slot : Nat
  tour : Tour
  pc : Nat
  lanes : List Nat
  x : XInst
  /-- A word that the issue reads and cannot use. -/
  bad : Option BadRead := none

/-- The first slot in the docent's order whose tour is ready (R73). -/
def docentChoice (c : Core) (g b : Nat) : Option (Nat × Tour × Nat × List Nat) :=
  [1, 2, 3, 4].findSome? fun i =>
    let slot := (c.docent + i) % 4
    match find c.active slot with
    | some t => if slotOpen c slot g then (tourChoice c t g b).map fun r => (slot, t, r.1, r.2) else none
    | none => none

/-- The issue of a core at an edge: one instruction per GCLK (R74, R106). -/
def issueAt (s : State) (id j : Nat) : Option Issue :=
  let w := wingOfCore id
  match find s.cores id with
  | none => none
  | some c =>
    let g := wtime s w j
    if !live s || mergeDue c g || !edgeOk s w j || c.done || !(match c.firstIssue with | some f => f ≤ g | none => false) || c.lastIssue = some g || c.wroteAt = some g then none
    else (docentChoice c g (now s)).map fun r =>
      { id := id, core := c, g := g, slot := r.1, tour := r.2.1, pc := r.2.2.1, lanes := r.2.2.2, x := fetchInst c r.2.2.1 }

/-- Lanes whose guard is true (R109). -/
def Issue.on (i : Issue) : List Nat := i.lanes.filter (guardTrue i.tour i.x)

def laneMask (ls : List Nat) : Nat := ls.foldl (fun a l => a + 2 ^ l) 0

/-- SOURCE, CLASS, SYND and stack of what a reader in a cabinet has met, as a job fault gives them (R477). -/
def badWhy (s : State) (core : Nat) (f : Checked) : Option (Nat × Nat × Nat × Nat) :=
  some (4096 + cabUnit s (cabOfCore core), f.cls.1, f.cls.2.1, stackOfCore core)

/-- Report a word that an issue reads and cannot use (R409, R410, R419). -/
def reportBad (s : State) (i : Issue) : State :=
  match i.bad with
  | some (mem, off, f) =>
    report s (stackOfCore i.id) (mkReport 1 (cabUnit s (cabOfCore i.id)) mem f (siteOfCore s i.id % 100 + 2 ^ 8 * off) false)
  | none => s

/-- A fault at issue: nothing of the issue takes place, and the tour issues nothing further (R143, R145). -/
def issueFault (s : State) (i : Issue) (code : Nat) : State :=
  let s := reportBad s i
  let t := { i.tour with stopped := true }
  let s := setCore s i.id { i.core with docent := i.slot, lastIssue := some i.g, active := put i.core.active i.slot t }
  kernelFault s (cabOfCore i.id) (coreInCab i.id) i.tour.index code i.pc (laneMask i.lanes) i.g
    (if code = 0x1A then i.bad.bind fun b => badWhy s i.id b.2.2 else none)

/-- The parked threads of a tour do not all stand at one PC (R78). -/
def mismatch (c : Core) (t : Tour) : Bool :=
  match (aliveLanes t).filter (parked c t) with
  | [] => false
  | l :: ls => ls.any fun k => (threadOf t k).pc ≠ (threadOf t l).pc

/-- Put the tour back after an issue: the docent's j, the mismatch test, and a swap-in when its last thread has exited
(R73, R78, R79, R83). -/
def settle (s : State) (i : Issue) (c : Core) (t : Tour) : State :=
  let bad := mismatch c t
  let t := { t with stopped := t.stopped || bad }
  let left := (aliveLanes t = []) && !(aliveLanes i.tour = [])
  let c := { c with docent := i.slot, lastIssue := some i.g, active := put c.active i.slot t,
                    swapQueue := if left then queueSwap c ⟨.swapIn, i.slot, t.index, i.g + 1⟩ else c.swapQueue }
  let s := setCore s i.id c
  if bad then kernelFault s (cabOfCore i.id) (coreInCab i.id) t.index 0x01 0 0 i.g else s

def mapThread (t : Tour) (lane : Nat) (f : Thread → Thread) : Tour :=
  { t with threads := t.threads.modify lane f }

/-- Advance the PCs of the issuing lanes (R75, R107). -/
def advance (i : Issue) (t : Tour) : Tour :=
  i.lanes.foldl (fun t l => mapThread t l fun h => { h with pc := i.pc + i.x.words }) t

/-- A result written at the end of g + r − 1 (R115). -/
def addResult (c : Core) (i : Issue) (r : Nat) (d : RDest) : Core :=
  { c with results := c.results ++ [⟨i.tour.index, d, i.g + r - 1⟩] }

/-- Finish an issue that advances its lanes, over a changed core. -/
def finish (s : State) (i : Issue) (c : Core) : State := settle s i c (advance i i.tour)

/-- Write vD in the lanes whose guard is true. -/
def finishV (s : State) (i : Issue) (r : Nat) (f : Nat → Word) : State :=
  finish s i (addResult i.core i r (.vec i.x.d (i.on.map fun l => (l, f l))))

/-- Write uD (R116). -/
def finishU (s : State) (i : Issue) (r : Nat) (v : Word) : State := finish s i (addResult i.core i r (.uni i.x.d v))

/-- Write predicate D in the lanes whose guard is true; p7 ignores writes (R70). -/
def finishP (s : State) (i : Issue) (f : Nat → Bool) : State :=
  if i.x.d = 7 then finish s i i.core
  else finish s i (addResult i.core i 2 (.pred i.x.d (i.on.map fun l => (l, f l))))

/-- The lowest code of the faults that one issue raises (R145). -/
def lowest : List Nat → Option Nat
  | [] => none
  | c :: cs => some (cs.foldl min c)

/-- Make the checks of every issuing lane, then act; a word that the issue cannot use raises LOAD_POISONED among them (R127,
R143, R145, R410). -/
def checked (s : State) (i : Issue) (faults : Nat → List Nat) (extra : List Nat) (t : State) : State :=
  match lowest (extra ++ i.on.flatMap faults ++ (if i.bad.isSome then [0x1A] else [])) with
  | some code => issueFault s i code
  | none => t

/-- The opcodes whose meaning makes its own checks at issue, lower codes than LOAD_POISONED among them. -/
def checksItself (op : Nat) : Bool := (0x48 ≤ op && op ≤ 0x61) || (0x70 ≤ op && op ≤ 0x74)

/-- An instruction store word that an issue cannot read. -/
def codeFault (s : State) (i : Issue) (pc : Nat) : Option State :=
  (badWord i.core.codeBad pc).map fun f => issueFault s { i with bad := some (3, 4 * pc, f) } 0x1A

/-- A Xilon instruction issues: the docent's choice must be an instruction of this opcode. A PC outside the code, a word that
cannot be read, and a reserved opcode, fault whichever instruction is commanded (R111, R134, R143, R410). -/
def xilon (core : CoreRef) (j : Fin 7) (op : Nat) (act : State → Issue → State) (s : State) : Result :=
  match issueAt s (coreId core) j.val with
  | none => .next s
  | some i =>
    if i.core.codeBytes ≤ 4 * i.pc then .next (issueFault s i 0x11)
    else if (badWord i.core.codeBad i.pc).isSome then .next ((codeFault s i i.pc).getD s)
    else if !opListed i.x.op then .next (issueFault s i 0x10)
    else if i.x.op ≠ op then .next s
    else if i.x.regs = none then .next (issueFault s i 0x10)
    else if i.core.codeBytes < 4 * (i.pc + i.x.words) then .next (issueFault s i 0x11)
    else if i.x.ext ∧ (badWord i.core.codeBad (i.pc + 1)).isSome then .next ((codeFault s i (i.pc + 1)).getD s)
    else match poisonRead i.tour i.x i.lanes with
      | some b =>
        .next (if checksItself op then act s { i with bad := some b } else issueFault s { i with bad := some b } 0x1A)
      | none => .next (act s i)

end Sys2Proof.Machine
end

