-- ==== Sys2Proof/Machine/Network.lean ====
section
/-! DEFINITION. The address map (R16, R187 to R189, R212 to R215, R245 to R248, R260), the routes (R17, R31, R333) and the
rotations (R31 to R40). -/

namespace Sys2Proof.Machine

/-! ### Address spaces -/

inductive Space where
  | vault (granule : Nat)
  /-- A logical core's shelf and the offset in it (R187, R189). -/
  | archive (core : Nat) (off : Nat)
  /-- Near-bank window of pseudo-channel P (R260). -/
  | window (P : Nat) (off : Nat)
  | registers
  | nowhere
deriving DecidableEq, Repr

/-- Bytes of one layer of a shelf (R187). -/
def layerBytes : Nat := 0x38000
def shelfBytes : Nat := 0x70000

/-- The space an address falls in. Archive space in a wing of no partition, and a window without a pinned granule, are
covered by no space (R128, R189, R246, R260). -/
def spaceOf (s : State) (a : Nat) : Space :=
  if a < 2 ^ 40 then
    (if (find s.granules (a / 2 ^ 30)).isSome then .vault (a / 2 ^ 30) else .nowhere)
  else if a / 2 ^ 44 = 1 then
    let off := bits a 0 18
    let core := bits a 19 7
    let cab := bits a 26 4
    let wing := bits a 30 7
    if off < layerBytes ∧ core < 96 ∧ cab < logicalCabs s wing ∧ bits a 37 7 = 0 ∧ (ownerOfWing s wing).isSome then
      .archive (wing * 864 + cab * 96 + core) (off + layerBytes * bits a 18 1)
    else .nowhere
  else if a / 2 ^ 44 = 2 then
    let P := 64 * bits a 26 4 + bits a 20 6
    if bits a 30 14 = 0 ∧ (pinnedAt s P).isSome then .window P (bits a 0 20) else .nowhere
  else if a / 2 ^ 44 = 3 then .registers
  else .nowhere

/-- The owning partition of a space. -/
def spaceOwner (s : State) : Space → Option Nat
  | .vault g => ownerOfGranule s g
  | .archive c _ => ownerOfWing s (wingOfCore c)
  | .window P _ => (pinnedAt s P).map (·.2.part)
  | _ => none

def isShared (s : State) (g : Nat) : Bool := ((find s.granules g).map (·.shared)).getD false

/-- Slice of pseudo-channel P (R245). -/
def sliceOfPch (P : Nat) : Nat := P / 2

/-- The fold of R214. -/
def fold (a : Nat) : Nat := bits a 7 9 ^^^ bits a 16 9 ^^^ bits a 25 9 ^^^ bits a 34 6

/-- Slice of a vault-space address (R214, R215). -/
def sliceOfAddr (s : State) (a : Nat) : Nat :=
  match find s.granules (a / 2 ^ 30) with
  | some g => if g.kind = .pinned then sliceOfPch g.pch else fold a
  | none => fold a

/-- Set index and tag of a line. -/
def setOfAddr (s : State) (a : Nat) : Nat :=
  match find s.granules (a / 2 ^ 30) with
  | some g => if g.kind = .pinned then bits a 7 11 else bits a 16 11
  | none => bits a 16 11

def tagOfAddr (s : State) (a : Nat) : Nat :=
  match find s.granules (a / 2 ^ 30) with
  | some g => if g.kind = .pinned then bits a 18 22 else bits a 27 13
  | none => bits a 27 13

/-- Pseudo-channel of a vault-space address, and the byte within it (R247, R248). -/
def vaultPlace (s : State) (a : Nat) : Nat × Nat :=
  match find s.granules (a / 2 ^ 30) with
  | some g =>
    if g.kind = .pinned then (g.pch, bits a 0 30)
    else (2 * fold a + b2n g.half, 2097152 * g.rank + 128 * bits a 16 14 + bits a 0 7)
  | none => (2 * fold a, bits a 0 30)

/-- Word of the vault store that holds byte `off` of pseudo-channel P. -/
def vaultWord (P off : Nat) : Nat := P * 2 ^ 25 + off / 32

/-! ### Shelves and CLMs -/

/-- Row of the shelf store that holds 16 B word w of the shelf of a site, past the row remap (R188). -/
def shelfRow (s : State) (site w : Nat) : Nat :=
  let row := ((site * 2 + w / 14336) * 7 + w % 14336 / 2048) * 2064 + w % 2048
  look s.rowMap row row

/-- LOCATION of a shelf row (R419). -/
def shelfLoc (row : Nat) : Nat :=
  let site := row / 2064 / 14
  site % 100 + 2 ^ 7 * (row / 2064 / 7 % 2) + 2 ^ 8 * (row / 2064 % 7) + 2 ^ 11 * (row % 2064)

/-- Layer latency of a shelf word (R187). -/
def layerLatency (w : Nat) : Nat := if w < 14336 then 7 else 9

/-- L of an access: 9 if any of its words lies in the lower layer (R88, R151). -/
def latencyOf (ws : List Nat) : Nat := if ws.any (14336 ≤ ·) then 9 else 7

/-- Bank group of a wing and layer (R190, R370). -/
def bankGroupOf (wing layer : Nat) : Nat := 2 * wing + layer

/-- The bank groups that a transfer of a core touches. -/
def groupsOf (core : Nat) (ws : List Nat) : List Nat :=
  let w := wingOfCore core
  (if ws.any (· < 14336) then [bankGroupOf w 0] else []) ++ (if ws.any (14336 ≤ ·) then [bankGroupOf w 1] else [])

/-- Cabinet unit and stack of a core, as reports name them (R419). -/
def coreUnit (s : State) (core : Nat) : Nat := cabUnit s (cabOfCore core)

/-- Read a shelf word of a core. -/
def shelfRead (s : State) (core w : Nat) : Checked := wordRead s.shelf shelfCodec (shelfRow s (siteOfCore s core) w)

def shelfPut (s : State) (core w d : Nat) : State :=
  { s with shelf := wordWrite s.shelf shelfCodec (shelfRow s (siteOfCore s core) w) d }

/-- Report a finding in a core's shelf word. -/
def shelfReport (s : State) (core w : Nat) (f : Checked) : State :=
  reportFinding s (stackOfCore core) 1 (coreUnit s core) 5 f (shelfLoc (shelfRow s (siteOfCore s core) w))

/-- SOURCE, CLASS, SYND and stack of a finding reported by a core's cabinet. -/
def whyOf (s : State) (core : Nat) (f : Checked) : Option (Nat × Nat × Nat × Nat) :=
  if 2 ≤ f.cls.1 then some (4096 + coreUnit s core, f.cls.1, f.cls.2.1, stackOfCore core) else none

/-! ### Routes (R17, R31, R333) -/

/-- Fabric port and bridge direction of one hop from plinth p, and the next plinth. -/
def hop (p q : Nat) : Option (List (Nat × Nat) × Nat) :=
  if p % 4 < q % 4 then some ([(1, 8 * p + 6), (2, 2 * (3 * (p / 4) + p % 4))], p + 1)
  else if q % 4 < p % 4 then some ([(1, 8 * p + 5), (2, 2 * (3 * (p / 4) + p % 4 - 1) + 1)], p - 1)
  else if p / 4 < q / 4 then some ([(1, 8 * p + 7), (2, 2 * (6 + p % 4))], p + 4)
  else if q / 4 < p / 4 then some ([(1, 8 * p + 7), (2, 2 * (6 + p % 4) + 1)], p - 4)
  else none

def hopsTo (p q : Nat) : Nat → List (Nat × Nat)
  | 0 => []
  | n + 1 => match hop p q with
    | some (l, p') => l ++ hopsTo p' q n
    | none => []

/-- Bridge hops from plinth p to plinth q (R17). -/
def hopCount (p q : Nat) : Nat := (max (p % 4) (q % 4) - min (p % 4) (q % 4)) + (max (p / 4) (q / 4) - min (p / 4) (q / 4))

/-- The rotated resources from plinth p to slice i. -/
def routeToSlice (p i : Nat) : List (Nat × Nat) :=
  hopsTo p (i / 64) 4 ++ [(1, 8 * (i / 64) + 1 + i / 32 % 2), (3, i)]

/-- The rotated resources from plinth p to the crossing of stack q. -/
def routeToCrossing (p q : Nat) : List (Nat × Nat) := hopsTo p q 4 ++ [(1, 8 * q)]

/-- The route to an address from plinth p, and the plinth it ends on. -/
def routeTo (s : State) (p a : Nat) : List (Nat × Nat) × Nat :=
  match spaceOf s a with
  | .vault _ => (routeToSlice p (sliceOfAddr s a), sliceOfAddr s a / 64)
  | .archive c _ => (routeToCrossing p (stackOfCore c), stackOfCore c)
  | .window P _ => (routeToSlice p (sliceOfPch P), sliceOfPch P / 64)
  | _ => ([], p)

/-- Route code of a cabinet's egress and of an engine's scheduled context (R333). -/
def cabRoute (cab : Nat) : Nat := 1 + 2 ^ 4 * (cab / 144) + 2 ^ 7 * (cab / 9 % 16) + 2 ^ 11 * (cab % 9)
def engRoute (eng : Nat) : Nat := 2 + 2 ^ 4 * (eng / 6) + 2 ^ 7 * (eng % 6)

/-- Stack of a rotated resource; a bridge direction lies on the plinth it leaves (R42). -/
def stackOfRes (kind idx : Nat) : Nat :=
  match kind with
  | 1 => idx / 8
  | 2 =>
    let b := idx / 2
    let lo := if b < 6 then 4 * (b / 3) + b % 3 else b - 6
    let hi := if b < 6 then lo + 1 else lo + 4
    if idx % 2 = 0 then lo else hi
  | 3 => idx / 64
  | 4 => idx / 6
  | _ => idx

/-- The edge of a domain in reset lies between two resources of a route (R444). -/
def edgeClosed (s : State) (here next : Nat × Nat) : Bool :=
  (next.1 = 5 && inDomainReset s 1 next.2)
    || (stackOfRes here.1 here.2 ≠ stackOfRes next.1 next.2 && inDomainReset s 2 (stackOfRes next.1 next.2))

/-- A request that asks for data. -/
def Req.reads (r : Req) : Bool :=
  match r.kind with
  | .load => true
  | .atomic _ _ => true
  | .hostRead => true
  | _ => false

/-- A request is dropped at the edge of a domain in reset: a read is answered with poisoned data (R444). -/
def dropAtEdge (r : Req) (c : Nat) : Req :=
  if r.reads then { r with route := [], stage := .answered c, poison := true } else { r with route := [], stage := .lost }

def addReq (s : State) (r : Req) : State :=
  { s with net := put s.net s.nextReq { r with seq := s.nextReq }, nextReq := s.nextReq + 1 }

def setReq (s : State) (n : Nat) (r : Req) : State := { s with net := put s.net n r }

/-- Kinds a route may take (R333). -/
def routeAllows (route kind : Nat) : Bool :=
  route < 2 ^ 15 && (match route % 16 with
    | 1 => 1 ≤ kind && kind ≤ 3 && route / 2048 % 16 < 9
    | 2 => 1 ≤ kind && kind ≤ 3 && route / 128 % 8 < 6 && route / 1024 = 0
    | 3 => kind = 5 && route = 3
    | _ => false)

/-! ### Rotations (R31 to R40) -/

/-- Owner class of an unscheduled slot (R32). -/
def classOfSlot (pc : Nat) : Nat := pc % 20 - 16 + 4 * (pc / 20 % 3)

/-- Lane slot pc of a resource belongs to a route of a partition under its slot plan. -/
def planned (s : State) (kind idx part route pc : Nat) : Bool :=
  pc % 20 < 16 && (partOf s part).lanes.getLsbD (pc % 20 % 8)
    && s.plan.any fun e => e.1 = part && e.2.1.kind = kind && e.2.1.res = idx && e.2.1.slot = pc % 20
      && e.2.1.route = route && e.2.2 ≤ pc / 5 && pc / 5 < e.2.2 + 4 * e.2.1.rotations

/-- The registrar's slot plan at a port's DMA engine is in a planned rotation (R333). -/
def registrarPlanned (s : State) (part port pc : Nat) : Bool :=
  s.plan.any fun e => e.1 = part && e.2.1.kind = 5 && e.2.1.res = port && e.2.1.route = 3
    && e.2.2 ≤ pc / 5 && pc / 5 < e.2.2 + 4 * e.2.1.rotations

/-- The route whose lane slots a request takes at PCLK pc, or none for its class's: the registrar writes in its planned slots, and
outside planned rotations in its class's (R333). -/
def laneNow (s : State) (r : Req) (pc : Nat) : Option Nat :=
  match r.origin with
  | .registrar _ => if registrarPlanned s r.part r.cls pc then some 3 else none
  | _ => r.lane

/-- The slot of PCLK pc at a resource belongs to a request's lane or class. -/
def ownsSlot (s : State) (r : Req) (kind idx pc : Nat) : Bool :=
  match laneNow s r pc with
  | some route => routeAllows route kind && planned s kind idx r.part route pc
  | none => 16 ≤ pc % 20 && classOfSlot pc = r.cls

/-- The resource at which a request waits, and since when. -/
def Req.waits (r : Req) : Option (Nat × Nat × Nat) :=
  match r.stage, r.route with
  | .route c, (k, i) :: _ => some (k, i, c)
  | _, _ => none

/-- Requests waiting at a resource at PCLK pc. -/
def waitingAt (s : State) (kind idx pc : Nat) : List (Nat × Req) :=
  s.net.filter fun r => match r.2.waits with
    | some (k, i, c) => k = kind && i = idx && c ≤ pc
    | none => false

/-- Requests of the same lane route or class, which are taken in order of arrival (R37). -/
def sameClass (s : State) (r q : Req) (pc : Nat) : Bool :=
  laneNow s r pc = laneNow s q pc
    && ((laneNow s r pc).isSome && r.part = q.part || (laneNow s r pc).isNone && r.cls = q.cls)

def arrivedAt (r : Req) : Nat := match r.stage with | .route c => c | _ => 0

/-- No earlier request of its class waits at the resource. -/
def firstOfClass (s : State) (n : Nat) (r : Req) (kind idx pc : Nat) : Bool :=
  (waitingAt s kind idx pc).all fun q =>
    q.1 = n || !sameClass s r q.2 pc || arrivedAt r < arrivedAt q.2 || (arrivedAt r = arrivedAt q.2 && r.seq < q.2.seq)

/-- The registrar may fetch for a partition (R338, R450). -/
def mayFetch (s : State) (p : Nat) : Bool :=
  s.boot.deaccessioned || (!(partOf s p).held && (match (partOf s p).heldClearedAt with | some b => b < now s | none => true))

/-- The ring whose descriptors a port fetches next, where it has no fetch out (R323). -/
def nextRing (s : State) (port : Nat) : Option Nat :=
  let x := portOf s port
  if x.fetch.isSome then none
  else x.fetchQueue.find? fun id => match find s.rings id with | some r => mayFetch s r.part && decide (0 < unfetched x id r) | none => false

/-- A fetch of the port waits at its DMA engine since a PCLK not after c, in the class of the request (R37, R323). -/
def fetchAhead (s : State) (r : Req) (kind idx c pc : Nat) : Bool :=
  kind = 5 && (laneNow s r pc).isNone && r.cls = idx && (nextRing s idx).isSome && decide ((portOf s idx).nextFetch ≤ c)

/-- A fetch of a port waits at its DMA engine for a slot of its class. -/
def fetchWaits (s : State) (kind idx pc : Nat) : Bool :=
  kind = 5 && 16 ≤ pc % 20 && classOfSlot pc = idx && (nextRing s idx).isSome && decide ((portOf s idx).nextFetch ≤ pc)

/-- A slot is idle: no request waits that owns it (R39). -/
def idleSlot (s : State) (kind idx pc : Nat) : Bool :=
  !fetchWaits s kind idx pc && (waitingAt s kind idx pc).all fun q => !ownsSlot s q.2 kind idx pc

/-- The rank of a reclaiming class for an idle slot of rotation n (R39). -/
def reclaimRank (cls pc : Nat) : Nat := (cls + 12 - pc / 20 % 12) % 12

/-- A waiting request presents itself for an idle slot: it reclaims, and nothing of its class goes before it (R37, R39). -/
def presentsReclaim (s : State) (kind idx pc : Nat) (q : Nat × Req) : Bool :=
  q.2.reclaim && (laneNow s q.2 pc).isNone && firstOfClass s q.1 q.2 kind idx pc && !fetchAhead s q.2 kind idx (arrivedAt q.2) pc

/-- A reclaiming request takes an idle slot when no reclaiming class that presents one ranks before it (R39). -/
def reclaims (s : State) (r : Req) (kind idx pc : Nat) : Bool :=
  r.reclaim && (laneNow s r pc).isNone && idleSlot s kind idx pc
    && (waitingAt s kind idx pc).all fun q => !presentsReclaim s kind idx pc q || reclaimRank r.cls pc ≤ reclaimRank q.2.cls pc

/-- Reads that a port has sent to the host and that are not yet completed, the registrar's fetch among them (R311). -/
def hostReadsOut (s : State) (p : Nat) : Nat :=
  (s.net.filter fun x => x.2.kind = .hostRead && x.2.cls = p && (match x.2.stage with | .slice _ => true | _ => false)).length
    + b2n (portOf s p).fetch.isSome

/-- The request that waits takes its resource at PCLK pc. -/
def takes (s : State) (n : Nat) (r : Req) (pc : Nat) : Bool :=
  match r.waits with
  | none => false
  | some (k, i, c) =>
    c ≤ pc && look s.slotUse (k * 65536 + i) (pc + 1) ≠ pc && firstOfClass s n r k i pc
      && !(k = 5 && (inDomainReset s 1 i || (r.kind = .hostRead && 256 ≤ hostReadsOut s i))) && !fetchAhead s r k i c pc && (ownsSlot s r k i pc || reclaims s r k i pc)

/-- Count a host-port class's slot wait and its use of an idle slot (HP_SLOT_WAIT, HP_RECLAIMED). -/
def countSlot (s : State) (r : Req) (kind idx c pc : Nat) : State :=
  if (laneNow s r pc).isNone && r.cls < 8 then
    mapPort s r.cls fun p =>
      { p with
        slotWait := satAdd p.slotWait (pc - c)
        reclaimed := if ownsSlot s r kind idx pc then p.reclaimed else satAdd p.reclaimed 1 }
  else s

def useSlot (s : State) (kind idx pc : Nat) : State := { s with slotUse := put s.slotUse (kind * 65536 + idx) pc }

/-- PCLK of the next beat boundary at or after PCLK c. -/
def beatUp (c : Nat) : Nat := ceilDiv c 5

/-- Wing time at the first GCLK of a beat, the ratio unchanged. -/
def wingAt (s : State) (w beat : Nat) : Nat :=
  ((((wingOf s w).k * beat : Nat) : Int) + (wingOf s w).gOff).toNat

/-- The wing time at which an answer at PCLK c of the plinth is in a cabinet of wing w: the next beat boundary, the
crossing upward and the cabinet entry (R91). -/
def returnTime (s : State) (w c : Nat) : Nat := wingAt s w (beatUp c) + 10

/-- Answer a request at PCLK c of the target plinth; the return path takes 24 PCLK a hop and holds no rotation (R91). -/
def answer (s : State) (n : Nat) (r : Req) (c : Nat) : State := setReq s n { r with stage := .answered (c + 24 * r.hops) }

end Sys2Proof.Machine
end

