-- ==== Sys2Proof/Machine/Errors.lean ====
section
/-! DEFINITION. The error collectors, the log ring and the retirement table (R208, R419 to R427). -/

namespace Sys2Proof.Machine

/-! ### The log ring (R423, R424) -/

def logTail (s : State) : Nat := s.errLog.tail.toNat

/-- An index is free (R423). -/
def logFree (s : State) : Bool := (s.errLog.tail - s.errLog.head).toNat < 4096

/-- A log entry's 64 B (R424). -/
def logBlock (stack : Nat) (r : Report) (count first last index : Nat) (part : Option Nat) (job : BitVec 16) : BitVec 512 :=
  BitVec.ofNat 512 (packWords
    [r.source.toNat + 2 ^ 16 * stack + 2 ^ 19 * b2n r.scrub + 2 ^ 20 * r.cls.toNat + 2 ^ 24 * r.synd.toNat + 2 ^ 28 * r.mem.toNat,
     count, r.loc.toNat % 2 ^ 32, r.loc.toNat / 2 ^ 32, first, first / 2 ^ 32, last, last / 2 ^ 32,
     part.getD 0 + 8 * b2n part.isSome + 2 ^ 16 * job.toNat, index, r.syndrome.toNat])

def putLog (s : State) (index : Nat) (b : BitVec 512) : State :=
  { s with errLog := { s.errLog with ring := put s.errLog.ring (index % 4096) b, written := satAdd s.errLog.written 1 } }

/-- A report is lost to a full log or collector: CUR_ALERT.LOG_OVERFLOW is set (R421, R461). -/
def alertOverflow (s : State) : State := { s with boot := s.boot.alert 5 (now s) }

def logOverflow (s : State) : State := alertOverflow { s with errLog := { s.errLog with overflow := true, setAt := put s.errLog.setAt 0 (now s) } }

/-- Reserve the next index; its ring position reads 0 until its entry is written (R423). -/
def reserveLog (s : State) : State :=
  { s with errLog := { s.errLog with tail := s.errLog.tail + 1, ring := drop s.errLog.ring (logTail s % 4096) } }

/-- The curator writes an entry of its own, with source kind 0x8 (R394, R419, R427). -/
def curatorLog (s : State) (mem cls synd loc : Nat) : State :=
  let r : Report := ⟨0x8000, BitVec.ofNat 4 mem, BitVec.ofNat 4 cls, BitVec.ofNat 4 synd, BitVec.ofNat 48 loc, 0, false⟩
  if logFree s then putLog (reserveLog s) (logTail s) (logBlock 0 r 1 (now s) (now s) (logTail s) none 0)
  else logOverflow s

/-! ### Retirement records (R425 to R427) -/

def recWord (r : BitVec 256) (i : Nat) : Nat := bits r.toNat (32 * i) 32
def recKind (r : BitVec 256) : Nat := bits r.toNat 0 4
def mkRecord (w0 w1 w2 w3 w4 : Nat) : BitVec 256 := BitVec.ofNat 256 (packWords [w0, w1, w2, w3, w4])

def coreSiteRecord (stack wing cabSite core : Nat) : BitVec 256 :=
  mkRecord (2 + 16 * stack) (wing + 16 * cabSite + 2 ^ 8 * core) 0 0 0
def shelfRowRecord (stack wing cabSite core layer bank row : Nat) : BitVec 256 :=
  mkRecord (1 + 16 * stack) (wing + 16 * cabSite + 2 ^ 8 * core + 2 ^ 15 * layer + 2 ^ 16 * bank + 2 ^ 19 * row) 0 0 0
def vaultPageRecord (P page : Nat) : BitVec 256 := mkRecord 3 0 P page 0
def vaultBankRecord (P bank : Nat) : BitVec 256 := mkRecord 4 0 P bank 0
def sliceWayRecord (stack slice way : Nat) : BitVec 256 := mkRecord (5 + 16 * stack) 0 0 0 (slice + 64 * way)

/-- A record RETIRE takes: a kind, every field in range, every other bit 0 (R425). -/
def recordValid (r : BitVec 256) : Bool :=
  let w := recWord r
  let stack := bits (w 0) 4 3
  match recKind r with
  | 1 => bits (w 1) 4 4 < 10 && bits (w 1) 8 7 < 100 && bits (w 1) 16 3 < 7
      && r = shelfRowRecord stack (bits (w 1) 0 4) (bits (w 1) 4 4) (bits (w 1) 8 7) (bits (w 1) 15 1) (bits (w 1) 16 3)
        (bits (w 1) 19 11)
  | 2 => bits (w 1) 4 4 < 10 && bits (w 1) 8 7 < 100
      && r = coreSiteRecord stack (bits (w 1) 0 4) (bits (w 1) 4 4) (bits (w 1) 8 7)
  | 3 => r = vaultPageRecord (bits (w 2) 0 10) (bits (w 3) 0 17)
  | 4 => r = vaultBankRecord (bits (w 2) 0 10) (bits (w 3) 0 6)
  | 5 => r = sliceWayRecord stack (bits (w 4) 0 6) (bits (w 4) 6 4)
  | _ => false

/-- The vault page a record names lies in a bank of P: byte offsets with [29:24] equal to it. -/
def pageBank (page : Nat) : Nat := page / 2048

def addRecord (s : State) (r : BitVec 256) : State := { s with flash := { s.flash with retire := s.flash.retire ++ [r] } }

/-- What marks storage and sites bad: the fuses, the retirement table, and what TRAIN and TEST have found at this boot (R434). -/
def allMarks (s : State) : List (BitVec 256) := s.fuses.repair ++ s.flash.retire ++ s.boot.marks

/-- The curator writes one record, as a RETIRE would, and logs it; a full table drops it (R427), and during bring-up the mark stands for this
boot (R434). -/
def autoRecord (s : State) (r : BitVec 256) : State :=
  if r ∈ s.flash.retire then s
  else if 4096 ≤ s.flash.retire.length then
    { s with errLog := { s.errLog with retireFull := true, setAt := put s.errLog.setAt 1 (now s) }
             boot := { s.boot with marks := if s.boot.valid then s.boot.marks else s.boot.marks ++ [r] } }
  else curatorLog (addRecord s r) 0xC 8 0 s.flash.retire.length

/-- Number of VAULT_PAGE records of a bank. -/
def pagesOfBank (s : State) (P bank : Nat) : Nat :=
  (s.flash.retire.filter fun r => recKind r = 3 && bits (recWord r 2) 0 10 = P
    && pageBank (bits (recWord r 3) 0 17) = bank).length

/-- The bank that a SHELF_ROW record names, as `shelfRow` numbers banks. -/
def bankOfRecord (r : BitVec 256) : Nat :=
  let w := recWord r 1
  let site := ((16 * bits (recWord r 0) 4 3 + bits w 0 4) * 10 + bits w 4 4) * 100 + bits w 8 7
  (site * 2 + bits w 15 1) * 7 + bits w 16 3

/-- The rows of a record's bank that the fuses or the table retire, and its spare rows that have failed: each takes a spare. -/
def rowsOfBank (s : State) (r : BitVec 256) : Nat :=
  (((allMarks s).filter fun x => recKind x = 1 && bankOfRecord x = bankOfRecord r).eraseDups).length
    + (s.flash.failedSpares.filter fun k => k / 2064 = bankOfRecord r).length

/-- What a new record brings with it: VAULT_BANK once 64 pages of the bank are recorded (R427), and CORE_SITE once a bank has
more retired rows than its 16 spares (R209). -/
def afterRecord (s : State) (r : BitVec 256) : State :=
  let P := bits (recWord r 2) 0 10
  let bank := pageBank (bits (recWord r 3) 0 17)
  if recKind r = 3 ∧ 64 ≤ pagesOfBank s P bank then autoRecord s (vaultBankRecord P bank)
  else if recKind r = 1 ∧ 16 < rowsOfBank s r then
    let w := recWord r 1
    autoRecord s (coreSiteRecord (bits (recWord r 0) 4 3) (bits w 0 4) (bits w 4 4) (bits w 8 7))
  else s

/-- As `autoRecord`, with what the record brings. -/
def autoRetire (s : State) (r : BitVec 256) : State := afterRecord (autoRecord s r) r

/-- A core site is recorded as retired (R69, R208, R361). -/
def siteRetired (s : State) (site : Nat) : Bool :=
  coreSiteRecord (site / 16000) (site / 1000 % 16) (site / 100 % 10) (site % 100) ∈ s.flash.retire

/-- The logical core of a physical site, where one is mapped. -/
def coreAtSite (s : State) (site : Nat) : Option Nat :=
  let wing := site / 1000
  (List.range (logicalCabs s wing)).findSome? fun cab =>
    let c := wing * 9 + cab
    if cabSiteOf s c = site / 100 % 10 then
      (List.range 96).findSome? fun k => if siteOfCore s (c * 96 + k) = site then some (c * 96 + k) else none
    else none

/-- The logical cabinet on a site's cabinet site. -/
def cabAtSite (s : State) (site : Nat) : Option Nat :=
  let wing := site / 1000
  (List.range (logicalCabs s wing)).findSome? fun cab =>
    if cabSiteOf s (wing * 9 + cab) = site / 100 % 10 then some (wing * 9 + cab) else none

def setCabStatus (s : State) (cab : Option Nat) (bit : Nat) : State :=
  match cab with
  | some c => mapCab s c fun x => x.flag bit (now s)
  | none => s

/-- A channel is marked failed, with the effects of R208. -/
def markFailed (s : State) (site : Nat) : State :=
  let wing := site / 1000
  let s := setChannel s site { chanOf s site with failed := true, retired := true }
  let s := setCabStatus s (cabAtSite s site) 4
  let s := autoRetire s (coreSiteRecord (wing / 16) (wing % 16) (site / 100 % 10) (site % 100))
  match coreAtSite s site, ownerOfWing s wing with
  | some core, some p =>
    let s := postEvent s p 8 [wing / 16, wing % 16, site / 100 % 10, site % 100]
    kernelFault s (cabOfCore core) (coreInCab core) 0 0x06 0 0 (wtime s wing 0)
  | _, _ => s

/-! ### Collectors (R420 to R422) -/

def orderKey (r : Report) : Nat := (r.source.toNat * 16 + r.cls.toNat) * 16 + r.synd.toNat

/-- The next report of the beat, in the order of R420. -/
def nextReport : List Heard → Option Heard
  | [] => none
  | r :: rs => some (rs.foldl (fun a b => if orderKey b.rep < orderKey a.rep then b else a) r)

def sameKey (e : ColEntry) (r : Report) : Bool := e.rep.source = r.source && e.rep.cls = r.cls && e.rep.synd = r.synd

/-- The entry that a report of the present beat matches (R420). -/
def matching (s : State) (c : Collector) (r : Report) : Option ColEntry :=
  c.entries.find? fun e => sameKey e r && e.first ≤ now s && now s < e.first + 250000

/-- The collector keeps the source's first and last report (R422). -/
def noteSource (s : State) (c : Collector) (r : Report) (lost : Bool) : Collector :=
  let v := look c.sources r.source.toNat {}
  let v := { v with
    first := match v.first with | some f => some f | none => some (r, now s)
    last := some (r, now s)
    lost := if lost then satAdd v.lost 1 else v.lost }
  { c with sources := put c.sources r.source.toNat v }

/-- A report reaches its collector: it matches an entry, creates one, or is lost (R420, R421). -/
def collect (s : State) (stack : Nat) (h : Heard) : State :=
  let r := h.rep
  let c := colOf s stack
  match matching s c r with
  | some e =>
    let es := c.entries.map fun x => if x.index = e.index then { x with count := x.count + 1, last := now s } else x
    setCol s stack { noteSource s c r false with entries := es }
  | none =>
    if 64 ≤ c.entries.length then alertOverflow (setCol s stack { noteSource s c r true with overflow := true, setAt := put c.setAt 0 (now s) })
    else if !logFree s then
      setCol (logOverflow s) stack (noteSource s c r true)
    else
      let job := (h.part.map fun p => (partOf s p).job).getD 0
      let e : ColEntry := ⟨r, 1, now s, now s, logTail s, h.part, job, false⟩
      setCol (reserveLog s) stack { noteSource s c r false with entries := c.entries ++ [e] }

/-- COLLECTOR_ENTRY_CLOSE, R421. -/
def execCollectorEntryClose (stack : Fin 8) (s : State) : Result :=
  let c := colOf s stack.val
  let due (e : ColEntry) : Bool := !e.closed && e.first + 250000 = now s
  onlyIf (live s && c.entries.any due) s
    (setCol s stack.val { c with entries := c.entries.map fun e => if due e then { e with closed := true } else e })

/-- The row a record names for a physical row: the word's own row, or the one steered onto a spare (R425), whose spare then counts as failed
(R209; DESIGN CHOICE, log entry 191). -/
def recordRow (s : State) (key : Nat) : Nat :=
  if key % 2064 < 2048 then key % 2064
  else ((s.rowMap.find? fun m => m.2 = key).map fun m => m.1 % 2064).getD 0

/-- The shelf row that a report names, as `shelfRow` numbers rows. -/
def rowOfReport (stack : Nat) (r : Report) : Nat :=
  let unit := r.source.toNat % 4096
  let loc := r.loc.toNat
  let site := ((16 * stack + unit / 10) * 10 + unit % 10) * 100 + bits loc 0 7
  ((site * 2 + bits loc 7 1) * 7 + bits loc 8 3) * 2064 + bits loc 11 12

/-- A spare row that a log entry retires has failed: the row steered onto it takes another spare (R209; DESIGN CHOICE: a SHELF_ROW record
names rows 0 to 2,047 only, so the flash notes the spare beside the table). -/
def failSpare (s : State) (stack : Nat) (r : Report) : State :=
  let key := rowOfReport stack r
  if r.mem = 5 && key % 2064 ≥ 2048 && key ∉ s.flash.failedSpares then
    { s with flash := { s.flash with failedSpares := s.flash.failedSpares ++ [key] } }
  else s

/-- The automatic record of a log entry (R427). -/
def entryRecord (s : State) (stack : Nat) (r : Report) : Option (BitVec 256) :=
  let unit := r.source.toNat % 4096
  let loc := r.loc.toNat
  if r.cls ≠ 2 ∨ 2 ≤ r.synd.toNat then none
  else match r.mem.toNat with
    | 5 =>
      let key := rowOfReport stack r
      some (shelfRowRecord stack (unit / 10) (unit % 10) (bits loc 0 7) (bits loc 7 1) (bits loc 8 3) (recordRow s key))
    | 7 => some (sliceWayRecord stack unit (bits loc 11 4))
    | 8 => some (vaultPageRecord (bits loc 0 10) (bits loc 10 30 / 8192))
    | _ => none

/-- LOG_ENTRY_WRITE, R421, R427. -/
def execLogEntryWrite (stack : Fin 8) (s : State) : Result :=
  let c := colOf s stack.val
  match c.entries.find? fun e => e.closed && e.first + 252500 = now s with
  | none => .next s
  | some e =>
    let s' := setCol s stack.val { c with entries := c.entries.filter fun x => x.index ≠ e.index }
    let s' := putLog s' e.index (logBlock stack.val e.rep e.count e.first e.last e.index e.part e.job)
    onlyIf (live s) s (match entryRecord s stack.val e.rep with | some r => autoRetire (failSpare s' stack.val e.rep) r | none => s')

/-- ERR_LOG_HEAD_WRITE, R423: a value behind HEAD or beyond TAIL is ignored. -/
def execErrLogHeadWrite (value : BitVec 32) (s : State) : Result :=
  let l := s.errLog
  onlyIf (live s && (value - l.head).toNat ≤ (l.tail - l.head).toNat) s { s with errLog := { l with head := value } }

/-- ERR_SRC_SEL_WRITE, R422. -/
def execErrSrcSelWrite (stack : Fin 8) (value : BitVec 32) (s : State) : Result :=
  let c := colOf s stack.val
  let sel := value.setWidth 16
  onlyIf (live s) s (setCol s stack.val { c with sel := sel, view := look c.sources sel.toNat {} })

/-- ERR_SRC_CLR, R422. -/
def execErrSrcClr (stack : Fin 8) (value : BitVec 32) (s : State) : Result :=
  let c := colOf s stack.val
  onlyIf (live s && value.getLsbD 0) s (setCol s stack.val { c with sources := drop c.sources c.sel.toNat, view := {} })

end Sys2Proof.Machine
end

