-- ==== Sys2Proof/Machine/CoreMemory.lean ====
section
/-! DEFINITION. The Xilon memory instructions: CLM, own shelf, global, atomics, reductions and the mesh (R86 to R95, R126 to
R133, R143, R192 to R198). -/

namespace Sys2Proof.Machine

/-! ### Addresses and checks -/

/-- Base and offset as a 32-bit address (R126). -/
def localAddr (base : Word) (off : Int) : Nat := ((base.toNat : Int) + off).emod (2 ^ 32 : Nat) |>.toNat

/-- CLM or shelf address of a lane, Mem form. -/
def memAddr (i : Issue) (lane : Nat) : Nat :=
  localAddr (if i.x.memSa then getU i.tour i.x.a else getV i.tour lane i.x.a) i.x.memOff

/-- CLM or shelf address of a lane, atomic. -/
def atomAddr (i : Issue) (lane : Nat) : Nat := localAddr (getV i.tour lane i.x.a) i.x.regOff

/-- The pair of a global address (R126). -/
def globalBase (i : Issue) (lane : Nat) : Nat :=
  if (i.x.op = 0x4C ∨ i.x.op = 0x4D) ∧ i.x.memSa then pairU i.tour i.x.a else pairV i.tour lane i.x.a

def globalAddr (i : Issue) (lane : Nat) : Nat :=
  let off := if i.x.op = 0x4C ∨ i.x.op = 0x4D then i.x.memOff else i.x.regOff
  ((globalBase i lane : Int) + off).emod (2 ^ 64 : Nat) |>.toNat

/-- The faults a local access raises: misaligned, and out of range. -/
def localFaults (misaligned range bound size a : Nat) : List Nat :=
  (if a % size ≠ 0 then [misaligned] else []) ++ (if bound < a + size then [range] else [])

/-- Faults of a global access by what it does: 0 load or store, 1 atomic, 2 reduction (R126 to R128, R131). -/
def globalFaults (s : State) (part : Option Nat) (what size base a : Nat) : List Nat :=
  let mis := if a % size ≠ 0 then [0x16] else []
  if 2 ^ 48 ≤ base ∨ 2 ^ 48 ≤ a then mis ++ [0x17]
  else
    let sp := spaceOf s a
    mis ++ (match sp with
      | .registers => [0x17]
      | .nowhere => [0x17]
      | .vault g =>
        if spaceOwner s sp ≠ part then [0x18]
        else if what ≠ 0 ∧ (isShared s g ∨ ((part.map fun p => (partOf s p).waysOn).getD 0) = 0) then [0x19] else []
      | .archive _ _ => if spaceOwner s sp ≠ part then [0x18] else if what = 2 then [0x19] else []
      | .window _ _ => if spaceOwner s sp ≠ part then [0x18] else if what ≠ 0 ∨ size < 4 then [0x19] else [])

/-! ### Data in lanes -/

/-- Sign- or zero-extend a loaded value of a size (R127). -/
def extend (size : Nat) (sx : Bool) (v : Nat) : Nat :=
  if sx ∧ size < 4 then (BitVec.ofInt 32 (toSigned (8 * size) v)).toNat else v

/-- Results that write a value of each lane to the registers it takes. -/
def dataResults (tour reg size at_ : Nat) (vals : List (Nat × Nat)) : List PendResult :=
  (List.range (dataRegs size)).map fun n =>
    ⟨tour, .vec (reg + n) (vals.map fun v => (v.1, BitVec.ofNat 32 (v.2 >>> (32 * n)))), at_⟩

/-- The value a lane stores from its data registers. -/
def storeValue (t : Tour) (reg size lane : Nat) : Nat :=
  ((List.range (dataRegs size)).foldr (fun n acc => (getV t lane (reg + n)).toNat + 2 ^ 32 * acc) 0) % 2 ^ (8 * size)

/-- Merge a value of a size at an address into the blocks of a size `unit` (R129: a later lane prevails). -/
def mergeInto (unit : Nat) (m : SMap (Nat × Nat)) (a size v : Nat) : SMap (Nat × Nat) :=
  let old := look m (a / unit) (0, 0)
  let sh := a % unit
  let msk := (2 ^ size - 1) <<< sh
  put m (a / unit) (old.1 ||| msk, mergeBytes unit old.2 (v <<< (8 * sh)) msk)

/-- The blocks that the stores of an issue group write: mask and data by block number, ascending. -/
def gather (unit size : Nat) (l : List (Nat × Nat)) : SMap (Nat × Nat) :=
  l.foldl (fun m x => mergeInto unit m x.1 size x.2) []

/-- Distinct elements in order of first appearance. -/
def distinct : List Nat → List Nat
  | [] => []
  | x :: xs => x :: (distinct xs).filter (· ≠ x)

/-! ### CLM (R87, R94, R95) -/

/-- GCLK for which an access to these bytes occupies the CLM: the most distinct words in one bank, at least 1. -/
def clmTime (size : Nat) (addrs : List Nat) : Nat :=
  let words := distinct (addrs.flatMap fun a => (List.range (ceilDiv size 4)).map fun n => a / 4 + n)
  (List.range 16).foldl (fun m b => max m (words.filter (· % 16 = b)).length) 1

def clmKey (s : State) (core a : Nat) : Nat := siteOfCore s core * 32768 + a
def clmCheck (s : State) (core a : Nat) : Checked := wordRead s.clm clmCodec (clmKey s core a)

/-- Report the findings in CLM bytes (R419). -/
def clmReport (s : State) (core : Nat) (addrs : List Nat) : State :=
  addrs.foldl (fun s a => reportFinding s (stackOfCore core) 1 (coreUnit s core) 4 (clmCheck s core a)
    (siteOfCore s core % 100 + 2 ^ 8 * a)) s

/-- The value of n bytes from an address, or none where one is uncorrectable. -/
def clmValue (s : State) (core a : Nat) : Nat → Option Nat
  | 0 => some 0
  | n + 1 => match (clmCheck s core a).data?, clmValue s core (a + 1) n with
    | some d, some r => some (d + 256 * r)
    | _, _ => none

/-- The report behind the first uncorrectable byte. -/
def clmWhy (s : State) (core : Nat) (addrs : List Nat) : Option (Nat × Nat × Nat × Nat) :=
  addrs.findSome? fun a => whyOf s core (clmCheck s core a)

def clmPut (s : State) (core a : Nat) : List Byte → State
  | [] => s
  | b :: bs => clmPut { s with clm := wordWrite s.clm clmCodec (clmKey s core a) b.toNat } core (a + 1) bs

/-- Occupy the CLM for m GCLK from the issue. -/
def occupyClm (i : Issue) (m : Nat) : Issue :=
  { i with core := { i.core with clmFree := i.g + m }, tour := { i.tour with clmBusy := i.g + m } }

def bytesOf (size : Nat) (addrs : List Nat) : List Nat :=
  distinct (addrs.flatMap fun a => (List.range size).map (a + ·))

/-- A load whose data returns poisoned: the fault is raised when it returns (R143), and until then the registers of its lanes wait for it
(R114). -/
def poisonedLoad (c : Core) (i : Issue) (lanes : List Nat) (size at_ : Nat) (why : Option (Nat × Nat × Nat × Nat)) : Core :=
  { c with nextLoad := c.nextLoad + 1,
           loads := c.loads ++ [{ id := c.nextLoad, tour := i.tour.index, pc := i.pc, lanes := BitVec.ofNat 16 (laneMask lanes),
                                  issued := BitVec.ofNat 16 (laneMask i.lanes),
                                  reg := i.x.d, size := size, sx := false, addrs := [], poisoned := true, why := why,
                                  at_ := some at_ }] }

def loadClm (s : State) (i : Issue) : State :=
  let size := i.x.size
  let addrs := i.on.map (memAddr i)
  checked s i (fun l => localFaults 0x12 0x13 32768 size (memAddr i l)) [] <|
    let m := clmTime size addrs
    let i := occupyClm i m
    let at_ := i.g + 3 + (m - 1) - 1
    let vals := i.on.map fun l => (l, clmValue s i.id (memAddr i l) size)
    let s' := clmReport s i.id (bytesOf size addrs)
    if vals.all (·.2.isSome) then
      let res := dataResults i.tour.index i.x.d size at_ (vals.map fun v => (v.1, extend size i.x.sx (v.2.getD 0)))
      finish s' i { i.core with results := i.core.results ++ res }
    else finish s' i (poisonedLoad i.core i i.on size at_ (clmWhy s i.id (bytesOf size addrs)))

/-- ld.l, R87, R126, R127. -/
def execLdL (core : CoreRef) (j : Fin 7) (s : State) : Result := xilon core j 0x48 loadClm s

def storeClm (s : State) (i : Issue) : State :=
  let size := i.x.size
  checked s i (fun l => localFaults 0x12 0x13 32768 size (memAddr i l)) [] <|
    let s' := i.on.foldl (fun s l => clmPut s i.id (memAddr i l) (leBytes (storeValue i.tour i.x.d size l) size)) s
    let i := occupyClm i (clmTime size (i.on.map (memAddr i)))
    finish s' i i.core

/-- st.l, R87, R126, R127, R129. -/
def execStL (core : CoreRef) (j : Fin 7) (s : State) : Result := xilon core j 0x49 storeClm s

/-- Operand and new value of a lane's atomic. -/
def atomOperand (i : Issue) (lane : Nat) : DWord × DWord :=
  (BitVec.ofNat 64 (if i.x.m = 0x0B then pairV i.tour lane i.x.b else (getV i.tour lane i.x.b).toNat),
   (getV i.tour lane (i.x.b + 1)).setWidth 64)

/-- The locations an issue group addresses, in order of the lowest lane, each with its lanes' operands (R94, R95). -/
def atomGroups (i : Issue) (addr : Nat → Nat) : List (Nat × List (Nat × DWord × DWord)) :=
  (distinct (i.on.map addr)).map fun a =>
    (a, (i.on.filter fun l => addr l = a).map fun l => (l, (atomOperand i l).1, (atomOperand i l).2))

/-- GCLK beyond the single-atomic latency: one per further location, and 3 if lanes were combined (R95). -/
def atomExtra (gs : List (Nat × List (Nat × DWord × DWord))) : Nat :=
  (gs.length - 1) + (if gs.any fun g => 2 ≤ g.2.length then 3 else 0)

/-- Apply one location's updates to the CLM; an uncorrectable location is left as it is. -/
def clmAtomic (core fn size : Nat) (acc : State × List (Nat × DWord)) (g : Nat × List (Nat × DWord × DWord)) :
    State × List (Nat × DWord) :=
  match clmValue acc.1 core g.1 size with
  | none => acc
  | some v =>
    let r := atomicFold fn (BitVec.ofNat 64 v) g.2
    (clmPut acc.1 core g.1 (leBytes r.1.toNat size), acc.2 ++ r.2)

def atomicClm (s : State) (i : Issue) : State :=
  let size := (atomicSize i.x.m).getD 4
  checked s i (fun l => localFaults 0x12 0x13 32768 size (atomAddr i l)) [] <|
    let gs := atomGroups i (atomAddr i)
    let addrs := gs.map (·.1)
    let at_ := i.g + 5 + atomExtra gs - 1
    let s' := clmReport s i.id (bytesOf size addrs)
    let i := occupyClm i (clmTime size addrs)
    let r := gs.foldl (clmAtomic i.id i.x.m size) (s', [])
    if addrs.all fun a => (clmValue s i.id a size).isSome then
      let res := dataResults i.tour.index i.x.d size at_ (r.2.map fun v => (v.1, v.2.toNat))
      finish r.1 i { i.core with results := i.core.results ++ res }
    else finish r.1 i (poisonedLoad i.core i i.on size at_ (clmWhy s i.id (bytesOf size addrs)))

/-- atom.l, R94, R95, R131. -/
def execAtomL (core : CoreRef) (j : Fin 7) (s : State) : Result := xilon core j 0x50 atomicClm s

/-! ### The own shelf (R86, R88, R130, R192 to R198) -/

/-- The core's channel is marked failed (R208). -/
def unreachable (s : State) (core : Nat) : List Nat := if (chanOf s (siteOfCore s core)).failed then [0x06] else []

/-- An issue group that accesses no word of the shelf raises no fault of the channel. -/
def unreachableBy (s : State) (i : Issue) : List Nat := if i.on = [] then [] else unreachable s i.id

/-- A transfer meets bank groups that are not ACTIVE: they wake, and the cabinet counts the wait (R192). -/
def meetGroups (s : State) (core : Nat) (ws : List Nat) : State :=
  let off := (groupsOf core ws).filter fun g => !domOn s .bankGroup g
  if off = [] then s
  else
    let wait := off.foldl (fun m g => max m (usableAt s .bankGroup g - now s)) 0
    let s := off.foldl (fun s g => demandWake s .bankGroup g) s
    mapCab s (cabOfCore core) fun c =>
      { c.flag 0 (now s) with retainWait := satAdd c.retainWait wait }

/-- The transfers that a core's write queue has gained since c₀ are presented, each to its own bank groups (R192). -/
def presentWrites (s : State) (core : Nat) (c0 : Core) : State :=
  ((coreOf s core).wrQueue.drop c0.wrQueue.length).foldl (fun s q => meetGroups s core (q.words.map (·.1))) s

def addRead (c : Core) (q : Xfer) : Core := { c with rdQueue := c.rdQueue ++ [q] }

def loadShelf (s : State) (i : Issue) : State :=
  let size := i.x.size
  let addrs := i.on.map (memAddr i)
  checked s i (fun l => localFaults 0x14 0x15 shelfBytes size (memAddr i l)) (unreachableBy s i) <|
    let ws := distinct (addrs.map (· / 16))
    if ws = [] then finish s i i.core
    else
      let c := i.core
      let ld : PendLoad := { id := c.nextLoad, tour := i.tour.index, pc := i.pc, lanes := BitVec.ofNat 16 (laneMask i.on),
                             issued := BitVec.ofNat 16 (laneMask i.lanes), reg := i.x.d, size := size, sx := i.x.sx, addrs := i.on.map fun l => (l, memAddr i l) }
      let c := addRead { c with nextLoad := c.nextLoad + 1, loads := c.loads ++ [ld] }
        { kind := .load ld.id, issue := i.g, words := readWords ws, fwd := forwardWords c ws, tour := i.tour.index }
      meetGroups (finish s i c) i.id ws

/-- ld.s, R86, R88, R126, R127, R130. -/
def execLdS (core : CoreRef) (j : Fin 7) (s : State) : Result := xilon core j 0x4A loadShelf s

/-- Add a whole word to the issue group's write transfer (R86, R194). -/
def addWhole (c : Core) (g tour w d : Nat) : Core :=
  let x : Nat × BitVec 16 × BitVec 128 := (w, BitVec.allOnes 16, BitVec.ofNat 128 d)
  let fresh : Xfer := { kind := .store, issue := g, words := [x], tour := tour }
  match c.wrQueue.getLast? with
  | some q =>
    if q.kind = .store && q.issue = g && q.tour = tour then
      { c with wrQueue := c.wrQueue.dropLast ++ [{ q with words := q.words ++ [x] }] }
    else { c with wrQueue := c.wrQueue ++ [fresh] }
  | none => { c with wrQueue := [fresh] }

/-- A full entry leaves the merge buffer as a one-word write transfer (R195). -/
def leaveFull (c : Core) (g w d : Nat) (tours : List Nat) : Core :=
  { c with merge := none,
           wrQueue := c.wrQueue ++ [{ kind := .merged, issue := g, words := [(w, BitVec.allOnes 16, BitVec.ofNat 128 d)],
                                      tour := tours.headD 0, also := tours.tail }] }

/-- One word of a store issue group: whole, or through the merge buffer (R194, R195). -/
def storeWord (g tour : Nat) (c : Core) (x : Nat × Nat × Nat) : Core :=
  let (w, mask, d) := x
  if mask = 2 ^ 16 - 1 then
    addWhole (match c.merge with | some e => if e.word = w then { c with merge := none } else c | none => c) g tour w d
  else
    let fresh : MergeEntry := ⟨w, BitVec.ofNat 16 mask, BitVec.ofNat 128 d, g, [tour]⟩
    match c.merge with
    | none => { c with merge := some fresh }
    | some e =>
      if e.word = w then
        let m := e.mask.toNat ||| mask
        let d' := mergeBytes 16 e.data.toNat d mask
        let tours := if tour ∈ e.tours then e.tours else e.tours ++ [tour]
        if m = 2 ^ 16 - 1 then leaveFull c g w d' tours
        else { c with merge := some { e with mask := BitVec.ofNat 16 m, data := BitVec.ofNat 128 d', tours := tours } }
      else { leaveRmw c g e with merge := some fresh }

def storeShelf (s : State) (i : Issue) : State :=
  let size := i.x.size
  checked s i (fun l => localFaults 0x14 0x15 shelfBytes size (memAddr i l)) (unreachableBy s i) <|
    let ws := gather 16 size (i.on.map fun l => (memAddr i l, storeValue i.tour i.x.d size l))
    presentWrites (finish s i (ws.foldl (storeWord i.g i.tour.index) i.core)) i.id i.core

/-- st.s, R126, R127, R129, R194, R195. -/
def execStS (core : CoreRef) (j : Fin 7) (s : State) : Result := xilon core j 0x4B storeShelf s

def atomicShelf (s : State) (i : Issue) : State :=
  let size := (atomicSize i.x.m).getD 4
  checked s i (fun l => localFaults 0x14 0x15 shelfBytes size (atomAddr i l)) (unreachableBy s i) <|
    let gs := atomGroups i (atomAddr i)
    let ws := gs.map (·.1 / 16)
    if ws = [] then finish s i i.core
    else
      let c := i.core
      let ld : PendLoad := { id := c.nextLoad, tour := i.tour.index, pc := i.pc, lanes := BitVec.ofNat 16 (laneMask i.on),
                             issued := BitVec.ofNat 16 (laneMask i.lanes), reg := i.x.d, size := size, sx := false, addrs := [], extra := atomExtra gs }
      let c := addRead { c with nextLoad := c.nextLoad + 1, loads := c.loads ++ [ld] }
        { kind := .atomic ld.id i.x.m gs, issue := i.g, words := readWords ws, fwd := forwardWords c ws, tour := i.tour.index }
      meetGroups (finish s i c) i.id ws

/-- atom.s, R94, R95, R131, R198. -/
def execAtomS (core : CoreRef) (j : Fin 7) (s : State) : Result := xilon core j 0x51 atomicShelf s

/-! ### Global accesses (R89 to R91, R126 to R132) -/

/-- Put a request of a core before its cabinet's egress (R89, R90). -/
def sendGlobal (s : State) (i : Issue) (load : Option Nat) (kind : ReqKind) (block mask d : Nat) : State :=
  let n := s.nextReq
  let part := (ownerOfWing s (wingOfCore i.id)).getD 8
  let s := addReq s { origin := .core i.id i.tour.index load, part := part, lane := some (cabRoute (cabOfCore i.id)), cls := 0,
                      kind := kind, addr := 64 * block, mask := BitVec.ofNat 64 mask, data := BitVec.ofNat 512 d,
                      stage := .egress i.g }
  let c := coreOf s i.id
  let posted := match kind with | .load => false | _ => true
  setCore s i.id { c with egress := c.egress ++ [(false, n)],
                          unacked := if posted then c.unacked ++ [(i.tour.index, false, n)] else c.unacked,
                          loads := match load with
                            | some id => c.loads.map fun l => if l.id = id then { l with open_ := l.open_ ++ [n] } else l
                            | none => c.loads }

/-- The 64 B blocks that an issue group addresses, in order of the lowest lane (R90). -/
def globalBlocks (i : Issue) : List Nat := distinct (i.on.map fun l => globalAddr i l / 64)

def ownPart (s : State) (i : Issue) : Option Nat := ownerOfWing s (wingOfCore i.id)

def loadGlobal (s : State) (i : Issue) : State :=
  let size := i.x.size
  checked s i (fun l => globalFaults s (ownPart s i) 0 size (globalBase i l) (globalAddr i l)) [] <|
    let c := i.core
    if i.on = [] then finish s i c
    else
      let ld : PendLoad := { id := c.nextLoad, tour := i.tour.index, pc := i.pc, lanes := BitVec.ofNat 16 (laneMask i.on),
                             issued := BitVec.ofNat 16 (laneMask i.lanes), reg := i.x.d, size := size, sx := i.x.sx, unit := 64,
                             addrs := i.on.map fun l => (l, globalAddr i l) }
      let s := finish s i { c with nextLoad := c.nextLoad + 1, loads := c.loads ++ [ld] }
      (globalBlocks i).foldl (fun s b =>
        let m := (gather 64 size (i.on.map fun l => (globalAddr i l, 0))).find? (·.1 = b)
        sendGlobal s i (some ld.id) .load b ((m.map (·.2.1)).getD 0) 0) s

/-- ld.g, R90, R91, R126 to R128. -/
def execLdG (core : CoreRef) (j : Fin 7) (s : State) : Result := xilon core j 0x4C loadGlobal s

def storeGlobal (s : State) (i : Issue) : State :=
  let size := i.x.size
  checked s i (fun l => globalFaults s (ownPart s i) 0 size (globalBase i l) (globalAddr i l)) [] <|
    let m := gather 64 size (i.on.map fun l => (globalAddr i l, storeValue i.tour i.x.d size l))
    (globalBlocks i).foldl (fun s b => sendGlobal s i none .store b (look m b (0, 0)).1 (look m b (0, 0)).2)
      (finish s i i.core)

/-- st.g, R90, R126 to R129. -/
def execStG (core : CoreRef) (j : Fin 7) (s : State) : Result := xilon core j 0x4D storeGlobal s

def atomicGlobal (s : State) (i : Issue) : State :=
  let size := (atomicSize i.x.m).getD 4
  checked s i (fun l => globalFaults s (ownPart s i) 1 size (globalBase i l) (globalAddr i l)) [] <|
    let c := i.core
    let gs := atomGroups i (globalAddr i)
    if i.on = [] then finish s i c
    else
      let ld : PendLoad := { id := c.nextLoad, tour := i.tour.index, pc := i.pc, lanes := BitVec.ofNat 16 (laneMask i.on),
                             issued := BitVec.ofNat 16 (laneMask i.lanes), reg := i.x.d, size := size, sx := false, unit := 64, addrs := [], extra := atomExtra gs }
      let s := finish s i { c with nextLoad := c.nextLoad + 1, loads := c.loads ++ [ld] }
      (globalBlocks i).foldl (fun s b =>
        let ops := (gs.filter fun g => g.1 / 64 = b).flatMap fun g => g.2.map fun o => (o.1, g.1, o.2.1, o.2.2)
        sendGlobal s i (some ld.id) (.atomic i.x.m ops) b 0 0) s

/-- atom.g, R94, R95, R128, R131. -/
def execAtomG (core : CoreRef) (j : Fin 7) (s : State) : Result := xilon core j 0x52 atomicGlobal s

/-- The operands of one location, combined in lane order (R132). -/
def combine (fn : Nat) : List DWord → DWord
  | [] => 0
  | x :: xs => xs.foldl (reduce fn) x

def reduceGlobal (s : State) (i : Issue) : State :=
  let size := (redSize i.x.m).getD 4
  let opnd (l : Nat) : DWord :=
    BitVec.ofNat 64 (if i.x.m = 3 then pairV i.tour l i.x.b else (getV i.tour l i.x.b).toNat)
  checked s i (fun l => globalFaults s (ownPart s i) 2 size (globalBase i l) (globalAddr i l)) [] <|
    let locs := (distinct (i.on.map (globalAddr i))).map fun a =>
      (a, combine i.x.m ((i.on.filter fun l => globalAddr i l = a).map opnd))
    (globalBlocks i).foldl (fun s b => sendGlobal s i none (.red i.x.m (locs.filter fun o => o.1 / 64 = b)) b 0 0)
      (finish s i i.core)

/-- red.g, R128, R132. -/
def execRedG (core : CoreRef) (j : Fin 7) (s : State) : Result := xilon core j 0x53 reduceGlobal s

/-! ### Mesh (R92, R93, R133) -/

/-- Wings that a flit's route enters: from the source's along the wing index. -/
def meshWings (src dst : Nat) : List Nat := (List.range (max src dst - min src dst + 1)).map (min src dst + ·)

/-- What mesh.put does. Bits of uA outside the layout of u13 are not looked at, and a uB that is no multiple of 64 below
32,768 raises MESH_TARGET. The routes' fault comes after the target's check (R133). -/
def meshPut (s : State) (i : Issue) : State :=
  let u := (getU i.tour i.x.a).toNat
  let off := (getU i.tour i.x.b).toNat
  let stack := stackOfCore i.id
  let wing := 16 * stack + bits u 11 4
  let badTarget := bits u 15 3 ≠ stack || 96 ≤ bits u 0 7 || logicalCabs s wing ≤ bits u 7 4 || off % 64 ≠ 0
    || 32768 ≤ off
  let foreign := (meshWings (wingOfCore i.id) wing).any fun w => ownerOfWing s w ≠ ownPart s i
  checked s i (fun _ => []) (if badTarget then [0x1C] else if foreign then [0x04] else []) <|
    let n := s.nextFlit
    let d := packWords ((List.range 16).map fun l => (getV i.tour l i.x.d).toNat)
    let f : Flit := { source := i.id, slot := i.tour.index, target := wing * 864 + bits u 7 4 * 96 + bits u 0 7, offset := off,
                      data := BitVec.ofNat 512 d, part := (ownPart s i).getD 8, presented := i.g }
    let s := finish s i { i.core with egress := i.core.egress ++ [(true, n)],
                                      unacked := i.core.unacked ++ [(i.tour.index, true, n)] }
    { s with flits := put s.flits n f, nextFlit := n + 1 }

/-- mesh.put, R92, R93, R133. -/
def execMeshPut (core : CoreRef) (j : Fin 7) (s : State) : Result := xilon core j 0x58 meshPut s

end Sys2Proof.Machine
end

