-- ==== Sys2Proof/Machine/Matrix.lean ====
section
/-! DEFINITION. The matrix array and the MX block instructions (R139 to R142, R146 to R165). -/

namespace Sys2Proof.Machine

/-! ### Shapes and images (R146 to R151) -/

/-- K of a format's array. -/
def mxK (fmt : Nat) : Nat := if eltBits fmt = 16 then 8 else if eltBits fmt = 8 then 32 else 64
/-- Values of k in one output-stationary step. -/
def mxKps (fmt : Nat) : Nat := if eltBits fmt < 8 then 2 else 1
/-- Rows held in output-stationary mode. -/
def mxR (fmt : Nat) : Nat := if eltBits fmt = 16 then 8 else 32
/-- Elements of a block: the MX block, or the 8 values of R152. -/
def MxShape.bs (m : MxShape) : Nat := if isMx m.fmt then (if m.blk16 then 16 else 32) else 8
/-- Scale bytes that cover n elements along k. -/
def MxShape.scales (m : MxShape) (n : Nat) : Nat := if isMx m.fmt then n / m.bs else 0
def mxV (fmt : Nat) : Nat := mxK fmt * eltBits fmt / 8

/-- Bytes of the element area of the held image, and of the whole image. -/
def MxShape.heldArea (m : MxShape) : Nat :=
  if m.mode = 2 then 64 * mxKps m.fmt * eltBits m.fmt else 8 * mxV m.fmt
def MxShape.heldBytes (m : MxShape) : Nat :=
  m.heldArea + 8 * (if m.mode = 2 then m.scales (64 * mxKps m.fmt) else m.scales (mxK m.fmt))

def MxShape.streamArea (m : MxShape) (n : Nat) : Nat :=
  if m.mode = 2 then n * mxR m.fmt * mxKps m.fmt * eltBits m.fmt / 8 else n * mxV m.fmt
def MxShape.streamBytes (m : MxShape) (n : Nat) : Nat :=
  m.streamArea n + (if m.mode = 2 then mxR m.fmt * m.scales (n * mxKps m.fmt) else n * m.scales (mxK m.fmt))

/-- The count of a run is within its bound (R140, R149). -/
def MxShape.countOk (m : MxShape) (n : Nat) : Bool :=
  if m.mode = 2 then !isMx m.fmt || n * mxKps m.fmt % m.bs = 0 else n ≤ 16

def byteAt (l : List Byte) (i : Nat) : Nat := ((l[i]?).getD 0).toNat

/-- Element k of held vector or column v, and its block's scale byte. -/
def MxShape.heldElt (m : MxShape) (img : List Byte) (v k : Nat) : Nat :=
  let kps := mxKps m.fmt
  let p := if m.mode = 2 then (k / kps * 8 + v) * kps + k % kps else v * mxK m.fmt + k
  unpackElt m.fmt (leNat img) p
def MxShape.heldScale (m : MxShape) (img : List Byte) (v b : Nat) : Nat :=
  byteAt img (m.heldArea + v * (if m.mode = 2 then m.scales (64 * mxKps m.fmt) else m.scales (mxK m.fmt)) + b)

/-- Element k of streamed vector or row v, and its block's scale byte. -/
def MxShape.streamElt (m : MxShape) (img : List Byte) (v k : Nat) : Nat :=
  let kps := mxKps m.fmt
  let p := if m.mode = 2 then (k / kps * mxR m.fmt + v) * kps + k % kps else v * mxK m.fmt + k
  unpackElt m.fmt (leNat img) p
def MxShape.streamScale (m : MxShape) (img : List Byte) (n v b : Nat) : Nat :=
  byteAt img (m.streamArea n + v * (if m.mode = 2 then m.scales (n * mxKps m.fmt) else m.scales (mxK m.fmt)) + b)

/-! ### Arithmetic (R152 to R154, R182) -/

/-- The exact sum of a block's products. -/
def sumVals : List Val → Val
  | [] => .fin false 0 0
  | [v] => v
  | v :: vs => v.add (sumVals vs)

def Val.shift (v : Val) (k : Int) : Val :=
  match v with
  | .fin n m e => .fin n m (e + k)
  | v => v

/-- One block's contribution from its products and the exponents of its scales (R152, R153). -/
def blockVal (ps : List Val) (scales : List (Option Int)) : Val :=
  if scales.any Option.isNone then .nan
  else (sumVals ps).shift (scales.foldl (fun a s => a + s.getD 0) 0)

/-- The value is −0. -/
def Val.isNegZero : Val → Bool
  | .fin n m _ => n && m = 0
  | _ => false

/-- One addition with one binary32 rounding; −0 only from −0 and −0 (R182's closing paragraph, where a negative sum that rounds
to zero would otherwise give it). -/
def addBlock (w : Word) (v : Val) : Word :=
  let r := enc32 ((dec32 w).add v)
  if r = 0x80000000#32 ∧ ¬(w = 0x80000000#32 ∧ v.isNegZero) then 0 else r

/-- Add blocks in ascending order of k (R152). -/
def addBlocks (start : Word) (bs : List Val) : Word := bs.foldl addBlock start

/-- One output word: the sum over `total` values of k of products a(k) × b(k). -/
def dotWord (m : MxShape) (total : Nat) (a b : Nat → Nat) (sa sb : Nat → Nat) (start : Word) : Word :=
  if m.fmt = 3 then
    start + BitVec.ofInt 32 ((List.range total).foldl (fun x k => x + toSigned 8 (a k) * toSigned 8 (b k)) (0 : Int))
  else
    addBlocks start ((List.range (ceilDiv total m.bs)).map fun blk =>
      blockVal ((List.range (min m.bs (total - blk * m.bs))).map fun i =>
          (decodeElt m.fmt (a (blk * m.bs + i))).mul (decodeElt m.fmt (b (blk * m.bs + i))))
        (if isMx m.fmt then [scaleExp (sa blk), scaleExp (sb blk)] else []))

/-- The words that vector v of a run writes, or every word in output-stationary mode: tile word and value (R148, R152). -/
def MxRun.outputs (r : MxRun) (tile : AccTile) (v : Nat) : List (Nat × Word) :=
  let m := r.shape
  let start (w : Nat) : Word := if r.acc then look tile.words w 0 else 0
  if m.mode = 2 then
    (List.range (mxR m.fmt)).flatMap fun i => (List.range 8).map fun j =>
      (8 * i + j, dotWord m (r.n * mxKps m.fmt) (m.streamElt r.stream i) (m.heldElt r.held j)
        (m.streamScale r.stream r.n i) (m.heldScale r.held j) (start (8 * i + j)))
  else
    (List.range 8).map fun h =>
      let w := if m.mode = 0 then 8 * v + h else 16 * h + v
      (w, dotWord m (mxK m.fmt) (m.streamElt r.stream v) (m.heldElt r.held h)
        (m.streamScale r.stream r.n v) (m.heldScale r.held h) (start w))

/-! ### Operand images in the CLM and the shelf (R140, R150, R151, R159) -/

/-- Faults of an image's address: aligned to 16 and inside its space (R140). -/
def imageFaults (s : State) (i : Issue) (a bytes : Nat) : List Nat :=
  (if a % 16 ≠ 0 ∨ (if i.x.shelf then shelfBytes else 32768) < a + bytes then [0x21] else [])
    ++ (if i.x.shelf then unreachable s i.id else [])

def shapeOf (x : XInst) : MxShape := ⟨x.mode, x.fmt, x.blk16⟩

/-- MX_OPERAND of R140 and R167 for a tile or a run. -/
def shapeFaults (s : State) (x : XInst) : List Nat :=
  if x.mode = 3 ∨ x.fmt = 0 ∨ x.fmt = 4 ∨ (x.blk16 ∧ (!isMx x.fmt ∨ s.boot.legacy)) then [0x20] else []

/-- The tile named is not one the tour owns (R97, R157). -/
def tileOf (c : Core) (n : Nat) : AccTile := look c.tiles n {}
def ownFaults (i : Issue) : List Nat := if (tileOf i.core (i.x.d % 8)).owner = some i.tour.index then [] else [0x02]

/-- Read an image from the CLM: its bytes where all can be read. -/
def clmImage (s : State) (core a bytes : Nat) : Option (List Byte) := (clmValue s core a bytes).map (leBytes · bytes)

/-- The shelf words of an image. -/
def imageWords (a bytes : Nat) : List Nat := (List.range (ceilDiv (a % 16 + bytes) 16)).map (a / 16 + ·)

/-- LOAD_POISONED will be raised at the end of wing time `at_`, one before the arrival of the operand word at fault (R143,
R165). No register waits for it. -/
def poisonDue (c : Core) (tour pc : Nat) (lanes : BitVec 16) (at_ : Nat) (why : Option (Nat × Nat × Nat × Nat)) : Core :=
  { c with nextLoad := c.nextLoad + 1,
           loads := c.loads ++ [{ id := c.nextLoad, tour := tour % 64 + 128, pc := pc, lanes := 0, issued := lanes, reg := 32,
                                  size := 4, sx := false, addrs := [], poisoned := true, why := why, at_ := some at_ }] }

/-- The offset of the first byte of a CLM image that cannot be read, where there is one. -/
def firstBad (s : State) (core a bytes : Nat) : Option Nat :=
  (List.range bytes).find? fun n => (clmCheck s core (a + n)).data?.isNone

/-- LOAD_POISONED of a CLM image accepted at g: its 64 B blocks are read one in a GCLK, and each arrives 3 GCLK later (R87,
R159, R165). -/
def clmPoison (c : Core) (i : Issue) (off : Nat) (why : Option (Nat × Nat × Nat × Nat)) : Core :=
  poisonDue c i.tour.index i.pc (BitVec.ofNat 16 (laneMask i.lanes)) (i.g + off / 64 + 3 - 1) why

/-! ### mx.tile and mx.run (R158 to R161, R165) -/

def loadTile (s : State) (i : Issue) : State :=
  let m := shapeOf i.x
  let a := (getU i.tour i.x.a).toNat
  checked s i (fun _ => []) (shapeFaults s i.x ++ imageFaults s i a m.heldBytes) <|
    let img : TileImage := { shape := m, bytes := [], tour := i.tour.index, pc := i.pc, lanes := BitVec.ofNat 16 (laneMask i.lanes) }
    if i.x.shelf then
      let ws := imageWords a m.heldBytes
      let c := addRead { i.core with shadow := some img }
        { kind := .tile, issue := i.g, words := readWords ws, fwd := forwardWords i.core ws, tour := i.tour.index }
      meetGroups (finish s i c) i.id ws
    else
      let t := ceilDiv m.heldBytes 64
      let addrs := bytesOf m.heldBytes [a]
      let why := clmWhy s i.id addrs
      let i := occupyClm i t
      match clmImage s i.id a m.heldBytes with
      | some b =>
        finish (clmReport s i.id addrs) i { i.core with shadow := some { img with bytes := b, ready := some (i.g + t + 3) } }
      | none =>
        let c := { i.core with shadow := some { img with poisoned := true, ready := some (i.g + t + 3) } }
        finish (clmReport s i.id addrs) i (clmPoison c i ((firstBad s i.id a m.heldBytes).getD 0) why)

/-- mx.tile, R140, R158, R159. -/
def execMxTile (core : CoreRef) (j : Fin 7) (s : State) : Result := xilon core j 0x70 loadTile s

/-- The run claims the shadow (R158). -/
def claims (c : Core) : Bool := match c.shadow with | some t => !t.claimed | none => false

/-- The tile a run uses: the shadow it claims, or the current one. -/
def runTile (c : Core) : Option TileImage := if claims c then c.shadow else c.current

/-- MX_OPERAND of R140, R149 and R165 for a run. -/
def runFaults (s : State) (i : Issue) : List Nat :=
  let m := shapeOf i.x
  let shapeBad := match runTile i.core with | some t => t.shape ≠ m | none => true
  shapeFaults s i.x ++ (if !m.countOk (i.x.count + 1) || shapeBad || (tileOf i.core (i.x.d % 8)).int ≠ (m.fmt = 3)
    then [0x20] else [])

/-- The first uncorrectable word of a tile among those an instruction reads (R410). -/
def tileBad (c : Core) (tile : Nat) (ws : List Nat) : Option BadRead :=
  ws.findSome? fun w => (badWord (tileOf c tile).bad w).map fun f => (2, 1024 * tile + 4 * w, f)

/-- The words of its tile that a run writes, and reads where it accumulates (R148). -/
def runWords (m : MxShape) (n : Nat) : List Nat :=
  if m.mode = 2 then List.range (8 * mxR m.fmt)
  else (List.range n).flatMap fun v => (List.range 8).map fun h => if m.mode = 0 then 8 * v + h else 16 * h + v

def startRun (s : State) (i : Issue) : State :=
  let m := shapeOf i.x
  let n := i.x.count + 1
  let a := (getU i.tour i.x.a).toNat
  let bytes := m.streamBytes n
  let i := { i with bad := i.bad.orElse fun _ => if i.x.acc then tileBad i.core (i.x.d % 8) (runWords m n) else none }
  checked s i (fun _ => []) (ownFaults i ++ runFaults s i ++ imageFaults s i a bytes) <|
    let r : MxRun := { id := i.core.nextRun, shape := m, n := n, tile := i.x.d % 8, acc := i.x.acc, claims := claims i.core,
                       tour := i.tour.index, pc := i.pc, lanes := BitVec.ofNat 16 (laneMask i.lanes), stream := [] }
    let c0 := { i.core with nextRun := i.core.nextRun + 1, shadow := i.core.shadow.map fun t => { t with claimed := true } }
    if i.x.shelf then
      let ws := imageWords a bytes
      let c := addRead { c0 with runs := c0.runs ++ [r] }
        { kind := .run r.id, issue := i.g, words := readWords ws, fwd := forwardWords i.core ws, tour := i.tour.index }
      meetGroups (finish s i c) i.id ws
    else
      let t := ceilDiv bytes 64
      let addrs := bytesOf bytes [a]
      let why := clmWhy s i.id addrs
      let i := occupyClm { i with core := c0 } t
      match clmImage s i.id a bytes with
      | some b =>
        finish (clmReport s i.id addrs) i
          { i.core with runs := i.core.runs ++ [{ r with stream := b, ready := some (i.g + t + 3) }] }
      | none =>
        let c := { i.core with runs := i.core.runs ++ [{ r with poisoned := true, ready := some (i.g + t + 3) }] }
        finish (clmReport s i.id addrs) i (clmPoison c i ((firstBad s i.id a bytes).getD 0) why)

/-- mx.run, R140, R148 to R151, R158, R160, R165. -/
def execMxRun (core : CoreRef) (j : Fin 7) (s : State) : Result := xilon core j 0x71 startRun s

/-! ### mx.acc (R157, R163, R164) -/

/-- One action of mx.acc; another action at this opcode is another command's, and a reserved one is MX_OPERAND (R140). -/
def accAction (act : Nat) (f : State → Issue → State) (s : State) (i : Issue) : State :=
  if i.x.mode = 3 then checked s i (fun _ => []) (0x20 :: ownFaults i) s
  else if i.x.mode ≠ act then s
  else f s i

def accClear (s : State) (i : Issue) : State :=
  checked s i (fun _ => []) (ownFaults i) <|
    let n := i.x.d % 8
    finish s i { i.core with tiles := put i.core.tiles n { tileOf i.core n with int := i.x.fmt = 4, words := [], bad := [] } }

/-- mx.acc clear, R157, R163. -/
def execMxAccClear (core : CoreRef) (j : Fin 7) (s : State) : Result := xilon core j 0x72 (accAction 0 accClear) s

/-- Bytes of a tile's image (R157). -/
def tileBytes (t : AccTile) : List Byte := (List.range 256).flatMap fun w => leBytes (look t.words w 0).toNat 4

def accStore (s : State) (i : Issue) : State :=
  let t := tileOf i.core (i.x.d % 8)
  let i := { i with bad := i.bad.orElse fun _ => tileBad i.core (i.x.d % 8) (List.range 256) }
  let a := (getU i.tour i.x.a).toNat
  let typ := if t.int ≠ (i.x.fmt = 4) then [0x20] else []
  checked s i (fun _ => []) (ownFaults i ++ typ ++ imageFaults s i a 1024) <|
    if i.x.shelf then
      let ws := imageWords a 1024
      let img := leNat (tileBytes t)
      let words := (List.range 64).map fun n => (a / 16 + n, BitVec.allOnes 16, BitVec.ofNat 128 (img >>> (128 * n)))
      let c := { i.core with
                 merge := match i.core.merge with | some e => if e.word ∈ ws then none else some e | none => none,
                 wrQueue := i.core.wrQueue ++ [{ kind := .accStore, issue := i.g, words := words, tour := i.tour.index }] }
      meetGroups (finish s i c) i.id ws
    else
      let i := occupyClm i 16
      finish (clmPut s i.id a (tileBytes t)) i i.core

/-- mx.acc store, R157, R163, R164. -/
def execMxAccStore (core : CoreRef) (j : Fin 7) (s : State) : Result := xilon core j 0x72 (accAction 1 accStore) s

/-- The time at which the tile's mx.acc loads are all complete, with one more that completes at ρ (R161). -/
def accDue (c : Core) (tile rho : Nat) : SMap Nat := put c.accReady tile (max (look c.accReady tile 0) rho)

/-- The words of a tile's image. -/
def tileWords (b : List Byte) : List Word := (List.range 256).map fun w => BitVec.ofNat 32 (leNat ((b.drop (4 * w)).take 4))

def accLoad (s : State) (i : Issue) : State :=
  let a := (getU i.tour i.x.a).toNat
  let n := i.x.d % 8
  checked s i (fun _ => []) (ownFaults i ++ imageFaults s i a 1024) <|
    let l : AccLoad := { tile := n, int := i.x.fmt = 4, words := [], tour := i.tour.index, pc := i.pc,
                         lanes := BitVec.ofNat 16 (laneMask i.lanes), ready := none }
    if i.x.shelf then
      let ws := imageWords a 1024
      let c := addRead { i.core with accLoads := i.core.accLoads ++ [l] }
        { kind := .accLoad n, issue := i.g, words := readWords ws, fwd := forwardWords i.core ws, tour := i.tour.index }
      meetGroups (finish s i c) i.id ws
    else
      let addrs := bytesOf 1024 [a]
      let why := clmWhy s i.id addrs
      let i := occupyClm i 16
      match clmImage s i.id a 1024 with
      | some b =>
        let l := { l with words := tileWords b, ready := some (i.g + 19) }
        finish (clmReport s i.id addrs) i
          { i.core with accLoads := i.core.accLoads ++ [l], accReady := accDue i.core n (i.g + 19) }
      | none =>
        finish (clmReport s i.id addrs) i
          (clmPoison { i.core with accReady := accDue i.core n (i.g + 19) } i ((firstBad s i.id a 1024).getD 0) why)

/-- mx.acc load, R157, R163. -/
def execMxAccLoad (core : CoreRef) (j : Fin 7) (s : State) : Result := xilon core j 0x72 (accAction 2 accLoad) s

/-! ### Array events (R158 to R163) -/

/-- A command of one core at an edge: the core and its wing time. -/
def atCore (core : CoreRef) (j : Fin 7) (s : State) (f : Nat → Core → Nat → Option State) : Result :=
  let id := coreId core
  let w := wingOfCore id
  match find s.cores id with
  | some c => if live s && edgeOk s w j.val then .next ((f id c (wtime s w j.val)).getD s) else .next s
  | none => .next s

/-- The shadow buffer is armed at its image's ready time (R158, R159). -/
def execShadowArmed (core : CoreRef) (j : Fin 7) (s : State) : Result :=
  atCore core j s fun id c g =>
    match c.shadow with
    | some t => if t.ready = some g && !t.armed then some (setCore s id { c with shadow := some { t with armed := true } }) else none
    | none => none

/-- The first entry e₀ of a run whose operands are due (R161). -/
def entryTime (c : Core) (r : MxRun) : Option Nat :=
  match r.ready with
  | none => none
  | some rho =>
    let afterPrev := match c.prevRun with
      | some (m, e, n) => e + n + (if m = r.shape then 0 else 39)
      | none => 0
    let tile := match r.image with
      | some t => t.ready
      | none => if r.claims then c.shadow.bind (·.ready) else some 0
    let os := if r.shape.mode = 2 then look c.lastWrite r.tile 0 else 0
    if c.accLoads.any (·.tile = r.tile) then none
    else tile.map fun t => max (max rho afterPrev) (max t (max os (look c.accReady r.tile 0)))

/-- The first vector or step of a run enters the array at e₀; a claimed tile becomes the current one, but for a run of an earlier
launch, which has its image with it (R158, R161, R164). -/
def execArrayRunEntry (core : CoreRef) (j : Fin 7) (s : State) : Result :=
  atCore core j s fun id c g =>
    match c.runs.find? (·.entry.isNone) with
    | none => none
    | some r =>
      if entryTime c r ≠ some g then none
      else
        let own := r.image.isSome
        let cur := if own then r.image else if r.claims then c.shadow else c.current
        let r' := { r with entry := some g, held := (cur.map (·.bytes)).getD [],
                           poisoned := r.poisoned || ((cur.map (·.poisoned)).getD false) }
        some (setCore s id { c with runs := c.runs.map fun x => if x.id = r.id then r' else x,
                                    current := if own then c.current else cur,
                                    shadow := if r.claims && !own then none else c.shadow,
                                    prevRun := some (r.shape, g, r.n),
                                    lastWrite := put c.lastWrite r.tile (g + r.n + 39) })

def writeTile (c : Core) (n : Nat) (ws : List (Nat × Word)) : Core :=
  let t := tileOf c n
  { c with tiles := put c.tiles n { t with words := ws.foldl (fun m w => put m w.1 w.2) t.words,
                                           bad := ws.foldl (fun m w => drop m w.1) t.bad } }

/-- The run writes a word of its tile in wing time g (R162). -/
def MxRun.writes (r : MxRun) (g : Nat) : Bool :=
  match r.entry with
  | none => false
  | some e => if r.shape.mode = 2 then g = e + r.n + 38 else g = e + r.written + 39

/-- A vector's words, or every word in output-stationary mode, are written; a poisoned run writes none (R162, R165). -/
def execArrayTileWrite (core : CoreRef) (j : Fin 7) (s : State) : Result :=
  atCore core j s fun id c g =>
    match c.runs.find? (·.writes g) with
    | none => none
    | some r =>
      let c := if r.poisoned then c else writeTile c r.tile (r.outputs (tileOf c r.tile) r.written)
      let last := r.shape.mode = 2 || r.written + 1 = r.n
      let on := c.runs.map fun x => if x.id = r.id then { r with written := r.written + 1 } else x
      some (setCore s id { c with runs := if last then c.runs.filter (·.id ≠ r.id) else on })

/-- An mx.acc load sets its tile and the tile's type at ρ (R163). -/
def execAccLoadComplete (core : CoreRef) (j : Fin 7) (s : State) : Result :=
  atCore core j s fun id c g =>
    match c.accLoads.find? (·.ready = some g) with
    | none => none
    | some l =>
      let t := tileOf c l.tile
      let words := (List.range 256).foldl (fun m w => put m w ((l.words[w]?).getD 0)) []
      some (setCore s id { c with tiles := put c.tiles l.tile { t with int := l.int, words := words, bad := [] },
                                  accLoads := c.accLoads.filter (· ≠ l) })

/-! ### mx.enc and mx.dec (R141, R142, R180, R181, R185) -/

/-- MX_OPERAND and MX_ADDRESS of an encode or decode: a format that is no MX format raises MX_OPERAND in mx.dec as in mx.enc. -/
def blockFaults (s : State) (i : Issue) (a bytes : Nat) : List Nat :=
  (if !isMx i.x.fmt ∨ (i.x.blk16 ∧ s.boot.legacy) then [0x20] else [])
    ++ (if a % 4 ≠ 0 ∨ 32768 < a + bytes then [0x21] else [])

/-- Lanes of the block: vD, and vD + 1 after it in a 32-element block. -/
def blockLanes (i : Issue) : List (Nat × Nat) :=
  ((List.range 16).map fun l => (l, i.x.d)) ++ (if i.x.blk16 then [] else (List.range 16).map fun l => (l, i.x.d + 1))

def blockBytes (i : Issue) : Nat := (if i.x.blk16 then 16 else 32) * eltBits i.x.fmt / 8

def encodeBlock (s : State) (i : Issue) : State :=
  let a := (getU i.tour i.x.a).toNat
  checked s i (fun _ => []) (blockFaults s i a (blockBytes i)) <|
    let xs := (blockLanes i).map fun l => getV i.tour l.1 l.2
    let scale := (getU i.tour i.x.b).toNat % 256
    let area := packElts (eltBits i.x.fmt) (xs.map fun x => encodeElt i.x.fmt x scale)
    let s' := clmPut s i.id a (leBytes area (blockBytes i))
    let i := occupyClm i 1
    finish s' i (addResult i.core i 4 (.uni i.x.m (runningMax (getU i.tour i.x.m) xs)))

/-- mx.enc, R141, R180, R185. -/
def execMxEnc (core : CoreRef) (j : Fin 7) (s : State) : Result := xilon core j 0x73 encodeBlock s

def decodeBlock (s : State) (i : Issue) : State :=
  let a := (getU i.tour i.x.a).toNat
  checked s i (fun _ => []) (blockFaults s i a (blockBytes i)) <|
    let scale := (getU i.tour i.x.b).toNat % 256
    let addrs := bytesOf (blockBytes i) [a]
    let why := clmWhy s i.id addrs
    let s' := clmReport s i.id addrs
    let i := occupyClm i 1
    match clmValue s i.id a (blockBytes i) with
    | none => finish s' i (poisonedLoad i.core i (List.range 16) (if i.x.blk16 then 4 else 8) (i.g + 5) why)
    | some area =>
      let val (p : Nat) : Word := decodeScaled i.x.fmt (unpackElt i.x.fmt area p) scale
      let c := addResult i.core i 6 (.vec i.x.d ((List.range 16).map fun l => (l, val l)))
      finish s' i (if i.x.blk16 then c else addResult c i 6 (.vec (i.x.d + 1) ((List.range 16).map fun l => (l, val (16 + l)))))

/-- mx.dec, R142, R181. -/
def execMxDec (core : CoreRef) (j : Fin 7) (s : State) : Result := xilon core j 0x74 decodeBlock s

end Sys2Proof.Machine
end

