-- ==== Sys2Proof/Machine/CoreEvents.lean ====
section
/-! DEFINITION. What happens in a core, on its channel and at its cabinet's egress and gateway after an instruction has
issued (R71, R83 to R95, R115, R191 to R208). -/

namespace Sys2Proof.Machine

/-! ### Results (R115, R143) -/

/-- Write a result into a tour's registers. -/
def writeDest (t : Tour) : RDest → Tour
  | .vec r vals =>
    { t with
      v := vals.foldl (fun m x => put m (32 * x.1 + r) x.2) t.v
      bad := vals.foldl (fun m x => drop m (32 * x.1 + r)) t.bad }
  | .uni r v => { t with u := put t.u r v, bad := drop t.bad (512 + r) }
  | .pred i vals => vals.foldl (fun t x => mapThread t x.1 fun h => { h with pred := putBit h.pred i x.2 }) t

/-- Write a result of the tour, if it still stands in a slot. -/
def writeResult (c : Core) (p : PendResult) : Core :=
  { c with active := c.active.map fun a => if a.2.index = p.tour then (a.1, writeDest a.2 p.dest) else a }

/-- The value of a load in a lane, from the blocks that have come back. -/
def loadValue (l : PendLoad) (a : Nat) : Nat :=
  match l.got.find? fun b => b.1 = a / l.unit with
  | some b => extend l.size l.sx (bits b.2.1.toNat (8 * (a % l.unit)) (8 * l.size))
  | none => 0

/-- The results of a load or atomic that has returned sound. -/
def loadResults (l : PendLoad) : List PendResult :=
  let vals := if l.addrs = [] then l.vals.map fun v => (v.1, v.2.toNat) else l.addrs.map fun x => (x.1, loadValue l x.2)
  dataResults l.tour l.reg l.size 0 vals

/-- A load ends: its registers are written, or LOAD_POISONED is raised (R143). -/
def endLoad (s : State) (id g : Nat) (l : PendLoad) : State :=
  let c := coreOf s id
  let c := { c with loads := c.loads.filter (·.id ≠ l.id) }
  if l.poisoned then kernelFault (setCore s id c) (cabOfCore id) (coreInCab id) (l.tour % 64) 0x1A l.pc l.issued.toNat g l.why
  else setCore s id ((loadResults l).foldl writeResult c)

/-- INSTRUCTION_RESULT_WRITE, R115: the results due at the end of this GCLK are written, after the GCLK's issue. -/
def execInstructionResultWrite (core : CoreRef) (j : Fin 7) (s : State) : Result :=
  atCore core j s fun id c g =>
    if (issueAt s id j.val).isSome then none
    else
      let due := c.results.any (·.at_ = g) || c.loads.any (·.at_ = some g)
      let c' := (c.results.filter (·.at_ = g)).foldl writeResult
        { c with results := c.results.filter (·.at_ ≠ g), wroteAt := if due then some g else c.wroteAt }
      some ((c.loads.filter (·.at_ = some g)).foldl (fun s l => endLoad s id g l) (setCore s id c'))

/-! ### Contexts and swaps (R71, R83 to R85, R98) -/

/-- A tour's launch context (R98). -/
def freshTour (core index : Nat) (args : List Word) (entryPc : Nat) : Tour :=
  let pos := coreInCab core + 2 ^ 7 * (cabOfCore core % 9) + 2 ^ 11 * (wingOfCore core % 16) + 2 ^ 15 * stackOfCore core
  { index := index,
    threads := List.replicate 16 { pc := entryPc },
    v := (List.range 16).map fun l => (32 * l, BitVec.ofNat 32 l),
    u := [(0, args.getD 0 0), (1, args.getD 1 0), (2, args.getD 2 0), (3, args.getD 3 0),
          (13, BitVec.ofNat 32 pos), (14, BitVec.ofNat 32 index)] }

/-- Word n of a tour's context image: vector registers, uniform registers, thread state (R71). -/
def contextWord (t : Tour) (n : Nat) : Nat :=
  if n < 512 then (look t.v n 0).toNat
  else if n < 528 then (look t.u (n - 512) 0).toNat
  else
    let h := threadOf t (n - 528)
    h.pc % 4096 + 2 ^ 12 * h.pred.toNat + 2 ^ 19 * b2n h.exited

/-- The tour that a context image spells; the words of `bad` hold the poison codeword (R409). -/
def contextTour (index : Nat) (ws : List Nat) (bad : List Nat) : Tour :=
  let w (n : Nat) : Nat := ws.getD n 0
  { index := index,
    v := (List.range 512).map fun n => (n, BitVec.ofNat 32 (w n)),
    u := (List.range 16).map fun n => (n, BitVec.ofNat 32 (w (512 + n))),
    threads := (List.range 16).map fun n =>
      { pc := bits (w (528 + n)) 0 12, pred := BitVec.ofNat 7 (bits (w (528 + n)) 12 7), exited := (w (528 + n)).testBit 19 },
    bad := bad.foldl (fun m k => put m k poison32) [] }

/-- First shelf word of a tour's context (R84). -/
def contextAt (c : Core) (tour : Nat) : Nat := c.ctxOff / 16 + 136 * tour
def contextWords (c : Core) (tour : Nat) : List Nat := (List.range 136).map (contextAt c tour + ·)

/-! ### Channel words (R86, R130, R205) -/

/-- The row of a core's shelf word. -/
def rowOf (s : State) (core w : Nat) : Nat := shelfRow s (siteOfCore s core) w

/-- A channel word fails its CRC: counted, reported, a job fault, and the idle check falls due (R205). The residue is not
given. -/
def crcFault (s : State) (core w dir : Nat) : State :=
  let res := freeWord s
  let unit := coreUnit s core
  let stack := stackOfCore core
  let r : Report := ⟨BitVec.ofNat 16 (4096 + unit), 6, 4, BitVec.ofNat 4 dir, BitVec.ofNat 48 (shelfLoc (rowOf s core w)),
    res.1 &&& 0xFF#32, false⟩
  let s := report res.2 stack r
  let s := mapCab s (cabOfCore core) fun c => { c.flag 1 (now s) with crcCount := satAdd c.crcCount 1 }
  let site := siteOfCore s core
  let s := setChannel s site { chanOf s site with dueAt := min (chanOf s site).dueAt (now s) }
  raiseFaultO s (ownerOfWing s (wingOfCore core)) ⟨1, 4, stack, unit, some (4096 + unit, 4, dir, stack)⟩

/-- Why a word that failed its CRC is poisoned. -/
def crcWhy (s : State) (core dir : Nat) : Option (Nat × Nat × Nat × Nat) :=
  some (4096 + coreUnit s core, 4, dir, stackOfCore core)

/-- Bytes that a read takes from earlier-issued stores. -/
def fwdOf (q : Xfer) (w : Nat) : Nat × Nat :=
  match q.fwd.find? fun x => x.1 = w with
  | some x => (x.2.1.toNat, x.2.2.toNat)
  | none => (0, 0)

/-- The codeword a read meets: the stored one, or the one a later-issued write has replaced. -/
def readFinding (s : State) (core : Nat) (q : Xfer) (w : Nat) : Checked :=
  match q.frozen.find? fun x => x.1 = w with
  | some x => shelfCodec.check x.2.1 x.2.2
  | none => shelfRead s core w

/-- What a read of words has found: each word's data, and the report behind the first that has none. -/
structure Words where
  data : List (Nat × Option Nat)
  why : Option (Nat × Nat × Nat × Nat)

/-- Read the words of a transfer. -/
def readXfer (s : State) (core : Nat) (q : Xfer) (crcBad : List Nat) : State × Words :=
  q.words.zipIdx.foldl (fun acc x =>
    let w := x.1.1
    let fwd := fwdOf q w
    let f := readFinding acc.1 core q w
    let none_ (s : State) (why : Option (Nat × Nat × Nat × Nat)) : State × Words :=
      (s, ⟨acc.2.data ++ [(w, none)], acc.2.why.orElse fun _ => why⟩)
    if x.2 ∈ crcBad then none_ (crcFault acc.1 core w 0) (crcWhy acc.1 core 0)
    else if fwd.1 = 2 ^ 16 - 1 then (acc.1, ⟨acc.2.data ++ [(w, some fwd.2)], acc.2.why⟩)
    else
      let s := shelfReport acc.1 core w f
      match f.data? with
      | some d => (s, ⟨acc.2.data ++ [(w, some (mergeBytes 16 d fwd.2 fwd.1))], acc.2.why⟩)
      | none => none_ s (whyOf s core f)) (s, ⟨[], none⟩)

/-- The image that words spell, or none where one has no data. -/
def imageOf : List (Nat × Option Nat) → Option (List Byte)
  | [] => some []
  | x :: xs => match x.2, imageOf xs with
    | some d, some r => some (leBytes d 16 ++ r)
    | _, _ => none

/-- Position of the first word that has no data. -/
def Words.firstBad (r : Words) : Nat := (r.data.findIdx? fun x => x.2.isNone).getD 0

/-- Earlier-issued reads that still wait keep the codeword that a write replaces (R130, R164). -/
def protectReads (s : State) (core : Nat) (c : Core) (x : Xfer) (w : Nat) : Core :=
  let old := rawGet s.shelf shelfCodec (rowOf s core w)
  { c with rdQueue := c.rdQueue.map fun q =>
      if (q.issue < x.issue || (q.issue = x.issue && q.tour ≠ 64 && x.tour = 64))
          && q.words.any (·.1 = w) && !(q.frozen.any (·.1 = w)) then { q with frozen := q.frozen ++ [(w, old.1, old.2)] }
      else q }

/-- Write one word from a transfer; a word that failed its CRC becomes the poison codeword (R205, R409). -/
def writeWord (s : State) (core : Nat) (x : Xfer) (w d : Nat) (bad : Bool) : State :=
  let s := setCore s core (protectReads s core (coreOf s core) x w)
  if bad then crcFault { s with shelf := wordPoison s.shelf shelfCodec (rowOf s core w) } core w 1
  else shelfPut s core w d

/-- Write poison to a word from a transfer (R409). -/
def writePoison (s : State) (core : Nat) (x : Xfer) (w : Nat) : State :=
  let s := setCore s core (protectReads s core (coreOf s core) x w)
  { s with shelf := wordPoison s.shelf shelfCodec (rowOf s core w) }

/-- Shelf stores of the tours are settled from wing time g on (R103, R137). -/
def settleShelf (c : Core) (tours : List Nat) (g : Nat) : Core :=
  { c with
    storeEnd := if 64 ∈ tours then c.storeEnd else max c.storeEnd g
    active := c.active.map fun a =>
      if a.2.index ∈ tours then (a.1, { a.2 with shelfBusy := max a.2.shelfBusy g }) else a }

/-- A bank group of a transfer is not ACTIVE (R192). -/
def groupsOff (s : State) (core : Nat) (ws : List Nat) : Bool := (groupsOf core ws).any fun g => !domOn s .bankGroup g

/-- Run f on a transfer whose bank groups are ACTIVE; else wake those that are RETAINING (R192). -/
def withGroups (s : State) (core : Nat) (ws : List Nat) (f : Option State) : Option State :=
  if (groupsOf core ws).any fun g => (domOf s .bankGroup g).state = .off then some (meetGroups s core ws)
  else if groupsOff s core ws then none else f

/-! ### Swaps -/

/-- The 136 words of a context as they are written: poison where a register of the word holds poison. -/
def putContext (s : State) (core : Nat) (x : Xfer) (c : Core) (t : Tour) (crcBad : List Nat) : State :=
  (List.range 136).foldl (fun s n =>
    let w := contextAt c t.index + n
    let d := packWords ((List.range 4).map fun i => contextWord t (4 * n + i))
    let bad := (List.range 4).any fun i => (badWord t.bad (4 * n + i)).isSome
    if bad && n ∉ crcBad then writePoison s core x w else writeWord s core x w d (n ∈ crcBad)) s

/-- The tour that comes in: fresh, or from its context (R84). -/
def takeContext (s : State) (core : Nat) (c : Core) (tour g : Nat) (crcBad : List Nat) : State × Tour :=
  if tour ∈ c.hasRun then
    let r := readXfer s core { kind := .swapIn, issue := g, words := readWords (contextWords c tour), tour := tour } crcBad
    let ws := r.2.data.flatMap fun x => (List.range 4).map fun i => bits (x.2.getD 0) (32 * i) 32
    let bad := r.2.data.zipIdx.flatMap fun x => if x.1.2.isNone then (List.range 4).map (4 * x.2 + ·) else []
    (r.1, contextTour tour ws bad)
  else (s, freshTour core tour c.args c.entryPc)

/-- A swap whose context lies behind a failed channel: its trigger's tour takes SHELF_UNREACHABLE and issues nothing further
(R105, R208). -/
def swapUnreachable (s : State) (core g : Nat) (r : SwapReq) (rest : List SwapReq) : State :=
  let c := coreOf s core
  kernelFault (setCore s core { c with
      swapQueue := rest
      swapMet := none
      active := c.active.map fun a => if a.1 = r.slot then (a.1, { a.2 with stopped := true }) else a })
    (cabOfCore core) (coreInCab core) r.tour 0x06 0 0 g

/-- A trigger that finds the pending set empty at its turn brings nothing in. A swap whose bank groups are not ACTIVE is presented, and
waits for them (R192).

TOUR_SWAP_START, R83 to R85: `crcRead` and `crcWrite` are the channel words of each direction that fail their CRC. -/
def execTourSwapStart (core : CoreRef) (j : Fin 7) (crcRead crcWrite : List Nat) (s : State) : Result :=
  atCore core j s fun id c g =>
    match swapBegins c g, c.swapQueue with
    | some r, _ :: rest =>
      match c.pendingSet, find c.active r.slot with
      | [], _ => some (setCore s id { c with swapQueue := rest, swapMet := none })
      | _, none => some (setCore s id { c with swapQueue := rest, swapMet := none })
      | inc :: more, some out =>
        let exch := r.kind = .exchange
        let ran := decide (inc ∈ c.hasRun)
        let ws := (if exch then contextWords c out.index else []) ++ (if ran then contextWords c inc else [])
        let L := latencyOf (contextWords c inc)
        if ws ≠ [] && (chanOf s (siteOfCore s id)).failed then some (swapUnreachable s id g r rest)
        else if groupsOff s id ws then
          (if c.swapMet.isSome then none else some (meetGroups (setCore s id { c with swapMet := some g }) id ws))
        else
          let s1 := if exch then putContext s id { kind := .swapOut, issue := g, words := [], tour := out.index } c out crcWrite else s
          let r1 := takeContext s1 id c inc g crcRead
          let c1 := coreOf r1.1 id
          some (setCore r1.1 id { c1 with
            swapQueue := rest
            swapMet := none
            pendingSet := if exch then more ++ [out.index] else more
            hasRun := (c1.hasRun.filter (· ≠ inc)) ++ (if exch then [out.index] else [])
            active := put c1.active r.slot r1.2
            rdFree := if ran then g + 136 else c1.rdFree
            wrFree := if exch then g + 136 else c1.wrFree
            rdWords := if ran then contextWords c inc else c1.rdWords
            wrWords := if exch then contextWords c out.index else c1.wrWords
            swap := some ⟨r.slot, inc, ran, if ran then g + 136 + L else g + 4⟩ })
    | _, _ => none

/-- The incoming tour becomes issuable; the parked threads it has come in with are examined (R78, R85). -/
def endSwap (s : State) (id g : Nat) (c : Core) (w : Swap) : State :=
  match find c.active w.slot with
  | some t =>
    if mismatch c t && !t.stopped then
      kernelFault (setCore s id { c with swap := none, active := put c.active w.slot { t with stopped := true } })
        (cabOfCore id) (coreInCab id) t.index 0x01 0 0 g
    else setCore s id { c with swap := none }
  | none => setCore s id { c with swap := none }

/-- TOUR_SWAP_COMPLETE, R78, R85. -/
def execTourSwapComplete (core : CoreRef) (j : Fin 7) (s : State) : Result :=
  atCore core j s fun id c g =>
    match c.swap with
    | some w => if w.doneAt = g then some (endSwap s id g c w) else none
    | none => none

/-! ### The gateway's answers (R200 to R204) -/

/-- The beat boundary of the wing at or after a wing time. -/
def beatOfWing (s : State) (w t : Nat) : Nat :=
  ceilDiv (((t : Int) - (wingOf s w).gOff).toNat) (max 1 (wingOf s w).k)

/-- A request's answer leaves the gateway's crossing for the plinth at wing time t (R204). -/
def gateAnswer (s : State) (core n t : Nat) (f : Req → Req) : State :=
  match find s.net n with
  | some r => answer s n (f r) (5 * beatOfWing s (wingOfCore core) t)
  | none => s

/-- Part of a gateway request is still under way. -/
def gatePending (c : Core) (n : Nat) : Bool :=
  c.rdQueue.any (n ∈ ·.reqs) || c.wrQueue.any (n ∈ ·.reqs) || c.rmws.any (n ∈ ·.reqs)

/-- Acknowledge the requests whose last word is written in the GCLK before t. -/
def gateAcks (s : State) (core t : Nat) (reqs : List Nat) : State :=
  reqs.foldl (fun s n => if gatePending (coreOf s core) n then s else gateAnswer s core n (t + 10) id) s

/-- The response block that words spell. -/
def blockOf (ws : List (Nat × Option Nat)) : Nat :=
  ws.foldl (fun a x => a + (x.2.getD 0) * 2 ^ (128 * (x.1 % 4))) 0

/-! ### Transfers of the read direction -/

/-- Update a load of a core. -/
def mapLoad (c : Core) (id : Nat) (f : PendLoad → PendLoad) : Core :=
  { c with loads := c.loads.map fun l => if l.id = id then f l else l }

/-- A shelf load's words have been read from t₀ = g (R88). -/
def readLoad (s : State) (core id g : Nat) (q : Xfer) (r : Words) : State :=
  let L := latencyOf (q.words.map (·.1))
  let c := coreOf s core
  setCore s core (mapLoad c id fun l =>
    { l with got := r.data.map fun x => (x.1, BitVec.ofNat 512 (x.2.getD 0), x.2.isNone),
             poisoned := r.data.any (·.2.isNone), why := r.why, at_ := some (g + L + (q.words.length - 1) - 1) })

/-- The write of an atomic's word, combined over the locations in it. -/
def addAtomic (l : List Rmw) (m : Rmw) : List Rmw :=
  match l.find? fun x => x.word = m.word && x.atomic = m.atomic && x.reqs = m.reqs with
  | some o =>
    l.map fun x => if x = o then
        { x with mask := x.mask ||| m.mask,
                 data := BitVec.ofNat 128 (mergeBytes 16 x.data.toNat m.data.toNat m.mask.toNat),
                 writeAt := max x.writeAt m.writeAt }
      else x
  | none => l ++ [m]

/-- One location of an atomic: its old values, and the write that follows at the first free GCLK from t_r + L + 1 (R198). -/
def atomicLocation (fn size g L : Nat) (issue tour : Nat) (reqs : List Nat) (r : Words)
    (acc : List Rmw × List (Nat × DWord)) (x : (Nat × List (Nat × DWord × DWord)) × Nat) : List Rmw × List (Nat × DWord) :=
  let a := x.1.1
  match (r.data.find? fun w => w.1 = a / 16).bind (·.2) with
  | none => acc
  | some d =>
    let old := bits d (8 * (a % 16)) (8 * size)
    let res := atomicFold fn (BitVec.ofNat 64 old) x.1.2
    let msk := (2 ^ size - 1) <<< (a % 16)
    (addAtomic acc.1 { word := a / 16, mask := BitVec.ofNat 16 msk,
                       data := BitVec.ofNat 128 ((res.1.toNat % 2 ^ (8 * size)) <<< (8 * (a % 16))),
                       old := some (BitVec.ofNat 128 d), writeAt := g + x.2 + L + 1, tour := tour,
                       atomic := some issue, reqs := reqs }, acc.2 ++ res.2)

/-- An own-shelf atomic's words have been read from t_r = g (R95, R198). -/
def readAtomic (s : State) (core id fn g : Nat) (gs : List (Nat × List (Nat × DWord × DWord))) (q : Xfer) (r : Words) : State :=
  let L := latencyOf (q.words.map (·.1))
  let c := coreOf s core
  let res := gs.zipIdx.foldl (atomicLocation fn ((atomicSize fn).getD 4) g L q.issue q.tour [] r) (c.rmws, [])
  setCore s core (mapLoad { c with rmws := res.1 } id fun l =>
    { l with vals := res.2, poisoned := r.data.any (·.2.isNone), why := r.why, at_ := some (g + L + l.extra - 1) })

/-- The code image arrives in the instruction store (R100, R410). -/
def readCode (s : State) (core g : Nat) (q : Xfer) (r : Words) : State :=
  let c := coreOf s core
  let L := latencyOf (q.words.map (·.1))
  let ws := r.data.zipIdx.flatMap fun x => (List.range 4).map fun i => (4 * x.2 + i, x.1.2.map fun d => bits d (32 * i) 32)
  setCore s core { c with
    code := ws.filterMap fun w => if 4 * w.1 < c.codeBytes then w.2.map fun d => (w.1, BitVec.ofNat 32 d) else none
    codeBad := ws.filterMap fun w => if w.2.isNone then some (w.1, poison32) else none
    firstIssue := some (g + q.words.length + L) }

/-- A stationary image arrives (R158, R159, R165). -/
def readTile (s : State) (core g : Nat) (q : Xfer) (r : Words) : State :=
  let c := coreOf s core
  let rho := g + latencyOf (q.words.map (·.1)) + q.words.length
  match c.shadow with
  | none => s
  | some t =>
    match imageOf r.data with
    | some b => setCore s core { c with shadow := some { t with bytes := b, ready := some rho } }
    | none =>
      setCore s core (poisonDue { c with shadow := some { t with poisoned := true, ready := some rho } } t.tour t.pc t.lanes
        (g + latencyOf (q.words.map (·.1)) + r.firstBad - 1) r.why)

/-- The stationary image of an earlier launch arrives, for the runs that have it with them (R158, R159, R164, R165). -/
def readOldTile (s : State) (core g : Nat) (q : Xfer) (r : Words) : State :=
  let c := coreOf s core
  let rho := g + latencyOf (q.words.map (·.1)) + q.words.length
  match c.runs.findSome? fun x => x.image.filter (·.ready.isNone) with
  | none => s
  | some t =>
    let upd (u : TileImage) : Core := { c with runs := c.runs.map fun x => if x.image = some t then { x with image := some u } else x }
    match imageOf r.data with
    | some b => setCore s core (upd { t with bytes := b, ready := some rho })
    | none =>
      setCore s core (poisonDue (upd { t with poisoned := true, ready := some rho }) t.tour t.pc t.lanes
        (g + latencyOf (q.words.map (·.1)) + r.firstBad - 1) r.why)

/-- A stream image arrives (R159, R165). -/
def readStream (s : State) (core n g : Nat) (q : Xfer) (r : Words) : State :=
  let c := coreOf s core
  let rho := g + latencyOf (q.words.map (·.1)) + q.words.length
  match c.runs.find? (·.id = n) with
  | none => s
  | some x =>
    let upd (y : MxRun) : Core := { c with runs := c.runs.map fun z => if z.id = n then y else z }
    match imageOf r.data with
    | some b => setCore s core (upd { x with stream := b, ready := some rho })
    | none =>
      setCore s core (poisonDue (upd { x with poisoned := true, ready := some rho }) x.tour x.pc x.lanes
        (g + latencyOf (q.words.map (·.1)) + r.firstBad - 1) r.why)

/-- A tile's image arrives for mx.acc load (R163, R165). -/
def readAcc (s : State) (core tile g : Nat) (q : Xfer) (r : Words) : State :=
  let c := coreOf s core
  let rho := g + latencyOf (q.words.map (·.1)) + 64
  match c.accLoads.find? fun l => l.tile = tile && l.ready.isNone with
  | none => s
  | some l =>
    match imageOf r.data with
    | some b =>
      let l' := { l with words := tileWords b, ready := some rho }
      setCore s core { c with accLoads := c.accLoads.map fun x => if x = l then l' else x,
                              accReady := accDue c tile rho }
    | none =>
      setCore s core (poisonDue { c with accLoads := c.accLoads.filter (· ≠ l), accReady := accDue c tile rho } l.tour l.pc l.lanes
        (g + latencyOf (q.words.map (·.1)) + r.firstBad - 1) r.why)

/-- A gateway read's words have been read from t₀ = g (R204). -/
def readGate (s : State) (core n g : Nat) (q : Xfer) (r : Words) : State :=
  let L := latencyOf (q.words.map (·.1))
  gateAnswer s core n (g + L + (q.words.length - 1) + 10) fun x =>
    { x with resp := BitVec.ofNat 512 (blockOf r.data), poison := r.data.any (·.2.isNone), why := r.why }

/-- Byte offset in the target core's shelf of an archive-space address. -/
def shelfOff (s : State) (a : Nat) : Nat := match spaceOf s a with | .archive _ off => off | _ => 0

/-- Locations of a gateway atomic. -/
def gateGroups (s : State) (ops : List (Nat × Nat × DWord × DWord)) : List (Nat × List (Nat × DWord × DWord)) :=
  (distinct (ops.map (·.2.1))).map fun a =>
    (shelfOff s a, (ops.filter fun o => o.2.1 = a).map fun o => (o.1, o.2.2.1, o.2.2.2))

/-- A gateway atomic's words have been read from t_r = g (R198, R204). -/
def readGateAtomic (s : State) (core n g : Nat) (q : Xfer) (r : Words) : State :=
  let L := latencyOf (q.words.map (·.1))
  match (find s.net n).map Req.kind with
  | some (.atomic fn ops) =>
    let c := coreOf s core
    let res := (gateGroups s ops).zipIdx.foldl (atomicLocation fn ((atomicSize fn).getD 4) g L q.issue 64 [] r) (c.rmws, [])
    gateAnswer (setCore s core { c with rmws := res.1 }) core n (g + L + 1 + 10) fun x =>
      { x with olds := res.2, poison := r.data.any (·.2.isNone), why := r.why }
  | _ => s

/-- The read transfer at the head of the queue starts at g. -/
def startRead (s : State) (core g : Nat) (q : Xfer) (rest : List Xfer) (crcBad : List Nat) : State :=
  let c := coreOf s core
  let s := setCore s core { c with rdQueue := rest, rdFree := g + q.words.length, rdWords := q.words.map (·.1) }
  let r := readXfer s core q crcBad
  match q.kind with
  | .load id => readLoad r.1 core id g q r.2
  | .atomic id fn gs => readAtomic r.1 core id fn g gs q r.2
  | .code => readCode r.1 core g q r.2
  | .tile => readTile r.1 core g q r.2
  | .oldTile => readOldTile r.1 core g q r.2
  | .run n => readStream r.1 core n g q r.2
  | .accLoad t => readAcc r.1 core t g q r.2
  | .gateRead n => readGate r.1 core n g q r.2
  | .gateAtomic n => readGateAtomic r.1 core n g q r.2
  | _ => r.1

/-- The write transfer at the head of the queue starts at g; a word with no byte to write only takes its GCLK (R302). -/
def startWrite (s : State) (core g : Nat) (q : Xfer) (rest : List Xfer) (crcBad : List Nat) : State :=
  let c := coreOf s core
  let done := g + q.words.length
  let s := setCore s core (settleShelf { c with wrQueue := rest, wrFree := done, wrWords := q.words.map (·.1) } (q.tour :: q.also) done)
  let s := q.words.zipIdx.foldl (fun s x =>
    if x.1.2.1 = 0 then s else writeWord s core q x.1.1 x.1.2.2.toNat (x.2 ∈ crcBad)) s
  gateAcks s core done q.reqs

/-- One issue comes before another: at an earlier wing time, or at the same with the core's before the gateway's (R193). -/
def issuedBefore (i : Nat) (gate : Bool) (j : Nat) (gate' : Bool) : Bool := i < j || (i = j && !gate && gate')

/-- A transfer is the gateway's. -/
def Xfer.gate (q : Xfer) : Bool := q.tour = 64
def Rmw.gate (m : Rmw) : Bool := m.tour = 64

/-- An atomic has written a word of the transfer in this GCLK: the transfer starts no earlier than the next (R198). -/
def atomicJust (c : Core) (g : Nat) (q : Xfer) : Bool :=
  match c.atomicWrote with
  | some (w, t) => t = g && q.words.any (·.1 = w)
  | none => false

/-- The transfer comes after a swap that waits for its bank groups (R192). -/
def behindSwap (c : Core) (q : Xfer) : Bool :=
  match c.swapMet with
  | some m => decide (m ≤ q.issue)
  | none => false

/-- An atomic, whose read is still to come. -/
def Xfer.atomic (q : Xfer) : Bool :=
  match q.kind with
  | .atomic _ _ _ => true
  | .gateAtomic _ => true
  | _ => false

/-- An atomic issued before the transfer has one of its words still to read or to write (R198). -/
def atomicAhead (c : Core) (q : Xfer) : Bool :=
  (c.rmws.any fun m => match m.atomic with
    | some i => issuedBefore i m.gate q.issue q.gate && q.words.any (·.1 = m.word)
    | none => false)
    || c.rdQueue.any fun x => x.atomic && issuedBefore x.issue x.gate q.issue q.gate && x.words.any fun w => q.words.any (·.1 = w.1)

/-- The atomic's write comes before the transfer in the write direction (R86, R198). -/
def Rmw.before (m : Rmw) (q : Xfer) : Bool :=
  match m.atomic with
  | some i => issuedBefore i m.gate q.issue q.gate
  | none => false

/-- An atomic's write takes the write direction now (R198). -/
def atomicDue (c : Core) (g : Nat) (q : Xfer) : Bool := c.rmws.any fun m => m.before q && m.writeAt ≤ g

/-- CHANNEL_TRANSFER_START, R86, R88, R192, R205: the transfer at the head of a direction starts, once the direction is free;
`crcBad` lists the words that fail their CRC. -/
def execChannelTransferStart (core : CoreRef) (j : Fin 7) (write : Bool) (crcBad : List Nat) (s : State) : Result :=
  atCore core j s fun id c g =>
    match if write then c.wrQueue else c.rdQueue with
    | [] => none
    | q :: rest =>
      let free := if write then c.wrFree ≤ g && !atomicDue c g q else c.rdFree ≤ g
      if q.kind = .rmwRead || q.kind = .rmwWrite || g < q.issue || !free || atomicAhead c q || atomicJust c g q || behindSwap c q then none
      else withGroups s id (q.words.map (·.1))
        (some (if write then startWrite s id g q rest crcBad else startRead s id g q rest crcBad))

/-! ### Narrow writes (R194 to R198) -/

/-- MERGE_BUFFER_TIMEOUT, R192, R195: the entry leaves as of g_o + 4. -/
def execMergeBufferTimeout (core : CoreRef) (j : Fin 7) (s : State) : Result :=
  atCore core j s fun id c g =>
    match c.merge with
    | some e => if mergeDue c g then some (presentWrites (setCore s id (leaveRmw c (e.opened + 4) e)) id c) else none
    | none => none

/-- The read leg of a read-modify-write at t_r = g. -/
def rmwRead (s : State) (core g : Nat) (q : Xfer) (rest : List Xfer) (crcBad : Bool) : State :=
  let c := coreOf s core
  let s := setCore s core { c with rdQueue := rest, rdFree := g + 1, rdWords := q.words.map (·.1) }
  match q.words with
  | [] => s
  | (w, mask, d) :: _ =>
    let s := if mask = 0 then s else mapCab s (cabOfCore core) fun x => { x with rmwCount := satAdd x.rmwCount 1 }
    let fwd := fwdOf q w
    let f := readFinding s core q w
    let old : Option Nat := if crcBad then none else if fwd.1 = 2 ^ 16 - 1 then some fwd.2
      else f.data?.map fun x => mergeBytes 16 x fwd.2 fwd.1
    let s := if crcBad then crcFault s core w 0 else if fwd.1 = 2 ^ 16 - 1 || mask = 0 then s
      else faultFinding s (ownerOfWing s (wingOfCore core)) (stackOfCore core) 1 (coreUnit s core) 5 f
        (shelfLoc (rowOf s core w))
    let c := coreOf s core
    setCore s core { c with rmws := c.rmws ++ [{ word := w, mask := mask, data := d, old := old.map (BitVec.ofNat 128),
                                                 writeAt := g + 12, tour := q.tour, also := q.also, reqs := q.reqs }] }

/-- SHELF_RMW_READ, R196, R197, R205. -/
def execShelfRmwRead (core : CoreRef) (j : Fin 7) (crcBad : Bool) (s : State) : Result :=
  atCore core j s fun id c g =>
    match c.rdQueue with
    | [] => none
    | q :: rest =>
      if q.kind ≠ .rmwRead || g < q.issue || g < c.rdFree || atomicAhead c q || atomicJust c g q || behindSwap c q then none
      else withGroups s id (q.words.map (·.1)) (some (rmwRead s id g q rest crcBad))

/-- Write a read-modify-write's merged word, or nothing where its read was uncorrectable (R196, R197). -/
def rmwWrite (s : State) (core g : Nat) (m : Rmw) (x : Xfer) (rest : List Xfer) (crcBad : Bool) : State :=
  let c := coreOf s core
  let c' := { c with wrQueue := rest, rmws := c.rmws.erase m, wrFree := g + 1, wrWords := [m.word] }
  let s := setCore s core (if m.atomic.isSome then { c' with atomicWrote := some (m.word, g) } else settleShelf c' (m.tour :: m.also) (g + 1))
  let s := match if m.mask = 0 then none else m.old with
    | some d => writeWord s core x m.word (mergeBytes 16 d.toNat m.data.toNat m.mask.toNat) crcBad
    | none => s
  gateAcks s core (g + 1) m.reqs

/-- SHELF_RMW_WRITE, R196 to R198: the write of the next read-modify-write, or of an atomic whose turn it is. -/
def execShelfRmwWrite (core : CoreRef) (j : Fin 7) (crcBad : Bool) (s : State) : Result :=
  atCore core j s fun id c g =>
    if g < c.wrFree then none
    else match c.rmws.find? fun m => match m.atomic with
        | some _ => m.writeAt ≤ g && c.wrQueue.all m.before
        | none => false with
      | some m =>
        withGroups s id [m.word]
          (some (rmwWrite s id g m { kind := .store, issue := m.atomic.getD 0, words := [], tour := m.tour }
            c.wrQueue crcBad))
      | none =>
        match c.rmws.find? (·.atomic.isNone), c.wrQueue with
        | some m, q :: rest =>
          if q.kind ≠ .rmwWrite || g < m.writeAt then none
          else withGroups s id [m.word] (some (rmwWrite s id g m q rest crcBad))
        | _, _ => none

/-! ### The egress, the mesh and returns (R89 to R93, R103) -/

/-- A flit's moves from its cabinet exit: links and the cabinet entry, with the beat and edge of each, and the wing time of
the write (R92). Links are numbered by wing, cabinet and direction. -/
def meshPath (s : State) (src dst beat edge : Nat) : List (Nat × Nat × Nat) × Nat × Nat :=
  let w0 := wingOfCore src
  let w1 := wingOfCore dst
  let c0 := cabOfCore src % 9
  let c1 := cabOfCore dst % 9
  let k0 := max 1 (wingOf s w0).k
  let t0 := k0 * beat + edge + 2
  let hops := max c0 c1 - min c0 c1
  let along := (List.range hops).map fun i =>
    let cab := if c0 ≤ c1 then c0 + i else c0 - i
    ((w0 * 9 + cab) * 8 + (if c0 ≤ c1 then 0 else 1), (t0 + i) / k0, (t0 + i) % k0)
  let t1 := t0 + hops
  if w0 = w1 then (along ++ [((w1 * 9 + c1) * 8 + 4, t1 / k0, t1 % k0)], w1, t1 + 5)
  else
    let b1 := ceilDiv t1 k0
    let n := max w0 w1 - min w0 w1
    let across := (List.range n).map fun i =>
      let wing := if w0 ≤ w1 then w0 + i else w0 - i
      ((wing * 9 + c1) * 8 + (if w0 ≤ w1 then 2 else 3), b1 + i, 0)
    let k1 := max 1 (wingOf s w1).k
    let t2 := k1 * (b1 + n - 1) + 1
    (along ++ across ++ [((w1 * 9 + c1) * 8 + 4, t2 / k1, t2 % k1)], w1, t2 + 5)

/-- An instant of a wing's edge, in 420ths of a beat, which every ratio divides. -/
def edgeKey (s : State) (w b e : Nat) : Nat := 420 * b + 420 * e / max 1 (wingOf s w).k

/-- What the flits need, by instant: link and flit of each. A cabinet entry is held for its first GCLK (R92, R93). -/
def meshNeeds (s : State) : SMap (List (Nat × Nat)) :=
  s.flits.foldl (fun m f => (f.2.path.getD []).foldl (fun m x =>
    let k := edgeKey s (x.1 / 72) x.2.1 x.2.2
    put m k (look m k [] ++ [(x.1, f.1)])) m) []

/-- The instant at which a flit is stopped. -/
def stopKey (s : State) (f : Flit) : Option Nat :=
  f.lostAt.map fun x => 420 * x.1 + 420 * x.2 / max 1 (wingOf s (((f.path.bind (·.find? fun p => p.2 = x)).map (·.1 / 72)).getD 0)).k

/-- The flits that meet another at an instant: those not stopped before it that need one link. -/
def meetNow (stops : SMap Nat) (users : List (Nat × Nat)) : List Nat :=
  let going := users.filter fun u => (find stops u.2).isNone
  (going.filter fun u => going.any fun v => v.1 = u.1 && v.2 ≠ u.2).map (·.2)

/-- Where the flits are stopped, instant by instant; a stop at or before `past` has taken place (R93). -/
def meshStops (s : State) (past : Nat) : SMap Nat :=
  let old := s.flits.foldl (fun m f => match stopKey s f.2 with
    | some k => if k ≤ past then put m f.1 k else m
    | none => m) []
  (meshNeeds s).foldl (fun m x => if x.1 ≤ past then m else (meetNow m x.2).foldl (fun m n => put m n x.1) m) old

/-- The beat and edge at which a flit with a stop at an instant needs its link. -/
def stopPlace (s : State) (f : Flit) (k : Nat) : Option (Nat × Nat) :=
  ((f.path.getD []).find? fun x => edgeKey s (x.1 / 72) x.2.1 x.2.2 = k).map (·.2)

/-- A flit leaves the cabinet; flits that need one link in one GCLK are stopped there, all of them (R93). -/
def sendFlit (s : State) (n : Nat) (f : Flit) (edge : Nat) : State :=
  let p := meshPath s f.source f.target (now s) edge
  let wt := ((p.2.2 : Int) + (wingOf s p.2.1).gOff).toNat
  let s := { s with flits := put s.flits n { f with path := some p.1, writeAt := some (p.2.1, wt) } }
  let stops := meshStops s (edgeKey s (wingOfCore f.source) (now s) edge)
  { s with flits := s.flits.map fun x => (x.1, { x.2 with lostAt := (find stops x.1).bind (stopPlace s x.2) }) }

/-- A request leaves its cabinet: cabinet exit, crossing, and the next beat boundary (R91). -/
def sendRequest (s : State) (core n g : Nat) (r : Req) : State :=
  let k := max 1 (wingOf s (wingOfCore core)).k
  let route := routeTo s (stackOfCore core) r.addr
  setReq s n { r with route := route.1, hops := hopCount (stackOfCore core) route.2, stage := .route (5 * ceilDiv (g + 10) k) }

/-- EGRESS_TAKE, R89: in GCLK g the egress takes a request of core g mod 96. -/
def execEgressTake (core : CoreRef) (j : Fin 7) (s : State) : Result :=
  atCore core j s fun id c t =>
    let g := gclk s (wingOfCore id) j.val
    if g % 96 ≠ coreInCab id || c.egressAt = some t then none
    else match c.egress with
      | [] => none
      | (true, n) :: rest =>
        (find s.flits n).map fun f => sendFlit (setCore s id { c with egress := rest, egressAt := some t }) n f j.val
      | (false, n) :: rest =>
        (find s.net n).map fun r => sendRequest (setCore s id { c with egress := rest, egressAt := some t }) id n g r

/-- The requests of a load are all back: the wing time at which its result is usable (R91, R95). -/
def returnedAt (s : State) (id : Nat) (l : PendLoad) : Option Nat :=
  (l.open_.foldr (fun n acc => match acc, (find s.net n).map (·.stage) with
    | some t, some (.answered c) => some (max t (returnTime s (wingOfCore id) c))
    | _, _ => none) (some 0)).map (· + l.extra)

/-- A global load or atomic that returns: its blocks, values and poison. -/
def gathered (s : State) (l : PendLoad) : PendLoad :=
  l.open_.foldl (fun l n => match find s.net n with
    | some r => { l with got := l.got ++ [(r.addr / 64, r.resp, r.poison)], vals := l.vals ++ r.olds,
                         poisoned := l.poisoned || r.poison, why := l.why.orElse fun _ => r.why }
    | none => l) l

/-- GLOBAL_LOAD_RETURN, R90, R91: the last request of a load is back and its result is usable. -/
def execGlobalLoadReturn (core : CoreRef) (j : Fin 7) (s : State) : Result :=
  atCore core j s fun id c g =>
    match c.loads.find? fun l => l.open_ ≠ [] && returnedAt s id l = some g with
    | none => none
    | some l =>
      let s' := { s with net := l.open_.foldl drop s.net }
      let s' := setCore s' id { c with unacked := c.unacked.filter fun u => u.2.1 || u.2.2 ∉ l.open_ }
      some (endLoad s' id g (gathered s l))

/-- POSTED_WRITE_ACK, R103, R137: the acknowledgement of a posted store or reduction reaches its cabinet. -/
def execPostedWriteAck (req : Nat) (j : Fin 7) (s : State) : Result :=
  match find s.net req with
  | some r =>
    match r.origin, r.stage with
    | .core id _ none, .answered p =>
      let w := wingOfCore id
      let c := coreOf s id
      let s' := { s with net := drop s.net req }
      let s' := mapCab s' (cabOfCore id) fun x => { x with doneFrom := now s + 1 }
      onlyIf (live s && edgeOk s w j.val && returnTime s w p = wtime s w j.val) s
        (setCore s' id { c with unacked := c.unacked.filter fun u => u.2.1 || u.2.2 ≠ req })
    | _, _ => .next s
  | none => .next s

/-- The GCLK of the source's wing in which a flit is stopped at edge e of the wing whose link it needs. -/
def stopEdge (s : State) (f : Flit) (e : Nat) : Nat :=
  let at_ := ((f.path.getD []).find? fun x => some x.2 = f.lostAt).map (·.1 / 72)
  e * (wingOf s (wingOfCore f.source)).k / max 1 (wingOf s (at_.getD (wingOfCore f.source))).k

/-- MESH_PUT_DELIVERY, R92, R93, R145: the flit is written into the target CLM, or is stopped by a collision, whose fault carries PC 0,
LANES 0 and the GCLK of its stop (DEDUCED, log entry 187). -/
def execMeshPutDelivery (flit : Nat) (j : Fin 7) (s : State) : Result :=
  match find s.flits flit with
  | none => .next s
  | some f =>
    let c := coreOf s f.source
    let s' := setCore { s with flits := drop s.flits flit } f.source
      { c with unacked := c.unacked.filter fun u => !u.2.1 || u.2.2 ≠ flit }
    match f.lostAt, f.writeAt with
    | some (b, e), _ =>
      onlyIf (live s && b = now s && e = j.val) s
        (kernelFault s' (cabOfCore f.source) (coreInCab f.source) f.slot 0x03 0 0 (wtime s (wingOfCore f.source) (stopEdge s f e)))
    | none, some (w, t) =>
      onlyIf (live s && edgeOk s w j.val && wtime s w j.val = t) s
        (clmPut s' f.target f.offset (leBytes f.data.toNat 64))
    | none, none => .next s

/-! ### The shelf gateway (R199 to R204) -/

/-- The words of a 64 B block that a mask touches: word, mask and data. -/
def blockWords (off : Nat) (mask : BitVec 64) (data : BitVec 512) : List (Nat × BitVec 16 × BitVec 128) :=
  (List.range 4).filterMap fun i =>
    let m := bits mask.toNat (16 * i) 16
    if m = 0 then none
    else some (off / 16 + i, BitVec.ofNat 16 m, BitVec.ofNat 128 (bits data.toNat (128 * i) 128))

/-- A gateway read of the words that a request touches. -/
def gateRead (s : State) (core n g : Nat) (kind : XferKind) (ws : List Nat) : State :=
  let c := coreOf s core
  meetGroups (setCore s core (addRead c { kind := kind, issue := g, words := readWords ws, fwd := forwardWords c ws,
                                          tour := 64, reqs := [n] })) core ws

/-- A whole word that the gateway writes is a whole-word store to its word: an open merge entry of the word is discarded
(R195). -/
def discardMerge (c : Core) (ws : List Nat) : Option MergeEntry :=
  match c.merge with
  | some e => if e.word ∈ ws then none else some e
  | none => none

/-- A gateway write: its whole words as one transfer, then each narrow word as a read-modify-write (R200; their order is the model's, DESIGN
CHOICE, log entry 190); a skipped one with no byte to write (R302). -/
def gateWrite (s : State) (core n g : Nat) (ws : List (Nat × BitVec 16 × BitVec 128)) (skip : Bool) : State :=
  let cut (w : Nat × BitVec 16 × BitVec 128) : Nat × BitVec 16 × BitVec 128 := if skip then (w.1, 0, w.2.2) else w
  let whole := (ws.filter fun w => w.2.1 = BitVec.allOnes 16).map cut
  let narrow := (ws.filter fun w => w.2.1 ≠ BitVec.allOnes 16).map cut
  let c0 := coreOf s core
  let c := if whole = [] then c0
    else { c0 with
           merge := if skip then c0.merge else discardMerge c0 (whole.map (·.1)),
           wrQueue := c0.wrQueue ++ [{ kind := .gateWrite n, issue := g, words := whole, tour := 64, reqs := [n] }] }
  let c := narrow.foldl (fun c w =>
    { c with rdQueue := c.rdQueue ++ [{ kind := .rmwRead, issue := g, words := [w], fwd := forwardWords c [w.1], tour := 64, reqs := [n] }],
             wrQueue := c.wrQueue ++ [{ kind := .rmwWrite, issue := g, words := [w], tour := 64, reqs := [n] }] }) c
  presentWrites (setCore s core c) core c0

/-- A window's 64 output words (R201); one with bytes of a skipped row has none to write (R302). -/
def windowWords (w : GateWindow) : List (Nat × BitVec 16 × BitVec 128) :=
  let cols := 64 / w.elt
  let row (r : Nat) : Nat := ((w.rows.find? fun x => x.1 = r).map fun x => x.2.1.toNat).getD 0
  let kept (i : Nat) : Bool := w.rows.all fun x => !(x.2.2 && 16 * i / w.elt ≤ x.1 && x.1 < (16 * i + 16) / w.elt)
  (List.range cols).flatMap fun c =>
    let bytes := (List.range (16 * w.elt)).map fun b => byteOf (row (b / w.elt)) (c * w.elt + b % w.elt)
    (List.range w.elt).map fun i =>
      ((w.base + c * w.pitch) / 16 + i, if kept i then BitVec.allOnes 16 else 0, BitVec.ofNat 128 (leNat ((bytes.drop (16 * i)).take 16)))

/-- The gateway drops the open window, if any, and the arriving write (R203); the writes it drops are answered. -/
def dropWindow (s : State) (cab core g part : Nat) (reqs : List Nat) : State :=
  let open_ := (cabOf s cab).window
  let s := mapCab s cab fun c => { c.flag 2 (now s) with window := none }
  let s := raiseFault s part ⟨1, 0, cab / 144, cabUnit s cab, none⟩
  (reqs ++ (open_.map (·.reqs)).getD []).foldl (fun s n => gateAnswer s core n (g + 10) id) s

/-- A write of a transpose window enters (R201 to R203). One of a job that has ended is discarded with its window. -/
def gateWindow (s : State) (cab core n g : Nat) (r : Req) (eng ctx : Nat) (elt base pitch row : Nat) : State :=
  if r.ended then gateAnswer s core n (g + 10) id else
  let fresh : GateWindow := ⟨eng, ctx, core, elt, base, pitch, [(row, r.data, r.skip)], r.part, [n]⟩
  match (cabOf s cab).window with
  | none => mapCab s cab fun c => { c with window := some fresh }
  | some w =>
    if (w.engine, w.ctx, w.core, w.elt, w.base, w.pitch) ≠ (eng, ctx, core, elt, base, pitch) then
      dropWindow s cab core g r.part [n]
    else
      let w := { w with rows := w.rows ++ [(row, r.data, r.skip)], reqs := w.reqs ++ [n] }
      if w.rows.length < 16 then mapCab s cab fun c => { c with window := some w }
      else
        let s := mapCab s cab fun c => { c with window := none }
        let c := coreOf s core
        let ws := windowWords w
        meetGroups (setCore s core { c with
            merge := discardMerge c ((ws.filter fun x => x.2.1 ≠ 0).map (·.1))
            wrQueue := c.wrQueue ++ [{ kind := .window, issue := g, words := ws, tour := 64, reqs := w.reqs }] }) core (ws.map (·.1))

/-- A request enters the gateway at wing time g and is presented to its core's channel (R200, R203, R208). -/
def gatePresent (s : State) (cab n g : Nat) (r : Req) : State :=
  match spaceOf s r.addr with
  | .archive core off =>
    let s := mapCab s cab fun c => { c with gateQueue := c.gateQueue.filter (·.1 ≠ n), gateLast := g }
    if (chanOf s (siteOfCore s core)).failed then
      gateAnswer (kernelFault s cab (coreInCab core) 0 0x06 0 0 g) core n (g + 10) fun x => { x with poison := true }
    else match r.kind, r.origin with
      | .window elt base pitch row, .engWrite e x _ => gateWindow s cab core n g r e x elt base pitch row
      | kind, _ =>
        let store := match kind with | .store => true | _ => false
        if store && (cabOf s cab).window.isSome then dropWindow s cab core g r.part [n]
        else match kind with
          | .load => gateRead s core n g (.gateRead n) ((blockWords off r.mask 0).map (·.1))
          | .atomic _ ops => gateRead s core n g (.gateAtomic n) (distinct ((gateGroups s ops).map (·.1 / 16)))
          | _ => gateWrite s core n g (blockWords off r.mask r.data) r.skip
  | _ => gateAnswer s (cab * 96) n (g + 10) fun x => { x with poison := true }

/-- The core that a request addresses has an issue to make in this GCLK, or an entry that leaves its merge buffer, which come first
(R193, R195). -/
def coreFirst (s : State) (r : Req) (j : Nat) : Bool :=
  match spaceOf s r.addr with
  | .archive core _ => (issueAt s core j).isSome || mergeDue (coreOf s core) (wtime s (wingOfCore core) j)
  | _ => false

/-- GATEWAY_REQUEST, R193, R200: one request in a GCLK, in the order they come off the crossing. -/
def execGatewayRequest (cab : CabRef) (j : Fin 7) (s : State) : Result :=
  let id := cabId cab
  let w := cab.wing.val
  let g := wtime s w j.val
  match (cabOf s id).gateQueue with
  | (n, t) :: _ =>
    match find s.net n with
    | some r => onlyIf (live s && edgeOk s w j.val && t ≤ g && (cabOf s id).gateLast < g && !coreFirst s r j.val) s (gatePresent s id n g r)
    | none => onlyIf (live s && edgeOk s w j.val) s (mapCab s id fun c => { c with gateQueue := c.gateQueue.drop 1 })
  | [] => .next s

/-! ### Idle checks (R206 to R208) -/

/-- Both directions of a site's channel have been free for a pass of 72 GCLK as the beat begins. -/
def passFree (s : State) (site : Nat) : Bool :=
  let g := wtime s (site / 1000) 0
  72 ≤ g && match (coreAtSite s site).bind (find s.cores) with
    | some c => channelFree c (g - 72)
    | none => true

/-- The channel's last pass ended 72 GCLK ago or more as the beat begins. -/
def passApart (s : State) (site : Nat) (c : Channel) : Bool :=
  match c.checkedAt with
  | some b => decide (72 ≤ (wingOf s (site / 1000)).k * (now s - b))
  | none => true

/-- IDLE_CHECK_PASS, R206 to R208: a pass that has ended as the beat begins, on a failed channel too; `failGa` and `failUl` bonds fail at the two interfaces. -/
def execIdleCheckPass (site : SiteRef) (failGa failUl : Nat) (s : State) : Result :=
  let id := siteId site
  let c := chanOf s id
  let on := edgeOk s (id / 1000) 0 && domOn s .cabinet (id / 100) && passFree s id && passApart s id c
  let c := { c with
    spareGa := if c.spareGa + failGa ≤ 8 then c.spareGa + failGa else c.spareGa
    spareUl := if c.spareUl + failUl ≤ 8 then c.spareUl + failUl else c.spareUl
    checkedAt := some (now s)
    dueAt := now s + 250000000 }
  let s' := setChannel s id c
  onlyIf (live s && on) s
    (if !(chanOf s id).failed && (8 < (chanOf s id).spareGa + failGa || 8 < (chanOf s id).spareUl + failUl) then markFailed s' id else s')

/-- IDLE_CHECK_LATE, R206: not completed 1 s after it fell due, on a cabinet site that is not switched off. -/
def execIdleCheckLate (site : SiteRef) (s : State) : Result :=
  let id := siteId site
  onlyIf (live s && (domOn s .cabinet (id / 100)) && (chanOf s id).dueAt + 250000000 ≤ now s) s
    (setCabStatus s (cabAtSite s id) 3)

/-! ### Rotations (R31 to R40) -/

/-- The port's DMA engine takes a write to the host (R286, R327): an entry goes to its ring's tail, and a flit of an engine has been sent when
it is acknowledged. -/
def sendHost (s : State) (n pc : Nat) (r : Req) : State :=
  match r.origin with
  | .registrar id =>
    let s := { s with net := drop s.net n }
    match find s.rings id with
    | some x => writeRingEntry s id x r.data
    | none => s
  | _ => setReq s n { r with route := [], stage := .answered (pc + 8 + 24 * r.hops) }

/-- A raw operation's turn at a slice's input stage: it goes on to the controller in the curator's unscheduled class (R33, R252, R414). -/
def sendRaw (s : State) (n pc : Nat) (r : Req) : State :=
  let P := r.addr / 2 ^ 30
  let s := { s with net := drop s.net n }
  setPch s P { pchOf s P with queue := (pchOf s P).queue ++
    [{ slice := sliceOfPch P, kind := .raw, arrive := pc + 8, scheduled := false, off := r.addr % 2 ^ 30 }] }

/-- A request past its last rotated resource: the slice's input, a near-bank window, or the crossing to a gateway. -/
def leaveRoute (s : State) (n pc : Nat) (r : Req) : State :=
  if r.origin = .curator then sendRaw s n pc r
  else match r.kind, spaceOf s r.addr with
  | .hostRead, _ => emit (setReq s n { r with route := [], stage := .slice pc }) (.hostRead r.cls r.addr 64)
  | .hostWrite, _ => sendHost s n pc r
  | _, .archive core _ =>
    let cab := cabOfCore core
    let t := wingAt s (wingOfCore core) (beatUp pc) + 10
    mapCab (setReq s n { r with route := [], stage := .gateway }) cab fun c => { c with gateQueue := c.gateQueue ++ [(n, t)] }
  | _, .window P off =>
    let status := off / 64 = 0x840 && r.mask.toNat % 2 ^ 8 = 0 && r.mask.toNat / 2 ^ 12 = 0
      && (match r.kind with | .load => true | _ => false)
    if inDomainReset s 3 (P / 64) then setReq s n (dropAtEdge r pc)
    else if domOn s .conservator P || status then setReq s n { r with route := [], stage := .window pc none }
    else
      let u := usableAt s .conservator P
      let c := csvOf s P
      let s := setCsv (demandWake s .conservator P) P { c with wakeWait := satAdd c.wakeWait (u - now s) }
      setReq s n { r with route := [], stage := .window (pc + 5 * (u - now s)) (some u) }
  | _, _ => setReq s n { r with route := [], stage := .slice pc, entered := pc }

/-- ROTATION_SLOT_TAKE, R35, R39, R444: a waiting request is taken by the resource at which it waits; at the edge of a domain in
reset it is dropped. -/
def execRotationSlotTake (req : Nat) (j : Fin 5) (s : State) : Result :=
  let pc := pclk s j.val
  match find s.net req with
  | none => .next s
  | some r =>
    match r.waits, r.route with
    | some (k, i, c), _ :: rest =>
      let s' := useSlot (countSlot s r k i c pc) k i pc
      let at_ := if k = 2 then pc + 24 else pc
      onlyIf (live s && takes s req r pc) s (match rest with
        | [] => leaveRoute s' req pc r
        | next :: _ =>
          if edgeClosed s (k, i) next then setReq s' req (dropAtEdge r at_)
          else setReq s' req { r with route := rest, stage := .route at_ })
    | _, _ => .next s

end Sys2Proof.Machine
end

