-- ==== Sys2Proof/Machine/Resets.lean ====
section
/-! DEFINITION. The reset domains, escalation, the deaccessioned state, rail faults and rail shutdowns (R303 to R305, R369,
R403, R442 to R449). -/

namespace Sys2Proof.Machine

/-! ### What a reset takes away (R443, R444) -/

def domCode : DomainKind → Nat
  | .hostPort => 1 | .stack => 2 | .vault => 3 | .curator => 4

/-- Duration of a reset in beats (R442). -/
def domBeats : DomainKind → Nat
  | .hostPort => 2500 | .stack => 25000 | .vault => 25000 | .curator => 125000000

/-- The stack inside which a request now lies, if any. -/
def reqStack (s : State) (r : Req) : Option Nat :=
  match r.stage with
  | .route _ => r.route.head?.bind fun x => if x.1 = 5 then none else some (stackOfRes x.1 x.2)
  | .slice _ => if r.kind = .hostRead then none else some ((routeTo s 0 r.addr).2)
  | .inSlice => some ((routeTo s 0 r.addr).2)
  | .gateway => some ((routeTo s 0 r.addr).2)
  | .window _ _ => some ((routeTo s 0 r.addr).2)
  | .egress _ => match r.origin with | .core c _ _ => some (stackOfCore c) | _ => none
  | _ => none

/-- Requests inside a stack are neither drained nor answered; a core's own requests end with it (R444). -/
def dropRequests (s : State) (st : Nat) : State :=
  { s with net := s.net.filterMap fun x =>
      let mine : Bool := match x.2.origin with | .core c _ _ => stackOfCore c = st | _ => false
      if mine then none
      else if reqStack s x.2 = some st then some (x.1, { x.2 with stage := .lost })
      else some x }

/-- Requests of a descriptor that have left the stack and will still be answered. -/
def stillOut (s : State) (ids : List Nat) : List Nat :=
  ids.filter fun n => match find s.net n with
    | some r => r.stage ≠ .lost
    | none => false

/-- An engine loses its contexts; ring-driven descriptors complete under R305. -/
def resetEngine (s : State) (e : Nat) : State :=
  let g := engOf s e
  setEng s e { g with
    ctx := g.ctx.filterMap fun c =>
      if c.2.job.ring.isNone then none
      else some (c.1, { c.2 with abandoned := some (c.2.abandoned.getD (now s)),
                                 openReads := stillOut s c.2.openReads, openWrites := stillOut s c.2.openWrites })
    queue := g.queue.filter fun q => q.2.ring.isSome }

/-- A slice loses its lines, write-back entries, trackers and fills. -/
def resetSlice (x : Slice) : Slice := { x with frames := [], wb := [], trackers := [], fills := [] }

def stackOfCell (codecBytes perStack a : Nat) : Nat := a / codecBytes / perStack

/-- A stack's reset (R443). -/
def loseStack (s : State) (st : Nat) : State :=
  let s := dropRequests s st
  let s := (List.range 6).foldl (fun s e => resetEngine s (6 * st + e)) s
  { s with
    slices := s.slices.map fun x => if x.1 / 64 = st then (x.1, resetSlice x.2) else x
    pchs := s.pchs.map fun x => if x.1 / 128 = st then (x.1, { x.2 with queue := [] }) else x
    cores := s.cores.filter fun c => stackOfCore c.1 ≠ st
    cabinets := s.cabinets.map fun c =>
      if c.1 / 144 = st then (c.1, { c.2 with busy := false, waiting := [], window := none, gateQueue := [] }) else c
    clm := s.clm.filter fun c => stackOfCell 2 (16000 * 32768) c.1 ≠ st
    flits := s.flits.filter fun f => stackOfCore f.2.source ≠ st }

/-- A request lies inside a host port: it waits for the port's DMA engine, an entry of the registrar among them, or has gone to the host and is not answered. -/
def insidePort (r : Req) (p : Nat) : Bool :=
  match r.stage, r.kind with
  | .route _, _ => r.route.head? = some (5, p)
  | .slice _, .hostRead => r.cls = p
  | _, _ => false

/-- Entries of a ring that its port's reset discards: those held under R329 and those that wait for the port's DMA engine (R443, R444). -/
def ringLoses (s : State) (id : Nat) (r : Ring) : Nat := r.held.length + entriesOut s id

/-- The next entry of the ring says that entries before it were lost (R327, R329, R331). -/
def loseRing (s : State) (id : Nat) (r : Ring) : Ring :=
  if ringLoses s id r = 0 then r else { r with held := [], overflow := true, lost := r.lost + ringLoses s id r }

/-- A host port's reset (R443, R444): its counters, held entries and outstanding host reads. What BAR2 has sent into the fabric goes
on there, and a read's data finds no port to complete it. -/
def losePort (s : State) (p : Nat) : State :=
  let lost := (s.rings.filter fun r => portOfRing r.1 = p).map fun r => (r.2.part, ringLoses s r.1 r.2)
  let s := lost.foldl (fun s x => mapPart s x.1 fun q => { q with rgsLost := satAdd q.rgsLost x.2 }) s
  let gone := (s.net.filter fun x => insidePort x.2 p).map (·.1)
  let s := { s with
    rings := s.rings.map fun r => if portOfRing r.1 = p then (r.1, loseRing s r.1 r.2) else r
    net := (s.net.filter fun x => x.1 ∉ gone).map fun x => match x.2.origin with
      | .bar2 q _ => if q = p then (x.1, { x.2 with origin := .bar2 p 1024 }) else x
      | _ => x
    engines := s.engines.map fun e => (e.1, { e.2 with ctx := e.2.ctx.map fun c =>
      (c.1, { c.2 with openReads := c.2.openReads.filter (· ∉ gone), openWrites := c.2.openWrites.filter (· ∉ gone) }) }) }
  mapPort s p fun x => { x with
    bar2Rd := 0, bar2Wr := 0, slotWait := 0, reclaimed := 0, refused := 0, dbDropped := 0
    up := false, rate := 0, width := 0, flit := false
    fetchQueue := match x.fetch with
      | some f => if f.ring ∈ x.fetchQueue then x.fetchQueue else f.ring :: x.fetchQueue
      | none => x.fetchQueue
    fetch := none }

/-- A conservator's later CCLKs with CCLK stopped from beat b for a vault's reset (R379): what it has begun goes on after the reset. -/
def Csv.pause (c : Csv) (b : Nat) : Csv :=
  let f (t : Nat) : Nat := if 4 * b ≤ t then t + 4 * domBeats .vault else t
  { c with free := f c.free, unitFree := f c.unitFree, finalAt := f c.finalAt
           xReady := c.xReady.map fun x => (x.1, f x.2)
           scores := c.scores.map fun x => (f x.1, x.2)
           unit := c.unit.map fun u => { u with issue := u.issue + 4 * domBeats .vault } }

/-- The request has taken its window in a vault: it lies inside the vault (R444). A write-back and a request that waits for its window
stand in the controller. -/
def inVault (c : CtrlReq) : Bool := c.window.isSome && match c.kind with | .writeBack _ => false | _ => true

/-- The requests inside a vault: those with a window, the accesses that wait for a fetch with one, and window accesses. -/
def vaultRequests (s : State) (v : Nat) : List Nat :=
  (s.pchs.flatMap fun x => if x.1 / 64 = v then (x.2.queue.filter inVault).flatMap fun c => match c.kind with
      | .uncached n => [n]
      | .fetch line => ((sliceOf s c.slice).fills.filter (·.lineAddr = line)).flatMap fun f => f.waiters.map (·.req)
      | .writeBack _ => []
      | .raw => []
    else [])
  ++ (s.net.filter fun x => match x.2.stage, spaceOf s x.2.addr with
      | .window _ _, .window P _ => decide (P / 64 = v)
      | _, _ => false).map (·.1)

/-- A vault's reset (R443, R444): bursts, command queues and the requests inside it; CCLK stops for its length (R379). A fill whose fetch
it loses never ends. -/
def loseVault (s : State) (v : Nat) : State :=
  let gone := vaultRequests s v
  { s with
    net := s.net.map fun x => if x.1 ∈ gone then (x.1, { x.2 with stage := .lost }) else x
    pchs := s.pchs.map fun x => if x.1 / 64 = v then (x.1, { x.2 with queue := x.2.queue.filter fun c => !inVault c }) else x
    csvs := s.csvs.map fun c =>
      if c.1 / 64 = v then
        (c.1, { c.2.pause (now s) with bursts := [], head := 0, tail := 0, pending := 0, state := .halted, haltAsked := false })
      else c }

/-! ### The end of a mailbox command (R342 to R345, R353) -/

/-- A row of the command table. Flags: 0 All, 1 Ready, 2 Ready or deaccessioned. States: 0 Any, 1 ABSENT, 2 FORMING, 3 FORMING or
COMMITTED, 4 FORMING or COMMITTED and Idle, 5 COMMITTED and Idle, 6 COMMITTED, 7 COMMITTED and BOUND. -/
structure CmdRow where
  flags : Nat
  states : Nat
  moves : Bool
  t : Nat
  legacy : Bool
  /-- Defined bits of each word of ARGS (R354). -/
  args : List Nat

def cmdRow (op : Nat) : Option CmdRow :=
  match op with
  | 0x001 => some ⟨0, 0, false, 200, true, []⟩
  | 0x002 => some ⟨0, 0, false, 400, true, []⟩
  | 0x003 => some ⟨0, 0, false, 300, true, []⟩
  | 0x004 => some ⟨0, 0, false, 600, true, []⟩
  | 0x005 => some ⟨0, 0, false, 1200, false, [0x3FFF]⟩
  | 0x010 => some ⟨1, 0, true, 500, true, [0xFF]⟩
  | 0x011 => some ⟨1, 0, true, 500, true, [0xFFF000F]⟩
  | 0x012 => some ⟨1, 4, true, 2000, true, [0x7FF]⟩
  | 0x100 => some ⟨1, 1, true, 150000, false, [0xFFFFFFFF, 0x7FFFFFF, 0xFFFFFFFF, 0xFFFFFFFF, 0xFFFFFFFF, 0xFFFFFFFF]⟩
  | 0x101 => some ⟨1, 2, true, 5000, false, []⟩
  | 0x102 => some ⟨1, 5, true, 160000, true, []⟩
  | 0x103 => some ⟨1, 3, true, 400000, false, []⟩
  | 0x200 => some ⟨1, 4, true, 3000, true, [0xFFF, 0x3FF]⟩
  | 0x201 => some ⟨1, 4, true, 600000, true, [0x3FF]⟩
  | 0x202 => some ⟨1, 4, true, 600000, true, [0x103FF]⟩
  | 0x203 => some ⟨1, 5, true, 4000, true, [0x103FF]⟩
  | 0x300 => some ⟨1, 3, true, 1500, true, [0xFFFFFF, 0x1FFFFFFF, 0xFFFFFFFF, 0xFFFFFFFF]⟩
  | 0x301 => some ⟨1, 4, true, 3000, true, [0x3FFFF]⟩
  | 0x400 => some ⟨1, 6, true, 20000, true, [0xFFFFFFFF, 0xFFFFFFFF, 0xFFFFFFFF]⟩
  | 0x401 => some ⟨1, 7, true, 8000, true, [0xF]⟩
  | 0x500 => some ⟨1, 0, true, 50000, true, List.replicate 8 0xFFFFFFFF⟩
  | 0x600 => some ⟨1, 0, false, 30000, true, [0xFF0F]⟩
  | 0x700 => some ⟨2, 0, false, 1000000, false, [0xFFFFFF, 0, 0, 0] ++ List.replicate 48 0xFFFFFFFF⟩
  | 0x701 => some ⟨2, 0, true, 3000000000, true, [0xFFFFFFFF, 0xFFFFFFFF, 0xFFFFFFFF]⟩
  | 0x702 => some ⟨1, 0, true, 200000, true, []⟩
  | _ => none

def opcodeOf (b : SMap Word) : Nat := (look b 0 0).toNat % 65536

/-- The beat of a command's exact end. -/
def endBeat (r : Running) : Nat := r.start + r.t / 4

/-- A command that takes its effect before its end: NB_MODE and DOMAIN_RESET. -/
def actsEarly (r : Running) : Bool := opcodeOf r.block = 0x203 || opcodeOf r.block = 0x600

/-- Check 1 of R348: its status where it fails. -/
def flagsFail (s : State) (op : Nat) : Option Nat :=
  let needs := match cmdRow op with
    | some r => r.flags
    | none => 0
  if (s.boot.tripped && needs ≠ 0) || (s.boot.deaccessioned && needs = 1) then
    some (if s.boot.deaccessioned then 8 else 1)
  else none

/-- The status of check 1, where it fails a command after its start (R350). A command whose changes stand at its end has passed. -/
def lateStatus (s : State) (r : Running) : Option Nat :=
  if r.applied && !actsEarly r then none else flagsFail s (opcodeOf r.block)

/-- Partition that a command names; 0 in the legacy layout (R345). -/
def runningPart (s : State) (r : Running) : Nat := if s.boot.legacy then 0 else (look r.block 1 0).toNat % 8

/-- The partition whose RUN and STOP a command delays: that of a command about one partition (R344, R350). -/
def namedPart (s : State) (r : Running) : Option Nat :=
  let op := opcodeOf r.block
  if s.boot.legacy || op = 4 || op = 0x12 || (0x100 ≤ op && op < 0x500) then some (runningPart s r) else none

def PartState.code : PartState → Nat
  | .absent => 0 | .forming => 1 | .committed => 2

/-- The response block. -/
def responseWords (s : State) (r : Running) (status check : Nat) (results : SMap Word) : SMap Word :=
  let p := partOf s (runningPart s r)
  let flags := 2 ^ 16 * b2n s.boot.tripped + 2 ^ 17 * b2n s.boot.deaccessioned + 2 ^ 18 * PartState.code p.state
    + 2 ^ 20 * p.runState.code
  let e := s.curator.epoch.toNat
  let w (x : Nat) : Word := BitVec.ofNat 32 x
  if s.boot.legacy then
    [(0, look r.block 0 0), (1, w (status + flags + 2 ^ 24 * check)), (2, w e), (3, w (e / 2 ^ 32))]
      ++ (results.filter fun x => x.1 < 12).map fun x => (x.1 + 4, x.2)
  else
    [(0, look r.block 0 0), (1, w (status + 2 ^ 8 * check + flags)), (2, w e), (3, w (e / 2 ^ 32)), (4, w r.start),
      (5, w (r.start / 2 ^ 32)), (6, w (4 * (r.start - r.arrived))), (7, w r.t)]
      ++ (results.filter fun x => x.1 < 56).map fun x => (x.1 + 8, x.2)

/-- The response is written, STATE becomes DONE and the channel's interrupt goes out (R342, R465). -/
def respondWith (s : State) (r : Running) (status check : Nat) (results : SMap Word) : State :=
  let c := chanBlock s r.chan
  let s := setChan s r.chan { c with rsp := (responseWords s r status check results).filter fun x => x.2 ≠ 0, state := .done }
  let s := { s with curator := { s.curator with running := none, lastPart := namedPart s r
                                                freeAt := if now s = endBeat r then r.start + ceilDiv r.t 4 else now s } }
  if !c.irqEn then s
  else if r.chan = 32 then raiseIbi s 0x01
  else sendVector s (r.chan / 4) c.vector.toNat

/-- A command that changes nothing takes back a mode write it has made (R349, R350, R359). -/
def undoCommand (s : State) (r : Running) : State :=
  if (look r.block 0 0).toNat % 65536 = 0x203 ∧ r.status = 0 ∧ r.applied then
    let a := (look r.block (if s.boot.legacy then 1 else 4) 0).toNat
    setPch s (a % 1024) { pchOf s (a % 1024) with modeWrite := none, nbMode := !a.testBit 16 }
  else s

/-- A command answers with its own verdict, and moves the epoch where its kind does (R349, R351). -/
def endCommand (s : State) (r : Running) : State :=
  let moves : Bool := match cmdRow (opcodeOf r.block) with | some x => x.moves && r.status = 0 | none => false
  respondWith (if moves then moveEpoch s else s) r r.status r.check r.results

/-- The command that executes when the curator domain is reset is lost: its response says TIMED_OUT, and it changes nothing (R343,
R443). One whose changes have been made has reached its end, and answers as it would. -/
def loseCommand (s : State) : State :=
  match s.curator.running with
  | some r => if r.applied && !actsEarly r then endCommand s r else respondWith (undoCommand s r) r 5 0 []
  | none => s

def loseDomain (s : State) : DomainKind → Nat → State
  | .hostPort, i => losePort s i
  | .stack, i => loseStack s i
  | .vault, i => loseVault s i
  | .curator, _ =>
    let s := loseCommand s
    { s with power := { s.power with forModel := false } }

/-! ### Whom a reset faults (R442) -/

def holdsGranule (s : State) (p : Nat) (f : Granule → Bool) : Bool := s.granules.any fun g => g.2.part = p && f g.2

/-- A partition has a descriptor in an engine of plinth st. -/
def holdsDescriptor (s : State) (p st : Nat) : Bool :=
  (List.range 6).any fun e =>
    let g := engOf s (6 * st + e)
    g.ctx.any (·.2.job.part = p) || g.queue.any (·.2.part = p)

def resetFaults (s : State) (k : DomainKind) (i p : Nat) : Bool :=
  let x := partOf s p
  owned x && match k with
    | .hostPort => x.ports.getLsbD i
    | .stack => wingsHeld x i ≠ 0 || x.waysOn ≠ 0 || x.ways ≠ 0
        || holdsGranule s p (fun g => g.kind = .interleaved || g.pch / 128 = i) || holdsDescriptor s p i
    | .vault => holdsGranule s p fun g => g.kind = .interleaved || g.pch / 64 = i
    | .curator => false

/-! ### Escalation and the deaccessioned state (R448, R449) -/

/-- Counted resets in the window at this beat. -/
def inWindow (s : State) : Nat :=
  (s.esc.resets.filter fun b => now s - b < 250000000 * s.esc.windowS.toNat).length

/-- Entry into the deaccessioned state (R449). -/
def deaccession (s : State) (kind index : Nat) : State :=
  let s := { s with boot := { s.boot with deaccessioned := true, deaccOffAt := some (now s + 2500) }, shelf := [], dram := [] }
  let s := (List.range 8).foldl (fun s p => raiseFault s p ⟨8, 3, 0, 0, none⟩) s
  postEventAll s 0x0A 4 [kind, index]

/-- A reset of causes 1 to 8 is counted, unless the module is deaccessioned (R448, R449). -/
def countReset (s : State) : State :=
  let s := { s with esc := { s.esc with resets := s.esc.resets ++ [now s], total := satAdd s.esc.total 1 } }
  { s with esc := { s.esc with escCount := BitVec.ofNat 4 (min (inWindow s) 15) } }

/-- The fault source of a reset (R477). -/
def resetFault (k : DomainKind) (i cause : Nat) : FaultRec :=
  let stack := match k with | .vault => i / 2 | .curator => 0 | _ => i
  ⟨9, cause, stack, 256 * domCode k + i, none⟩

/-- Reset a domain (R442 to R448). A domain already in reset starts nothing further (R446). The reset's own
job faults come before those of the deaccessioned state that it may bring (R448, R449, R477). -/
def resetDomain (s : State) (k : DomainKind) (i cause : Nat) (f : FaultRec) : State :=
  if inDomainReset s (domCode k) i then s
  else
    let hit := (List.range 8).filter (resetFaults s k i)
    let s := loseDomain s k i
    let s := { s with
      resets := put s.resets (256 * domCode k + i) (now s + domBeats k)
      esc := { s.esc with lastKind := BitVec.ofNat 3 (domCode k), lastIndex := BitVec.ofNat 8 i, lastCause := BitVec.ofNat 4 cause } }
    let counted := decide (1 ≤ cause ∧ cause ≤ 8) && !s.boot.deaccessioned
    let s := if counted then countReset s else s
    let s := hit.foldl (fun s p => raiseFault (postEvent s p 7 [domCode k, i, inWindow s]) p f) s
    if counted && decide (s.esc.count.toNat ≤ inWindow s) then deaccession s (domCode k) i else s

/-- Reset with the fault source of R477 for the cause. -/
def resetFor (s : State) (k : DomainKind) (i cause : Nat) : State := resetDomain s k i cause (resetFault k i cause)

/-- HOST_PORT_RESET, R442, R443. -/
def execHostPortReset (port : Fin 8) (cause : BitVec 4) (s : State) : Result :=
  onlyIf (live s) s (resetFor s .hostPort port.val cause.toNat)

/-- STACK_RESET, R442, R443. -/
def execStackReset (stack : Fin 8) (cause : BitVec 4) (s : State) : Result :=
  onlyIf (live s) s (resetFor s .stack stack.val cause.toNat)

/-- VAULT_RESET, R442, R443. -/
def execVaultReset (vault : Fin 16) (cause : BitVec 4) (s : State) : Result :=
  onlyIf (live s) s (resetFor s .vault vault.val cause.toNat)

/-- CURATOR_RESET, R442, R443. -/
def execCuratorReset (cause : BitVec 4) (s : State) : Result := onlyIf (live s) s (resetFor s .curator 0 cause.toNat)

/-! ### PCIe resets (R311) -/

/-- PCIE_FUNCTION_LEVEL_RESET, R311: cause 9, not counted. -/
def execPcieFunctionLevelReset (port : Fin 8) (s : State) : Result := onlyIf (live s) s (resetFor s .hostPort port.val 9)

/-- PCIE_HOT_RESET, R311. -/
def execPcieHotReset (port : Fin 8) (s : State) : Result := onlyIf (live s) s (resetFor s .hostPort port.val 9)

/-- PCIE_LINK_DOWN, R311. -/
def execPcieLinkDown (port : Fin 8) (s : State) : Result := onlyIf (live s) s (resetFor s .hostPort port.val 9)

/-- PCIE_LINK_UP, R442: the link comes up once the port is out of reset. -/
def execPcieLinkUp (port : Fin 8) (rate : BitVec 3) (width : BitVec 5) (flit : Bool) (s : State) : Result :=
  onlyIf (live s && !inDomainReset s 1 port.val) s
    (mapPort s port.val fun p => { p with up := true, rate := rate, width := width, flit := flit })

/-- PERST_RELEASE, R430: configuration requests are answered by 25,000,000 beats from here. -/
def execPerstRelease (port : Fin 8) (s : State) : Result :=
  .next (mapPort s port.val fun p =>
    { p with perstReleased := true, configBy := (if s.sup.inReset then 0 else now s) + 25000000 })

/-! ### Rails (R369, R403, R449) -/

/-- The rails that R403 switches off: wing logic, archive array, vault base-die logic, vault DRAM core and vault I/O. -/
def coldRails : List Nat := (List.range 144) ++ ((List.range 48).map (152 + ·))

def railsOff (s : State) (l : List Nat) : State :=
  { s with sup := { s.sup with rails := l.foldl (fun m r => put m r false) s.sup.rails
                               railsDown := s.sup.railsDown.filter (· ∉ l) } }

/-- Rails go off: wings lose their clocks, and shelves and vaults their contents. -/
def coldShutdown (s : State) : State :=
  let s := railsOff s coldRails
  { s with wings := s.wings.map fun w => (w.1, { w.2 with clock := .off, railOn := false, k := 0, kNext := 0, gOff := 0 }),
           cabSites := [], bankGroups := [], csvDoms := [], shelf := [], dram := [] }

/-- DEACCESSION_RAIL_SHUTDOWN, R449. -/
def execDeaccessionRailShutdown (s : State) : Result :=
  onlyIf (live s && s.boot.deaccOffAt = some (now s)) s (coldShutdown { s with boot := { s.boot with deaccOffAt := none } })

/-- TRIP_RAIL_SHUTDOWN, R403. -/
def execTripRailShutdown (s : State) : Result :=
  onlyIf (live s && s.boot.tripOffAt = some (now s)) s (coldShutdown { s with boot := { s.boot with tripOffAt := none } })

/-- Module reset is asserted: everything starts as after power-on but for the module flash, the fuses, the trip latch,
CLK_LAST_CAUSE (R441), the cycle counters of R406, the pins, and the model's own records. -/
def enterReset (s : State) : State :=
  { State.reset with
    sup := { s.sup with inReset := true, rails := if s.sup.below20 || s.sup.railOut then [] else [(209, true)], railsDown := [] }
    boot := { tripped := s.boot.tripped, tripRegion := s.boot.tripRegion, clkCause := s.boot.clkCause }
    flash := s.flash
    fuses := s.fuses
    ports := s.ports.map fun p =>
      (p.1, { perstReleased := p.2.perstReleased, configBy := if p.2.perstReleased then 25000000 else 0 })
    thermal := { cycles := s.thermal.cycles.map fun c => (c.1, { c.2 with unwritten := c.2.unwritten.map fun _ => 0 }) }
    jtag := s.jtag
    free := s.free
    out := s.out
    pending := s.pending }

/-- Module reset for a cause other than MOD_RST_N and loss of input power does not end the deaccessioned state (R376, R451). -/
def pllReset (s : State) : State :=
  let t := enterReset s
  { t with boot := { t.boot with deaccessioned := s.boot.deaccessioned } }

/-- Loss of input power: module reset, with what only the always-on domain has kept; the trip latch is held (R369, R376, R405,
R406). -/
def losePower (s : State) : State :=
  let t := enterReset s
  { t with
    sup := { t.sup with railOut := true, pllOut := true, rails := [], tapReset := true, scan := 0 }
    boot := { t.boot with clkCause := 0 }
    thermal := {}
    jtag := .idcode }

/-- A rail is on: only a rail that is on can be in fault, and a wing rail goes off with its wing (R59, R369). -/
def railIsOn (s : State) (r : Nat) : Bool := if r < 128 then (wingOf s r).railOn else look s.sup.rails r false

/-- The smallest domain that contains a rail; none for the always-on rail (R368, R369). -/
def railDomain (r : Nat) : Option (DomainKind × Nat) :=
  if r < 128 then some (.stack, r / 16)
  else if r < 144 then some (.stack, (r - 128) / 2)
  else if r < 152 then some (.stack, r - 144)
  else if r < 168 then some (.vault, r - 152)
  else if r < 184 then some (.vault, r - 168)
  else if r < 200 then some (.vault, r - 184)
  else if r < 208 then some (.hostPort, r - 200)
  else if r = 208 then some (.curator, 0)
  else none

def switchRail (s : State) (r : Nat) (on : Bool) : State :=
  if r < 128 then setWing s r { wingOf s r with railOn := on } else { s with sup := { s.sup with rails := put s.sup.rails r on } }

/-- A domain's reset ends: the rails that faults switched off are up again (R369). -/
def railsBack (s : State) (k : DomainKind) (i : Nat) : State :=
  let mine (r : Nat) : Bool := railDomain r = some (k, i)
  let t := (s.sup.railsDown.filter mine).foldl (fun s r => switchRail s r true) s
  { t with sup := { t.sup with railsDown := t.sup.railsDown.filter fun r => !mine r } }

/-- The VPS switches a rail off, up to the end of its domain's reset. -/
def dropRail (s : State) (r : Nat) : State :=
  let t := switchRail s r false
  { t with sup := { t.sup with railsDown := t.sup.railsDown ++ [r] } }

/-- RAIL_FAULT, R369: the rail goes off and comes back with the reset of its smallest domain, by which an archive array rail's shelves keep
their words (R191; DEDUCED, log entry 189); the always-on rail's fault acts as loss of input power. -/
def execRailFault (rail : Fin 210) (s : State) : Result :=
  let r := rail.val
  let s' := { s with
    power := { s.power with railFaultFlag := true, railFault := setBit s.power.railFault r
                            setAt := put (put s.power.setAt 0 (now s)) (32 + r) (now s) }
    boot := s.boot.alert 2 (now s) }
  let s' := match railDomain r with
    | some d => resetFor (dropRail s' r) d.1 d.2 7
    | none => losePower s'
  onlyIf (live s && railIsOn s r) s s'

/-! ### What the live steps list (R58, R59, R370, R371) -/

/-- Physical index of a domain that a wake entry names: a cabinet entry names a logical cabinet. -/
def physDom (s : State) (k : SwKind) (i : Nat) : Nat :=
  match k with
  | .cabinet => i / 10 * 10 + cabSiteOf s (i / 10 * 9 + i % 10)
  | _ => i

/-- The partition may wake the domain (R371). -/
def mayWake (s : State) (p : Nat) (k : SwKind) (i : Nat) : Bool :=
  let x := partOf s p
  i < SwKind.count k && match k with
    | .wing => x.wings.getLsbD i
    | .cabinet => x.wings.getLsbD (i / 10) && i % 10 < logicalCabs s (i / 10)
    | .bankGroup => x.wings.getLsbD (i / 2)
    | .conservator => ownerOfPch s i = some p
    | .slice => true
    | .engine => true

/-- A step of partition p lists a domain, by physical index. -/
def stepLists (s : State) (p : Nat) (l : LiveStep) (k : SwKind) (i : Nat) : Bool :=
  l.step.wakes.any fun e => e.kind = SwKind.code k && mayWake s p k e.index && physDom s k e.index = i

def optLists (s : State) (p : Nat) (l : Option LiveStep) (k : SwKind) (i : Nat) : Bool :=
  match l with
  | some l => stepLists s p l k i
  | none => false

/-- An executing or committed step of some partition lists the domain (R59). -/
def anyLists (s : State) (k : SwKind) (i : Nat) : Bool :=
  (List.range 8).any fun p => match (partOf s p).run with
    | some r => optLists s p r.exec k i || optLists s p r.next k i
    | none => false

/-- The executing step of a conservator's partition lists it (R385). -/
def csvListed (s : State) (P : Nat) : Bool :=
  match ownerOfPch s P with
  | some p => match (partOf s p).run with
    | some r => optLists s p r.exec .conservator P
    | none => false
  | none => false

/-- The executing step lists the conservator, or a committed one that starts in the present beat does: at its start beat, or at the
boundary at which a step that overruns lets it start (R61). -/
def csvListedNow (s : State) (P : Nat) : Bool :=
  match ownerOfPch s P with
  | some p => match (partOf s p).run with
    | some r => optLists s p r.exec .conservator P ||
        optLists s p (r.next.filter fun l => l.start ≤ now s && now s % 4 = 0) .conservator P
    | none => false
  | none => false

/-- One beat of a conservator that no executing step lists (R385). -/
def meterCsv (s : State) (P : Nat) : State :=
  match ownerOfPch s P with
  | some p => charge s p (152 + P / 64) 1200
  | none => s

/-! ### Job faults and the units (R63, R265, R305, R337) -/

/-- The conservators of a partition that are not OFF halt, with CSV_FAULT.JOB set; bursts continue (R265). -/
def haltCsvs (s : State) (p : Nat) : State :=
  s.csvDoms.foldl (fun t d =>
    if d.2.state = .on && ownerOfPch s d.1 = some p then
      let c := csvOf t d.1
      setCsv t d.1 { c.faultFlag 2 (cclk s 0) with state := .halted, haltAsked := false }
    else t) s

/-- Record a cause in an engine's CAUSE register if it reads 0, and set its STATUS bit, in beat b (R281). Bits of `status` are REFUSED,
POISONED, TIMEOUT, WAKE_HIT, HOST_ERROR and ABANDONED. -/
def recordCause (g : Engine) (ctx cause : Nat) (tag : BitVec 16) (b : Nat) : Engine :=
  let bit := if cause ≤ 6 then 0 else if cause = 7 then 1 else if cause = 8 then 4 else if cause = 9 then 2 else 5
  let g := g.flag bit b
  if g.cause = 0 then { g with cause := BitVec.ofNat 8 cause, causeCtx := BitVec.ofNat 4 ctx, causeTag := tag } else g

/-- An engine's descriptor TAG. -/
def EngJob.tag (j : EngJob) : BitVec 16 := BitVec.ofNat 16 (bits j.desc.toNat 16 16)

/-- Post a ring-driven descriptor's completion on its submission ring's CQ, at PCLK pc (R326, R327). Its TAG is the submission
descriptor's, which R324 returns in every completion of it; the engine descriptor's own TAG goes to CAUSE (R280; DEDUCED: the entry has
one TAG field). -/
def engineComplete (s : State) (j : EngJob) (status cause beat pc : Nat) : State :=
  match j.ring with
  | none => s
  | some (sq, tag, head) =>
    match find s.rings sq with
    | some r => postEntryAt s r.cq (completionBlock s j.part 4 status tag sq head.toNat cause [0, 0, 0, 0, 0] 0 beat) pc
    | none => s

/-- Every engine abandons a partition's descriptors from the beat after F (R305). Those that wait to be taken complete at
F + 1. -/
def abandonAll (s : State) (p : Nat) : State :=
  { s with engines := s.engines.map fun e =>
      let g := e.2
      let waiting := g.queue.filter fun q => q.2.part = p && q.2.ring.isSome
      (e.1, { g with
        ctx := g.ctx.map fun c =>
          if c.2.job.part = p && c.2.abandoned.isNone then (c.1, { c.2 with abandoned := some (now s) }) else c
        queue := g.queue.filter (·.2.part ≠ p)
        done := g.done ++ waiting.map fun q => (q.2, 7, 0x0A, now s + 1) }) }

/-- DOMAIN_RESET_END, R442, R443: at the end of the reset's duration; a curator reset lasts up to its limit. -/
def execDomainResetEnd (kind : DomainKind) (index : Nat) (s : State) : Result :=
  match find s.resets (256 * domCode kind + index) with
  | some e =>
    onlyIf (live s && (e = now s || (kind = .curator && now s ≤ e))) s
      (railsBack { s with resets := drop s.resets (256 * domCode kind + index) } kind index)
  | none => .next s

end Sys2Proof.Machine
end

