-- ==== Sys2Proof/Machine/Slices.lean ====
section
/-! DEFINITION. The vault cache (R212 to R243). A slice applies its operations at their turn, in the order in which they enter
its input stage (R225); the controller's windows fix only when the answers come. -/

namespace Sys2Proof.Machine

/-! ### Stored units and lines (R221, R242, R409) -/

/-- Check bits of a 32 B unit: four SEC-DED codes over 64 bits (R242). -/
def unitCheck (d : Nat) : Nat :=
  (List.range 4).foldl (fun a k => a + hammingCheck 64 8 (bits d (64 * k) 64) * 2 ^ (8 * k)) 0

/-- The worst of four findings, and their data. -/
def joinFindings (fs : List Checked) : Checked :=
  match fs.find? (·.data?.isNone) with
  | some f => f
  | none =>
    let d := (fs.zipIdx.foldl (fun a x => a + (x.1.data?.getD 0) * 2 ^ (64 * x.2)) 0)
    match fs.find? (fun f => f.cls.1 = 1) with
    | some (.corrected _ y raw) => .corrected d y raw
    | _ => .clean d

def unitRead (d chk : Nat) : Checked :=
  joinFindings ((List.range 4).map fun k => hammingRead 64 8 (bits d (64 * k) 64) (bits chk (8 * k) 8))

/-- A unit as stored: what a finding leaves in a slice (R409, R474). -/
def unitOf : Checked → Nat × Nat
  | .clean d => (d, unitCheck d)
  | .corrected d _ _ => (d, unitCheck d)
  | .marker => (0, 2 ^ 32 - 1)
  | _ => (2 ^ 256 - 1, 0)

/-- Codeword w of stored unit u of a line: 64 data bits and their check bits (R242). -/
def lineWord (l : Line) (u w : Nat) : Nat × Nat :=
  (bits l.data.toNat (256 * u + 64 * w) 64, bits l.chk.toNat (32 * u + 8 * w) 8)

def putUnit (l : Line) (k : Nat) (u : Nat × Nat) : Line :=
  let old := bits l.data.toNat (256 * k) 256
  let oldc := bits l.chk.toNat (32 * k) 32
  { l with data := BitVec.ofNat 1024 (l.data.toNat - old * 2 ^ (256 * k) + u.1 * 2 ^ (256 * k)),
           chk := BitVec.ofNat 128 (l.chk.toNat - oldc * 2 ^ (32 * k) + u.2 * 2 ^ (32 * k)) }

def getUnit (l : Line) (k : Nat) : Checked := unitRead (bits l.data.toNat (256 * k) 256) (bits l.chk.toNat (32 * k) 32)

/-! ### Pair compression (R221) -/

def word32 (d i : Nat) : Nat := bits d (32 * i) 32

/-- The first code that applies to a sector. -/
def sectorCode (d : Nat) : Nat :=
  let ws := (List.range 8).map (word32 d)
  let delta (w : Nat) : Int := toSigned 32 (w + 2 ^ 32 - word32 d 0)
  if d = 0 then 0
  else if ws.all (· = word32 d 0) then 1
  else if ws.all fun w => -128 ≤ delta w && delta w ≤ 127 then 2
  else if ws.all fun w => -32768 ≤ toSigned 32 w && toSigned 32 w ≤ 32767 then 3
  else 4

def codeBytes : Nat → Nat
  | 0 => 0 | 1 => 4 | 2 => 12 | 3 => 16 | _ => 32

/-- The stored bytes of a sector under its code. -/
def packSector (code d : Nat) : Nat :=
  match code with
  | 0 => 0
  | 1 => word32 d 0
  | 2 => word32 d 0 + (List.range 8).foldl (fun a i => a + ((word32 d i + 2 ^ 32 - word32 d 0) % 256) * 2 ^ (32 + 8 * i)) 0
  | 3 => (List.range 8).foldl (fun a i => a + (word32 d i % 2 ^ 16) * 2 ^ (16 * i)) 0
  | _ => d

/-- The sector that stored bytes spell. -/
def unpackSector (code x : Nat) : Nat :=
  let words (f : Nat → Nat) : Nat := packWords ((List.range 8).map f)
  match code with
  | 0 => 0
  | 1 => words fun _ => x % 2 ^ 32
  | 2 => words fun i => (x % 2 ^ 32 + (toSigned 8 (bits x (32 + 8 * i) 8)).emod (2 ^ 32) |>.toNat) % 2 ^ 32
  | 3 => words fun i => ((toSigned 16 (bits x (16 * i) 16)).emod (2 ^ 32)).toNat
  | _ => x % 2 ^ 256

/-- Byte offset of sector k in a half. -/
def codeOffset (codes : List Nat) (k : Nat) : Nat := ((codes.take k).map codeBytes).foldl (· + ·) 0

/-- The stored units of a half that hold bytes of sector k. -/
def Line.unitsOf (l : Line) (k : Nat) : List Nat :=
  let off := codeOffset l.codes k
  (List.range 2).filter fun u => off < 32 * u + 32 && 32 * u < off + codeBytes (l.codes.getD k 4)

/-- Sector k of a line as its checker finds it. -/
def Line.sector (l : Line) (k : Nat) : Checked :=
  if !l.halfOnly then getUnit l k
  else
    let off := codeOffset l.codes k
    let code := l.codes.getD k 4
    let units := l.unitsOf k
    match (units.map (getUnit l)).find? (·.data?.isNone) with
    | some f => f
    | none =>
      let area := (List.range 2).foldl (fun a u => a + ((getUnit l u).data?.getD 0) * 2 ^ (256 * u)) 0
      let d := unpackSector code (bits area (8 * off) (8 * codeBytes code))
      match (units.map (getUnit l)).find? (·.cls.1 = 1) with
      | some (.corrected _ y raw) => .corrected d y raw
      | _ => .clean d

/-- The first uncorrectable codeword that sector k of a line is stored in. -/
def Line.badWord (l : Line) (k : Nat) : Option (Nat × Nat) :=
  ((l.unitsOf k).flatMap fun u => (List.range 4).map (lineWord l u)).find? fun w => (hammingRead 64 8 w.1 w.2).data?.isNone

/-- Sector k of a line in a half, as it stands in a unit of its own: an uncorrectable codeword goes with it as it was (R474). -/
def Line.unitAlone (l : Line) (k : Nat) : Nat × Nat :=
  match l.sector k, l.badWord k with
  | .bad _ _, some w => w
  | f, _ => unitOf f

/-- The line with every sector in a unit of its own (R474). -/
def Line.expand (l : Line) : Line :=
  if !l.halfOnly then l
  else (List.range 4).foldl (fun m k => putUnit m k (l.unitAlone k))
    { l with halfOnly := false, codes := [], data := 0, chk := 0 }

/-- The line in a half, where it is compressible (R221). -/
def Line.shrink (l : Line) : Option Line :=
  let ds := (List.range 4).map fun k => (getUnit l k).data?
  if l.valid ≠ 15 || ds.any (·.isNone) then none
  else
    let ds := ds.map (·.getD 0)
    let codes := ds.map sectorCode
    if 64 < codeOffset codes 4 then none
    else
      let area := (List.range 4).foldl (fun a k => a + packSector (codes.getD k 4) (ds.getD k 0) * 2 ^ (8 * codeOffset codes k)) 0
      some ((List.range 2).foldl (fun m u => putUnit m u (unitOf (.clean (bits area (256 * u) 256))))
        { l with halfOnly := true, codes := codes, data := 0, chk := 0 })

/-! ### Vault lines (R245 to R248, R252, R474) -/

/-- The stored words and check bytes of a line at byte `off` of pseudo-channel P. -/
def vaultRaw (s : State) (P off : Nat) : BitVec 1024 × BitVec 128 :=
  let ws := (List.range 4).map fun k => rawGet s.dram vaultCodec (vaultWord P off + k)
  (BitVec.ofNat 1024 (ws.zipIdx.foldl (fun a x => a + x.1.1 * 2 ^ (256 * x.2)) 0),
   BitVec.ofNat 128 (ws.zipIdx.foldl (fun a x => a + x.1.2 * 2 ^ (32 * x.2)) 0))

/-- Word k of a line as the controller's checker finds it. -/
def vaultFinding (raw : BitVec 1024 × BitVec 128) (k : Nat) : Checked :=
  rsRead (bits raw.1.toNat (256 * k) 256) (bits raw.2.toNat (32 * k) 32)

def vaultLoc (P off k : Nat) : Nat := P + 2 ^ 10 * (off + 32 * k)

/-- The vault's controller notes a finding in VMC_STATUS and reports it (R256, R419). -/
def vaultNote (s : State) (P off k : Nat) (f : Checked) : State :=
  if f.cls.1 = 0 then s
  else
    let v := vaultOf s (P / 64)
    let s := setVault s (P / 64) (v.flag (if f.cls.1 = 1 then 1 else 2) (now s))
    reportFinding s (P / 128) 3 (P / 64 % 2) 8 f (vaultLoc P off k)

/-- The job fault of an uncorrectable vault word (R477). -/
def vaultFault (s : State) (part : Option Nat) (P : Nat) (f : Checked) : State :=
  if 2 ≤ f.cls.1 then
    raiseFaultO s part ⟨3, f.cls.1, P / 128, P / 64 % 2, some (0x3000 + P / 64 % 2, f.cls.1, f.cls.2.1, P / 128)⟩
  else s

/-- Report the findings in a line's words, by the vault's controller (R419). -/
def vaultReport (s : State) (P off : Nat) (raw : BitVec 1024 × BitVec 128) (need : BitVec 4) : State :=
  (List.range 4).foldl (fun s k =>
    if need.getLsbD k then vaultNote s P off k (vaultFinding raw k) else s) s

/-- The report behind a line's first uncorrectable word. -/
def vaultWhy (P : Nat) (raw : BitVec 1024 × BitVec 128) (need : BitVec 4) : Option (Nat × Nat × Nat × Nat) :=
  (List.range 4).findSome? fun k =>
    let f := vaultFinding raw k
    if need.getLsbD k && f.data?.isNone then some (0x3000 + P / 64 % 2, f.cls.1, f.cls.2.1, P / 128) else none

/-- Write a finding's word into the vault. -/
def vaultPut (s : State) (P off k : Nat) (f : Checked) : State :=
  let w := vaultWord P off + k
  match f with
  | .clean d => { s with dram := wordWrite s.dram vaultCodec w d }
  | .corrected d _ _ => { s with dram := wordWrite s.dram vaultCodec w d }
  | .marker => { s with dram := wordMark s.dram vaultCodec w }
  | _ => { s with dram := wordPoison s.dram vaultCodec w }

/-- The controller merges an uncached store's bytes into word k of a line; an uncorrectable word stays, reported, with a job
fault (R252, R474). -/
def vaultMerge (s : State) (part : Option Nat) (P off k d mask : Nat) : State :=
  let r := wordMerge s.dram vaultCodec (vaultWord P off + k) d mask
  let s := { s with dram := r.1 }
  vaultFault (vaultNote s P off k r.2) part P r.2

/-- Store the bytes of the sectors in `secs` of a request's block into the vault; one whose domain is in reset drops them
(R444). -/
def vaultStore (s : State) (part : Option Nat) (P off : Nat) (r : Req) (secs : List Nat) : State :=
  let base := r.addr % 128 / 32
  if r.skip || inDomainReset s 3 (P / 64) then s
  else secs.foldl (fun s k =>
    vaultMerge s part P off k (bits r.data.toNat (256 * (k - base)) 256) (bits r.mask.toNat (32 * (k - base)) 32)) s

/-! ### What a request touches -/

/-- Sectors of the line that a request touches. -/
def touched (r : Req) : List Nat :=
  let base := r.addr % 128 / 32
  match r.kind with
  | .atomic _ ops => distinct (ops.map fun o => o.2.1 % 128 / 32)
  | .red _ ops => distinct (ops.map fun o => o.1 % 128 / 32)
  | _ => ((List.range 2).filter fun k => bits r.mask.toNat (32 * k) 32 ≠ 0).map (base + ·)

/-- The request stores only whole sectors (R227). -/
def wholeSectors (r : Req) : Bool :=
  match r.kind with
  | .store => (List.range 2).all fun k => let m := bits r.mask.toNat (32 * k) 32; m = 0 || m = 2 ^ 32 - 1
  | _ => false

def isLoad (r : Req) : Bool := match r.kind with | .load => true | _ => false
def isAtomic (r : Req) : Bool := match r.kind with | .atomic _ _ => true | .red _ _ => true | _ => false

/-- What a request leaves: the line in whole form, the response, and the findings in the sectors it met. -/
structure Applied where
  line : Line
  /-- The line as stored before, and the sectors that the request has written since. -/
  was : Line
  fresh : BitVec 4 := 0
  resp : Nat := 0
  olds : List (Nat × DWord) := []
  bad : List (Nat × Checked) := []
  /-- Data it needed is uncorrectable. -/
  poison : Bool := false
  wrote : Bool := false

/-- Sector k as the request's reads find it: as stored, or as the request itself has written it (R242). -/
def Applied.find (a : Applied) (k : Nat) : Checked := if a.fresh.getLsbD k then getUnit a.line k else a.was.sector k

/-- Write bytes of sector k of a line in whole form; a merge into an uncorrectable sector writes nothing (R474). -/
def writeSector (a : Applied) (k d mask : Nat) : Applied :=
  let f := if mask = 2 ^ 32 - 1 then .clean 0 else a.find k
  let a := if f.cls.1 = 0 then a else { a with bad := a.bad ++ [(k, f)] }
  match f.data? with
  | some old =>
    { a with line := { putUnit a.line k (unitOf (.clean (mergeBytes 32 old d mask))) with
                       valid := setBit a.line.valid k, dirty := setBit a.line.dirty k }
             fresh := setBit a.fresh k, wrote := true }
  | none => { a with poison := true }

/-- One location of an atomic or a reduction: its operation on the old value gives the new one and the answers. -/
def locationOp (a : Applied) (addr size : Nat) (op : DWord → DWord × List (Nat × DWord)) : Applied :=
  let k := addr % 128 / 32
  let f := a.find k
  match f.data? with
  | none => { a with bad := a.bad ++ [(k, f)], poison := true }
  | some d =>
    let res := op (BitVec.ofNat 64 (bits d (8 * (addr % 32)) (8 * size)))
    let msk := (2 ^ size - 1) <<< (addr % 32)
    let a' := writeSector a k ((res.1.toNat % 2 ^ (8 * size)) <<< (8 * (addr % 32))) msk
    { a' with olds := a'.olds ++ res.2 }

/-- Apply a request to a line whose needed sectors are valid (R227, R231). -/
def applyReq (l : Line) (r : Req) : Applied :=
  let base := r.addr % 128 / 32
  let start : Applied := { line := l.expand, was := l }
  match r.kind with
  | .load =>
    (touched r).foldl (fun a k =>
      let f := a.find k
      let a := if f.cls.1 = 0 then a else { a with bad := a.bad ++ [(k, f)] }
      match f.data? with
      | some d => { a with resp := a.resp + d * 2 ^ (256 * (k - base)) }
      | none => { a with poison := true }) start
  | .store =>
    if r.skip then start
    else (touched r).foldl (fun a k => writeSector a k (bits r.data.toNat (256 * (k - base)) 256) (bits r.mask.toNat (32 * (k - base)) 32))
      start
  | .atomic fn ops =>
    (distinct (ops.map (·.2.1))).foldl (fun a x =>
      locationOp a x ((atomicSize fn).getD 4) fun old =>
        atomicFold fn old ((ops.filter fun o => o.2.1 = x).map fun o => (o.1, o.2.2.1, o.2.2.2))) start
  | .red fn ops =>
    ops.foldl (fun a o => locationOp a o.1 ((redSize fn).getD 4) fun old => (reduce fn old o.2, [])) start
  | _ => start

/-! ### Frames (R217 to R223) -/

def frameOf (x : Slice) (set way : Nat) : Frame := look x.frames (16 * set + way) {}
def setFrame (x : Slice) (set way : Nat) (f : Frame) : Slice := { x with frames := put x.frames (16 * set + way) f }
def halfOf (f : Frame) (h : Bool) : Option Line := if h then f.half1 else f.half0
def setHalf (f : Frame) (h : Bool) (l : Option Line) : Frame := if h then { f with half1 := l } else { f with half0 := l }
def isValid : Option Line → Bool
  | some l => !l.dead
  | none => false

/-- The line of a granule and tag in a set: way, half, and entry. -/
def findLine (x : Slice) (set granule tag : Nat) : Option (Nat × Bool × Line) :=
  (List.range 16).findSome? fun way =>
    let f := frameOf x set way
    [false, true].findSome? fun h =>
      match halfOf f h with
      | some l => if l.granule = granule && l.tag = tag then some (way, h, l) else none
      | none => none

/-- Make a frame most recent (R219). -/
def useFrame (x : Slice) (set way : Nat) : Slice :=
  { setFrame x set way { frameOf x set way with used := x.clock + 1 } with clock := x.clock + 1 }

/-- Where a request's line stands. -/
structure Place where
  i : Nat
  set : Nat
  tag : Nat
  granule : Nat
  /-- A ÷ 128. -/
  line : Nat
  part : Nat
  P : Nat
  off : Nat

def placeOf (s : State) (a : Nat) : Place :=
  let v := vaultPlace s a
  ⟨sliceOfAddr s a, setOfAddr s a, tagOfAddr s a, a / 2 ^ 30, a / 128, (ownerOfGranule s (a / 2 ^ 30)).getD 8, v.1, v.2 / 128 * 128⟩

/-- The ways of a partition (R218), lowest first. -/
def waysOf (s : State) (p : Nat) : List Nat := (List.range 16).filter fun w => (partOf s p).waysOn.getLsbD w

/-- The way an allocation takes (R219). -/
def victimWay (s : State) (x : Slice) (q : Place) : Option Nat :=
  let ws := waysOf s q.part
  match ws.find? fun w => !isValid (frameOf x q.set w).half0 && !isValid (frameOf x q.set w).half1 with
  | some w => some w
  | none => (ws.foldl (fun best w => match best with
      | none => some w
      | some b => if (frameOf x q.set w).used < (frameOf x q.set b).used then some w else best) (none : Option Nat))

/-- A half beside a VALID compressed line that is free or DEAD, in the lowest way (R222). -/
def pairHalf (s : State) (x : Slice) (q : Place) : Option (Nat × Bool) :=
  (waysOf s q.part).findSome? fun w =>
    let f := frameOf x q.set w
    [false, true].findSome? fun h =>
      match halfOf f (!h) with
      | some l => if !l.dead && l.halfOnly && !isValid (halfOf f h) then some (w, h) else none
      | none => none

/-! ### The write-back buffer (R233 to R235) -/

/-- Entries that a partition's lanes own. -/
def shareOf (s : State) (p : Nat) : List Nat := (List.range 16).filter fun e => (partOf s p).lanes.getLsbD (e / 2)

/-- The newest entry that holds a line. -/
def wbOf (x : Slice) (line : Nat) : Option (Nat × WbEntry) :=
  (x.wb.filter fun e => e.2.lineAddr = line).foldl (fun best e => match best with
    | none => some e
    | some b => if b.2.order < e.2.order then some e else best) none

/-- Effects so far, and the entry whose acknowledgement the access waits for. -/
structure Turn where
  s : State
  effs : List SliceEff := []
  stall : Option Nat := none
  /-- The wait is for an entry of the share (R235), and not for an entry's data (R234). -/
  full : Bool := false

/-- A free entry of a share, or a place behind the entries there with the key of the oldest occupied one (R235). -/
def takeEntry (s : State) (x : Slice) (p : Nat) : Option (Nat × Option Nat) :=
  let share := shareOf s p
  match share.find? fun e => (find x.wb e).isNone with
  | some e => some (e, none)
  | none =>
    let held := x.wb.filter fun e => e.1 % 16 ∈ share
    match held with
    | [] => none
    | h :: hs =>
      let o := hs.foldl (fun b e => if e.2.order < b.2.order then e else b) h
      (firstFrom (fun m => (find x.wb (o.1 % 16 + 16 * m)).isNone) 1 4096).map fun m => (o.1 % 16 + 16 * m, some o.1)

/-- A controller request of slice i, with the write-back entry `old` named `new`. -/
def renameReq (i old new : Nat) (c : CtrlReq) : CtrlReq :=
  if c.slice = i && c.kind = .writeBack old then { c with kind := .writeBack new } else c

def renameEff (i old new : Nat) : SliceEff → SliceEff
  | .send P c => .send P (renameReq i old new c)
  | e => e

/-- Entry `key` of a slice has been freed: the oldest line that waits behind the entries of a share with that entry takes it (R233,
R235). -/
def takeFreed (s : State) (i key : Nat) : State :=
  let x := sliceOf s i
  let behind := x.wb.filter fun e => 16 ≤ e.1 && key ∈ shareOf s e.2.part
  match behind with
  | [] => s
  | h :: hs =>
    let o := hs.foldl (fun b e => if e.2.order < b.2.order then e else b) h
    if key < 16 then
      let wb := (put (drop x.wb o.1) key o.2).map fun e => (e.1, { e.2 with stalled := e.2.stalled.map fun w =>
        (w.1, w.2.1, w.2.2.map (renameEff i o.1 key)) })
      let s := setSlice s i { x with wb := wb }
      { s with pchs := s.pchs.map fun p => (p.1, { p.2 with queue := p.2.queue.map (renameReq i o.1 key) }) }
    else s

/-- Free an entry. -/
def freeEntry (s : State) (i key : Nat) : State := takeFreed (mapSlice s i fun x => { x with wb := drop x.wb key }) i key

def setSliceStatus (s : State) (i bit : Nat) : State := mapSlice s i fun x => x.flag bit (now s)

/-- LOCATION of a sector (R419). -/
def placeLoc (set way : Nat) (h : Bool) (k : Nat) (wb : Option Nat) : Nat :=
  set + 2 ^ 11 * way + 2 ^ 15 * b2n h + 2 ^ 16 * k + 2 ^ 18 * b2n wb.isSome + 2 ^ 19 * (wb.getD 0 % 16)

/-- The slice's checker reports what it found in a stored sector; an uncorrectable one faults the owner unless a consumer of its data
does (R242). -/
def noteSector (s : State) (i part : Nat) (faults : Bool) (loc : Nat) (f : Checked) : State :=
  if f.cls.1 = 0 then s
  else
    let s := setSliceStatus s i (if f.data?.isSome then 0 else 1)
    let p := if part < 8 then some part else none
    if faults then faultFinding s p (i / 64) 2 (i % 64) 7 f loc else reportOwned s (i / 64) (mkReport 2 (i % 64) 7 f loc false) p

/-- A line read for its write-back: the dirty sectors pass the checker, and an uncorrectable one goes on as poison (R242, R409). -/
def readDirty (l : Line) : Line :=
  (List.range 4).foldl (fun m k => if m.dirty.getLsbD k then putUnit m k (unitOf (l.sector k)) else m) l.expand

/-- A dirty line goes into the buffer (R219, R233). -/
def writeBack (t : Turn) (q : Place) (way : Nat) (h : Bool) (l : Line) (line P off : Nat) : Turn :=
  match takeEntry t.s (sliceOf t.s q.i) q.part with
  | none => t
  | some (key, wait) =>
    let s := (List.range 4).foldl (fun s k =>
      if l.dirty.getLsbD k then noteSector s q.i q.part true (placeLoc q.set way h k none) (l.sector k) else s) t.s
    let x := sliceOf s q.i
    let w := readDirty l
    let e : WbEntry := { lineAddr := line, part := q.part, granule := l.granule, data := w.data, chk := w.chk, valid := w.valid,
                         dirty := w.dirty, set := q.set, way := way, half := h, order := x.clock + 1 }
    { s := setSlice s q.i { x with wb := put x.wb key e, clock := x.clock + 1 },
      effs := t.effs ++ [.send P { slice := q.i, kind := .writeBack key, scheduled := true, off := off }],
      stall := match t.stall with | some k => some k | none => wait
      full := t.full || (t.stall.isNone && wait.isSome) }

/-- Land an entry's dirty sectors in the vault, through the checker (R233, R242). -/
def landEntry (s : State) (i key : Nat) (e : WbEntry) : State :=
  let v := vaultPlace s (128 * e.lineAddr)
  let l : Line := { tag := 0, granule := e.granule, data := e.data, chk := e.chk }
  if inDomainReset s 3 (v.1 / 64) then s
  else (List.range 4).foldl (fun s k =>
    if e.dirty.getLsbD k then
      noteSector (vaultPut s v.1 (v.2 / 128 * 128) k (getUnit l k)) i e.part true (placeLoc e.set e.way e.half k (some key)) (getUnit l k)
    else s) s

/-- The entries of a slice that a test picks, oldest first. -/
def entriesOf (x : Slice) (pick : WbEntry → Bool) : List (Nat × WbEntry) :=
  (x.wb.filter fun e => pick e.2).foldr (fun e l =>
    (l.filter fun y => y.2.order < e.2.order) ++ [e] ++ l.filter fun y => e.2.order ≤ y.2.order) []

/-- The stored words of a line as they stand once the slice's write-backs of it have landed, which come first in slice order
(R225). -/
def memRaw (s : State) (q : Place) : BitVec 1024 × BitVec 128 :=
  vaultRaw ((entriesOf (sliceOf s q.i) fun e => e.lineAddr = q.line).foldl (fun s e => landEntry s q.i e.1 e.2) s) q.P q.off

/-- The address ÷ 128 of a line held in a set of a slice (R214, R215). -/
def lineAddrOf (s : State) (i set : Nat) (l : Line) : Nat :=
  match find s.granules l.granule with
  | some g =>
    if g.kind = .pinned then (l.tag * 2 ^ 11 + set)
    else
      let up := l.tag * 2 ^ 11 + set
      up * 2 ^ 9 + (i ^^^ (up % 2 ^ 9) ^^^ (up / 2 ^ 9 % 2 ^ 9) ^^^ (up / 2 ^ 18 % 2 ^ 6))
  | none => l.tag * 2 ^ 11 + set

/-- Evict one entry of a frame (R219). -/
def evictHalf (q : Place) (way : Nat) (h : Bool) (t : Turn) : Turn :=
  let x := sliceOf t.s q.i
  match halfOf (frameOf x q.set way) h with
  | none => t
  | some l =>
    let a := lineAddrOf t.s q.i q.set l
    let v := vaultPlace t.s (128 * a)
    let t := { t with s := setSlice t.s q.i (setFrame x q.set way (setHalf (frameOf x q.set way) h none)) }
    if l.dead || l.dirty = 0 then t else writeBack t q way h l a v.1 v.2

def evictFrame (q : Place) (way : Nat) (t : Turn) : Turn := evictHalf q way true (evictHalf q way false t)

/-- The line takes the whole of its frame; its partner is evicted, and the split counted where there is one (R223; DEDUCED, log entry 193). -/
def splitPair (q : Place) (way : Nat) (h : Bool) (l : Line) (t : Turn) : Turn :=
  let x := sliceOf t.s q.i
  let f := frameOf x q.set way
  let partner := isValid (halfOf f (!h))
  let t := { t with s := setSlice t.s q.i { x with pairSplits := if partner then satAdd x.pairSplits 1 else x.pairSplits } }
  let t := evictHalf q way (!h) t
  let x := sliceOf t.s q.i
  { t with s := setSlice t.s q.i (setFrame x q.set way { frameOf x q.set way with half0 := some l, half1 := none }) }

/-- Put a line written in whole form back in its place (R223). -/
def putLine (q : Place) (way : Nat) (h : Bool) (wasHalf : Bool) (l : Line) (t : Turn) : Turn :=
  let x := sliceOf t.s q.i
  let here (l : Line) : Turn :=
    { t with s := setSlice t.s q.i (setFrame x q.set way (setHalf (frameOf x q.set way) h (some l))) }
  if !wasHalf then here l
  else match l.shrink with
    | some l' => here l'
    | none => splitPair q way h l t

/-! ### Reports (R242) -/

/-- The request's own consumer raises the job fault for its poisoned data. -/
def consumerFaults (r : Req) : Bool :=
  match r.origin, r.kind with
  | .core _ _ (some _), _ => true
  | .engRead _ _ _, _ => true
  | _, _ => false

/-- Report what a request found in a line's sectors (R242). -/
def sectorReports (s : State) (q : Place) (way : Nat) (h : Bool) (wb : Option Nat) (r : Req) (bad : List (Nat × Checked)) : State :=
  bad.foldl (fun s x => noteSector s q.i q.part (!consumerFaults r) (placeLoc q.set way h x.1 wb) x.2) s

/-- SOURCE, CLASS, SYND and stack of the first uncorrectable finding. -/
def sectorWhy (i : Nat) (bad : List (Nat × Checked)) : Option (Nat × Nat × Nat × Nat) :=
  (bad.find? (·.2.data?.isNone)).map fun x => (0x2000 + i % 64, x.2.cls.1, x.2.cls.2.1, i / 64)

/-- Give a request its response. -/
def respond (s : State) (n : Nat) (r : Req) (a : Applied) (i : Nat) : State :=
  setReq s n { r with resp := BitVec.ofNat 512 a.resp, olds := a.olds, poison := a.poison, why := sectorWhy i a.bad, stage := .inSlice }

/-! ### Accesses -/

def missTime (r : Req) : Nat := if isAtomic r then 100 else 96
def hitTime (r : Req) : Nat := if isAtomic r then 15 else 11

/-- A request's slot at the slice is a lane's: what it sends to the controller takes scheduled windows (R252). -/
def laneSlot (r : Req) : Bool := r.entered % 20 < 16

/-- A request sent past the slice, uncached. -/
def uncachedReq (q : Place) (n : Nat) (r : Req) (raw : Option (BitVec 1024 × BitVec 128)) (need : BitVec 4) : SliceEff :=
  .send q.P { slice := q.i, kind := .uncached n, scheduled := laneSlot r, off := q.off, raw := raw, need := need }

def secMask (ks : List Nat) : BitVec 4 := ks.foldl (fun m k => setBit m k) 0

/-- The fetch of a line that has not completed. -/
def fillOf (x : Slice) (line : Nat) : Option Fill := x.fills.find? (·.lineAddr = line)

/-- Serve a request on a resident line whose needed sectors are valid. Under a fill of the line it waits for that fill, which its
findings do too (R226); else the answer is as given. -/
def serveResident (t : Turn) (q : Place) (n : Nat) (r : Req) (way : Nat) (h : Bool) (l : Line) (answer : List SliceEff) : Turn :=
  let a := applyReq l r
  let s := respond t.s n r a q.i
  let fill := fillOf (sliceOf s q.i) q.line
  let s := if fill.isSome then s else sectorReports s q way h none r a.bad
  let s := setSlice s q.i (useFrame (sliceOf s q.i) q.set way)
  let t := { t with s := s, effs := t.effs ++ (if fill.isSome then [.join q.i q.line ⟨n, 0, way, h, a.bad⟩] else answer) }
  if a.wrote then putLine q way h l.halfOnly a.line t else t

/-- Sectors a request needs to find valid (R227). -/
def needed (r : Req) : List Nat :=
  if wholeSectors r then []
  else match r.kind with
    | .store => (touched r).filter fun k => bits r.mask.toNat (32 * (k - r.addr % 128 / 32)) 32 ≠ 2 ^ 32 - 1
    | _ => touched r

/-- A vault line in a slice's form: markers stay markers, any other uncorrectable word is poison (R474). -/
def lineFromVault (q : Place) (raw : BitVec 1024 × BitVec 128) : Line :=
  (List.range 4).foldl (fun l k => putUnit l k (unitOf (vaultFinding raw k)))
    { tag := q.tag, granule := q.granule, valid := 15 }

/-- Compression is in force for a partition (R224). -/
def compressing (s : State) (p : Nat) : Bool := (partOf s p).vcCtlOn.getLsbD 0 && !s.boot.legacy

/-- Only a fill for a load or a prefetch places a line in a half (R222). -/
def placesInHalf (r : Req) : Bool := match r.kind with | .load => true | .prefetch => true | _ => false

/-- Merge a fetched line into its place: dirty sectors keep the cached bytes (R227). -/
def mergeFill (l fetched : Line) : Line :=
  let l := l.expand
  (List.range 4).foldl (fun m k => if l.dirty.getLsbD k then m else
    { m with data := (putUnit m k (bits fetched.data.toNat (256 * k) 256, bits fetched.chk.toNat (32 * k) 32)).data,
             chk := (putUnit m k (bits fetched.data.toNat (256 * k) 256, bits fetched.chk.toNat (32 * k) 32)).chk }) { l with valid := 15 }

/-- The request that fetches a line acts on it in its place, and waits for the fill. -/
def serveFilled (t : Turn) (q : Place) (n : Nat) (r : Req) (way : Nat) (h : Bool) (l : Line) : Turn :=
  match r.kind with
  | .prefetch =>
    { t with s := setReq (setSlice t.s q.i (useFrame (sliceOf t.s q.i) q.set way)) n { r with stage := .inSlice },
             effs := t.effs ++ [.join q.i q.line ⟨n, 0, way, h, []⟩] }
  | _ => serveResident t q n r way h l []

/-- A fetch of a line into its place. The line stands there from this turn on, with what the vault holds in slice order; the fill fixes
when the answers come (R222, R225 to R227). -/
def startFill (t : Turn) (q : Place) (n : Nat) (r : Req) (way : Nat) (h : Bool) (l : Line) (raw : BitVec 1024 × BitVec 128) : Turn :=
  let f : Fill := { lineAddr := q.line, part := q.part, place := (way, h), waiters := [], raw := raw, pch := q.P, off := q.off }
  let s := mapSlice t.s q.i fun x =>
    { setFrame x q.set way (setHalf (frameOf x q.set way) h (some l)) with fills := x.fills ++ [f] }
  serveFilled { t with s := s, effs := t.effs ++ [.send q.P { slice := q.i, kind := .fetch q.line, scheduled := laneSlot r, off := q.off }] }
    q n r way h l

/-- Allocate a place for a line; the choice is made now (R219, R222). `next` goes on with the way, the half and the line there. -/
def allocPlace (t : Turn) (q : Place) (r : Req) (full : Line) (next : Turn → Nat → Bool → Line → Turn) : Turn :=
  let small := if placesInHalf r && compressing t.s q.part then full.shrink else none
  match small.bind fun l => (pairHalf t.s (sliceOf t.s q.i) q).map fun p => (p, l) with
  | some ((way, h), l) => next t way h l
  | none => match victimWay t.s (sliceOf t.s q.i) q with
    | some way => next (evictFrame q way t) way false (small.getD full)
    | none => t

/-- Allocate a frame and fetch the line. -/
def allocFetch (t : Turn) (q : Place) (n : Nat) (r : Req) : Turn :=
  let raw := memRaw t.s q
  allocPlace t q r (lineFromVault q raw) fun t way h l => startFill t q n r way h l raw

/-- A request meets a line whose fetch has not completed and whose place another line has taken since: the line is placed again and the
request waits on the same fill (R225, R226). -/
def refill (t : Turn) (q : Place) (n : Nat) (r : Req) : Turn :=
  allocPlace t q r (lineFromVault q (memRaw t.s q)) fun t way h l =>
    serveFilled { t with s := mapSlice t.s q.i fun x => setFrame x q.set way (setHalf (frameOf x q.set way) h (some l)) } q n r way h l

/-- Allocate a frame with only the written sectors (R227). -/
def allocStore (t : Turn) (q : Place) (n : Nat) (r : Req) : Turn :=
  match victimWay t.s (sliceOf t.s q.i) q with
  | none => t
  | some way =>
    let t := evictFrame q way t
    let x := sliceOf t.s q.i
    let l : Line := { tag := q.tag, granule := q.granule }
    serveResident { t with s := setSlice t.s q.i (setFrame x q.set way { frameOf x q.set way with half0 := some l }) }
      q n r way false l [.answer n 11]

/-- Serve a request past the slice without allocating (R227, R228). -/
def passBy (t : Turn) (q : Place) (n : Nat) (r : Req) : Turn :=
  match r.kind with
  | .load => { t with s := setReq t.s n { r with stage := .inSlice },
                      effs := t.effs ++ [uncachedReq q n r (some (memRaw t.s q)) (secMask (touched r))] }
  | _ =>
    let s := vaultStore t.s (some q.part) q.P q.off r (touched r)
    { t with s := setReq s n { r with stage := .inSlice }, effs := t.effs ++ [uncachedReq q n r (some (0, 0)) 0] }

/-- An unscheduled request meets a resident line with an invalid sector that it touches (R228). -/
def mixedAccess (t : Turn) (q : Place) (n : Nat) (r : Req) (way : Nat) (h : Bool) (l : Line) : Turn :=
  let ok := (touched r).filter fun k => l.valid.getLsbD k
  let no := (touched r).filter fun k => !l.valid.getLsbD k
  let base := r.addr % 128 / 32
  let keep (ks : List Nat) : BitVec 64 := ks.foldl (fun m k => m ||| BitVec.ofNat 64 ((2 ^ 32 - 1) <<< (32 * (k - base)))) 0
  let part := { r with mask := r.mask &&& keep ok }
  let raw := memRaw t.s q
  let t := serveResident t q n part way h l []
  let r1 := (find t.s.net n).getD r
  match r.kind with
  | .load => { t with s := setReq t.s n { r1 with mask := r.mask },
                      effs := t.effs ++ [uncachedReq q n r (some raw) (secMask no)] }
  | _ =>
    let s := vaultStore t.s (some q.part) q.P q.off r no
    { t with s := setReq s n { r1 with mask := r.mask }, effs := t.effs ++ [uncachedReq q n r (some (0, 0)) 0] }

/-! ### The stream detector (R229, R230) -/

def lambdaOf (s : State) (a : Nat) : Nat :=
  match find s.granules (a / 2 ^ 30) with
  | some g => if g.kind = .pinned then bits a 7 23 else bits a 16 24
  | none => bits a 16 24

/-- Trackers that serve a partition's lines. -/
def trackersOf (s : State) (p : Nat) : List Nat := (List.range 64).filter fun k => (partOf s p).lanes.getLsbD (k / 8)

/-- Train on a scheduled load miss; the miss bypasses where its stream's count stood at 8 (R230). -/
def trainMiss (s : State) (q : Place) (a : Nat) : State × Bool :=
  let x := sliceOf s q.i
  let mine := trackersOf s q.part
  let lam := lambdaOf s a
  let hits := x.trackers.filter fun k => k.1 ∈ mine && k.2.granule = q.granule && k.2.lambda + 1 = lam
  match hits with
  | h :: hs =>
    let m := hs.foldl (fun b k => if b.2.used < k.2.used then k else b) h
    let was := m.2.count
    let k : Tracker := { m.2 with lambda := lam, count := min 8 (was + 1), used := x.clock + 1 }
    (setSlice s q.i { x with trackers := put x.trackers m.1 k, clock := x.clock + 1 },
     was = 8 && (partOf s q.part).vcCtlOn.getLsbD 1 && !s.boot.legacy)
  | [] =>
    let slot := match mine.find? fun k => (find x.trackers k).isNone with
      | some k => some k
      | none => mine.foldl (fun best k => match best with
          | none => some k
          | some b => if (((find x.trackers k).map (·.used)).getD 0) < (((find x.trackers b).map (·.used)).getD 0) then some k
            else best) (none : Option Nat)
    match slot with
    | some k => (setSlice s q.i { x with trackers := put x.trackers k ⟨q.granule, lam, 1, x.clock + 1⟩, clock := x.clock + 1 }, false)
    | none => (s, false)

/-! ### DEAD lines (R237 to R239) -/

/-- Drop a DEAD entry. -/
def dropEntry (t : Turn) (q : Place) (way : Nat) (h : Bool) : Turn :=
  let x := sliceOf t.s q.i
  { t with s := setSlice t.s q.i (setFrame x q.set way (setHalf (frameOf x q.set way) h none)) }

/-- A read of a DEAD line is counted (R238, R239). -/
def countDead (s : State) (i bit : Nat) : State :=
  setSliceStatus (mapSlice s i fun x => { x with deadReads := satAdd x.deadReads 1 }) i bit

/-- A strict-dead access: refused, reported, poisoned or a job fault (R239). -/
def strictDead (t : Turn) (q : Place) (n : Nat) (r : Req) (way : Nat) (h : Bool) : Turn :=
  let s := countDead t.s q.i 3
  let rep : Report := ⟨BitVec.ofNat 16 (0x2000 + q.i % 64), 7, 5, 0, BitVec.ofNat 48 (placeLoc q.set way h ((touched r).headD 0) none), 0, false⟩
  let s := report s (q.i / 64) rep
  let why := (0x2000 + q.i % 64, 5, 0, q.i / 64)
  let reads := match r.kind with | .load => true | .atomic _ _ => true | _ => false
  let s := if consumerFaults r then s else raiseFault s q.part ⟨2, 5, q.i / 64, q.i % 64, some why⟩
  { t with s := setReq s n { r with stage := .inSlice, poison := reads, why := some why }, effs := t.effs ++ [.answer n 11] }

/-- A request meets a DEAD entry of its line. A skipped store leaves it (R302). -/
def meetDead (t : Turn) (q : Place) (n : Nat) (r : Req) (way : Nat) (h : Bool) (l : Line) (sched : Bool) : Turn :=
  if wholeSectors r then
    if r.skip then
      if sched then { t with s := setReq t.s n { r with stage := .inSlice }, effs := t.effs ++ [.answer n 11] } else passBy t q n r
    else if !sched then passBy (dropEntry t q way h) q n r
    else if l.halfOnly then allocStore (dropEntry t q way h) q n r
    else
      let fresh : Line := { tag := q.tag, granule := q.granule }
      let x := sliceOf t.s q.i
      serveResident { t with s := setSlice t.s q.i (setFrame x q.set way (setHalf (frameOf x q.set way) h (some fresh))) }
        q n r way h fresh [.answer n 11]
  else if (partOf t.s q.part).vcCtlOn.getLsbD 2 then strictDead t q n r way h
  else if sched then allocFetch (dropEntry { t with s := countDead t.s q.i 2 } q way h) q n r
  else passBy { t with s := countDead t.s q.i 2 } q n r

/-! ### Lines in the write-back buffer (R232, R234) -/

/-- Sectors that a partial write touches and an entry does not hold. -/
def wbMissing (e : WbEntry) (r : Req) : List Nat := (needed r).filter fun k => !e.valid.getLsbD k

/-- The entry's line, with an invalid sector that a partial write touches taken from the vault. -/
def wbLine (s : State) (q : Place) (e : WbEntry) (r : Req) : Line :=
  let l : Line := { tag := q.tag, granule := e.granule, valid := e.valid, dirty := e.dirty, data := e.data, chk := e.chk }
  let raw := memRaw s q
  (wbMissing e r).foldl (fun l k => { putUnit l k (unitOf (vaultFinding raw k)) with valid := setBit l.valid k }) l

/-- What the vault's controller finds in the words that `wbLine` reads: reported, and a job fault (R256, R474). -/
def wbReads (s : State) (q : Place) (e : WbEntry) (r : Req) : State :=
  let raw := memRaw s q
  (wbMissing e r).foldl (fun s k => vaultFault (vaultNote s q.P q.off k (vaultFinding raw k)) (some q.part) q.P (vaultFinding raw k)) s

/-- A load, store, atomic or reduction is served from the write-back buffer; a load of an invalid sector waits for the
acknowledgement, and brings what stood in slice order (R225, R234). A line that is under fill as well answers as R226 says. -/
def meetBuffer (t : Turn) (q : Place) (n : Nat) (r : Req) (key : Nat) (e : WbEntry) : Turn :=
  if isLoad r && (touched r).any fun k => !e.valid.getLsbD k then
    { t with s := setReq t.s n { r with stage := .inSlice }, stall := some key, full := false,
             effs := t.effs ++ [uncachedReq q n r (some (memRaw t.s q)) (secMask (touched r))] }
  else
    let a := applyReq (wbLine t.s q e r) r
    let s := respond (wbReads t.s q e r) n r a q.i
    let s := sectorReports s q e.way e.half (some key) r a.bad
    let e' := { e with data := a.line.data, chk := a.line.chk, valid := a.line.valid, dirty := a.line.dirty }
    let s := mapSlice s q.i fun x => { x with wb := put x.wb key (if a.wrote then e' else e), wbMerges := satAdd x.wbMerges 1 }
    let under := (fillOf (sliceOf s q.i) q.line).isSome
    { t with s := s, effs := t.effs ++ [if under then .join q.i q.line ⟨n, 0, e.way, e.half, []⟩ else .answer n (hitTime r + 4)] }

/-- A request meets a DEAD entry of a line whose last write-back is still in the buffer: under STRICT_DEAD it is refused; else the buffer
serves it, the line does not return while it is held there (R234), and the entry ends as R237 and R238 say. -/
def meetDeadBuffered (t : Turn) (q : Place) (n : Nat) (r : Req) (way : Nat) (h : Bool) (sched : Bool) (key : Nat) (e : WbEntry) : Turn :=
  let whole := wholeSectors r
  if !whole && (partOf t.s q.part).vcCtlOn.getLsbD 2 then strictDead t q n r way h
  else
    let t := if whole then t else { t with s := countDead t.s q.i 2 }
    let t := if (whole && !r.skip) || (!whole && sched) then dropEntry t q way h else t
    meetBuffer t q n r key e

/-! ### One access at its turn -/

/-- The request behaves as scheduled at the slice (R218). -/
def scheduledAt (s : State) (q : Place) (r : Req) : Bool := r.lane.isSome && (partOf s q.part).waysOn ≠ 0

/-- A request on an absent line (R227, R230). -/
def meetAbsent (t : Turn) (q : Place) (n : Nat) (r : Req) (sched : Bool) : Turn :=
  if !sched then passBy t q n r
  else if wholeSectors r then allocStore t q n r
  else if isLoad r then
    let m := trainMiss t.s q r.addr
    if m.2 then passBy { t with s := mapSlice m.1 q.i fun x => { x with bypassMisses := satAdd x.bypassMisses 1 } } q n r
    else allocFetch { t with s := m.1 } q n r
  else allocFetch t q n r

/-- An unscheduled request on a line under fill whose place another line has taken: it allocates nothing, acts on the vault's words as
they stand in slice order, and waits on the fill (R225, R226, R228). -/
def joinFillUncached (t : Turn) (q : Place) (n : Nat) (r : Req) : Turn :=
  let a := applyReq (lineFromVault q (memRaw t.s q)) r
  let s := if isLoad r then respond t.s n r a q.i
    else setReq (vaultStore t.s (some q.part) q.P q.off r (touched r)) n { r with stage := .inSlice }
  let place := ((fillOf (sliceOf s q.i) q.line).map (·.place)).getD (0, false)
  { t with s := s, effs := t.effs ++ [.join q.i q.line ⟨n, 0, place.1, place.2, if isLoad r then a.bad else []⟩] }

/-- A load, store, atomic or reduction at its turn (R225 to R239). A load of a resident line trains no tracker (R230; DEDUCED, log entry
192). -/
def access (s : State) (q : Place) (n : Nat) (r : Req) : Turn :=
  let x := sliceOf s q.i
  let sched := scheduledAt s q r
  let t : Turn := { s := s }
  match findLine x q.set q.granule q.tag with
  | some (way, h, l) =>
    if l.dead then
      match wbOf x q.line with
      | some (key, e) => meetDeadBuffered t q n r way h sched key e
      | none => meetDead t q n r way h l sched
    else if (needed r).all fun k => l.valid.getLsbD k then
      if sched || (touched r).all fun k => l.valid.getLsbD k then serveResident t q n r way h l [.answer n (hitTime r)]
      else mixedAccess t q n r way h l
    else if sched then
      let raw := memRaw s q
      startFill t q n r way h (mergeFill l (lineFromVault q raw)) raw
    else mixedAccess t q n r way h l
  | none => match wbOf x q.line with
    | some (key, e) => meetBuffer t q n r key e
    | none =>
      if (fillOf x q.line).isSome then (if sched then refill t q n r else joinFillUncached t q n r)
      else meetAbsent t q n r sched

/-- An access to a conservator-shared granule passes uncached (R216). -/
def passShared (s : State) (q : Place) (n : Nat) (r : Req) : Turn :=
  { s := setReq s n { r with stage := .inSlice }, effs := [uncachedReq q n r none (secMask (touched r))] }

/-! ### Effects (R235, R252) -/

/-- Put a request before a vault controller. -/
def sendCtrl (s : State) (P : Nat) (c : CtrlReq) : State :=
  setPch s P { pchOf s P with queue := (pchOf s P).queue ++ [c] }

/-- The answer of a fill's waiter number w that met place q, the fill completing at PCLK F: the request that caused it at its miss time,
and the j-th further one at max(t + T_h, F + T_h − 10 + j) (R226). A fetch that its vault's reset dropped brings poison (R444). -/
def answerWaiter (s : State) (q : Place) (lost : Bool) (F w : Nat) (x : Waiter) : State :=
  match find s.net x.req with
  | none => s
  | some r =>
    let s := sectorReports s q x.way x.half none r x.bad
    let c := if w = 0 then F + missTime r - 96 else max (x.from_ + hitTime r) (F + hitTime r - 10 + (w - 1))
    answer s x.req { r with poison := r.poison || (lost && r.reads) } c

/-- A request joins a fill's waiters; where the fill has completed meanwhile it is answered in its hit time. -/
def joinFill (s : State) (i line : Nat) (w : Waiter) : State :=
  let x := sliceOf s i
  match fillOf x line with
  | some f => setSlice s i { x with fills := x.fills.map fun g => if g = f then { g with waiters := g.waiters ++ [w] } else g }
  | none => match find s.net w.req with
    | some r => answerWaiter s (placeOf s r.addr) false 0 1 w
    | none => s

/-- Carry out effects counted from a base PCLK. -/
def runEffs (s : State) (base : Nat) (l : List SliceEff) : State :=
  l.foldl (fun s e => match e with
    | .answer n dt => match find s.net n with | some r => answer s n r (base + dt) | none => s
    | .send P c => sendCtrl s P { c with arrive := base + 8 }
    | .join i line w => joinFill s i line { w with from_ := base }) s

/-- A slice acts at PCLK pc: it takes a request, completes a fill or frees a write-back entry. -/
def noteAct (s : State) (i pc : Nat) : State := mapSlice s i fun x => { x with lastAct := some pc }

/-- End a turn at PCLK pc: its effects count from pc, or from the awaited acknowledgement + 1 (R234, R235). -/
def endTurn (t : Turn) (i pc : Nat) : State :=
  let t := { t with s := noteAct t.s i pc }
  match t.stall with
  | none => runEffs t.s pc t.effs
  | some key =>
    let x := sliceOf t.s i
    match find x.wb key with
    | none => runEffs t.s pc t.effs
    | some e =>
      let s := if t.full then setSliceStatus t.s i 4 else t.s
      match e.ack with
      | some a =>
        let base := max pc (a + 1)
        let s := if t.full then mapSlice s i fun x => { x with wbWait := satAdd x.wbWait (base - pc) } else s
        runEffs s base t.effs
      | none => mapSlice s i fun x => { x with wb := put x.wb key { e with stalled := e.stalled ++ [(pc, t.full, t.effs)] } }

/-- Another request for the slice has had its slot earlier and waits for the same PCLK: those that met the slice asleep go first, in the
order in which they entered (R225, R240). -/
def enteredBefore (s : State) (i t : Nat) (r : Req) : Bool :=
  s.net.any fun x => x.2.entered < r.entered
    && (match x.2.stage, spaceOf s x.2.addr with | .slice u, .vault _ => u = t && sliceOfAddr s x.2.addr = i | _, _ => false)

/-- The command of a slice on a request that has entered its input stage at PCLK t = 5B + j. A slice that is not awake starts
its wake, and the request waits for it (R240). -/
def atSlice (slice : Fin 512) (req : Nat) (j : Fin 5) (ok : ReqKind → Bool) (s : State) (f : Place → Req → State → State) : Result :=
  match find s.net req with
  | none => .next s
  | some r =>
    match r.stage, spaceOf s r.addr with
    | .slice t, .vault _ =>
      let q := placeOf s r.addr
      if !live s || q.i ≠ slice.val || t ≠ pclk s j.val || !ok r.kind || enteredBefore s q.i t r then .next s
      else if !domOn s .slice q.i then
        let at_ := usableAt s .slice q.i
        let s' := setSliceStatus (demandWake s .slice q.i) q.i 5
        let s' := if isShared s q.granule then s'
          else mapSlice s' q.i fun x => { x with wakeWait := satAdd x.wakeWait (at_ - now s) }
        .next (setReq s' req { r with stage := .slice (5 * at_) })
      else .next (f q r s)
    | _, _ => .next s

/-- A store with no byte enabled. -/
def writesNothing (r : Req) : Bool := match r.kind with | .store => r.mask = 0 | _ => false

/-- Serve a load, store, atomic or reduction. -/
def serve (req : Nat) (j : Fin 5) (q : Place) (r : Req) (s : State) : State :=
  if writesNothing r then answer (noteAct s q.i (pclk s j.val)) req r (pclk s j.val + 11)
  else if isShared s q.granule then endTurn (passShared s q req r) q.i (pclk s j.val)
  else endTurn (access s q req r) q.i (pclk s j.val)

/-- SLICE_LOAD, R225 to R230, R234, R238 to R240. -/
def execSliceLoad (slice : Fin 512) (req : Nat) (j : Fin 5) (s : State) : Result :=
  atSlice slice req j (fun k => match k with | .load => true | _ => false) s (serve req j)

/-- SLICE_STORE, R225 to R228, R234, R237 to R240. -/
def execSliceStore (slice : Fin 512) (req : Nat) (j : Fin 5) (s : State) : Result :=
  atSlice slice req j (fun k => match k with | .store => true | _ => false) s (serve req j)

/-- SLICE_ATOMIC, R225 to R227, R234, R238 to R240. -/
def execSliceAtomic (slice : Fin 512) (req : Nat) (j : Fin 5) (s : State) : Result :=
  atSlice slice req j (fun k => match k with | .atomic _ _ => true | _ => false) s (serve req j)

/-- SLICE_REDUCTION, R231, R232. -/
def execSliceReduction (slice : Fin 512) (req : Nat) (j : Fin 5) (s : State) : Result :=
  atSlice slice req j (fun k => match k with | .red _ _ => true | _ => false) s (serve req j)

/-! ### Fills and acknowledgements -/

/-- What a fetch dropped at its vault brings: the sectors that no store has written since are poison (R444). -/
def poisonFill (s : State) (q : Place) : State :=
  let x := sliceOf s q.i
  match findLine x q.set q.granule q.tag with
  | some (way, h, l) =>
    if l.dead then s
    else
      let m := (List.range 4).foldl (fun m k => if l.dirty.getLsbD k then m else putUnit m k (2 ^ 256 - 1, 0)) l.expand
      setSlice s q.i (setFrame x q.set way { setHalf (frameOf x q.set way) h none with half0 := some m })
  | none => s

/-- SLICE_FILL_COMPLETE, R222, R226, R227: the fetch has returned, and its waiters are answered in order. -/
def execSliceFillComplete (slice : Fin 512) (j : Fin 5) (s : State) : Result :=
  let i := slice.val
  let pc := pclk s j.val
  let x := sliceOf s i
  match x.fills.find? (·.back = some pc) with
  | none => .next s
  | some f =>
    let q := placeOf s (128 * f.lineAddr)
    let s1 := setSlice s i { x with fills := x.fills.erase f, lastAct := some pc }
    let s1 := if f.lost then poisonFill s1 q else s1
    let s2 := vaultReport s1 f.pch f.off f.raw 15
    let s2 := match vaultWhy f.pch f.raw 15 with
      | some w => raiseFault s2 f.part ⟨3, w.2.1, f.pch / 128, f.pch / 64 % 2, some w⟩
      | none => s2
    onlyIf (live s) s (f.waiters.zipIdx.foldl (fun s w => answerWaiter s q f.lost pc w.2 w.1) s2)

/-- WRITE_BACK_ACK, R233, R236: the entry is freed; range requests that wait for it end at the acknowledgement + 1. -/
def execWriteBackAck (slice : Fin 512) (j : Fin 5) (s : State) : Result :=
  let i := slice.val
  let pc := pclk s j.val
  match (sliceOf s i).wb.find? fun e => e.2.ack = some pc with
  | none => .next s
  | some (key, e) =>
    let s' := freeEntry (mapSlice (landEntry s i key e) i fun x => { x with lastAct := some pc }) i key
    onlyIf (live s) s (runEffs s' (pc + 1) (e.waiters.map fun n => .answer n 0))

/-! ### Range operations (R236, R237) -/

/-- A range request ends 11 PCLK after its turn. -/
def rangeDone (t : Turn) (n : Nat) (r : Req) (dt : Nat) : Turn :=
  { t with s := setReq t.s n { r with stage := .inSlice }, effs := t.effs ++ [.answer n dt] }

/-- A range request ends at an entry's acknowledgement + 1. -/
def rangeWaits (t : Turn) (q : Place) (n : Nat) (r : Req) (key : Nat) : Turn :=
  { t with s := mapSlice (setReq t.s n { r with stage := .inSlice }) q.i fun x => { x with wb := x.wb.map fun e =>
      if e.1 = key then (e.1, { e.2 with waiters := e.2.waiters ++ [n] }) else e } }

/-- The newest entry's key. -/
def newestKey (x : Slice) (line : Nat) : Nat := ((wbOf x line).map (·.1)).getD 0

def rangePrefetch (q : Place) (n : Nat) (r : Req) (s : State) : Turn :=
  let x := sliceOf s q.i
  match findLine x q.set q.granule q.tag with
  | some (way, _, l) =>
    if l.dead then rangeDone { s := s } n r 11
    else rangeDone { s := setSlice s q.i (useFrame x q.set way) } n r 11
  | none =>
    if (wbOf x q.line).isSome then rangeDone { s := s } n r 15
    else if !scheduledAt s q r then rangeDone { s := s } n r 11
    else if (fillOf x q.line).isSome then refill { s := s } q n r
    else allocFetch { s := s } q n r

def rangeFlush (q : Place) (n : Nat) (r : Req) (s : State) : Turn :=
  let x := sliceOf s q.i
  match findLine x q.set q.granule q.tag with
  | some (way, h, l) =>
    if l.dead || l.dirty = 0 then rangeDone { s := s } n r 11
    else
      let t := writeBack { s := s } q way h l q.line q.P q.off
      let x := sliceOf t.s q.i
      let t := { t with s := setSlice t.s q.i (setFrame x q.set way (setHalf (frameOf x q.set way) h (some { l with dirty := 0 }))) }
      rangeWaits t q n r (newestKey (sliceOf t.s q.i) q.line)
  | none => match wbOf x q.line with
    | some (key, _) => rangeWaits { s := s } q n r key
    | none => rangeDone { s := s } n r 11

def rangeInvalidate (q : Place) (n : Nat) (r : Req) (s : State) : Turn :=
  let x := sliceOf s q.i
  match findLine x q.set q.granule q.tag with
  | some (way, h, l) =>
    let t := dropEntry { s := s } q way h
    if l.dead || l.dirty = 0 then rangeDone t n r 11
    else
      let t := writeBack t q way h l q.line q.P q.off
      rangeWaits t q n r (newestKey (sliceOf t.s q.i) q.line)
  | none => match wbOf x q.line with
    | some (key, _) => rangeWaits { s := s } q n r key
    | none => rangeDone { s := s } n r 11

def rangeDead (q : Place) (n : Nat) (r : Req) (s : State) : Turn :=
  let x := sliceOf s q.i
  match findLine x q.set q.granule q.tag with
  | some (way, h, l) =>
    let d : Line := { dead := true, tag := q.tag, granule := q.granule, halfOnly := l.halfOnly }
    rangeDone { s := setSlice s q.i (setFrame x q.set way (setHalf (frameOf x q.set way) h (some d))) } n r 11
  | none => rangeDone { s := s } n r 11

/-- A line request of a range operation at its turn; one on a conservator-shared granule does nothing. -/
def serveRange (req : Nat) (j : Fin 5) (f : Place → Nat → Req → State → Turn) (q : Place) (r : Req) (s : State) : State :=
  endTurn (if isShared s q.granule then rangeDone { s := s } req r 11 else f q req r s) q.i (pclk s j.val)

/-- RANGE_PREFETCH, R236. -/
def execRangePrefetch (slice : Fin 512) (req : Nat) (j : Fin 5) (s : State) : Result :=
  atSlice slice req j (fun k => match k with | .prefetch => true | _ => false) s (serveRange req j rangePrefetch)

/-- RANGE_FLUSH, R236. -/
def execRangeFlush (slice : Fin 512) (req : Nat) (j : Fin 5) (s : State) : Result :=
  atSlice slice req j (fun k => match k with | .flush => true | _ => false) s (serveRange req j rangeFlush)

/-- RANGE_INVALIDATE, R236, R237. -/
def execRangeInvalidate (slice : Fin 512) (req : Nat) (j : Fin 5) (s : State) : Result :=
  atSlice slice req j (fun k => match k with | .invalidate => true | _ => false) s (serveRange req j rangeInvalidate)

/-- RANGE_DEAD, R236, R237. -/
def execRangeDead (slice : Fin 512) (req : Nat) (j : Fin 5) (s : State) : Result :=
  atSlice slice req j (fun k => match k with | .dead => true | _ => false) s (serveRange req j rangeDead)

/-! ### Reads and purges by the curator and the sequencers -/

/-- Sector k of a line as a reader of the module finds it, and the place in the slice that holds it: way, half and write-back entry; none
where the vault's word is read. -/
def peekSector (s : State) (q : Place) (k : Nat) : Checked × Option (Nat × Bool × Option Nat) :=
  let x := sliceOf s q.i
  let held := match findLine x q.set q.granule q.tag with
    | some (way, h, l) => if !l.dead && l.valid.getLsbD k then some (l.sector k, way, h, none) else none
    | none => none
  let buffered := match wbOf x q.line with
    | some (key, e) => if e.valid.getLsbD k then
        some (getUnit { tag := 0, granule := 0, data := e.data, chk := e.chk } k, e.way, e.half, some key) else none
    | none => none
  match held.orElse fun _ => buffered with
  | some (f, way, h, wb) => (f, some (way, h, wb))
  | none => (vaultFinding (memRaw s q) k, none)

/-- SOURCE, CLASS, SYND and stack of what a reader found in a sector. -/
def peekWhy (q : Place) (x : Checked × Option (Nat × Bool × Option Nat)) : Nat × Nat × Nat × Nat :=
  if x.2.isSome then (0x2000 + q.i % 64, x.1.cls.1, x.1.cls.2.1, q.i / 64)
  else (0x3000 + q.P / 64 % 2, x.1.cls.1, x.1.cls.2.1, q.P / 128)

/-- A 64 B block of device memory as the module's readers see it: its sectors' or words' data, or the first uncorrectable
finding with its report. -/
def peekBlock (s : State) (a : Nat) : Option Nat × Option (Nat × Nat × Nat × Nat) :=
  match spaceOf s a with
  | .vault _ =>
    let q := placeOf s a
    let lo := peekSector s q (a % 128 / 32)
    let hi := peekSector s q (a % 128 / 32 + 1)
    match lo.1.data?, hi.1.data? with
    | some d, some d' => (some (d + d' * 2 ^ 256), none)
    | none, _ => (none, some (peekWhy q lo))
    | _, none => (none, some (peekWhy q hi))
  | .archive core off =>
    let c := coreOf s core
    if (chanOf s (siteOfCore s core)).failed then (none, none) else
    let word (i : Nat) : Option Nat :=
      let w := off / 16 + i
      let fwd := forwarded c w
      if fwd.1 = 2 ^ 16 - 1 then some fwd.2 else ((shelfRead s core w).data?).map fun d => mergeBytes 16 d fwd.2 fwd.1
    match word 0, word 1, word 2, word 3 with
    | some a, some b, some c, some d => (some (a + b * 2 ^ 128 + c * 2 ^ 256 + d * 2 ^ 384), none)
    | _, _, _, _ => (none, (List.range 4).findSome? fun i => whyOf s core (shelfRead s core (off / 16 + i)))
  | _ => (none, none)

/-- Land a write-back entry at once: what waits for its acknowledgement goes on, and its request to the controller is withdrawn. -/
def landNow (s : State) (i key : Nat) (e : WbEntry) : State :=
  let s := landEntry s i key e
  let s := { s with pchs := s.pchs.map fun p => (p.1, { p.2 with queue := p.2.queue.filter fun c => !(c.slice = i && c.kind = .writeBack key) }) }
  let s := freeEntry s i key
  let s := runEffs s (5 * now s) (e.waiters.map fun n => .answer n 0)
  e.stalled.foldl (fun s w =>
    let base := max w.1 (5 * now s)
    let s := if w.2.1 then mapSlice s i fun x => { x with wbWait := satAdd x.wbWait (base - w.1) } else s
    runEffs s base w.2.2) s

/-- Write back a frame's line at once and drop its entry. -/
def purgeHalf (s : State) (i set way : Nat) (h : Bool) (l : Line) : State :=
  let a := lineAddrOf s i set l
  let w := readDirty l
  let p := (ownerOfGranule s l.granule).getD 8
  let e : WbEntry := { lineAddr := a, part := p, granule := l.granule, data := w.data, chk := w.chk, valid := w.valid,
                       dirty := if l.dead then 0 else w.dirty, set := set, way := way, half := h, order := 0 }
  let s := (List.range 4).foldl (fun s k =>
    if e.dirty.getLsbD k then noteSector s i p true (placeLoc set way h k none) (l.sector k) else s) s
  let s := landEntry s i 0 e
  mapSlice s i fun y => setFrame y set way (setHalf (frameOf y set way) h none)

/-- Write back the dirty lines that a test picks and drop every entry it picks, in every slice: the buffer's older copies first
(R216, R241). -/
def purge (s : State) (pick : Nat → Nat → Line → Bool) (pickWb : WbEntry → Bool) : State :=
  s.slices.foldl (fun s x =>
    let i := x.1
    let s := (entriesOf (sliceOf s i) pickWb).foldl (fun s e => landNow s i e.1 e.2) s
    (sliceOf s i).frames.foldl (fun s f =>
      [false, true].foldl (fun s h =>
        match halfOf (frameOf (sliceOf s i) (f.1 / 16) (f.1 % 16)) h with
        | some l => if pick i (f.1 % 16) l then purgeHalf s i (f.1 / 16) (f.1 % 16) h l else s
        | none => s) s) s) s

end Sys2Proof.Machine
end

