-- ==== Sys2Proof/Machine/Vaults.lean ====
section
/-! DEFINITION. The vault controllers: arrivals, DRAM windows, data returns, refresh, pace and near-bank mode (R250 to R258,
R276). -/

namespace Sys2Proof.Machine

/-! ### Windows (R250 to R253) -/

/-- Phase of PCLK c at pseudo-channel P. -/
def phaseAt (P c : Nat) : Nat := (c + (2 * (P % 64) + 1) % 20) % 20

/-- The restricted table is in force (R251). -/
def restricted (s : State) (P : Nat) : Bool := (pchOf s P).nbMode || (pchOf s P).inRefresh

/-- The class that owns the window opening at PCLK c: true for scheduled traffic; none where no window opens or it carries no
ordinary traffic. -/
def windowClass (s : State) (P c : Nat) : Option Bool :=
  match phaseAt P c with
  | 0 => some true
  | 4 => some false
  | 8 => some true
  | 12 => some false
  | 16 => if restricted s P then none else some true
  | _ => none

/-- The class of the window opening at PCLK c that no request has taken. -/
def openWindow (s : State) (P c : Nat) : Option Bool := if (pchOf s P).lastWindow = some c then none else windowClass s P c

def isWriteBack (c : CtrlReq) : Bool := match c.kind with | .writeBack _ => true | _ => false

/-- A request waits for a window of a class. -/
def waitsFor (cls : Bool) (pc : Nat) (c : CtrlReq) : Bool :=
  c.arrived && c.window.isNone && c.arrive ≤ pc && c.scheduled = cls

/-- One request goes before another: earlier arrival, and a fetch before a write-back at equal arrival. -/
def goesBefore (a b : CtrlReq) : Bool := a.arrive < b.arrive || (a.arrive = b.arrive && !isWriteBack a && isWriteBack b)

def firstWaiting (cls : Bool) (pc : Nat) (q : List CtrlReq) : Option CtrlReq :=
  (q.filter (waitsFor cls pc)).foldl (fun best c => match best with
    | none => some c
    | some b => if goesBefore c b then some c else best) none

/-- CONTROLLER_REQUEST_ARRIVAL, R252: at t + 8. -/
def execControllerRequestArrival (pch : Fin 1024) (j : Fin 5) (s : State) : Result :=
  let P := pch.val
  let x := pchOf s P
  match x.queue.find? fun c => !c.arrived && c.arrive = pclk s j.val with
  | none => .next s
  | some c =>
    onlyIf (live s) s (setPch s P { x with queue := x.queue.map fun d => if d = c then { c with arrived := true } else d })

/-- A write-back takes its window: the acknowledgement is due 25 PCLK later, and the accesses that waited for it go on
(R234, R235). -/
def ackEntry (s : State) (i key a : Nat) : State :=
  match find (sliceOf s i).wb key with
  | none => s
  | some e =>
    let s := mapSlice s i fun x => { x with wb := put x.wb key { e with ack := some (a + 25), stalled := [] } }
    e.stalled.foldl (fun s w =>
      let base := max w.1 (a + 26)
      let s := if w.2.1 then mapSlice s i fun x => { x with wbWait := satAdd x.wbWait (base - w.1) } else s
      runEffs s base w.2.2) s

/-- Words that are all poison. -/
def poisonRaw : BitVec 1024 × BitVec 128 := (BitVec.allOnes 1024, 0)

/-- A request that meets its vault in reset is dropped at the vault's edge: what it reads is poisoned (R444). -/
def dropAtVault (s : State) (P : Nat) (c : CtrlReq) : State × CtrlReq :=
  if !inDomainReset s 3 (P / 64) then (s, c)
  else match c.kind with
    | .fetch line => (mapSlice s c.slice fun y =>
        { y with fills := y.fills.map fun f => if f.lineAddr = line && f.back.isNone then { f with raw := poisonRaw, lost := true } else f }, c)
    | .uncached n => match find s.net n with
      | some r => (s, if isLoad r then { c with raw := some poisonRaw } else { c with raw := some (0, 0) })
      | none => (s, c)
    | .writeBack _ => (s, c)
    | .raw => (s, c)

/-- What a request does in its window: one on a conservator-shared granule, and one that waited for a write-back, meets the
words as they stand then. -/
def atWindow (s : State) (P : Nat) (c : CtrlReq) (a : Nat) : State × Option CtrlReq :=
  match c.kind with
  | .fetch _ => (s, some { c with window := some a })
  | .writeBack key => (ackEntry s c.slice key a, none)
  | .raw => (s, none)
  | .uncached n =>
    match c.raw, find s.net n with
    | none, some r =>
      if isLoad r then (s, some { c with window := some a, raw := some (vaultRaw s P c.off) })
      else (vaultStore s (some (ownerOfGranule s (r.addr / 2 ^ 30) |>.getD 8)) P c.off r (touched r),
            some { c with window := some a, raw := some (0, 0) })
    | _, _ => (s, some { c with window := some a })

/-- DRAM_WINDOW, R252, R253. -/
def execDramWindow (pch : Fin 1024) (j : Fin 5) (s : State) : Result :=
  let P := pch.val
  let a := pclk s j.val
  match openWindow s P a with
  | none => .next s
  | some cls =>
    let x := pchOf s P
    let q := x.queue.map fun c => if waitsFor cls a c then { c with first := some (c.first.getD a) } else c
    match firstWaiting cls a q with
    | none => .next s
    | some c =>
      let wait := a - c.first.getD a
      let v := vaultOf s (P / 64)
      let s1 := if wait = 0 then s
        else setVault s (P / 64) { v.flag 0 (now s) with clashWait := satAdd v.clashWait wait }
      let rest := q.erase c
      let d := dropAtVault (setPch s1 P { x with queue := rest, lastWindow := some a, taken := x.taken.filter (a / 4096 * 4096 ≤ ·) ++ [a] }) P c
      let r := atWindow d.1 P d.2 a
      onlyIf (live s) s (match r.2 with
        | some d => setPch r.1 P { pchOf r.1 P with queue := (pchOf r.1 P).queue ++ [d] }
        | none => r.1)

/-- Load data returns: the vault's sectors join the response. -/
def returnLoad (s : State) (P pc n : Nat) (c : CtrlReq) (r : Req) : State :=
  let raw := c.raw.getD (0, 0)
  let base := r.addr % 128 / 32
  let s := vaultReport s P c.off raw c.need
  let resp := (List.range 4).foldl (fun a k =>
    if c.need.getLsbD k then a + ((vaultFinding raw k).data?.getD 0) * 2 ^ (256 * (k - base)) else a) r.resp.toNat
  let why := vaultWhy P raw c.need
  let part := ownerOfGranule s (r.addr / 2 ^ 30)
  let s := if why.isSome && !consumerFaults r then
      raiseFaultO s part ⟨3, (why.map (·.2.1)).getD 2, P / 128, P / 64 % 2, why⟩ else s
  answer s n { r with resp := BitVec.ofNat 512 resp, poison := r.poison || why.isSome, why := if r.why.isSome then r.why else why } pc

/-- DRAM_DATA_RETURN, R252: at a + 88. -/
def execDramDataReturn (pch : Fin 1024) (j : Fin 5) (s : State) : Result :=
  let P := pch.val
  let pc := pclk s j.val
  let x := pchOf s P
  match x.queue.find? fun c => c.window.map (· + 88) = some pc with
  | none => .next s
  | some c =>
    let s1 := setPch s P { x with queue := x.queue.erase c }
    onlyIf (live s) s (match c.kind with
      | .fetch line => mapSlice s1 c.slice fun y =>
          { y with fills := y.fills.map fun f => if f.lineAddr = line && f.back.isNone then { f with back := some pc } else f }
      | .uncached n => match find s1.net n with
        | some r => if isLoad r then returnLoad s1 P pc n c r else answer s1 n r pc
        | none => s1
      | .writeBack _ => s1
      | .raw => s1)

/-! ### The line slots of bursts (R269, R270) -/

/-- First beat of the last refresh window of P that starts by beat b under multiplier m; none before its first (R254). -/
def windowStart (P m b : Nat) : Option Nat :=
  let d := 4 * (P % 61)
  let i := 976 / m
  if d ≤ b then some (d + (b - d) / i * i) else none

/-- First beat of the last refresh window of P that starts by beat b: a window starts under the multiplier in force at its first beat,
so that one begun before a change goes on, and one of another multiplier never began (R254, R255). -/
def lastRefresh (v : Vault) (P b : Nat) : Option Nat :=
  match windowStart P v.mult b with
  | some w => if v.multAt ≤ w then some w else windowStart P v.multPrev (min b (v.multAt - 1))
  | none => none

/-- CCLK x lies in a closed refresh window of P (R270). -/
def closedAt (s : State) (P x : Nat) : Bool :=
  match lastRefresh (vaultOf s (P / 64)) P (x / 4) with
  | some w => decide (x ≤ 4 * (w + 64) + 5)
  | none => false

/-- The line slots of R269 from a slot on, and whether a refresh window moves each. -/
def lineSlots (s : State) (P pace : Nat) : Nat → Nat → List (Nat × Bool)
  | 0, _ => []
  | n + 1, slot =>
    let moved := closedAt s P slot
    let l := if moved then slot + 262 else slot
    (l, moved) :: lineSlots s P pace n (l + pace)

/-- The first slot of a burst launched at β, the line before it having had slot `last` (0: none). -/
def firstSlot (beta pace last : Nat) : Nat := if last = 0 then beta else max beta (last + pace)

/-- The slots of a burst after line `last`, its first `k` lines keeping theirs. -/
def assignSlots (s : State) (P : Nat) (u : Burst) (k last : Nat) : Burst :=
  let kept := u.slots.take k
  let start := match kept.getLast? with | some x => x + u.pace | none => firstSlot u.beta u.pace last
  let r := lineSlots s P u.pace (u.n - k) start
  { u with slots := kept ++ r.map (·.1)
           moved := u.moved.filter (· < k) ++ (r.zipIdx.filter (·.1.2)).map fun x => k + x.2 }

/-- Lines whose place before any move lies before this beat: these keep their slots. -/
def settledLines (u : Burst) (beat : Nat) : Nat :=
  (u.slots.zipIdx.filter fun x => (if x.2 ∈ u.moved then x.1 - 262 else x.1) < 4 * beat).length

/-- PCLKs that a burst's lines not yet settled add to CSV_PACE_WAIT. -/
def paceOwed (beat : Nat) (l : List Burst) : Nat := l.foldl (fun a u => a + (u.n - settledLines u beat) * (u.pace - 1)) 0

/-- Under a new refresh multiplier the bursts' later lines take their slots anew, at the pace now in force (R254, R255, R270, R276). -/
def replan (s : State) (P : Nat) (c : Csv) : Csv :=
  let count (l : List Burst) : Nat := l.foldl (fun a u => a + u.moved.length) 0
  let pace := 2 ^ (vaultOf s (P / 64)).pace.toNat
  let anew (u : Burst) : Burst := if settledLines u (now s) < u.n then { u with pace := pace } else u
  let r := c.bursts.foldl (fun (a : List Burst × Nat) u =>
    let u := assignSlots s P (anew u) (settledLines u (now s)) a.2
    (a.1 ++ [u], u.slots.getLastD a.2)) ([], 0)
  let old := count c.bursts
  let new := count r.1
  let owed := paceOwed (now s) c.bursts
  let owes := paceOwed (now s) (c.bursts.map anew)
  { c with bursts := r.1, lastSlot := if c.bursts = [] then c.lastSlot else r.2
           paceWait := if owed ≤ owes then satAdd c.paceWait (owes - owed) else c.paceWait - BitVec.ofNat 32 (owed - owes)
           refreshWait := if old ≤ new then satAdd c.refreshWait (262 * (new - old)) else c.refreshWait - BitVec.ofNat 32 (262 * (old - new)) }

/-! ### Refresh, pace and near-bank mode (R254, R255, R258, R276) -/

/-- A refresh window of P starts at beat b under multiplier m. -/
def refreshStarts (P m b : Nat) : Bool := 4 * (P % 61) ≤ b && (b - 4 * (P % 61)) % (976 / m) = 0

/-- REFRESH_WINDOW_START, R254. -/
def execRefreshWindowStart (pch : Fin 1024) (s : State) : Result :=
  let P := pch.val
  onlyIf (live s && refreshStarts P (vaultOf s (P / 64)).mult (now s)) s
    (setPch s P { pchOf s P with inRefresh := true, refreshEnd := now s + 64 })

/-- REFRESH_WINDOW_END, R254: the window covers 64 beats. -/
def execRefreshWindowEnd (pch : Fin 1024) (s : State) : Result :=
  let x := pchOf s pch.val
  onlyIf (live s && x.inRefresh && x.refreshEnd = now s) s (setPch s pch.val { x with inRefresh := false })

/-- The conservators of a vault take their bursts' later line slots anew. -/
def replanVault (s : State) (vault : Nat) : State :=
  { s with csvs := s.csvs.map fun c => if c.1 / 64 = vault then (c.1, replan s c.1 c.2) else c }

/-- REFRESH_MULTIPLIER_CHANGE, R255: at a multiple of 976 beats after the decision. -/
def execRefreshMultiplierChange (vault : Fin 16) (s : State) : Result :=
  let v := vaultOf s vault.val
  match v.multNext with
  | none => .next s
  | some m =>
    let spans := if v.fillSpans = [] then [] else (now s, m) :: v.fillSpans
    let s' := setVault s vault.val { v with mult := m, multNext := none, multPrev := v.mult, multAt := now s, fillSpans := spans }
    onlyIf (live s && now s % 976 = 0) s (replanVault s' vault.val)

/-- PACE_LEVEL_CHANGE, R276: at a multiple of 976 beats after the decision. Slots that the beat's refresh multiplier has just had
assigned anew take the new pace too. -/
def execPaceLevelChange (vault : Fin 16) (s : State) : Result :=
  let v := vaultOf s vault.val
  match v.paceNext with
  | none => .next s
  | some p =>
    let s' := setVault s vault.val { v with pace := p, paceNext := none }
    onlyIf (live s && now s % 976 = 0) s (if v.multAt = now s then replanVault s' vault.val else s')

/-- NEAR_BANK_MODE_SWITCH, R258: no request to the pseudo-channel waits for a window. -/
def execNearBankModeSwitch (pch : Fin 1024) (s : State) : Result :=
  let x := pchOf s pch.val
  match x.modeWrite with
  | none => .next s
  | some b =>
    onlyIf (live s && x.queue.all fun c => !c.arrived || c.window.isSome) s
      (setPch s pch.val { x with nbMode := b, modeWrite := none, modeAt := if b = x.nbMode then x.modeAt else now s })

end Sys2Proof.Machine
end

