-- ==== Sys2Proof/Machine/Conservators.lean ====
section
/-! DEFINITION. The conservators: their window, registers, hart, bursts and attention unit (R257 to R276, R447). -/

namespace Sys2Proof.Machine

/-! ### SRAMs and stored findings (R261, R409, R410) -/

def setCsvF (s : State) (P : Nat) (f : Csv → Csv) : State := setCsv s P (f (csvOf s P))

/-- Report of a conservator's SRAM word at a window offset (R419). -/
def sramReport (s : State) (P off : Nat) (f : Checked) : State :=
  reportFinding s (P / 128) 4 (64 * (P / 64 % 2) + P % 64) 9 f off

/-- The same, with the job fault of an uncorrectable word. -/
def sramFault (s : State) (P off : Nat) (f : Checked) : State :=
  faultFinding s (ownerOfPch s P) (P / 128) 4 (64 * (P / 64 % 2) + P % 64) 9 f off

def inISram (off : Nat) : Bool := off < 0x8000
def inDSram (off : Nat) : Bool := 0x10000 ≤ off && off < 0x20000
def inCmds (off : Nat) : Bool := 0x20000 ≤ off && off < 0x20400
def inResults (off : Nat) : Bool := 0x20400 ≤ off && off < 0x20800
def inRegs (off : Nat) : Bool := 0x21000 ≤ off && off < 0x2102C

/-- The SRAM word at a window offset. -/
def sramWord (c : Csv) (off : Nat) : Checked :=
  if inISram off then wordRead c.isram sramCodec (off / 4) else wordRead c.dsram sramCodec ((off - 0x10000) / 4)

def dWrite (c : Csv) (off d : Nat) : Csv := { c with dsram := wordWrite c.dsram sramCodec ((off - 0x10000) / 4) d }

/-- Bytes of the command and result slots, which carry no code; a byte that nothing has written reads 0. -/
def slotByte (m : List Host.Cell) (i : Nat) : Byte := look m i 0
def slotPut (m : List Host.Cell) (i : Nat) (b : Byte) : List Host.Cell := if b = 0 then drop m i else put m i b

def slotWord (m : List Host.Cell) (off : Nat) : Nat := leNat ((List.range 4).map fun i => slotByte m (off + i))
def slotWrite (m : List Host.Cell) (off d mask : Nat) : List Host.Cell :=
  (List.range 4).foldl (fun m i => if mask.testBit i then slotPut m (off + i) (byteOf d i) else m) m

/-- Read burst lines stand in the D-SRAM from the end of L + 68 (R269), and the scores of nb.score from their times. -/
def landLines (c : Csv) (cc : Nat) : Csv :=
  let c := (c.scores.filter (·.1 ≤ cc)).foldl (fun c x => dWrite c x.2.1 x.2.2.toNat) c
  let due := c.bursts.flatMap fun b => b.landing.filter fun l => l.1 ≤ cc
  let c := due.foldl (fun c l => (l.2.2.zipIdx).foldl (fun c w => match w.1 with
    | some d => (List.range 8).foldl (fun c i => dWrite c (l.2.1 + 32 * w.2 + 4 * i) (bits d.toNat (32 * i) 32)) c
    | none => c) c) c
  { c with bursts := c.bursts.map fun b => { b with landing := b.landing.filter fun l => cc < l.1 }
           scores := c.scores.filter (cc < ·.1) }

/-- A halt takes effect at the instruction boundary (R265). -/
def settleHalt (c : Csv) (cc : Nat) : Csv :=
  if c.haltAsked && c.free ≤ cc then { c with state := if c.state = .running then .halted else c.state, haltAsked := false } else c

/-! ### The attention unit's steps (R272 to R274) -/

def rowBytes (fmt : Nat) (blk16 : Bool) : Nat := 16 * eltBits fmt + 128 / (if blk16 then 16 else 32)

/-- D-SRAM bytes [a, a + n) as a number, or none where one of their words is uncorrectable; findings are reported. -/
def dsramSpan (s : State) (P a n : Nat) : State × Option Nat :=
  (List.range (ceilDiv n 4)).foldl (fun (r : State × Option Nat) i =>
    let f := sramWord (csvOf s P) (a + 4 * i)
    (sramFault r.1 P (a + 4 * i) f, match r.2, f.data? with
      | some x, some d => some (x + d * 2 ^ (32 * i))
      | _, _ => none)) (s, some 0)

/-- The dot product of a query with a row (R272). -/
def rowDot (fmt bs : Nat) (q : List Word) (row : Nat) : Word :=
  let scales := row >>> (16 * eltBits fmt * 8)
  addBlocks 0 ((List.range (128 / bs)).map fun b =>
    blockVal ((List.range bs).map fun i =>
      (dec32 ((q[b * bs + i]?).getD 0)).mul (decodeElt fmt (unpackElt fmt row (b * bs + i)))) [scaleExp (bits scales (8 * b) 8)])

/-- Element j of a row as a binary32 (R181, R272). -/
def rowElt (fmt bs row j : Nat) : Word :=
  decodeScaled fmt (unpackElt fmt row j) (bits (row >>> (16 * eltBits fmt * 8)) (8 * (j / bs)) 8)

def negInf : Word := 0xFF800000#32

/-- One token step for one query (R273). -/
def tokenStep (a : AttnState) (x : Word) (v : Nat → Word) : AttnState :=
  let m := fmax32 a.m x
  let p := if m = negInf then 0 else fexp232 (fsub32 x m)
  let k := if m = negInf then 0x3F800000#32 else fexp232 (fsub32 a.m m)
  { m := m
    l := ffma32 a.l k p
    o := a.o.zipIdx.map fun y => enc32 (((dec32 y.1).mul (dec32 k)).add ((dec32 p).mul (dec32 (v y.2)))) }

def queryOf (c : Csv) (g : Nat) : List Word := (c.q.drop (128 * g)).take 128

def scoreOf (c : Csv) (g row : Nat) : Word := fmul32 c.scale (rowDot c.fmt.toNat (if c.blk16 then 16 else 32) (queryOf c g) row)

/-- Scores of one row: the largest over the queries (R274). -/
def bestScore (c : Csv) (row : Nat) : Word :=
  ((List.range c.g).tail).foldl (fun m g => fmax32 m (scoreOf c g row)) (scoreOf c 0 row)

/-- The queries' states; before any nb.qld they stand as nb.qld sets them. -/
def attnStates (c : Csv) : List AttnState :=
  (List.range c.g).map fun g => (c.attn[g]?).getD ⟨negInf, 0, List.replicate 128 0⟩

/-- Row t from an address, under the configuration in force. -/
def rowAt (s : State) (P a t : Nat) : State × Option Nat :=
  let r := rowBytes (csvOf s P).fmt.toNat (csvOf s P).blk16
  dsramSpan s P (a + r * t) r

/-- A row that cannot be read stops the hart with ATTN_RANGE at the instruction's PC (R410). A hart that has stopped stays in its
state: only a running one becomes FAULTED (R265). -/
def unitTrap (s : State) (P : Nat) (u : UnitWork) : State :=
  setCsvF s P fun c => match c.state with
    | .running => { c with unit := none, state := .faulted, haltAsked := false, cause := 11, pc := u.pc }
    | .halted => { c with unit := none, cause := 11 }
    | .faulted => { c with unit := none }

/-- Step t of the instruction under way is done. -/
def stepDone (c : Csv) (u : UnitWork) (t : Nat) : Csv := { c with unit := if t + 1 = u.n then none else some { u with done := t + 1 } }

/-- Step t of the instruction under way: a token step over every query, or the score of a row, written by its time. -/
def unitStep (s : State) (P : Nat) (u : UnitWork) (t : Nat) : State :=
  let s := setCsvF s P fun c => landLines c (u.issue + 1 + t)
  match rowAt s P u.rows t with
  | (s, none) => unitTrap s P u
  | (s, some k) =>
    if u.score then
      setCsvF s P fun c => stepDone { c with scores := c.scores ++ [(u.issue + t + 11, u.second + 4 * t, bestScore c k)] } u t
    else match rowAt s P u.second t with
      | (s, none) => unitTrap s P u
      | (s, some v) => setCsvF s P fun c =>
          let bs := if c.blk16 then 16 else 32
          stepDone { c with attn := (attnStates c).zipIdx.map fun y => tokenStep y.1 (scoreOf c y.2 k) (rowElt c.fmt.toNat bs v) } u t

/-- The unit's steps up to CCLK cc. -/
def runUnit (s : State) (P cc : Nat) : State :=
  match (csvOf s P).unit with
  | none => s
  | some u => (List.range u.n).foldl (fun s t => match (csvOf s P).unit with
      | some w => if w.done = t && u.issue + 1 + t ≤ cc then unitStep s P w t else s
      | none => s) s

/-- The conservator as it stands at CCLK cc: the unit's steps, the lines and scores that have come in, and a halt at its
boundary. -/
def catchUp (s : State) (P cc : Nat) : State :=
  setCsvF (runUnit s P cc) P fun c => settleHalt (landLines c cc) cc

/-! ### Registers (R261, R265, R266) -/

/-- STATE of CSV_STATUS. -/
def csvStateCode (s : State) (P : Nat) : Nat :=
  if !domOn s .conservator P then 0 else match (csvOf s P).state with | .halted => 1 | .running => 2 | .faulted => 3

def pchShared (s : State) (P : Nat) : Bool := ((pinnedAt s P).map (·.2.shared)).getD false

def csvFaultWord (c : Csv) : Nat := c.faultBits.toNat + 16 * c.cause.toNat

/-- A CSV register's value. -/
def csvReg (s : State) (P off : Nat) : Nat :=
  let c := csvOf s P
  match off with
  | 0x21004 => c.pc.toNat % 2 ^ 15
  | 0x21008 => csvStateCode s P + 4 * b2n (pchOf s P).nbMode + 8 * b2n (pchShared s P) + 16 * c.pending + 512 * c.status.toNat
  | 0x2100C => csvFaultWord c
  | 0x21010 => c.faultLine.toNat
  | 0x21018 => c.head.toNat + 256 * c.tail.toNat
  | 0x2101C => c.doneCount.toNat
  | 0x21020 => c.paceWait.toNat
  | 0x21024 => c.refreshWait.toNat
  | 0x21028 => c.wakeWait.toNat
  | _ => 0

/-- A write of CSV_CTL with one of its bits set (R265): the hart starts at CSV_PC, which holds 15 bits. A halt takes effect at once
where no instruction is under way. -/
def csvStart (s : State) (P : Nat) : State :=
  setCsvF s P fun c =>
    let c := settleHalt c (cclk s 0)
    match c.state with
    | .running => c
    | _ => { c with state := .running, cause := 0, headSince := now s, pc := BitVec.ofNat 32 (c.pc.toNat % 2 ^ 15) }

def csvHalt (s : State) (P : Nat) : State :=
  setCsvF s P fun c => match c.state with
    | .running => if c.free ≤ cclk s 0 then { c with state := .halted, haltAsked := false } else { c with haltAsked := true }
    | _ => c

/-- A doorbell write at CCLK t (R266). -/
def csvDoorbell (s : State) (P n t : Nat) : State :=
  setCsvF s P fun c =>
    if n = 0 then c
    else if 16 < n ∨ 16 < c.pending + n then c.flag 1 t
    else { c with tail := c.tail + BitVec.ofNat 4 n, pending := c.pending + n,
                  headSince := if c.pending = 0 then now s else c.headSince }

/-- A window write of register word `off` at CCLK t. -/
def csvRegWrite (s : State) (P off v t : Nat) : State :=
  match off with
  | 0x21000 => if v % 4 = 1 then csvStart s P else if v % 4 = 2 then csvHalt s P else s
  | 0x21004 => setCsvF s P fun c => match c.state with
      | .running => c
      | _ => { c with pc := BitVec.ofNat 32 (v % 2 ^ 15) }
  | 0x21008 => setCsvF s P fun c => { c with status := c.status &&& ~~~(BitVec.ofNat 2 (bits v 9 2) &&& ~~~setIn c.setAt 0 2 t) }
  | 0x2100C => setCsvF s P fun c => { c with faultBits := c.faultBits &&& ~~~(BitVec.ofNat 3 v &&& ~~~setIn c.setAt 16 3 t) }
  | 0x21014 => csvDoorbell s P (v % 32) t
  | _ => s

/-! ### The window (R261, R262) -/

/-- A window word as a read finds it: its value, or none where it is uncorrectable. -/
def windowWord (s : State) (P off : Nat) : State × Option Nat :=
  let c := csvOf s P
  if inISram off || inDSram off then
    let f := sramWord c off
    (sramReport s P off f, f.data?)
  else if inCmds off then (s, some (slotWord c.cmds (off - 0x20000)))
  else if inResults off then (s, some (slotWord c.results (off - 0x20400)))
  else (s, some (csvReg s P off))

/-- A window read: 0 outside near-bank mode, but for CSV_STATUS. -/
def windowRead (s : State) (P n : Nat) (r : Req) (base pc : Nat) : State :=
  let words := (List.range 16).filter fun i => bits r.mask.toNat (4 * i) 4 ≠ 0
  let a := words.foldl (fun (a : State × Nat × Option Nat) i =>
    let off := base + 4 * i
    if !(pchOf s P).nbMode && off ≠ 0x21008 then a
    else match windowWord a.1 P off with
      | (s, some d) => (s, a.2.1 + d * 2 ^ (32 * i), a.2.2)
      | (s, none) => (s, a.2.1, some (a.2.2.getD off))) (s, 0, none)
  let why := a.2.2.map fun off =>
    let f := sramWord (csvOf s P) off
    (0x4000 + 64 * (P / 64 % 2) + P % 64, f.cls.1, f.cls.2.1, P / 128)
  let s := if why.isSome && !consumerFaults r then
      raiseFaultO a.1 (ownerOfPch s P) ⟨4, (why.map (·.2.1)).getD 2, P / 128, 64 * (P / 64 % 2) + P % 64, why⟩ else a.1
  answer s n { r with resp := BitVec.ofNat 512 a.2.1, poison := why.isSome, why := why } pc

/-- A window write of one word's bytes, at CCLK edge E. -/
def windowWriteWord (s : State) (P E off d mask : Nat) : State :=
  let c := csvOf s P
  if inISram off then
    match c.state with
    | .running => setCsv s P (c.flag 0 E)
    | _ =>
      let w := wordMerge c.isram sramCodec (off / 4) d mask
      sramFault (setCsv s P { c with isram := w.1 }) P off w.2
  else if inDSram off then
    let w := wordMerge c.dsram sramCodec ((off - 0x10000) / 4) d mask
    let held := (c.windowBytes.filter (E ≤ ·.1)) ++ [(E, off, mask)]
    sramFault (setCsv s P { c with dsram := w.1, windowBytes := held }) P off w.2
  else if inCmds off then setCsv s P { c with cmds := slotWrite c.cmds (off - 0x20000) d mask }
  else if inRegs off then
    let keep := if off = 0x21004 then csvReg s P off else 0
    csvRegWrite s P off (mergeBytes 4 keep d mask) E
  else s

def windowWrite (s : State) (P n : Nat) (r : Req) (base E : Nat) (ack : Nat) : State :=
  let s := if r.skip || !(pchOf s P).nbMode then s
    else (List.range 16).foldl (fun s i =>
      let m := bits r.mask.toNat (4 * i) 4
      if m = 0 then s else windowWriteWord s P E (base + 4 * i) (bits r.data.toNat (32 * i) 32) m) s
  answer s n r ack

/-- A window access of PCLK t, with its pseudo-channel and the offset of its block. -/
def windowAt (s : State) (req : Nat) (f : Req → Nat → Nat → Nat → Option Nat → Result) : Result :=
  match find s.net req with
  | none => .next s
  | some r =>
    match r.stage, spaceOf s r.addr with
    | .window t wake, .window P off => f r P (off / 64 * 64) t wake
    | _, _ => .next s

/-- CCLK in which a PCLK edge falls, for what stands in the D-SRAM at that edge. -/
def cclkOfPclk (t : Nat) : Nat := ceilDiv (4 * t) 5

def readNow (s : State) (P req : Nat) (r : Req) (base pc : Nat) : State :=
  windowRead (catchUp s P (cclkOfPclk pc)) P req r base pc

/-- A write at its edge E. A step of the attention unit in that CCLK sees it, so the unit is taken to the CCLK before. -/
def writeNow (s : State) (P req : Nat) (r : Req) (base t : Nat) : State :=
  let E := cclkOfPclk (t + 20)
  windowWrite (setCsvF (runUnit s P (E - 1)) P fun c => settleHalt (landLines c E) E) P req r base E (t + 32)

/-- NB_WINDOW_READ, R262: data at t + 40. -/
def execNbWindowRead (req : Nat) (j : Fin 5) (s : State) : Result :=
  windowAt s req fun r P base t wake =>
    onlyIf (live s && isLoad r && wake.isNone && !inDomainReset s 3 (P / 64) && pclk s j.val = t + 40) s (readNow s P req r base (t + 40))

/-- NB_WINDOW_WRITE, R262: the effect comes at the first CCLK edge at or after t + 20, and the acknowledgement at t + 32. -/
def execNbWindowWrite (req : Nat) (j : Fin 5) (s : State) : Result :=
  windowAt s req fun r P base t wake =>
    onlyIf (live s && !isLoad r && wake.isNone && !inDomainReset s 3 (P / 64) && pclk s j.val = t + 20) s (writeNow s P req r base t)

/-- NB_WINDOW_ACCESS_AFTER_WAKE, R262: an access that met an OFF conservator, 2,500 beats of wake later. -/
def execNbWindowAccessAfterWake (req : Nat) (j : Fin 5) (s : State) : Result :=
  windowAt s req fun r P base t wake =>
    let ok := live s && wake.isSome && domOn s .conservator P && !inDomainReset s 3 (P / 64)
    if isLoad r then onlyIf (ok && pclk s j.val = t + 40) s (readNow s P req r base (t + 40))
    else onlyIf (ok && pclk s j.val = t + 20) s (writeNow s P req r base t)

/-! ### Control (R265, R266, R447) -/

/-- A register write reaches the conservator: it is awake, in near-bank mode. -/
def csvReached (s : State) (P : Nat) : Bool :=
  live s && domOn s .conservator P && (pchOf s P).nbMode && !inDomainReset s 3 (P / 64)

/-- CSV_START, R265. -/
def execCsvStart (pch : Fin 1024) (s : State) : Result := onlyIf (csvReached s pch.val) s (csvStart s pch.val)

/-- CSV_HALT, R265. -/
def execCsvHalt (pch : Fin 1024) (s : State) : Result := onlyIf (csvReached s pch.val) s (csvHalt s pch.val)

/-- CSV_DOORBELL, R266. -/
def execCsvDoorbell (pch : Fin 1024) (count : BitVec 5) (s : State) : Result :=
  onlyIf (csvReached s pch.val) s (csvDoorbell s pch.val count.toNat (cclk s 0))

/-- CONSERVATOR_SWITCH_OFF, R265: OFF once no burst is in flight. -/
def execConservatorSwitchOff (pch : Fin 1024) (s : State) : Result :=
  let P := pch.val
  let c := csvOf s P
  onlyIf (live s && domOn s .conservator P && c.switchOff && c.bursts = []) s
    (setDom (setCsv s P { c with switchOff := false }) .conservator P {})

/-! ### Instructions: RV32C expansion and RV32IM decoding (R263, R264, R267) -/

/-- What a hart's instruction is. -/
inductive RvOp where
  | alu | branch | load | store | mul | div | fence | ecall | ebreak
  | nb (funct7 : Nat)
deriving DecidableEq, Repr

def rvI (imm rs1 f3 rd op : Nat) : Nat := (imm % 4096) * 2 ^ 20 + rs1 * 2 ^ 15 + f3 * 2 ^ 12 + rd * 2 ^ 7 + op
def rvR (f7 rs2 rs1 f3 rd op : Nat) : Nat := f7 * 2 ^ 25 + rs2 * 2 ^ 20 + rs1 * 2 ^ 15 + f3 * 2 ^ 12 + rd * 2 ^ 7 + op
def rvS (imm rs2 rs1 f3 : Nat) : Nat := bits imm 5 7 * 2 ^ 25 + rs2 * 2 ^ 20 + rs1 * 2 ^ 15 + f3 * 2 ^ 12 + imm % 32 * 2 ^ 7 + 0x23
def rvB (imm rs1 f3 : Nat) : Nat :=
  bits imm 12 1 * 2 ^ 31 + bits imm 5 6 * 2 ^ 25 + rs1 * 2 ^ 15 + f3 * 2 ^ 12 + bits imm 1 4 * 2 ^ 8 + bits imm 11 1 * 2 ^ 7 + 0x63
def rvJ (imm rd : Nat) : Nat :=
  bits imm 20 1 * 2 ^ 31 + bits imm 1 10 * 2 ^ 21 + bits imm 11 1 * 2 ^ 20 + bits imm 12 8 * 2 ^ 12 + rd * 2 ^ 7 + 0x6F

/-- Sign-extend the low w bits to 32. -/
def sext (w x : Nat) : Nat := (toSigned w x).emod (2 ^ 32) |>.toNat

/-- Jump offset of a CJ-format word and branch offset of a CB-format word. -/
def cjImm (h : Nat) : Nat :=
  sext 12 (bits h 12 1 * 2 ^ 11 + bits h 8 1 * 2 ^ 10 + bits h 9 2 * 2 ^ 8 + bits h 6 1 * 2 ^ 7 + bits h 7 1 * 2 ^ 6
    + bits h 2 1 * 2 ^ 5 + bits h 11 1 * 2 ^ 4 + bits h 3 3 * 2)
def cbImm (h : Nat) : Nat :=
  sext 9 (bits h 12 1 * 2 ^ 8 + bits h 5 2 * 2 ^ 6 + bits h 2 1 * 2 ^ 5 + bits h 10 2 * 2 ^ 3 + bits h 3 2 * 2)

/-- Quadrant 1 arithmetic on a pair of the eight registers. -/
def expandArith (h : Nat) : Option Nat :=
  let rd := 8 + bits h 7 3
  let rs2 := 8 + bits h 2 3
  let imm := sext 6 (bits h 12 1 * 32 + bits h 2 5)
  match bits h 10 2 with
  | 0 => if bits h 12 1 = 1 then none else some (rvI (bits h 2 5) rd 5 rd 0x13)
  | 1 => if bits h 12 1 = 1 then none else some (rvI (0x400 + bits h 2 5) rd 5 rd 0x13)
  | 2 => some (rvI imm rd 7 rd 0x13)
  | _ =>
    if bits h 12 1 = 1 then none
    else match bits h 5 2 with
      | 0 => some (rvR 0x20 rs2 rd 0 rd 0x33)
      | 1 => some (rvR 0 rs2 rd 4 rd 0x33)
      | 2 => some (rvR 0 rs2 rd 6 rd 0x33)
      | _ => some (rvR 0 rs2 rd 7 rd 0x33)

/-- Quadrant 2, funct3 4: c.jr, c.mv, c.ebreak, c.jalr and c.add. -/
def expandJumpMove (h : Nat) : Option Nat :=
  let rd := bits h 7 5
  let rs2 := bits h 2 5
  if bits h 12 1 = 0 then
    if rs2 = 0 then (if rd = 0 then none else some (rvI 0 rd 0 0 0x67)) else some (rvR 0 rs2 0 0 rd 0x33)
  else if rs2 = 0 then (if rd = 0 then some 0x00100073 else some (rvI 0 rd 0 1 0x67))
  else some (rvR 0 rs2 rd 0 rd 0x33)

/-- The expansion of a 16-bit RV32C instruction; none where it is reserved. -/
def expandC (h : Nat) : Option Nat :=
  let rdp := 8 + bits h 2 3
  let rsp := 8 + bits h 7 3
  let rd := bits h 7 5
  let lwImm := bits h 5 1 * 64 + bits h 10 3 * 8 + bits h 6 1 * 4
  let imm6 := sext 6 (bits h 12 1 * 32 + bits h 2 5)
  match h % 4 * 8 + bits h 13 3 with
  | 0 =>
    let imm := bits h 7 4 * 64 + bits h 11 2 * 16 + bits h 5 1 * 8 + bits h 6 1 * 4
    if imm = 0 then none else some (rvI imm 2 0 rdp 0x13)
  | 2 => some (rvI lwImm rsp 2 rdp 0x03)
  | 6 => some (rvS lwImm rdp rsp 2)
  | 8 => some (rvI imm6 rd 0 rd 0x13)
  | 9 => some (rvJ (cjImm h) 1)
  | 10 => some (rvI imm6 0 0 rd 0x13)
  | 11 =>
    if rd = 2 then
      let imm := sext 10 (bits h 12 1 * 512 + bits h 3 2 * 128 + bits h 5 1 * 64 + bits h 2 1 * 32 + bits h 6 1 * 16)
      if imm = 0 then none else some (rvI imm 2 0 2 0x13)
    else if imm6 = 0 then none
    else some (imm6 % 2 ^ 20 * 2 ^ 12 + rd * 2 ^ 7 + 0x37)
  | 12 => expandArith h
  | 13 => some (rvJ (cjImm h) 0)
  | 14 => some (rvB (cbImm h) rsp 0)
  | 15 => some (rvB (cbImm h) rsp 1)
  | 16 => if bits h 12 1 = 1 then none else some (rvI (bits h 2 5) rd 1 rd 0x13)
  | 18 =>
    let imm := bits h 2 2 * 64 + bits h 12 1 * 32 + bits h 4 3 * 4
    if rd = 0 then none else some (rvI imm 2 2 rd 0x03)
  | 20 => expandJumpMove h
  | 22 => some (rvS (bits h 7 2 * 64 + bits h 9 4 * 4) (bits h 2 5) 2 2)
  | _ => none

def rvRd (w : Nat) : Nat := bits w 7 5
def rvF3 (w : Nat) : Nat := bits w 12 3
def rvRs1 (w : Nat) : Nat := bits w 15 5
def rvRs2 (w : Nat) : Nat := bits w 20 5
def rvF7 (w : Nat) : Nat := bits w 25 7

/-- The register fields an Xaqnb instruction uses: rd, rs1, rs2; none where funct7 is reserved (R268). -/
def nbFields (f7 : Nat) : Option (Bool × Bool × Bool) :=
  match f7 with
  | 0 => some (true, true, true)
  | 1 => some (true, true, true)
  | 2 => some (false, true, false)
  | 3 => some (true, false, false)
  | 4 => some (false, true, false)
  | 8 => some (false, true, true)
  | 9 => some (false, true, false)
  | 10 => some (false, true, true)
  | 11 => some (false, true, true)
  | 12 => some (false, true, false)
  | 16 => some (true, false, false)
  | 17 => some (false, true, true)
  | 18 => some (true, false, false)
  | _ => none

/-- Decode a 32-bit instruction; none where it is reserved. -/
def rvDecode (w : Nat) : Option RvOp :=
  let f3 := rvF3 w
  let f7 := rvF7 w
  match w % 128 with
  | 0x37 => some .alu
  | 0x17 => some .alu
  | 0x13 => if f3 = 1 then (if f7 = 0 then some .alu else none)
      else if f3 = 5 then (if f7 = 0 ∨ f7 = 0x20 then some .alu else none) else some .alu
  | 0x33 => if f7 = 0 then some .alu
      else if f7 = 0x20 then (if f3 = 0 ∨ f3 = 5 then some .alu else none)
      else if f7 = 1 then (if f3 < 4 then some .mul else some .div) else none
  | 0x63 => if f3 = 2 ∨ f3 = 3 then none else some .branch
  | 0x6F => some .branch
  | 0x67 => if f3 = 0 then some .branch else none
  | 0x03 => if f3 = 3 ∨ 6 ≤ f3 then none else some .load
  | 0x23 => if f3 ≤ 2 then some .store else none
  | 0x0F => if f3 = 0 then some .fence else none
  | 0x73 => if w = 0x73 then some .ecall else if w = 0x00100073 then some .ebreak else none
  | 0x0B =>
    match nbFields f7 with
    | some (d, a, b) =>
      if f3 = 0 && (d || rvRd w = 0) && (a || rvRs1 w = 0) && (b || rvRs2 w = 0) then some (.nb f7) else none
    | none => none
  | _ => none

/-- Source registers of an instruction. -/
def rvSources (op : RvOp) (w : Nat) : List Nat :=
  match op with
  | .alu => if w % 128 = 0x33 then [rvRs1 w, rvRs2 w] else if w % 128 = 0x13 then [rvRs1 w] else []
  | .branch => if w % 128 = 0x63 then [rvRs1 w, rvRs2 w] else if w % 128 = 0x67 then [rvRs1 w] else []
  | .load => [rvRs1 w]
  | .store => [rvRs1 w, rvRs2 w]
  | .mul => [rvRs1 w, rvRs2 w]
  | .div => [rvRs1 w, rvRs2 w]
  | .nb f7 => match nbFields f7 with
    | some (_, a, b) => (if a then [rvRs1 w] else []) ++ (if b then [rvRs2 w] else [])
    | none => []
  | _ => []

/-! ### Issue -/

/-- An instruction at issue: its pseudo-channel, word, length, CCLK and the conservator. -/
structure HartAt where
  P : Nat
  w : Nat
  len : Nat
  g : Nat
  c : Csv

def getX (c : Csv) (r : Nat) : Word := if r = 0 then 0 else look c.x r 0
def HartAt.a (h : HartAt) : Word := getX h.c (rvRs1 h.w)
def HartAt.b (h : HartAt) : Word := getX h.c (rvRs2 h.w)

/-- Write rd, usable after `lat` CCLK. -/
def setX (c : Csv) (g r : Nat) (v : Word) (lat : Nat) : Csv :=
  if r = 0 then c else { c with x := put c.x r v, xReady := put c.xReady r (g + lat) }

/-- A trap stops the hart in FAULTED (R263). -/
def trapCsv (s : State) (P cause : Nat) : State :=
  setCsvF s P fun c => { c with state := .faulted, haltAsked := false, cause := BitVec.ofNat 4 cause }

/-- The instruction completes: the next PC, and the CCLK from which the hart may issue again. -/
def retire (s : State) (h : HartAt) (c : Csv) (issue : Nat) : State :=
  setCsv s h.P { c with pc := c.pc + BitVec.ofNat 32 h.len, free := h.g + issue }

/-- The code word at an I-SRAM address. -/
def codeWord (s : State) (P a : Nat) : State × Option Nat :=
  let f := sramWord (csvOf s P) a
  (sramFault s P (a / 4 * 4) f, f.data?)

/-- The instruction at the hart's PC, with its length: or the cause of the trap that fetching it raises. -/
def fetchRv (s : State) (P : Nat) : State × (Nat ⊕ (Nat × Nat)) :=
  let pc := (csvOf s P).pc.toNat
  if pc % 2 = 1 ∨ 0x8000 < pc + 2 then (s, .inl 2)
  else match codeWord s P pc with
    | (s, none) => (s, .inl 2)
    | (s, some d) =>
      let h := bits d (8 * (pc % 4)) 16
      if h % 4 ≠ 3 then
        match expandC h with
        | some w => (s, .inr (w, 2))
        | none => (s, .inl 1)
      else if 0x8000 < pc + 4 then (s, .inl 2)
      else if pc % 4 = 0 then (s, .inr (d, 4))
      else match codeWord s P (pc + 2) with
        | (s, none) => (s, .inl 2)
        | (s, some d') => (s, .inr (h + 2 ^ 16 * (d' % 2 ^ 16), 4))

/-- The hart may issue at CCLK g. -/
def hartReady (s : State) (P g : Nat) : Bool :=
  let c := csvOf s P
  live s && domOn s .conservator P && c.state = .running && !c.haltAsked && c.free ≤ g && !inDomainReset s 3 (P / 64)

/-- An instruction command: at an instruction boundary of a hart that still runs once the attention unit's steps up to here are done, the instruction at its PC issues if
it is the command's and its operands are usable. A trap of the fetch or of the decoding is taken whichever command meets it. -/
def hart (pch : Fin 1024) (j : Fin 4) (op : RvOp) (act : State → HartAt → State) (s : State) : Result :=
  let P := pch.val
  let g := cclk s j.val
  let s1 := catchUp s P g
  if !hartReady s P g || !hartReady s1 P g then .next s
  else
    match fetchRv s1 P with
    | (s2, .inl cause) => .next (trapCsv s2 P cause)
    | (s2, .inr (w, len)) =>
      match rvDecode w with
      | none => .next (trapCsv s2 P 1)
      | some o =>
        let c := csvOf s2 P
        let ready := (rvSources o w).all fun r => r = 0 || look c.xReady r 0 ≤ g
        onlyIf (o = op && ready) s (act s2 ⟨P, w, len, g, c⟩)

/-! ### RV32IM (R263, R264) -/

/-- Immediate of an I-type instruction, and of an S-type one. -/
def immI (w : Nat) : Word := BitVec.ofNat 32 (sext 12 (bits w 20 12))
def immS (w : Nat) : Word := BitVec.ofNat 32 (sext 12 (bits w 25 7 * 32 + bits w 7 5))
def immB (w : Nat) : Word :=
  BitVec.ofNat 32 (sext 13 (bits w 31 1 * 2 ^ 12 + bits w 7 1 * 2 ^ 11 + bits w 25 6 * 32 + bits w 8 4 * 2))
def immJ (w : Nat) : Word :=
  BitVec.ofNat 32 (sext 21 (bits w 31 1 * 2 ^ 20 + bits w 12 8 * 2 ^ 12 + bits w 20 1 * 2 ^ 11 + bits w 21 10 * 2))

/-- The integer operation of funct3, with the alternative of funct7 0x20. -/
def rvArith (f3 : Nat) (alt : Bool) (a b : Word) : Word :=
  let sh := b.toNat % 32
  match f3 with
  | 0 => if alt then a - b else a + b
  | 1 => a <<< sh
  | 2 => if a.slt b then 1 else 0
  | 3 => if a.ult b then 1 else 0
  | 4 => a ^^^ b
  | 5 => if alt then a.sshiftRight sh else a >>> sh
  | 6 => a ||| b
  | _ => a &&& b

def rvAluValue (h : HartAt) : Word :=
  let w := h.w
  match w % 128 with
  | 0x37 => BitVec.ofNat 32 (w / 4096 * 4096)
  | 0x17 => h.c.pc + BitVec.ofNat 32 (w / 4096 * 4096)
  | 0x13 => rvArith (rvF3 w) (rvF3 w = 5 && rvF7 w = 0x20) h.a (immI w)
  | _ => rvArith (rvF3 w) (rvF7 w = 0x20) h.a h.b

/-- RV_INTEGER_ALU, R264. -/
def execRvIntegerAlu (pch : Fin 1024) (j : Fin 4) (s : State) : Result :=
  hart pch j .alu (fun s h => retire s h (setX h.c h.g (rvRd h.w) (rvAluValue h) 1) 1) s

def branchTaken (f3 : Nat) (a b : Word) : Bool :=
  match f3 with
  | 0 => a = b
  | 1 => a ≠ b
  | 4 => a.slt b
  | 5 => !a.slt b
  | 6 => a.ult b
  | _ => !a.ult b

/-- A transfer of control. -/
def jumpTo (s : State) (h : HartAt) (target : Word) (rd : Nat) : State :=
  let c := setX h.c h.g rd (h.c.pc + BitVec.ofNat 32 h.len) 1
  setCsv s h.P { c with pc := target, free := h.g + 2 }

def rvBranch (s : State) (h : HartAt) : State :=
  match h.w % 128 with
  | 0x6F => jumpTo s h (h.c.pc + immJ h.w) (rvRd h.w)
  | 0x67 => jumpTo s h ((h.a + immI h.w) &&& ~~~1#32) (rvRd h.w)
  | _ => if branchTaken (rvF3 h.w) h.a h.b then jumpTo s h (h.c.pc + immB h.w) 0 else retire s h h.c 1

/-- RV_BRANCH_JUMP, R264. -/
def execRvBranchJump (pch : Fin 1024) (j : Fin 4) (s : State) : Result := hart pch j .branch rvBranch s

/-- The offset is mapped by R261. -/
def csvMapped (off : Nat) : Bool := inISram off || inDSram off || inCmds off || inResults off || (0x21000 ≤ off && off < 0x21030)

/-- A load's value from the word at its address. -/
def loadBits (f3 a d : Nat) : Word :=
  let x := d >>> (8 * (a % 4))
  match f3 with
  | 0 => BitVec.ofNat 32 (sext 8 (x % 256))
  | 1 => BitVec.ofNat 32 (sext 16 (x % 2 ^ 16))
  | 4 => BitVec.ofNat 32 (x % 256)
  | 5 => BitVec.ofNat 32 (x % 2 ^ 16)
  | _ => BitVec.ofNat 32 x

def rvLoad (s : State) (h : HartAt) : State :=
  let a := (h.a + immI h.w).toNat
  let f3 := rvF3 h.w
  if a % 2 ^ (f3 % 4) ≠ 0 then trapCsv s h.P 3
  else if !csvMapped a then trapCsv s h.P 4
  else
    let off := a / 4 * 4
    let sram := inISram a || inDSram a
    match windowWord s h.P off with
    | (s', some d) => retire s' h (setX h.c h.g (rvRd h.w) (loadBits f3 a d) (if sram then 2 else 4)) 1
    | (_, none) => trapCsv (sramFault s h.P off (sramWord h.c off)) h.P (if inISram a then 2 else 4)

/-- RV_LOAD, R264. -/
def execRvLoad (pch : Fin 1024) (j : Fin 4) (s : State) : Result := hart pch j .load rvLoad s

/-- Bytes of a D-SRAM word that a window write holds at CCLK g: it prevails over a store at its edge (R262). -/
def windowMask (c : Csv) (off g : Nat) : Nat := (c.windowBytes.filter fun x => x.2.1 = off && g ≤ x.1).foldl (fun m x => m ||| x.2.2 % 16) 0

def rvStore (s : State) (h : HartAt) : State :=
  let a := (h.a + immS h.w).toNat
  let n := 2 ^ rvF3 h.w
  let d := h.b.toNat * 2 ^ (8 * (a % 4))
  let mask := (2 ^ n - 1) * 2 ^ (a % 4)
  if a % n ≠ 0 then trapCsv s h.P 5
  else if inResults a then
    retire s h { h.c with results := slotWrite h.c.results (a / 4 * 4 - 0x20400) d mask } 1
  else if inDSram a then
    let off := a / 4 * 4
    let w := wordMerge h.c.dsram sramCodec ((off - 0x10000) / 4) d (mask &&& (15 - windowMask h.c off h.g))
    let s := sramFault s h.P off w.2
    if w.2.data?.isNone then trapCsv s h.P 6 else retire s h { h.c with dsram := w.1 } 1
  else trapCsv s h.P 6

/-- RV_STORE, R264. -/
def execRvStore (pch : Fin 1024) (j : Fin 4) (s : State) : Result := hart pch j .store rvStore s

/-- Products of the M extension. -/
def rvMulValue (f3 : Nat) (a b : Word) : Word :=
  match f3 with
  | 0 => a * b
  | 1 => BitVec.ofInt 32 (a.toInt * b.toInt / (2 ^ 32 : Nat))
  | 2 => BitVec.ofInt 32 (a.toInt * (b.toNat : Int) / (2 ^ 32 : Nat))
  | _ => BitVec.ofNat 32 (a.toNat * b.toNat / 2 ^ 32)

/-- RV_MUL, R264. -/
def execRvMul (pch : Fin 1024) (j : Fin 4) (s : State) : Result :=
  hart pch j .mul (fun s h => retire s h (setX h.c h.g (rvRd h.w) (rvMulValue (rvF3 h.w) h.a h.b) 3) 1) s

/-- Quotients and remainders of the M extension, with its results for a divisor of 0 and for overflow. -/
def rvDivValue (f3 : Nat) (a b : Word) : Word :=
  match f3 with
  | 4 => if b = 0 then BitVec.allOnes 32 else BitVec.ofInt 32 (a.toInt.tdiv b.toInt)
  | 5 => if b = 0 then BitVec.allOnes 32 else a / b
  | 6 => if b = 0 then a else BitVec.ofInt 32 (a.toInt.tmod b.toInt)
  | _ => if b = 0 then a else a % b

/-- RV_DIV, R264. -/
def execRvDiv (pch : Fin 1024) (j : Fin 4) (s : State) : Result :=
  hart pch j .div (fun s h => retire s h (setX h.c h.g (rvRd h.w) (rvDivValue (rvF3 h.w) h.a h.b) 34) 34) s

/-- RV_FENCE, R263. -/
def execRvFence (pch : Fin 1024) (j : Fin 4) (s : State) : Result := hart pch j .fence (fun s h => retire s h h.c 1) s

/-- ECALL, R263: the hart traps. -/
def execEcall (pch : Fin 1024) (j : Fin 4) (s : State) : Result := hart pch j .ecall (fun s h => trapCsv s h.P 7) s

/-- EBREAK, R263. -/
def execEbreak (pch : Fin 1024) (j : Fin 4) (s : State) : Result := hart pch j .ebreak (fun s h => trapCsv s h.P 8) s

/-! ### Bursts (R257, R259, R268 to R271) -/

/-- Accept a burst, or trap. -/
def nbBurst (write : Bool) (s : State) (h : HartAt) : State :=
  let P := h.P
  let a := h.a.toNat
  let b := h.b.toNat
  let first := bits b 0 23
  let n := bits b 23 6 + 1
  if bits b 29 3 ≠ 0 then trapCsv s P 1
  else if !(pchOf s P).nbMode || !pchShared s P then trapCsv s P 9
  else if a % 128 ≠ 0 ∨ a < 0x10000 ∨ 0x20000 < a + 128 * n ∨ 2 ^ 23 < first + n then trapCsv s P 10
  else
    let pace := 2 ^ (vaultOf s (P / 64)).pace.toNat
    let u := assignSlots s P { ticket := h.c.nextTicket, write := write, dst := a, line := first, n := n, beta := ceilDiv h.g 4 * 4
                               pace := pace, slots := [] } 0 h.c.lastSlot
    let c := { h.c with
      bursts := h.c.bursts ++ [u], nextTicket := h.c.nextTicket + 1, lastSlot := u.slots.getLastD 0
      paceWait := satAdd h.c.paceWait (n * (pace - 1)), refreshWait := satAdd h.c.refreshWait (262 * u.moved.length) }
    retire s h (setX c h.g (rvRd h.w) h.c.nextTicket 1) 1

/-- The instruction waits while a condition does not hold. -/
def waitUntil (ok : HartAt → Bool) (act : State → HartAt → State) (s : State) (h : HartAt) : State :=
  if ok h then act s h else setCsv s h.P h.c

/-- NB_RD, R269. -/
def execNbRd (pch : Fin 1024) (j : Fin 4) (s : State) : Result :=
  hart pch j (.nb 0) (waitUntil (fun h => h.c.bursts.length < 8) (nbBurst false)) s

/-- NB_WR, R269. -/
def execNbWr (pch : Fin 1024) (j : Fin 4) (s : State) : Result :=
  hart pch j (.nb 1) (waitUntil (fun h => h.c.bursts.length < 8) (nbBurst true)) s

/-- NB_WAIT, R268: no burst with a ticket up to rs1 is pending. -/
def execNbWait (pch : Fin 1024) (j : Fin 4) (s : State) : Result :=
  hart pch j (.nb 2) (waitUntil (fun h => h.c.bursts.all fun u => (h.a - u.ticket).msb) fun s h => retire s h h.c 1) s

/-- NB_BEAT, R268. -/
def execNbBeat (pch : Fin 1024) (j : Fin 4) (s : State) : Result :=
  hart pch j (.nb 3) (fun s h => retire s h (setX h.c h.g (rvRd h.w) (s.beat.setWidth 32) 1) 1) s

/-- NB_UNTIL, R268. -/
def execNbUntil (pch : Fin 1024) (j : Fin 4) (s : State) : Result :=
  hart pch j (.nb 4) (fun s h => waitUntil (fun h => !(s.beat.setWidth 32 - h.a).msb) (fun s h => retire s h h.c 1) s h) s

/-- Words of a line of P, as its burst read meets them: reported, with CSV_FAULT and the job fault of an uncorrectable one
(R257). -/
def burstRead (s : State) (P line cc : Nat) : State × List (Option (BitVec 256)) :=
  let raw := vaultRaw s P (128 * line)
  (List.range 4).foldl (fun (a : State × List (Option (BitVec 256))) k =>
    let f := vaultFinding raw k
    let s := vaultFault (vaultNote a.1 P (128 * line) k f) (ownerOfPch s P) P f
    let s := setCsvF s P fun c =>
      if f.cls.1 = 0 then c
      else if f.data?.isSome then c.faultFlag 1 cc
      else { c.faultFlag 0 cc with faultLine := if c.faultBits.getLsbD 0 then c.faultLine else BitVec.ofNat 23 line }
    (s, a.2 ++ [f.data?.map (BitVec.ofNat 256)])) (s, [])

/-- A burst write of one line: each 32 B word through the encoder; one that the D-SRAM cannot give leaves as poison. -/
def burstWrite (s : State) (P line dst : Nat) : State :=
  (List.range 4).foldl (fun s k =>
    let fs := (List.range 8).map fun i => sramWord (csvOf s P) (dst + 32 * k + 4 * i)
    let s := fs.zipIdx.foldl (fun s x => sramFault s P (dst + 32 * k + 4 * x.2) x.1) s
    let d := fs.zipIdx.foldl (fun a x => a + (x.1.data?.getD 0) * 2 ^ (32 * x.2)) 0
    if fs.any (·.data?.isNone) then vaultPut s P (128 * line) k .poison else vaultPut s P (128 * line) k (.clean d)) s

/-- An ordinary request has its window at the beat's first PCLK, which comes before a line of the same instant (R271). -/
def windowDue (s : State) (P : Nat) : Bool :=
  let a := pclk s 0
  match openWindow s P a with
  | some cls => (pchOf s P).queue.any fun c => c.window.isNone && c.arrive ≤ a && c.scheduled = cls
  | none => false

/-- BURST_LINE, R269 to R271, R385: the line at its slot. Outside near-bank mode, or where the granule is no longer shared, it keeps its
slot and does not reach DRAM (R259). -/
def execBurstLine (pch : Fin 1024) (j : Fin 4) (s : State) : Result :=
  let P := pch.val
  let g := cclk s j.val
  let s1 := catchUp s P g
  let c := csvOf s1 P
  match c.bursts.find? fun u => u.slots[u.done]? = some g with
  | none => .next s
  | some u =>
    let line := u.line + u.done
    let dst := u.dst + 128 * u.done
    let reach := (pchOf s P).nbMode && pchShared s P
    let r := if !reach then (s1, []) else if u.write then (burstWrite s1 P line dst, []) else burstRead s1 P line (cclk s j.val)
    let u' := { u with done := u.done + 1, landing := if u.write then u.landing else u.landing ++ [(g + 69, dst, r.2)] }
    let s2 := setCsvF r.1 P fun c => { c with bursts := c.bursts.map fun x => if x.ticket = u.ticket then u' else x }
    onlyIf (live s && !(j = 0 && windowDue s P)) s (match reach, csvListed s P, ownerOfPch s P with
      | true, false, some p => charge s2 p (168 + P / 64) 4000
      | _, _, _ => s2)

/-- BURST_COMPLETE, R269: past the end of L + 68 of its last line. -/
def execBurstComplete (pch : Fin 1024) (j : Fin 4) (s : State) : Result :=
  let P := pch.val
  let g := cclk s j.val
  let s1 := catchUp s P g
  let c := csvOf s1 P
  match c.bursts.find? fun u => u.done = u.n && u.slots.getLast?.map (· + 69) = some g with
  | none => .next s
  | some u => onlyIf (live s) s (setCsv s1 P { c with bursts := c.bursts.filter fun x => x.ticket ≠ u.ticket })

/-! ### Attention (R272 to R275) -/

/-- The span lies in the D-SRAM and is aligned to 4. -/
def spanOk (a n : Nat) : Bool := a % 4 = 0 && 0x10000 ≤ a && a + n ≤ 0x20000

/-- NB_ACFG, R268. -/
def execNbAcfg (pch : Fin 1024) (j : Fin 4) (s : State) : Result :=
  hart pch j (.nb 8) (waitUntil (fun h => h.c.unitFree ≤ h.g) fun s h =>
    let a := h.a.toNat
    if 256 ≤ a || a % 16 < 5 || 10 < a % 16 || (s.boot.legacy && a.testBit 4) then trapCsv s h.P 1
    else retire s h { h.c with fmt := BitVec.ofNat 4 a, blk16 := a.testBit 4, g := bits a 5 3 + 1, scale := h.b } 1) s

/-- NB_QLD, R273. -/
def execNbQld (pch : Fin 1024) (j : Fin 4) (s : State) : Result :=
  hart pch j (.nb 9) (waitUntil (fun h => h.c.unitFree ≤ h.g) fun s h =>
    let a := h.a.toNat
    let n := 512 * h.c.g
    if !spanOk a n then trapCsv s h.P 11
    else match dsramSpan s h.P a n with
      | (s', none) => trapCsv s' h.P 11
      | (s', some d) =>
        retire s' h { h.c with
          q := (List.range (128 * h.c.g)).map fun i => BitVec.ofNat 32 (bits d (32 * i) 32)
          attn := List.replicate h.c.g ⟨negInf, 0, List.replicate 128 0⟩
          unitFree := h.g + 8 * h.c.g } 1) s

/-- An instruction of n steps goes to the unit, which is busy for n CCLK. -/
def startUnit (s : State) (h : HartAt) (score : Bool) (rows second n : Nat) : State :=
  let c := { h.c with unit := some { score := score, issue := h.g, pc := h.c.pc, rows := rows, second := second, n := n }
                      unitFree := h.g + n }
  retire s h (if score then c else { c with finalAt := h.g + n + 11, final := false }) 1

/-- NB_ATTN, R273: its steps follow in their CCLKs. -/
def execNbAttn (pch : Fin 1024) (j : Fin 4) (s : State) : Result :=
  hart pch j (.nb 10) (waitUntil (fun h => h.c.unitFree ≤ h.g) fun s h =>
    let b := h.b.toNat
    let n := bits b 16 6 + 1
    let v := 0x10000 + bits b 0 16
    let r := rowBytes h.c.fmt.toNat h.c.blk16
    if b / 2 ^ 22 ≠ 0 then trapCsv s h.P 1
    else if !spanOk h.a.toNat (n * r) || !spanOk v (n * r) then trapCsv s h.P 11
    else startUnit s h false h.a.toNat v n) s

/-- NB_SCORE, R274: its steps follow in their CCLKs. -/
def execNbScore (pch : Fin 1024) (j : Fin 4) (s : State) : Result :=
  hart pch j (.nb 11) (waitUntil (fun h => h.c.unitFree ≤ h.g) fun s h =>
    let b := h.b.toNat
    let n := bits b 16 6 + 1
    let out := 0x10000 + bits b 0 16
    let r := rowBytes h.c.fmt.toNat h.c.blk16
    if b / 2 ^ 22 ≠ 0 then trapCsv s h.P 1
    else if !spanOk h.a.toNat (n * r) || !spanOk out (4 * n) then trapCsv s h.P 11
    else startUnit s h true h.a.toNat out n) s

/-- A query's partial record, by words (R275). -/
def partialRecord (a : AttnState) : List Word := [a.m, a.l] ++ a.o

/-- NB_OST, R275. -/
def execNbOst (pch : Fin 1024) (j : Fin 4) (s : State) : Result :=
  hart pch j (.nb 12) (waitUntil (fun h => h.c.unitFree ≤ h.g && h.c.final) fun s h =>
    let a := h.a.toNat
    if !spanOk a (520 * h.c.g) then trapCsv s h.P 11
    else
      let ws := (attnStates h.c).flatMap partialRecord
      let c := ws.zipIdx.foldl (fun c x => dWrite c (a + 4 * x.2) x.1.toNat) h.c
      retire s h { c with unitFree := h.g + ceilDiv (520 * h.c.g) 64 } 1) s

/-- ATTENTION_STATE_FINAL, R273. -/
def execAttentionStateFinal (pch : Fin 1024) (j : Fin 4) (s : State) : Result :=
  let P := pch.val
  let c := csvOf s P
  let s1 := catchUp s P (cclk s j.val)
  onlyIf (live s && !c.final && c.finalAt = cclk s j.val && !inDomainReset s 3 (P / 64)) s (setCsvF s1 P fun c => { c with final := true })

/-! ### Commands and faults (R266, R268) -/

/-- NB_CMD, R268. -/
def execNbCmd (pch : Fin 1024) (j : Fin 4) (s : State) : Result :=
  hart pch j (.nb 16) (fun s h =>
    let v := if h.c.pending = 0 then BitVec.allOnes 32 else h.c.head.setWidth 32
    retire s h (setX h.c h.g (rvRd h.w) v 4) 1) s

/-- NB_DONE, R268: the head command retires; rs2[31] asks for the CSV_DONE event (R331). -/
def execNbDone (pch : Fin 1024) (j : Fin 4) (s : State) : Result :=
  hart pch j (.nb 17) (fun s h =>
    if h.a ≠ h.c.head.setWidth 32 then trapCsv s h.P 1
    else if h.c.pending = 0 then retire s h h.c 1
    else
      let c := { h.c with head := h.c.head + 1, pending := h.c.pending - 1, doneCount := satAdd h.c.doneCount 1, headSince := now s }
      let s' := retire s h c 1
      match h.b.getLsbD 31, ownerOfPch s h.P with
      | true, some p => postEvent s' p 6 [h.P / 64, h.P % 64, h.c.head.toNat, h.b.toNat % 2 ^ 16]
      | _, _ => s') s

/-- The hart's next instruction is the nb.done of the head command, and issues in the present beat. -/
def nbDoneDue (s : State) (P : Nat) : Bool :=
  let c := csvOf s P
  match fetchRv s P with
  | (_, .inr (w, _)) => decide (rvDecode w = some (.nb 17)) && getX c (rvRs1 w) = c.head.setWidth 32 && !c.haltAsked
      && max c.free (max (look c.xReady (rvRs1 w) 0) (look c.xReady (rvRs2 w) 0)) < 4 * (now s + 1)
  | _ => false

/-- CONSERVATOR_COMMAND_TIMEOUT, R447: the vault is reset with cause 5, unless the command completes in this beat. -/
def execConservatorCommandTimeout (pch : Fin 1024) (s : State) : Result :=
  let P := pch.val
  let c := csvOf s P
  onlyIf (live s && domOn s .conservator P && c.state = .running && 0 < c.pending && c.headSince + 2500000 ≤ now s && !nbDoneDue s P) s
    (resetFor s .vault (P / 64) 5)

/-- NB_FLT, R268. -/
def execNbFlt (pch : Fin 1024) (j : Fin 4) (s : State) : Result :=
  hart pch j (.nb 18) (fun s h => retire s h (setX h.c h.g (rvRd h.w) (BitVec.ofNat 32 (csvFaultWord h.c)) 4) 1) s

end Sys2Proof.Machine
end

