-- ==== Sys2Proof/Machine/Sequencer.lean ====
section
/-! DEFINITION. The module sequencer, the stack sequencers and the launches (R47 to R65, R96 to R105, R337, R371 to R373, R377,
R378, R382 to R385, R475, R477). -/

namespace Sys2Proof.Machine

/-! ### Wings and domains (R58, R377, R378) -/

/-- The wing runs at k from the present beat (k = 0: its clock stops), its time going on unbroken. -/
def setRatio (s : State) (w k : Nat) (clock : WingClock) : State :=
  let x := wingOf s w
  setWing s w { x with clock := clock, k := k, gOff := ((x.k * now s : Nat) : Int) + x.gOff - ((k * now s : Nat) : Int) }

/-- CLK_RATIO_CHANGES counts one more ratio change or wake from STOPPED; it saturates (R378). -/
def countRatio (s : State) : State := { s with boot := { s.boot with ratioChanges := min (s.boot.ratioChanges + 1) (2 ^ 32 - 1) } }

/-- The wing's clock starts or changes to k. A change from RUNNING is counted here, a wake from STOPPED at its start. -/
def runWing (s : State) (w k : Nat) : State :=
  let x := wingOf s w
  let s := if (x.k ≠ 0 ∧ x.k ≠ k) ∨ x.clock = .stopped then countRatio s else s
  let was := voltK s x
  let s := setRatio s w k .running
  setWing s w { wingOf s w with railOn := true, kNext := 0, kVolt := k, fromOff := false, kFrom := was,
                                fallEnd := if k < was then now s + 500 else x.fallEnd }

/-- A wing's clock stops; its rail stays on (R59). -/
def stopWing (s : State) (w : Nat) : State :=
  if (wingOf s w).railOn then setRatio s w 0 .stopped else s

/-- A wing's rail goes off. -/
def offWing (s : State) (w : Nat) : State :=
  let s := setRatio s w 0 .off
  setWing s w { wingOf s w with railOn := false, kNext := 0, fromOff := false, fallEnd := 0 }

/-- k of a wing entry for a tier (R41). -/
def WakeEntry.k (e : WakeEntry) (tier : Nat) : Nat := 4 + bits e.kcodes.toNat (2 * tier) 2

/-- Wake time of a domain from its present state (R58). -/
def wakeTime (s : State) (k : SwKind) (i ratio : Nat) : Nat :=
  match k with
  | .wing =>
    let w := wingOf s i
    match w.clock with
    | .off => 10000
    | .stopped => 500
    | .running => if w.k = ratio then 0 else 500
    | .changing => (w.until_ - now s) + (if w.kNext = ratio then 0 else 500)
  | k =>
    let d := domOf s k (physDom s k i)
    match d.state with
    | .on => 0
    | .waking => d.until_ - now s
    | .off => wakeBeats k

/-- The wake time of an entry of a partition's step at a tier; a skipped entry takes none (R371). -/
def entryWake (s : State) (p tier : Nat) (e : WakeEntry) : Nat :=
  match SwKind.ofCode e.kind with
  | some k => if mayWake s p k e.index then wakeTime s k e.index (e.k tier) else 0
  | none => 0

/-- A domain begins its wake or change. -/
def beginWake (s : State) (k : SwKind) (i ratio : Nat) : State :=
  match k with
  | .wing =>
    let w := wingOf s i
    match w.clock with
    | .off => setWing s i { w with clock := .changing, kNext := ratio, until_ := now s + 10000, railOn := true, kVolt := ratio,
                                     fromOff := true }
    | .changing => s
    | .stopped =>
      setWing (countRatio s) i { w with clock := .changing, kNext := ratio, until_ := now s + 500, kVolt := max w.kVolt ratio }
    | .running => setWing s i { w with clock := .changing, kNext := ratio, until_ := now s + 500, kVolt := max w.kVolt ratio }
  | k => match (domOf s k (physDom s k i)).state with
    | .off => setDom s k (physDom s k i) ⟨.waking, now s + wakeBeats k⟩
    | _ => s

/-! ### Accounts (R382 to R384) -/

def uj (x : Nat) : Int := (x : Int) * 1000000

/-- The first account that fails the test of R382: a rail, or the input account (256). -/
def firstMiss (p : Part) (t : Tier) : Option Nat :=
  match (List.range 210).find? fun r => t.energy.any fun e => e.rail = r && balanceOf p r < uj e.uj with
  | some r => some r
  | none => if p.inBalance < uj t.total then some 256 else none

/-- Debit a step's energies. -/
def debit (p : Part) (t : Tier) : Part :=
  { p with balances := t.energy.foldl (fun b e => put b e.rail (look b e.rail 0 - uj e.uj)) p.balances,
           inBalance := p.inBalance - uj t.total }

/-- Credit the share num ÷ den of each debit, clipped at the capacity (R383). -/
def credit (p : Part) (t : Tier) (num den : Nat) : Part :=
  let part (x : Nat) : Int := uj x * num / den
  { p with balances := t.energy.foldl (fun b e => put b e.rail (clip (look b e.rail 0 + part e.uj) (railCap p e.rail))) p.balances,
           inBalance := clip (p.inBalance + part t.total) (inputCap p) }

/-! ### Runs -/

def setRun (s : State) (p : Nat) (r : RunCtx) : State := mapPart s p fun x => { x with run := some r }
def setRunState (s : State) (p : Nat) (t : RunState) : State := mapPart s p fun x => { x with runState := t }

/-- A command about a partition's run. -/
def withRun (s : State) (p : Nat) (f : RunCtx → Option State) : Result :=
  match (partOf s p).run with
  | some r => match f r with
    | some t => onlyIf (live s) s t
    | none => .next s
  | none => .next s

def when' (c : Bool) (t : State) : Option State := if c then some t else none

/-- The record of a step of the running timetable. -/
def stepOf (s : State) (p : Nat) (r : RunCtx) (i : Nat) : Option StepRec := (find (partOf s p).bound r.handle).bind (·.steps[i]?)

/-- Last committed step's body of a run, for LEAD of the next. -/
def postCompletion (s : State) (p : Nat) (r : RunCtx) (kind status index : Nat) (rest : List Nat) (tier beat : Nat) : State :=
  postEntry s r.cq (completionBlock s p kind status r.tag r.sq r.sqHead.toNat index rest tier beat)

/-- A step's completion (R64, R327). -/
def stepCompletion (s : State) (p : Nat) (r : RunCtx) (l : LiveStep) (status : Nat) : State :=
  if l.step.complete then
    postCompletion s p r 0x11 status l.index
      [l.start, l.start / 2 ^ 32, l.budgetWait, l.start - l.planned, now s - (l.start + l.body.length)] l.tier (now s)
  else s

/-- The run's final completion (R51, R337). -/
def runCompletion (s : State) (p : Nat) (r : RunCtx) (status : Nat) : State :=
  postCompletion s p r 0x12 status (r.lastEnded.getD 0xFFFFFFFF) [0, 0, 0, 0, 0] 0 (now s)

/-! ### Committing (R52 to R57) -/

/-- The governor's choice: the fastest allowed tier that is present and fits. -/
def chosenTier (x : Part) (st : StepRec) : Option (Nat × Tier) :=
  (List.range 4).findSome? fun t =>
    if t < max x.capHost.toNat x.capThermal.toNat then none
    else match (st.tiers[t]?).join with
      | some b => if (firstMiss x b).isNone then some (t, b) else none
      | none => none

/-- PWR_LAST_MISS after the allowed ones of the n fastest tiers have failed (R382). -/
def noteMiss (x : Part) (st : StepRec) (n : Nat) : Part :=
  (List.range n).foldl (fun x t =>
    if t < max x.capHost.toNat x.capThermal.toNat then x
    else match (st.tiers[t]?).join with
      | some b => match firstMiss x b with
        | some m => { x with missRail := if m = 256 then x.missRail else BitVec.ofNat 8 m, missInput := m = 256 }
        | none => x
      | none => x) x

/-- The notices of a step: its rails, held until s + 2,500 (R372). -/
def noticesOf (l : LiveStep) : List (Nat × Nat × Nat) := l.body.energy.map fun e => (e.rail, l.start + 2500, e.current)

/-- Commit a step at the present beat (R53, R57, R383). -/
def commitStep (s : State) (p : Nat) (r : RunCtx) (e : EvalStep) (st : StepRec) (t : Nat) (b : Tier) : State :=
  let g := e.gate.getD (now s)
  let wake := (st.wakes.map (entryWake s p t)).foldl max 0
  let start := roundUp (max e.planned (now s + max 500 (64 + wake))) 4
  let l : LiveStep := { index := e.index, tier := t, commit := now s, start := start, planned := e.planned,
                        budgetWait := now s - g, body := b, step := st }
  let s := mapPart s p fun x =>
    let x := debit x b
    { x with budgetWait := satAdd x.budgetWait (now s - g),
             tierCount := put x.tierCount t (min (look x.tierCount t 0 + 1) 0xFFFFFFFF),
             run := some { r with eval := none, next := some l },
             runState := if r.exec.isSome then x.runState else .committed }
  { s with power := { s.power with noticeAt := s.power.noticeAt ++ [(p, now s + 8, noticesOf l)] } }

/-- A present tier lies within the cap (R56). -/
def capAllows (x : Part) (st : StepRec) : Bool :=
  (List.range 4).any fun t => max x.capHost.toNat x.capThermal.toNat ≤ t && ((st.tiers[t]?).join).isSome

/-- The governor looks at the tiers (R53, R54, R56), and records what fails before one fits (R382); CAP_STALL is set when none
lies within the cap. -/
def tryBudget (s : State) (p : Nat) (r : RunCtx) (e : EvalStep) (st : StepRec) : State :=
  let v := seenInputs (partOf s p) (now s)
  let miss (n : Nat) (x : Part) : Part :=
    { x with missRail := (noteMiss v st n).missRail, missInput := (noteMiss v st n).missInput }
  match chosenTier v st with
  | some (t, b) => commitStep (mapPart s p (miss t)) p r e st t b
  | none =>
    mapPart s p fun x =>
      { miss 4 (if capAllows v st then x else x.flag 2 (now s)) with
        run := some { r with eval := some { e with at_ := now s + 256 } }
        runState := if r.exec.isSome then x.runState else match x.runState with | .committed => .committed | _ => .budget }

/-- The gate counter that an evaluation in the present beat reads (R54). -/
def gateCount (s : State) (p : Nat) (st : StepRec) : Nat := look (seenInputs (partOf s p) (now s)).gates st.gateId 0

/-- The gate is looked at in a beat (R53). -/
def tryGate (s : State) (p : Nat) (r : RunCtx) (e : EvalStep) (st : StepRec) : State :=
  let x := partOf s p
  if st.gateEn ∧ gateCount s p st = 0 then setRun s p { r with eval := some { e with at_ := now s + 4 } }
  else
    let x := if st.gateEn then { x with gates := put x.gates st.gateId (look x.gates st.gateId 0 - 1) } else x
    tryBudget (setPart s p x) p r { e with gate := some (now s) } st

/-- STEP_DELAYED, R65: posted once, when the budget wait reaches SEQ_WAIT_EVT. -/
def execStepDelayed (part : Fin 8) (s : State) : Result :=
  withRun s part.val fun r => match r.eval with
    | some e => match e.gate with
      | some g =>
        let w := (partOf s part.val).waitEvt.toNat
        when' (!e.eventPosted && w ≠ 0 && g + w ≤ now s)
          (setRun (postEvent s part.val 1 [e.index, now s - g]) part.val { r with eval := some { e with eventPosted := true } })
      | none => none
    | none => none

/-- COMMIT_ARRIVAL, R29: 64 beats after the commit. A stack sequencer that is off does not receive it (R370). -/
def execCommitArrival (part : Fin 8) (s : State) : Result :=
  withRun s part.val fun r => match r.next with
    | some l => when' (!l.arrived && l.commit + 64 = now s) (setRun s part.val { r with next := some { l with
        arrived := true, unheard := (List.range 8).filter fun st => inDomainReset s 2 st } })
    | none => none

/-- ADVANCE_NOTICE_RECEIPT, R372: 8 beats after the commit. -/
def execAdvanceNoticeReceipt (part : Fin 8) (s : State) : Result :=
  match s.power.noticeAt.find? fun n => n.1 = part.val && n.2.1 = now s with
  | some n =>
    onlyIf (live s) s { s with power := { s.power with
      noticeAt := s.power.noticeAt.erase n
      notices := (s.power.notices.filter fun x => now s < x.2.1) ++ n.2.2 } }
  | none => .next s

/-! ### Wakes (R57, R58, R371) -/

/-- The stack whose sequencer wakes a domain (R29, R57). -/
def stackOfDom (k : SwKind) (i : Nat) : Nat :=
  match k with
  | .wing => i / 16
  | .cabinet => i / 160
  | .bankGroup => i / 32
  | .slice => i / 64
  | .conservator => i / 128
  | .engine => i / 6

/-- A stack's sequencer acts on a step: it is on, and has received the commit (R29, R370). -/
def hears (s : State) (l : LiveStep) (st : Nat) : Bool := !inDomainReset s 2 st && decide (st ∉ l.unheard)

/-- DOMAIN_WAKE_START, R57, R370, R371: an entry that must be skipped sets WAKE_SKIPPED; any other begins its wake at s − d. -/
def execDomainWakeStart (part : Fin 8) (dom : DomainRef) (s : State) : Result :=
  let p := part.val
  withRun s p fun r => match r.next with
    | some l =>
      match l.step.wakes.zipIdx.find? fun e => e.1.kind = SwKind.code dom.kind && e.1.index = dom.index && e.2 ∉ l.woken with
      | some (e, n) =>
        let s' := setRun s p { r with next := some { l with woken := l.woken ++ [n] } }
        if !hears s l (stackOfDom dom.kind dom.index) then none
        else if !mayWake s p dom.kind dom.index then
          when' l.arrived (mapPart s' p fun x => x.powerFlag 0 (now s))
        else
          let d := wakeTime s dom.kind dom.index (e.k l.tier)
          when' (l.arrived && d ≠ 0 && now s + d = l.start) (beginWake s' dom.kind dom.index (e.k l.tier))
      | none => none
    | none => none

/-- A change of the wing's ratio, or its wake from STOPPED, waits with the committed step that lists it for the step before it to
end (R61, R378). A wake from OFF takes its 10,000 beats whatever overruns (R377). -/
def switchWaits (s : State) (w : Nat) : Bool :=
  !(wingOf s w).fromOff && s.parts.any fun p => match p.2.run with
    | some r => r.exec.isSome && (match r.next with
        | some l => l.start ≤ now s && l.step.wakes.any fun e => e.kind = 1 && e.index = w
        | none => false)
    | none => false

/-- DOMAIN_WAKE_COMPLETE, R58: the domain is usable; a conservator that no step lists is metered from this beat on (R385). While the step before overruns, a wing keeps its ratio (R378). -/
def execDomainWakeComplete (dom : DomainRef) (s : State) : Result :=
  match dom.kind with
  | .wing =>
    let w := wingOf s dom.index
    onlyIf (live s && w.clock = .changing && w.until_ = now s && !switchWaits s dom.index) s (runWing s dom.index w.kNext)
  | k =>
    let i := physDom s k dom.index
    let d := domOf s k i
    let s' := setDom s k i { d with state := .on }
    onlyIf (live s && d.state = .waking && d.until_ = now s) s
      (if k = .conservator then
        let s' := setCsv s' i { csvOf s' i with headSince := now s }
        if !csvListedNow s i then meterCsv s' i else s'
      else s')

/-! ### Starting a step (R60) -/

/-- The step's wings run at the tier's k, and its conservators are wanted. -/
def startWings (s : State) (p : Nat) (l : LiveStep) : State :=
  l.step.wakes.foldl (fun s e => match SwKind.ofCode e.kind with
    | some .wing => if mayWake s p .wing e.index && (wingOf s e.index).clock ≠ .off then runWing s e.index (e.k l.tier) else s
    | some .conservator => if mayWake s p .conservator e.index then
        setCsvF s e.index fun c => { c with switchOff := false } else s
    | _ => s) s

/-- The evaluation of a successor (R52). -/
def successor (s : State) (p : Nat) (r : RunCtx) (l : LiveStep) : Option EvalStep :=
  if l.step.next = 0xFFFFFFFF ∨ (partOf s p).runState = .stopping then none
  else
    let e := l.start + l.body.length
    let lead := ((stepOf s p r l.step.next.toNat).map (·.lead)).getD 500
    some { index := l.step.next.toNat, planned := e, at_ := max (e - lead) (now s) }

/-- Every record of a committed step has been read and delivered, but for those of stacks whose sequencers do not act on it (R99,
R279, R370). -/
def recordsIn (s : State) (l : LiveStep) : Bool :=
  (l.body.launches.zipIdx.all fun e => (find l.launchRead e.2).isSome || !hears s l (e.1.wing / 16))
    && l.body.engines.zipIdx.all fun e => (find l.engineRead e.2).isSome || !hears s l (e.1.engine / 6)

/-- Stack, byte and finding of the first word of a step's record that its sequencer cannot read (R407, R410). -/
def badStepWord (t : Timetable) (x : StepRec) : Option (Nat × Nat × Checked) :=
  (t.bad.find? fun w => x.at_ / 8 ≤ w.1 % 2 ^ 20 && 8 * (w.1 % 2 ^ 20) < x.at_ + x.len
    && (hammingRead 64 8 w.2.1 w.2.2).data?.isNone).map fun w =>
      (w.1 / 2 ^ 20, storeByte (look t.places (w.1 / 2 ^ 20) []) (8 * (w.1 % 2 ^ 20)), hammingRead 64 8 w.2.1 w.2.2)

/-- The stack sequencer reports the word, and the partition whose step holds it takes a job fault: the step is not started (R410). -/
def refuseStep (s : State) (p : Nat) (w : Nat × Nat × Checked) : State :=
  let f : FaultRec := ⟨7, w.2.2.cls.1, w.1, 0, some (7 * 4096, w.2.2.cls.1, w.2.2.cls.2.1, w.1)⟩
  if f ∈ (partOf s p).faults then s else raiseFault (reportOwned s w.1 (mkReport 7 0 10 w.2.2 w.2.1 false) (some p)) p f

/-- STEP_START, R60, R99, R410. -/
def execStepStart (part : Fin 8) (s : State) : Result :=
  let p := part.val
  withRun s p fun r => match r.next, r.exec with
    | some l, none =>
      let l' := { l with launchOpen := List.range l.body.launches.length, engineOpen := List.range l.body.engines.length,
                         lastDone := now s }
      let s' := startWings s p l
      let s' := mapPart s' p fun x =>
        { x with stepIndex := BitVec.ofNat 32 l.index, slip := satAdd x.slip (l.start - l.planned),
                 runState := match x.runState with | .stopping => .stopping | _ => .stepping }
      when' (l.arrived && l.start = now s && recordsIn s l)
        (match (find (partOf s p).bound r.handle).bind fun t => badStepWord t l.step with
        | some w => refuseStep s p w
        | none => setRun s' p { r with next := none, exec := some l', eval := successor s p r l })
    | _, _ => none

/-- The executing step. -/
def execOf (s : State) (p : Nat) : Option LiveStep := (partOf s p).run.bind (·.exec)

def setExec (s : State) (p : Nat) (l : LiveStep) : State :=
  match (partOf s p).run with
  | some r => setRun s p { r with exec := some l }
  | none => s

/-- The run has a job fault waiting: from the beat after delivery its entries stop (R63). -/
def execWith (s : State) (p : Nat) (f : LiveStep → Option State) : Result :=
  match execOf s p with
  | some l => match f l with
    | some t => onlyIf (live s) s t
    | none => .next s
  | none => .next s

/-- SLOT_PLAN_ENTRY_START, R60: issued by the sequencer of the resource's stack (R63). -/
def execSlotPlanEntryStart (part : Fin 8) (entry : Nat) (s : State) : Result :=
  execWith s part.val fun l => match l.body.slots[entry]? with
    | some e =>
      let s' := setExec s part.val { l with slotsOn := l.slotsOn ++ [entry] }
      when' (entry ∉ l.slotsOn && l.start + e.first = now s && hears s l (stackOfRes e.kind e.res)) { s' with plan := s'.plan ++ [(part.val, e, now s)] }
    | none => none

/-! ### Records (R99, R279, R475) -/

/-- Report what a block's words showed the stack sequencer, as the unit that holds them reports it. -/
def reportPeek (s : State) (a : Nat) : State :=
  match spaceOf s a with
  | .vault _ =>
    let q := placeOf s a
    (List.range 2).foldl (fun s h =>
      let k := a % 128 / 32 + h
      match peekSector s q k with
      | (f, some (way, hf, wb)) => noteSector s q.i q.part false (placeLoc q.set way hf k wb) f
      | (f, none) => vaultNote s q.P q.off k f) s
  | .archive core off =>
    if (chanOf s (siteOfCore s core)).failed then s else
    (List.range 4).foldl (fun s i => shelfReport s core (off / 16 + i) (shelfRead s core (off / 16 + i))) s
  | _ => s

/-- n bytes of device memory at a, or the report behind the first uncorrectable word. -/
def peekBytes (s : State) (a n : Nat) : State × Option Nat × Option (Nat × Nat × Nat × Nat) :=
  let first := a / 64
  let blocks := (List.range ((a + n - 1) / 64 - first + 1)).map fun i => 64 * (first + i)
  let s' := blocks.foldl reportPeek s
  let rs := blocks.map (peekBlock s)
  match rs.find? (·.1.isNone) with
  | some r => (s', none, r.2)
  | none =>
    let all := rs.zipIdx.foldl (fun x r => x + (r.1.1.getD 0) * 2 ^ (512 * r.2)) 0
    (s', some (bits all (8 * (a % 64)) (8 * n)), none)

/-- A live step's record is in the read map; the reader puts it there. -/
def putRecord (l : LiveStep) (isEngine : Bool) (entry d : Nat) : LiveStep :=
  if isEngine then { l with engineRead := put l.engineRead entry (BitVec.ofNat 384 d) }
  else { l with launchRead := put l.launchRead entry (BitVec.ofNat 512 d) }

/-- Device address, size and stack of a record; none where it has been read. -/
def recordAddr (l : LiveStep) (isEngine : Bool) (entry : Nat) : Option (Nat × Nat × Nat) :=
  if isEngine then
    if (find l.engineRead entry).isSome then none else (l.body.engines[entry]?).map fun e => (e.desc, 48, e.engine / 6)
  else if (find l.launchRead entry).isSome then none else (l.body.launches[entry]?).map fun e => (e.record, 64, e.wing / 16)

/-- STACK_SEQUENCER_RECORD_READ, R99, R279, R475: of a committed step, before its start beat. -/
def execStackSequencerRecordRead (part : Fin 8) (isEngine : Bool) (entry : Nat) (s : State) : Result :=
  let p := part.val
  withRun s p fun r =>
    r.next.bind fun l => (recordAddr l isEngine entry).bind fun (a, n, st) =>
      let x := peekBytes s a n
      when' (l.arrived && now s < l.start && hears s l st) (match x.2.1 with
        | some d => setRun x.1 p { r with next := some (putRecord l isEngine entry d) }
        | none => raiseFault x.1 p ⟨7, 2, st, 0, x.2.2⟩)

/-! ### Launches (R96 to R105) -/

def lrField (d : BitVec 512) (off lo n : Nat) : Nat := bits d.toNat (8 * off + lo) n

/-- [off, off + n) lies within one layer of a shelf (R97, R187). -/
def oneLayer (off n : Nat) : Bool := off + n ≤ layerBytes || (layerBytes ≤ off && off + n ≤ shelfBytes)

/-- The record passes the checks of R96, R97 and R99. -/
def launchOk (d : BitVec 512) : Bool :=
  let tours := lrField d 0 16 7
  let code := lrField d 4 16 16
  let codeOff := lrField d 8 0 32
  let ctx := lrField d 12 0 32
  lrField d 0 0 16 = 1 && 1 ≤ tours && tours ≤ 64 && lrField d 0 23 9 = 0
    && code % 4 = 0 && 4 ≤ code && code ≤ 16384 && lrField d 4 0 16 % 4 = 0 && lrField d 4 0 16 < code
    && codeOff % 16 = 0 && oneLayer codeOff code
    && (tours ≤ 4 || (ctx % 16 = 0 && oneLayer ctx (2176 * tours)))
    && lrField d 0x1C 0 32 = 0 && lrField d 0x2C 0 32 = 0
    && (List.range 8).all fun i => lrField d (0x20 + i) 7 1 = 0 || lrField d (0x20 + i) 0 7 < tours

/-- What an earlier launch has left under way in a core, as the next one finds it: no register, tile or fence of a tour of the new
launch waits for it. Its runs complete (R164), one that has not entered the array with the stationary image that it was accepted with,
for the array itself is empty (R158); an mx.tile that no run has claimed and an mx.acc load set nothing
(R163; DESIGN CHOICE, log entry 159). -/
def outlived (c : Core) : Core :=
  let old (t : Nat) : Nat := t % 64 + 128
  let oldQ (q : Xfer) : Xfer :=
    if q.gate then q
    else { q with tour := old q.tour, also := q.also.map old,
                  kind := match q.kind with
                    | .tile => if (c.runs.any fun r => r.entry.isNone && r.claims && r.image.isNone) then .oldTile else .swapIn
                    | .accLoad _ => .swapIn
                    | k => k }
  let mine (t : TileImage) : TileImage := { t with tour := old t.tour }
  let runs := c.runs.foldl (fun (a : List MxRun × Option TileImage) r =>
    let cur := if r.claims then c.shadow else a.2
    if r.entry.isSome || r.image.isSome then (a.1 ++ [{ r with tour := old r.tour }], a.2)
    else (a.1 ++ [{ r with tour := old r.tour, image := cur.map mine }], cur)) ([], c.current)
  { rdFree := c.rdFree, wrFree := c.wrFree, rdWords := c.rdWords, wrWords := c.wrWords, storeEnd := c.storeEnd, clmFree := c.clmFree, sfuFree := c.sfuFree
    rdQueue := c.rdQueue.map oldQ
    wrQueue := c.wrQueue.map oldQ
    rmws := c.rmws.map fun m => if m.gate then m else { m with tour := old m.tour, also := m.also.map old }
    loads := c.loads.map fun l => { l with tour := old l.tour }
    nextLoad := c.nextLoad
    egress := c.egress, egressAt := c.egressAt
    unacked := c.unacked.map fun u => (old u.1, u.2)
    runs := runs.1
    nextRun := c.nextRun, prevRun := c.prevRun, lastWrite := c.lastWrite, accReady := c.accReady }

/-- The shelf words of a launch's code. -/
def codeWords (d : BitVec 512) : List Nat := (List.range (ceilDiv (lrField d 4 16 16) 16)).map fun i => lrField d 8 0 32 / 16 + i

/-- One core of a launch at GCLK g (R98, R100, R155, R158). Its code load follows the transfers that its channel still has to
serve (R86). -/
def launchCore (d : BitVec 512) (core g : Nat) (was : Core) : Core :=
  let tours := lrField d 0 16 7
  let args := (List.range 4).map fun i => BitVec.ofNat 32 (lrField d (0x30 + 4 * i) 0 32)
  let entry := lrField d 4 0 16 / 4
  let code := lrField d 4 16 16
  let c := outlived was
  { c with
    codeBytes := code
    ctxOff := lrField d 12 0 32
    tours := tours
    args := args
    entryPc := entry
    active := (List.range (min 4 tours)).map fun i => (i, freshTour core i args entry)
    pendingSet := (List.range (tours - 4)).map (4 + ·)
    rdQueue := c.rdQueue ++ [{ kind := .code, issue := g, words := readWords (codeWords d) }]
    tiles := (List.range 8).filterMap fun i =>
      if lrField d (0x20 + i) 7 1 = 1 then some (i, { owner := some (lrField d (0x20 + i) 0 7) }) else none }

/-- A launch starts in a cabinet in the present beat (R99, R100, R104). LAUNCH_INVALID is no core's and no tour's: CAB_FAULT0 gives
it CORE 0 and TOUR 0. -/
def startLaunch (s : State) (cab entry : Nat) (d : BitVec 512) : State :=
  let w := cab / 9
  let g := wtime s w 0
  if !launchOk d then kernelFault s cab 0 0 5 0 0 g
  else
    let mask := BitVec.ofNat 96 (lrField d 16 0 96)
    let t := lrField d 0x28 0 32
    let s := mapCab s cab fun c =>
      { c with busy := true, part := (ownerOfWing s w).getD 0, entry := entry, started := now s,
               timeout := if t = 0 then 2500000 else t, mask := mask, doneFrom := now s }
    (List.range 96).foldl (fun s k =>
      if !mask.getLsbD k then s
      else
        let core := 96 * cab + k
        if (chanOf s (siteOfCore s core)).failed then kernelFault s cab k 0 6 0 0 g
        else meetGroups (setCore s core (launchCore d core g (coreOf s core))) core (codeWords d)) s

/-- The launch entry of a cabinet at the present beat that has not been delivered. -/
def dueLaunch (s : State) (l : LiveStep) (cab : Nat) : Option Nat :=
  (List.range l.body.launches.length).find? fun n => n ∉ l.launched && match l.body.launches[n]? with
    | some e => e.wing = cab / 9 && e.cab = cab % 9 && l.start + e.beat = now s && (find l.launchRead n).isSome
    | none => false

/-- KERNEL_LAUNCH, R99, R100, R102: launches that find the cabinet busy wait in order. -/
def execKernelLaunch (part : Fin 8) (cab : CabRef) (s : State) : Result :=
  let id := cabId cab
  execWith s part.val fun l => (dueLaunch s l id).bind fun n => (find l.launchRead n).bind fun d =>
    let s' := setExec s part.val { l with launched := l.launched ++ [n] }
    when' (hears s l (id / 144)) (if (cabOf s id).busy || (cabOf s id).waiting ≠ [] then
        mapCab s' id fun c => { c with waiting := c.waiting ++ [(d, n, now s)] }
      else startLaunch s' id n d)

/-- DELAYED_LAUNCH_START, R102: at the first beat after the done report. -/
def execDelayedLaunchStart (cab : CabRef) (s : State) : Result :=
  let id := cabId cab
  let c := cabOf s id
  match c.waiting with
  | (d, n, b) :: rest =>
    let s' := setCab s id { c with waiting := rest, launchWait := satAdd c.launchWait (now s - b) }
    onlyIf (live s && !c.busy && c.doneFrom = now s) s (startLaunch s' id n d)
  | [] => .next s

/-- A posted store or reduction of the core has no acknowledgement yet: an own-shelf store until its write transfer has ended, an
mx.acc store among them (R103, R164). -/
def storeOpen (s : State) (c : Core) (g : Nat) : Bool :=
  (c.unacked.any fun u => !u.2.1 && match (find s.net u.2.2).map Req.kind with
      | some .store => true
      | some (.red _ _) => true
      | _ => false)
    || c.wrQueue.any (fun q => !q.gate) || c.merge.isSome || c.rmws.any (fun m => !m.gate && m.atomic.isNone) || g < c.storeEnd

/-- Every tour of the core has exited and every posted store and reduction is acknowledged, as of the beat's first GCLK
(R103). -/
def coreDone (s : State) (core : Nat) : Bool :=
  match find s.cores core with
  | none => true
  | some c =>
    let g := wingAt s (wingOfCore core) (now s)
    c.active.all (fun t => (aliveLanes t.2).isEmpty) && c.pendingSet = [] && c.swap.isNone && !storeOpen s c g
      && (match c.lastIssue with | some i => i < g | none => true)

/-- The cabinet's launch is done in the present beat. -/
def kernelEnds (s : State) (id : Nat) : Bool :=
  let c := cabOf s id
  c.busy && decide (c.doneFrom ≤ now s) && ((List.range 96).filter fun k => c.mask.getLsbD k).all fun k => coreDone s (96 * id + k)

/-- CABINET_DONE_REPORT, R103: at a beat boundary; the report counts at it (R61). What the cores still have under way completes
(R164). -/
def execCabinetDoneReport (cab : CabRef) (s : State) : Result :=
  let id := cabId cab
  let c := cabOf s id
  let s1 := setCab s id { c with busy := false, mask := 0, doneFrom := now s }
  let s2 := { s1 with cores := s1.cores.map fun x => if cabOfCore x.1 = id then (x.1, { x.2 with done := true }) else x }
  let s3 := match execOf s2 c.part with
    | some l => setExec s2 c.part { l with launchOpen := l.launchOpen.erase c.entry, lastDone := now s }
    | none => s2
  onlyIf (live s && kernelEnds s id) s s3

/-! ### Ending a step (R59, R61, R62, R64) -/

def reportsIn (l : LiveStep) : Bool := l.launchOpen = [] && l.engineOpen = []

/-- STEP_PLANNED_END, R61: overrun begins. -/
def execStepPlannedEnd (part : Fin 8) (s : State) : Result :=
  execWith s part.val fun l =>
    when' (!l.overrunOn && l.start + l.body.length = now s && !reportsIn l) (setExec s part.val { l with overrunOn := true })

/-- The access is in flight: from its issue until it is answered. -/
def Req.inFlight (r : Req) : Bool :=
  match r.stage with
  | .answered _ => false
  | .lost => false
  | _ => true

/-- Where an access in flight goes; none for one to host memory. -/
def Req.target (s : State) (r : Req) : Option Space :=
  match r.kind with
  | .hostRead => none
  | .hostWrite => none
  | _ => if r.inFlight then some (spaceOf s r.addr) else none

/-- An access of the network is in flight to a slice. -/
def reqAtSlice (s : State) (i : Nat) : Bool :=
  s.net.any fun x => match x.2.target s with
    | some (.vault _) => sliceOfAddr s x.2.addr = i
    | _ => false

/-- A shelf word lies in layer i. -/
def inLayer (i w : Nat) : Bool := decide (14336 ≤ w) = decide (i % 2 = 1)

/-- Something of a core uses bank group i: a transfer that waits or is under way, an open merge entry, a swap, or a window of its
gateway. -/
def groupInUse (s : State) (i : Nat) (id : Nat) (c : Core) : Bool :=
  let g := wtime s (i / 2) 0
  ((c.rdQueue ++ c.wrQueue).any fun q => q.words.any fun w => inLayer i w.1)
    || (c.rmws.any fun m => inLayer i m.word)
    || (match c.merge with | some e => inLayer i e.word | none => false)
    || ((c.swap.isSome || c.swapQueue ≠ []) && inLayer i (c.ctxOff / 16))
    || g < c.rdFree || g < c.wrFree
    || (match (cabOf s (cabOfCore id)).window with | some w => w.core = id && inLayer i (w.base / 16) | none => false)

/-- Something of a core uses its cabinet. -/
def coreBusy (c : Core) : Bool :=
  c.rdQueue ≠ [] || c.wrQueue ≠ [] || c.rmws ≠ [] || c.merge.isSome || c.loads ≠ [] || c.egress ≠ [] || c.unacked ≠ []
    || c.runs ≠ [] || c.accLoads ≠ []

/-- Something that uses the domain is in flight (R59): an access, a burst, or a descriptor in one of its contexts. -/
def domInUse (s : State) (k : SwKind) (i : Nat) : Bool :=
  match k with
  | .wing => false
  | .cabinet =>
    (List.range (logicalCabs s (i / 10))).any fun c =>
      let id := i / 10 * 9 + c
      let x := cabOf s id
      cabSiteOf s id = i % 10 && (x.busy || x.waiting ≠ [] || x.gateQueue ≠ [] || x.window.isSome
        || (s.cores.any fun c => cabOfCore c.1 = id && coreBusy c.2) || (s.flits.any fun f => cabOfCore f.2.target = id)
        || s.net.any fun r => match r.2.target s with | some (.archive core _) => cabOfCore core = id | _ => false)
  | .bankGroup =>
    (s.cores.any fun c => wingOfCore c.1 = i / 2 && groupInUse s i c.1 c.2)
      || s.net.any fun x => match x.2.target s with
        | some (.archive core off) => wingOfCore core = i / 2 && inLayer i (off / 16)
        | _ => false
  | .slice => (sliceOf s i).fills ≠ [] || reqAtSlice s i
  | .conservator => (csvOf s i).bursts ≠ [] || s.net.any fun x => match x.2.target s with
      | some (.window P _) => P = i
      | _ => false
  | .engine => (engOf s i).ctx ≠ [] || (engOf s i).queue ≠ []

/-- No executing or committed step of any partition lists the domain and nothing that uses it is in flight (R59). -/
def mayGoOff (s : State) (k : SwKind) (i : Nat) : Bool := !anyLists s k i && !domInUse s k i

/-- The domain is on, or in a wake that began in an earlier beat (R59). -/
def awakeBefore (s : State) (k : SwKind) (d : Dom) : Bool :=
  match d.state with
  | .off => false
  | .waking => d.until_ < now s + wakeBeats k
  | .on => true

/-- A domain is switched off; a conservator that is on is asked to (R265). -/
def offDom (s : State) (k : SwKind) (i : Nat) : State :=
  if k = .conservator ∧ (domOf s k i).state = .on then setCsvF s i fun c => { c with switchOff := true } else setDom s k i {}

/-- Switch off every domain of a kind that no live step lists and nothing uses (R59). -/
def switchOffKind (s : State) (k : SwKind) : State :=
  (domsOf s k).foldl (fun s d => if awakeBefore s k d.2 && mayGoOff s k d.1 then offDom s k d.1 else s) s

def switchOffIdle (s : State) : State :=
  [SwKind.cabinet, .bankGroup, .slice, .conservator, .engine].foldl switchOffKind s

/-- Wings of the partition that no live step of it lists stop (R59). -/
def stopWings (s : State) (p : Nat) : State :=
  (List.range 128).foldl (fun s w =>
    if (partOf s p).wings.getLsbD w && !anyLists s .wing w && (wingOf s w).clock = .running then stopWing s w else s) s

def offWings (s : State) (p : Nat) : State :=
  (List.range 128).foldl (fun s w => if (partOf s p).wings.getLsbD w then offWing s w else s) s

/-- The writes held in the open windows of a partition's gateways. -/
def windowReqs (s : State) (p : Nat) : List Nat :=
  s.cabinets.flatMap fun c =>
    if (partOf s p).wings.getLsbD (c.1 / 9) then (match c.2.window with | some w => w.reqs | none => []) else []

/-- A job of the partition ends: the windows open in its gateways are discarded, their writes answered at the next beat boundary, and so
are its window writes that are still on their way (R203, R305). -/
def endWindows (s : State) (p : Nat) : State :=
  let ids := windowReqs s p
  { s with
    cabinets := s.cabinets.map fun c => if (partOf s p).wings.getLsbD (c.1 / 9) then (c.1, { c.2 with window := none }) else c
    net := s.net.map fun x =>
      if x.1 ∈ ids then (x.1, { x.2 with stage := .answered (5 * (now s + 1) + 24 * x.2.hops) })
      else if x.2.part = p then (x.1, { x.2 with ended := true }) else x }

/-- The run returns to BOUND: its wing rails go off. -/
def endRun (s : State) (p : Nat) : State :=
  offWings (mapPart (endWindows s p) p fun x => { x with run := none, runState := .bound }) p

/-- A committed successor is postponed to the actual end (R61, R372, R378). The postponement becomes certain in the beat of that end,
and its notice acts on the VPS in the same beat: R61 and R372 give it no travelling time. -/
def postpone (s : State) (p : Nat) (l : LiveStep) : State × LiveStep :=
  let start := max l.start (roundUp (now s) 4)
  if start = l.start then (s, l)
  else
    let l' := { l with start := start }
    let s := { s with power := { s.power with
      notices := (s.power.notices.filter fun n => n ∉ noticesOf l) ++ noticesOf l' } }
    let s := l.step.wakes.foldl (fun s e =>
      let w := wingOf s e.index
      if e.kind = 1 && mayWake s p .wing e.index && w.clock = .changing && !w.fromOff && w.until_ = l.start then
        setWing s e.index { w with until_ := start } else s) s
    (s, l')

/-- SEQ_STEPS, SEQ_OVERRUN and SEQ_STATUS.OVERRUN of a step that ends in beat b. -/
def endStep (x : Part) (excess b : Nat) : Part :=
  { (if excess = 0 then x else x.flag 0 b) with steps := satAdd x.steps 1, overrun := satAdd x.overrun excess }

/-- In the beat of a step's end it executes no longer: a conservator of its list that stays on is metered (R385). -/
def meterEnded (s : State) (p : Nat) (l : LiveStep) : State :=
  s.csvDoms.foldl (fun s d =>
    let starts := match (partOf s p).run with
      | some r => optLists s p (r.next.filter fun n => n.start = now s) .conservator d.1
      | none => false
    if d.2.state = .on && ownerOfPch s d.1 = some p && stepLists s p l .conservator d.1 && !starts
        && (domInUse s .conservator d.1 || anyLists s .conservator d.1) then charge s p (152 + d.1 / 64) 1200
    else s) s

/-- STEP_END, R49, R59, R61, R64, R385. -/
def execStepEnd (part : Fin 8) (s : State) : Result :=
  let p := part.val
  withRun s p fun r => match r.exec with
    | none => none
    | some l =>
      let excess := now s - (l.start + l.body.length)
      let s1 := stepCompletion s p r l 0
      let s1 := { s1 with plan := s1.plan.filter fun e => e.1 ≠ p || now s < e.2.2 + 4 * e.2.1.rotations }
      let q := match r.next with
        | some n => let y := postpone s1 p n; (y.1, some y.2)
        | none => (s1, none)
      let r' := { r with exec := none, next := q.2, lastEnded := some l.index }
      let x := partOf s p
      let st : RunState := match x.runState, r.next, r.eval with
        | .stopping, _, _ => .stopping
        | _, some _, _ => .stepping
        | _, none, some e => if e.gate.isSome then .budget else .gated
        | t, none, none => t
      let s2 := mapPart q.1 p fun y =>
        { endStep y excess (now s) with run := some r', runState := st }
      let ends := r.next.isNone && (l.step.next = 0xFFFFFFFF || x.runState = .stopping)
      let s3 := switchOffIdle (stopWings (meterEnded s2 p l) p)
      when' (reportsIn l && now s = max (l.start + l.body.length) l.lastDone)
        (if ends then runCompletion (endRun s3 p) p r' 0 else s3)

/-- Stacks that lack a done report of a step. -/
def lateStacks (l : LiveStep) : List Nat :=
  (List.range 8).filter fun st =>
    l.launchOpen.any (fun n => ((l.body.launches[n]?).map fun e => decide (e.wing / 16 = st)).getD false)
      || l.engineOpen.any fun n => ((l.body.engines[n]?).map fun e => decide (e.engine / 6 = st)).getD false

/-- Every report that the step still lacks comes in the present beat (R447). -/
def reportsNow (s : State) (p : Nat) (l : LiveStep) : Bool :=
  l.engineOpen = [] && l.launchOpen.all fun n => s.cabinets.any fun c => c.2.part = p && c.2.entry = n && kernelEnds s c.1

/-- STEP_TIMEOUT, R62, R447, R477: cause 1. -/
def execStepTimeout (part : Fin 8) (s : State) : Result :=
  let p := part.val
  execWith s p fun l =>
    let late := lateStacks l
    let s0 := mapPart s p fun x => x.flag 1 (now s)
    let f : FaultRec := ⟨7, 1, late.headD 0, 0, none⟩
    let s' := late.foldl (fun s st => resetDomain s .stack st 1 f) s0
    let s' := if f ∈ (partOf s' p).faults then s' else raiseFault s' p f
    when' (l.start + 2 * l.body.length = now s && !reportsNow s p l) (setExec s' p { l with timedOut := true })

/-- KERNEL_TIMEOUT, R104: cause 2. It is no core's and no tour's: CAB_FAULT0 gives it CORE 0 and TOUR 0. -/
def execKernelTimeout (cab : CabRef) (s : State) : Result :=
  let id := cabId cab
  let c := cabOf s id
  let f : FaultRec := ⟨1, 7, id / 144, cabUnit s id, none⟩
  let s' := recordKernelFault s id 0 0 7 0 0 (wtime s (id / 9) 0)
  let s' := resetDomain s' .stack (id / 144) 2 f
  let s' := if f ∈ (partOf s' c.part).faults then s' else raiseFault s' c.part f
  onlyIf (live s && c.busy && c.started + c.timeout = now s && !kernelEnds s id) s s'

/-! ### Delivering a job fault (R63, R337, R477) -/

/-- Log index of the entry that a report created or matched (R477). -/
def faultLogIndex (s : State) (f : FaultRec) : Nat :=
  match f.match_ with
  | some (source, cls, synd, stack) =>
    (((colOf s stack).entries.find? fun e =>
      e.rep.source.toNat = source && e.rep.cls.toNat = cls && e.rep.synd.toNat = synd && now s < e.first + 250000).map
        (·.index)).getD 0xFFFFFFFF
  | none => 0xFFFFFFFF

/-- An acceptance or failure completion not yet posted completes with JOB_FAULT at F. -/
def faultAcceptance (s : State) (p : Nat) (e : BitVec 512) : BitVec 512 :=
  let w (i : Nat) : Nat := bits e.toNat (32 * i) 32
  let x := partOf s p
  BitVec.ofNat 512 (packWords ([w 0 % 256 + 256 * 7 + w 0 / 65536 * 65536, w 1 % 2 ^ 18 + 2 ^ 18 * x.runState.code,
    w 2 % 65536 + 65536 * x.job.toNat, w 3, 0, 0, 0, 0, 0, 0, w 10, w 11]))

/-- The partition's submission rings: fetched descriptors are dropped and stay in the ring to be fetched again, and waiting completions
post. -/
def faultRings (s : State) (p : Nat) : State :=
  (s.rings.filter fun x => x.2.part = p && x.2.type_ = 0).foldl (fun s x =>
    let r := x.2
    let s := { s with rings := put s.rings x.1 { r with head := r.head - BitVec.ofNat 16 r.fetched.length, fetched := [], accept := [] } }
    r.accept.foldl (fun s e => postEntry s r.cq (faultAcceptance s p e.1)) (queueRing s x.1 (now s))) s

/-- What stays of a core whose kernel ends: the transfers of its gateway. -/
def gateOnly (c : Core) : Core :=
  { rdFree := c.rdFree, wrFree := c.wrFree, rdWords := c.rdWords, wrWords := c.wrWords, rdQueue := c.rdQueue.filter (·.gate), wrQueue := c.wrQueue.filter (·.gate),
    rmws := c.rmws.filter (·.gate), done := true }

/-- The kernels, windows and requests of a partition end. Slot-plan entries that have started go on, for what its engines have issued
(R63, R305). -/
def faultUnits (s : State) (p : Nat) : State :=
  let s := endWindows s p
  let w := (partOf s p).wings
  let mine (c : Nat) : Bool := w.getLsbD (wingOfCore c)
  { s with
    cores := s.cores.map fun c => if mine c.1 then (c.1, gateOnly c.2) else c
    cabinets := s.cabinets.map fun c =>
      if w.getLsbD (c.1 / 9) then
        (c.1, { c.2 with busy := false, waiting := [], mask := 0 })
      else c
    net := s.net.filter fun x => match x.2.origin with | .core c _ _ => !mine c | _ => true
    flits := s.flits.filter fun f => !mine f.2.source }

/-- The domain is the partition's: of one of its wings, or the conservator of a pseudo-channel it holds. -/
def ownsDom (s : State) (p : Nat) (k : SwKind) (i : Nat) : Bool :=
  match k with
  | .cabinet => (partOf s p).wings.getLsbD (i / 10)
  | .bankGroup => (partOf s p).wings.getLsbD (i / 2)
  | .conservator => ownerOfPch s i = some p
  | _ => false

/-- The partition's domains go off, and the slices and engines that its ended run's steps listed, each unless another step lists it
or something in flight uses it; its wing rails go off (R59, R63). -/
def faultDomains (s : State) (p : Nat) (ended : List LiveStep) : State :=
  let listed (k : SwKind) (i : Nat) : Bool := ended.any fun l => stepLists s p l k i
  offWings ([SwKind.cabinet, .bankGroup, .slice, .conservator, .engine].foldl (fun s k =>
    (domsOf s k).foldl (fun s d =>
      if (ownsDom s p k d.1 || listed k d.1) && d.2.state ≠ .off && mayGoOff s k d.1 then offDom s k d.1 else s) s) s) p

/-- The unexpired debits return to the accounts (R383). -/
def faultCredit (s : State) (p : Nat) (r : RunCtx) : State :=
  mapPart s p fun x =>
    let x := match r.next with | some l => credit x l.body 1 1 | none => x
    match r.exec with
    | some l => if now s < l.start + l.body.length then credit x l.body (l.start + l.body.length - now s) l.body.length else x
    | none => x

/-- A run in progress ends: a step that executes completes with TIMED_OUT where its own timeout ends the job, else with JOB_FAULT
(R62, R64, R337). -/
def faultRun (s : State) (p : Nat) : State :=
  match (partOf s p).run with
  | none => s
  | some r =>
    let s := faultCredit s p r
    let s := mapPart s p fun x => { x with run := none, runState := if x.bound = [] then .unbound else .bound }
    let s := match r.exec with
      | some l => stepCompletion (mapPart s p fun x => endStep x (now s - (l.start + l.body.length)) (now s)) p r l
          (if l.timedOut then 5 else 7)
      | none => s
    runCompletion s p r 7

/-- The live steps of a partition's run. -/
def liveSteps (s : State) (p : Nat) : List LiveStep :=
  match (partOf s p).run with
  | some r => [r.exec, r.next].filterMap id
  | none => []

/-- No report of the fault still waits for its collector, which creates or matches its log entry in the beat (R420, R477). -/
def faultCollected (s : State) (f : FaultRec) : Bool :=
  match f.match_ with
  | some (source, cls, synd, stack) =>
    (colOf s stack).queue.all fun h => !(h.rep.source.toNat = source && h.rep.cls.toNat = cls && h.rep.synd.toNat = synd)
  | none => true

/-- JOB_FAULT_DELIVERY, R63, R337, R338. -/
def execJobFaultDelivery (part : Fin 8) (s : State) : Result :=
  let p := part.val
  let x := partOf s p
  match x.faults with
  | [] => .next s
  | f :: rest =>
    let s1 := setPart s p { x with faults := rest, job := if x.held then x.job else x.job + 1, held := true, setAt := put x.setAt 32 (now s),
                                   heldClearedAt := none,
                                   runState := if x.bound = [] then .unbound else .bound }
    let s2 := abandonAll (haltCsvs (faultUnits (faultRun s1 p) p) p) p
    let s3 := faultRings (faultDomains s2 p (liveSteps s p)) p
    onlyIf (live s && faultCollected s f) s
      (postEvent s3 p 4 [(partOf s3 p).job.toNat, f.kind, f.code, f.stack, f.unit, faultLogIndex s f])

end Sys2Proof.Machine
end

