-- ==== Sys2Proof/Machine/Engines.lean ====
section
/-! DEFINITION. The engines: descriptors, their checks, reads, flits, writes and ends (R277 to R307, R476). -/

namespace Sys2Proof.Machine

/-! ### Descriptor fields (R280, R287 to R301) -/

/-- n bits at bit lo of byte offset `off` of an engine descriptor. -/
def dField (d : BitVec 384) (off lo n : Nat) : Nat := bits d.toNat (8 * off + lo) n
def dWord (d : BitVec 384) (off : Nat) : Nat := dField d off 0 32
def dAddr (d : BitVec 384) (off : Nat) : Nat := dField d off 0 64
def dOp (d : BitVec 384) : Nat := dField d 0 0 8
def dSrcHost (d : BitVec 384) : Bool := dField d 0 10 1 = 1
def dDstHost (d : BitVec 384) : Bool := dField d 0 11 1 = 1
def dSrc (d : BitVec 384) : Nat := dAddr d 8
def dDst (d : BitVec 384) : Nat := dAddr d 0x10

/-- Ops that engine e of a plinth serves (R277, R280). -/
def servesOp (e op : Nat) : Bool :=
  if e < 2 then 1 ≤ op && op ≤ 4 else if e = 2 then op = 0x10 else if e < 5 then op = 0x20 else op = 0x30

/-- COPY: rows, bytes and pitches. -/
def copyRows (d : BitVec 384) : Nat := dWord d 0x20
def copyPitch (d : BitVec 384) (off : Nat) : Nat := if copyRows d = 1 then 0 else dWord d off

/-- Bytes per element of a window (R287). -/
def winB (d : BitVec 384) : Nat := 2 ^ dField d 0x20 0 2
def winRows (d : BitVec 384) : Nat := dField d 4 0 16
def winCols (d : BitVec 384) : Nat := dField d 4 16 16
/-- D₀: the shelf offset of the destination, whose layer is bit 18 of its address (R189, R201). -/
def winBase (d : BitVec 384) : Nat := dDst d % 2 ^ 18 + layerBytes * bits (dDst d) 18 1
/-- Shelf offset of output row c of window (i, j) (R291). -/
def winRow (d : BitVec 384) (i j c : Nat) : Nat := winBase d + 16 * winB d * i + (64 / winB d * j + c) * dWord d 0x1C
/-- The output rows of the windows: offset, with 16 × b bytes each. -/
def winOut (d : BitVec 384) : List Nat :=
  (List.range (winRows d)).flatMap fun i => (List.range (winCols d)).flatMap fun j => (List.range (64 / winB d)).map (winRow d i j)
/-- The device address of an offset in the destination's shelf (R189). -/
def winAddr (d : BitVec 384) (o : Nat) : Nat := dDst d / 2 ^ 19 * 2 ^ 19 + o / layerBytes * 2 ^ 18 + o % layerBytes

/-- Element bits of a transpose (R292). -/
def trE (d : BitVec 384) : Nat := eltBits (dField d 0x20 0 4)
def trRows (d : BitVec 384) : Nat := dField d 4 0 16
def trCols (d : BitVec 384) : Nat := dField d 4 16 16

/-- FRAME: formats, block sizes and element count (R294). -/
def frCount (d : BitVec 384) : Nat := dWord d 4
def frIn (d : BitVec 384) : Nat := dField d 0x28 0 4
def frOut (d : BitVec 384) : Nat := dField d 0x28 4 4
def frBsIn (d : BitVec 384) : Nat := if dField d 0x28 8 1 = 1 then 16 else 32
def frBsOut (d : BitVec 384) : Nat := if dField d 0x28 9 1 = 1 then 16 else 32
def frMode (d : BitVec 384) : Nat := dField d 0x28 10 2
def frScIn (d : BitVec 384) : Nat := dAddr d 0x18
def frScOut (d : BitVec 384) : Nat := dAddr d 0x20
/-- Blocks of the output, and 64 B flits of each area. -/
def frBlocks (d : BitVec 384) : Nat := if isMx (frOut d) then frCount d / frBsOut d else 0
def frInFlits (d : BitVec 384) : Nat := ceilDiv (frCount d * eltBits (frIn d)) 512
def frInScales (d : BitVec 384) : Nat := if isMx (frIn d) then ceilDiv (frCount d / frBsIn d) 64 else 0
def frOutBytes (d : BitVec 384) : Nat := frCount d * eltBits (frOut d) / 8
def frRmaxAt (d : BitVec 384) : Nat := frScOut d + (if isMx (frOut d) then 4 * ceilDiv (frBlocks d) 4 else 0)

/-- TOPK (R299). -/
def tkN (d : BitVec 384) : Nat := dWord d 4
def tkK (d : BitVec 384) : Nat := dField d 0x20 0 13
def tkKeys (d : BitVec 384) : Nat := dAddr d 0x18

/-! ### Reads (R283, R288 to R301) -/

/-- Blocks that a tile's row segment overlaps in rows 64 × g apart by bit width e: its first byte in the row, and their number
(R293). -/
def segByte (e t : Nat) : Nat := 8 * e * t
def segBlocks (e t : Nat) : Nat := (segByte e t % 64 + 8 * e + 63) / 64
def segAddr (base pitch e row t : Nat) : Nat := (base + row * pitch + segByte e t) / 64 * 64

/-- The source blocks of a descriptor, in read order. -/
def readAddrs (d : BitVec 384) : List Nat :=
  match dOp d with
  | 1 => (List.range (copyRows d)).flatMap fun r =>
      (List.range (dWord d 4 / 64)).map fun b => dSrc d + r * copyPitch d 0x18 + 64 * b
  | 4 => (List.range (winRows d)).flatMap fun i => (List.range (winCols d)).flatMap fun j =>
      (List.range 16).map fun r => dSrc d + (16 * i + r) * dWord d 0x18 + 64 * j
  | 0x10 => (List.range (trRows d / 64)).flatMap fun I => (List.range (trCols d / 64)).flatMap fun J =>
      (List.range 64).flatMap fun r => (List.range (segBlocks (trE d) J)).map fun b =>
        segAddr (dSrc d) (dWord d 0x18) (trE d) (64 * I + r) J + 64 * b
  | 0x20 => ((List.range (frInFlits d)).map fun i => dSrc d + 64 * i) ++ ((List.range (frInScales d)).map fun i => frScIn d + 64 * i)
  | 0x30 => (List.range (ceilDiv (4 * tkN d) 64)).map fun i => dSrc d + 64 * i
  | _ => []

/-- First read of tile t of a transpose, and one past its last. -/
def tileReads (d : BitVec 384) (t : Nat) : Nat :=
  let cols := trCols d / 64
  (List.range t).foldl (fun a x => a + 64 * segBlocks (trE d) (x % cols)) 0

/-! ### Writes -/

/-- A write of a descriptor: its block, byte mask, the flits that it depends on, and the tile it ends. -/
structure EngWrite where
  kind : ReqKind
  addr : Nat
  mask : Nat := 2 ^ 64 - 1
  deps : List Nat := []
  /-- Transposer: its tile, and whether it is the tile's first write. -/
  tile : Nat := 0
  first : Bool := false
  /-- Framer: a scale flit. -/
  scale : Bool := false
  /-- Framer: the running-maximum word. -/
  last : Bool := false

/-- Mask of bytes [lo, hi) of a block. -/
def spanMask (lo hi : Nat) : Nat := 2 ^ hi - 2 ^ lo

/-- A block's mask for bytes [a, b) of device memory. -/
def blockMask (block a b : Nat) : Nat := spanMask (max a block - block) (min b (block + 64) - block)

/-- Range requests by AUX (R236, R280). -/
def rangeKind (aux : Nat) : ReqKind := match aux with | 0 => .prefetch | 1 => .flush | 2 => .invalidate | _ => .dead

/-- Flits of the input row segment of a transpose that hold bits of element position c of row r. -/
def trDeps (d : BitVec 384) (t r c : Nat) : List Nat :=
  let e := trE d
  let cols := trCols d / 64
  let nb := segBlocks e (t % cols)
  let lo := (segByte e (t % cols) % 64 + e * c / 8) / 64
  let hi := (segByte e (t % cols) % 64 + (e * c + e - 1) / 8) / 64
  distinct [tileReads d t + r * nb + lo, tileReads d t + r * nb + hi]

/-- Rows of a tile whose element lies, in part at least, in bytes [a, b) of an output row's segment. -/
def trRowsOf (e a b : Nat) : List Nat := (List.range 64).filter fun r => 8 * a < e * (r + 1) && e * r < 8 * b

def trWrites (d : BitVec 384) : List EngWrite :=
  let e := trE d
  let cols := trCols d / 64
  (List.range (trRows d / 64 * cols)).flatMap fun t =>
    let I := t / cols
    (List.range 64).flatMap fun c =>
      let row := 64 * (t % cols) + c
      let from_ := dDst d + row * dWord d 0x1C + segByte e I
      (List.range (segBlocks e I)).map fun b =>
        let block := segAddr (dDst d) (dWord d 0x1C) e row I + 64 * b
        { kind := .store, addr := block, mask := blockMask block from_ (from_ + 8 * e), tile := t, first := c = 0 && b = 0
          deps := (trRowsOf e (max block from_ - from_) (min (block + 64) (from_ + 8 * e) - from_)).flatMap fun r => trDeps d t r c }

/-- Input flits on which the output element range ends: elements [0, n), with their scales. -/
def frDepsOf (d : BitVec 384) (a b : Nat) : List Nat :=
  let e := eltBits (frIn d)
  ((List.range (frInFlits d)).filter fun i => a * e < 512 * (i + 1) && 512 * i < b * e)
    ++ (if isMx (frIn d) then
      (List.range (frInScales d)).filterMap fun i =>
        if a / frBsIn d < 64 * (i + 1) && 64 * i < ceilDiv b (frBsIn d) then some (frInFlits d + i) else none
    else [])

/-- Input flits on which the scale bytes of output blocks [p, q) depend: none for a fixed scale, the blocks' own elements, or every element
before the last of the blocks (R295). -/
def frScaleDeps (d : BitVec 384) (p q : Nat) : List Nat :=
  if !isMx (frOut d) || frMode d = 0 then []
  else if frMode d = 1 then frDepsOf d (p * frBsOut d) (q * frBsOut d)
  else frDepsOf d 0 ((q - 1) * frBsOut d)

/-- Element flit k, and the scale flits that it completes (R297). -/
def frFlit (d : BitVec 384) (k : Nat) : List EngWrite :=
  let e := eltBits (frOut d)
  let n := frCount d
  let a := 512 * k / e
  let b := min n (ceilDiv (512 * (k + 1)) e)
  let block := dDst d + 64 * k
  let elt : EngWrite :=
    { kind := .store, addr := block, mask := blockMask block (dDst d) (dDst d + frOutBytes d)
      deps := frScaleDeps d (a / frBsOut d) (ceilDiv b (frBsOut d)) ++ frDepsOf d a b }
  let scales := (List.range (ceilDiv (frBlocks d) 64)).filterMap fun q =>
    let last := min (frBlocks d) (64 * (q + 1))
    let sb := frScOut d + 64 * q
    if (last * frBsOut d * e - 1) / 512 = k then
      some ({ kind := .store, addr := sb, mask := blockMask sb (frScOut d) (frScOut d + frBlocks d), deps := frScaleDeps d (64 * q) last
              scale := true } : EngWrite)
    else none
  elt :: scales

def frWrites (d : BitVec 384) : List EngWrite :=
  ((List.range (ceilDiv (frOutBytes d) 64)).flatMap (frFlit d))
    ++ [{ kind := .store, addr := frRmaxAt d / 64 * 64, mask := blockMask (frRmaxAt d / 64 * 64) (frRmaxAt d) (frRmaxAt d + 4),
          deps := frDepsOf d 0 (frCount d), last := true }]

def tkWrites (d : BitVec 384) : List EngWrite :=
  let group (base : Nat) : List EngWrite := (List.range (ceilDiv (tkK d) 16)).map fun i =>
    let block := base + 64 * i
    { kind := .store, addr := block, mask := blockMask block base (base + 4 * tkK d), deps := List.range (ceilDiv (4 * tkN d) 64) }
  group (dDst d) ++ (if tkKeys d = 0 then [] else group (tkKeys d))

/-- The writes and line requests of a descriptor, in issue order. -/
def writesOf (d : BitVec 384) : List EngWrite :=
  match dOp d with
  | 1 => (List.range (copyRows d)).flatMap fun r => (List.range (dWord d 4 / 64)).map fun b =>
      { kind := .store, addr := dDst d + r * copyPitch d 0x1C + 64 * b, deps := [r * (dWord d 4 / 64) + b] }
  | 2 => (List.range (dWord d 4 / 64)).map fun b => { kind := .store, addr := dDst d + 64 * b }
  | 3 => (List.range (dWord d 4 / 128)).map fun b => { kind := rangeKind (dField d 0 8 2), addr := dDst d + 128 * b, mask := 0 }
  | 4 => (List.range (winRows d)).flatMap fun i => (List.range (winCols d)).flatMap fun j => (List.range 16).map fun r =>
      { kind := .window (winB d) (winBase d + 16 * winB d * i + 64 / winB d * j * dWord d 0x1C) (dWord d 0x1C) r
        addr := dDst d, deps := [(i * winCols d + j) * 16 + r] }
  | 0x10 => trWrites d
  | 0x20 => frWrites d
  | 0x30 => tkWrites d
  | _ => []

/-! ### Data -/

abbrev Flits := SMap (BitVec 512)
def flitOf (f : Flits) (i : Nat) : Nat := ((find f i).map (·.toNat)).getD 0

/-- A word of flit i in the engine's buffers reads as uncorrectable (R302, R409, R410). -/
def flitBad (bad : SMap (Nat × Nat)) (i : Nat) : Bool :=
  (List.range 8).any fun w => match find bad (8 * i + w) with
    | some x => (hammingRead 64 8 x.1 x.2).data?.isNone
    | none => false

/-- The flit's words are written as poison codewords (R409). -/
def poisonFlit (bad : SMap (Nat × Nat)) (i : Nat) : SMap (Nat × Nat) :=
  (List.range 8).foldl (fun m w => put m (8 * i + w) (2 ^ 64 - 1, 0)) bad

/-- Element (r, c) of tile t of a transpose. -/
def trElt (d : BitVec 384) (f : Flits) (t r c : Nat) : Nat :=
  let e := trE d
  let J := t % (trCols d / 64)
  let nb := segBlocks e J
  let i := tileReads d t + r * nb
  let seg := (List.range nb).foldl (fun a b => a + flitOf f (i + b) * 2 ^ (512 * b)) 0
  bits seg (8 * (segByte e J % 64) + e * c) e

/-- Data of a transposer's write. -/
def trData (d : BitVec 384) (f : Flits) (w : EngWrite) : Nat :=
  let e := trE d
  let I := w.tile / (trCols d / 64)
  let row := (w.addr - dDst d) / dWord d 0x1C
  let c := row % 64
  let seg := packElts e ((List.range 64).map fun r => trElt d f w.tile r c)
  let at_ := dDst d + row * dWord d 0x1C + segByte e I
  if w.addr < at_ then (seg * 2 ^ (8 * (at_ - w.addr))) % 2 ^ 512 else bits seg (8 * (w.addr - at_)) 512

/-- An input element as a binary32 (R295). -/
def frValue (d : BitVec 384) (f : Flits) (i : Nat) : Word :=
  let e := eltBits (frIn d)
  let area := flitOf f (i * e / 512) + flitOf f (i * e / 512 + 1) * 2 ^ 512
  let x := bits area (i * e % 512) e
  match frIn d with
  | 0 => BitVec.ofNat 32 x
  | 1 => ofF16 x
  | 2 => ofB16 x
  | m => decodeScaled m x (bits (flitOf f (frInFlits d + i / frBsIn d / 64)) (8 * (i / frBsIn d % 64)) 8)

/-- The running maximum before element n (R296). -/
def frMaxBefore (d : BitVec 384) (f : Flits) (n : Nat) : Word :=
  runningMax (BitVec.ofNat 32 (dWord d 0x2C)) ((List.range n).map (frValue d f))

/-- Scale byte of output block b (R295). -/
def frScale (d : BitVec 384) (f : Flits) (b : Nat) : Nat :=
  let bs := frBsOut d
  match frMode d with
  | 0 => dField d 0x28 12 8
  | 1 => scaleFor (frOut d) (runningMax 0 ((List.range bs).map fun i => frValue d f (bs * b + i)))
  | _ => scaleFor (frOut d) (frMaxBefore d f (bs * b))

/-- An output element. -/
def frElt (d : BitVec 384) (f : Flits) (i : Nat) : Nat :=
  let v := frValue d f i
  match frOut d with
  | 0 => v.toNat
  | 1 => toF16 v
  | 2 => toB16 v
  | m => encodeElt m v (frScale d f (i / frBsOut d))

/-- Bytes of the framer's output areas at a byte address. -/
def frByte (d : BitVec 384) (f : Flits) (scale : Bool) (off : Nat) : Nat :=
  let e := eltBits (frOut d)
  if scale then frScale d f off
  else
    let first := 8 * off / e
    let last := (8 * off + 7) / e
    let x := packElts e ((List.range (last - first + 1)).map fun i => if first + i < frCount d then frElt d f (first + i) else 0)
    bits x (8 * off - first * e) 8

def frData (d : BitVec 384) (f : Flits) (w : EngWrite) : Nat :=
  if w.last then (frMaxBefore d f (frCount d)).toNat * 2 ^ (8 * (frRmaxAt d % 64))
  else
    let base := if w.scale then frScOut d else dDst d
    (List.range 64).foldl (fun a b => if w.mask.testBit b then a + frByte d f w.scale (w.addr + b - base) * 2 ^ (8 * b) else a) 0

/-- The order of R300: key a at position i ranks before key b at position j. -/
def ranksBefore (ascend : Bool) (x y : Word × Nat) : Bool :=
  match isNan32 x.1, isNan32 y.1 with
  | true, true => x.2 < y.2
  | true, false => false
  | false, true => true
  | false, false =>
    let a := totalKey x.1
    let b := totalKey y.1
    if a = b then x.2 < y.2 else if ascend then a < b else b < a

/-- Insert a key into a ranked list. -/
def rankInsert (ascend : Bool) (x : Word × Nat) : List (Word × Nat) → List (Word × Nat)
  | [] => [x]
  | y :: ys => if ranksBefore ascend x y then x :: y :: ys else y :: rankInsert ascend x ys

/-- The keys in rank order. -/
def ranked (d : BitVec 384) (f : Flits) : List (Word × Nat) :=
  (List.range (tkN d)).foldl (fun l i =>
    rankInsert (dField d 0x20 13 1 = 1) (BitVec.ofNat 32 (bits (flitOf f (i / 16)) (32 * (i % 16)) 32), i) l) []

def tkData (d : BitVec 384) (f : Flits) (m : Nat) : Nat :=
  let groups := ceilDiv (tkK d) 16
  let top := ((ranked d f).take (tkK d)).drop (16 * (m % groups))
  packWords ((top.take 16).map fun x => if m < groups then dWord d 0x24 + x.2 else x.1.toNat)

/-- Data of write m. -/
def writeData (d : BitVec 384) (f : Flits) (m : Nat) (w : EngWrite) : BitVec 512 :=
  BitVec.ofNat 512 (match dOp d with
    | 1 => flitOf f m
    | 2 => packWords (List.replicate 16 (dField d 8 0 32))
    | 4 => flitOf f m
    | 0x10 => trData d f w
    | 0x20 => frData d f w
    | 0x30 => tkData d f m
    | _ => 0)

/-! ### The check (R281, R282) -/

/-- The words of a descriptor are 0 from a byte offset on. -/
def zeroFrom (d : BitVec 384) (off : Nat) : Bool := d.toNat / 2 ^ (8 * off) = 0

def within (x lo hi : Nat) : Bool := lo ≤ x && x ≤ hi
def mult (x m : Nat) : Bool := x % m = 0

/-- Each output row of every window lies in one layer (R201, R291). -/
def windowRowsOk (d : BitVec 384) : Bool :=
  (winOut d).all fun o => o + 16 * winB d ≤ layerBytes || (layerBytes ≤ o && o + 16 * winB d ≤ 2 * layerBytes)

/-- Fields and reserved fields of the op (R280, R287, R292, R294, R299). -/
def fieldsOk (d : BitVec 384) : Bool :=
  let op := dOp d
  let w4 := dWord d 4
  dField d 0 12 4 = 0 && (op = 3 || dField d 0 8 2 = 0) && !((op = 2 || op = 3) && dSrcHost d) && !((op = 3 || op = 4) && dDstHost d)
    && match op with
    | 1 => mult w4 64 && within w4 64 (2 ^ 24) && mult (dSrc d) 64 && mult (dDst d) 64 && within (copyRows d) 1 65536
        && w4 * copyRows d ≤ 2 ^ 30 && zeroFrom d 0x24
        && (copyRows d = 1 || (mult (dWord d 0x18) 64 && w4 ≤ dWord d 0x18 && mult (dWord d 0x1C) 64 && w4 ≤ dWord d 0x1C))
    | 2 => mult w4 64 && within w4 64 (2 ^ 30) && dWord d 0xC = 0 && mult (dDst d) 64 && zeroFrom d 0x18
    | 3 => mult w4 128 && within w4 128 (2 ^ 30) && dAddr d 8 = 0 && mult (dDst d) 128 && zeroFrom d 0x18
    | 4 => within (winRows d) 1 256 && within (winCols d) 1 256 && mult (dSrc d) 64 && mult (dWord d 0x18) 64 && dField d 0x20 0 2 ≠ 3
        && dField d 0x20 2 30 = 0 && mult (dWord d 0x1C) 16 && 16 * winB d ≤ dWord d 0x1C && zeroFrom d 0x24
        && mult (dDst d) 16 && windowRowsOk d
    | 0x10 => mult (trRows d) 64 && within (trRows d) 64 32768 && mult (trCols d) 64 && within (trCols d) 64 32768
        && mult (dSrc d) 64 && mult (dDst d) 64 && dField d 0x20 0 4 ≤ 10 && dField d 0x20 4 28 = 0 && zeroFrom d 0x24
        && mult (dWord d 0x18) 64 && trCols d * trE d / 8 ≤ dWord d 0x18 && mult (dWord d 0x1C) 64 && trRows d * trE d / 8 ≤ dWord d 0x1C
    | 0x20 =>
      let fmtOk (f : Nat) : Bool := f ≤ 2 || isMx f
      mult w4 128 && within w4 128 (2 ^ 24) && mult (dSrc d) 64 && mult (dDst d) 64 && fmtOk (frIn d) && fmtOk (frOut d)
        && (isMx (frIn d) || (dField d 0x28 8 1 = 0 && frScIn d = 0)) && mult (frScIn d) 64
        && (isMx (frOut d) || (dField d 0x28 9 1 = 0 && frScOut d = 0)) && mult (frScOut d) 64 && frMode d ≠ 3 && dField d 0x28 20 12 = 0
    | 0x30 => within w4 1 65536 && mult (dSrc d) 64 && mult (dDst d) 64 && mult (tkKeys d) 64 && within (tkK d) 1 4096
        && tkK d ≤ w4 && dField d 0x20 14 18 = 0 && zeroFrom d 0x28
    | _ => false

/-- Source and destination byte ranges of a descriptor: address and length. -/
def srcRanges (d : BitVec 384) : List (Nat × Nat) :=
  match dOp d with
  | 0x10 => (List.range (trRows d)).map fun r => (dSrc d + r * dWord d 0x18, trCols d * trE d / 8)
  | 0x20 => [(dSrc d, frCount d * eltBits (frIn d) / 8)] ++ (if isMx (frIn d) then [(frScIn d, frCount d / frBsIn d)] else [])
  | 0x30 => [(dSrc d, 4 * tkN d)]
  | _ => (readAddrs d).map fun a => (a, 64)

def dstRanges (d : BitVec 384) : List (Nat × Nat) :=
  match dOp d with
  | 4 => (winOut d).map fun o => (winAddr d o, 16 * winB d)
  | 0x10 => (List.range (trCols d)).map fun c => (dDst d + c * dWord d 0x1C, trRows d * trE d / 8)
  | 0x20 => [(dDst d, frOutBytes d), (frScOut d, frBlocks d), (frRmaxAt d, 4)]
  | 0x30 => [(dDst d, 4 * tkK d)] ++ (if tkKeys d = 0 then [] else [(tkKeys d, 4 * tkK d)])
  | _ => (writesOf d).map fun w => (w.addr, 64)

def overlaps (d : BitVec 384) : Bool :=
  dOp d ≠ 2 && dOp d ≠ 3 && dSrcHost d = dDstHost d
    && (srcRanges d).any fun a => (dstRanges d).any fun b => a.1 < b.1 + b.2 && b.1 < a.1 + a.2

/-- Cause with which R282 refuses an address, or 0. -/
def spaceCause (s : State) (part : Nat) (sched host archiveOnly vaultOnly : Bool) (a : Nat) : Nat :=
  if host then (if sched then 4 else 0)
  else
    let sp := spaceOf s a
    match sp, spaceOwner s sp with
    | .vault _, some o => if o ≠ part then 5 else if archiveOnly then 4 else 0
    | .archive _ _, some o => if o ≠ part then 5 else if sched && !vaultOnly then 0 else 4
    | .window _ _, some o => if o ≠ part then 5 else if archiveOnly || vaultOnly then 4 else 0
    | _, _ => 4

def readCause (s : State) (j : EngJob) (a : Nat) : Nat := spaceCause s j.part j.ring.isNone (dSrcHost j.desc) false false a
def writeCause (s : State) (j : EngJob) (w : EngWrite) : Nat :=
  spaceCause s j.part j.ring.isNone (dDstHost j.desc) (dOp j.desc = 4) (dOp j.desc = 3) w.addr

/-- The first cause with which a descriptor fails its check at take, or 0. -/
def descCause (s : State) (e : Nat) (j : EngJob) : Nat :=
  let d := j.desc
  if !servesOp (e % 6) (dOp d) then 1
  else if !fieldsOk d then 2
  else if overlaps d then 3
  else match ((readAddrs d).map (readCause s j) ++ (writesOf d).map (writeCause s j)).find? (· ≠ 0) with
    | some c => c
    | none => if s.boot.legacy && dOp d = 0x20 && dField d 0x28 8 2 ≠ 0 then 6 else 0

/-! ### Contexts and slots (R278, R279, R285) -/

def ctxOf (s : State) (e x : Nat) : Option EngCtx := find (engOf s e).ctx x
def setCtx (s : State) (e x : Nat) (c : EngCtx) : State := setEng s e { engOf s e with ctx := put (engOf s e).ctx x c }
def bufferOf (x : Nat) : Nat := if x = 8 then 16 else 4

/-- The opt-ins of SEQ_SVC in force at beat b (R38, R452). -/
def svcAt (s : State) (p b : Nat) : BitVec 2 :=
  let x := partOf s p
  if x.svcFrom ≤ b then x.svc else ((x.svcPast.find? (·.1 ≤ b)).map (·.2)).getD 0
def svcNow (s : State) (p : Nat) : BitVec 2 := svcAt s p (now s)

/-- PCLK from which the context's next flit waits for the intake (R285, R293). -/
def flitFrom (c : EngCtx) : Option Nat :=
  let i := c.eTimes.length
  match c.back.find? (·.1 = i) with
  | none => none
  | some b =>
    let t := max b.2.2 (match c.eTimes.getLast? with | some e => e + 1 | none => c.start)
    let tile := ((List.range (i + 1)).find? fun t => i < tileReads c.job.desc (t + 1)).getD 0
    if dOp c.job.desc = 0x10 && 2 ≤ tile then c.tileEnd[tile - 2]?.map fun w => max t (w + 1) else some t

/-- Flit i of a context may enter the intake at PCLK pc, but for the slot (R285, R293). -/
def flitReady (c : EngCtx) (pc : Nat) : Bool := match flitFrom c with | some t => decide (t ≤ pc) | none => false

/-- A queued descriptor of context x that may be taken at PCLK pc. -/
def queued (s : State) (e x pc : Nat) : Option EngJob :=
  ((engOf s e).queue.find? fun q => q.1 = x && !q.2.held && q.2.from_ ≤ pc).map (·.2)

/-- Context x waits for an intake slot. -/
def intakeWants (s : State) (e x pc : Nat) : Bool :=
  match ctxOf s e x with
  | some c => flitReady c pc
  | none => x ≠ 8 && (queued s e x pc).isSome

/-- Owner of an intake slot: 8 for the scheduled context, in the lane slots that the slot plan gives the partition of its
descriptor (R34, R285). -/
def intakeOwner (s : State) (e pc : Nat) : Option Nat :=
  if pc % 20 < 16 then
    (match ctxOf s e 8 with
      | some c => if planned s 4 e c.job.part 1 pc then some 8 else none
      | none => none)
  else
    let c := classOfSlot pc
    if c < 8 then some c else none

/-- The context's descriptor or flit reclaims: it keeps the service under which it was presented to the intake (R38, R452). -/
def reclaimsAt (s : State) (e x pc : Nat) : Bool :=
  match ctxOf s e x, queued s e x pc with
  | some c, _ => (svcAt s c.job.part ((flitFrom c).getD pc / 5)).getLsbD 1
  | none, some j => (svcAt s j.part (j.from_ / 5)).getLsbD 1
  | _, _ => false

/-- Context x has the intake's slot of PCLK pc (R37, R39). -/
def hasIntake (s : State) (e x pc : Nat) : Bool :=
  let idle : Bool := match intakeOwner s e pc with | some y => !intakeWants s e y pc | none => true
  look s.slotUse (4 * 65536 + e) (pc + 1) ≠ pc
    && (intakeOwner s e pc = some x
      || (x ≠ 8 && idle && reclaimsAt s e x pc && (List.range 8).all fun y =>
            !(intakeWants s e y pc && reclaimsAt s e y pc) || reclaimRank x pc ≤ reclaimRank y pc))

/-! ### Taking a descriptor (R279, R281, R307) -/

/-- Place a scheduled entry that has come due in the engine's queue. -/
def dueEntry (s : State) (e pc : Nat) : State :=
  (List.range 8).foldl (fun s p => match execOf s p with
    | none => s
    | some l =>
      (List.range l.body.engines.length).foldl (fun s n => match l.body.engines[n]?, find l.engineRead n, execOf s p with
        | some en, some d, some l' =>
          if en.engine = e && n ∉ l'.engineTaken && 5 * (l.start + en.beat) ≤ pc && hears s l (e / 6) then
            let s := setExec s p { l' with engineTaken := l'.engineTaken ++ [n] }
            let j : EngJob := { desc := d, part := p, entry := n, from_ := 5 * (l.start + en.beat) }
            setEng s e { engOf s e with queue := (engOf s e).queue ++ [(8, j)] }
          else s
        | _, _, _ => s) s) s

/-- A descriptor refused at PCLK pc records its cause; a scheduled one raises a job fault (R281, R476, R477). -/
def refuse (s : State) (e x cause pc : Nat) (c : EngCtx) : State :=
  let s := setEng s e (recordCause (engOf s e) x cause c.job.tag (now s))
  let s := setCtx s e x { c with refused := some cause, refusedAt := pc }
  if c.job.ring.isNone then raiseFault s c.job.part ⟨5, cause, e / 6, e % 6, none⟩ else s

/-- The PCLK from which a context may take its next descriptor. -/
def takeFrom (s : State) (e x : Nat) (j : EngJob) : Nat := if x = 8 then max j.from_ ((engOf s e).schedDone + 1) else j.from_

/-- The context takes a descriptor at PCLK pc. -/
def takeDesc (s : State) (e x pc : Nat) (j : EngJob) : State :=
  let g := engOf s e
  let waited := if x = 8 then pc / 5 - j.from_ / 5 else 0
  let q := g.queue.erase (x, j)
  let s := setEng s e { g with queue := q, schedWait := satAdd g.schedWait waited }
  let s := if x = 8 then s else useSlot s 4 e pc
  let c : EngCtx := { job := j, take := pc, start := pc + 4 }
  let s := setCtx s e x c
  let cause := descCause s e j
  if cause = 0 then s else refuse s e x cause pc c

/-- The engine is switched off when a descriptor meets it: the descriptor waits for the wake (R307). -/
def meetOff (s : State) (e x : Nat) (j : EngJob) : State :=
  let u := usableAt s .engine e
  let s := demandWake s .engine e
  let g := engOf s e
  setEng s e { g.flag 3 (now s) with
    wakeWait := satAdd g.wakeWait (u - now s)
    queue := g.queue.map fun q => if q = (x, j) then (x, { j with from_ := 5 * u }) else q }

/-- An op command: the descriptor that waits for the context is taken, if its OP is the command's or the engine serves no such
OP. -/
def takeOp (op : Nat) (eng : Fin 48) (ctx : Fin 9) (j : Fin 5) (s : State) : Result :=
  let e := eng.val
  let x := ctx.val
  let pc := pclk s j.val
  let s1 := if x = 8 then dueEntry s e pc else s
  match ctxOf s1 e x, queued s1 e x pc with
  | none, some job =>
    let mine := dOp job.desc = op || !servesOp (e % 6) (dOp job.desc)
    if !live s || !mine || inDomainReset s 2 (e / 6) then .next s
    else if !domOn s1 .engine e then .next (meetOff s1 e x job)
    else onlyIf (takeFrom s1 e x job ≤ pc && (x = 8 || hasIntake s1 e x pc)) s (takeDesc s1 e x pc job)
  | _, _ => .next s

/-- COPY, R279, R288. -/
def execCopy (eng : Fin 48) (ctx : Fin 9) (j : Fin 5) (s : State) : Result := takeOp 1 eng ctx j s
/-- FILL, R279, R289. -/
def execFill (eng : Fin 48) (ctx : Fin 9) (j : Fin 5) (s : State) : Result := takeOp 2 eng ctx j s
/-- RANGE, R279, R290. -/
def execRange (eng : Fin 48) (ctx : Fin 9) (j : Fin 5) (s : State) : Result := takeOp 3 eng ctx j s
/-- WINDOW, R279, R291. -/
def execWindow (eng : Fin 48) (ctx : Fin 9) (j : Fin 5) (s : State) : Result := takeOp 4 eng ctx j s
/-- TRANSPOSE, R279, R292. -/
def execTranspose (eng : Fin 48) (ctx : Fin 9) (j : Fin 5) (s : State) : Result := takeOp 0x10 eng ctx j s
/-- FRAME, R279, R294. -/
def execFrame (eng : Fin 48) (ctx : Fin 9) (j : Fin 5) (s : State) : Result := takeOp 0x20 eng ctx j s
/-- TOPK, R279, R299. -/
def execTopk (eng : Fin 48) (ctx : Fin 9) (j : Fin 5) (s : State) : Result := takeOp 0x30 eng ctx j s

/-! ### Reads and flits (R283 to R285, R302, R303) -/

/-- The context still issues requests. -/
def issuing (c : EngCtx) : Bool := c.refused.isNone && c.abandoned.isNone && !c.hostError

/-- A context's request: scheduled requests ride the engine's route, others the port's class; one to host memory crosses the bridges to
the port's plinth (R17), and with the host port in reset is dropped at its edge (R444). -/
def engRequest (s : State) (e x : Nat) (c : EngCtx) (host : Bool) (origin : Origin) (kind : ReqKind) (a : Nat) (mask : BitVec 64)
    (d : BitVec 512) (skip : Bool) (pc : Nat) : State :=
  let route := if host then (hopsTo (e / 6) x 4 ++ [(5, x)], x) else routeTo s (e / 6) a
  let r : Req := { origin := origin, part := c.job.part, lane := if x = 8 then some (engRoute e) else none, cls := x
                   reclaim := x ≠ 8 && (svcNow s c.job.part).getLsbD 1
                   kind := kind, addr := a, mask := mask, data := d, route := route.1, hops := hopCount (e / 6) route.2
                   skip := skip, stage := .route pc }
  addReq s (if host && e / 6 = x && inDomainReset s 1 x then dropAtEdge r pc else r)

/-- A command on a working context. -/
def atCtx (eng : Fin 48) (ctx : Fin 9) (j : Fin 5) (s : State) (f : Nat → Nat → EngCtx → Nat → Option State) : Result :=
  match ctxOf s eng.val ctx.val with
  | some c => match f eng.val ctx.val c (pclk s j.val) with
    | some t => onlyIf (live s) s t
    | none => .next s
  | none => .next s

/-- PCLK at which the next read issues (R283); none where it waits for a flit to enter. -/
def readDue (x : Nat) (c : EngCtx) : Option Nat :=
  let i := c.reads
  let base := if i = 0 then c.start else max c.start (c.lastRead + 1)
  if i < bufferOf x then some base
  else (c.eTimes[i - bufferOf x]?).map fun e => max base (e + 1)

/-- ENGINE_READ_ISSUE, R283, R476. -/
def execEngineReadIssue (eng : Fin 48) (ctx : Fin 9) (j : Fin 5) (s : State) : Result :=
  atCtx eng ctx j s fun e x c pc =>
    match (readAddrs c.job.desc)[c.reads]? with
    | none => none
    | some a =>
      if !issuing c || readDue x c ≠ some pc then none
      else
        let cause := readCause s c.job a
        if cause ≠ 0 then some (refuse s e x cause pc c)
        else
          let host := dSrcHost c.job.desc
          let c' := { c with reads := c.reads + 1, lastRead := pc, openReads := c.openReads ++ [s.nextReq] }
          some (engRequest (setCtx s e x c') e x c host (.engRead e x c.reads) (if host then .hostRead else .load) a
            (BitVec.allOnes 64) 0 false pc)

/-- The first read of a context whose answer is due at PCLK pc, or whose host data may come. -/
def readBack (s : State) (e x : Nat) (host : Bool) (pc : Nat) : Option (Nat × Req × Nat) :=
  s.net.findSome? fun r => match r.2.origin, r.2.stage, r.2.kind with
    | .engRead e' x' i, .answered c, _ => if !host && e' = e && x' = x && c = pc then some (r.1, r.2, i) else none
    | .engRead e' x' i, .slice t, .hostRead => if host && e' = e && x' = x && t + 8 + 24 * r.2.hops ≤ pc then some (r.1, r.2, i) else none
    | _, _, _ => none

/-- A poisoned read (R302): the cause, and the partition's job fault. -/
def poisonRead' (s : State) (e x : Nat) (c : EngCtx) (why : Option (Nat × Nat × Nat × Nat)) : State :=
  let s := setEng s e (recordCause (engOf s e) x 7 c.job.tag (now s))
  if c.job.ring.isNone then raiseFault s c.job.part ⟨5, 7, e / 6, e % 6, why⟩
  else match why with
    | some w => raiseFault s c.job.part ⟨w.1 / 4096, w.2.1, w.2.2.2, w.1 % 4096, some w⟩
    | none => raiseFault s c.job.part ⟨5, 7, e / 6, e % 6, none⟩

/-- The data of read i has come back. -/
def acceptRead (s : State) (e x n i pc : Nat) (c : EngCtx) (d : BitVec 512) (poison : Bool) (why : Option (Nat × Nat × Nat × Nat)) :
    State :=
  let c' := { c with back := c.back ++ [(i, d, pc)], bad := if poison then poisonFlit c.bad i else c.bad
                     openReads := c.openReads.erase n, poisoned := c.poisoned || poison, lastAck := max c.lastAck pc }
  let s := setCtx { s with net := drop s.net n } e x c'
  if poison && !c.poisoned && c.abandoned.isNone then poisonRead' s e x c' why else s

/-- ENGINE_READ_RETURN, R284, R302, R303. -/
def execEngineReadReturn (eng : Fin 48) (ctx : Fin 9) (j : Fin 5) (host : HostReply) (s : State) : Result :=
  atCtx eng ctx j s fun e x c pc =>
    match host with
    | .inside => (readBack s e x false pc).map fun r => acceptRead s e x r.1 r.2.2 pc c r.2.1.resp r.2.1.poison r.2.1.why
    | .data d => (readBack s e x true pc).map fun r =>
        let h := match r.2.1.stage with | .slice t => pc - (t + 8 + 24 * r.2.1.hops) | _ => 0
        let s := setEng s e { engOf s e with hostWait := satAdd (engOf s e).hostWait h }
        acceptRead s e x r.1 r.2.2 pc c d false none
    | .error => (readBack s e x true pc).map fun r =>
        let s := setEng s e (recordCause (engOf s e) x 8 c.job.tag (now s))
        setCtx { s with net := drop s.net r.1 } e x { c with hostError := true, openReads := c.openReads.erase r.1, lastAck := max c.lastAck pc }

/-- FLIT_ENTRY, R285, R385: in the first slot that the context owns. -/
def execFlitEntry (eng : Fin 48) (ctx : Fin 9) (j : Fin 5) (s : State) : Result :=
  atCtx eng ctx j s fun e x c pc =>
    let i := c.eTimes.length
    match c.back.find? (·.1 = i) with
    | none => none
    | some b =>
      if !(c.abandoned.isNone && flitReady c pc && hasIntake s e x pc) then none
      else
        let c' := { c with back := c.back.erase b, flits := put c.flits i b.2.1, eTimes := c.eTimes ++ [pc] }
        let s := setCtx (useSlot s 4 e pc) e x c'
        let s := setEng s e { engOf s e with flits := satAdd (engOf s e).flits 1 }
        some (if x = 8 then s else charge s c.job.part (144 + e / 6) 6000)

/-! ### Writes and ends (R286, R302 to R307) -/

/-- PCLK at which write m issues, once the flits that it waits for have entered. -/
def writeDue (c : EngCtx) (m : Nat) (w : EngWrite) : Option Nat :=
  let e (i : Nat) : Option Nat := c.eTimes[i]?
  let next := if m = 0 then c.start else c.lastWrite + 1
  match dOp c.job.desc with
  | 1 => (e m).map (· + 2)
  | 2 => some (max c.start next)
  | 3 => some (max c.start next)
  | 4 => e m
  | 0x10 =>
    if w.first then (e (tileReads c.job.desc (w.tile + 1) - 1)).map fun t => if m = 0 then t + 8 else max (t + 8) next else some next
  | 0x20 =>
    if w.last then some next
    else (e (w.deps.foldl max 0)).map fun t => if m = 0 then t + 12 else max (t + 12) next
  | 0x30 => (e ((readAddrs c.job.desc).length - 1)).map (· + 16 + m)
  | _ => none

/-- ENGINE_WRITE_ISSUE, R286, R302, R476. A write that depends on poison is skipped: its request goes out marked so, and keeps every
time of the write. -/
def execEngineWriteIssue (eng : Fin 48) (ctx : Fin 9) (j : Fin 5) (s : State) : Result :=
  atCtx eng ctx j s fun e x c pc =>
    let ws := writesOf c.job.desc
    match ws[c.writes]? with
    | none => none
    | some w =>
      if !issuing c || writeDue c c.writes w ≠ some pc then none
      else
        let cause := writeCause s c.job w
        if cause ≠ 0 then some (refuse s e x cause pc c)
        else
          let bad := w.deps.any (flitBad c.bad)
          let host := dDstHost c.job.desc
          let kind := if host then .hostWrite else w.kind
          let ends := match ws[c.writes + 1]? with | some v => v.first | none => true
          let c' := { c with writes := c.writes + 1, lastWrite := pc, openWrites := c.openWrites ++ [s.nextReq]
                             tileEnd := if dOp c.job.desc = 0x10 && ends then c.tileEnd ++ [pc] else c.tileEnd }
          some (engRequest (setCtx s e x c') e x c host (.engWrite e x c.writes) kind w.addr
            (BitVec.ofNat 64 w.mask) (writeData c.job.desc c.flits c.writes w) bad pc)

/-- A write that the engine has issued after one that the host completed with an error (R303). -/
def afterError (c : EngCtx) (m : Nat) : Bool := match c.failedWrite with | some k => decide (k < m) | none => false

/-- Write m of the engine's context is acknowledged: one to the host has been sent then (R286), unless it is skipped or follows one that
the host completed with an error (R302, R303). -/
def ackWrite (s : State) (e x n m pc : Nat) (r : Req) (hostError : Bool) : State :=
  let c := (ctxOf s e x).filter fun c => decide (n ∈ c.openWrites)
  let sent := r.kind = .hostWrite && !r.skip && !(c.any fun c => afterError c m)
  let s := { s with net := drop s.net n }
  let s := if sent then emit s (.hostWrite r.cls r.addr r.mask r.data) else s
  match c with
  | none => s
  | some c =>
    let err := hostError && sent
    let s := if err then setEng s e (recordCause (engOf s e) x 8 c.job.tag (now s)) else s
    setCtx s e x
      { c with openWrites := c.openWrites.erase n, lastAck := max c.lastAck pc, hostError := c.hostError || err
               failedWrite := if err && c.failedWrite.isNone then some m else c.failedWrite }

/-- ENGINE_WRITE_ACK, R286, R303. -/
def execEngineWriteAck (eng : Fin 48) (ctx : Fin 9) (j : Fin 5) (hostError : Bool) (s : State) : Result :=
  let pc := pclk s j.val
  match s.net.findSome? fun r => match r.2.origin, r.2.stage with
      | .engWrite e x m, .answered t => if e = eng.val && x = ctx.val && t = pc then some (r.1, m, r.2) else none
      | _, _ => none with
  | some (n, m, r) => onlyIf (live s) s (ackWrite s eng.val ctx.val n m pc r hostError)
  | none => .next s

/-- Nothing that the descriptor has issued is out. -/
def quiet (c : EngCtx) : Bool := c.openReads = [] && c.openWrites = []
/-- Nothing that it has issued will still be answered or sent (R305, R444). -/
def settled (s : State) (c : EngCtx) : Bool := stillOut s c.openReads = [] && stillOut s c.openWrites = []

/-- Status and cause of a ring-driven descriptor's completion (R281, R302, R303, R330, R476). -/
def endStatus (c : EngCtx) : Nat × Nat :=
  match c.refused with
  | some 6 => (6, 6)
  | some k => (2, k)
  | none => if c.poisoned then (7, 7) else if c.hostError then (2, 8) else (0, 0)

/-- PCLK at which the descriptor is done, where it is complete but for the time (R281, R286, R303, R476). -/
def doneAt (c : EngCtx) : Option Nat :=
  if !quiet c || c.abandoned.isSome then none
  else if c.refused.isSome && c.refusedAt = c.take then some (c.take + 4)
  else if c.refused.isSome then some (max c.lastAck c.refusedAt + 1)
  else if c.hostError then some (max c.lastAck (max c.lastRead c.lastWrite) + 1)
  else if c.writes = (writesOf c.job.desc).length && c.eTimes.length = (readAddrs c.job.desc).length then some (c.lastAck + 1)
  else none

def dropCtx (s : State) (e x : Nat) : State := setEng s e { engOf s e with ctx := drop (engOf s e).ctx x }

/-- DESCRIPTOR_DONE, R286: a scheduled descriptor reports at the next beat boundary, a ring-driven one posts its completion. Every one counts,
a refused one too (DESIGN CHOICE, log entry 194). -/
def execDescriptorDone (eng : Fin 48) (ctx : Fin 9) (j : Fin 5) (s : State) : Result :=
  atCtx eng ctx j s fun e x c pc =>
    if doneAt c ≠ some pc then none
    else
      let s := dropCtx s e x
      let g := engOf s e
      let s := setEng s e { g with descs := satAdd g.descs 1, schedDone := if x = 8 then pc else g.schedDone }
      let at_ := if c.refused.isSome && c.refusedAt = c.take then pc else pc + 1
      some (if c.job.ring.isSome then engineComplete s c.job (endStatus c).1 (endStatus c).2 (now s) at_
        else match execOf s c.job.part with
          | some l =>
            if c.refused.isSome then s
            else setExec s c.job.part { l with engineOpen := l.engineOpen.erase c.job.entry, lastDone := now s + 1 }
          | none => s)

/-- Reads, writes and line requests that a descriptor defines (R306). -/
def requestsOf (d : BitVec 384) : Nat := (readAddrs d).length + (writesOf d).length

/-- The descriptor waits on host memory. -/
def onHost (s : State) (c : EngCtx) : Bool :=
  (c.openReads ++ c.openWrites).any fun n => match find s.net n with
    | some r => (match r.kind with | .hostRead => true | .hostWrite => true | _ => false)
    | none => false

/-- The descriptor is done in the present beat, its acknowledgements of the beat counted (R447). -/
def endsNow (s : State) (c : EngCtx) : Bool :=
  let due (n : Nat) : Option Nat := (find s.net n).bind fun r => match r.stage with
    | .answered t => if t < 5 * (now s + 1) then some t else none
    | _ => none
  let acks := (c.openReads ++ c.openWrites).filterMap due
  let c' := { c with openReads := c.openReads.filter fun n => (due n).isNone
                     openWrites := c.openWrites.filter fun n => (due n).isNone
                     lastAck := acks.foldl max c.lastAck }
  match doneAt c' with
  | some d => decide (d < 5 * (now s + 1))
  | none => false

/-- ENGINE_DESCRIPTOR_TIMEOUT, R306, R447: cause 3. -/
def execEngineDescriptorTimeout (eng : Fin 48) (ctx : Fin 9) (s : State) : Result :=
  let e := eng.val
  let x := ctx.val
  match ctxOf s e x with
  | none => .next s
  | some c =>
    let due := c.take / 5 + 250000 + 24 * requestsOf c.job.desc
    let g := recordCause (engOf s e) x 9 c.job.tag (now s)
    let s' := setEng s e g
    let s' := if onHost s c then resetFor s' .hostPort x 3 else resetFor s' .stack (e / 6) 3
    let h := engOf s' e
    let s' := setEng s' e { h with ctx := drop h.ctx x, done := h.done ++ [(c.job, 5, 9, now s)] }
    onlyIf (live s && x ≠ 8 && due ≤ now s && !endsNow s c) s s'

/-- ABANDONED_DESCRIPTOR_COMPLETION, R305: posted once nothing of the descriptor is out, from F + 1 on. -/
def execAbandonedDescriptorCompletion (eng : Fin 48) (ctx : Fin 9) (s : State) : Result :=
  let e := eng.val
  let x := ctx.val
  let g := engOf s e
  match g.done.find? fun d => ((d.1.ring.map fun r => portOfRing r.1).getD 8) = x && d.2.2.2 ≤ now s with
  | some d =>
    let g' := { g with done := g.done.erase d }
    let g' := if d.2.2.1 = 0x0A then recordCause g' x 0x0A d.1.tag (now s) else g'
    onlyIf (live s) s (engineComplete (setEng s e g') d.1 d.2.1 d.2.2.1 (now s) (5 * now s))
  | none => match ctxOf s e x with
    | some c =>
      let s' := setEng s e { recordCause g x 0x0A c.job.tag (now s) with ctx := drop g.ctx x }
      onlyIf (live s && settled s c && (match c.abandoned with | some f => f < now s | none => false)) s
        (engineComplete s' c.job 7 0x0A (now s) (max (c.lastAck + 1) (5 * now s)))
    | none => .next s

/-- HELD_DESCRIPTOR_RELEASE, R279: at the first beat after the stack's reset ends. -/
def execHeldDescriptorRelease (eng : Fin 48) (s : State) : Result :=
  let e := eng.val
  let g := engOf s e
  match g.queue.find? (·.2.held) with
  | none => .next s
  | some q =>
    onlyIf (live s && !inDomainReset s 2 (e / 6)) s
      (setEng s e { g with queue := g.queue.map fun y => if y = q then (q.1, { q.2 with held := false, from_ := 5 * now s }) else y })

/-- Clear the STATUS bits of an engine in beat b; CAUSE clears with the last of the five that set it. -/
def clearEngine (g : Engine) (ones : Word) (b : Nat) : Engine :=
  let st : BitVec 6 := w1c g.status 9 ones (setIn g.setAt 0 6 b)
  let five (b : BitVec 6) : BitVec 6 := clearBit b 3
  let g' := { g with status := st }
  if five st = 0 ∧ five g.status ≠ 0 then { g' with cause := 0, causeCtx := 0, causeTag := 0 } else g'

/-- ENGINE_STATUS_WRITE, R281, R450: W1C; CAUSE clears where the write clears one of its five bits and leaves them all 0. -/
def execEngineStatusWrite (eng : Fin 48) (value : BitVec 32) (s : State) : Result :=
  onlyIf (regsOpen s) s (setEng s eng.val (clearEngine (engOf s eng.val) value (now s)))

end Sys2Proof.Machine
end

