-- ==== Sys2Proof/Machine/Evaluation.lean ====
section
/-! DEFINITION. The evaluation of a step, and of its gate and budget again, after the beat's metered charges (R50 to R53, R382). -/

namespace Sys2Proof.Machine

/-- PCLK of the present beat. -/
def beatPclk (s : State) : List Nat := (List.range 5).map (pclk s)

/-- A flit of a ring-driven descriptor of the partition can still enter an intake in the present beat. -/
def flitChargeDue (s : State) (p : Nat) : Bool :=
  s.engines.any fun e => e.2.ctx.any fun x =>
    x.1 ≠ 8 && x.2.job.part = p && x.2.abandoned.isNone
      && (beatPclk s).any fun pc => flitReady x.2 pc && hasIntake s e.1 x.1 pc

/-- A burst line of a conservator of the partition that no executing step lists has its slot still to come in the present beat. -/
def burstChargeDue (s : State) (p : Nat) : Bool :=
  s.csvs.any fun c => ownerOfPch s c.1 = some p && !csvListed s c.1 && (pchOf s c.1).nbMode && pchShared s c.1
    && c.2.bursts.any fun u => match u.slots[u.done]? with
      | some g => decide (4 * now s ≤ g ∧ g < 4 * (now s + 1))
      | none => false

/-- Metered charges of the partition in the present beat are still to come: the balance of R382 is taken after them. -/
def chargesDue (s : State) (p : Nat) : Bool := flitChargeDue s p || burstChargeDue s p

/-- EVALUATE_STEP, R52 to R57. -/
def execEvaluateStep (part : Fin 8) (s : State) : Result :=
  withRun s part.val fun r => match r.eval with
    | some e => (stepOf s part.val r e.index).bind fun st =>
        when' (!chargesDue s part.val && e.gate.isNone && e.at_ = now s && r.next.isNone) (tryGate s part.val r e st)
    | none => none

/-- GATE_MET, R53: at a later multiple of 4 the gate counter is not 0. -/
def execGateMet (part : Fin 8) (s : State) : Result :=
  withRun s part.val fun r => match r.eval with
    | some e => (stepOf s part.val r e.index).bind fun st =>
        when' (!chargesDue s part.val && e.gate.isNone && e.at_ ≤ now s && now s % 4 = 0 && st.gateEn && gateCount s part.val st ≠ 0
          && r.next.isNone) (tryGate s part.val r e st)
    | none => none

/-- BUDGET_RETRY, R53. -/
def execBudgetRetry (part : Fin 8) (s : State) : Result :=
  withRun s part.val fun r => match r.eval with
    | some e => (stepOf s part.val r e.index).bind fun st =>
        when' (!chargesDue s part.val && e.gate.isSome && e.at_ = now s && r.next.isNone) (tryBudget s part.val r e st)
    | none => none

end Sys2Proof.Machine
end

