-- ==== Sys2Proof/Machine/Ports.lean ====
section
/-! DEFINITION. The host ports and the registrar: configuration, BAR2, doorbells, fetches, descriptors and completions (R311 to
R329, R337, R338, R350, R430, R450). -/

namespace Sys2Proof.Machine

/-! ### Configuration space and BAR2 (R311, R315 to R318) -/

/-- Word of configuration space at which a capability begins: MSI-X (0), power management (1) and PCI Express (2) in the first 256 bytes, at
places that R311 does not give, and AER (3), the only extended one, at 0x100. -/
def capabilityAt (k : Nat) : Nat := if k < 3 then 16 + Config.capability k % 48 else 64

/-- The bits of word i of a capability that are fixed, and their value; none past its end. MSI-X with 2,048 vectors, whose table and PBA lie in
BAR0 (R314); power state D0 only, with no PME; payload of 512 B, 10-bit tags, function-level reset, no TPH, atomics, LTR or prefixes, 2.5 to
64 GT/s, ×16 and no ASPM; AER. The pointers chain power management, PCI Express and MSI-X. -/
def capabilityFixed : Nat → Nat → Option (Nat × Nat)
  | 0, 0 => some (0x3FFFFFFF, 0x11 + 2047 * 2 ^ 16)
  | 0, 1 => some (2 ^ 32 - 1, 0x40000)
  | 0, 2 => some (2 ^ 32 - 1, 0x48000)
  | 1, 0 => some (0xFFFF + 127 * 2 ^ 25, 1 + 4 * capabilityAt 2 * 2 ^ 8)
  | 1, 1 => some (3 + 2 ^ 8 + 2 ^ 15, 0)
  | 2, 0 => some (0xFFFF + 15 * 2 ^ 20, 0x10 + 4 * capabilityAt 0 * 2 ^ 8)
  | 2, 1 => some (7 + 2 ^ 28, 2 + 2 ^ 28)
  | 2, 3 => some (0xFFF, 6 + 16 * 2 ^ 4)
  | 2, 4 => some (3, 0)
  | 2, 9 => some (2 ^ 22 - 2 ^ 5, 3 * 2 ^ 16)
  | 2, 11 => some (0x1FE, 0x7E)
  | 2, i => if i < 15 then some (0, 0) else none
  | 3, 0 => some (0xFFFFFFFF, 1 + 2 * 2 ^ 16)
  | 3, i => if i < 18 then some (0, 0) else none
  | _, _ => none

/-- The bits of a word of configuration space that R311 fixes, and their value, in the layout of the PCIe specification that R311 names: the
Type 0 header of one function with a 64 MiB BAR0/1 and a 64 GiB BAR2/3 and no more, no INTx; the capabilities of the features listed; and
nothing else, so that every further word reads 0. -/
def configFixed (w : Nat) : Nat × Nat :=
  if w = 1 then (3 * 2 ^ 19, 2 ^ 20)
  else if w = 3 then (0xFF * 2 ^ 16, 0)
  else if w = 4 then (2 ^ 26 - 1, 4)
  else if w = 6 then (2 ^ 32 - 1, 0xC)
  else if w = 7 then (15, 0)
  else if w = 13 then (2 ^ 32 - 1, 4 * capabilityAt 1)
  else if w = 8 || w = 9 || w = 10 || w = 12 || w = 14 then (2 ^ 32 - 1, 0)
  else if w = 15 then (0xFFFFFF * 2 ^ 8, 0)
  else if w < 16 then (0, 0)
  else ((List.range 4).findSome? fun k => if capabilityAt k ≤ w then capabilityFixed k (w - capabilityAt k) else none).getD (2 ^ 32 - 1, 0)

/-- Words that nothing writes: the header's that name the device, and the capability registers. -/
def configReadOnly (w : Nat) : Bool :=
  w = 0 || w = 2 || w = 11 || [(1, 0), (2, 0), (2, 1), (2, 3), (2, 9), (2, 11)].any fun x => w = capabilityAt x.1 + x.2

/-- A word of configuration space as it is read: its fixed bits, and for the MSI-X control word its two enables. -/
def configRead (p : Port) (w : Nat) (v : Word) : Word :=
  let f := configFixed w
  let v := (v &&& ~~~BitVec.ofNat 32 f.1) ||| BitVec.ofNat 32 f.2
  if w = capabilityAt 0 then
    (v &&& BitVec.ofNat 32 (2 ^ 30 - 1)) ||| BitVec.ofNat 32 (2 ^ 31 * b2n p.msixOn + 2 ^ 30 * b2n p.msixMasked)
  else v

/-- A write of a word of configuration space; MSI-X Enable and Function Mask act at once on what is pending (R311, R328). -/
def configWrite (s : State) (port w : Nat) (v : Word) : State :=
  let p := portOf s port
  let s := if configReadOnly w then s else setPort s port { p with config := put p.config w v }
  if w = capabilityAt 0 then
    sendPending (mapPort s port fun x => { x with msixOn := v.getLsbD 31, msixMasked := v.getLsbD 30 }) port
  else s

/-- CONFIG_REQUEST, R311, R430: a bit that R311 does not fix and nothing has written reads as Config.configWord gives it. -/
def execConfigRequest (port : Fin 8) (write : Bool) (offset : BitVec 12) (value : BitVec 32) (s : State) : Result :=
  let p := portOf s port.val
  let w := offset.toNat / 4
  let s' := if write then configWrite s port.val w value
    else emit s (.config port.val (configRead p w ((find p.config w).getD (Config.configWord w))))
  onlyIf (live s && p.perstReleased && !inDomainReset s 1 port.val) s s'

/-- Byte lanes that make whole 32-bit words. -/
def wholeWords (lanes : BitVec 64) : Bool :=
  (List.range 16).all fun i => let m := bits lanes.toNat (4 * i) 4; m = 0 || m = 15

/-- Device address of a BAR2 access's block, where the port's partition may reach it (R316). -/
def bar2Target (s : State) (port : Nat) (offset : BitVec 36) (lanes : BitVec 64) : Option (Nat × Nat) :=
  let a := (portOf s port).bar2Base.toNat + offset.toNat / 64 * 64
  match ownerOfPort s port with
  | none => none
  | some p =>
    if coldHeld s || !s.boot.valid then none
    else match spaceOf s a with
      | .vault g => if ownerOfGranule s g = some p then some (a, p) else none
      | .window P _ => if (pinnedAt s P).map (·.2.part) = some p && wholeWords lanes then some (a, p) else none
      | _ => none

def refuseBar2 (s : State) (port : Nat) : State :=
  mapPort s port fun x => { x.flag 2 (now s) with refused := satAdd x.refused 1 }

/-- Send a BAR2 request into the fabric as unscheduled traffic of the port's class (R317, R385); with the plinth's stack in reset
it is dropped at the edge (R444). -/
def bar2Send (s : State) (port tag a part : Nat) (kind : ReqKind) (lanes : BitVec 64) (d : BitVec 512) : State :=
  let route := routeTo s port a
  let r : Req := { origin := .bar2 port tag, part := part, lane := none, cls := port, reclaim := (svcNow s part).getLsbD 0
                   kind := kind, addr := a, mask := lanes, data := d, route := route.1, hops := hopCount port route.2
                   stage := .route (5 * now s) }
  let s := addReq s (if inDomainReset s 2 port then dropAtEdge r (5 * now s) else r)
  charge s part (144 + port) 8000

/-- BAR2_READ, R315 to R318. -/
def execBar2Read (port : Fin 8) (offset : BitVec 36) (lanes : BitVec 64) (tag : BitVec 10) (s : State) : Result :=
  let p := port.val
  let s' := match bar2Target s p offset lanes with
    | some (a, part) =>
      bar2Send (mapPort s p fun x => { x with bar2Rd := satAdd x.bar2Rd 1 }) p tag.toNat a part .load lanes 0
    | none => emit (refuseBar2 s p) (.bar2 p tag.toNat (BitVec.allOnes 512) false)
  onlyIf (live s && !inDomainReset s 1 p) s s'

/-- BAR2_WRITE, R315 to R318. A write's request carries tag 1024: it has no completion. -/
def execBar2Write (port : Fin 8) (offset : BitVec 36) (lanes : BitVec 64) (data : BitVec 512) (s : State) : Result :=
  let p := port.val
  let s' := match bar2Target s p offset lanes with
    | some (a, part) => bar2Send (mapPort s p fun x => { x with bar2Wr := satAdd x.bar2Wr 1 }) p 1024 a part .store lanes data
    | none => refuseBar2 s p
  onlyIf (live s && !inDomainReset s 1 p) s s'

/-- BAR2_READ_COMPLETION, R317: EP is set when the data is poisoned; a read that a closed edge has poisoned has no unit's report, and ends the
owner's job here (R21, R444). -/
def execBar2ReadCompletion (req : Nat) (s : State) : Result :=
  match find s.net req with
  | some r => match r.origin, r.stage with
    | .bar2 p tag, .answered c =>
      let s' := emit { s with net := drop s.net req } (.bar2 p tag r.resp r.poison)
      onlyIf (live s && tag < 1024 && c ≤ 5 * now s + 4) s
        (if r.poison && r.why.isNone then raiseFault s' r.part ⟨6, 2, p, 0, none⟩ else s')
    | _, _ => .next s
  | none => .next s

/-- HP_BAR2_BASE_WRITE, R9, R315, R351: the high half commits; every bit of the low half is 0. -/
def execHpBar2BaseWrite (_who : Requester) (port : Fin 8) (high : Bool) (value : BitVec 32) (s : State) : Result :=
  let p := portOf s port.val
  let base := BitVec.ofNat 64 (bits value.toNat 4 12 * 2 ^ 36)
  let s' := setPort s port.val { p with bar2Base := base }
  onlyIf (live s && high) s (if base = p.bar2Base then s else moveEpoch s')

/-! ### Doorbells (R320 to R323, R328, R329) -/

def setRing (s : State) (id : Nat) (r : Ring) : State := { s with rings := put s.rings id r }

/-- An ignored doorbell (R322). -/
def ignoreDoorbell (s : State) (port : Nat) : State :=
  mapPort s port fun x => { x.flag 1 (now s) with dbDropped := satAdd x.dbDropped 1 }

/-- A submission ring's new tail: what lies past it is discarded, and the ring joins or leaves the port's fetch queue (R322, R323). -/
def ringTail (s : State) (port id : Nat) (r : Ring) (t : BitVec 16) : State :=
  let r := { r with tail := t }
  let s := mapPort (setRing s id r) port fun x =>
    let x := { x with fetch := x.fetch.map fun f => if f.ring = id then { f with keep := min f.keep (ringHeld r) } else f }
    if unfetched x id r = 0 then { x with fetchQueue := x.fetchQueue.filter (· ≠ id) } else x
  queueRing s id (now s)

/-- A completion or event ring's new head, and its ARM (R328). -/
def ringHeadTo (s : State) (port id : Nat) (r : Ring) (h : BitVec 16) (arm : Bool) : State :=
  if arm && r.tail ≠ h then sendVector (setRing s id { r with head := h, armed := false }) port r.vector.toNat
  else setRing s id { r with head := h, armed := r.armed || arm }

/-- A doorbell write (R321, R322). -/
def doorbell (port : Fin 8) (ring : Fin 32768) (be : BitVec 4) (value : BitVec 32) (s : State) : State :=
  let id := 32768 * port.val + ring.val
  let idx := value.setWidth 16
  let arm := value.getLsbD 16
  if be ≠ 15 || bits value.toNat 17 15 ≠ 0 || (ownerOfPort s port.val).isNone then ignoreDoorbell s port.val
  else match find s.rings id with
    | none => ignoreDoorbell s port.val
    | some r =>
      if r.type_ = 0 then
        if arm || ringEntries r < (idx - r.head).toNat then ignoreDoorbell s port.val else ringTail s port.val id r idx
      else if (r.tail - r.head).toNat < (idx - r.head).toNat then ignoreDoorbell s port.val
      else ringHeadTo s port.val id r idx arm

/-- SQ_DOORBELL, R320 to R323. -/
def execSqDoorbell (port : Fin 8) (ring : Fin 32768) (be : BitVec 4) (value : BitVec 32) (s : State) : Result :=
  onlyIf (live s && !inDomainReset s 1 port.val) s (doorbell port ring be value s)

/-- CQ_DOORBELL, R320 to R322. -/
def execCqDoorbell (port : Fin 8) (ring : Fin 32768) (be : BitVec 4) (value : BitVec 32) (s : State) : Result :=
  onlyIf (live s && !inDomainReset s 1 port.val) s (doorbell port ring be value s)

/-- RING_ARM, R328. -/
def execRingArm (port : Fin 8) (ring : Fin 32768) (be : BitVec 4) (value : BitVec 32) (s : State) : Result :=
  onlyIf (live s && !inDomainReset s 1 port.val) s (doorbell port ring be (value ||| 0x10000#32) s)

/-- HELD_ENTRY_WRITE, R329. -/
def execHeldEntryWrite (ring : Fin 262144) (s : State) : Result :=
  match find s.rings ring.val with
  | some r => match r.held with
    | e :: rest => onlyIf (live s && entryFree s ring.val r) s
        (presentEntry (setRing s ring.val { r with held := rest }) ring.val r e (5 * now s))
    | [] => .next s
  | none => .next s

/-! ### Fetches (R323, R338, R447) -/

/-- Descriptors of the next fetch of a ring: up to 16, in one read of the ring's memory. -/
def fetchCount (r : Ring) : Nat := min 16 (min (ringHeld r) (ringEntries r - r.head.toNat % ringEntries r))

/-- A request of the port's class waits at its DMA engine since before the fetch (R37, R323). -/
def beforeFetch (s : State) (p pc : Nat) : Bool :=
  (waitingAt s 5 p pc).any fun q => (laneNow s q.2 pc).isNone && q.2.cls = p && arrivedAt q.2 < (portOf s p).nextFetch

/-- FETCH_READ_ISSUE, R323: in a class slot of the port's DMA engine, in its turn among the requests of the class (R37). -/
def execFetchReadIssue (port : Fin 8) (j : Fin 5) (s : State) : Result :=
  let p := port.val
  let pc := pclk s j.val
  let x := portOf s p
  match nextRing s p with
  | none => .next s
  | some id =>
    match find s.rings id with
    | none => .next s
    | some r =>
      let n := fetchCount r
      let rest := x.fetchQueue.filter (· ≠ id)
      let x' := { x with fetch := some ⟨id, r.head, n, n, pc⟩, fetchQueue := if n < ringHeld r then rest ++ [id] else rest,
                         slotWait := satAdd x.slotWait (pc - x.nextFetch) }
      let s' := emit (useSlot (setPort s p x') 5 p pc) (.hostRead p (r.base.toNat + 64 * (r.head.toNat % ringEntries r)) (64 * n))
      onlyIf (live s && !inDomainReset s 1 p && x.fetch.isNone && x.nextFetch ≤ pc && 16 ≤ pc % 20 && classOfSlot pc = p
        && look s.slotUse (5 * 65536 + p) (pc + 1) ≠ pc && n ≠ 0 && !beforeFetch s p pc && hostReadsOut s p < 256) s s'

/-- FETCH_DATA_RETURN, R323: the descriptors that no doorbell has discarded are due for delivery at the next beat boundary. Data that
comes while the partition is held is dropped, and its descriptors stay in the ring. -/
def execFetchDataReturn (port : Fin 8) (j : Fin 5) (data : List (BitVec 512)) (s : State) : Result :=
  let p := port.val
  let pc := pclk s j.val
  let x := portOf s p
  match x.fetch with
  | none => .next s
  | some f =>
    let x' := { x with fetch := none, nextFetch := pc + 1 }
    let requeue := { x' with fetchQueue := if f.ring ∈ x.fetchQueue then x.fetchQueue else f.ring :: x.fetchQueue }
    let s' := match find s.rings f.ring with
      | none => setPort s p x'
      | some r =>
        if r.head ≠ f.first || !mayFetch s r.part then setPort s p (if ringHeld r = 0 then x' else requeue)
        else setRing (setPort s p x') f.ring
          { r with head := r.head + BitVec.ofNat 16 f.keep, fetched := r.fetched ++ (data.take f.keep).map fun d => (d, now s + 1) }
    if 16 < data.length then .refused .illFormed
    else onlyIf (live s && f.issue + 8 ≤ pc && data.length = f.count) s s'

/-- FETCH_TIMEOUT, R447: cause 6. -/
def execFetchTimeout (port : Fin 8) (s : State) : Result :=
  match (portOf s port.val).fetch with
  | some f => onlyIf (live s && f.issue / 5 + 25000000 ≤ now s) s (resetFor s .hostPort port.val 6)
  | none => .next s

/-! ### Descriptors (R324 to R326, R350) -/

def sdWord (d : BitVec 512) (i : Nat) : Nat := bits d.toNat (32 * i) 32
def sdKind (d : BitVec 512) : Nat := sdWord d 0 % 256
def sdTag (d : BitVec 512) : BitVec 16 := BitVec.ofNat 16 (sdWord d 0 / 65536)

/-- The partition whose RUN and STOP wait: that of the curator's present command, or of one whose exact end is still within this beat
(R344, R350). -/
def commandPart (s : State) : Option Nat :=
  match s.curator.running with
  | some r => namedPart s r
  | none => if now s < s.curator.freeAt then s.curator.lastPart else none

/-- Every reserved field of a descriptor is 0 (R324). -/
def sdReservedOk (d : BitVec 512) : Bool :=
  let w := sdWord d
  let tail (i : Nat) : Bool := d.toNat / 2 ^ (32 * i) = 0
  match sdKind d with
  | 0 => bits (w 0) 9 7 = 0 && tail 1
  | 1 => bits (w 0) 9 7 = 0 && w 1 < 16 && w 3 < 2 ^ 18 && tail 4
  | 2 => bits (w 0) 9 7 = 0 && w 1 < 256 && w 2 < 65536 && tail 3
  | 3 => bits (w 0) 9 7 = 0 && tail 1
  | 4 => bits (w 0) 9 7 = 0 && w 1 < 64 && w 2 = 0 && w 3 = 0
  | _ => false

/-- Check 3 of R325. -/
def sdArgsOk (s : State) (p : Nat) (d : BitVec 512) : Bool :=
  match sdKind d with
  | 1 => match find (partOf s p).bound (sdWord d 1) with
    | some t => (sdWord d 2 < t.steps.length || sdWord d 2 = 0xFFFFFFFF) && (match find s.rings (sdWord d 3) with
        | some r => r.type_ = 1 && r.part = p
        | none => false)
    | none => false
  | 2 => 1 ≤ sdWord d 2
  | 4 => bits (sdWord d 1) 3 3 < 6
  | _ => true

/-- Check 4 of R325 (R50). -/
def sdStateOk (s : State) (p : Nat) (d : BitVec 512) : Bool :=
  match sdKind d, (partOf s p).runState with
  | 1, .bound => true
  | 1, _ => false
  | 3, .gated => true
  | 3, .budget => true
  | 3, .committed => true
  | 3, .stepping => true
  | 3, _ => false
  | _, _ => true

/-- Status of a descriptor at delivery: DEACCESSIONED in that state (R450), WRONG_STATE while TRIPPED is set (R404). -/
def sdStatus (s : State) (p : Nat) (d : BitVec 512) : Nat :=
  if s.boot.deaccessioned then 8
  else if s.boot.tripped then 1
  else if !sdReservedOk d then 2
  else if sdKind d = 1 && (partOf s p).lost.getLsbD (sdWord d 1) then 4
  else if !sdArgsOk s p d then 2
  else if !sdStateOk s p d then 1
  else 0

/-- Queue an acceptance or failure completion for the next beat (R326). -/
def accept (s : State) (id : Nat) (r : Ring) (d : BitVec 512) (status : Nat) (sqHead : BitVec 16) : State :=
  let e := completionBlock s r.part (sdKind d) status (sdTag d) id sqHead.toNat 0 [0, 0, 0, 0, 0] 0 (now s)
  setRing s id { r with accept := r.accept ++ [(e, now s + 1)] }

/-- A descriptor command: the descriptor at the front of the ring's fetched ones is delivered, if it is the command's. -/
def deliver (ring : Fin 262144) (mine : Nat → Bool) (act : State → Nat → Ring → BitVec 512 → BitVec 16 → State) (s : State) : Result :=
  let id := ring.val
  match find s.rings id with
  | none => .next s
  | some r =>
    match r.fetched with
    | [] => .next s
    | (d, b) :: rest =>
      let held := (sdKind d = 1 || sdKind d = 3) && commandPart s = some r.part
      let r' := { r with fetched := rest }
      let sqHead := r.head - BitVec.ofNat 16 rest.length
      let status := sdStatus s r.part d
      onlyIf (live s && mine (sdKind d) && b ≤ now s && !held) s
        (if status ≠ 0 then accept s id r' d status sqHead else act (setRing s id r') id r' d sqHead)

/-- An accepted descriptor whose ACK, or whose kind, asks for an acceptance. -/
def acknowledge (s : State) (id : Nat) (d : BitVec 512) (sqHead : BitVec 16) (always : Bool) : State :=
  match find s.rings id with
  | some r => if always || d.getLsbD 8 then accept s id r d 0 sqHead else s
  | none => s

/-- SUBMISSION_NOP, R324: also the delivery of a descriptor of no defined kind. -/
def execSubmissionNop (ring : Fin 262144) (s : State) : Result :=
  deliver ring (fun k => k = 0 || 4 < k) (fun s id _ d h => acknowledge s id d h false) s

/-- RUN, R47, R49, R52, R325; the SEQ counters are cleared. -/
def execRun (ring : Fin 262144) (s : State) : Result :=
  deliver ring (· = 1) (fun s id r d h =>
    let p := r.part
    let x := partOf s p
    let hd := sdWord d 1
    let first := if sdWord d 2 = 0xFFFFFFFF then ((find x.bound hd).map (·.entryStep)).getD 0 else sdWord d 2
    let e := roundUp (now s + 1) 4
    let lead := (((find x.bound hd).bind (·.steps[first]?)).map (·.lead)).getD 500
    let c : RunCtx := { handle := hd, cq := sdWord d 3, sq := id, tag := sdTag d, sqHead := h,
                        eval := some { index := first, planned := e + lead, at_ := e } }
    let s := setPart s p { x with gates := [], changedAt := none, run := some c, runState := .gated, handle := hd,
                                  steps := 0, budgetWait := 0, slip := 0, overrun := 0, tierCount := [] }
    acknowledge s id d h true) s

/-- GATE, R47. -/
def execGate (ring : Fin 262144) (s : State) : Result :=
  deliver ring (· = 2) (fun s id r d h =>
    let x := partOf s r.part
    let g := sdWord d 1
    let n := look x.gates g 0 + sdWord d 2
    let x := if 0xFFFFFFFF < n then x.flag 3 (now s) else x
    let s := setPart s r.part { latchInputs x (now s) with gates := put x.gates g (min n 0xFFFFFFFF) }
    acknowledge s id d h false) s

/-- STOP, R49, R51: with no step committed the run ends at once. -/
def execStop (ring : Fin 262144) (s : State) : Result :=
  deliver ring (· = 3) (fun s id r d h =>
    let p := r.part
    let s := acknowledge s id d h true
    let x := partOf s p
    match x.run with
    | none => s
    | some c =>
      if c.exec.isNone && c.next.isNone then runCompletion (endRun s p) p c 0
      else setPart s p { x with run := some { c with eval := none }, runState := .stopping }) s

/-- ENGINE, R279, R325: to the unscheduled context of the ring's port, or held outside a stack in reset. -/
def execEngine (ring : Fin 262144) (s : State) : Result :=
  deliver ring (· = 4) (fun s id r d h =>
    let e := 6 * (sdWord d 1 % 8) + bits (sdWord d 1) 3 3
    let job : EngJob := { desc := BitVec.ofNat 384 (d.toNat / 2 ^ 128), part := r.part, ring := some (id, sdTag d, h)
                          from_ := 5 * now s, held := inDomainReset s 2 (e / 6) }
    setEng s e { engOf s e with queue := (engOf s e).queue ++ [(portOfRing id, job)] }) s

/-- The entry with the run state, job and status at posting (R327). -/
def restamp (s : State) (p : Nat) (e : BitVec 512) : BitVec 512 :=
  let w (i : Nat) : Nat := bits e.toNat (32 * i) 32
  let x := partOf s p
  BitVec.ofNat 512 (packWords ([w 0, w 1 % 2 ^ 18 + 2 ^ 18 * x.runState.code, w 2 % 65536 + 65536 * x.job.toNat]
    ++ (List.range 9).map fun i => w (3 + i)))

/-- ACCEPTANCE_COMPLETION_POST, R326. -/
def execAcceptanceCompletionPost (ring : Fin 262144) (s : State) : Result :=
  match find s.rings ring.val with
  | some r => match r.accept with
    | (e, b) :: rest =>
      onlyIf (live s && b ≤ now s) s (postEntry (setRing s ring.val { r with accept := rest }) r.cq (restamp s r.part e))
    | [] => .next s
  | none => .next s

/-- RGS_JOB_HELD_CLEAR, R338: fetching resumes at the next beat. -/
def execRgsJobHeldClear (part : Fin 8) (s : State) : Result :=
  let x := partOf s part.val
  onlyIf (regsOpen s && owned x && x.held) s (clearHeld s part.val)

end Sys2Proof.Machine
end

