-- ==== Sys2Proof/Machine/Thermal.lean ====
section
/-! DEFINITION. Current reports, the input guard and the thermal model: sensors, effective temperatures, allowed power, throttle
episodes, trip and temperature cycles (R372 to R374, R381, R386, R388 to R406, R445). Temperatures are in units of 0.125 °C. -/

namespace Sys2Proof.Machine

/-! ### Regions and rails (R388, R389) -/

/-- Throttle limit of a region. -/
def throttleAt (r : Nat) : Int := if 512 ≤ r then 680 else if r % 64 / 16 = 1 ∨ r % 64 / 16 = 2 then 720 else 760

/-- Trip limit of a region. -/
def tripAt (r : Nat) : Int := if 512 ≤ r then 840 else if r % 64 / 16 = 1 ∨ r % 64 / 16 = 2 then 840 else 880

/-- The regions a rail covers. -/
def coveredBy (rail : Nat) : List Nat :=
  if rail < 128 then [0, 16, 32].map (64 * (rail / 16) + rail % 16 + ·)
  else if rail < 144 then (List.range 16).map (64 * ((rail - 128) / 2) + 16 + 16 * (rail % 2) + ·)
  else if rail < 152 then (List.range 16).map (64 * (rail - 144) + 48 + ·)
  else if rail < 200 then [512 + (rail - 152) % 16]
  else if rail < 208 then (List.range 16).map (64 * (rail - 200) + 48 + ·)
  else []

/-- The rails that cover a region. -/
def railsOver (r : Nat) : List Nat :=
  if 512 ≤ r then [152 + (r - 512), 168 + (r - 512), 184 + (r - 512)]
  else
    let s := r / 64
    match r % 64 / 16 with
    | 0 => [16 * s + r % 16]
    | 1 => [16 * s + r % 16, 128 + 2 * s]
    | 2 => [16 * s + r % 16, 129 + 2 * s]
    | _ => [144 + s, 200 + s]

/-- A partition is affected by a region. -/
def affectedBy (p : Part) (r : Nat) : Bool := owned p && (railsOver r).any fun rail => (weight p rail).1 ≠ 0

def setRegion (s : State) (r : Nat) (x : Region) : State := { s with thermal := { s.thermal with regions := put s.thermal.regions r x } }

/-! ### Current reports and the guard (R374, R386) -/

/-- A report meets a guard condition: above 9,600 W, or a mean of the last 1,000 reports above 8,000 W. Powers are in units of
100 µW. -/
def guardMet (history : List Nat) : Bool :=
  match history with
  | [] => false
  | p :: _ => 96000000 < p || 80000000 * history.length < history.foldl (· + ·) 0

/-- CURRENT_REPORT, R374, R386: 2,500 beats after the report closes. -/
def execCurrentReport (volts amps : BitVec 16) (rails : List (BitVec 16)) (s : State) : Result :=
  if rails.length ≠ 210 then .refused .illFormed
  else
    let w := s.power
    let n := w.reports + 1
    let history := (volts.toNat * amps.toNat :: w.history).take 1000
    let met := guardMet history
    let stays := w.guard && n < w.guardAt + 100
    let w := { w with
      volts := volts, amps := amps, curSeq := w.curSeq + 1
      currents := rails.zipIdx.map fun x => (x.2, x.1)
      history := history, reports := n
      guardAt := if met then n else w.guardAt
      guard := met || stays
      guardHit := w.guardHit || (met && !w.guard)
      setAt := if met && !w.guard then put w.setAt 2 (now s) else w.setAt
      forModel := !inDomainReset s 4 0
      reportAt := some (now s) }
    onlyIf (live s && 252500 ≤ now s && now s % 250000 = 2500 && s.power.reportAt ≠ some (now s)) s { s with power := w }

/-- ALLOWED_POWER_EFFECT, R381: at a multiple of 250,000 beats, new allowed powers, limit and guard are in force. -/
def execAllowedPowerEffect (s : State) : Result :=
  let w := s.power
  onlyIf (live s && now s % 250000 = 0) s
    { s with power := { w with allow := w.allowNext, limitOn := limitAtStart w (now s), guardOn := w.guard } }

/-! ### Sensors (R393 to R395) -/

/-- A reading lies outside −40 °C to 150 °C. -/
def outOfRange (t : Int) : Bool := t < -320 || 1200 < t

/-- SENSOR_SELF_CHECK, R393: at bring-up and then every 60 s. A failure marks its sensor broken at the next result beat. -/
def execSensorSelfCheck (failed : List Nat) (s : State) : Result :=
  if failed.any (528 ≤ ·) then .refused .illFormed
  else
    let s' := failed.foldl (fun s r => setRegion s r { regionOf s r with selfFail := true }) s
    let due : Bool := match s.thermal.lastSelfCheck with
      | none => !s.boot.valid
      | some b => b + 15000000000 = now s
    onlyIf (live s && due) s { s' with thermal := { s'.thermal with lastSelfCheck := some (now s) } }

/-- The counts behind the marks after a run with reading t and model temperature m. -/
def countRun (first : Bool) (x : Region) (t m : Int) : Region :=
  let same := !first && toSigned 12 x.sensor.toNat = t
  { x with
    still := if same then x.still + 1 else 0
    stillTemps := if same then (m :: x.stillTemps).take 1001 else [m]
    lowRuns := if t < m - 96 then x.lowRuns + 1 else 0
    highRuns := if m + 96 ≤ t then x.highRuns + 1 else 0 }

/-- The largest less the smallest of a list of temperatures. -/
def spread (l : List Int) : Int :=
  match l with
  | [] => 0
  | m :: rest => rest.foldl max m - rest.foldl min m

/-- The sensor becomes broken at this result beat. -/
def breaks (x : Region) (t : Int) : Bool := outOfRange t || (1000 ≤ x.still && 16 ≤ spread x.stillTemps) || x.selfFail

/-- The curator logs a mark and sets THM_STATUS.SENSOR and CUR_ALERT.SENSOR (R394, R461). -/
def logMark (s : State) (r synd : Nat) : State :=
  let s := curatorLog s 0xB 6 synd r
  { s with thermal := { s.thermal with sensorFlag := true, setAt := put s.thermal.setAt 1 (now s) }, boot := s.boot.alert 4 (now s) }

/-- One region's part of a run (R393 to R396): its new state. -/
def runRegion (s : State) (first : Bool) (r : Nat) (sensor : BitVec 12) (model : Int) : State :=
  let t := toSigned 12 sensor.toNat
  let old := regionOf s r
  let x := countRun first old t model
  let broken := x.broken || breaks x t
  let suspect := x.suspect || 1000 ≤ x.lowRuns
  let low := x.modelLow || 1000 ≤ x.highRuns
  let read := if broken || suspect then throttleAt r else t
  let s := setRegion s r { x with model := model, sensor := sensor, broken := broken, suspect := suspect, modelLow := low,
                                  eff := max model read }
  let s := if broken && !old.broken then logMark s r 0 else s
  let s := if suspect && !old.suspect then logMark s r 1 else s
  if 1000 ≤ x.highRuns then { s with thermal := { s.thermal with modelLowFlag := true, setAt := put s.thermal.setAt 2 (now s) } } else s

/-! ### The network (R390, R391) -/

/-- Set voltage of a rail in mV (R368, R377). -/
def railMv (s : State) (r : Nat) : Nat :=
  if r < 128 then match voltK s (wingOf s r) with | 5 => 700 | 6 => 750 | 7 => 820 | _ => 650
  else if r < 144 then 700 else if r < 168 then 750 else if r < 184 then 1050 else if r < 200 then 400
  else if r < 208 then 900 else if r = 208 then 750 else 1800

/-- Mean power of a rail in µW, from the last report. -/
def railPower (s : State) (r : Nat) : Nat := 10 * (look s.power.currents r 0).toNat * railMv s r

/-- The nodes above and below a gallery, archive or plinth node in its footprint. -/
def linkedVertically (r : Nat) : List Nat :=
  if 512 ≤ r then []
  else (if r % 64 < 16 then [] else [r - 16]) ++ (if r % 64 < 48 then [r + 16] else [])

/-- The nodes of the same layer at the neighbouring footprints. -/
def linkedLaterally (r : Nat) : List Nat :=
  if 512 ≤ r then [] else ((Config.besideFootprint (r % 16)).filter (· < 16)).map (r / 16 * 16 + ·)

/-- The bytes of the firmware image that runs, whose coefficients the network has (R391). -/
def imageRunning (s : State) : List Byte :=
  let x := slotOf s (s.boot.slotRun = 2)
  x.image (x.len.getD 0)

/-- A node's temperature after a run: from its own, those it is linked to, the powers of the rails that cover it, and the boundary
(R390). -/
def nodeNext (s : State) (r : Nat) (boundary : Int) : Int :=
  let node (x : Nat) : Int := (regionOf s x).model
  let powers := (railsOver r).map (railPower s)
  Config.thermalNode (imageRunning s) s.flash.calibrationOk r (node r)
    ((linkedVertically r ++ linkedLaterally r).map fun x => (x, node x)) powers boundary

/-- The model temperature of every region after this run. -/
def modelTemps (s : State) (sensors : List (BitVec 12)) (boundary : Int) : List Int :=
  let read (r : Nat) : Int := toSigned 12 ((sensors[r]?).getD 0).toNat
  if s.thermal.runs = 0 then
    (List.range 528).map fun r => if (regionOf s r).selfFail || outOfRange (read r) then boundary else read r
  else
    (List.range 528).map fun r => max (-2048) (min 2047 (nodeNext s r boundary))

/-! ### Allowed power (R399) -/

/-- a_r in mW for a margin in units of 0.125 °C. -/
def allowedFor (rail : Nat) (d : Int) : Nat :=
  let q := ratedMw rail
  let i := idleMw rail
  if 80 ≤ d then q
  else if d ≤ 0 then i + (q - i) / 4
  else i + (q - i) * (80 + 3 * d.toNat) / 320

/-- The smallest margin over the regions a rail covers. -/
def marginOf (s : State) (rail : Nat) : Int :=
  (coveredBy rail).foldl (fun d r => min d (throttleAt r - (regionOf s r).eff)) 4096

/-- Every rail's allowed power; a rail that covers no region has its rated power. -/
def setAllowed (s : State) : State :=
  { s with power := { s.power with allowNext := (List.range 210).map fun rail => (rail, allowedFor rail (marginOf s rail)) } }

/-! ### Episodes and caps (R400, R401) -/

/-- A SLOW_DOWN event to a partition. -/
def slowDown (s : State) (p r : Nat) : State :=
  let x := regionOf s r
  postEvent s p 2 [r, (BitVec.ofInt 32 x.eff).toNat, x.graceMs, 1]

/-- One region's episode at a result beat. -/
def episodeStep (x : Region) (r grace b : Nat) : Region :=
  let x := { x with sinceChange := x.sinceChange + 1 }
  match x.episode with
  | .normal =>
    if throttleAt r ≤ x.eff then { x with episode := .grace, graceAt := b, graceMs := grace } else x
  | .grace =>
    if x.eff < throttleAt r - 24 then { x with episode := .normal }
    else if x.graceAt + 250000 * x.graceMs ≤ b then { x with episode := .enforcing, cap := 1, sinceChange := 0 }
    else x
  | .enforcing =>
    if throttleAt r ≤ x.eff ∧ 5 ≤ x.sinceChange ∧ x.cap < 3 then { x with cap := x.cap + 1, sinceChange := 0 }
    else if x.eff < throttleAt r - 24 ∧ 10 ≤ x.sinceChange then
      { x with cap := x.cap - 1, sinceChange := 0, episode := if x.cap ≤ 1 then .normal else .enforcing }
    else x

def runEpisode (s : State) (r : Nat) : State :=
  let old := regionOf s r
  let x := episodeStep old r s.thermal.grace.toNat (now s)
  let s := setRegion s r x
  if x.episode = .grace ∧ old.episode = .normal then
    (List.range 8).foldl (fun s p => if affectedBy (partOf s p) r then slowDown s p r else s) s
  else s

/-- The thermal cap of a partition. -/
def capOf (s : State) (p : Nat) : Nat :=
  s.thermal.regions.foldl (fun c x => if x.2.episode = .enforcing ∧ affectedBy (partOf s p) x.1 then max c x.2.cap else c) 0

/-- The curator writes SEQ_TIER_CAP.THERMAL, and a change posts TIER_CAP. -/
def writeCap (s : State) (p : Nat) : State :=
  let c := capOf s p
  let old := (partOf s p).capThermal.toNat
  let s := mapPart s p fun x => { latchInputs x (now s) with capThermal := BitVec.ofNat 2 c }
  if c ≠ old then postEvent s p 3 [c] else s

/-- A partition that is created or renewed takes the cap at once (R401). -/
def takeCap (s : State) (p : Nat) : State :=
  let s := s.thermal.regions.foldl (fun s x =>
    if x.2.episode = .grace ∧ affectedBy (partOf s p) x.1 then slowDown s p x.1 else s) s
  let c := capOf s p
  let s := mapPart s p fun x => { latchInputs x (now s) with capThermal := BitVec.ofNat 2 c }
  if c ≠ 0 then postEvent s p 3 [c] else s

/-! ### The vaults (R255, R402) -/

/-- The refresh multiplier for a temperature, from the present one. -/
def multFor (m : Nat) (e : Int) : Nat :=
  let up := if 760 ≤ e then 4 else if 680 ≤ e then 2 else 1
  let down := if m = 4 ∧ e ≤ 736 then 2 else m
  let down := if down = 2 ∧ e ≤ 656 then 1 else down
  max up down

/-- Pace level and refresh multiplier decided for a vault. -/
def paceVault (s : State) (v : Nat) : State :=
  let x := regionOf s (512 + v)
  let t := vaultOf s v
  let level := BitVec.ofNat 2 (if x.episode = .enforcing then x.cap else 0)
  let m := multFor (t.multNext.getD t.mult) x.eff
  setVault s v { t with paceNext := if level = t.pace then none else some level
                        multNext := if m = t.mult then none else some m }

/-! ### Trip and cycles (R403, R406) -/

/-- The trip at its beat (R403, R465). -/
def tripModule (s : State) (r : Nat) : State :=
  if s.boot.tripped then s
  else
    let s := { s with boot := { s.boot with tripped := true, tripRegion := BitVec.ofNat 10 r, tripOffAt := some (now s + 2500) } }
    let s := (List.range 8).foldl (fun s p => raiseFault s p ⟨8, 2, 0, r, none⟩) s
    raiseIbi (postEventAll s 9 3 [r]) 0x03

/-- A stack's cycle counter after a result beat with temperature t. -/
def cycleStep (c : CycleCounter) (t : Int) (b : Nat) : CycleCounter :=
  if !c.started then { c with started := true, rising := false, lo := t }
  else if c.rising then
    let hi := max c.hi t
    if t ≤ hi - 200 then { c with rising := false, hi := hi, lo := t, count := c.count + 1, unwritten := some (c.unwritten.getD b) }
    else { c with hi := hi }
  else
    let lo := min c.lo t
    if lo + 200 ≤ t then { c with rising := true, lo := lo, hi := t } else { c with lo := lo }

def runCycles (s : State) (st : Nat) : State :=
  let t := (List.range 64).foldl (fun m r => max m (regionOf s (64 * st + r)).eff) (-2048)
  let c := cycleStep (look s.thermal.cycles st {}) t (now s)
  { s with thermal := { s.thermal with cycles := put s.thermal.cycles st c,
                                       cyclesRated := s.thermal.cyclesRated || 60000 ≤ c.count } }

/-- CYCLE_COUNT_FLASH_WRITE, R406: within 1 s of the increment. -/
def execCycleCountFlashWrite (stack : Fin 8) (s : State) : Result :=
  let c := look s.thermal.cycles stack.val {}
  match c.unwritten with
  | some b =>
    onlyIf (live s && now s < b + 250000000) s
      { s with
        flash := { s.flash with cycles := put s.flash.cycles stack.val c.count }
        thermal := { s.thermal with cycles := put s.thermal.cycles stack.val { c with unwritten := none } } }
  | none => .next s

/-- The run's part for every region (R393 to R396). -/
def runRegions (s : State) (first : Bool) (x : List ((Int × BitVec 12) × Nat)) : State :=
  x.foldl (fun s x => runRegion s first x.2 x.1.2 x.1.1) s

def runEpisodes (s : State) : State := (List.range 528).foldl runEpisode s

/-- The caps of every partition that exists. -/
def writeCaps (s : State) : State := (List.range 8).foldl (fun s p => if owned (partOf s p) then writeCap s p else s) s

def paceVaults (s : State) : State := (List.range 16).foldl paceVault s

def runAllCycles (s : State) : State := (List.range 8).foldl runCycles s

/-- The lowest region at its trip limit trips the module (R403). -/
def tripOver (s : State) : State :=
  match (List.range 528).find? fun r => tripAt r ≤ (regionOf s r).eff with
  | some r => tripModule s r
  | none => s

/-- What a run records beside the regions. -/
def noteRun (s : State) (coolant : BitVec 12) (coolantBroken : Bool) : State :=
  { s with
    thermal := { s.thermal with runs := s.thermal.runs + 1, coolant := coolant, coolantBroken := coolantBroken,
                                calDefault := !s.flash.calibrationOk }
    power := { s.power with forModel := false } }

/-- MODEL_RUN, R390 to R403, R406: 12,500 beats after the report closes. -/
def execModelRun (sensors : List (BitVec 12)) (coolant : BitVec 12) (coolantBroken : Bool) (s : State) : Result :=
  if sensors.length ≠ 528 then .refused .illFormed
  else
    let boundary : Int := if coolantBroken then 400 else toSigned 12 coolant.toNat
    let t := runRegions s (decide (s.thermal.runs = 0)) ((modelTemps s sensors boundary).zip sensors).zipIdx
    let t := setAllowed (noteRun t coolant coolantBroken)
    onlyIf (live s && s.power.forModel && !inDomainReset s 4 0 && now s % 250000 = 12500) s
      (runAllCycles (tripOver (paceVaults (writeCaps (runEpisodes t)))))

/-- ALWAYS_ON_TRIP_CHECK, R445: every 250,000 beats while the curator is in reset. -/
def execAlwaysOnTripCheck (sensors : List (BitVec 12)) (s : State) : Result :=
  if sensors.length ≠ 528 then .refused .illFormed
  else
    let hot (r : Nat) : Bool := !(regionOf s r).broken && tripAt r ≤ toSigned 12 ((sensors[r]?).getD 0).toNat
    let s' := match (List.range 528).find? hot with
      | some r => tripModule s r
      | none => s
    onlyIf (live s && inDomainReset s 4 0 && now s % 250000 = 0) s s'

end Sys2Proof.Machine
end

