-- ==== Sys2Proof/Machine/Partitions.lean ====
section
/-! DEFINITION. Logical floor plans and the lifecycle of partitions (R46, R68, R69, R209, R210, R337, R355 to R357, R387, R401). -/

namespace Sys2Proof.Machine

/-! ### Floor plans (R69, R434) -/

/-- Core sites of a wing that the fuses or the retirement table mark bad, as 100 × cabinet site + core site. -/
def badSites (s : State) (wing : Nat) : List Nat :=
  ((allMarks s).filter fun r => recKind r = 2 && bits (recWord r 0) 4 3 = wing / 16
    && bits (recWord r 1) 0 4 = wing % 16).map fun r => 100 * bits (recWord r 1) 4 4 + bits (recWord r 1) 8 7

/-- Good core sites of each good cabinet site, in ascending order. -/
def goodCabs (s : State) (wing : Nat) : List (Nat × List Nat) :=
  let bad := badSites s wing
  (List.range 10).filterMap fun cab =>
    let good := (List.range 100).filter fun k => 100 * cab + k ∉ bad
    if good.length < 96 || (wingOf s wing).linkBad.getLsbD cab then none else some (cab, good.take 96)

/-- Rows of a wing that a record retires, as keys of the row map. -/
def badRows (s : State) (wing : Nat) : List Nat :=
  ((allMarks s).filter fun r => recKind r = 1 && bits (recWord r 0) 4 3 = wing / 16
    && bits (recWord r 1) 0 4 = wing % 16).map fun r =>
      let w := recWord r 1
      let site := (wing * 10 + bits w 4 4) * 100 + bits w 8 7
      ((site * 2 + bits w 15 1) * 7 + bits w 16 3) * 2064 + bits w 19 11

/-- A codeword's bytes leave the list of written ones: it holds the marker. -/
def unwrite (m : List Host.Cell) (lo hi : Nat) : List Host.Cell := m.filter fun c => c.1 < lo || hi ≤ c.1

/-- A retired row still has no spare row that works (R209). -/
def needsSpare (s : State) (key : Nat) : Bool :=
  match find s.rowMap key with
  | some spare => decide (spare ∈ s.flash.failedSpares)
  | none => true

/-- The lowest spare row of the bank that is unused and has not failed. -/
def freeSpare (s : State) (key : Nat) : Option Nat :=
  ((List.range 16).map (key / 2064 * 2064 + 2048 + ·)).find? fun k =>
    k ∉ s.flash.failedSpares && !s.rowMap.any fun x => x.2 = k

/-- Steer a row onto a spare of its bank (R209); the spare holds the marker (R426). -/
def steerRow (s : State) (key : Nat) : State :=
  match needsSpare s key, freeSpare s key with
  | true, some spare => { s with rowMap := put s.rowMap key spare, shelf := unwrite s.shelf (18 * spare) (18 * (spare + 1)) }
  | _, _ => s

/-- Physical core site that a row key lies in. -/
def siteOfRow (key : Nat) : Nat := key / 2064 / 14

/-- Storage newly placed under a logical core starts unwritten (R210). -/
def clearSite (s : State) (site : Nat) : State :=
  { s with shelf := unwrite s.shelf (18 * 2064 * 14 * site) (18 * 2064 * 14 * (site + 1))
           clm := unwrite s.clm (2 * 32768 * site) (2 * 32768 * (site + 1)) }

/-- Mark the wing's recorded sites retired, as CAB_RETIRED shows them. -/
def markSites (s : State) (wing : Nat) : State :=
  (badSites s wing).foldl (fun s k => setChannel s (1000 * wing + k) { chanOf s (1000 * wing + k) with retired := true }) s

/-- Build a wing's maps (R69). The second part says, by logical core of the wing, whose shelf's storage changed. -/
def buildMaps (s : State) (wing : Nat) : State × List Nat :=
  let old := (List.range (96 * logicalCabs s wing)).map fun c => siteOfCore s (864 * wing + c)
  let rows := (badRows s wing).filter (needsSpare s)
  let s := markSites (rows.foldl steerRow s) wing
  let cabs := (goodCabs s wing).take 9
  let retired := (List.range 10).foldl (fun (b : BitVec 10) i => if (goodCabs s wing).any (·.1 = i) then b else setBit b i) 0
  let s := setWing s wing { wingOf s wing with map := cabs.map (·.1), retired := retired }
  let s := cabs.zipIdx.foldl (fun s x => mapCab s (9 * wing + x.2) fun c =>
    { c with map := if x.1.2 = List.range 96 then none else some x.1.2 }) s
  let fresh := (List.range (96 * cabs.length)).filter fun c => old[c]? ≠ some (siteOfCore s (864 * wing + c))
  let s := fresh.foldl (fun s c => clearSite s (siteOfCore s (864 * wing + c))) s
  let steered := (List.range (96 * cabs.length)).filter fun c =>
    c ∉ fresh && rows.any fun k => siteOfRow k = siteOfCore s (864 * wing + c)
  let changed := fresh ++ steered
  let s := { s with boot := { s.boot with shrunk := putBit s.boot.shrunk wing (cabs.length < 9) } }
  ((List.range 9).foldl (fun s c => mapCab s (9 * wing + c) fun x =>
    { x with remapped := changed.foldl (fun (b : BitVec 96) k => if k / 96 = c then setBit b (k % 96) else b) 0 }) s, changed)

/-! ### Creation and renewal (R355, R356, R387) -/

def wingList (p : Part) : List Nat := (List.range 128).filter fun w => p.wings.getLsbD w

/-- Every account of the partition at its capacity. -/
def fullAccounts (p : Part) : Part :=
  { p with inBalance := uj (inputCap p), balances := (accountRails p).map fun r => (r, uj (railCap p r)) }

/-- Each account at the smaller of its balance and its capacity (R387). -/
def clipAccounts (p : Part) : Part :=
  { p with inBalance := clip p.inBalance (inputCap p)
           balances := (accountRails p).map fun r => (r, clip (balanceOf p r) (railCap p r)) }

/-- The registers of a cabinet that a creation clears (R105, R191, R210). -/
def clearCab (c : Cabinet) : Cabinet :=
  { c with faultSet := false, fault0 := 0, fault1 := 0, launchWait := 0, rmwCount := 0, crcCount := 0, retainWait := 0 }

/-- A wing's rail and domains are off. -/
def darkWing (s : State) (w : Nat) : State :=
  let s := offWing s w
  { s with cabSites := s.cabSites.filter fun d => d.1 / 10 ≠ w, bankGroups := s.bankGroups.filter fun d => d.1 / 2 ≠ w }

/-- What a creation does to the partition's wings: maps built, registers cleared. The list holds (wing, changed cores). -/
def createWings (s : State) (p : Nat) : State × List (Nat × Nat) :=
  (wingList (partOf s p)).foldl (fun acc w =>
    let x := buildMaps acc.1 w
    let s := (List.range 9).foldl (fun s c => mapCab s (9 * w + c) clearCab) (darkWing x.1 w)
    (s, acc.2 ++ [(w, x.2.length)])) (s, [])

/-- SHRUNK, the number of changed cores and CHANGED, as words of RESULT (R354). A number above 65,535 has no value in the spec:
its field is a free value. -/
def createResults (s : State) (p : Nat) (l : List (Nat × Nat)) : State × SMap Word :=
  let shrunk := (wingList (partOf s p)).foldl (fun m w => if s.boot.shrunk.getLsbD w then m + 2 ^ w else m) 0
  let changed := l.foldl (fun m x => if x.2 ≠ 0 then m + 2 ^ x.1 else m) 0
  let n := l.foldl (fun m x => m + x.2) 0
  let f := freeWord s
  let s := if n < 65536 then s else f.2
  let n := if n < 65536 then n else f.1.toNat % 65536
  let w (x i : Nat) : Word := BitVec.ofNat 32 (bits x (32 * i) 32)
  (s, (List.range 4).map (fun i => (i, w shrunk i)) ++ [(4, BitVec.ofNat 32 n)] ++ (List.range 4).map fun i => (5 + i, w changed i))

/-- A timetable that check 6 of R44 refuses under the present floor plan is unbound, and its handle is lost (R46). -/
def dropLost (s : State) (p : Nat) : State :=
  mapPart s p fun x =>
    let bad := x.bound.filter fun b => (List.range 128).any fun w => logicalCabs s w < (b.2.wingTable[w]?).getD 0
    let bound := x.bound.filter fun b => bad.all (·.1 ≠ b.1)
    { x with bound := bound
             lost := bad.foldl (fun m b => setBit m b.1) x.lost
             runState := if bound = [] then .unbound else x.runState }

/-- A partition is created with the resources named; VC_CTL takes its reset value. -/
def createPart (s : State) (p : Nat) (ports lanes : BitVec 8) (ways slots : BitVec 16) (share : Nat) (wings : BitVec 128) :
    State × SMap Word :=
  let x : Part := { state := .forming, ports := ports, wings := wings, slots := slots, share := share, lanes := lanes, ways := ways }
  let r := createWings (setPart s p (fullAccounts x)) p
  let t := createResults (takeCap r.1 p) p r.2
  t

/-- A partition is renewed (R356). -/
def renewPart (s : State) (p : Nat) : State × SMap Word :=
  let s := mapPart s p fun x => fullAccounts
    { x with job := 0, held := false, heldClearedAt := none, rgsLost := 0, stepIndex := 0, steps := 0, budgetWait := 0, slip := 0,
             overrun := 0, tierCount := [], seqStatus := 0, pStatus := 0, metered := 0, missRail := 0, missInput := false }
  let r := createWings s p
  createResults (takeCap (dropLost r.1 p) p) p r.2

/-- VC_CTL and VC_WAYS take effect, and RWL fields are locked (R241, R356). -/
def commitPart (s : State) (p : Nat) : State :=
  mapPart s p fun x => { x with state := .committed, vcCtlOn := x.vcCtl, waysOn := x.ways }

/-! ### Destruction (R357) -/

/-- Delete a ring with its undelivered descriptors and held entries (R360). -/
def deleteRing (s : State) (id : Nat) : State :=
  let s := { s with rings := drop s.rings id }
  mapPort s (portOfRing id) fun x =>
    { x with fetchQueue := x.fetchQueue.filter (· ≠ id)
             fetch := match x.fetch with | some f => if f.ring = id then none else some f | none => none }

/-- A conservator stops in HALTED; bursts in flight complete, and its domain goes off with the last of them. -/
def stopCsv (s : State) (P : Nat) : State :=
  let c := csvOf s P
  let s := if (find s.csvs P).isNone then s
    else setCsv s P { c with state := .halted, haltAsked := false, switchOff := c.bursts ≠ [] }
  let s := if c.bursts = [] then { s with csvDoms := drop s.csvDoms P } else s
  if (find s.pchs P).isNone then s else setPch s P { pchOf s P with nbMode := false, modeWrite := none, modeAt := now s }

/-- The partition's windows end, and its conservators stop (R203, R357). -/
def stopPart (s : State) (p : Nat) : State :=
  let s := endWindows s p
  ((List.range 1024).filter fun P => ownerOfPch s P = some p).foldl stopCsv s

/-- PARTITION_DESTROY: what the partition held is free, and its lines are purged (R357). -/
def destroyPart (s : State) (p : Nat) : State :=
  let x := partOf s p
  let s := stopPart s p
  let s := purge s (fun _ way l => x.waysOn.getLsbD way || ownerOfGranule s l.granule = some p)
    fun e => ownerOfGranule s e.granule = some p
  let s := { s with granules := s.granules.filter fun g => g.2.part ≠ p }
  let s := (s.rings.filter fun r => r.2.part = p).foldl (fun s r => deleteRing s r.1) s
  let s := (wingList x).foldl darkWing s
  let s := { s with plan := s.plan.filter fun e => e.1 ≠ p }
  setPart s p { x with
    state := .absent, ports := 0, wings := 0, slots := 0, share := 0, half := none, lanes := 0, ways := 0, vcCtlOn := 0, waysOn := 0
    runState := .unbound, handle := 0, bound := [], lost := 0, gates := [], inBalance := 0, balances := [], run := none, faults := [] }

end Sys2Proof.Machine
end

