-- ==== Sys2Proof/Machine/Timetables.lean ====
section
/-! DEFINITION. Reading a timetable image and the checks of its bind (R41 to R44, R360, R384). -/

namespace Sys2Proof.Machine

/-! ### Spans -/

/-- Two sorted lists of spans in one, with at most n elements taken. -/
def mergeSpans : Nat → List (Nat × Nat) → List (Nat × Nat) → List (Nat × Nat)
  | 0, _, _ => []
  | _ + 1, [], b => b
  | _ + 1, a, [] => a
  | n + 1, x :: a, y :: b => if x.1 ≤ y.1 then x :: mergeSpans n a (y :: b) else y :: mergeSpans n (x :: a) b

/-- Spans in ascending order of their starts, by n levels of halving. -/
def sortSpans : Nat → List (Nat × Nat) → List (Nat × Nat)
  | 0, l => l
  | n + 1, l =>
    if l.length ≤ 1 then l
    else mergeSpans (l.length + 1) (sortSpans n (l.take (l.length / 2))) (sortSpans n (l.drop (l.length / 2)))

def apart : List (Nat × Nat) → Bool
  | (_, e) :: (b, e') :: l => e ≤ b && apart ((b, e') :: l)
  | _ => true

/-- No two spans overlap. -/
def disjointSpans (l : List (Nat × Nat)) : Bool := apart (sortSpans 20 (l.filter fun x => x.1 ≠ x.2))

/-- A structure of n bytes at an offset starts on 8 B and lies in [lo, hi). -/
def placed (off n lo hi : Nat) : Bool := off % 8 = 0 && lo ≤ off && off + n ≤ hi

/-! ### Fields -/

/-- n bytes of the image from an offset. -/
def fieldAt (img : Array Byte) (off n : Nat) : Nat := leNat ((List.range n).map fun i => img.getD (off + i) 0)

/-- One byte into a CRC-32C (Castagnoli, reflected). -/
def crcStep (c : Nat) (b : Byte) : Nat :=
  (List.range 8).foldl (fun c _ => if c % 2 = 1 then c / 2 ^^^ 0x82F63B78 else c / 2) (c ^^^ b.toNat)

/-- CRC-32C of an image with its CRC field taken as 0. -/
def imageCrc (img : List Byte) : Nat :=
  ((img.take 0x3C ++ [0, 0, 0, 0] ++ img.drop 0x40).foldl crcStep 0xFFFFFFFF) ^^^ 0xFFFFFFFF

/-- A list of n entries of a size at an offset from `base` lies in [lo, hi); the offset of one without an entry lies within the image's
bytes (R41, R44). -/
def listOk (bytes base off n size lo hi : Nat) : Bool :=
  if n = 0 then decide (base + off ≤ bytes) else placed (base + off) (size * n) lo hi

def listSpan (base off n size : Nat) : List (Nat × Nat) := if n = 0 then [] else [(base + off, base + off + size * n)]

/-! ### Tier bodies (R41) -/

structure TierHead where
  at_ : Nat
  length : Nat
  counts : List Nat
  offs : List Nat
  total : Nat

/-- Sizes of an entry of the energy record, the launch list, the slot plan and the engine list. -/
def entrySizes : List Nat := [8, 16, 16, 16]

def tierHead (img : Array Byte) (b : Nat) : TierHead :=
  { at_ := b, length := fieldAt img b 4
    counts := [4, 6, 8, 10].map fun o => fieldAt img (b + o) 2
    offs := [0xC, 0x10, 0x14, 0x18].map fun o => fieldAt img (b + o) 4
    total := fieldAt img (b + 0x1C) 4 }

/-- Count, offset and entry size of each list of a body. -/
def TierHead.lists (h : TierHead) : List (Nat × Nat × Nat) := h.counts.zip (h.offs.zip entrySizes)

/-- Places of the entries of list i. -/
def TierHead.places (h : TierHead) (i : Nat) : List Nat :=
  match h.lists[i]? with
  | some (n, off, size) => (List.range n).map fun k => h.at_ + off + size * k
  | none => []

def TierHead.spans (h : TierHead) : List (Nat × Nat) :=
  (h.at_, h.at_ + 32) :: h.lists.flatMap fun l => listSpan h.at_ l.2.1 l.1 l.2.2

/-- Check 2 of R44 for one body: its lists lie in the record, and reserved bits are 0. -/
def tierFormed (img : Array Byte) (h : TierHead) (hi : Nat) : Bool :=
  h.lists.all (fun l => listOk img.size h.at_ l.2.1 l.1 l.2.2 (h.at_ + 32) hi)
    && (h.places 0).all (fun p => fieldAt img (p + 6) 2 = 0)
    && (h.places 1).all (fun p => fieldAt img p 4 < 2 ^ 11)
    && (h.places 2).all (fun p => fieldAt img p 4 < 2 ^ 28)
    && (h.places 3).all (fun p => fieldAt img p 4 < 2 ^ 6)

def readTier (img : Array Byte) (h : TierHead) : Tier :=
  { length := h.length
    total := h.total
    energy := (h.places 0).map fun p => ⟨fieldAt img p 1, fieldAt img (p + 1) 3, fieldAt img (p + 4) 2⟩
    launches := (h.places 1).map fun p =>
      let w := fieldAt img p 4
      ⟨16 * bits w 0 3 + bits w 3 4, bits w 7 4, fieldAt img (p + 4) 4, fieldAt img (p + 8) 8⟩
    slots := (h.places 2).map fun p =>
      let w := fieldAt img p 4
      ⟨bits w 0 8, bits w 8 16, bits w 24 4, fieldAt img (p + 4) 4, fieldAt img (p + 8) 4, fieldAt img (p + 12) 4⟩
    engines := (h.places 3).map fun p =>
      let w := fieldAt img p 4
      ⟨6 * bits w 0 3 + bits w 3 3 + (if bits w 3 3 < 6 then 0 else 1024), fieldAt img (p + 4) 4, fieldAt img (p + 8) 8⟩ }

/-- Beat offsets ascend. -/
def ascending : List Nat → Bool
  | a :: b :: l => a ≤ b && ascending (b :: l)
  | _ => true

/-- Resources of a slot-plan kind, and the plinth that holds one (R42, R333). -/
def resCount : Nat → Nat
  | 1 => 64 | 2 => 20 | 3 => 512 | 4 => 48 | 5 => 8 | _ => 0

/-- Check 3 of R44 for one body (R41, R42). -/
def tierSound (t : Tier) (stackSet lanes : BitVec 8) (wings : List Nat) : Bool :=
  let rails := t.energy.map (·.rail)
  t.length % 4 = 0 && 4 ≤ t.length && t.length ≤ 4194304
    && 1 ≤ t.energy.length && t.energy.length ≤ 210 && rails.all (· < 210) && rails.eraseDups.length = rails.length
    && t.total = (t.energy.map (·.uj)).foldl (· + ·) 0
    && ascending (t.launches.map (·.beat)) && ascending (t.slots.map (·.first)) && ascending (t.engines.map (·.beat))
    && t.launches.all (fun e => e.beat < t.length && stackSet.getLsbD (e.wing / 16) && e.cab < (wings[e.wing]?).getD 0)
    && t.engines.all (fun e => e.beat < t.length && e.engine < 1024 && stackSet.getLsbD (e.engine / 6))
    && t.slots.all fun e => e.first % 4 = 0 && e.first + 4 * e.rotations ≤ t.length && lanes.getLsbD (e.slot % 8)
      && e.res < resCount e.kind && stackSet.getLsbD (stackOfRes e.kind e.res)

/-! ### Step records -/

/-- Stack of a wake entry's unit (R42); 8 where it names none. -/
def wakeStack (kind index : Nat) : Nat :=
  match kind with
  | 1 => index / 16 | 2 => index / 160 | 3 => index / 32 | 4 => bits index 6 3 | 5 => index / 128 | 6 => index / 6 | _ => 8

/-- A record's step header and the bodies it has. -/
structure StepHead where
  at_ : Nat
  len : Nat
  index : Nat
  next : Nat
  word : Nat
  wakeOff : Nat
  wakeCount : Nat
  tierOffs : List Nat
  tiers : List (Option TierHead)

def stepHead (img : Array Byte) (r len : Nat) : StepHead :=
  let word := fieldAt img (r + 8) 4
  let offs := [0x10, 0x14, 0x18, 0x1C].map fun o => fieldAt img (r + o) 4
  { at_ := r, len := len, index := fieldAt img r 4, next := fieldAt img (r + 4) 4, word := word
    wakeOff := fieldAt img (r + 0xC) 2, wakeCount := fieldAt img (r + 0xE) 2, tierOffs := offs
    tiers := offs.zipIdx.map fun o => if o.1 ≠ 0 && word.testBit o.2 then some (tierHead img (r + o.1)) else none }

def StepHead.wakes (h : StepHead) : List Nat := (List.range h.wakeCount).map fun k => h.at_ + h.wakeOff + 8 * k

/-- Check 2 of R44 for one record. -/
def stepFormed (img : Array Byte) (h : StepHead) : Bool :=
  let hi := h.at_ + h.len
  let bodies := h.tiers.filterMap id
  32 ≤ h.len && bits h.word 6 2 = 0
    && listOk img.size h.at_ h.wakeOff h.wakeCount 8 (h.at_ + 32) hi
    && h.wakes.all (fun p => fieldAt img (p + 3) 5 = 0)
    && h.tierOffs.all (fun o => h.at_ + o ≤ img.size)
    && bodies.all (fun b => placed b.at_ 32 (h.at_ + 32) hi && tierFormed img b hi)
    && disjointSpans ((h.at_, h.at_ + 32) :: listSpan h.at_ h.wakeOff h.wakeCount 8 ++ bodies.flatMap TierHead.spans)

def readStep (img : Array Byte) (h : StepHead) : StepRec :=
  { at_ := h.at_
    len := h.len
    next := BitVec.ofNat 32 h.next
    gateEn := h.word.testBit 4
    complete := h.word.testBit 5
    gateId := bits h.word 8 8
    lead := bits h.word 16 16
    wakes := h.wakes.map fun p =>
      let w := fieldAt img p 3
      ⟨bits w 0 4, bits w 4 12, BitVec.ofNat 8 (bits w 16 8)⟩
    tiers := h.tiers.map fun t => t.map (readTier img) }

/-- Check 3 of R44 for one step. -/
def stepSound (h : StepHead) (x : StepRec) (i count : Nat) (stackSet lanes : BitVec 8) (wings : List Nat) : Bool :=
  h.index = i && (h.next = 0xFFFFFFFF || h.next < count) && bits h.word 0 4 ≠ 0
    && (List.range 4).all (fun t => h.word.testBit t == decide ((h.tierOffs[t]?).getD 0 ≠ 0))
    && x.lead % 4 = 0 && 500 ≤ x.lead && x.lead ≤ 65532 && h.wakeCount ≤ 4096
    && x.wakes.all (fun e => stackSet.getLsbD (wakeStack e.kind e.index) && (e.kind = 1 || e.kcodes = 0))
    && x.tiers.all fun t => match t with
      | some t => tierSound t stackSet lanes wings
      | none => true

/-! ### Images -/

/-- The first of checks 2 and 3 of R44 that an image fails, or the timetable it holds. BYTES is its length. -/
def readImage (bytes : List Byte) : Nat × Option Timetable :=
  let img := bytes.toArray
  let size := bytes.length
  let count := fieldAt img 8 4
  let entry := fieldAt img 0xC 4
  let lanes := BitVec.ofNat 8 (fieldAt img 0x10 1)
  let stackSet := BitVec.ofNat 8 (fieldAt img 0x11 1)
  let table := fieldAt img 0x14 4
  let wingOff := fieldAt img 0x18 4
  if size < 64 || fieldAt img 0 4 ≠ 0x4C425454 || fieldAt img 4 2 ≠ 2 || fieldAt img 0x1C 4 ≠ size || 2 ^ 23 < size
      || imageCrc bytes ≠ fieldAt img 0x3C 4 || fieldAt img 6 2 ≠ 0 || fieldAt img 0x12 2 ≠ 0 || fieldAt img 0x24 0x18 ≠ 0
      || !placed wingOff 128 64 size || !placed table (8 * count) (wingOff + 128) size then (2, none)
  else
    let recs := (List.range count).map fun i => (fieldAt img (table + 8 * i) 4, fieldAt img (table + 8 * i + 4) 4)
    if !recs.all (fun r => placed r.1 r.2 (table + 8 * count) size) || !disjointSpans (recs.map fun r => (r.1, r.1 + r.2)) then
      (2, none)
    else
      let heads := recs.map fun r => stepHead img r.1 r.2
      if !heads.all (stepFormed img) then (2, none)
      else
        let wings := (List.range 128).map fun i => fieldAt img (wingOff + i) 1
        let steps := heads.map (readStep img)
        if 1 ≤ count && count ≤ 65536 && entry < count && wings.all (· ≤ 9)
            && (heads.zip steps).zipIdx.all fun x => stepSound x.1.1 x.1.2 x.2 count stackSet lanes wings then
          (0, some { entryStep := entry, laneMask := lanes, stackMask := stackSet, wingTable := wings, steps := steps, bytes := size })
        else (3, none)

/-! ### Checks against the partition (R43, R44, R384) -/

/-- Check 8 for one tier, under a partition's weights and share. -/
def tierAffordable (p : Part) (t : Tier) : Bool :=
  t.energy.all (fun e =>
    let w := weight p e.rail
    w.1 ≠ 0 && e.uj ≤ railCap p e.rail && e.uj * 1000000 * w.2 ≤ (ratedMw e.rail - idleMw e.rail) * w.1 * t.length * 4)
    && t.total ≤ inputCap p && t.total * 1000000 * 1024 ≤ 7390000 * p.share * t.length * 4

def affordable (p : Part) (t : Timetable) : Bool :=
  t.steps.all fun s => s.tiers.all fun b => match b with
    | some b => tierAffordable p b
    | none => true

/-- Bytes of a stack's step store in use. -/
def storeUsed (s : State) (st : Nat) : Nat :=
  s.parts.foldl (fun n p => p.2.bound.foldl (fun n b => if b.2.stackMask.getLsbD st then n + b.2.bytes else n) n) 0

/-- Spans of a stack's step store in use, as start and end. -/
def storeSpans (s : State) (st : Nat) : List (Nat × Nat) :=
  s.parts.flatMap fun p => p.2.bound.flatMap fun b => (look b.2.places st []).map fun x => (x.1, x.1 + x.2)

/-- What lies free from `lo` on beside sorted spans. -/
def gapsFrom : Nat → List (Nat × Nat) → List (Nat × Nat)
  | lo, [] => [(lo, 2 ^ 23)]
  | lo, (b, e) :: l => (lo, b) :: gapsFrom (max lo e) l

/-- The lowest n bytes of gaps, as base and length. -/
def takeGaps : Nat → List (Nat × Nat) → List (Nat × Nat)
  | _, [] => []
  | n, (b, e) :: l => if n = 0 then [] else if e ≤ b then takeGaps n l else (b, min n (e - b)) :: takeGaps (n - (e - b)) l

/-- An image's place in each stack that it names: the lowest free bytes, in words of 8 (R43; DESIGN CHOICE). -/
def placeImage (s : State) (t : Timetable) : Timetable :=
  { t with places := ((List.range 8).filter fun st => t.stackMask.getLsbD st).map fun st =>
      (st, takeGaps (8 * ceilDiv t.bytes 8) (gapsFrom 0 (sortSpans 20 (storeSpans s st)))) }

/-- The first of checks 4 to 8 of R44 that fails; 0 where none does. -/
def bindCheck (s : State) (p : Nat) (t : Timetable) : Nat :=
  let x := partOf s p
  let used := (List.range 128).filter fun w => (t.wingTable[w]?).getD 0 ≠ 0
  if used.any fun w => !x.wings.getLsbD w then 4
  else if t.laneMask &&& ~~~ x.lanes ≠ 0 then 5
  else if used.any fun w => logicalCabs s w < (t.wingTable[w]?).getD 0 then 6
  else if (List.range 8).any fun st => t.stackMask.getLsbD st && 2 ^ 23 < storeUsed s st + t.bytes then 7
  else if !affordable x t then 8 else 0

end Sys2Proof.Machine
end

