-- ==== Sys2Proof/Machine/Mailbox.lean ====
section
/-! DEFINITION. The curator's mailboxes: submission, checks, exact times, responses and the command set (R340 to R366). One MCLK
is a quarter of a beat. -/

namespace Sys2Proof.Machine

/-! ### The blocks of a command (R344, R345) -/

/-- Number of ARGS words in a command block. -/
def argWords (s : State) : Nat := if s.boot.legacy then 15 else 60

/-- Word i of ARGS. -/
def arg (s : State) (b : SMap Word) (i : Nat) : Nat := if i < argWords s then (look b ((if s.boot.legacy then 1 else 4) + i) 0).toNat else 0

def argPair (s : State) (b : SMap Word) (i : Nat) : Nat := arg s b i + 2 ^ 32 * arg s b (i + 1)

/-- Partition idle: run state UNBOUND or BOUND. -/
def idleRun (p : Part) : Bool := p.runState = .unbound || p.runState = .bound

/-- Check 4 as the table gives it. -/
def stateAllows (p : Part) (states : Nat) : Bool :=
  match states with
  | 0 => true
  | 1 => p.state = .absent
  | 2 => p.state = .forming
  | 3 => p.state ≠ .absent
  | 4 => p.state = .forming || (p.state = .committed && idleRun p)
  | 5 => p.state = .committed && idleRun p
  | 6 => p.state = .committed
  | _ => p.state = .committed && p.runState = .bound

/-- Every reserved field of a block is 0 (R344, R345). -/
def reservedOk (s : State) (b : SMap Word) (r : CmdRow) : Bool :=
  (s.boot.legacy || bits (look b 1 0).toNat 3 28 = 0)
    && (List.range (argWords s)).all fun i => arg s b i &&& (0xFFFFFFFF ^^^ (r.args[i]?).getD 0) = 0

/-- The command's time T in MCLK (R45, R349, R353). An undefined opcode has none: a free value. -/
def cmdTime (s : State) (b : SMap Word) : Nat × State :=
  match cmdRow (opcodeOf b) with
  | some r => (if opcodeOf b = 0x400 then r.t + ceilDiv (min (arg s b 2) (2 ^ 23)) 64 else r.t, s)
  | none => ((freeWord s).1.toNat, (freeWord s).2)

/-! ### Checks 4 to 7 of each command (R354 to R365) -/

/-- Sum of the shares of the other partitions. -/
def otherShares (s : State) (p : Nat) : Nat :=
  (List.range 8).foldl (fun n q => if q ≠ p && owned (partOf s q) then n + (partOf s q).share else n) 0

/-- Another partition holds one of the resources. -/
def clashes (s : State) (p : Nat) (ports lanes : BitVec 8) (ways slots : BitVec 16) (wings : BitVec 128) : Bool :=
  (List.range 8).any fun q =>
    let x := partOf s q
    q ≠ p && owned x && (x.ports &&& ports ≠ 0 || x.lanes &&& lanes ≠ 0 || x.ways &&& ways ≠ 0 || x.slots &&& slots ≠ 0
      || x.wings &&& wings ≠ 0)

/-- A VAULT_BANK record names a pseudo-channel that satisfies a test (R426). -/
def bankRecorded (s : State) (f : Nat → Bool) : Bool :=
  (allMarks s).any fun r => recKind r = 4 && f (bits (recWord r 2) 0 10)

/-- The half that an interleaved granule of the partition takes (R358). -/
def halfFor (s : State) (p : Nat) : Option Bool :=
  let recorded (h : Bool) : Bool := bankRecorded s fun P => decide (P % 2 = 1) = h
  match (partOf s p).half with
  | some h => if recorded h then none else some h
  | none => [false, true].find? fun h =>
      (ownerWhere s fun x => x.half = some h).isNone && !recorded h
        && !s.granules.any fun g => g.2.kind = .pinned && decide (g.2.pch % 2 = 1) = h

/-- The lowest free rank of a half (R248). -/
def freeRank (s : State) (h : Bool) : Option Nat :=
  (List.range 512).find? fun r => !s.granules.any fun g => g.2.kind = .interleaved && g.2.half = h && g.2.rank = r

/-- A device range lies wholly in vault granules that satisfy a test. -/
def inGranules (s : State) (a n : Nat) (f : Granule → Bool) : Bool :=
  a + n ≤ 2 ^ 40 && (List.range ((a + (n - 1)) / 2 ^ 30 - a / 2 ^ 30 + 1)).all fun i =>
    match find s.granules (a / 2 ^ 30 + i) with
    | some g => f g
    | none => false

/-- The curator reads n bytes of device memory at a multiple of 64. An uncorrectable word is reported, and the owner of its
granule takes a job fault (R21). -/
def curatorRead (s : State) (a n : Nat) : State × Option (List Byte) :=
  let blocks := (List.range (ceilDiv n 64)).map fun i => a + 64 * i
  let rs := blocks.map fun b => (b, peekBlock s b)
  let s := blocks.foldl reportPeek s
  match rs.find? (·.2.1.isNone) with
  | some (b, _, why) =>
    let f : FaultRec := match why with
      | some (source, cls, synd, stack) => ⟨source / 4096, cls, stack, source % 4096, some (source, cls, synd, stack)⟩
      | none => ⟨3, 2, 0, 0, none⟩
    (raiseFaultO s (ownerOfGranule s (b / 2 ^ 30)) f, none)
  | none => (s, some ((rs.flatMap fun r => leBytes (r.2.1.getD 0) 64).take n))

/-- The verdict on a command: failing check and status, and what it read. -/
structure Verdict where
  check : Nat := 0
  status : Nat := 0
  image : Option Timetable := none
  fw : List Byte := []
  results : SMap Word := []
  half : Option Bool := none

def passes : Verdict := {}
def fails (check : Nat) : Verdict :=
  { check := check, status := match check with | 4 => 1 | 6 => 3 | 7 => 4 | _ => 2 }

def failsIf (c : Bool) (check : Nat) (v : Verdict) : Verdict := if c then fails check else v

def checkCreate (s : State) (p : Nat) (b : SMap Word) : Verdict :=
  let w := arg s b 0
  let v := arg s b 1
  let wings := argPair s b 2 + 2 ^ 64 * argPair s b 4
  failsIf (w % 256 = 0) 5 <|
  failsIf (clashes s p (BitVec.ofNat 8 w) (BitVec.ofNat 8 (w / 256)) (BitVec.ofNat 16 (w / 65536)) (BitVec.ofNat 16 v)
    (BitVec.ofNat 128 wings) || 1024 < otherShares s p + bits v 16 11) 6 passes

def checkShare (s : State) (p : Nat) (share : Nat) : Verdict :=
  let x := { partOf s p with share := share }
  failsIf (1024 < share) 5 <|
  failsIf (1024 < otherShares s p + share || !x.bound.all fun t => affordable x t.2) 6 passes

def checkAssign (s : State) (p : Nat) (b : SMap Word) : Verdict :=
  let w := arg s b 0
  let P := arg s b 1
  let kind := bits w 10 2
  failsIf (kind = 0 || kind = 3 || (kind = 1 && P ≠ 0)) 5 <|
  failsIf (find s.granules (w % 1024)).isSome 6 <|
  if kind = 2 then
    failsIf ((pinnedAt s P).isSome || (ownerWhere s fun x => x.half = some (decide (P % 2 = 1))).isSome
      || bankRecorded s (· = P)) 6 passes
  else
    match halfFor s p with
    | some h => failsIf (freeRank s h).isNone 6 { half := some h }
    | none => fails 6

/-- A granule of the partition, with a test. -/
def granuleHeld (s : State) (p g : Nat) (f : Granule → Bool) : Bool :=
  match find s.granules g with
  | some x => x.part = p && f x
  | none => false

def checkRelease (s : State) (p g : Nat) : Verdict :=
  let nb : Bool := match find s.granules g with
    | some x => x.kind = .pinned && (pchOf s x.pch).nbMode
    | none => false
  failsIf nb 4 <| failsIf (!granuleHeld s p g fun _ => true) 5 passes

def checkNbMode (s : State) (p P : Nat) (enter : Bool) : Verdict :=
  let on := (pchOf s P).nbMode
  let runs := domOn s .conservator P && (csvOf s P).state = .running
  failsIf (if enter then on else !on || runs) 4 <|
  failsIf (match pinnedAt s P with | some g => g.2.part ≠ p | none => true) 5 passes

def checkRing (s : State) (p : Nat) (b : SMap Word) : Verdict :=
  let w := arg s b 0
  let id := bits w 0 18
  let type := bits w 18 2
  let cq := bits (arg s b 1) 0 18
  let cqOk : Bool := match find s.rings cq with
    | some r => r.type_ = 1 && r.part = p
    | none => false
  failsIf (!(partOf s p).ports.getLsbD (id / 32768) || type = 3 || bits w 20 4 < 4 || argPair s b 2 % 4096 ≠ 0
    || (if type = 0 then !cqOk else cq ≠ 0)) 5 <|
  failsIf (find s.rings id).isSome 6 passes

def checkRingDelete (s : State) (p id : Nat) : Verdict :=
  failsIf ((match find s.rings id with | some r => r.part ≠ p | none => true)
    || s.rings.any fun r => r.2.type_ = 0 && r.2.cq = id) 5 passes

/-- Status of R44's check n. -/
def bindFails (n : Nat) : Verdict := { check := 4 + n, status := if n = 6 then 4 else if n = 7 ∨ n = 8 then 3 else 2 }

def checkBind (s : State) (p : Nat) (b : SMap Word) : Verdict × State :=
  let x := partOf s p
  let a := argPair s b 0
  let n := arg s b 2
  if !idleRun x then ({ check := 5, status := 1 }, s)
  else if 16 ≤ x.bound.length then ({ check := 5, status := 3 }, s)
  else if a % 64 ≠ 0 || 2 ^ 23 < n || n = 0 || !inGranules s a n (fun g => g.part = p && !g.shared) then (bindFails 2, s)
  else
    match curatorRead s a n with
    | (s, none) => (bindFails 2, s)
    | (s, some bytes) =>
      match readImage bytes with
      | (0, some t) => (if bindCheck s p t = 0 then { image := some t } else bindFails (bindCheck s p t), s)
      | (k, _) => (bindFails k, s)

def recordArg (s : State) (b : SMap Word) : BitVec 256 := BitVec.ofNat 256 (packWords ((List.range 8).map (arg s b)))

def checkRetire (s : State) (r : BitVec 256) : Verdict :=
  failsIf (!recordValid r) 5 <| failsIf (r ∉ s.flash.retire && 4096 ≤ s.flash.retire.length) 6 passes

def resetKind : Nat → Option DomainKind
  | 1 => some .hostPort | 2 => some .stack | 3 => some .vault | _ => none

def checkReset (s : State) (chan : Nat) (b : SMap Word) : Verdict :=
  let w := arg s b 0
  let i := bits w 8 8
  let limit := match resetKind (w % 16) with | some .vault => 16 | some _ => 8 | none => 0
  failsIf (limit ≤ i || (w % 16 = 1 && chan < 32 && i = chan / 4)) 5 passes

/-- The slot that is not running is B. -/
def spareIsB (s : State) : Bool := s.boot.slotRun ≠ 2

def checkUpdate (s : State) (b : SMap Word) : Verdict × State :=
  let a := argPair s b 0
  let n := arg s b 2
  let judge (img : List Byte) (fw : List Byte) : Verdict :=
    let k := imageCheck s img n
    if k = 0 then { fw := fw } else { fails 5 with results := [(0, BitVec.ofNat 32 k)] }
  if a = 0 then (judge ((slotOf s (spareIsB s)).image (min n (2 ^ 24))) [], s)
  else if s.boot.deaccessioned then (fails 4, s)
  else if a % 64 ≠ 0 || !inGranules s a n (fun _ => true) then (fails 5, s)
  else
    match curatorRead s a (min n (2 ^ 24)) with
    | (s, some img) => (judge img img, s)
    | (s, none) => ({ fails 5 with results := [(0, (freeWord s).1 &&& 0xFF)] }, (freeWord s).2)

/-- The image that runs: its security version and the slot of its key hash. -/
def runningImage (s : State) : Nat × Nat :=
  let x := slotOf s (s.boot.slotRun = 2)
  let img := x.image (x.len.getD 0)
  (imgField img 0x10 4, (keySlot img).getD 0)

/-- Key slots revoked below k. -/
def revokeBelow (m : BitVec 4) (k : Nat) : BitVec 4 := m ||| BitVec.ofNat 4 (2 ^ k - 1)

def checkRaise (s : State) : Verdict :=
  let x := runningImage s
  failsIf (x.1 ≤ s.fuses.securityMin && revokeBelow s.fuses.keyRevoked x.2 = s.fuses.keyRevoked) 4 passes

/-- Checks 4 to 7 beyond the table's state column. -/
def bodyChecks (s : State) (chan p : Nat) (b : SMap Word) : Verdict × State :=
  let w := arg s b 0
  let pure (v : Verdict) : Verdict × State := (v, s)
  match opcodeOf b with
  | 0x005 => pure (failsIf (bits w 12 2 = 0) 5 passes)
  | 0x010 => pure (failsIf (w % 256 = 0 || 200 < w % 256) 5 passes)
  | 0x011 => pure (failsIf (w % 16 = 0 || bits w 16 12 = 0 || 3600 < bits w 16 12) 5 passes)
  | 0x012 => pure (checkShare s p (w % 2048))
  | 0x100 => pure (checkCreate s p b)
  | 0x200 => pure (checkAssign s p b)
  | 0x201 => pure (checkRelease s p (w % 1024))
  | 0x202 => pure (failsIf (!granuleHeld s p (w % 1024) fun g => g.kind = .pinned) 5 passes)
  | 0x203 => pure (checkNbMode s p (w % 1024) (w.testBit 16))
  | 0x300 => pure (checkRing s p b)
  | 0x301 => pure (checkRingDelete s p (bits w 0 18))
  | 0x400 => checkBind s p b
  | 0x401 => pure (failsIf (find (partOf s p).bound (w % 16)).isNone 4 passes)
  | 0x500 => pure (checkRetire s (recordArg s b))
  | 0x600 => pure (checkReset s chan b)
  | 0x700 => pure (failsIf (w % 2 ^ 24 % 192 ≠ 0) 5 passes)
  | 0x701 => checkUpdate s b
  | 0x702 => pure (checkRaise s)
  | _ => pure passes

/-- The checks of R348, in order, against the state at the command's start. -/
def evaluate (s : State) (chan : Nat) (b : SMap Word) : Verdict × State :=
  let op := opcodeOf b
  let p := if s.boot.legacy then 0 else (look b 1 0).toNat % 8
  match flagsFail s op with
  | some status => ({ check := 1, status := status }, s)
  | none => match cmdRow op with
    | none => ({ check := 2, status := 6 }, s)
    | some r =>
      if s.boot.legacy && !r.legacy then ({ check := 2, status := 6 }, s)
      else if !reservedOk s b r then (fails 2, s)
      else if !s.boot.legacy && (look b 1 0).getLsbD 31
          && s.curator.epoch.toNat ≠ (look b 2 0).toNat + 2 ^ 32 * (look b 3 0).toNat then ({ check := 3, status := 1 }, s)
      else if !stateAllows (partOf s p) r.states then (fails 4, s)
      else bodyChecks s chan p b

/-! ### Submission, start and end (R341 to R343, R350) -/

/-- The curator is out of reset and executes nothing. -/
def curatorFree (s : State) : Bool := live s && !inDomainReset s 4 0 && s.curator.running.isNone && s.curator.freeAt ≤ now s

/-- A PARTITION_DESTROY during a run delivers a job fault at its start (R357, R477). -/
def destroyFault (s : State) (r : Running) : State :=
  let p := runningPart s r
  if opcodeOf r.block = 0x103 ∧ r.status = 0 ∧ !idleRun (partOf s p) then raiseFault s p ⟨8, 1, 0, 0, none⟩ else s

/-- The command at the head of the queue starts, if the curator is free. -/
def startNext (s : State) : State :=
  match s.curator.queue with
  | [] => s
  | n :: rest =>
    if !curatorFree s then s
    else
      let c := chanBlock s n
      let t := cmdTime s c.captured
      let v := evaluate t.2 n c.captured
      let r : Running := { chan := n, start := now s, arrived := c.arrivedAt, t := t.1, block := c.captured,
                           check := v.1.check, status := v.1.status, image := v.1.image, fw := v.1.fw, results := v.1.results,
                           half := v.1.half }
      let s := setChan v.2 n { chanBlock v.2 n with state := .running }
      destroyFault { s with curator := { s.curator with queue := rest, running := some r } } r

/-- A write of 1 to GO (R341). -/
def submit (s : State) (n : Nat) : State :=
  let c := chanBlock s n
  let busy : Bool := c.state = .queued || c.state = .running
  let block := if s.boot.legacy then c.cmd.filter (·.1 < 16) else c.cmd
  setChan s n (if busy || !s.boot.valid then { c with goIgnored := true, ignoredAt := some (now s) }
    else { c with state := .queued, captured := block, goAt := some (now s) })

/-- MAILBOX_GO, R341. -/
def execMailboxGo (chan : Fin 33) (s : State) : Result := onlyIf (live s) s (submit s chan.val)

/-- A channel's command arrives in this beat. -/
def arrives (s : State) (n : Nat) : Bool := match (chanBlock s n).goAt with | some g => g + 1 = now s | none => false

/-- COMMAND_ARRIVAL, R342: at the first beat boundary after the GO, in ascending channel order. -/
def execCommandArrival (chan : Fin 33) (s : State) : Result :=
  let n := chan.val
  let c := chanBlock s n
  let s' := setChan s n { c with goAt := none, arrivedAt := now s }
  onlyIf (live s && arrives s n && !(List.range n).any (arrives s)) s
    (startNext { s' with curator := { s'.curator with queue := s'.curator.queue ++ [n] } })

/-- Beat at which the command's response is written: its exact end, or for a DOMAIN_RESET the end of the reset that it has started or
met, if that comes later (R342, R361, R446; DEDUCED: R442's duration exceeds the T of R353, and the response follows the reset). -/
def replyBeat (r : Running) : Nat :=
  if opcodeOf r.block = 0x600 && r.status = 0 && r.applied then max (endBeat r) r.until_ else endBeat r

/-- A command may answer: it has failed a check, or has taken its effect; NB_MODE only once its mode write has (R359). -/
def effectMade (s : State) (r : Running) : Bool :=
  r.status ≠ 0 || (r.applied && (opcodeOf r.block ≠ 0x203 || (pchOf s (arg s r.block 0 % 1024)).modeWrite.isNone))

/-- COMMAND_END, R342, R349 to R351: the response at the exact end, or after DOMAIN_RESET's reset (R361). A command whose flags check now
fails changes nothing. -/
def execCommandEnd (s : State) : Result :=
  match s.curator.running with
  | none => .next s
  | some r =>
    match lateStatus s r with
    | some status => onlyIf (live s && now s = replyBeat r) s (startNext (respondWith (undoCommand s r) r status 1 []))
    | none => onlyIf (live s && now s = replyBeat r && effectMade s r) s (startNext (endCommand s r))

/-- MAILBOX_COMMAND_TIMEOUT, R343, R447: 1,000,000 MCLK after the exact end. -/
def execMailboxCommandTimeout (s : State) : Result :=
  match s.curator.running with
  | some r => onlyIf (live s && now s = r.start + (r.t + 1000000) / 4) s (resetFor s .curator 0 4)
  | none => .next s

/-! ### The commands' effects (R353 to R365) -/

/-- The command under way is this one, has passed its checks, and its effect is due: at its end, or at its start. -/
def dueCommand (s : State) (op : Nat) (atStart : Bool) : Option Running :=
  match s.curator.running with
  | some r =>
    if live s && opcodeOf r.block = op && r.status = 0 && !r.applied && (flagsFail s op).isNone
        && (if atStart then now s = r.start else now s = endBeat r) then some r else none
  | none => none

/-- Apply a command: its change and its results, which the response carries. -/
def applyWith (op : Nat) (atStart : Bool) (s : State) (f : State → Nat → Running → State × SMap Word) : Result :=
  match dueCommand s op atStart with
  | some r =>
    let x := f s (runningPart s r) r
    .next { x.1 with curator := { x.1.curator with running := some { r with applied := true, results := x.2 } } }
  | none => .next s

def word32s (x n : Nat) : List Word := (List.range n).map fun i => BitVec.ofNat 32 (bits x (32 * i) 32)

/-- Result words from word i upward. -/
def wordsAt (i : Nat) (l : List Word) : SMap Word := l.zipIdx.map fun x => (i + x.2, x.1)

/-- NOP, R353. -/
def execNop (s : State) : Result := applyWith 0x001 false s fun s _ _ => (s, [])

/-- MODULE_QUERY, R354. -/
def execModuleQuery (s : State) : Result := applyWith 0x002 false s fun s _ _ =>
  let states := (List.range 8).foldl (fun n i => n + PartState.code (partOf s i).state * 4 ^ i) 0
  let version (b : Bool) : Nat := if slotCheck s b = 0 then slotVersion s b else 0
  let w (x : Nat) : Word := BitVec.ofNat 32 x
  (s, wordsAt 0
    [w (states + 2 ^ 16 * b2n (s.boot.slotRun = 2) + 2 ^ 17 * b2n s.flash.preferredB),
     w (s.thermal.grace.toNat + 2 ^ 8 * s.esc.count.toNat + 2 ^ 16 * s.esc.windowS.toNat),
     w (version false), w (version true), w s.fuses.securityMin, w s.fuses.keyRevoked.toNat,
     w (now s), w (now s / 2 ^ 32), w (1024 - otherShares s 8)])

/-- The capability words (R24 to R26). -/
def capWord (s : State) (i : Nat) : Nat :=
  let on := b2n (!s.boot.legacy)
  if !s.boot.valid then 0
  else match i with
    | 0 => 4 + 2 ^ 8 * 1 + 2 ^ 12 * 2 + 2 ^ 24 * b2n s.boot.legacy + 2 ^ 31
    | 1 => slotVersion s (s.boot.slotRun = 2)
    | 2 => 8 + 2 ^ 4 * 2 + 2 ^ 6 * 16 + 2 ^ 11 * 8 + 2 ^ 15 * 16 + 2 ^ 20 * (if s.boot.legacy then 1 else 8)
    | 3 => 16 + 2 ^ 5 * 9 + 2 ^ 9 * 96 + 2 ^ 16 * 448
    | 4 => 64 + 2 ^ 8 * 64 + 2 ^ 16 * 64 + 2 ^ 24 * 64
    | 5 => 2 + 2 ^ 4 * 1 + 2 ^ 8 * 2 + 2 ^ 12 * 1 + 2 ^ 16 * 4 + 2 ^ 19 * 7 + 2 ^ 22 * 5 + 2 ^ 25 * 4 + 2 ^ 28 * 4
    | 6 => 32768 + 2 ^ 16 * 2048 + 2 ^ 28 * 4
    | 7 => on + 2 * on + 4 * on + 8 + 16 + 32 + 64 * on + 2 ^ 8 * 4 + 2 ^ 16 * 8000
    | 8 => 9600 + 2 ^ 16 * 20 + 2 ^ 24 * 210
    | 9 => 3265
    | _ => 0

/-- CAPS_READ, R354. -/
def execCapsRead (s : State) : Result := applyWith 0x003 false s fun s _ _ =>
  (s, wordsAt 0 ((List.range 12).map fun i => BitVec.ofNat 32 (capWord s i)))

/-- PARTITION_QUERY, R354. -/
def execPartitionQuery (s : State) : Result := applyWith 0x004 false s fun s p _ =>
  let x := partOf s p
  let handles := x.bound.foldl (fun n b => n + 2 ^ b.1) 0
  let granules := (s.granules.filter fun g => g.2.part = p).length
  let rings := (s.rings.filter fun r => r.2.part = p).length
  let w (n : Nat) : Word := BitVec.ofNat 32 n
  (s, wordsAt 0 ([w (x.ports.toNat + 2 ^ 8 * x.lanes.toNat + 2 ^ 16 * x.ways.toNat),
    w (x.slots.toNat + 2 ^ 16 * x.share + 2 ^ 27 * b2n x.half.isSome + 2 ^ 28 * b2n (x.half = some true)),
    w (handles + 2 ^ 16 * granules), w rings] ++ word32s x.wings.toNat 4))

/-- LOG_READ, R354. -/
def execLogRead (s : State) : Result := applyWith 0x005 false s fun s _ r =>
  let w := arg s r.block 0
  let entries := (List.range (bits w 12 2)).flatMap fun i =>
    word32s (look s.errLog.ring ((w % 4096 + i) % 4096) 0).toNat 16
  (s, [(0, s.errLog.written), (1, BitVec.ofNat 32 (b2n s.errLog.overflow))] ++ wordsAt 8 entries)

/-- THERMAL_GRACE_SET, R361. -/
def execThermalGraceSet (s : State) : Result := applyWith 0x010 false s fun s _ r =>
  ({ s with thermal := { s.thermal with grace := BitVec.ofNat 8 (arg s r.block 0) } }, [])

/-- ESCALATION_SET, R361. -/
def execEscalationSet (s : State) : Result := applyWith 0x011 false s fun s _ r =>
  ({ s with esc := { s.esc with count := BitVec.ofNat 4 (arg s r.block 0), windowS := BitVec.ofNat 12 (bits (arg s r.block 0) 16 12) } },
   [])

/-- ACCOUNT_SET, R361, R387. -/
def execAccountSet (s : State) : Result := applyWith 0x012 false s fun s p r =>
  (mapPart s p fun x => clipAccounts { x with share := arg s r.block 0 % 2048 }, [])

/-- PARTITION_CREATE, R355. -/
def execPartitionCreate (s : State) : Result := applyWith 0x100 false s fun s p r =>
  let w := arg s r.block 0
  let v := arg s r.block 1
  createPart s p (BitVec.ofNat 8 w) (BitVec.ofNat 8 (w / 256)) (BitVec.ofNat 16 (w / 65536)) (BitVec.ofNat 16 v) (bits v 16 11)
    (BitVec.ofNat 128 (argPair s r.block 2 + 2 ^ 64 * argPair s r.block 4))

/-- PARTITION_COMMIT, R356. -/
def execPartitionCommit (s : State) : Result := applyWith 0x101 false s fun s p _ => (commitPart s p, [])

/-- PARTITION_RENEW, R356. -/
def execPartitionRenew (s : State) : Result := applyWith 0x102 false s fun s p _ => renewPart s p

/-- PARTITION_DESTROY, R357. -/
def execPartitionDestroy (s : State) : Result := applyWith 0x103 false s fun s p _ => (destroyPart s p, [])

/-- GRANULE_ASSIGN, R248, R358. -/
def execGranuleAssign (s : State) : Result := applyWith 0x200 false s fun s p r =>
  let w := arg s r.block 0
  if bits w 10 2 = 2 then
    ({ s with granules := put s.granules (w % 1024) { kind := .pinned, part := p, pch := arg s r.block 1 } }, [])
  else
    let h := r.half.getD false
    let k := (freeRank s h).getD 0
    let s := mapPart s p fun x => { x with half := some h }
    ({ s with granules := put s.granules (w % 1024) { kind := .interleaved, part := p, half := h, rank := k } },
     [(0, BitVec.ofNat 32 (b2n h + 2 * k))])

/-- The slices write back and drop a granule's lines (R216, R358). -/
def purgeGranule (s : State) (g : Nat) : State := purge s (fun _ _ l => l.granule = g) fun e => e.granule = g

/-- GRANULE_RELEASE, R358: a half is freed with its last interleaved granule. -/
def execGranuleRelease (s : State) : Result := applyWith 0x201 false s fun s p r =>
  let g := arg s r.block 0 % 1024
  let s := purgeGranule s g
  let s := { s with granules := drop s.granules g }
  let keeps := s.granules.any fun x => x.2.part = p && x.2.kind = .interleaved
  (mapPart s p fun x => { x with half := if keeps then x.half else none }, [])

/-- GRANULE_SHARE, R216, R358. -/
def execGranuleShare (s : State) : Result := applyWith 0x202 false s fun s _ r =>
  let g := arg s r.block 0 % 1024
  let on := (arg s r.block 0).testBit 16
  let s := if on then purgeGranule s g else s
  match find s.granules g with
  | some x => ({ s with granules := put s.granules g { x with shared := on } }, [])
  | none => (s, [])

/-- NB_MODE, R258, R359: the mode write is made at the command's start, so that it takes effect before the command ends. -/
def execNbMode (s : State) : Result := applyWith 0x203 true s fun s _ r =>
  let P := arg s r.block 0 % 1024
  (setPch s P { pchOf s P with modeWrite := some ((arg s r.block 0).testBit 16) }, [])

/-- RING_CREATE, R320, R328, R360. -/
def execRingCreate (s : State) : Result := applyWith 0x300 false s fun s p r =>
  let w := arg s r.block 0
  let v := arg s r.block 1
  let x : Ring := { type_ := BitVec.ofNat 2 (bits w 18 2), base := BitVec.ofNat 64 (argPair s r.block 2), log2 := bits w 20 4,
                    part := p, cq := bits v 0 18, vector := BitVec.ofNat 11 (bits v 18 11) }
  (setRing s (bits w 0 18) x, [])

/-- RING_DELETE, R360. -/
def execRingDelete (s : State) : Result := applyWith 0x301 false s fun s _ r => (deleteRing s (bits (arg s r.block 0) 0 18), [])

/-- TIMETABLE_BIND, R43, R49. -/
def execTimetableBind (s : State) : Result := applyWith 0x400 false s fun s p r =>
  match r.image, (List.range 16).find? fun h => (find (partOf s p).bound h).isNone with
  | some t, some h =>
    (mapPart s p fun x => { x with bound := put x.bound h (placeImage s t), lost := clearBit x.lost h
                                   runState := match x.runState with | .unbound => .bound | y => y },
     [(0, BitVec.ofNat 32 h)])
  | _, _ => (s, [])

/-- TIMETABLE_UNBIND, R49, R360. -/
def execTimetableUnbind (s : State) : Result := applyWith 0x401 false s fun s p r =>
  (mapPart s p fun x =>
    let bound := drop x.bound (arg s r.block 0 % 16)
    { x with bound := bound, runState := if bound = [] then .unbound else x.runState }, [])

/-- RETIRE, R361, R425. -/
def execRetire (s : State) : Result := applyWith 0x500 false s fun s _ r =>
  let x := recordArg s r.block
  (if x ∈ s.flash.retire then s else afterRecord (addRecord s x) x, [])

/-- DOMAIN_RESET, R361, R447: the reset begins at the command's start. -/
def execDomainReset (s : State) : Result :=
  match dueCommand s 0x600 true with
  | none => .next s
  | some r =>
    let w := arg s r.block 0
    let i := bits w 8 8
    let (t, e) := match resetKind (w % 16) with
      | some k => let t := resetFor s k i 8; (t, look t.resets (256 * domCode k + i) 0)
      | none => (s, 0)
    .next { t with curator := { t.curator with running := some { r with applied := true, results := [], until_ := e } } }

/-- FW_CHUNK, R364. -/
def execFwChunk (s : State) : Result := applyWith 0x700 false s fun s _ r =>
  let off := arg s r.block 0 % 2 ^ 24
  let x := if off = 0 then {} else slotOf s (spareIsB s)
  (setSlot s (spareIsB s) (fwWrites x off ((List.range 48).flatMap fun i => leBytes (arg s r.block (4 + i)) 4)), [])

/-- FW_UPDATE, R364: the slot that is not running is marked preferred, and its length recorded. -/
def execFwUpdate (s : State) : Result := applyWith 0x701 false s fun s _ r =>
  let b := spareIsB s
  let x := if argPair s r.block 0 = 0 then slotOf s b else fwWrites {} 0 r.fw
  let s := setSlot s b { x with len := some (arg s r.block 2) }
  ({ s with flash := { s.flash with preferredB := b } }, [])

/-- FW_SECURITY_RAISE, R365. -/
def execFwSecurityRaise (s : State) : Result := applyWith 0x702 false s fun s _ _ =>
  let x := runningImage s
  let m := max s.fuses.securityMin x.1
  ({ s with fuses := { s.fuses with securityMin := m, keyRevoked := revokeBelow s.fuses.keyRevoked x.2 } },
   [(0, BitVec.ofNat 32 m)])

end Sys2Proof.Machine
end

