-- ==== Sys2Proof/Machine/RawScrub.lean ====
section
/-! DEFINITION. Raw diagnostic access, scrubbing, and the reports that reach a collector (R410, R414 to R420, R452). -/

namespace Sys2Proof.Machine

/-! ### Stored codewords -/

/-- Stored codewords: a physical shelf row; a 32 B unit of a slice's line, and one of the unit's four 64-bit codewords; a 32 B word of a
pseudo-channel. -/
inductive CodeRef where
  | shelf (row : Nat)
  | unit (slice frame : Nat) (half : Bool) (k : Nat)
  | quad (slice frame : Nat) (half : Bool) (k q : Nat)
  | word (P off : Nat)
deriving DecidableEq, Repr

/-- The line of a frame's half. -/
def lineOf (s : State) (i frame : Nat) (h : Bool) : Option Line := halfOf (look (sliceOf s i).frames frame {}) h

/-- Data and check bits as stored. -/
def codeGet (s : State) : CodeRef → Nat × Nat
  | .shelf row => rawGet s.shelf shelfCodec row
  | .unit i f h k =>
    match lineOf s i f h with
    | some l => (bits l.data.toNat (256 * k) 256, bits l.chk.toNat (32 * k) 32)
    | none => (0, 0)
  | .quad i f h k q =>
    match lineOf s i f h with
    | some l => (bits l.data.toNat (256 * k + 64 * q) 64, bits l.chk.toNat (32 * k + 8 * q) 8)
    | none => (0, 0)
  | .word P off => rawGet s.dram vaultCodec (vaultWord P off)

/-- Store data and check bits exactly; a slice's tags and dirty bits stay (R415). -/
def codePut (s : State) (r : CodeRef) (d chk : Nat) : State :=
  match r with
  | .shelf row => { s with shelf := rawPut s.shelf shelfCodec row d chk }
  | .unit i f h k =>
    match lineOf s i f h with
    | some l =>
      let x := sliceOf s i
      setSlice s i { x with frames := put x.frames f (setHalf (look x.frames f {}) h (some (putUnit l k (d % 2 ^ 256, chk % 2 ^ 32)))) }
    | none => s
  | .quad i f h k q =>
    match lineOf s i f h with
    | some l =>
      let x := sliceOf s i
      let y := (bits l.data.toNat (256 * k) 256, bits l.chk.toNat (32 * k) 32)
      let u := (y.1 - bits y.1 (64 * q) 64 * 2 ^ (64 * q) + d % 2 ^ 64 * 2 ^ (64 * q),
                y.2 - bits y.2 (8 * q) 8 * 2 ^ (8 * q) + chk % 2 ^ 8 * 2 ^ (8 * q))
      setSlice s i { x with frames := put x.frames f (setHalf (look x.frames f {}) h (some (putUnit l k u))) }
    | none => s
  | .word P off => { s with dram := rawPut s.dram vaultCodec (vaultWord P off) d chk }

/-- What the checker of a codeword finds in it. -/
def codeCheck (r : CodeRef) (d chk : Nat) : Checked :=
  match r with
  | .shelf _ => shelfCodec.check d chk
  | .unit _ _ _ _ => unitRead d chk
  | .quad _ _ _ _ _ => hammingRead 64 8 d chk
  | .word _ _ => vaultCodec.check d chk

/-- Check bits of a data word. -/
def codeEncode (r : CodeRef) (d : Nat) : Nat :=
  match r with
  | .shelf _ => shelfCodec.encode d
  | .unit _ _ _ _ => unitCheck d
  | .quad _ _ _ _ _ => hammingCheck 64 8 d
  | .word _ _ => vaultCodec.encode d

/-- The poison codeword of the memory (R409). -/
def codePoison : CodeRef → Nat × Nat
  | .shelf _ => (2 ^ 128 - 1, 0)
  | .quad _ _ _ _ _ => (2 ^ 64 - 1, 0)
  | _ => (2 ^ 256 - 1, 0)

/-! ### Raw operations (R414, R415) -/

/-- Scrubbing is paused: ENABLE acts from the beat after the write (R452). -/
def rawMode (s : State) : Bool := if now s < s.errLog.rawFrom then !s.errLog.rawEnable else s.errLog.rawEnable

def setErrLog (s : State) (l : ErrLog) : State := { s with errLog := l }

/-- Beats that a raw operation takes. -/
def rawBeats : Nat → Nat
  | 0 => 2000
  | 1 => 500
  | _ => 1000

/-- Stack of a raw operation's target: bits [18:16] of the high half. -/
def rawStack (loc : BitVec 64) : Nat := bits loc.toNat 48 3

/-- The codeword that a raw operation names, where it exists (R419). -/
def rawRef (o : RawOp) : Option CodeRef :=
  let loc := o.loc.toNat
  let u := Config.rawUnit o.target o.loc
  match o.target with
  | 0 =>
    let site := (16 * rawStack o.loc + u % 160 / 10) * 1000 + u % 10 * 100 + bits loc 0 7
    if bits loc 0 7 < 100 && bits loc 8 3 < 7 && bits loc 11 12 < 2064 then
      some (.shelf (((site * 2 + bits loc 7 1) * 7 + bits loc 8 3) * 2064 + bits loc 11 12))
    else none
  | 1 => some (.unit (64 * rawStack o.loc + u % 64) (16 * bits loc 0 11 + bits loc 11 4) (loc.testBit 15) (bits loc 16 2))
  | _ => some (.word (bits loc 0 10) (bits loc 10 30 % 2 ^ 30 / 32 * 32))

/-- Owner of a codeword's storage. -/
def codeOwner (s : State) : CodeRef → Option Nat
  | .shelf row => ownerOfWing s (row / 2064 / 14 / 1000)
  | .unit i f h _ => (lineOf s i f h).bind fun l => ownerOfGranule s l.granule
  | .quad i f h _ _ => (lineOf s i f h).bind fun l => ownerOfGranule s l.granule
  | .word P off => (granuleAt s P off).map (·.part)

/-- The owner's run state is neither UNBOUND nor BOUND. -/
def ownerRuns (s : State) (r : CodeRef) : Bool :=
  match codeOwner s r with
  | some p => (partOf s p).runState ≠ .unbound && (partOf s p).runState ≠ .bound
  | none => false

/-- A slice unit that a raw operation may not touch: its sector is not VALID, LOCATION sets WB, or it names sector 2 or 3 of a
compressed half. -/
def rawUnitBad (s : State) (loc : BitVec 64) : CodeRef → Bool
  | .unit i f h k =>
    match lineOf s i f h with
    | some l => l.dead || !l.valid.getLsbD k || loc.getLsbD 18 || (l.halfOnly && 2 ≤ k)
    | none => true
  | .word P _ => (pchOf s P).nbMode
  | _ => false

/-- The operation is refused (R415). -/
def rawRefused (s : State) (o : RawOp) : Bool :=
  match rawRef o with
  | some r => ownerRuns s r || rawUnitBad s o.loc r
  | none => false

/-- No raw operation acts while the module is tripped or deaccessioned (R453). -/
def rawDead (s : State) : Bool := coldHeld s

/-- An operation on a vault word that is not refused presents itself to the fabric of plinth 0 in the curator's unscheduled class, at the
beat of its start (R33, R414; DESIGN CHOICE). -/
def rawSend (s : State) (o : RawOp) : State :=
  match rawRef o with
  | some (.word P off) =>
    if rawRefused s o then s
    else addReq s { origin := .curator, part := 8, lane := none, cls := 8, kind := if o.write then .store else .load, addr := 2 ^ 30 * P + off
                    route := routeToSlice 0 (sliceOfPch P), stage := .route (pclk s 0) }
  | _ => s

/-- A write of the word with set GO starts an operation, if none is in progress and TARGET is not reserved. -/
def rawStart (s : State) : State :=
  let l := s.errLog
  if rawDead s || l.rawOp.isSome || l.rawTarget = 3 then s
  else
    let o : RawOp := ⟨l.rawWrite, l.rawTarget.toNat, now s + rawBeats l.rawTarget.toNat, l.rawLoc, l.rawData, l.rawCheck⟩
    rawSend (setErrLog s { l with rawOp := some o }) o

/-- ERR_RAW_CTL. -/
def rawControl (s : State) (mask value : Word) : State :=
  let l := s.errLog
  let pick (i : Nat) (old : Bool) : Bool := if mask.getLsbD i then value.getLsbD i else old
  let enable := pick 4 l.rawEnable
  let target := putBit (putBit l.rawTarget 0 (pick 2 (l.rawTarget.getLsbD 0))) 1 (pick 3 (l.rawTarget.getLsbD 1))
  let s := setErrLog s { l with rawWrite := pick 1 l.rawWrite, rawTarget := target, rawEnable := enable,
                                rawFrom := if enable = l.rawEnable then l.rawFrom else if now s < l.rawFrom then now s else now s + 1 }
  if (mask &&& value).getLsbD 0 then rawStart s else s

/-- Data words that the operation moves. -/
def rawWords (target : Nat) : Nat := if target = 0 then 4 else 8

/-- Data and check bits in the registers. -/
def rawValue (o : RawOp) : Nat × Nat :=
  (packWords ((List.range (rawWords o.target)).map fun i => (look o.data i 0).toNat),
   if o.target = 0 then o.check.toNat % 512 else o.check.toNat)

/-- ERR_RAW_DATA and ERR_RAW_CHECK after a raw read; a target that does not exist reads as free values. -/
def rawReadInto (s : State) (o : RawOp) : State :=
  let n := rawWords o.target
  let f := freeBlock s
  let x : Nat × Nat × State := match rawRef o with
    | some r => let y := codeGet s r; (y.1, y.2, s)
    | none => (f.1.toNat, (freeWord f.2).1.toNat, (freeWord f.2).2)
  let s := x.2.2
  let l := s.errLog
  setErrLog s { l with
    rawData := (List.range n).foldl (fun m i => put m i (BitVec.ofNat 32 (bits x.1 (32 * i) 32))) l.rawData
    rawCheck := BitVec.ofNat 32 x.2.1 }

/-- Writes to DATA and CHECK that waited for the operation's end. -/
def rawRelease (s : State) : State :=
  let l := s.errLog.rawHeld.foldl (fun (l : ErrLog) h =>
    if h.1 = 8 then { l with rawCheck := h.2 } else { l with rawData := put l.rawData h.1 h.2 }) s.errLog
  setErrLog s { l with rawHeld := [], rawOp := none }

/-- The scrubber that visits a codeword. -/
def scrubberKey : CodeRef → Nat × Nat
  | .shelf row => (row / 2064 / 224000, row / 2064 % 224000)
  | .unit i _ _ _ | .quad i _ _ _ _ => (i / 64, 224000 + i % 64)
  | .word P _ => (P / 128, 224064 + P % 128)

/-- Codeword k of visit n of its scrubber is the one that a raw operation names, or lies in it. -/
def fixHit (s : State) (n k : Nat) : CodeRef → Bool
  | .shelf row => n = row % 2064
  | .word _ off => n = off / 128 && k = off / 32 % 4
  | .unit i f h u | .quad i f h u _ => match lineOf s i f h with
      | some l => n = 4 * f + (if l.halfOnly then 2 * b2n h + u else u)
      | none => false

/-- A raw write reaches a codeword that a scrub means to correct: that write-back leaves it alone (R417). -/
def forgetFix (s : State) (r : CodeRef) : State :=
  let k := scrubberKey r
  let c := colOf s k.1
  match find c.scrubs k.2 with
  | some y => setCol s k.1 { c with scrubs := put c.scrubs k.2 { y with
      fix := y.fix.map fun v => (v.1, v.2.filter fun f => !fixHit s v.1 f.1 r) } }
  | none => s

/-- The operation's effect at its end. -/
def rawAct (s : State) (o : RawOp) : State :=
  if rawDead s then s
  else if rawRefused s o then setErrLog s { s.errLog with rawRefused := true, setAt := put s.errLog.setAt 3 (now s) }
  else if o.write then
    match rawRef o with
    | some r => forgetFix (codePut s r (rawValue o).1 (rawValue o).2) r
    | none => s
  else rawReadInto s o

/-- RAW_READ, R414: the write to ERR_RAW_CTL with GO set and WRITE clear. -/
def execRawRead (value : BitVec 32) (s : State) : Result :=
  onlyIf (live s && !s.boot.deaccessioned && value.getLsbD 0 && !value.getLsbD 1) s (rawControl s (BitVec.allOnes 32) value)

/-- RAW_WRITE, R414: the write to ERR_RAW_CTL with GO and WRITE set. -/
def execRawWrite (value : BitVec 32) (s : State) : Result :=
  onlyIf (live s && !s.boot.deaccessioned && value.getLsbD 0 && value.getLsbD 1) s (rawControl s (BitVec.allOnes 32) value)

/-- RAW_MODE_ENABLE, R415, R452: a write to ERR_RAW_CTL that starts no operation. -/
def execRawModeEnable (value : BitVec 32) (s : State) : Result :=
  onlyIf (live s && !s.boot.deaccessioned && !value.getLsbD 0) s (rawControl s (BitVec.allOnes 32) value)

/-- RAW_OPERATION_DONE, R414, R415: at the exact end. -/
def execRawOperationDone (s : State) : Result :=
  match s.errLog.rawOp with
  | some o =>
    let t := rawAct s o
    onlyIf (live s && o.end_ = now s) s (rawRelease (setErrLog t { t.errLog with rawDone := true, setAt := put t.errLog.setAt 2 (now s) }))
  | none => .next s

/-! ### Scrubbing (R416 to R418) -/

/-- Key of a unit's lap within its collector: 0 shelves, 1 slices, 2 and 3 the vaults; and the collector's stack. -/
def lapOf : ScrubUnit → Nat × Nat
  | .shelves s => (s.val, 0)
  | .slices s => (s.val, 1)
  | .vault v => (v.val / 2, 2 + v.val % 2)

/-- The stack of a scrubber, and its key among the stack's scrubbers. -/
def scrubPlace : Scrubber → Nat × Nat
  | .bank b => (b.val / 224000, b.val % 224000)
  | .slice i => (i.val / 64, 224000 + i.val % 64)
  | .pch P => (P.val / 128, 224064 + P.val % 128)

/-- The unit whose lap a scrubber serves. -/
def scrubUnit : Scrubber → ScrubUnit
  | .bank b => .shelves (Fin.ofNat 8 (b.val / 224000))
  | .slice i => .slices (Fin.ofNat 8 (i.val / 64))
  | .pch P => .vault (Fin.ofNat 16 (P.val / 64))

/-- Keys of a unit's scrubbers. -/
def lapKeys : ScrubUnit → List Nat
  | .shelves _ => List.range 224000
  | .slices _ => (List.range 64).map (224000 + ·)
  | .vault v => (List.range 64).map (224064 + 64 * (v.val % 2) + ·)

/-- Rows of a bank, sectors of a slice, or lines of a pseudo-channel. -/
def lapLength (key : Nat) : Nat := if key < 224000 then 2064 else if key < 224064 then 131072 else 8388608

/-- Codewords that visit n of a scrubber reads, in ascending address order. A frame's four sectors belong to the line that fills it, or
by pairs to its two halves. -/
def codesAt (s : State) (x : Scrubber) (n : Nat) : List CodeRef :=
  match x with
  | .bank b => [.shelf (b.val * 2064 + n)]
  | .slice i =>
    let frame := n / 4
    let k := n % 4
    let whole (h : Bool) : Bool := match lineOf s i.val frame h with | some l => !l.halfOnly | none => false
    let at_ : Bool × Nat := if whole false then (false, k) else if whole true then (true, k) else (decide (2 ≤ k), k % 2)
    (List.range 4).map fun q => .quad i.val frame at_.1 at_.2 q
  | .pch P => (List.range 4).map fun k => .word P.val (128 * n + 32 * k)

/-- The codeword is one that is scrubbed: its bank group is ACTIVE; its line holds it in a VALID sector and its slice is on. -/
def scrubbed (s : State) : CodeRef → Bool
  | .shelf row => domOn s .bankGroup (bankGroupOf (row / 2064 / 14 / 1000) (row / 2064 / 7 % 2))
  | .unit i f h k | .quad i f h k _ =>
    domOn s .slice i && match lineOf s i f h with
      | some l => !l.dead && (if l.halfOnly then decide (l.valid ≠ 0) else l.valid.getLsbD k)
      | none => false
  | .word _ _ => true

/-- Report of a scrub's finding (R417, R419): stack, kind, unit, memory class and location. -/
def scrubReport (s : State) (r : CodeRef) (f : Checked) : State :=
  let send (s : State) (stack kind unit mem loc : Nat) : State := report s stack (mkReport kind unit mem f loc true)
  let bit := if f.cls.1 = 1 then 1 else 2
  match r with
  | .shelf row =>
    let site := row / 2064 / 14
    send s (site / 16000) 1 (site % 16000 / 100) 5 (shelfLoc row)
  | .unit i frame h k | .quad i frame h k _ =>
    let s := setSliceStatus s i (bit - 1)
    send s (i / 64) 2 (i % 64) 7 (frame / 16 + 2 ^ 11 * (frame % 16) + 2 ^ 15 * b2n h + 2 ^ 16 * k)
  | .word P off =>
    let v := vaultOf s (P / 64)
    let s := setVault s (P / 64) (v.flag bit (now s))
    send s (P / 128) 3 (P / 64 % 2) 8 (P + 2 ^ 10 * off)

/-- Fault source of a scrub's uncorrectable finding (R477). -/
def scrubFault (r : CodeRef) (f : Checked) : FaultRec :=
  let mk (stack kind unit : Nat) : FaultRec := ⟨kind, f.cls.1, stack, unit, some (kind * 4096 + unit, f.cls.1, f.cls.2.1, stack)⟩
  match r with
  | .shelf row => mk (row / 2064 / 14 / 16000) 1 (row / 2064 / 14 % 16000 / 100)
  | .unit i _ _ _ | .quad i _ _ _ _ => mk (i / 64) 2 (i % 64)
  | .word P _ => mk (P / 128) 3 (P / 64 % 2)

/-! ### The cycles that scrubbers use (R416) -/

/-- The bank, from 0 to 13, of a shelf word. -/
def bankOfWord (w : Nat) : Nat := w / 2048

/-- A direction serves a transfer's word in bank b at g: it is free from `free` on, and `ws` are the words of its last transfer. -/
def servesBank (b g free : Nat) (ws : List Nat) : Bool :=
  g < free && free ≤ g + ws.length && ((ws[g + ws.length - free]?).map bankOfWord = some b)

/-- A transfer that begins at g in bank b: one at the head of a direction that is free, or the write of a read-modify-write. -/
def beginsInBank (c : Core) (b g : Nat) : Bool :=
  let head (l : List Xfer) (free : Nat) : Bool := match l with
    | q :: _ => q.issue ≤ g && free ≤ g && !atomicAhead c q && !atomicJust c g q && !behindSwap c q && ((q.words.head?).map (bankOfWord ·.1) = some b)
    | [] => false
  head c.rdQueue c.rdFree || head c.wrQueue c.wrFree
    || (c.wrFree ≤ g && c.rmws.any fun m => m.writeAt ≤ g && bankOfWord m.word = b)

/-- Bank b of a site serves no transfer at g. -/
def bankIdle (s : State) (site b g : Nat) : Bool :=
  match (coreAtSite s site).bind (find s.cores) with
  | some c => !servesBank b g c.rdFree c.rdWords && !servesBank b g c.wrFree c.wrWords && !beginsInBank c b g
  | none => true

def isRange : ReqKind → Bool
  | .prefetch | .flush | .invalidate | .dead => true
  | _ => false

/-- A slice takes no request at PCLK c, and performs no fill, write-back or range operation. -/
def sliceIdle (s : State) (i c : Nat) : Bool :=
  let x := sliceOf s i
  x.lastAct ≠ some c && !x.fills.any (fun f => f.back = some c) && !x.wb.any (fun e => e.2.ack = some c)
    && !s.net.any fun r => (match spaceOf s r.2.addr with | .vault _ => sliceOfAddr s r.2.addr = i | _ => false)
      && (r.2.stage = .slice c || (isRange r.2.kind && r.2.entered ≤ c && (r.2.stage = .inSlice || c < r.2.entered + 11)))

/-- A window that R416 lets the scrubber use opened at an earlier PCLK w since the last multiple of 4,096, and no request held it: outside
refresh, and of the table then in force. -/
def windowWasFree (s : State) (P w : Nat) : Bool :=
  let x := pchOf s P
  let nb : Bool := if w < 5 * x.modeAt then !x.nbMode else x.nbMode
  let inRefresh : Bool := match lastRefresh (vaultOf s (P / 64)) P (w / 5) with
    | some b => decide (w / 5 < b + 64)
    | none => false
  phaseAt P w % 4 = 0 && !(phaseAt P w = 16 && nb) && !inRefresh && decide (w ∉ x.taken)

/-- A window of P opens at PCLK a outside refresh, no request holds it, and it is the first such window since the last multiple of
4,096. -/
def windowFree (s : State) (P a : Nat) (used : Option Nat) : Bool :=
  !(pchOf s P).inRefresh && (match used with | some u => decide (u < a / 4096 * 4096) | none => true)
    && (List.range (a % 4096)).all (fun i => !windowWasFree s P (a / 4096 * 4096 + i))
    && match openWindow s P a with
      | some cls => (firstWaiting cls a (pchOf s P).queue).isNone
      | none => false

def scrubOf (s : State) (x : Scrubber) : Scrub := look (colOf s (scrubPlace x).1).scrubs (scrubPlace x).2 {}

def setScrub (s : State) (x : Scrubber) (y : Scrub) : State :=
  let c := colOf s (scrubPlace x).1
  setCol s (scrubPlace x).1 { c with scrubs := put c.scrubs (scrubPlace x).2 y }

/-- The wing time or PCLK of edge j, where R416 gives that cycle to the scrubber and it has not used it. -/
def scrubTime (s : State) (x : Scrubber) (j : Nat) : Option Nat :=
  let used := (scrubOf s x).usedAt
  match x with
  | .bank b =>
    let wing := b.val / 14000
    let g := wtime s wing j
    if edgeOk s wing j && gclk s wing j % 4096 = 0 && bankIdle s (b.val / 14) (b.val % 14) g && used ≠ some g
        && domOn s .bankGroup (bankGroupOf wing (b.val / 7 % 2)) then some g else none
  | .slice i =>
    let c := pclk s j
    if j < 5 && c % 64 = 0 && domOn s .slice i.val && sliceIdle s i.val c && used ≠ some c then some c else none
  | .pch P => if j < 5 && windowFree s P.val (pclk s j) used then some (pclk s j) else none

/-! ### Laps (R418) -/

def setLap (s : State) (u : ScrubUnit) (l : Lap) : State :=
  let c := colOf s (lapOf u).1
  setCol s (lapOf u).1 { c with laps := put c.laps (lapOf u).2 l }

def lapNow (s : State) (u : ScrubUnit) : Lap := look (colOf s (lapOf u).1).laps (lapOf u).2 {}

/-- The storage of a scrubber is not scrubbed now: a lap does not wait for it. -/
def scrubAbsent (s : State) (stack key : Nat) : Bool :=
  if key < 224000 then !domOn s .bankGroup (bankGroupOf (16 * stack + key / 14000) (key / 7 % 2))
  else if key < 224064 then !domOn s .slice (64 * stack + (key - 224000))
  else false

/-- Every scrubber of a unit has visited all its storage. -/
def lapDone (s : State) (u : ScrubUnit) : Bool :=
  let c := colOf s (lapOf u).1
  (lapKeys u).all fun k => lapLength k ≤ (look c.scrubs k {}).pos || scrubAbsent s (lapOf u).1 k

/-- The lap ends once every scrubber has done its part, and the next one begins. -/
def closeLap (s : State) (u : ScrubUnit) : State :=
  if !lapDone s u then s
  else
    let l := lapNow s u
    let ms := (now s - l.began.getD (now s)) / 250000
    let s := setLap s u { began := some (now s), laps := satAdd l.laps 1, ms := BitVec.ofNat 16 (min ms 0xFFFF) }
    let c := colOf s (lapOf u).1
    setCol s (lapOf u).1 { c with scrubs := c.scrubs.map fun x => if x.1 ∈ lapKeys u then (x.1, { x.2 with pos := 0 }) else x }

/-- A visit is done at time t: the scrubber moves on, and its last visit may end the lap. -/
def endVisit (s : State) (x : Scrubber) (t : Nat) : State :=
  let y := scrubOf s x
  let l := lapNow s (scrubUnit x)
  let s := setLap s (scrubUnit x) { l with began := some (l.began.getD (now s)) }
  let s := setScrub s x { y with pos := y.pos + 1, usedAt := some t }
  if y.pos + 1 < lapLength (scrubPlace x).2 then s else closeLap s (scrubUnit x)

/-- The scrubber acts: out of bring-up, with its storage powered and its domain out of reset, and not paused. -/
def scrubOn (s : State) (u : ScrubUnit) : Bool :=
  live s && s.boot.valid && !s.boot.tripped && !s.boot.deaccessioned && !rawMode s && match u with
    | .vault v => !inDomainReset s 3 v.val && !inDomainReset s 2 (v.val / 2)
    | .shelves st => !inDomainReset s 2 st.val
    | .slices st => !inDomainReset s 2 st.val

/-! ### Reads and write-backs (R416, R417) -/

/-- What a scrub does on reading codeword r, number k of visit n. -/
def scrubFinding (s : State) (x : Scrubber) (n : Nat) (r : CodeRef) (k : Nat) : State :=
  let w := codeGet s r
  let keep (s : State) : State :=
    let y := scrubOf s x
    setScrub s x { y with fix := some (n, ((y.fix.map (·.2)).getD []) ++ [(k, w.1, w.2)]) }
  if !scrubbed s r then s
  else match codeCheck r w.1 w.2 with
    | .clean _ => s
    | .marker => s
    | .poison => s
    | .corrected d y raw => keep (scrubReport s r (.corrected d y raw))
    | .bad y raw => keep (raiseFaultO (scrubReport s r (.bad y raw)) (codeOwner s r) (scrubFault r (.bad y raw)))

/-- A scrubber reads the codewords of its next visit at time t; one that has no more in this lap asks whether the lap has ended. -/
def scrubVisit (s : State) (x : Scrubber) (t : Nat) : State :=
  let n := (scrubOf s x).pos
  if lapLength (scrubPlace x).2 ≤ n then closeLap s (scrubUnit x)
  else endVisit ((codesAt s x n).zipIdx.foldl (fun s r => scrubFinding s x n r.1 r.2) s) x t

/-- SCRUB_READ, R416 to R418: the scrubber's next row, sector or line, in a cycle that R416 gives it. A correction that waits takes such
a cycle first. -/
def execScrubRead (cycle : ScrubCycle) (s : State) : Result :=
  let x := cycle.scrubber
  match scrubTime s x cycle.j.val with
  | some t => onlyIf (scrubOn s (scrubUnit x) && (scrubOf s x).fix.isNone) s (scrubVisit s x t)
  | none => .next s

/-- Correct or poison codeword k of visit n, which the scrub read as these data and check bits: nothing where a write has reached it
since. -/
def scrubMend (s : State) (x : Scrubber) (n : Nat) (f : Nat × Nat × Nat) : State :=
  match (codesAt s x n)[f.1]? with
  | some r =>
    if scrubbed s r && codeGet s r = f.2 then
      match codeCheck r f.2.1 f.2.2 with
      | .corrected e _ _ => codePut s r e (codeEncode r e)
      | _ => codePut s r (codePoison r).1 (codePoison r).2
    else s
  | none => s

/-- SCRUB_WRITE_BACK, R417: in the next cycle that R416 gives the scrubber. -/
def execScrubWriteBack (cycle : ScrubCycle) (s : State) : Result :=
  let x := cycle.scrubber
  match (scrubOf s x).fix, scrubTime s x cycle.j.val with
  | some (n, l), some t =>
    let s' := l.foldl (fun s f => scrubMend s x n f) s
    onlyIf (scrubOn s (scrubUnit x)) s (setScrub s' x { scrubOf s' x with fix := none, usedAt := some t })
  | _, _ => .next s

/-- At the beat boundary at which raw mode begins, every scrub write-back that waits is discarded (R454, note 26). -/
def pauseScrubs (s : State) : State :=
  if rawMode s && s.errLog.rawFrom = now s then
    { s with collectors := s.collectors.map fun c =>
        (c.1, { c.2 with scrubs := c.2.scrubs.map fun x => (x.1, { x.2 with fix := none }) }) }
  else s

/-- SCRUB_LAP_LATE, R418: 86,400 s after the lap began. -/
def execScrubLapLate (unit : ScrubUnit) (s : State) : Result :=
  let c := colOf s (lapOf unit).1
  onlyIf (live s && (lapNow s unit).began.map (· + 86400 * 250000000) = some (now s)) s
    (setCol s (lapOf unit).1 { c with scrubLate := true, setAt := put c.setAt 1 (now s) })

/-! ### Reports (R21, R410, R420, R477) -/

/-- The uncorrectable codeword of m data bits and r check bits that a report tells of (R408, R409). -/
def toldCode (m r : Nat) (rep : Report) : Nat × Nat :=
  let w := hammingPlant r (rep.syndrome.toNat % 2 ^ r)
  if rep.cls = 3 then (0, 2 ^ r - 1) else if rep.synd = 2 || (hammingRead m r w.1 w.2).data?.isSome then (2 ^ m - 1, 0) else w

def toldWord (r : Report) : Nat × Nat := toldCode 32 7 r

/-- The register, tile or instruction word that a report from outside names holds the codeword that it tells of: what reads it meets it
(R410). -/
def plantWord (s : State) (stack : Nat) (r : Report) : State :=
  let unit := r.source.toNat % 4096
  let k := bits r.loc.toNat 8 15 / 4
  match coreAtSite s (((16 * stack + unit / 10) * 10 + unit % 10) * 100 + bits r.loc.toNat 0 7) with
  | none => s
  | some id =>
    match find s.cores id with
    | none => s
    | some c =>
      match r.mem.toNat with
      | 1 => setCore s id { c with active := c.active.map fun t =>
          if t.2.index = Config.registerTour r.loc % 64 then (t.1, { t.2 with bad := put t.2.bad k (toldWord r) }) else t }
      | 2 =>
        let t := tileOf c (k / 256)
        setCore s id { c with tiles := put c.tiles (k / 256) { t with bad := put t.bad (k % 256) (toldWord r) } }
      | 3 => setCore s id { c with codeBad := put c.codeBad k (toldWord r) }
      | _ => s

/-- A step store word that a report from outside names: the copy of the image that lies there holds the codeword (R407, R410). -/
def plantStep (s : State) (stack : Nat) (r : Report) : State :=
  match stepHolder s stack (bits r.loc.toNat 0 23) with
  | none => s
  | some (p, h, i) => mapPart s p fun x => match find x.bound h with
      | some t => { x with bound := put x.bound h { t with bad := put t.bad (2 ^ 20 * stack + i / 8) (toldCode 64 8 r) } }
      | none => x

/-- An engine-buffer word that a report from outside names: a read of the descriptor that holds it has returned uncorrectable data (R302,
R410). -/
def plantFlit (s : State) (e : Nat) (r : Report) : State :=
  let x := bits r.loc.toNat 0 4
  let i := Config.bufferFlit r.loc
  match find (engOf s e).ctx x with
  | none => s
  | some c =>
    let c' := { c with bad := put c.bad (8 * i + bits r.loc.toNat 4 3) (toldCode 64 8 r), poisoned := true }
    if c.abandoned.isSome then s
    else if c.poisoned then setCtx s e x c'
    else poisonRead' (setCtx s e x c') e x c' (some (r.source.toNat, r.cls.toNat, r.synd.toNat, e / 6))

/-- What a report that the surroundings supply does beside its collection, where it tells of an uncorrectable or unwritten word, a failed
channel word or a strict-dead refusal: a word that instructions or a descriptor read holds the codeword, and so does a step store word;
the owner of any other location, and of a step store word, takes a job fault (R21, R410, R477). -/
def softFault (s : State) (stack : Nat) (r : Report) : State :=
  let src := r.source.toNat
  let cls := r.cls.toNat
  if !(2 ≤ cls && cls ≤ 5) then s
  else if src / 4096 = 1 && cls ≤ 3 && 1 ≤ r.mem.toNat && r.mem.toNat ≤ 3 then plantWord s stack r
  else if src / 4096 = 5 && r.mem = 13 then plantFlit s (6 * stack + src % 4096 % 6) r
  else
    let s := if src / 4096 = 7 && r.mem = 10 && cls ≤ 3 then plantStep s stack r else s
    raiseFaultO s (locOwner s stack r) ⟨src / 4096, cls, stack, src % 4096, some (src, cls, r.synd.toNat, stack)⟩

/-- Each collector of a lower stack has taken its reports of the beat (R420). -/
def lowerTaken (s : State) (stack : Nat) : Bool := (List.range stack).all fun k => (colOf s k).queue.isEmpty

/-- COLLECTOR_REPORT, R420: the beat's next report, in the order of R420 within the collector and in ascending stack across collectors; or
the surroundings report an error, and the report waits for its turn. -/
def execCollectorReport (stack : Fin 8) (soft : Option Report) (s : State) : Result :=
  let c := colOf s stack.val
  match soft with
  | some r => onlyIf (live s) s (softFault (report s stack.val r) stack.val r)
  | none =>
    match nextReport c.queue with
    | some h =>
      onlyIf (live s && lowerTaken s stack.val) s (collect (setCol s stack.val { c with queue := c.queue.erase h }) stack.val h)
    | none => .next s

end Sys2Proof.Machine
end

