-- ==== Sys2Proof/Machine/Registers.lean ====
section
/-! DEFINITION. Register space: the map of R313 and R314, what every register reads as, and what a write does (R9 to R13, R351,
R450, R462, R464). -/

namespace Sys2Proof.Machine

/-! ### The map (R313, R314, R464) -/

/-- A block of register space. -/
inductive RegBlock where
  | none | cur | seqModule | gmap | pwr | thm | clk | errLog
  | hp (port : Nat)
  | mailbox (chan : Nat)
  | doorbell (port : Nat)
  | msix (port : Nat)
  | pba (port : Nat)
  | seq (part : Nat)
  | vc (part : Nat)
  | rgs (part : Nat)
  | pwrPart (part : Nat)
  | wing (w : Nat)
  | cabinet (cab : Nat)
  | slice (i : Nat)
  | engine (e : Nat)
  | vault (v : Nat)
  | collector (stack : Nat)
deriving DecidableEq, Repr

/-- A block and an offset in it. -/
abbrev RegRef := RegBlock × Nat

/-- The port-local region of a port. -/
def portLocal (p o : Nat) : RegRef :=
  if o < 0x2000 then (.hp p, o - 0x1000)
  else if o < 0x10000 then (.none, 0)
  else if o < 0x14000 then (.mailbox (4 * p + (o - 0x10000) / 0x1000), o % 0x1000)
  else if o < 0x20000 then (.none, 0)
  else if o < 0x40000 then (.doorbell p, o - 0x20000)
  else if o < 0x48000 then (.msix p, o - 0x40000)
  else if o < 0x48100 then (.pba p, o - 0x48000)
  else (.none, 0)

/-- The blocks of a stack. The block of a cabinet that the wing's floor plan lacks is not there. -/
def stackBlock (s : State) (st q : Nat) : RegRef :=
  if q < 0x10000 then (.wing (16 * st + q / 0x1000), q % 0x1000)
  else if q < 0x110000 then
    let i := (q - 0x10000) / 0x1000
    let w := 16 * st + i / 16
    if i % 16 < logicalCabs s w then (.cabinet (9 * w + i % 16), q % 0x1000) else (.none, 0)
  else if 0x200000 ≤ q ∧ q < 0x204000 then (.slice (64 * st + (q - 0x200000) / 0x100), q % 0x100)
  else if 0x210000 ≤ q ∧ q < 0x210600 then (.engine (6 * st + (q - 0x210000) / 0x100), q % 0x100)
  else if 0x220000 ≤ q ∧ q < 0x222000 then (.vault (2 * st + (q - 0x220000) / 0x1000), q % 0x1000)
  else if 0x230000 ≤ q ∧ q < 0x231000 then (.collector st, q % 0x1000)
  else (.none, 0)

/-- The blocks that no port owns. -/
def sharedBlock (s : State) (o : Nat) : RegRef :=
  if o < 0x1000 then (.cur, o)
  else if o < 0x100000 then (.none, 0)
  else if o < 0x101000 then (.seqModule, o % 0x1000)
  else if o < 0x109000 then (.seq (o / 0x1000 - 0x101), o % 0x1000)
  else if 0x110000 ≤ o ∧ o < 0x118000 then (.vc (o / 0x1000 - 0x110), o % 0x1000)
  else if 0x120000 ≤ o ∧ o < 0x121000 then (.gmap, o % 0x1000)
  else if 0x130000 ≤ o ∧ o < 0x138000 then (.rgs (o / 0x1000 - 0x130), o % 0x1000)
  else if 0x140000 ≤ o ∧ o < 0x141000 then (.pwr, o % 0x1000)
  else if 0x141000 ≤ o ∧ o < 0x149000 then (.pwrPart (o / 0x1000 - 0x141), o % 0x1000)
  else if 0x150000 ≤ o ∧ o < 0x151000 then (.thm, o % 0x1000)
  else if 0x160000 ≤ o ∧ o < 0x161000 then (.clk, o % 0x1000)
  else if 0x170000 ≤ o ∧ o < 0x171000 then (.errLog, o % 0x1000)
  else if 0x1000000 ≤ o ∧ o < 0x3000000 then stackBlock s ((o - 0x1000000) / 0x400000) (o % 0x400000)
  else (.none, 0)

/-- What a requester's access at an offset reaches (R313, R450, R464). -/
def reach (s : State) (who : Requester) (o : Nat) : RegRef :=
  match who with
  | .port p =>
    if 0x1000 ≤ o ∧ o < 0x50000 then portLocal p.val o
    else if s.boot.deaccessioned ∧ 0x1000 ≤ o then (.none, 0)
    else sharedBlock s o
  | .sideband =>
    if o < 0x1000 then (.cur, o)
    else if 0x10000 ≤ o ∧ o < 0x11000 then (.mailbox 32, o % 0x1000)
    else if 0x140000 ≤ o ∧ o < 0x190000 then sharedBlock s o
    else (.none, 0)
  | .curator =>
    if 0x3800000 ≤ o then
      let q := (o - 0x3800000) % 0x100000
      if 0x1000 ≤ q ∧ q < 0x50000 then portLocal ((o - 0x3800000) / 0x100000 % 8) q else (.none, 0)
    else sharedBlock s o

/-- A register that shows the setting of a mode stays readable in the deaccessioned state (R452, R453). -/
def modeSetting : RegRef → Bool
  | (.vc _, o) => o = 0
  | (.seq _, o) => o = 0x008 || o = 0x010
  | (.errLog, o) => o = 0x020
  | (.vault _, o) => o = 0x004 || o = 0x008 || (0x010 ≤ o && o < 0x020)
  | (.thm, o) => o = 0x00C
  | _ => false

/-- What a read reaches. -/
def reachRead (s : State) (who : Requester) (o : Nat) : RegRef :=
  match who with
  | .port _ =>
    if s.boot.deaccessioned ∧ 0x50000 ≤ o ∧ modeSetting (sharedBlock s o) then sharedBlock s o else reach s who o
  | _ => reach s who o

/-- The requester can reach registers: a host port's domain must be out of reset. -/
def regAccess (s : State) (who : Requester) : Bool :=
  live s && match who with
    | .port p => !inDomainReset s 1 p.val
    | _ => true

def requesterKey : Requester → Nat
  | .port p => p.val
  | .sideband => 8
  | .curator => 9

/-! ### What registers read as -/

/-- The 64-bit quantity whose low half lies at an offset (R9). -/
def pairValue (s : State) : RegRef → Option Nat
  | (.seqModule, 0) => some (now s)
  | (.hp p, o) =>
    let x := portOf s p
    match o with
    | 0x008 => some x.bar2Base.toNat
    | 0x010 => some s.curator.epoch.toNat
    | 0x020 => some x.bar2Rd.toNat
    | 0x028 => some x.bar2Wr.toNat
    | 0x030 => some x.slotWait.toNat
    | 0x038 => some x.reclaimed.toNat
    | _ => none
  | (.seq p, o) =>
    let x := partOf s p
    match o with
    | 0x020 => some x.steps.toNat
    | 0x028 => some x.budgetWait.toNat
    | 0x030 => some x.slip.toNat
    | 0x038 => some x.overrun.toNat
    | _ => none
  | (.pwrPart p, o) =>
    let x := partOf s p
    match o with
    | 0x010 => some (x.inBalance.emod (2 ^ 64)).toNat
    | 0x020 => some ((balanceOf x x.acctSel.toNat).emod (2 ^ 64)).toNat
    | 0x028 => some x.metered.toNat
    | _ => none
  | (.engine e, 0x010) => some (engOf s e).flits.toNat
  | (.errLog, 0x028) => some s.errLog.rawLoc.toNat
  | _ => none

/-- Bit string of the flags that a predicate gives for 32 consecutive numbers. -/
def flagWord (f : Nat → Bool) (base : Nat) : Nat :=
  (List.range 32).foldl (fun n i => n + b2n (f (base + i)) * 2 ^ i) 0

/-- CUR block (R23 to R27, R346, R429 to R448, R461). -/
def readCur (s : State) (o : Nat) : Nat :=
  let b := s.boot
  if o < 0x40 then capWord s (o / 4)
  else match o with
    | 0x040 => b2n b.valid + 2 * b2n b.tripped + 4 * b2n b.deaccessioned + 8 * b2n (b.legacy && b.valid)
    | 0x080 => b.stage.toNat + 2 ^ 4 * b.slotRun.toNat + 2 ^ 6 * b2n b.failA + 2 ^ 7 * b2n b.failB + 2 ^ 8 * b.check.toNat
    | 0x084 => b.failKind.toNat + 2 ^ 4 * b.failIndex.toNat + 2 ^ 16 * b.failStage.toNat
    | 0x088 => b.trainFull.toNat + 2 ^ 16 * b2n b.trainSaved
    | 0x090 => bits b.shrunk.toNat 0 32
    | 0x094 => bits b.shrunk.toNat 32 32
    | 0x098 => bits b.shrunk.toNat 64 32
    | 0x09C => bits b.shrunk.toNat 96 32
    | 0x0A0 => s.esc.escCount.toNat
    | 0x0A4 => s.esc.lastKind.toNat + 2 ^ 8 * s.esc.lastIndex.toNat + 2 ^ 16 * s.esc.lastCause.toNat
    | 0x0A8 => s.esc.total.toNat
    | 0x0B0 => (alertWord s).toNat
    | 0x0B4 => b.alertMask.toNat
    | 0x0C0 => if b.stage = 0xE then
        4 * b2n b.recBusy.isSome + 8 * b2n b.recPassed + 16 * b2n b.recFailed + 2 ^ 8 * b.recCheck.toNat else 0
    | 0x0C4 => if b.stage = 0xE then b.recOffset.toNat else 0
    | 0x0CC => if b.stage = 0xE then b.recBytes.toNat else 0
    | _ => 0

def chanCode : ChanState → Nat
  | .idle => 0 | .queued => 1 | .running => 2 | .done => 3

/-- Words of a mailbox block that the layout in force has (R345). -/
def mailboxWords (s : State) : Nat := if s.boot.legacy then 16 else 64

/-- Mailbox channel block (R340 to R342). -/
def readMailbox (s : State) (n o : Nat) : Nat :=
  let c := chanBlock s n
  if o < 0x100 then (if o / 4 < mailboxWords s then (look c.cmd (o / 4) 0).toNat else 0)
  else if o < 0x200 then (if (o - 0x100) / 4 < mailboxWords s then (look c.rsp ((o - 0x100) / 4) 0).toNat else 0)
  else if o = 0x200 then 2 ^ 16 * b2n c.irqEn + 2 ^ 17 * c.vector.toNat
  else if o = 0x204 then chanCode c.state + 4 * b2n c.goIgnored
  else 0

/-- HP block. -/
def readHp (s : State) (p o : Nat) : Nat :=
  let x := portOf s p
  match o with
  | 0x000 => x.status.toNat + 2 ^ 5 * (ownerOfPort s p).getD 0 + 2 ^ 8 * b2n (ownerOfPort s p).isSome
  | 0x004 => x.rate.toNat + 2 ^ 3 * x.width.toNat + 2 ^ 8 * b2n x.flit
  | 0x040 => x.refused.toNat
  | 0x044 => x.dbDropped.toNat
  | _ => 0

/-- SEQ partition block. -/
def readSeq (s : State) (p o : Nat) : Nat :=
  let x := partOf s p
  let exec := x.run.bind (·.exec)
  let next := x.run.bind (·.next)
  match o with
  | 0x000 => x.runState.code + 2 ^ 4 * ((exec.map (·.tier)).getD 0) + 2 ^ 6 * b2n (exec.isSome && next.isSome)
      + 2 ^ 7 * (if x.run.isSome then x.handle else 0) + 2 ^ 16 * (x.bound.foldl (fun n b => n + 2 ^ b.1) 0)
  | 0x004 => x.stepIndex.toNat
  | 0x008 => x.capHost.toNat + 2 ^ 4 * x.capThermal.toNat + 2 ^ 8 * max x.capHost.toNat x.capThermal.toNat
  | 0x00C => x.lanes.toNat
  | 0x010 => x.svc.toNat
  | 0x014 => x.waitEvt.toNat
  | 0x040 => look x.tierCount 0 0
  | 0x044 => look x.tierCount 1 0
  | 0x048 => look x.tierCount 2 0
  | 0x04C => look x.tierCount 3 0
  | 0x050 => x.seqStatus.toNat
  | _ => 0

/-- VC_CTL as it reads: with LEGACY_SEL high, COMPRESSION and STREAM_BYPASS read 0. -/
def vcCtlRead (s : State) (p : Nat) : Nat :=
  if s.boot.legacy then (partOf s p).vcCtl.toNat / 4 * 4 else (partOf s p).vcCtl.toNat

/-- RGS partition block. -/
def readRgs (s : State) (p o : Nat) : Nat :=
  let x := partOf s p
  match o with
  | 0x000 => x.job.toNat + 2 ^ 16 * b2n x.held
  | 0x004 => x.rgsLost.toNat
  | 0x008 => x.ports.toNat
  | 0x00C => x.slots.toNat
  | 0x010 => bits x.wings.toNat 0 32
  | 0x014 => bits x.wings.toNat 32 32
  | 0x018 => bits x.wings.toNat 64 32
  | 0x01C => bits x.wings.toNat 96 32
  | _ => 0

/-- PWR module block (R368 to R386). -/
def readPwr (s : State) (o : Nat) : Nat :=
  let w := s.power
  let rail := w.railSel.toNat
  if 0x010 ≤ o ∧ o ≤ 0x028 then bits w.railFault.toNat (8 * (o - 0x010)) 32
  else if 0x100 ≤ o ∧ o ≤ 0x2A0 then
    let i := (o - 0x100) / 4
    (look w.currents (2 * i) 0).toNat + 2 ^ 16 * (look w.currents (2 * i + 1) 0).toNat
  else match o with
    | 0x000 => b2n w.railFaultFlag + 2 * b2n w.guard + 4 * b2n w.guardHit
    | 0x004 => w.volts.toNat + 2 ^ 16 * w.amps.toNat
    | 0x008 => w.inputLimit
    | 0x00C => w.curSeq.toNat
    | 0x030 => rail
    | 0x034 => if rail < 210 then allowedMw s rail else 0
    | _ => 0

/-- PWR partition block. -/
def readPwrPart (s : State) (p o : Nat) : Nat :=
  let x := partOf s p
  match o with
  | 0x000 => x.share
  | 0x004 => x.pStatus.toNat
  | 0x008 => inputFill s x
  | 0x018 => x.acctSel.toNat
  | 0x01C => railFill s x x.acctSel.toNat
  | 0x030 => x.missRail.toNat + 2 ^ 8 * b2n x.missInput
  | _ => 0

def episodeCode : Episode → Nat
  | .normal => 0 | .grace => 1 | .enforcing => 2

def signed12 (x : Int) : Nat := (x.emod 4096).toNat

/-- THM block (R388 to R406). -/
def readThm (s : State) (o : Nat) : Nat :=
  let t := s.thermal
  let r := t.regionSel.toNat
  let x := regionOf s r
  if 0x020 ≤ o ∧ o ≤ 0x03C then (look t.cycles ((o - 0x020) / 4) {}).count % 2 ^ 32
  else match o with
    | 0x000 => b2n t.calDefault + 2 * b2n t.sensorFlag + 4 * b2n t.modelLowFlag + 8 * b2n t.coolantBroken
        + 16 * b2n t.cyclesRated + 32 * b2n (t.regions.any fun r => r.2.episode = .enforcing)
    | 0x004 => r
    | 0x008 => if r < 528 then signed12 x.model + 2 ^ 12 * x.sensor.toNat else 0
    | 0x00C => if r < 528 then
        signed12 x.eff + 2 ^ 12 * b2n x.suspect + 2 ^ 13 * b2n x.broken + 2 ^ 14 * b2n x.modelLow
          + 2 ^ 15 * episodeCode x.episode + 2 ^ 17 * (if x.episode = .enforcing then x.cap else 0)
        else 0
    | 0x010 => t.coolant.toNat
    | 0x014 => t.grace.toNat
    | 0x018 => s.boot.tripRegion.toNat + 2 ^ 10 * b2n s.boot.tripped
    | _ => 0

def wingClockCode (w : Wing) : Nat :=
  match w.clock with
  | .off => 0 | .stopped => 1 | .running => 2 | .changing => 3

/-- CLK block (R376 to R378). -/
def readClk (s : State) (o : Nat) : Nat :=
  if 0x100 ≤ o ∧ o ≤ 0x2FC then
    let w := wingOf s ((o - 0x100) / 4)
    wingClockCode w + 2 ^ 2 * (if clockRuns w then w.k else 0) + 2 ^ 5 * (if w.clock = .changing then w.kNext else 0)
  else match o with
    | 0x000 => b2n (!s.sup.pllOut)
    | 0x004 => s.boot.clkCause.toNat
    | 0x008 => s.boot.ratioChanges
    | _ => 0

/-- Words FIRST0, FIRST1 and FIRST_BEAT of a source's report, and those of its last. -/
def reportWord (r : Option (Report × Nat)) (i : Nat) : Nat :=
  match r with
  | none => 0
  | some (r, b) =>
    match i with
    | 0 => bits r.loc.toNat 0 32
    | 1 => bits r.loc.toNat 32 16 + 2 ^ 16 * r.cls.toNat + 2 ^ 20 * r.synd.toNat + 2 ^ 24 * r.mem.toNat
    | _ => b % 2 ^ 32

/-- ERR collector block (R418, R420 to R422). -/
def readCollector (s : State) (st o : Nat) : Nat :=
  let c := colOf s st
  if 0x030 ≤ o ∧ o ≤ 0x03C then
    let l := look c.laps ((o - 0x030) / 4) {}
    l.ms.toNat + 2 ^ 16 * l.laps.toNat
  else if 0x008 ≤ o ∧ o ≤ 0x010 then reportWord c.view.first ((o - 0x008) / 4)
  else if 0x014 ≤ o ∧ o ≤ 0x01C then reportWord c.view.last ((o - 0x014) / 4)
  else match o with
    | 0x000 => b2n c.overflow + 2 * b2n c.scrubLate + 4 * c.entries.length
    | 0x004 => c.sel.toNat
    | 0x020 => c.view.lost.toNat
    | _ => 0

/-- ERR log block (R413 to R415, R423, R425). -/
def readErrLog (s : State) (o : Nat) : Nat :=
  let l := s.errLog
  if 0x030 ≤ o ∧ o ≤ 0x04C then (look l.rawData ((o - 0x030) / 4) 0).toNat
  else if 0x064 ≤ o ∧ o ≤ 0x080 then
    match s.flash.retire[l.retSel.toNat]? with
    | some r => recWord r ((o - 0x064) / 4)
    | none => 0
  else match o with
    | 0x000 => b2n l.overflow + 2 * b2n l.retireFull
    | 0x004 => l.head.toNat
    | 0x008 => l.tail.toNat
    | 0x00C => s.flash.retire.length
    | 0x010 => l.selfTest.toNat
    | 0x020 => 2 * b2n l.rawWrite + 4 * l.rawTarget.toNat + 16 * b2n l.rawEnable
    | 0x024 => b2n l.rawDone + 2 * b2n l.rawRefused
    | 0x050 => l.rawCheck.toNat
    | 0x060 => l.retSel.toNat
    | _ => 0

def domCode2 (d : Dom) : Nat :=
  match d.state with
  | .off => 0 | .waking => 1 | .on => 2

/-- WNG block (R66 to R69, R190). -/
def readWing (s : State) (w o : Nat) : Nat :=
  let x := wingOf s w
  let cab (i : Nat) : Nat := (x.map[i]?).getD 0xF
  match o with
  | 0x000 => (List.range 8).foldl (fun n i => n + cab i * 2 ^ (4 * i)) 0
  | 0x004 => cab 8 + 2 ^ 4 * x.map.length + 2 ^ 8 * x.retired.toNat
  | 0x010 => domCode2 (domOf s .bankGroup (2 * w)) + 4 * domCode2 (domOf s .bankGroup (2 * w + 1))
  | _ => 0

/-- First physical core site of a logical cabinet. -/
def firstSite (s : State) (cab : Nat) : Nat := (cab / 9 * 10 + cabSiteOf s cab) * 100

/-- Largest number of spare rows in use in a bank of a site. -/
def rowsUsedMax (s : State) (site : Nat) : Nat :=
  (List.range 14).foldl (fun m b => max m (s.rowMap.filter fun r => r.1 / 2064 = 14 * site + b).length) 0

/-- SHF_SITE_INFO. -/
def siteInfo (s : State) (site : Nat) : Nat :=
  let c := chanOf s site
  let age := match c.checkedAt with
    | some b => min ((now s - b) / 250000) 0xFFFF
    | none => 0xFFFF
  c.spareGa + 2 ^ 4 * c.spareUl + 2 ^ 8 * rowsUsedMax s site + 2 ^ 13 * b2n c.failed + 2 ^ 14 * b2n (s.boot.trained && !c.untrained)
    + 2 ^ 15 * b2n c.retired + 2 ^ 16 * age

/-- CAB and SHF registers (R67, R102, R105, R190 to R211). -/
def readCabinet (s : State) (cab o : Nat) : Nat :=
  let c := cabOf s cab
  let site (k : Nat) : Nat := match c.map with | some l => (l[k]?).getD k | none => k
  let at_ (k : Nat) (f : Channel → Bool) : Bool := k < 100 && f (chanOf s (firstSite s cab + k))
  if o < 0x060 then (List.range 4).foldl (fun n i => n + site (o + i) * 2 ^ (8 * i)) 0
  else if o < 0x070 then flagWord (fun k => at_ k (·.retired)) (8 * (o - 0x060))
  else if 0x120 ≤ o ∧ o ≤ 0x12C then flagWord (fun k => at_ k (·.failed)) (8 * (o - 0x120))
  else if 0x130 ≤ o ∧ o ≤ 0x138 then bits c.remapped.toNat (8 * (o - 0x130)) 32
  else match o with
    | 0x070 => b2n c.busy + 2 * b2n c.faultSet
    | 0x074 => c.launchWait.toNat
    | 0x078 => c.fault0.toNat
    | 0x07C => c.fault1.toNat
    | 0x100 => c.status.toNat
    | 0x104 => c.rmwCount.toNat
    | 0x108 => c.crcCount.toNat
    | 0x10C => c.retainWait.toNat
    | 0x110 => c.siteSel.toNat
    | 0x114 => if c.siteSel.toNat < 100 then siteInfo s (firstSite s cab + c.siteSel.toNat) else 0
    | _ => 0

/-- VC slice block. -/
def readSlice (s : State) (i o : Nat) : Nat :=
  let x := sliceOf s i
  match o with
  | 0x000 => x.status.toNat
  | 0x004 => x.deadReads.toNat
  | 0x008 => x.wbMerges.toNat
  | 0x00C => x.pairSplits.toNat
  | 0x010 => x.bypassMisses.toNat
  | 0x014 => x.wbWait.toNat
  | 0x018 => x.wakeWait.toNat
  | _ => 0

/-- Engine block. -/
def readEngine (s : State) (e o : Nat) : Nat :=
  let g := engOf s e
  let busy (u : Nat) : Bool := (find g.ctx u).isSome
  match o with
  | 0x000 => b2n (busy 8) + (List.range 8).foldl (fun n u => n + b2n (busy u) * 2 ^ (1 + u)) 0 + 2 ^ 9 * g.status.toNat
  | 0x004 => g.cause.toNat + 2 ^ 8 * g.causeCtx.toNat + 2 ^ 16 * g.causeTag.toNat
  | 0x008 => g.schedWait.toNat
  | 0x00C => g.wakeWait.toNat
  | 0x018 => g.descs.toNat
  | 0x01C => g.hostWait.toNat
  | _ => 0

/-- VMC block of a vault. -/
def readVault (s : State) (v o : Nat) : Nat :=
  let x := vaultOf s v
  let shared (P : Nat) : Bool := match pinnedAt s P with | some g => g.2.shared | none => false
  match o with
  | 0x000 => x.status.toNat
  | 0x004 => x.mult
  | 0x008 => x.pace.toNat
  | 0x00C => x.clashWait.toNat
  | 0x010 => flagWord (fun P => (pchOf s P).nbMode) (64 * v)
  | 0x014 => flagWord (fun P => (pchOf s P).nbMode) (64 * v + 32)
  | 0x018 => flagWord shared (64 * v)
  | 0x01C => flagWord shared (64 * v + 32)
  | _ => 0

/-- VMC_GMAP. -/
def readGmap (s : State) (g : Nat) : Nat :=
  match find s.granules g with
  | none => 0
  | some x =>
    let kind := match x.kind with
      | .interleaved => 1 + 2 ^ 13 * b2n x.half + 2 ^ 14 * x.rank
      | .pinned => 2 + 4 * b2n x.shared + 2 ^ 3 * x.pch
    kind + 2 ^ 23 * x.part + 2 ^ 26

/-- What bring-up finds and builds, as registers show it before boot. -/
def preBoot (s : State) : State :=
  { s with wings := [], cabinets := [], channels := [], rowMap := []
           errLog := { s.errLog with selfTest := 0, tail := 0, overflow := false, retireFull := false }
           boot := { s.boot with trainFull := 0, trainSaved := false, shrunk := 0 } }

/-- The state whose values registers show: until VALID is set, that before boot, but for CUR_BOOT and the recovery registers (R465). -/
def shown (s : State) : State := if s.boot.valid then s else preBoot s

/-- Present value of the register at an offset, 0 where no block defines one (R313). -/
def regPresent (s : State) (r : RegRef) : Nat :=
  if r.2 % 4 ≠ 0 then 0
  else match pairValue s r with
  | some v => v % 2 ^ 32
  | none => match (if 4 ≤ r.2 then pairValue s (r.1, r.2 - 4) else none) with
    | some v => v / 2 ^ 32 % 2 ^ 32
    | none => match r.1 with
      | .none => 0
      | .cur => readCur s r.2
      | .seqModule => 0
      | .gmap => readGmap s (r.2 / 4)
      | .pwr => readPwr s r.2
      | .thm => readThm s r.2
      | .clk => readClk s r.2
      | .errLog => readErrLog s r.2
      | .hp p => readHp s p r.2
      | .mailbox n => readMailbox s n r.2
      | .doorbell _ => 0
      | .msix p => (look (portOf s p).msix (r.2 / 4) (if r.2 / 4 % 4 = 3 then 1 else 0)).toNat
      | .pba p => flagWord (fun v => v ∈ (portOf s p).pba) (8 * r.2)
      | .seq p => readSeq s p r.2
      | .vc p => if r.2 = 0 then vcCtlRead s p else if r.2 = 4 then (partOf s p).ways.toNat else 0
      | .rgs p => readRgs s p r.2
      | .pwrPart p => readPwrPart s p r.2
      | .wing w => readWing s w r.2
      | .cabinet c => readCabinet s c r.2
      | .slice i => readSlice s i r.2
      | .engine e => readEngine s e r.2
      | .vault v => readVault s v r.2
      | .collector st => readCollector s st r.2

/-- The value that a register shows (R465). -/
def regValue (s : State) (r : RegRef) : Nat := regPresent (shown s) r

/-! ### The halves of a 64-bit register (R9) -/

def halvesOf (s : State) (who : Requester) : Halves := look s.halves (requesterKey who) {}
def setHalves (s : State) (who : Requester) (h : Halves) : State := { s with halves := put s.halves (requesterKey who) h }

/-- A read: the value, and the latch it sets or uses. The latch of a register is keyed by the offset of its low half. -/
def regRead (s : State) (who : Requester) (o : Nat) : Nat × State :=
  let r := reachRead s who o
  let h := halvesOf s who
  match pairValue s r with
  | some v => (v % 2 ^ 32, setHalves s who { h with latched := put h.latched o (BitVec.ofNat 32 (v / 2 ^ 32)) })
  | none =>
    match (if 4 ≤ o ∧ 4 ≤ r.2 then pairValue s (r.1, r.2 - 4) else none), find h.latched (o - 4) with
    | some _, some v => (v.toNat, setHalves s who { h with latched := drop h.latched (o - 4) })
    | _, _ => (regValue s r, s)

/-! ### What writes do (R10 to R13) -/

/-- Bits that a write's byte enables select. -/
def enabledBits (be : BitVec 4) : Word :=
  BitVec.ofNat 32 ((List.range 4).foldl (fun n i => n + (if be.getLsbD i then 255 * 2 ^ (8 * i) else 0)) 0)

/-- A field of type RW after a write: the bits in `field` that the write selects change. -/
def rwField {w : Nat} (old : BitVec w) (lo : Nat) (mask value : Word) : BitVec w :=
  let m := (mask >>> lo).setWidth w
  (old &&& ~~~ m) ||| ((value >>> lo).setWidth w &&& m)

/-- The epoch moves where a write changed the value (R351). -/
def epochIf (changed : Bool) (s : State) : State := if changed then moveEpoch s else s

/-- The partition's RWL fields are locked (R12). -/
def locked (s : State) (p : Nat) : Bool := (partOf s p).state = .committed

/-- SEQ_LANES: accepted only before commitment and without overlap (R34). -/
def writeLanes (s : State) (p : Nat) (mask value : Word) : State :=
  let x := partOf s p
  let v : BitVec 8 := rwField x.lanes 0 mask value
  if locked s p || clashes s p 0 v 0 0 0 then s else epochIf (v ≠ x.lanes) (setPart s p { x with lanes := v })

/-- VC_WAYS: as SEQ_LANES (R218). -/
def writeWays (s : State) (p : Nat) (mask value : Word) : State :=
  let x := partOf s p
  let v : BitVec 16 := rwField x.ways 0 mask value
  if locked s p || clashes s p 0 0 v 0 0 then s else epochIf (v ≠ x.ways) (setPart s p { x with ways := v })

/-- SEQ_SVC: the opt-ins apply from the next beat (R38). -/
def writeSvc (s : State) (p : Nat) (mask value : Word) : State :=
  let x := partOf s p
  let v : BitVec 2 := rwField x.svc 0 mask value
  epochIf (v ≠ x.svc) (setPart s p { x with svc := v, svcPast := if x.svcFrom ≤ now s then (x.svcFrom, x.svc) :: x.svcPast else x.svcPast, svcFrom := now s + 1 })

/-- SEQ_TIER_CAP.HOST (R56). -/
def writeCapHost (s : State) (p : Nat) (mask value : Word) : State :=
  let x := partOf s p
  let v : BitVec 2 := rwField x.capHost 0 mask value
  epochIf (v ≠ x.capHost) (setPart s p { latchInputs x (now s) with capHost := v })

/-- SEQ_WAIT_EVT (R65). -/
def writeWaitEvt (s : State) (p : Nat) (mask value : Word) : State :=
  let x := partOf s p
  let v : Word := rwField x.waitEvt 0 mask value
  epochIf (v ≠ x.waitEvt) (setPart s p { x with waitEvt := v })

/-- VC_CTL: locked by commitment; with LEGACY_SEL high only STRICT_DEAD takes a write (R12, R241). -/
def writeVcCtl (s : State) (p : Nat) (mask value : Word) : State :=
  let x := partOf s p
  let m := if s.boot.legacy then mask &&& 4 else mask
  let v : BitVec 3 := rwField x.vcCtl 0 m value
  if locked s p then s else epochIf (v ≠ x.vcCtl) (setPart s p { x with vcCtl := v })

/-- PWR_INPUT_LIMIT: clamped, and in force from the next multiple of 250,000 beats (R381). -/
def writeInputLimit (s : State) (mask value : Word) : State :=
  let v : BitVec 16 := rwField (BitVec.ofNat 16 s.power.inputLimit) 0 mask value
  { s with power := { s.power with
      inputLimit := max 2000 (min 8000 v.toNat), limitAt := some (now s)
      limitWas := limitAtStart s.power (now s) } }

/-- SEQ partition block. -/
def writeSeq (s : State) (p o : Nat) (mask value : Word) : State :=
  match o with
  | 0x008 => writeCapHost s p mask value
  | 0x00C => writeLanes s p mask value
  | 0x010 => writeSvc s p mask value
  | 0x014 => writeWaitEvt s p mask value
  | 0x050 => mapPart s p fun x => { x with seqStatus := w1c x.seqStatus 0 (mask &&& value) (setIn x.setAt 0 4 (now s)) }
  | _ => s

/-! ### Recovery registers (R440) -/

/-- The recovery registers answer: STAGE is RECOVERY and no erase or check is in progress. -/
def recoveryIdle (s : State) : Bool := s.boot.stage = 0xE && s.boot.recBusy.isNone

/-- CUR_REC_CTL.ERASE: slot A is erased, with its recorded length. -/
def recoveryErase (s : State) : State :=
  { setSlot s false { bytes := [], len := none } with boot := { s.boot with recBusy := some .erase, recPassed := false, recFailed := false } }

/-- CUR_REC_DATA: four bytes at CUR_REC_OFFSET of slot A. -/
def recoveryData (s : State) (d : Word) : State :=
  let o := s.boot.recOffset.toNat
  let s := setSlot s false (fwWrites (slotOf s false) o (leBytes d.toNat 4))
  { s with boot := { s.boot with recOffset := BitVec.ofNat 24 (o + 4) } }

def recoveryCommit (s : State) : State := { s with boot := { s.boot with recBusy := some .check, recPassed := false, recFailed := false } }

/-- CUR block. Of a write that sets both ERASE and COMMIT, ERASE acts. -/
def writeCur (s : State) (o : Nat) (mask value : Word) : State :=
  let b := s.boot
  let ones := mask &&& value
  match o with
  | 0x0B0 => { s with boot := { b with
        alertRail := w1cBit b.alertRail 2 ones (find b.setAt 2) (now s)
        alertSensor := w1cBit b.alertSensor 4 ones (find b.setAt 4) (now s)
        alertLog := w1cBit b.alertLog 5 ones (find b.setAt 5) (now s) } }
  | 0x0B4 => { s with boot := { b with alertMask := rwField b.alertMask 0 mask value } }
  | 0x0C0 =>
    if !recoveryIdle s then s
    else if ones.getLsbD 0 then recoveryErase s
    else if ones.getLsbD 1 then recoveryCommit s
    else s
  | 0x0C4 => if recoveryIdle s then { s with boot := { b with recOffset := rwField b.recOffset 0 mask value &&& ~~~ 3#24 } } else s
  | 0x0C8 => if recoveryIdle s then recoveryData s ones else s
  | 0x0CC => if recoveryIdle s then { s with boot := { b with recBytes := rwField b.recBytes 0 mask value } } else s
  | _ => s

/-- Mailbox channel block: GO submits after the write's other fields are set (R341). -/
def writeMailbox (s : State) (n o : Nat) (mask value : Word) : State :=
  let c := chanBlock s n
  if o < 0x100 then
    if o / 4 < mailboxWords s then
      let v : Word := rwField (look c.cmd (o / 4) 0) 0 mask value
      setChan s n { c with cmd := if v = 0 then drop c.cmd (o / 4) else put c.cmd (o / 4) v }
    else s
  else if o = 0x200 then
    let s := setChan s n { c with irqEn := if mask.getLsbD 16 then value.getLsbD 16 else c.irqEn,
                                  vector := rwField c.vector 17 mask value }
    if (mask &&& value).getLsbD 0 then submit s n else s
  else if o = 0x204 then setChan s n { c with goIgnored := w1cBit c.goIgnored 2 (mask &&& value) c.ignoredAt (now s) }
  else s

/-- MSI-X table: unmasking a vector sends its pending message. -/
def writeMsix (s : State) (p o : Nat) (mask value : Word) : State :=
  let x := portOf s p
  let i := o / 4
  let v : Word := rwField (look x.msix i (if i % 4 = 3 then 1 else 0)) 0 mask value
  sendPending (setPort s p { x with msix := put x.msix i v }) p

/-- ERR_LOG_HEAD: a value behind HEAD or beyond TAIL is ignored (R423). -/
def writeLogHead (s : State) (mask value : Word) : State :=
  let l := s.errLog
  let v : Word := rwField l.head 0 mask value
  if (v - l.head).toNat ≤ (l.tail - l.head).toNat then setErrLog s { l with head := v } else s

/-- ERR_RAW_DATA and ERR_RAW_CHECK (index 8): a write during an operation waits for its end. -/
def writeRaw (s : State) (i : Nat) (mask value : Word) : State :=
  let l := s.errLog
  let held := (l.rawHeld.filter (·.1 = i)).getLast?
  let old := if i = 8 then l.rawCheck else look l.rawData i 0
  let v : Word := rwField ((held.map (·.2)).getD old) 0 mask value
  if l.rawOp.isSome then setErrLog s { l with rawHeld := l.rawHeld ++ [(i, v)] }
  else setErrLog s (if i = 8 then { l with rawCheck := v } else { l with rawData := put l.rawData i v })

/-- ERR log block. -/
def writeErrLog (s : State) (o : Nat) (mask value : Word) : State :=
  let l := s.errLog
  let ones := mask &&& value
  if 0x030 ≤ o ∧ o ≤ 0x04C then writeRaw s ((o - 0x030) / 4) mask value
  else match o with
    | 0x000 => setErrLog s { l with
        overflow := w1cBit l.overflow 0 ones (find l.setAt 0) (now s)
        retireFull := w1cBit l.retireFull 1 ones (find l.setAt 1) (now s) }
    | 0x004 => writeLogHead s mask value
    | 0x020 => rawControl s mask value
    | 0x024 => setErrLog s { l with
        rawDone := w1cBit l.rawDone 0 ones (find l.setAt 2) (now s)
        rawRefused := w1cBit l.rawRefused 1 ones (find l.setAt 3) (now s) }
    | 0x050 => writeRaw s 8 mask value
    | 0x060 => setErrLog s { l with retSel := rwField l.retSel 0 mask value }
    | _ => s

/-- ERR collector block: a write of SEL latches the source's records (R422). -/
def writeCollector (s : State) (st o : Nat) (mask value : Word) : State :=
  let c := colOf s st
  let ones := mask &&& value
  match o with
  | 0x000 => setCol s st { c with
        overflow := w1cBit c.overflow 0 ones (find c.setAt 0) (now s)
        scrubLate := w1cBit c.scrubLate 1 ones (find c.setAt 1) (now s) }
  | 0x004 =>
    let sel : BitVec 16 := rwField c.sel 0 mask value
    setCol s st { c with sel := sel, view := look c.sources sel.toNat {} }
  | 0x024 => if ones.getLsbD 0 then setCol s st { c with sources := drop c.sources c.sel.toNat, view := {} } else s
  | _ => s

/-- PWR module block. -/
def writePwr (s : State) (o : Nat) (mask value : Word) : State :=
  let w := s.power
  let ones := mask &&& value
  if 0x010 ≤ o ∧ o ≤ 0x028 then
    { s with power := { w with
        railFault := w.railFault &&& ~~~ ((ones.setWidth 224 <<< (8 * (o - 0x010))) &&& ~~~ setIn w.setAt 32 224 (now s)) } }
  else match o with
    | 0x000 => { s with power := { w with
        railFaultFlag := w1cBit w.railFaultFlag 0 ones (find w.setAt 0) (now s)
        guardHit := w1cBit w.guardHit 2 ones (find w.setAt 2) (now s) } }
    | 0x008 => writeInputLimit s mask value
    | 0x030 => { s with power := { w with railSel := rwField w.railSel 0 mask value } }
    | _ => s

/-- THM block. -/
def writeThm (s : State) (o : Nat) (mask value : Word) : State :=
  let t := s.thermal
  let ones := mask &&& value
  match o with
  | 0x000 => { s with thermal := { t with
        sensorFlag := w1cBit t.sensorFlag 1 ones (find t.setAt 1) (now s)
        modelLowFlag := w1cBit t.modelLowFlag 2 ones (find t.setAt 2) (now s) } }
  | 0x004 => { s with thermal := { t with regionSel := rwField t.regionSel 0 mask value } }
  | _ => s

/-- HP_BAR2_BASE after a commit of its halves: bits [35:0] and [63:48] are 0 (R315, R351). -/
def writeBar2Base (s : State) (p : Nat) (v : Nat) : State :=
  let x := portOf s p
  let base := BitVec.ofNat 64 (bits v 36 12 * 2 ^ 36)
  epochIf (base ≠ x.bar2Base) (setPort s p { x with bar2Base := base })

/-- A write commits both halves of a 64-bit register, if it is one that is written (R9). -/
def writePair (s : State) (r : RegRef) (v : Nat) : State :=
  match r with
  | (.hp p, 0x008) => writeBar2Base s p v
  | (.errLog, 0x028) => setErrLog s { s.errLog with rawLoc := BitVec.ofNat 64 v }
  | _ => s

/-- A write to a 32-bit register. -/
def writeReg (s : State) (r : RegRef) (mask value : Word) : State :=
  let ones := mask &&& value
  let o := r.2
  match r.1 with
  | .cur => writeCur s o mask value
  | .pwr => writePwr s o mask value
  | .thm => writeThm s o mask value
  | .errLog => writeErrLog s o mask value
  | .hp p => if o = 0 then mapPort s p fun x => { x with status := w1c x.status 0 ones (setIn x.setAt 0 5 (now s)) } else s
  | .mailbox n => writeMailbox s n o mask value
  | .doorbell p =>
    let be := BitVec.ofNat 4 ((List.range 4).foldl (fun n i => n + b2n (mask.getLsbD (8 * i)) * 2 ^ i) 0)
    doorbell ⟨p % 8, Nat.mod_lt _ (by decide)⟩ ⟨o / 4 % 32768, Nat.mod_lt _ (by decide)⟩ be value s
  | .msix p => writeMsix s p o mask value
  | .seq p => writeSeq s p o mask value
  | .vc p => if o = 0 then writeVcCtl s p mask value else if o = 4 then writeWays s p mask value else s
  | .rgs p => if o = 0 ∧ ones.getLsbD 16 then if owned (partOf s p) && (partOf s p).held then clearHeld s p else s else s
  | .pwrPart p =>
    match o with
    | 0x004 => mapPart s p fun x => { x with pStatus := w1c x.pStatus 0 ones (setIn x.setAt 16 2 (now s)) }
    | 0x018 => mapPart s p fun x => { x with acctSel := rwField x.acctSel 0 mask value }
    | _ => s
  | .cabinet c =>
    match o with
    | 0x100 => mapCab s c fun x => { x with status := w1c x.status 0 ones (setIn x.setAt 0 5 (now s)) }
    | 0x110 => mapCab s c fun x => { x with siteSel := rwField x.siteSel 0 mask value }
    | _ => s
  | .slice i => if o = 0 then mapSlice s i fun x => { x with status := w1c x.status 0 ones (setIn x.setAt 0 6 (now s)) } else s
  | .engine e => if o = 0 then setEng s e (clearEngine (engOf s e) ones (now s)) else s
  | .vault v => if o = 0 then setVault s v { vaultOf s v with
      status := w1c (vaultOf s v).status 0 ones (setIn (vaultOf s v).setAt 0 3 (now s)) } else s
  | .collector st => writeCollector s st o mask value
  | _ => s

/-- A source's place in the order of R462: ports 0 to 7, then the sideband. -/
def landRank : Requester → Option Nat
  | .port p => some p.val
  | .sideband => some 8
  | .curator => none

/-- The register that a write lands in, told apart from the same offset of another requester's own region. -/
def landKey (who : Requester) (o : Nat) : Nat :=
  match who with
  | .port p => if 0x1000 ≤ o ∧ o < 0x50000 then 2 ^ 26 * (p.val + 1) + o else o
  | .sideband => if 0x10000 ≤ o ∧ o < 0x11000 then 2 ^ 26 * 9 + o else o
  | .curator => o

/-- The MCLK of the beat in which a write lands that follows the register's other writes of the beat, where they are in the order of R462 within
each MCLK; a beat has 4 (R5). -/
def landMclk (s : State) (who : Requester) (o k : Nat) : Nat :=
  match find s.boot.landed (landKey who o) with
  | some (b, n, last) => if b ≠ now s then 0 else if last ≤ k then n else n + 1
  | none => 0

/-- The write can still land in the present beat. -/
def mayLand (s : State) (who : Requester) (o : Nat) : Bool :=
  match landRank who with
  | some k => decide (landMclk s who o k < 4)
  | none => true

/-- The write lands: the last one of a beat prevails. -/
def landWrite (s : State) (who : Requester) (o : Nat) : State :=
  match landRank who with
  | some k => { s with boot := { s.boot with
      landed := put (s.boot.landed.filter (·.2.1 = now s)) (landKey who o) (now s, landMclk s who o k, k) } }
  | none => s

/-- A write of the word at an offset, with R9 for the halves of a 64-bit register. -/
def regWrite (s : State) (who : Requester) (o : Nat) (mask value : Word) : State :=
  let s := landWrite s who o
  let r := reach s who o
  let h := halvesOf s who
  if o % 4 ≠ 0 then s
  else match pairValue s r with
  | some v =>
    let low : Word := rwField ((find h.heldLow o).getD (BitVec.ofNat 32 v)) 0 mask value
    setHalves s who { h with heldLow := put h.heldLow o low }
  | none =>
    match (if 4 ≤ o ∧ 4 ≤ r.2 then pairValue s (r.1, r.2 - 4) else none) with
    | some v =>
      let high : Word := rwField (BitVec.ofNat 32 (v / 2 ^ 32)) 0 mask value
      let low := ((find h.heldLow (o - 4)).map (·.toNat)).getD (v % 2 ^ 32)
      let s := setHalves s who { h with heldLow := drop h.heldLow (o - 4) }
      writePair s (r.1, r.2 - 4) (high.toNat * 2 ^ 32 + low)
    | none => writeReg s r mask value

/-! ### The commands -/

/-- REGISTER_WRITE, R9 to R13. -/
def execRegisterWrite (who : Requester) (offset : BitVec 26) (be : BitVec 4) (value : BitVec 32) (s : State) : Result :=
  onlyIf (regAccess s who && mayLand s who offset.toNat) s (regWrite s who offset.toNat (enabledBits be) value)

/-- REGISTER_LOW_HALF_READ, R9; at any other offset it is an ordinary read. -/
def execRegisterLowHalfRead (who : Requester) (offset : BitVec 26) (s : State) : Result :=
  let r := regRead s who offset.toNat
  onlyIf (regAccess s who) s (emit r.2 (.reg who (BitVec.ofNat 32 r.1)))

/-- REGISTER_LOW_HALF_WRITE, R9. -/
def execRegisterLowHalfWrite (who : Requester) (offset : BitVec 26) (value : BitVec 32) (s : State) : Result :=
  onlyIf (regAccess s who && mayLand s who offset.toNat && (pairValue s (reach s who offset.toNat)).isSome) s
    (regWrite s who offset.toNat (BitVec.allOnes 32) value)

/-- The offset is that of the high half of a 64-bit register. -/
def isHighHalf (s : State) (who : Requester) (o : Nat) : Bool :=
  let r := reach s who o
  (pairValue s r).isNone && decide (4 ≤ o ∧ 4 ≤ r.2) && (pairValue s (r.1, r.2 - 4)).isSome

/-- REGISTER_HIGH_HALF_WRITE, R9. -/
def execRegisterHighHalfWrite (who : Requester) (offset : BitVec 26) (value : BitVec 32) (s : State) : Result :=
  onlyIf (regAccess s who && mayLand s who offset.toNat && isHighHalf s who offset.toNat) s (regWrite s who offset.toNat (BitVec.allOnes 32) value)

/-- SEQ_LANES_WRITE, R34. -/
def execSeqLanesWrite (part : Fin 8) (value : BitVec 32) (s : State) : Result :=
  onlyIf (regsOpen s) s (writeLanes s part.val (BitVec.allOnes 32) value)

/-- VC_WAYS_WRITE, R218. -/
def execVcWaysWrite (part : Fin 8) (value : BitVec 32) (s : State) : Result :=
  onlyIf (regsOpen s) s (writeWays s part.val (BitVec.allOnes 32) value)

/-- SEQ_SVC_WRITE, R38. -/
def execSeqSvcWrite (part : Fin 8) (value : BitVec 32) (s : State) : Result :=
  onlyIf (regsOpen s) s (writeSvc s part.val (BitVec.allOnes 32) value)

/-- The offset is that of SEQ_TIER_CAP, SEQ_WAIT_EVT or VC_CTL. -/
def movesEpoch : RegRef → Bool
  | (.seq _, 0x008) => true
  | (.seq _, 0x014) => true
  | (.vc _, 0x000) => true
  | _ => false

/-- EPOCH_REGISTER_WRITE, R351. -/
def execEpochRegisterWrite (who : Requester) (offset : BitVec 26) (value : BitVec 32) (s : State) : Result :=
  onlyIf (regAccess s who && mayLand s who offset.toNat && movesEpoch (reach s who offset.toNat)) s (regWrite s who offset.toNat (BitVec.allOnes 32) value)

/-- PWR_INPUT_LIMIT_WRITE, R381. -/
def execPwrInputLimitWrite (value : BitVec 32) (s : State) : Result :=
  onlyIf (regsOpen s) s (writeInputLimit s (BitVec.allOnes 32) value)

end Sys2Proof.Machine
end

