-- ==== Sys2Proof/Machine/Bringup.lean ====
section
/-! DEFINITION. The power input, module reset, the trip latch, bring-up, repair and firmware recovery (R376, R405, R413, R428 to
R441, R469 to R471). -/

namespace Sys2Proof.Machine

/-! ### Power input and module reset (R376, R405, R428, R469 to R471) -/

/-- MODULE_RESET_ASSERT, R428. -/
def execModuleResetAssert (src : ResetSource) (s : State) : Result :=
  let u := s.sup
  let u := match src with
    | .modRstN => { u with modRstLow := true }
    | .input => { u with inputOut := true }
    | .alwaysOnRail => { u with railOut := true }
    | .beatPll => { u with pllOut := true }
  .next (if src = .beatPll then pllReset { s with sup := u } else enterReset { s with sup := u })

/-- INPUT_OUT_OF_RANGE, R469, R471. -/
def execInputOutOfRange (s : State) : Result := .next (enterReset { s with sup := { s.sup with inputOut := true } })

/-- INPUT_BACK_IN_RANGE, R469. -/
def execInputBackInRange (s : State) : Result :=
  onlyIf (!s.sup.below20) s { s with sup := { s.sup with inputOut := false } }

/-- CLOCK_MONITOR_TRIP, R376: cause 1 crystal stopped, 2 PLL lock lost. -/
def execClockMonitorTrip (pllLost : Bool) (s : State) : Result :=
  onlyIf (!s.sup.below20) s
    (pllReset { s with sup := { s.sup with pllOut := true }, boot := { s.boot with clkCause := if pllLost then 2 else 1 } })

/-- INPUT_BELOW_20_V, R405, R406, R469: power is lost; the trip latch is held and its timer runs. -/
def execInputBelow20V (s : State) : Result :=
  let t := losePower s
  .next { t with sup := { t.sup with below20 := true, inputOut := true } }

/-- INPUT_RISES_ABOVE_20_V, R469, R470: the timer restarts; the always-on rail, the crystal and the PLL come up. -/
def execInputRisesAbove20V (s : State) : Result :=
  onlyIf s.sup.below20 s { s with sup := { s.sup with below20 := false, railOut := false, pllOut := false } }

/-- TRIP_LATCH_CLEAR, R405: the input has stayed below 20 V for 1 s. -/
def execTripLatchClear (s : State) : Result :=
  onlyIf s.sup.below20 s { s with boot := { s.boot with tripped := false, tripRegion := 0 } }

/-! ### The ROM stage (R362, R363, R429, R440) -/

def noteFail (s : State) (isB : Bool) (check : Nat) : State :=
  { s with boot := { s.boot with failA := s.boot.failA || !isB, failB := s.boot.failB || isB, check := BitVec.ofNat 8 check } }

/-- The ROM checks the preferred slot, then the other; with neither valid the module is in RECOVERY. -/
def romStage (s : State) : State :=
  let run (s : State) (isB : Bool) : State := { s with boot := { s.boot with slotRun := if isB then 2 else 1 } }
  let p := s.flash.preferredB
  let s := { s with boot := { s.boot with stage := 1, stageAt := now s, slotRun := 0, failA := false, failB := false, check := 0 } }
  let c := slotCheck s p
  if c = 0 then run s p
  else
    let s := noteFail s p c
    let d := slotCheck s !p
    if d = 0 then run s !p
    else { noteFail s (!p) d with boot := { (noteFail s (!p) d).boot with stage := 0xE } }

/-- The counts of R406 as the flash holds them, for stacks whose counter has not run since power-on. -/
def loadCycles (s : State) : State :=
  let c := (List.range 8).foldl (fun m st =>
    let c := look s.thermal.cycles st {}
    put m st (if c.started then c else { c with count := look s.flash.cycles st 0 })) s.thermal.cycles
  { s with thermal := { s.thermal with cycles := c, cyclesRated := c.any (60000 ≤ ·.2.count) } }

/-- MODULE_RESET_DEASSERT, R428, R458, R467: beat 0. The command says that MOD_RST_N is high, the rail regulated and the PLL
locked. -/
def execModuleResetDeassert (legacySel : Bool) (addrSel : BitVec 2) (s : State) : Result :=
  let t := { s with
    beat := 0
    sup := { s.sup with inReset := false, modRstLow := false, railOut := false, pllOut := false,
                        rails := [(208, true), (209, true)] }
    boot := { s.boot with legacy := legacySel, addrSel := addrSel }
    jtag := if s.jtag = .extest ∨ s.jtag = .clamp ∨ s.jtag = .highz then .bypass else s.jtag }
  onlyIf (s.sup.inReset && !s.sup.inputOut && !s.sup.below20) s (romStage (loadCycles t))

/-! ### The stages (R429 to R439) -/

/-- A stage that has run up to its limit at most: the next one may begin. -/
def stageIs (s : State) (stage limit : Nat) : Bool :=
  live s && s.boot.stage.toNat = stage && !s.boot.valid && now s ≤ s.boot.stageAt + limit

def enterStage (s : State) (stage : Nat) : State :=
  { s with boot := { s.boot with stage := BitVec.ofNat 4 stage, stageAt := now s } }

/-- STAGE_RAILS, R429, R431. -/
def execStageRails (s : State) : Result :=
  let t := enterStage s 2
  let on (s : State) (l : List Nat) : State := { s with sup := { s.sup with rails := l.foldl (fun m r => put m r true) s.sup.rails } }
  let plinth := (List.range 8).map (144 + ·) ++ (List.range 8).map (200 + ·)
  let t' := (List.range 128).foldl (fun s w => setWing s w { wingOf s w with clock := .running, k := 4, railOn := true, kVolt := 4 })
    (on t (plinth ++ coldRails))
  onlyIf (stageIs s 1 125000000 && s.boot.slotRun ≠ 0) s (if coldHeld s then on t plinth else t')

/-- With LEGACY_SEL high, partition 0 holds everything once bring-up ends (R347, R430). -/
def legacyPart (s : State) : State :=
  if s.boot.legacy then commitPart (createPart s 0 255 255 0xFFFF 0xFFFF 1024 (BitVec.allOnes 128)).1 0 else s

/-- Bring-up ends in the deaccessioned state (R435, R449). The legacy partition is formed first: R347 excepts only R431. -/
def endBringup (s : State) (kind index : Nat) : State :=
  let s := { s with boot := { s.boot with failKind := BitVec.ofNat 4 kind, failIndex := BitVec.ofNat 12 index,
                                          failStage := s.boot.stage, valid := true } }
  deaccession (legacyPart s) 0 0

/-- A channel's failing bonds at its two interfaces: an interface with more than its 8 spares steers none (R207, R211). -/
def trainChannel (s : State) (x : SiteRef × Nat × Nat) : State :=
  let site := siteId x.1
  let ga := x.2.1
  let ul := x.2.2
  let steer (n : Nat) : Nat := if n ≤ 8 then n else 0
  let s := setChannel s site { chanOf s site with spareGa := steer ga, spareUl := steer ul }
  if ga ≤ 8 ∧ ul ≤ 8 then s else markFailed (setChannel s site { chanOf s site with untrained := true }) site

/-- Channel training ends exactly 12,500 beats after it began (R211). -/
def endTraining (s : State) : State :=
  match s.boot.training with
  | some (b, l) =>
    if b ≤ now s then l.foldl trainChannel { s with boot := { s.boot with trained := true, training := none } } else s
  | none => s

/-- Vault PHYs (R433): settings saved and banks without a repair row left recorded. -/
def trainVaults (s : State) (r : TrainReport) : State :=
  let full := (r.fullVaults ||| ~~~ s.flash.savedTraining) &&& ~~~ r.deadVaults
  let s := { s with
    boot := { s.boot with trainFull := full, trainSaved := full ≠ 0 }
    flash := { s.flash with savedTraining := (s.flash.savedTraining ||| full) &&& ~~~ r.deadVaults } }
  r.unrepaired.foldl (fun s b =>
    if pagesOfBank s b.1.toNat b.2.toNat = 0 then s else autoRetire s (vaultBankRecord b.1.toNat b.2.toNat)) s

/-- Fuse marks joined with what training finds: each pair of numbers once, with its distinct failing members. -/
def joinMarks (marks : List (Nat × Nat × Nat)) (found : List (Nat × Nat × List Nat)) : List (Nat × Nat × List Nat) :=
  let keys := (marks.map (fun m => (m.1, m.2.1)) ++ found.map fun f => (f.1, f.2.1)).eraseDups
  keys.map fun k => (k.1, k.2,
    ((marks.filter fun m => (m.1, m.2.1) = k).map (·.2.2) ++ (found.filter fun f => (f.1, f.2.1) = k).flatMap (·.2.2)).eraseDups)

/-- Failing lanes of the bridges and crossings (R432, R434). -/
def badLanes (s : State) (r : TrainReport) : List (Nat × Nat × List Nat) :=
  joinMarks s.fuses.lanes (r.bridges.map fun b => (b.1.toNat, b.2.1, b.2.2))

/-- The first bridge or crossing direction with more failing lanes in a group of 64 than its 4 spares (R432). -/
def badBridge (s : State) (r : TrainReport) : Option Nat := ((badLanes s r).find? fun b => 4 < b.2.2.length).map (·.1)

/-- Failing wires of the mesh links, by the cabinet sites that each joins, the lower first (R434). -/
def badWires (s : State) (r : TrainReport) : List (Nat × Nat × List Nat) :=
  joinMarks (s.fuses.wires.map fun w => (min w.1 w.2.1, max w.1 w.2.1, w.2.2))
    (r.meshLinks.map fun l => (min l.1.val l.2.1.val, max l.1.val l.2.1.val, l.2.2))

/-- Failing lanes and wires are steered onto spares where those suffice; of the cabinet sites that a mesh link with more than 2 failing wires
joins, the higher-numbered one is retired (R432, R434). -/
def trainLinks (s : State) (r : TrainReport) : State :=
  let t := { s with boot := { s.boot with laneSpares := (badLanes s r).filter fun b => b.2.2.length ≤ 4
                                          wireSpares := (badWires s r).filter fun l => l.2.2.length ≤ 2 } }
  ((badWires s r).filter fun l => 2 < l.2.2.length).foldl (fun s l =>
    let x := wingOf s (l.2.1 / 10)
    setWing s (l.2.1 / 10) { x with linkBad := setBit x.linkBad (l.2.1 % 10) }) t

/-- STAGE_TRAIN, R211, R432 to R435. -/
def execStageTrain (report : TrainReport) (s : State) : Result :=
  let t := enterStage s 3
  let t := { t with boot := { t.boot with training := some (now s + 12500, report.channels) } }
  let t := trainLinks (trainVaults t report) report
  let t := match badBridge s report with
    | some i => endBringup t 1 i
    | none => match (List.range 16).find? fun v => report.deadVaults.getLsbD v with
      | some v => endBringup t 2 v
      | none => t
  onlyIf (stageIs s 2 60000 && !coldHeld s) s t

/-- The report of a failing pair, and the unit that ends bring-up if it is one (R413, R419, R435). -/
def testFail (s : State) (f : SelfTestFail) : State × Option Nat :=
  let m := f.mem.toNat
  let s := { s with errLog := { s.errLog with selfTest := if m = 0 then s.errLog.selfTest else setBit s.errLog.selfTest (m - 1) } }
  let tell (stack kind unit loc : Nat) : State :=
    report s stack { source := BitVec.ofNat 16 (kind * 4096 + unit), mem := f.mem, cls := 7, synd := 0
                     loc := BitVec.ofNat 48 loc, syndrome := 0, scrub := false }
  match f.unit with
  | .slice i => (tell (i.val / 64) 2 (i.val % 64) 0, some i.val)
  | .controller v => (tell (v.val / 2) 3 (v.val % 2) 0, some v.val)
  | .stepStore st => (tell st.val 7 0 0, some st.val)
  | .engine e => (tell (e.val / 6) 5 (e.val % 6) 0, some e.val)
  | .core r =>
    let w := r.wing.val
    (autoRetire (tell (w / 16) 1 (10 * (w % 16) + r.cabSite.val) r.coreSite.val)
      (coreSiteRecord (w / 16) (w % 16) r.cabSite.val r.coreSite.val), none)
  | .conservator v site =>
    let t := tell (v.val / 2) 4 (64 * (v.val % 2) + site.val) 0
    (setVault t v.val { vaultOf t v.val with csvBad := (vaultOf t v.val).csvBad ++ [site.val] }, none)

/-- STAGE_TEST, R413, R435. -/
def execStageTest (fails : List SelfTestFail) (s : State) : Result :=
  let x := fails.foldl (fun (a : State × Option Nat) f =>
    let y := testFail a.1 f
    (y.1, if a.2.isSome then a.2 else y.2)) (enterStage s 4, none)
  onlyIf (stageIs s 3 125000000 && s.boot.training.isNone) s (match x.2 with
    | some i => endBringup x.1 5 i
    | none => x.1)

/-- The conservator sites of a vault that are bad, from the fuses (R434) and from the self-test (R435). -/
def badCsvSites (s : State) (v : Nat) : List Nat :=
  (((s.fuses.csvSites.filter (·.1 = v)).map (·.2)) ++ (vaultOf s v).csvBad).eraseDups

/-- Conservator sites: a bad site's pseudo-channel takes the lowest good spare (R436). None where a vault has too few. -/
def assignSites (s : State) (v : Nat) : Option State :=
  let x := vaultOf s v
  let bad := badCsvSites s v
  let spares := ((List.range 4).map (64 + ·)).filter (· ∉ bad)
  let need := (List.range 64).filter (· ∈ bad)
  if 4 < bad.length then none
  else some (if need = [] then s else setVault s v { x with csvSites := need.zip spares })

/-- Ways of a slice that records retire (R437). -/
def badWays (s : State) (i : Nat) : List Nat :=
  (((allMarks s).filter fun r => recKind r = 5
    && 64 * bits (recWord r 0) 4 3 + bits (recWord r 4) 0 6 = i).map fun r => bits (recWord r 4) 6 4).eraseDups

/-- Slices that a record names. -/
def recordedSlices (s : State) : List Nat :=
  (((allMarks s).filter fun r => recKind r = 5).map fun r =>
    64 * bits (recWord r 0) 4 3 + bits (recWord r 4) 0 6).eraseDups

/-- Spare ways (R437), or the slice that has too few. -/
def assignWays (s : State) : Option Nat × State :=
  let l := recordedSlices s
  (l.find? fun i => 2 < (badWays s i).length, l.foldl (fun s i => mapSlice s i fun x => { x with spareUsed := badWays s i }) s)

/-- The maps of every wing (R439); SHF_REMAPPED tells of creations only. -/
def buildAll (s : State) : State :=
  let s := (List.range 128).foldl (fun s w => (buildMaps s w).1) s
  { s with cabinets := s.cabinets.map fun c => (c.1, { c.2 with remapped := 0 }) }

/-- The sites of every vault; the first vault that has too few. -/
def assignAllSites (s : State) : State × Option Nat :=
  (List.range 16).foldl (fun (a : State × Option Nat) v =>
    match assignSites a.1 v with
    | some s => (s, a.2)
    | none => (a.1, some (a.2.getD v))) (s, none)

/-- Repair ends with the floor plans built, or in the deaccessioned state (R435). -/
def endRepair (sites : State × Option Nat) (ways : Option Nat × State) : State :=
  match sites.2, ways.1 with
  | some v, _ => endBringup sites.1 3 v
  | none, some i => endBringup ways.2 4 i
  | none, none => buildAll ways.2

/-- The core site of every bank that has more retired rows than spares is retired (R209, R434). -/
def retireOverfull (s : State) : State :=
  (allMarks s).foldl (fun s r => if recKind r = 1 then afterRecord s r else s) s

/-- STAGE_REPAIR, R209, R434 to R437, R439. -/
def execStageRepair (s : State) : Result :=
  let sites := assignAllSites (retireOverfull (enterStage s 5))
  onlyIf (stageIs s 4 250000) s (endRepair sites (assignWays sites.1))

/-- STAGE_FILL, R411, R438: markers everywhere, every tag INVALID. -/
def execStageFill (s : State) : Result :=
  let t := enterStage s 6
  onlyIf (stageIs s 5 250000) s { t with
    shelf := [], dram := [], clm := [], cores := []
    slices := t.slices.map fun x => (x.1, { x.2 with frames := [], wb := [], trackers := [], fills := [] })
    vaults := (List.range 16).foldl (fun m v => put m v { vaultOf t v with fillSpans := [(now t, (vaultOf t v).mult)] }) t.vaults
    csvs := t.csvs.map fun c => (c.1, { c.2 with isram := [], dsram := [] }) }

/-- CCLK before x that are closed for P under multiplier m: 262 for each refresh window (R270). -/
def closedBefore (m P x : Nat) : Nat :=
  let d := 16 * (P % 61)
  let t := 4 * (976 / m)
  (x - d) / t * 262 + min ((x - d) % t) 262

/-- The open CCLK of P from `a` on and before `b`. -/
def openCclk (m P a b : Nat) : Nat := (b - a) - (closedBefore m P b - closedBefore m P a)

/-- The first line slot of a fill launched at CCLK x (R269). -/
def fillStart (m P x : Nat) : Nat := if closedBefore m P x < closedBefore m P (x + 1) then x + 262 else x

/-- Line slots that the fill of P has had by beat b under the multipliers in force since it began (R411, R438). -/
def fillSlots (P : Nat) : List (Nat × Nat) → Nat → Nat
  | [], _ => 0
  | [(a, m)], b => openCclk m P (fillStart m P (4 * a)) (4 * b)
  | (a, m) :: rest, b => openCclk m P (4 * a) (4 * b) + fillSlots P rest a

/-- Every pseudo-channel's fill has had its 8,388,608 line slots, and every shelf bank its 516 beats. -/
def fillDone (s : State) : Bool :=
  s.boot.stageAt + 516 ≤ now s && (List.range 1024).all fun P => 8388608 ≤ fillSlots P (vaultOf s (P / 64)).fillSpans (now s)

/-- STAGE_CSV, R265, R429, R438: the conservators wake and run the boot image, which leaves them HALTED. -/
def execStageCsv (s : State) : Result :=
  let t := enterStage s 7
  onlyIf (stageIs s 6 2900000 && fillDone s) s { t with
    csvDoms := (List.range 1024).map fun P => (P, ⟨.on, 0⟩)
    vaults := t.vaults.map fun v => (v.1, { v.2 with fillSpans := [] }) }

/-- The domains that bring-up used are off once it ends. -/
def allOff (s : State) : State :=
  { s with wings := s.wings.map fun w => (w.1, { w.2 with clock := .off, k := 0, kNext := 0, railOn := false })
           csvDoms := [] }

/-- STAGE_DONE, R347, R430, R431: VALID is set; with LEGACY_SEL high partition 0 holds everything. -/
def execStageDone (s : State) : Result :=
  let t := allOff (enterStage s 8)
  let t := { t with boot := { t.boot with valid := true } }
  onlyIf (stageIs s 7 250000 || (coldHeld s && stageIs s 2 60000)) s
    (if coldHeld s then t else legacyPart t)

/-! ### Firmware recovery (R440) -/

/-- RECOVERY_ERASE, R440. -/
def execRecoveryErase (s : State) : Result := onlyIf (live s && recoveryIdle s) s (recoveryErase s)

/-- RECOVERY_DATA_WRITE, R440. -/
def execRecoveryDataWrite (data : BitVec 32) (s : State) : Result := onlyIf (live s && recoveryIdle s) s (recoveryData s data)

/-- RECOVERY_COMMIT, R440. -/
def execRecoveryCommit (s : State) : Result := onlyIf (live s && recoveryIdle s) s (recoveryCommit s)

/-- The check of slot A at the end of a COMMIT: a pass marks slot A preferred and restarts the ROM stage. -/
def recoveryCheck (s : State) : State :=
  let n := s.boot.recBytes.toNat
  let x := slotOf s false
  let c := imageCheck s (x.image n) n
  if c = 0 then
    let s := setSlot s false { x with len := some n }
    let s := { s with flash := { s.flash with preferredB := false }, boot := { s.boot with recPassed := true, recCheck := 0 } }
    romStage s
  else { s with boot := { s.boot with recFailed := true, recCheck := BitVec.ofNat 8 c } }

/-- RECOVERY_OPERATION_DONE, R440. -/
def execRecoveryOperationDone (s : State) : Result :=
  let idle := { s with boot := { s.boot with recBusy := none } }
  match s.boot.recBusy with
  | some .erase => onlyIf (live s) s idle
  | some .check => onlyIf (live s) s (recoveryCheck idle)
  | none => .next s

end Sys2Proof.Machine
end

