-- ==== Sys2Proof/Machine/Clock.lean ====
section
/-! DEFINITION. The tick of the beat counter, and what happens at every beat (R30, R342, R351, R380, R381, R385, R461). -/

namespace Sys2Proof.Machine

/-- The EPOCH event of a beat in which the epoch moved (R351). -/
def epochEvent (s : State) : State :=
  if !s.curator.epochMoved then s
  else
    let e := s.curator.epoch.toNat
    let s := postEventAll s 5 0 [e % 2 ^ 32, e / 2 ^ 32]
    { s with curator := { s.curator with epochMoved := false } }

/-- The state under whose allowed powers, limit and guard the fills of the present beat run: changes are in force from a multiple
of 250,000 (R381). -/
def fillTerms (s : State) : State :=
  if now s % 250000 = 0 then
    { s with power := { s.power with allow := s.power.allowNext, limitOn := limitAtStart s.power (now s), guardOn := s.power.guard } }
  else s

/-- A partition's fills in one beat: 4 pJ for every milliwatt (R380, R383). -/
def fillPart (t : State) (p : Part) : Part :=
  { p with
    inBalance := clip (p.inBalance + 4 * inputFill t p) (inputCap p)
    balances := (accountRails p).map fun r => (r, clip (balanceOf p r + 4 * railFill t p r) (railCap p r)) }

def fillAll (s : State) : State :=
  (List.range 8).foldl (fun s p => if owned (partOf s p) then mapPart s p (fillPart (fillTerms s)) else s) s

/-- 1,200 pJ for each conservator that is not OFF and that no executing step of its partition lists (R385). -/
def meterCsvs (s : State) : State :=
  s.csvDoms.foldl (fun s d => if d.2.state = .on && !csvListedNow s d.1 then meterCsv s d.1 else s) s

/-- A step that was to start in the beat that ends, and has not: its conservators were in no executing step's list (R61, R385). -/
def meterLate (s : State) : State :=
  s.csvDoms.foldl (fun s d => if d.2.state = .on && csvListedNow s d.1 && !csvListed s d.1 then meterCsv s d.1 else s) s

/-- At a beat's start each attention unit has taken the steps before it, and a conservator asked to halt stops at the instruction
boundary that it has reached (R265, R273). -/
def settleHalts (s : State) : State :=
  s.csvs.foldl (fun s c =>
    if c.2.haltAsked || c.2.unit.isSome then setCsvF (runUnit s c.1 (4 * now s - 1)) c.1 fun c => settleHalt c (4 * now s) else s) s

/-- BAR2 writes whose acknowledgement is back are done. -/
def dropWrites (s : State) : State :=
  { s with net := s.net.filter fun x => match x.2.origin, x.2.stage with
      | .bar2 _ tag, .answered c => tag < 1024 || 5 * now s < c
      | _, _ => true }

/-- ALERT_N as R461 sets it at every beat; an in-band interrupt goes out when it goes low (R465). -/
def evaluateAlert (s : State) : State :=
  let low : Bool := alertWord s &&& ~~~ s.boot.alertMask ≠ 0
  let t := { s with boot := { s.boot with alertLow := low } }
  if low && !s.boot.alertLow then raiseIbi t 0x02 else t

/-- A command whose changes have been made at its last MCLK ends in the same beat (R349, R350). -/
def commandOpen (s : State) : Bool :=
  match s.curator.running with
  | some r => r.applied && !actsEarly r && decide (now s = endBeat r)
  | none => false

/-- What the beat must still see: job faults that wait for delivery, reports that a collector has not taken, and the end of a command
that has made its changes. -/
def beatOpen (s : State) : Bool :=
  ((List.range 8).any fun p => !(partOf s p).faults.isEmpty) || s.collectors.any (fun c => !c.2.queue.isEmpty) || commandOpen s

/-- BEAT_TICK, R30. -/
def execBeatTick (s : State) : Result :=
  if live s && s.beat = BitVec.allOnes 64 then .fault .beatCounterEnd
  else
    let t := meterLate (epochEvent s)
    let t := { t with beat := t.beat + 1 }
    onlyIf (live s && !beatOpen s) s (evaluateAlert (startNext (dropWrites (settleHalts (meterCsvs (pauseScrubs (fillAll (endTraining t))))))))

end Sys2Proof.Machine
end

