-- ==== Sys2Proof/Machine/Pins.lean ====
section
/-! DEFINITION. The sideband and JTAG (R460, R463 to R467). -/

namespace Sys2Proof.Machine

def setSideband (s : State) (x : Sideband) : State := { s with sideband := x }

/-! ### The pins (R456, R460, R461) -/

/-- The pin groups of R460. -/
inductive PinGroup where
  | pcieTx | pcieRx | refclkPerst | sideband | alert | thermTrip | modRstStraps | jtag | present
deriving DecidableEq, Repr

/-- What a pin group does (R460). -/
inductive PinState where
  | highZ | unterminated | linkTraining | terminated | input | pulledInput | silent | i3cTarget | released | low | tap | ground
deriving DecidableEq, Repr

/-- THERM_TRIP_N is low: it follows only the trip latch, and an unpowered module releases it (R460, R461). -/
def thermTripLow (s : State) : Bool := powered s && s.boot.tripped

/-- The state of each pin group: unpowered, in module reset, or from beat 0 (R460). -/
def pinState (s : State) : PinGroup → PinState
  | .pcieTx => if live s then .linkTraining else .highZ
  | .pcieRx => if live s then .terminated else .unterminated
  | .refclkPerst => if live s then .input else .highZ
  | .sideband => if live s then .i3cTarget else if powered s then .silent else .highZ
  | .alert => if live s && s.boot.alertLow then .low else .released
  | .thermTrip => if thermTripLow s then .low else .released
  | .modRstStraps => if powered s then .pulledInput else .highZ
  | .jtag => if powered s then .tap else .highZ
  | .present => .ground

/-! ### Private transfers (R463, R464) -/

/-- Static address: 0x2C + ADDR_SEL. -/
def staticAddress (s : State) : BitVec 7 := 0x2C + s.boot.addrSel.setWidth 7

/-- The address at which private transfers are answered: the dynamic address, and while none is assigned the static one, to legacy I²C
transfers (R463). -/
def answerAddress (s : State) : BitVec 7 := s.sideband.dynAddr.getD (staticAddress s)

/-- Words that bytes fill; trailing bytes that fill none are dropped. -/
def wordsOf : List (BitVec 8) → List Word
  | a :: b :: c :: d :: rest => BitVec.ofNat 32 (leNat [a, b, c, d]) :: wordsOf rest
  | _ => []

/-- SIDEBAND_WRITE, R464: a misaligned offset is ignored. -/
def execSidebandWrite (offset : BitVec 32) (bytes : List (BitVec 8)) (s : State) : Result :=
  onlyIf (live s && offset.toNat % 4 = 0) s
    ((wordsOf bytes).zipIdx.foldl (fun s x => regWrite s .sideband (offset.toNat + 4 * x.2) (BitVec.allOnes 32) x.1) s)

/-- SIDEBAND_SET_POINTER, R464. -/
def execSidebandSetPointer (offset : BitVec 32) (s : State) : Result :=
  onlyIf (live s && offset.toNat % 4 = 0) s (setSideband s { s.sideband with pointer := offset })

/-- Read n words from the pointer on. -/
def sidebandWords : Nat → State → List Word × State
  | 0, s => ([], s)
  | n + 1, s =>
    let r := regRead s .sideband s.sideband.pointer.toNat
    let t := setSideband r.2 { r.2.sideband with pointer := r.2.sideband.pointer + 4 }
    let x := sidebandWords n t
    (BitVec.ofNat 32 r.1 :: x.1, x.2)

/-- SIDEBAND_READ, R464. -/
def execSidebandRead (words : Nat) (s : State) : Result :=
  let x := sidebandWords words s
  onlyIf (live s) s (emit x.2 (.sideband (answerAddress s) x.1))

/-! ### The I3C target (R463) -/

/-- HOT_JOIN, R463. -/
def execHotJoin (s : State) : Result :=
  onlyIf (live s && s.sideband.dynAddr.isNone && s.sideband.events.getLsbD 3) s
    (emit (setSideband s { s.sideband with hotJoin := true }) .hotJoin)

/-- ENEC, R463, R465. -/
def execEnec (events : BitVec 8) (s : State) : Result :=
  onlyIf (live s) s (setSideband s { s.sideband with events := s.sideband.events ||| events })

/-- DISEC, R463. -/
def execDisec (events : BitVec 8) (s : State) : Result :=
  onlyIf (live s) s (setSideband s { s.sideband with events := s.sideband.events &&& ~~~ events })

/-- RSTDAA, R463. -/
def execRstdaa (s : State) : Result := onlyIf (live s) s (setSideband s { s.sideband with dynAddr := none })

/-- ENTDAA, R463. -/
def execEntdaa (addr : BitVec 7) (s : State) : Result :=
  onlyIf (live s && s.sideband.dynAddr.isNone) s (setSideband s { s.sideband with dynAddr := some addr, hotJoin := false })

/-- SETDASA, R463. -/
def execSetdasa (staticAddr : BitVec 7) (addr : BitVec 7) (s : State) : Result :=
  onlyIf (live s && s.sideband.dynAddr.isNone && staticAddr = staticAddress s) s
    (setSideband s { s.sideband with dynAddr := some addr, hotJoin := false })

/-- SETNEWDA, R463. -/
def execSetnewda (addr : BitVec 7) (s : State) : Result :=
  onlyIf (live s && s.sideband.dynAddr.isSome) s (setSideband s { s.sideband with dynAddr := some addr })

/-- A direct CCC answers once a dynamic address is assigned. -/
def addressed (s : State) : Bool := live s && s.sideband.dynAddr.isSome

/-- The PID: bit 32 set, 0x9160, ADDR_SEL and the serial number's low bits. -/
def pid (s : State) : BitVec 64 :=
  BitVec.ofNat 64 (2 ^ 32 + 0x9160 * 2 ^ 16 + 2 ^ 14 * s.boot.addrSel.toNat + Config.serial.toNat)

/-- GETPID, R463. -/
def execGetpid (s : State) : Result := onlyIf (addressed s) s (emit s (.ccc (pid s)))

/-- GETBCR, R463. -/
def execGetbcr (s : State) : Result := onlyIf (addressed s) s (emit s (.ccc 0x06))

/-- GETDCR, R463. -/
def execGetdcr (s : State) : Result := onlyIf (addressed s) s (emit s (.ccc 0x00))

/-- GETSTATUS, R463: the spec gives no value. -/
def execGetstatus (s : State) : Result :=
  onlyIf (addressed s) s (emit (freeWord s).2 (.ccc ((freeWord s).1.setWidth 64)))

/-- GETMXDS, R463: the spec gives no value. -/
def execGetmxds (s : State) : Result :=
  onlyIf (addressed s) s (emit (freeWord s).2 (.ccc ((freeWord s).1.setWidth 64)))

/-! ### JTAG (R466, R467) -/

/-- The TAP operates: the always-on rail is up (R467). -/
def tapUp (s : State) : Bool := powered s

/-- The TAP holds an instruction, in Run-Test/Idle (R466). -/
def setTap (s : State) (i : JtagInstr) : State := { s with jtag := i, sup := { s.sup with tapReset := false } }

/-- An instruction that takes effect only while module reset is asserted; otherwise the bypass register is selected. -/
def selectInReset (s : State) (i : JtagInstr) : State :=
  if s.sup.inReset then emit (setTap s i) (.pins i s.sup.scan) else setTap s .bypass

/-- JTAG_TRST, R466: Test-Logic-Reset, with IDCODE selected. -/
def execJtagTrst (s : State) : Result :=
  onlyIf (tapUp s) s { s with jtag := .idcode, sup := { s.sup with tapReset := true } }

/-- IDCODE, R466. -/
def execIdcode (s : State) : Result := onlyIf (tapUp s) s (emit (setTap s .idcode) (.jtag 0x29160FFF))

/-- The boundary-scan register as the test equipment has shifted it: what it holds is from outside, and no command carries it. -/
def shiftScan (s : State) : State :=
  let x := freeWord s
  { x.2 with sup := { x.2.sup with scan := x.1.setWidth 16 } }

/-- EXTEST, R467: where it takes effect the pins follow the boundary-scan register. -/
def execExtest (s : State) : Result :=
  onlyIf (tapUp s) s (selectInReset (if s.sup.inReset then shiftScan s else s) .extest)

/-- CLAMP, R467. -/
def execClamp (s : State) : Result := onlyIf (tapUp s) s (selectInReset s .clamp)

/-- HIGHZ, R467. -/
def execHighz (s : State) : Result := onlyIf (tapUp s) s (selectInReset s .highz)

/-- JTAG_BYPASS, R467. -/
def execJtagBypass (s : State) : Result := onlyIf (tapUp s) s (setTap s .bypass)

end Sys2Proof.Machine
end

