-- ==== Sys2Proof/Machine/XilonAlu.lean ====
section
/-! DEFINITION. The Xilon register instructions: integer, floating-point, compare, uniform and lane (R117 to R125). -/

namespace Sys2Proof.Machine

/-- D = f A B in each lane whose guard is true, with result latency r. -/
def regOp (r : Nat) (f : Word → Word → Word) (s : State) (i : Issue) : State :=
  finishV s i r fun l => f (opA i.tour i.x l) (opB i.tour i.x l)

/-- D = f A imm. -/
def immOp (f : Word → Word → Word) (s : State) (i : Issue) : State :=
  finishV s i 2 fun l => f (getV i.tour l i.x.a) i.x.imm

/-- D = f A. -/
def unaryOp (f : Word → Word) (s : State) (i : Issue) : State := finishV s i 2 fun l => f (opA i.tour i.x l)

/-- D = f A on the special-function unit, which takes an issue every 4 GCLK (R118, R121). -/
def sfuOp (f : Word → Word) (s : State) (i : Issue) : State :=
  finish s i (addResult { i.core with sfuFree := i.g + 4 } i 15
    (.vec i.x.d (i.on.map fun l => (l, f (opA i.tour i.x l)))))

/-- D = A × B + C with one rounding; B and C uniform or not (R120). -/
def fmaOp (ub uc : Bool) (s : State) (i : Issue) : State :=
  finishV s i 4 fun l => ffma32 (getV i.tour l i.x.a) (if ub then getU i.tour i.x.b else getV i.tour l i.x.b)
    (if uc then getU i.tour i.x.m else getV i.tour l i.x.m)

/-- uD = f uA uB (R116). -/
def uniOp (r : Nat) (f : Word → Word → Word) (s : State) (i : Issue) : State :=
  finishU s i r (f (getU i.tour i.x.a) (getU i.tour i.x.b))

/-- pD = cond A B (R122). -/
def setpOp (f : Nat → Word → Word → Option Bool) (s : State) (i : Issue) : State :=
  finishP s i fun l => (f (i.x.m / 4) (opA i.tour i.x l) (opB i.tour i.x l)).getD false

/-- nop, R117. -/
def execXilonNop (core : CoreRef) (j : Fin 7) (s : State) : Result := xilon core j 0x01 (fun s i => finish s i i.core) s

/-- add, R117, R119. -/
def execAdd (core : CoreRef) (j : Fin 7) (s : State) : Result :=
  xilon core j 0x02 (regOp 2 (· + ·)) s

/-- sub, R117, R119. -/
def execSub (core : CoreRef) (j : Fin 7) (s : State) : Result :=
  xilon core j 0x03 (regOp 2 (· - ·)) s

/-- mul, R117, R119. -/
def execMul (core : CoreRef) (j : Fin 7) (s : State) : Result :=
  xilon core j 0x04 (regOp 4 (· * ·)) s

/-- mulhi.s, R117. -/
def execMulhiS (core : CoreRef) (j : Fin 7) (s : State) : Result :=
  xilon core j 0x05 (regOp 4 (fun a b => BitVec.ofInt 32 (a.toInt * b.toInt / (2 ^ 32 : Nat)))) s

/-- mulhi.u, R117. -/
def execMulhiU (core : CoreRef) (j : Fin 7) (s : State) : Result :=
  xilon core j 0x06 (regOp 4 (fun a b => BitVec.ofNat 32 (a.toNat * b.toNat / 2 ^ 32))) s

/-- and, R117. -/
def execAnd (core : CoreRef) (j : Fin 7) (s : State) : Result :=
  xilon core j 0x07 (regOp 2 (· &&& ·)) s

/-- or, R117. -/
def execOr (core : CoreRef) (j : Fin 7) (s : State) : Result :=
  xilon core j 0x08 (regOp 2 (· ||| ·)) s

/-- xor, R117. -/
def execXor (core : CoreRef) (j : Fin 7) (s : State) : Result :=
  xilon core j 0x09 (regOp 2 (· ^^^ ·)) s

/-- shl, R117, R119. -/
def execShl (core : CoreRef) (j : Fin 7) (s : State) : Result :=
  xilon core j 0x0A (regOp 2 (fun a b => a <<< (b.toNat % 32))) s

/-- shr.u, R117, R119. -/
def execShrU (core : CoreRef) (j : Fin 7) (s : State) : Result :=
  xilon core j 0x0B (regOp 2 (fun a b => a >>> (b.toNat % 32))) s

/-- shr.s, R117, R119. -/
def execShrS (core : CoreRef) (j : Fin 7) (s : State) : Result :=
  xilon core j 0x0C (regOp 2 (fun a b => a.sshiftRight (b.toNat % 32))) s

/-- min.s, R117. -/
def execMinS (core : CoreRef) (j : Fin 7) (s : State) : Result :=
  xilon core j 0x0D (regOp 2 (fun a b => if a.toInt ≤ b.toInt then a else b)) s

/-- min.u, R117. -/
def execMinU (core : CoreRef) (j : Fin 7) (s : State) : Result :=
  xilon core j 0x0E (regOp 2 (fun a b => if a.toNat ≤ b.toNat then a else b)) s

/-- max.s, R117. -/
def execMaxS (core : CoreRef) (j : Fin 7) (s : State) : Result :=
  xilon core j 0x0F (regOp 2 (fun a b => if a.toInt ≤ b.toInt then b else a)) s

/-- max.u, R117. -/
def execMaxU (core : CoreRef) (j : Fin 7) (s : State) : Result :=
  xilon core j 0x10 (regOp 2 (fun a b => if a.toNat ≤ b.toNat then b else a)) s

/-- fadd, R120. -/
def execFadd (core : CoreRef) (j : Fin 7) (s : State) : Result :=
  xilon core j 0x20 (regOp 4 fadd32) s

/-- fsub, R120. -/
def execFsub (core : CoreRef) (j : Fin 7) (s : State) : Result :=
  xilon core j 0x21 (regOp 4 fsub32) s

/-- fmul, R120. -/
def execFmul (core : CoreRef) (j : Fin 7) (s : State) : Result :=
  xilon core j 0x22 (regOp 4 fmul32) s

/-- fmin, R183. -/
def execFmin (core : CoreRef) (j : Fin 7) (s : State) : Result :=
  xilon core j 0x23 (regOp 2 fmin32) s

/-- fmax, R183. -/
def execFmax (core : CoreRef) (j : Fin 7) (s : State) : Result :=
  xilon core j 0x24 (regOp 2 fmax32) s

/-- sel, R117: a predicate chooses A or B. -/
def execSel (core : CoreRef) (j : Fin 7) (s : State) : Result :=
  xilon core j 0x11 (fun s i => finishV s i 2 fun l =>
    if getP i.tour l (i.x.m / 4) then opA i.tour i.x l else opB i.tour i.x l) s

/-- addi, R110, R117. -/
def execAddi (core : CoreRef) (j : Fin 7) (s : State) : Result :=
  xilon core j 0x18 (immOp (· + ·)) s

/-- andi, R110, R117. -/
def execAndi (core : CoreRef) (j : Fin 7) (s : State) : Result :=
  xilon core j 0x19 (immOp (· &&& ·)) s

/-- ori, R110, R117. -/
def execOri (core : CoreRef) (j : Fin 7) (s : State) : Result :=
  xilon core j 0x1A (immOp (· ||| ·)) s

/-- xori, R110, R117. -/
def execXori (core : CoreRef) (j : Fin 7) (s : State) : Result :=
  xilon core j 0x1B (immOp (· ^^^ ·)) s

/-- shli, R110, R117. -/
def execShli (core : CoreRef) (j : Fin 7) (s : State) : Result :=
  xilon core j 0x1C (immOp (fun a n => a <<< (n.toNat % 32))) s

/-- shriu, R110, R117. -/
def execShriU (core : CoreRef) (j : Fin 7) (s : State) : Result :=
  xilon core j 0x1D (immOp (fun a n => a >>> (n.toNat % 32))) s

/-- shris, R110, R117. -/
def execShriS (core : CoreRef) (j : Fin 7) (s : State) : Result :=
  xilon core j 0x1E (immOp (fun a n => a.sshiftRight (n.toNat % 32))) s

/-- movi, R110, R117. -/
def execMovi (core : CoreRef) (j : Fin 7) (s : State) : Result :=
  xilon core j 0x1F (fun s i => finishV s i 2 fun _ => i.x.imm) s

/-- fabs, R117. -/
def execFabs (core : CoreRef) (j : Fin 7) (s : State) : Result :=
  xilon core j 0x25 (unaryOp (fun a => a &&& 0x7FFFFFFF#32)) s

/-- fneg, R117. -/
def execFneg (core : CoreRef) (j : Fin 7) (s : State) : Result :=
  xilon core j 0x26 (unaryOp (fun a => a ^^^ 0x80000000#32)) s

/-- ffma, R120. -/
def execFfma (core : CoreRef) (j : Fin 7) (s : State) : Result :=
  xilon core j 0x28 (fmaOp false false) s

/-- ffmaub, R120. -/
def execFfmaUb (core : CoreRef) (j : Fin 7) (s : State) : Result :=
  xilon core j 0x29 (fmaOp true false) s

/-- ffmauc, R120. -/
def execFfmaUc (core : CoreRef) (j : Fin 7) (s : State) : Result :=
  xilon core j 0x2A (fmaOp false true) s

/-- ffmaubc, R120. -/
def execFfmaUbc (core : CoreRef) (j : Fin 7) (s : State) : Result :=
  xilon core j 0x2B (fmaOp true true) s

/-- frcp, R118, R121. -/
def execFrcp (core : CoreRef) (j : Fin 7) (s : State) : Result :=
  xilon core j 0x2C (sfuOp frcp32) s

/-- frsqrt, R118, R121. -/
def execFrsqrt (core : CoreRef) (j : Fin 7) (s : State) : Result :=
  xilon core j 0x2D (sfuOp frsqrt32) s

/-- fexp2, R118, R121. -/
def execFexp2 (core : CoreRef) (j : Fin 7) (s : State) : Result :=
  xilon core j 0x2E (sfuOp fexp232) s

/-- flog2, R118, R121. -/
def execFlog2 (core : CoreRef) (j : Fin 7) (s : State) : Result :=
  xilon core j 0x2F (sfuOp flog232) s

/-- setp.s, R122. -/
def execSetpS (core : CoreRef) (j : Fin 7) (s : State) : Result :=
  xilon core j 0x30 (setpOp fun c a b => condInt c a.toInt b.toInt) s

/-- setp.u, R122. -/
def execSetpU (core : CoreRef) (j : Fin 7) (s : State) : Result :=
  xilon core j 0x31 (setpOp fun c a b => condInt c a.toNat b.toNat) s

/-- setp.f, R122. -/
def execSetpF (core : CoreRef) (j : Fin 7) (s : State) : Result := xilon core j 0x32 (setpOp condFloat) s

/-- plog, R123. -/
def execPlog (core : CoreRef) (j : Fin 7) (s : State) : Result :=
  xilon core j 0x33 (fun s i => finishP s i fun l =>
    predLogic (i.x.m % 4) (i.x.m.testBit 2) (getP i.tour l i.x.a) (getP i.tour l i.x.b)) s

/-- cvt, R124, R179. -/
def execCvt (core : CoreRef) (j : Fin 7) (s : State) : Result :=
  xilon core j 0x34 (fun s i => finishV s i 4 fun l =>
    (cvtWord i.x.m (getV i.tour l i.x.a) (getV i.tour l i.x.b)).getD 0) s

/-- uadd, R116, R117. -/
def execUadd (core : CoreRef) (j : Fin 7) (s : State) : Result :=
  xilon core j 0x38 (uniOp 2 (· + ·)) s

/-- usub, R116, R117. -/
def execUsub (core : CoreRef) (j : Fin 7) (s : State) : Result :=
  xilon core j 0x39 (uniOp 2 (· - ·)) s

/-- umul, R116, R117. -/
def execUmul (core : CoreRef) (j : Fin 7) (s : State) : Result :=
  xilon core j 0x3A (uniOp 4 (· * ·)) s

/-- uand, R116, R117. -/
def execUand (core : CoreRef) (j : Fin 7) (s : State) : Result :=
  xilon core j 0x3B (uniOp 2 (· &&& ·)) s

/-- uor, R116, R117. -/
def execUor (core : CoreRef) (j : Fin 7) (s : State) : Result :=
  xilon core j 0x3C (uniOp 2 (· ||| ·)) s

/-- uxor, R116, R117. -/
def execUxor (core : CoreRef) (j : Fin 7) (s : State) : Result :=
  xilon core j 0x3D (uniOp 2 (· ^^^ ·)) s

/-- ushl, R116, R117. -/
def execUshl (core : CoreRef) (j : Fin 7) (s : State) : Result :=
  xilon core j 0x3E (uniOp 2 (fun a b => a <<< (b.toNat % 32))) s

/-- ushr, R116, R117. -/
def execUshr (core : CoreRef) (j : Fin 7) (s : State) : Result :=
  xilon core j 0x3F (uniOp 2 (fun a b => a >>> (b.toNat % 32))) s

/-- uaddi, R116, R117. -/
def execUaddi (core : CoreRef) (j : Fin 7) (s : State) : Result :=
  xilon core j 0x40 (fun s i => finishU s i 2 (getU i.tour i.x.a + i.x.imm)) s

/-- umovi, R116, R117. -/
def execUmovi (core : CoreRef) (j : Fin 7) (s : State) : Result :=
  xilon core j 0x41 (fun s i => finishU s i 2 i.x.imm) s

/-- u.get, R125. -/
def execUGet (core : CoreRef) (j : Fin 7) (s : State) : Result :=
  xilon core j 0x42 (fun s i => finishU s i 2 (getV i.tour (i.x.b % 16) i.x.a)) s

/-- vote, R125: the ballot of the issue group. -/
def execVote (core : CoreRef) (j : Fin 7) (s : State) : Result :=
  xilon core j 0x43 (fun s i => finishU s i 2
    (BitVec.ofNat 32 (laneMask (i.lanes.filter fun l => getP i.tour l i.x.a)))) s

/-- shfl, R125: every non-exited lane takes A of the lane that its B names. -/
def execShfl (core : CoreRef) (j : Fin 7) (s : State) : Result :=
  xilon core j 0x44 (fun s i => finishV s i 3 fun l =>
    getV i.tour ((opB i.tour i.x l).toNat % 16) i.x.a) s

end Sys2Proof.Machine
end

