-- ==== Sys2Proof/Machine/XilonControl.lean ====
section
/-! DEFINITION. The Xilon control and synchronisation instructions (R83, R134 to R138). -/

namespace Sys2Proof.Machine

/-- Send each lane whose guard is true to its target word; the others advance. A target outside the code faults
(R134), a negative one too (DEDUCED, log entry 185). -/
def branchTo (target : Nat → Int) (s : State) (i : Issue) : State :=
  if i.on.any (fun l => target l < 0 || (i.core.codeBytes : Int) ≤ 4 * target l) then issueFault s i 0x11
  else if i.bad.isSome then issueFault s i 0x1A
  else settle s i i.core (i.on.foldl (fun t l => mapThread t l fun h => { h with pc := (target l).toNat })
    (advance i i.tour))

/-- br, R134. -/
def execBr (core : CoreRef) (j : Fin 7) (s : State) : Result :=
  xilon core j 0x60 (fun s i => branchTo (fun _ => i.pc + i.x.imm20) s i) s

/-- brx, R134: a register with a bit of [31:12] set names no word of the code. -/
def execBrx (core : CoreRef) (j : Fin 7) (s : State) : Result :=
  xilon core j 0x61 (fun s i => branchTo (fun l =>
    if (getV i.tour l i.x.a).toNat < 4096 then (getV i.tour l i.x.a).toNat else -1) s i) s

/-- exit, R135. -/
def execExit (core : CoreRef) (j : Fin 7) (s : State) : Result :=
  xilon core j 0x62 (fun s i =>
    settle s i i.core (i.on.foldl (fun t l => mapThread t l fun h => { h with exited := true }) (advance i i.tour))) s

/-- trap, R135: raised in the lanes whose guard is true. -/
def execTrap (core : CoreRef) (j : Fin 7) (s : State) : Result :=
  xilon core j 0x63 (fun s i =>
    if i.on = [] then finish s i i.core else issueFault s i (0x30 + i.x.imm.toNat)) s

/-- tour.sync, R136. -/
def execTourSync (core : CoreRef) (j : Fin 7) (s : State) : Result := xilon core j 0x68 (fun s i => finish s i i.core) s

/-- tour.yield, R83, R136: an exchange waits to begin where a tour is pending. -/
def execTourYield (core : CoreRef) (j : Fin 7) (s : State) : Result :=
  xilon core j 0x69 (fun s i =>
    finish s i { i.core with swapQueue := queueSwap i.core ⟨.exchange, i.slot, i.tour.index, i.g + 1⟩ }) s

/-- fence, R137: it has waited in the docent's readiness. -/
def execFence (core : CoreRef) (j : Fin 7) (s : State) : Result := xilon core j 0x6A (fun s i => finish s i i.core) s

/-- beat.read, R138. -/
def execBeatRead (core : CoreRef) (j : Fin 7) (s : State) : Result :=
  xilon core j 0x6B (fun s i => finish s i
    (addResult (addResult i.core i 2 (.uni i.x.d (s.beat.setWidth 32))) i 2
      (.uni (i.x.d + 1) ((s.beat >>> 32).setWidth 32)))) s

/-- beat.wait, R138: it has waited in the docent's readiness. -/
def execBeatWait (core : CoreRef) (j : Fin 7) (s : State) : Result := xilon core j 0x6C (fun s i => finish s i i.core) s

end Sys2Proof.Machine
end

