-- ==== Sys2Proof/Machine/Dispatch.lean ====
section
/-! DEFINITION. One arm per command: the direct call of its meaning. -/

namespace Sys2Proof.Machine

def exec (i : Instr) (s : State) : Host.Outcome State Fault Refusal :=
  match i with
  | .moduleResetAssert src => Sys2Proof.Machine.execModuleResetAssert src s
  | .moduleResetDeassert legacySel addrSel => Sys2Proof.Machine.execModuleResetDeassert legacySel addrSel s
  | .inputOutOfRange => Sys2Proof.Machine.execInputOutOfRange s
  | .inputBackInRange => Sys2Proof.Machine.execInputBackInRange s
  | .clockMonitorTrip pllLost => Sys2Proof.Machine.execClockMonitorTrip pllLost s
  | .tripLatchClear => Sys2Proof.Machine.execTripLatchClear s
  | .perstRelease port => Sys2Proof.Machine.execPerstRelease port s
  | .pcieFunctionLevelReset port => Sys2Proof.Machine.execPcieFunctionLevelReset port s
  | .pcieHotReset port => Sys2Proof.Machine.execPcieHotReset port s
  | .pcieLinkDown port => Sys2Proof.Machine.execPcieLinkDown port s
  | .beatTick => Sys2Proof.Machine.execBeatTick s
  | .stageRails => Sys2Proof.Machine.execStageRails s
  | .stageTrain report => Sys2Proof.Machine.execStageTrain report s
  | .stageTest fails => Sys2Proof.Machine.execStageTest fails s
  | .stageRepair => Sys2Proof.Machine.execStageRepair s
  | .stageFill => Sys2Proof.Machine.execStageFill s
  | .stageCsv => Sys2Proof.Machine.execStageCsv s
  | .stageDone => Sys2Proof.Machine.execStageDone s
  | .recoveryErase => Sys2Proof.Machine.execRecoveryErase s
  | .recoveryDataWrite data => Sys2Proof.Machine.execRecoveryDataWrite data s
  | .recoveryCommit => Sys2Proof.Machine.execRecoveryCommit s
  | .recoveryOperationDone => Sys2Proof.Machine.execRecoveryOperationDone s
  | .hostPortReset port cause => Sys2Proof.Machine.execHostPortReset port cause s
  | .stackReset stack cause => Sys2Proof.Machine.execStackReset stack cause s
  | .vaultReset vault cause => Sys2Proof.Machine.execVaultReset vault cause s
  | .curatorReset cause => Sys2Proof.Machine.execCuratorReset cause s
  | .domainResetEnd kind index => Sys2Proof.Machine.execDomainResetEnd kind index s
  | .deaccessionRailShutdown => Sys2Proof.Machine.execDeaccessionRailShutdown s
  | .evaluateStep part => Sys2Proof.Machine.execEvaluateStep part s
  | .gateMet part => Sys2Proof.Machine.execGateMet part s
  | .budgetRetry part => Sys2Proof.Machine.execBudgetRetry part s
  | .commitArrival part => Sys2Proof.Machine.execCommitArrival part s
  | .advanceNoticeReceipt part => Sys2Proof.Machine.execAdvanceNoticeReceipt part s
  | .domainWakeStart part dom => Sys2Proof.Machine.execDomainWakeStart part dom s
  | .domainWakeComplete dom => Sys2Proof.Machine.execDomainWakeComplete dom s
  | .stepStart part => Sys2Proof.Machine.execStepStart part s
  | .slotPlanEntryStart part entry => Sys2Proof.Machine.execSlotPlanEntryStart part entry s
  | .stackSequencerRecordRead part isEngine entry => Sys2Proof.Machine.execStackSequencerRecordRead part isEngine entry s
  | .kernelLaunch part cab => Sys2Proof.Machine.execKernelLaunch part cab s
  | .delayedLaunchStart cab => Sys2Proof.Machine.execDelayedLaunchStart cab s
  | .cabinetDoneReport cab => Sys2Proof.Machine.execCabinetDoneReport cab s
  | .stepPlannedEnd part => Sys2Proof.Machine.execStepPlannedEnd part s
  | .stepEnd part => Sys2Proof.Machine.execStepEnd part s
  | .stepTimeout part => Sys2Proof.Machine.execStepTimeout part s
  | .kernelTimeout cab => Sys2Proof.Machine.execKernelTimeout cab s
  | .stepDelayed part => Sys2Proof.Machine.execStepDelayed part s
  | .jobFaultDelivery part => Sys2Proof.Machine.execJobFaultDelivery part s
  | .abandonedDescriptorCompletion eng ctx => Sys2Proof.Machine.execAbandonedDescriptorCompletion eng ctx s
  | .rotationSlotTake req j => Sys2Proof.Machine.execRotationSlotTake req j s
  | .xilonNop core j => Sys2Proof.Machine.execXilonNop core j s
  | .add core j => Sys2Proof.Machine.execAdd core j s
  | .sub core j => Sys2Proof.Machine.execSub core j s
  | .mul core j => Sys2Proof.Machine.execMul core j s
  | .mulhiS core j => Sys2Proof.Machine.execMulhiS core j s
  | .mulhiU core j => Sys2Proof.Machine.execMulhiU core j s
  | .and core j => Sys2Proof.Machine.execAnd core j s
  | .or core j => Sys2Proof.Machine.execOr core j s
  | .xor core j => Sys2Proof.Machine.execXor core j s
  | .shl core j => Sys2Proof.Machine.execShl core j s
  | .shrU core j => Sys2Proof.Machine.execShrU core j s
  | .shrS core j => Sys2Proof.Machine.execShrS core j s
  | .minS core j => Sys2Proof.Machine.execMinS core j s
  | .minU core j => Sys2Proof.Machine.execMinU core j s
  | .maxS core j => Sys2Proof.Machine.execMaxS core j s
  | .maxU core j => Sys2Proof.Machine.execMaxU core j s
  | .sel core j => Sys2Proof.Machine.execSel core j s
  | .addi core j => Sys2Proof.Machine.execAddi core j s
  | .andi core j => Sys2Proof.Machine.execAndi core j s
  | .ori core j => Sys2Proof.Machine.execOri core j s
  | .xori core j => Sys2Proof.Machine.execXori core j s
  | .shli core j => Sys2Proof.Machine.execShli core j s
  | .shriU core j => Sys2Proof.Machine.execShriU core j s
  | .shriS core j => Sys2Proof.Machine.execShriS core j s
  | .movi core j => Sys2Proof.Machine.execMovi core j s
  | .fadd core j => Sys2Proof.Machine.execFadd core j s
  | .fsub core j => Sys2Proof.Machine.execFsub core j s
  | .fmul core j => Sys2Proof.Machine.execFmul core j s
  | .fmin core j => Sys2Proof.Machine.execFmin core j s
  | .fmax core j => Sys2Proof.Machine.execFmax core j s
  | .fabs core j => Sys2Proof.Machine.execFabs core j s
  | .fneg core j => Sys2Proof.Machine.execFneg core j s
  | .ffma core j => Sys2Proof.Machine.execFfma core j s
  | .ffmaUb core j => Sys2Proof.Machine.execFfmaUb core j s
  | .ffmaUc core j => Sys2Proof.Machine.execFfmaUc core j s
  | .ffmaUbc core j => Sys2Proof.Machine.execFfmaUbc core j s
  | .frcp core j => Sys2Proof.Machine.execFrcp core j s
  | .frsqrt core j => Sys2Proof.Machine.execFrsqrt core j s
  | .fexp2 core j => Sys2Proof.Machine.execFexp2 core j s
  | .flog2 core j => Sys2Proof.Machine.execFlog2 core j s
  | .setpS core j => Sys2Proof.Machine.execSetpS core j s
  | .setpU core j => Sys2Proof.Machine.execSetpU core j s
  | .setpF core j => Sys2Proof.Machine.execSetpF core j s
  | .plog core j => Sys2Proof.Machine.execPlog core j s
  | .cvt core j => Sys2Proof.Machine.execCvt core j s
  | .uadd core j => Sys2Proof.Machine.execUadd core j s
  | .usub core j => Sys2Proof.Machine.execUsub core j s
  | .umul core j => Sys2Proof.Machine.execUmul core j s
  | .uand core j => Sys2Proof.Machine.execUand core j s
  | .uor core j => Sys2Proof.Machine.execUor core j s
  | .uxor core j => Sys2Proof.Machine.execUxor core j s
  | .ushl core j => Sys2Proof.Machine.execUshl core j s
  | .ushr core j => Sys2Proof.Machine.execUshr core j s
  | .uaddi core j => Sys2Proof.Machine.execUaddi core j s
  | .umovi core j => Sys2Proof.Machine.execUmovi core j s
  | .uGet core j => Sys2Proof.Machine.execUGet core j s
  | .vote core j => Sys2Proof.Machine.execVote core j s
  | .shfl core j => Sys2Proof.Machine.execShfl core j s
  | .ldL core j => Sys2Proof.Machine.execLdL core j s
  | .stL core j => Sys2Proof.Machine.execStL core j s
  | .ldS core j => Sys2Proof.Machine.execLdS core j s
  | .stS core j => Sys2Proof.Machine.execStS core j s
  | .ldG core j => Sys2Proof.Machine.execLdG core j s
  | .stG core j => Sys2Proof.Machine.execStG core j s
  | .atomL core j => Sys2Proof.Machine.execAtomL core j s
  | .atomS core j => Sys2Proof.Machine.execAtomS core j s
  | .atomG core j => Sys2Proof.Machine.execAtomG core j s
  | .redG core j => Sys2Proof.Machine.execRedG core j s
  | .meshPut core j => Sys2Proof.Machine.execMeshPut core j s
  | .br core j => Sys2Proof.Machine.execBr core j s
  | .brx core j => Sys2Proof.Machine.execBrx core j s
  | .exit core j => Sys2Proof.Machine.execExit core j s
  | .trap core j => Sys2Proof.Machine.execTrap core j s
  | .tourSync core j => Sys2Proof.Machine.execTourSync core j s
  | .tourYield core j => Sys2Proof.Machine.execTourYield core j s
  | .fence core j => Sys2Proof.Machine.execFence core j s
  | .beatRead core j => Sys2Proof.Machine.execBeatRead core j s
  | .beatWait core j => Sys2Proof.Machine.execBeatWait core j s
  | .mxTile core j => Sys2Proof.Machine.execMxTile core j s
  | .mxRun core j => Sys2Proof.Machine.execMxRun core j s
  | .mxAccClear core j => Sys2Proof.Machine.execMxAccClear core j s
  | .mxAccStore core j => Sys2Proof.Machine.execMxAccStore core j s
  | .mxAccLoad core j => Sys2Proof.Machine.execMxAccLoad core j s
  | .mxEnc core j => Sys2Proof.Machine.execMxEnc core j s
  | .mxDec core j => Sys2Proof.Machine.execMxDec core j s
  | .instructionResultWrite core j => Sys2Proof.Machine.execInstructionResultWrite core j s
  | .tourSwapStart core j crcRead crcWrite => Sys2Proof.Machine.execTourSwapStart core j crcRead crcWrite s
  | .tourSwapComplete core j => Sys2Proof.Machine.execTourSwapComplete core j s
  | .channelTransferStart core j write crcBad => Sys2Proof.Machine.execChannelTransferStart core j write crcBad s
  | .mergeBufferTimeout core j => Sys2Proof.Machine.execMergeBufferTimeout core j s
  | .shelfRmwRead core j crcBad => Sys2Proof.Machine.execShelfRmwRead core j crcBad s
  | .shelfRmwWrite core j crcBad => Sys2Proof.Machine.execShelfRmwWrite core j crcBad s
  | .egressTake core j => Sys2Proof.Machine.execEgressTake core j s
  | .globalLoadReturn core j => Sys2Proof.Machine.execGlobalLoadReturn core j s
  | .postedWriteAck req j => Sys2Proof.Machine.execPostedWriteAck req j s
  | .meshPutDelivery flit j => Sys2Proof.Machine.execMeshPutDelivery flit j s
  | .shadowArmed core j => Sys2Proof.Machine.execShadowArmed core j s
  | .arrayRunEntry core j => Sys2Proof.Machine.execArrayRunEntry core j s
  | .arrayTileWrite core j => Sys2Proof.Machine.execArrayTileWrite core j s
  | .accLoadComplete core j => Sys2Proof.Machine.execAccLoadComplete core j s
  | .gatewayRequest cab j => Sys2Proof.Machine.execGatewayRequest cab j s
  | .idleCheckPass site failGa failUl => Sys2Proof.Machine.execIdleCheckPass site failGa failUl s
  | .idleCheckLate site => Sys2Proof.Machine.execIdleCheckLate site s
  | .sliceLoad slice req j => Sys2Proof.Machine.execSliceLoad slice req j s
  | .sliceStore slice req j => Sys2Proof.Machine.execSliceStore slice req j s
  | .sliceAtomic slice req j => Sys2Proof.Machine.execSliceAtomic slice req j s
  | .sliceReduction slice req j => Sys2Proof.Machine.execSliceReduction slice req j s
  | .sliceFillComplete slice j => Sys2Proof.Machine.execSliceFillComplete slice j s
  | .writeBackAck slice j => Sys2Proof.Machine.execWriteBackAck slice j s
  | .rangePrefetch slice req j => Sys2Proof.Machine.execRangePrefetch slice req j s
  | .rangeFlush slice req j => Sys2Proof.Machine.execRangeFlush slice req j s
  | .rangeInvalidate slice req j => Sys2Proof.Machine.execRangeInvalidate slice req j s
  | .rangeDead slice req j => Sys2Proof.Machine.execRangeDead slice req j s
  | .controllerRequestArrival pch j => Sys2Proof.Machine.execControllerRequestArrival pch j s
  | .dramWindow pch j => Sys2Proof.Machine.execDramWindow pch j s
  | .dramDataReturn pch j => Sys2Proof.Machine.execDramDataReturn pch j s
  | .refreshWindowStart pch => Sys2Proof.Machine.execRefreshWindowStart pch s
  | .refreshWindowEnd pch => Sys2Proof.Machine.execRefreshWindowEnd pch s
  | .refreshMultiplierChange vault => Sys2Proof.Machine.execRefreshMultiplierChange vault s
  | .nearBankModeSwitch pch => Sys2Proof.Machine.execNearBankModeSwitch pch s
  | .nbWindowRead req j => Sys2Proof.Machine.execNbWindowRead req j s
  | .nbWindowWrite req j => Sys2Proof.Machine.execNbWindowWrite req j s
  | .nbWindowAccessAfterWake req j => Sys2Proof.Machine.execNbWindowAccessAfterWake req j s
  | .csvStart pch => Sys2Proof.Machine.execCsvStart pch s
  | .csvHalt pch => Sys2Proof.Machine.execCsvHalt pch s
  | .csvDoorbell pch count => Sys2Proof.Machine.execCsvDoorbell pch count s
  | .conservatorSwitchOff pch => Sys2Proof.Machine.execConservatorSwitchOff pch s
  | .rvIntegerAlu pch j => Sys2Proof.Machine.execRvIntegerAlu pch j s
  | .rvBranchJump pch j => Sys2Proof.Machine.execRvBranchJump pch j s
  | .rvLoad pch j => Sys2Proof.Machine.execRvLoad pch j s
  | .rvStore pch j => Sys2Proof.Machine.execRvStore pch j s
  | .rvMul pch j => Sys2Proof.Machine.execRvMul pch j s
  | .rvDiv pch j => Sys2Proof.Machine.execRvDiv pch j s
  | .rvFence pch j => Sys2Proof.Machine.execRvFence pch j s
  | .ecall pch j => Sys2Proof.Machine.execEcall pch j s
  | .ebreak pch j => Sys2Proof.Machine.execEbreak pch j s
  | .nbRd pch j => Sys2Proof.Machine.execNbRd pch j s
  | .nbWr pch j => Sys2Proof.Machine.execNbWr pch j s
  | .nbWait pch j => Sys2Proof.Machine.execNbWait pch j s
  | .nbBeat pch j => Sys2Proof.Machine.execNbBeat pch j s
  | .nbUntil pch j => Sys2Proof.Machine.execNbUntil pch j s
  | .nbAcfg pch j => Sys2Proof.Machine.execNbAcfg pch j s
  | .nbQld pch j => Sys2Proof.Machine.execNbQld pch j s
  | .nbAttn pch j => Sys2Proof.Machine.execNbAttn pch j s
  | .nbScore pch j => Sys2Proof.Machine.execNbScore pch j s
  | .nbOst pch j => Sys2Proof.Machine.execNbOst pch j s
  | .nbCmd pch j => Sys2Proof.Machine.execNbCmd pch j s
  | .nbDone pch j => Sys2Proof.Machine.execNbDone pch j s
  | .nbFlt pch j => Sys2Proof.Machine.execNbFlt pch j s
  | .burstLine pch j => Sys2Proof.Machine.execBurstLine pch j s
  | .burstComplete pch j => Sys2Proof.Machine.execBurstComplete pch j s
  | .attentionStateFinal pch j => Sys2Proof.Machine.execAttentionStateFinal pch j s
  | .paceLevelChange vault => Sys2Proof.Machine.execPaceLevelChange vault s
  | .copy eng ctx j => Sys2Proof.Machine.execCopy eng ctx j s
  | .fill eng ctx j => Sys2Proof.Machine.execFill eng ctx j s
  | .range eng ctx j => Sys2Proof.Machine.execRange eng ctx j s
  | .window eng ctx j => Sys2Proof.Machine.execWindow eng ctx j s
  | .transpose eng ctx j => Sys2Proof.Machine.execTranspose eng ctx j s
  | .frame eng ctx j => Sys2Proof.Machine.execFrame eng ctx j s
  | .topk eng ctx j => Sys2Proof.Machine.execTopk eng ctx j s
  | .engineReadIssue eng ctx j => Sys2Proof.Machine.execEngineReadIssue eng ctx j s
  | .engineReadReturn eng ctx j host => Sys2Proof.Machine.execEngineReadReturn eng ctx j host s
  | .flitEntry eng ctx j => Sys2Proof.Machine.execFlitEntry eng ctx j s
  | .engineWriteIssue eng ctx j => Sys2Proof.Machine.execEngineWriteIssue eng ctx j s
  | .engineWriteAck eng ctx j hostError => Sys2Proof.Machine.execEngineWriteAck eng ctx j hostError s
  | .descriptorDone eng ctx j => Sys2Proof.Machine.execDescriptorDone eng ctx j s
  | .engineDescriptorTimeout eng ctx => Sys2Proof.Machine.execEngineDescriptorTimeout eng ctx s
  | .heldDescriptorRelease eng => Sys2Proof.Machine.execHeldDescriptorRelease eng s
  | .engineStatusWrite eng value => Sys2Proof.Machine.execEngineStatusWrite eng value s
  | .configRequest port write offset value => Sys2Proof.Machine.execConfigRequest port write offset value s
  | .bar2Read port offset lanes tag => Sys2Proof.Machine.execBar2Read port offset lanes tag s
  | .bar2Write port offset lanes data => Sys2Proof.Machine.execBar2Write port offset lanes data s
  | .bar2ReadCompletion req => Sys2Proof.Machine.execBar2ReadCompletion req s
  | .hpBar2BaseWrite who port high value => Sys2Proof.Machine.execHpBar2BaseWrite who port high value s
  | .sqDoorbell port ring be value => Sys2Proof.Machine.execSqDoorbell port ring be value s
  | .cqDoorbell port ring be value => Sys2Proof.Machine.execCqDoorbell port ring be value s
  | .ringArm port ring be value => Sys2Proof.Machine.execRingArm port ring be value s
  | .fetchReadIssue port j => Sys2Proof.Machine.execFetchReadIssue port j s
  | .fetchDataReturn port j data => Sys2Proof.Machine.execFetchDataReturn port j data s
  | .fetchTimeout port => Sys2Proof.Machine.execFetchTimeout port s
  | .submissionNop ring => Sys2Proof.Machine.execSubmissionNop ring s
  | .run ring => Sys2Proof.Machine.execRun ring s
  | .gate ring => Sys2Proof.Machine.execGate ring s
  | .stop ring => Sys2Proof.Machine.execStop ring s
  | .engine ring => Sys2Proof.Machine.execEngine ring s
  | .acceptanceCompletionPost ring => Sys2Proof.Machine.execAcceptanceCompletionPost ring s
  | .heldEntryWrite ring => Sys2Proof.Machine.execHeldEntryWrite ring s
  | .rgsJobHeldClear part => Sys2Proof.Machine.execRgsJobHeldClear part s
  | .mailboxGo chan => Sys2Proof.Machine.execMailboxGo chan s
  | .commandArrival chan => Sys2Proof.Machine.execCommandArrival chan s
  | .commandEnd => Sys2Proof.Machine.execCommandEnd s
  | .mailboxCommandTimeout => Sys2Proof.Machine.execMailboxCommandTimeout s
  | .nop => Sys2Proof.Machine.execNop s
  | .moduleQuery => Sys2Proof.Machine.execModuleQuery s
  | .capsRead => Sys2Proof.Machine.execCapsRead s
  | .partitionQuery => Sys2Proof.Machine.execPartitionQuery s
  | .logRead => Sys2Proof.Machine.execLogRead s
  | .thermalGraceSet => Sys2Proof.Machine.execThermalGraceSet s
  | .escalationSet => Sys2Proof.Machine.execEscalationSet s
  | .accountSet => Sys2Proof.Machine.execAccountSet s
  | .partitionCreate => Sys2Proof.Machine.execPartitionCreate s
  | .partitionCommit => Sys2Proof.Machine.execPartitionCommit s
  | .partitionRenew => Sys2Proof.Machine.execPartitionRenew s
  | .partitionDestroy => Sys2Proof.Machine.execPartitionDestroy s
  | .granuleAssign => Sys2Proof.Machine.execGranuleAssign s
  | .granuleRelease => Sys2Proof.Machine.execGranuleRelease s
  | .granuleShare => Sys2Proof.Machine.execGranuleShare s
  | .nbMode => Sys2Proof.Machine.execNbMode s
  | .ringCreate => Sys2Proof.Machine.execRingCreate s
  | .ringDelete => Sys2Proof.Machine.execRingDelete s
  | .timetableBind => Sys2Proof.Machine.execTimetableBind s
  | .timetableUnbind => Sys2Proof.Machine.execTimetableUnbind s
  | .retire => Sys2Proof.Machine.execRetire s
  | .domainReset => Sys2Proof.Machine.execDomainReset s
  | .fwChunk => Sys2Proof.Machine.execFwChunk s
  | .fwUpdate => Sys2Proof.Machine.execFwUpdate s
  | .fwSecurityRaise => Sys2Proof.Machine.execFwSecurityRaise s
  | .registerWrite who offset be value => Sys2Proof.Machine.execRegisterWrite who offset be value s
  | .registerLowHalfRead who offset => Sys2Proof.Machine.execRegisterLowHalfRead who offset s
  | .registerLowHalfWrite who offset value => Sys2Proof.Machine.execRegisterLowHalfWrite who offset value s
  | .registerHighHalfWrite who offset value => Sys2Proof.Machine.execRegisterHighHalfWrite who offset value s
  | .seqLanesWrite part value => Sys2Proof.Machine.execSeqLanesWrite part value s
  | .vcWaysWrite part value => Sys2Proof.Machine.execVcWaysWrite part value s
  | .seqSvcWrite part value => Sys2Proof.Machine.execSeqSvcWrite part value s
  | .epochRegisterWrite who offset value => Sys2Proof.Machine.execEpochRegisterWrite who offset value s
  | .pwrInputLimitWrite value => Sys2Proof.Machine.execPwrInputLimitWrite value s
  | .errLogHeadWrite value => Sys2Proof.Machine.execErrLogHeadWrite value s
  | .errSrcSelWrite stack value => Sys2Proof.Machine.execErrSrcSelWrite stack value s
  | .errSrcClr stack value => Sys2Proof.Machine.execErrSrcClr stack value s
  | .rawRead value => Sys2Proof.Machine.execRawRead value s
  | .rawWrite value => Sys2Proof.Machine.execRawWrite value s
  | .rawModeEnable value => Sys2Proof.Machine.execRawModeEnable value s
  | .rawOperationDone => Sys2Proof.Machine.execRawOperationDone s
  | .currentReport volts amps rails => Sys2Proof.Machine.execCurrentReport volts amps rails s
  | .modelRun sensors coolant coolantBroken => Sys2Proof.Machine.execModelRun sensors coolant coolantBroken s
  | .tripRailShutdown => Sys2Proof.Machine.execTripRailShutdown s
  | .cycleCountFlashWrite stack => Sys2Proof.Machine.execCycleCountFlashWrite stack s
  | .sensorSelfCheck failed => Sys2Proof.Machine.execSensorSelfCheck failed s
  | .allowedPowerEffect => Sys2Proof.Machine.execAllowedPowerEffect s
  | .alwaysOnTripCheck sensors => Sys2Proof.Machine.execAlwaysOnTripCheck sensors s
  | .railFault rail => Sys2Proof.Machine.execRailFault rail s
  | .collectorReport stack soft => Sys2Proof.Machine.execCollectorReport stack soft s
  | .collectorEntryClose stack => Sys2Proof.Machine.execCollectorEntryClose stack s
  | .logEntryWrite stack => Sys2Proof.Machine.execLogEntryWrite stack s
  | .scrubRead cycle => Sys2Proof.Machine.execScrubRead cycle s
  | .scrubWriteBack cycle => Sys2Proof.Machine.execScrubWriteBack cycle s
  | .scrubLapLate unit => Sys2Proof.Machine.execScrubLapLate unit s
  | .sidebandWrite offset bytes => Sys2Proof.Machine.execSidebandWrite offset bytes s
  | .sidebandSetPointer offset => Sys2Proof.Machine.execSidebandSetPointer offset s
  | .sidebandRead words => Sys2Proof.Machine.execSidebandRead words s
  | .hotJoin => Sys2Proof.Machine.execHotJoin s
  | .enec events => Sys2Proof.Machine.execEnec events s
  | .disec events => Sys2Proof.Machine.execDisec events s
  | .rstdaa => Sys2Proof.Machine.execRstdaa s
  | .entdaa addr => Sys2Proof.Machine.execEntdaa addr s
  | .setdasa staticAddr addr => Sys2Proof.Machine.execSetdasa staticAddr addr s
  | .setnewda addr => Sys2Proof.Machine.execSetnewda addr s
  | .getpid => Sys2Proof.Machine.execGetpid s
  | .getbcr => Sys2Proof.Machine.execGetbcr s
  | .getdcr => Sys2Proof.Machine.execGetdcr s
  | .getstatus => Sys2Proof.Machine.execGetstatus s
  | .getmxds => Sys2Proof.Machine.execGetmxds s
  | .jtagTrst => Sys2Proof.Machine.execJtagTrst s
  | .idcode => Sys2Proof.Machine.execIdcode s
  | .extest => Sys2Proof.Machine.execExtest s
  | .clamp => Sys2Proof.Machine.execClamp s
  | .highz => Sys2Proof.Machine.execHighz s
  | .jtagBypass => Sys2Proof.Machine.execJtagBypass s
  | .conservatorCommandTimeout pch => Sys2Proof.Machine.execConservatorCommandTimeout pch s
  | .pcieLinkUp port rate width flit => Sys2Proof.Machine.execPcieLinkUp port rate width flit s
  | .inputBelow20V => Sys2Proof.Machine.execInputBelow20V s
  | .inputRisesAbove20V => Sys2Proof.Machine.execInputRisesAbove20V s

end Sys2Proof.Machine
end

