-- ==== Sys2Proof/Safety.lean ====
section
/-! DEFINITION. The terms the claims use: sound stores, what a reset keeps and starts, clean issues and hart issues. -/

namespace Sys2Proof

/-- The command acts while module reset is asserted: the reset pins', the power input's, PERST's, bring-up's first and the JTAG
port's. -/
def Instr.outsideReset : Instr → Bool
  | .moduleResetAssert _ => true
  | .moduleResetDeassert _ _ => true
  | .inputBelow20V => true
  | .inputRisesAbove20V => true
  | .inputOutOfRange => true
  | .inputBackInRange => true
  | .clockMonitorTrip _ => true
  | .tripLatchClear => true
  | .perstRelease _ => true
  | .jtagTrst => true
  | .idcode => true
  | .extest => true
  | .clamp => true
  | .highz => true
  | .jtagBypass => true
  | _ => false

/-- The unit whose failed self-test ends bring-up (R435): none for a core or a conservator, which are retired or replaced. -/
def SelfTestFail.ends (f : SelfTestFail) : Option Nat :=
  match f.unit with
  | .slice i => some i.val
  | .controller v => some v.val
  | .stepStore st => some st.val
  | .engine e => some e.val
  | .core _ => none
  | .conservator _ _ => none

end Sys2Proof

namespace Sys2Proof.Machine

/-- The canonical form of the module's memories: every coded store (shelves, CLMs, vaults) lists its cells in it. -/
def Memory.wf (s : State) : Bool :=
  storeOk shelfCodec s.shelf && storeOk clmCodec s.clm && storeOk vaultCodec s.dram

/-- The I-SRAM and the D-SRAM of each conservator. -/
def sramsOf (m : SMap Csv) (P : Nat) : List Host.Cell × List Host.Cell := ((look m P {}).isram, (look m P {}).dsram)

/-- The canonical form of the conservators' SRAMs. -/
def sramsOk (f : Nat → List Host.Cell × List Host.Cell) : Prop :=
  ∀ P, storeOk sramCodec (f P).1 = true ∧ storeOk sramCodec (f P).2 = true

/-- Every memory of the module that is kept as a list of cells is in canonical form: the coded stores and the conservators' SRAMs. -/
def State.canonical (s : State) : Prop := Memory.wf s = true ∧ sramsOk (sramsOf s.csvs)

/-- A command ended in a next state. -/
def isNext (r : Result) : Bool :=
  match r with
  | .next _ => true
  | _ => false

/-! ### Resets -/

/-- What module reset keeps: the flash, the fuses, the trip latch and the cycle counts (R441); the JTAG port and the world outside
the module are not the module's to lose. -/
def State.keptFrom (t s : State) : Prop :=
  t.flash = s.flash ∧ t.fuses = s.fuses ∧ t.boot.tripped = s.boot.tripped ∧ t.boot.tripRegion = s.boot.tripRegion
    ∧ (∀ i, (look t.thermal.cycles i {}).count = (look s.thermal.cycles i {}).count)
    ∧ t.jtag = s.jtag ∧ t.out = s.out ∧ t.free = s.free ∧ t.pending = s.pending

/-- The module is in module reset, and every field of its state but the kept ones is what it is after power-on: what remains of s in
the bring-up's, the ports' and the thermal state is the trip latch, CLK_LAST_CAUSE, the deaccessioned state where the reset keeps it,
PERST's release and the cycle counts. -/
def State.startsAfresh (t s : State) : Prop :=
  t.sup.inReset = true ∧ t.sup.rails = (if t.sup.below20 || t.sup.railOut then [] else [(209, true)]) ∧ t.sup.railsDown = []
    ∧ t.boot = { tripped := t.boot.tripped, tripRegion := t.boot.tripRegion, clkCause := t.boot.clkCause
                 deaccessioned := t.boot.deaccessioned }
    ∧ (∀ p, portOf t p = { perstReleased := (portOf s p).perstReleased, configBy := if (portOf s p).perstReleased then 25000000 else 0 })
    ∧ t.thermal = { cycles := t.thermal.cycles }
    ∧ t = { State.reset with sup := t.sup, boot := t.boot, ports := t.ports, thermal := t.thermal, flash := t.flash,
                             fuses := t.fuses, jtag := t.jtag, free := t.free, out := t.out, pending := t.pending }

/-- Bring-up has ended in the deaccessioned state, with its kind and unit in CUR_BOOT_FAIL (R435). -/
def State.endedBringup (t : State) (kind i : Nat) : Prop :=
  t.boot.valid = true ∧ t.boot.deaccessioned = true ∧ t.boot.failKind = BitVec.ofNat 4 kind ∧ t.boot.failIndex = BitVec.ofNat 12 i

/-- How many counted resets are in the window at the present beat, one that begins now included (R448). -/
def State.resetsWithNow (s : State) : Nat :=
  ((s.esc.resets ++ [now s]).filter fun b => now s - b < 250000000 * s.esc.windowS.toNat).length

/-- A domain's reset has begun at the present beat of s, for its duration, and CUR_ESC_LAST names it; causes 1 to 8 are counted, the
count brings the deaccessioned state, and every partition that the reset faults has the job fault f raised (R442, R446 to R449). -/
def State.resetBeganWith (t s : State) (k : DomainKind) (i cause : Nat) (f : FaultRec) : Prop :=
  find t.resets (256 * domCode k + i) = some (now s + domBeats k)
    ∧ t.esc.lastKind = BitVec.ofNat 3 (domCode k) ∧ t.esc.lastIndex = BitVec.ofNat 8 i ∧ t.esc.lastCause = BitVec.ofNat 4 cause
    ∧ (let counted : Bool := decide (1 ≤ cause ∧ cause ≤ 8) && !s.boot.deaccessioned
       t.esc.total = (if counted then satAdd s.esc.total 1 else s.esc.total)
         ∧ t.boot.deaccessioned = (s.boot.deaccessioned || (counted && decide (s.esc.count.toNat ≤ s.resetsWithNow))))
    ∧ (∀ p, p < 8 → resetFaults s k i p = true → f ∈ (partOf t p).faults)

/-- The same with the job fault of the reset's own cause. -/
abbrev State.resetBegan (t s : State) (k : DomainKind) (i cause : Nat) : Prop := t.resetBeganWith s k i cause (resetFault k i cause)

/-- What the reset of host port p takes away and keeps (R443): its counters, its link and its fetch are gone, and the entries
that its registrar held, which count as lost; the BAR2 base, the MSI-X table and the descriptor rings' pointers are kept. -/
def State.portLost (t s : State) (p : Nat) : Prop :=
  let y := portOf t p
  y.bar2Rd = 0 ∧ y.bar2Wr = 0 ∧ y.slotWait = 0 ∧ y.reclaimed = 0 ∧ y.refused = 0 ∧ y.dbDropped = 0 ∧ y.up = false ∧ y.fetch = none
    ∧ y.bar2Base = (portOf s p).bar2Base ∧ y.msix = (portOf s p).msix
    ∧ (∀ r x, find s.rings r = some x → portOfRing r = p → x.type_ ≠ 2 → find t.rings r = some
        { x with held := [], overflow := x.overflow || decide (0 < ringLoses s r x), lost := x.lost + ringLoses s r x })
    ∧ t.clm = s.clm ∧ t.chans = s.chans ∧ t.granules = s.granules

/-- What the reset of stack st takes away and keeps (R443): the lines, buffers and trackers of its slices, its cores with their
registers and accumulators, and its CLM are gone; the slices' counters and the timetables are kept. -/
def State.stackLost (t s : State) (st : Nat) : Prop :=
  (∀ x ∈ t.cores, stackOfCore x.1 ≠ st) ∧ (∀ x ∈ t.clm, stackOfCell 2 (16000 * 32768) x.1 ≠ st)
    ∧ (∀ x ∈ s.clm, stackOfCell 2 (16000 * 32768) x.1 ≠ st → x ∈ t.clm)
    ∧ (∀ i, i / 64 = st → sliceOf t i = { sliceOf s i with frames := [], wb := [], trackers := [], fills := [] })
    ∧ (∀ i, i / 64 ≠ st → sliceOf t i = sliceOf s i) ∧ (∀ p, (partOf t p).bound = (partOf s p).bound) ∧ t.granules = s.granules

/-- What the reset of vault v takes away and keeps (R443): bursts and queued commands are gone and the conservators halt where they
stood; the requests that stood in its windows are lost; the memories and the near-bank mode are kept. -/
def State.vaultLost (t s : State) (v : Nat) : Prop :=
  (∀ P, P / 64 = v → (csvOf t P).bursts = [] ∧ (csvOf t P).head = 0 ∧ (csvOf t P).tail = 0 ∧ (csvOf t P).state = .halted
      ∧ (csvOf t P).pc = (csvOf s P).pc ∧ (csvOf t P).isram = (csvOf s P).isram ∧ (csvOf t P).dsram = (csvOf s P).dsram)
    ∧ (∀ P, P / 64 ≠ v → csvOf t P = csvOf s P)
    ∧ (∀ P, pchOf t P = if P / 64 = v then { pchOf s P with queue := (pchOf s P).queue.filter fun c => !inVault c } else pchOf s P)
    ∧ (∀ n r, n ∈ vaultRequests s v → n < s.nextReq → find s.net n = some r → find t.net n = some { r with stage := .lost })
    ∧ t.clm = s.clm

/-- The wing, archive and vault rails are off and the shelves and vaults hold nothing (R403). -/
def State.railsCold (t s : State) : Prop :=
  (∀ r, r < 210 → look t.sup.rails r false = if r < 144 ∨ (152 ≤ r ∧ r < 200) then false else look s.sup.rails r false)
    ∧ t.shelf = [] ∧ t.dram = [] ∧ t.clm = s.clm ∧ (∀ w ∈ t.wings, w.2.railOn = false)

/-- Step e of partition p's run is committed at tier t in u, at the beat of s (R53, R57). -/
def State.commits (u s : State) (p : Nat) (r : RunCtx) (e : EvalStep) (st : StepRec) (t : Nat) (b : Tier) : Prop :=
  ∃ l, (partOf u p).run = some { r with eval := none, next := some l } ∧ l.index = e.index ∧ l.tier = t ∧ l.body = b ∧ l.step = st
    ∧ l.commit = now s ∧ l.planned = e.planned ∧ l.budgetWait = now s - e.gate.getD (now s) ∧ l.start % 4 = 0
    ∧ e.planned ≤ l.start ∧ now s + 500 ≤ l.start ∧ (partOf u p).balances = (debit (partOf s p) b).balances

/-- The state after a mailbox command's effect: the command under way carries its results. -/
def State.applied (s : State) (r : Running) (results : SMap Word) : State :=
  { s with curator := { s.curator with running := some { r with applied := true, results := results } } }

/-! ### Issues -/

/-- The issue's instruction is op, of a legal form, with sound words and no poisoned register among its sources. -/
def Issue.clean (i : Issue) (op : Nat) : Prop :=
  i.x.op = op ∧ opListed op = true ∧ i.x.regs ≠ none ∧ 4 * (i.pc + i.x.words) ≤ i.core.codeBytes ∧ badWord i.core.codeBad i.pc = none
    ∧ (i.x.ext = true → badWord i.core.codeBad (i.pc + 1) = none) ∧ poisonRead i.tour i.x i.lanes = none

/-- The hart of a conservator issues at CCLK g: the instruction's operation, the state in which it acts, and the hart at its issue. -/
def hartIssue (s : State) (P g : Nat) : Option (RvOp × State × HartAt) :=
  if !hartReady s P g || !hartReady (catchUp s P g) P g then none
  else
    match fetchRv (catchUp s P g) P with
    | (_, .inl _) => none
    | (s2, .inr (w, len)) =>
      match rvDecode w with
      | none => none
      | some op =>
        let c := csvOf s2 P
        if (rvSources op w).all fun r => r = 0 || look c.xReady r 0 ≤ g then some (op, s2, ⟨P, w, len, g, c⟩) else none

end Sys2Proof.Machine
end

