-- ==== Sys2Proof/WellFormed.lean ====
section
/-! DEFINITION. Which commands are well formed: whose operands name a unit the module has, or a reading of the size the
sensor network and the VPS have. -/

namespace Sys2Proof

/-- Number of domains of each reset kind (R442). -/
def DomainKind.size : DomainKind → Nat
  | .hostPort => 8
  | .stack => 8
  | .vault => 16
  | .curator => 1

/-- Number of switched domains of each kind in the module (R370). -/
def SwKind.size : SwKind → Nat
  | .wing => 128
  | .cabinet => 1280
  | .bankGroup => 256
  | .slice => 512
  | .conservator => 1024
  | .engine => 48

def DomainRef.wf (d : DomainRef) : Bool := d.index < d.kind.size

/-- Operand checks. A region has one sensor, and there are 528 regions (R388); the VPS reports the currents of 210 rails
(R374); a sideband write carries whole register words (R464). -/
def Instr.wf : Instr → Bool
  | .domainResetEnd k i => i < k.size
  | .domainWakeStart _ d => d.wf
  | .domainWakeComplete d => d.wf
  | .currentReport _ _ rails => rails.length = 210
  | .modelRun sensors _ _ => sensors.length = 528
  | .alwaysOnTripCheck sensors => sensors.length = 528
  | .sensorSelfCheck failed => failed.all (· < 528)
  | .fetchDataReturn _ _ data => data.length ≤ 16
  | _ => true

end Sys2Proof
end

