-- ==== Sys2Proof/Certificates/Slice0/Obligations.lean ====
section
/-! DEFINITION. What the model's users state of it: one proposition for each claim, from the numbered rules of spec/. -/

open Sys2Proof Sys2Proof.Machine

/-! ### The block as a whole -/

/-- A step takes the command at the front of the queue and executes it on the state with the queue's rest; with no command waiting
the module idles (the model's choice, log entry 1). -/
def Obligations.StepTakesTheFrontCommand : Prop :=
  ∀ (s : State) (c : Instr) (rest : List Instr),
    step { s with pending := c :: rest } = exec c { s with pending := rest }
      ∧ step { s with pending := [] } = .next { s with pending := [] }

/-- Right after reset the beat counter reads 0, no queue of the block holds anything, every partition is absent, no ring and no
granule is assigned, every wing's clock is off, the module is not VALID, and the memories are in canonical form (R30, R334,
R411, R428, R430). The readings of log entries 10 and 146 are the model's, not the spec's. -/
def Obligations.ResetLeaves : Prop :=
  State.reset.beat = 0 ∧ State.reset.pending = [] ∧ (∀ p, (partOf State.reset p).state = .absent) ∧ State.reset.rings = []
    ∧ State.reset.granules = [] ∧ State.reset.net = [] ∧ State.reset.resets = [] ∧ (∀ w, (wingOf State.reset w).clock = .off)
    ∧ State.reset.boot.valid = false ∧ (∀ a, wordRead State.reset.shelf shelfCodec a = .marker)
    ∧ (∀ a, wordRead State.reset.dram vaultCodec a = .marker) ∧ State.reset.canonical

/-- Every step keeps the coded stores and the conservators' I-SRAMs and D-SRAMs in canonical form, from every state in which they
are; and no well-formed command stops the module, but BEAT_TICK when the beat counter stands at its last value. That a command which is not due ends in a next state (it has
no effect) is the model's choice, log entry 4; which commands are ill-formed, and so stop, is the model's choice, log entry 6; the
readings of log entries 3 and 13 are the model's too. -/
def Obligations.StepKeepsMemoriesCanonical : Prop :=
  (∀ s t : State, s.canonical → step s = .next t → t.canonical)
    ∧ ∀ (s : State) (c : Instr), c.wf = true → (c = .beatTick → s.beat ≠ BitVec.allOnes 64) → ∃ t, exec c s = .next t

/-- While module reset is asserted nothing in the module happens (R428): every well-formed command but those of the power input, the
reset pins and the JTAG port leaves the state as it is. The readings of log entry 7 are the model's, not the spec's. -/
def Obligations.NothingHappensInModuleReset : Prop :=
  ∀ (s : State) (c : Instr), s.sup.inReset = true → c.wf = true → c.outsideReset = false → exec c s = .next s

/-! ### Module reset, the power input and the beat counter -/

/-- Asserting module reset, by any of its sources, keeps the flash, the fuses and the trip latch, and everything else of the
module starts as after power-on, with every rail off but the always-on rail; a clock fault leaves its cause in CLK_LAST_CAUSE. The
deaccessioned state ends, but not at a reset by the beat PLL or a clock fault. It rests on R441, R428, R451, R471 and R376, and says
only what its clauses say of them. What bring-up then does is no part of this statement (log entry 214). -/
def Obligations.ModuleResetKeeps : Prop :=
  ∀ (s : State) (src : ResetSource) (pllLost : Bool),
    (∃ t, exec (.moduleResetAssert src) s = .next t ∧ t.keptFrom s ∧ t.startsAfresh s ∧ t.boot.clkCause = s.boot.clkCause
        ∧ t.boot.deaccessioned = (decide (src = .beatPll) && s.boot.deaccessioned))
    ∧ (∃ t, exec .inputOutOfRange s = .next t ∧ t.keptFrom s ∧ t.startsAfresh s ∧ t.sup.inputOut = true
        ∧ t.boot.clkCause = s.boot.clkCause ∧ t.boot.deaccessioned = false)
    ∧ (s.sup.below20 = false → ∃ t, exec (.clockMonitorTrip pllLost) s = .next t ∧ t.keptFrom s ∧ t.startsAfresh s
        ∧ t.boot.deaccessioned = s.boot.deaccessioned ∧ t.boot.clkCause = if pllLost then 2 else 1)

/-- With the input in range, module reset deasserts at beat 0; the straps are sampled, and the ROM stage runs. The input below 20 V
holds module reset and clears CLK_LAST_CAUSE; the trip latch clears only while it stays there; its rise lets the rail and the
PLL come up. It rests on R428, R458, R405, R469 and R376, and says only what its clauses say of them. The readings of log
entries 46 and 49 are the model's, not the spec's. -/
def Obligations.ModuleResetEndsAndInputPower : Prop :=
  ∀ (s : State) (legacy : Bool) (addr : BitVec 2),
    (s.sup.inReset = true → s.sup.inputOut = false → s.sup.below20 = false →
      ∃ t, exec (.moduleResetDeassert legacy addr) s = .next t ∧ t.beat = 0 ∧ t.sup.inReset = false
        ∧ t.boot.legacy = legacy ∧ t.boot.addrSel = addr ∧ (t.boot.stage = 1 ∨ t.boot.stage = 0xE)
        ∧ (t.boot.stage = 1 ↔ (slotCheck s s.flash.preferredB = 0 ∨ slotCheck s (!s.flash.preferredB) = 0)))
    ∧ (∃ t, exec .inputBelow20V s = .next t ∧ t.sup.below20 = true ∧ t.sup.inReset = true ∧ t.boot.clkCause = 0
        ∧ t.boot.tripped = s.boot.tripped ∧ t.flash = s.flash ∧ t.fuses = s.fuses)
    ∧ (s.sup.below20 = true → exec .tripLatchClear s = .next { s with boot := { s.boot with tripped := false, tripRegion := 0 } })
    ∧ (s.sup.below20 = false → exec .tripLatchClear s = .next s)
    ∧ (s.sup.below20 = true → exec .inputRisesAbove20V s =
        .next { s with sup := { s.sup with below20 := false, railOut := false, pllOut := false } })
    ∧ (s.sup.below20 = false → exec .inputBackInRange s = .next { s with sup := { s.sup with inputOut := false } })

/-- A beat adds 1 to the beat counter, once the reports and job faults of the present beat are done with (the model's choice, log
entry 3); at 2⁶⁴ − 1 the model stops (the spec gives no value after it). No shelf, CLM or vault word and no fuse changes at a
beat, nor does the flash but where channel training ends. It rests on R30, and says only what its clauses say of them. -/
def Obligations.BeatTickCounts : Prop :=
  ∀ s : State, s.sup.inReset = false →
    (beatOpen s = false → s.beat ≠ BitVec.allOnes 64 → ∃ t, exec .beatTick s = .next t ∧ t.beat = s.beat + 1
      ∧ t.shelf = s.shelf ∧ t.clm = s.clm ∧ t.dram = s.dram ∧ t.fuses = s.fuses ∧ (s.boot.training = none → t.flash = s.flash))
    ∧ (beatOpen s = true → s.beat ≠ BitVec.allOnes 64 → exec .beatTick s = .next s)
    ∧ (s.beat = BitVec.allOnes 64 → exec .beatTick s = .fault .beatCounterEnd)

/-! ### Bring-up and recovery -/

/-- Each stage begins when the one before it ends, within that stage's longest duration, and CUR_BOOT.STAGE names it; with the trip
latch set, or in the deaccessioned state, only the plinth rails come up; failing bridge and crossing lanes are steered onto spares,
vaults without saved settings train in full and theirs are saved; a dead bridge or vault, a failing unit that bring-up needs, or more
bad sites or ways than spares end bring-up in the deaccessioned state. It rests on R429, R431 to R433 and R435 to R438, and says only
what its clauses say of them. The readings of log entries 40, 41, 44 and 45 are the model's, not the spec's. -/
def Obligations.BringupStages : Prop :=
  ∀ (s : State) (fails : List SelfTestFail) (report : TrainReport),
    (stageIs s 1 125000000 = true → s.boot.slotRun ≠ 0 →
      ∃ t, exec .stageRails s = .next t ∧ t.boot.stage = 2
        ∧ (coldHeld s = false → ∀ w, w < 128 → (wingOf t w).k = 4 ∧ (wingOf t w).railOn = true)
        ∧ (coldHeld s = true → t.wings = s.wings))
    ∧ (stageIs s 2 60000 = true → coldHeld s = false →
      ∃ t, exec (.stageTrain report) s = .next t
        ∧ (badBridge s report = none → report.deadVaults = 0 → t.boot.stage = 3 ∧ t.boot.valid = false
            ∧ t.boot.laneSpares = badLanes s report ∧ t.boot.trainFull = (report.fullVaults ||| ~~~ s.flash.savedTraining)
            ∧ t.flash.savedTraining = s.flash.savedTraining ||| t.boot.trainFull)
        ∧ (∀ i, badBridge s report = some i → t.endedBringup 1 i)
        ∧ (∀ v, badBridge s report = none → (List.range 16).find? (fun v => report.deadVaults.getLsbD v) = some v →
            t.endedBringup 2 v))
    ∧ (stageIs s 3 125000000 = true → s.boot.training = none →
      ∃ t, exec (.stageTest fails) s = .next t
        ∧ ((∀ f ∈ fails, f.ends = none) → t.boot.stage = 4 ∧ t.boot.valid = false)
        ∧ (∀ f i, fails.find? (fun f => f.ends.isSome) = some f → f.ends = some i → t.endedBringup 5 i))
    ∧ (stageIs s 4 250000 = true →
      ∃ t, exec .stageRepair s = .next t
        ∧ ((∀ v, v < 16 → (badCsvSites s v).length ≤ 4) → (∀ i ∈ recordedSlices s, (badWays s i).length ≤ 2) →
            t.boot.stage = 5 ∧ t.boot.valid = false)
        ∧ (∀ v, (List.range 16).find? (fun v => 4 < (badCsvSites s v).length) = some v → t.endedBringup 3 v)
        ∧ (∀ i, (∀ v, v < 16 → (badCsvSites s v).length ≤ 4) →
            (recordedSlices s).find? (fun i => 2 < (badWays s i).length) = some i → t.endedBringup 4 i))
    ∧ (stageIs s 5 250000 = true → ∃ t, exec .stageFill s = .next t ∧ t.boot.stage = 6 ∧ t.shelf = [] ∧ t.dram = [] ∧ t.clm = [])
    ∧ (stageIs s 6 2900000 = true → fillDone s = true → ∃ t, exec .stageCsv s = .next t ∧ t.boot.stage = 7 ∧ ∀ P, P < 1024 → domOn t .conservator P = true)
    ∧ (stageIs s 7 250000 = true →
      ∃ t, exec .stageDone s = .next t ∧ t.boot.stage = 8 ∧ t.boot.valid = true
        ∧ (s.boot.legacy = false → t.parts = s.parts)
        ∧ (s.boot.legacy = true → coldHeld s = false → (partOf t 0).state = .committed ∧ (partOf t 0).ports = 255
            ∧ (partOf t 0).wings = BitVec.allOnes 128))
    ∧ (stageIs s 2 60000 = true → coldHeld s = true →
      ∃ t, exec .stageDone s = .next t ∧ t.boot.stage = 8 ∧ t.boot.valid = true ∧ t.parts = s.parts)

/-- In RECOVERY, ERASE clears slot A, each CUR_REC_DATA write stores 4 bytes and moves the offset by 4, COMMIT starts the check, and
a passed check marks slot A preferred and restarts the ROM stage, which runs slot A. It rests on R440, and says only what its clauses say of them.
The readings of log entries 15 and 31 are the model's, not the spec's. -/
def Obligations.FirmwareRecovery : Prop :=
  ∀ (s : State) (data : BitVec 32), s.sup.inReset = false → s.boot.stage = 0xE →
    (s.boot.recBusy = none →
      (∃ t, exec .recoveryErase s = .next t ∧ t.flash.slotA = ⟨[], none⟩ ∧ t.flash.slotB = s.flash.slotB
        ∧ t.boot.recBusy = some .erase)
      ∧ (∃ t, exec (.recoveryDataWrite data) s = .next t ∧ t.boot.recOffset = s.boot.recOffset + 4
        ∧ t.flash = { s.flash with slotA := fwWrites s.flash.slotA s.boot.recOffset.toNat (leBytes data.toNat 4) })
      ∧ exec .recoveryCommit s = .next { s with boot := { s.boot with recBusy := some .check, recPassed := false, recFailed := false } })
    ∧ (s.boot.recBusy = some .erase → exec .recoveryOperationDone s = .next { s with boot := { s.boot with recBusy := none } })
    ∧ (s.boot.recBusy = some .check →
        let c := imageCheck s ((slotOf s false).image s.boot.recBytes.toNat) s.boot.recBytes.toNat
        (c = 0 → ∃ t, exec .recoveryOperationDone s = .next t ∧ t.boot.recBusy = none ∧ t.boot.recPassed = true
          ∧ t.flash.preferredB = false ∧ t.boot.stage = 1 ∧ t.boot.slotRun = 1 ∧ t.boot.stageAt = now s ∧ t.beat = s.beat)
        ∧ (c ≠ 0 → ∃ t, exec .recoveryOperationDone s = .next t ∧ t.boot.recBusy = none ∧ t.boot.recFailed = true
          ∧ t.boot.recCheck = BitVec.ofNat 8 c ∧ t.flash = s.flash))

/-! ### Reset domains -/

/-- A reset of a domain not in reset starts it for its duration, records it in CUR_ESC_LAST, counts it by its cause and faults the
partitions that R442 names; one of a domain already in reset starts nothing. What the resets of a port, a stack, a vault and the
curator take away and keep: shelf, vault and conservator memory survives each, unless the reset is the one that brings the
deaccessioned state. It rests on R442, R443, R446 and R448, and says only what its clauses say of them. The readings of log
entries 52, 61, 144, 178 and 180 are the model's, not the spec's. -/
def Obligations.DomainResets : Prop :=
  ∀ (s : State) (port stack : Fin 8) (vault : Fin 16) (cause : BitVec 4), s.sup.inReset = false →
    (inDomainReset s 1 port.val = false →
      ∃ t, exec (.hostPortReset port cause) s = .next t ∧ t.resetBegan s .hostPort port.val cause.toNat ∧ t.portLost s port.val
        ∧ (t.boot.deaccessioned = s.boot.deaccessioned → t.shelf = s.shelf ∧ t.dram = s.dram))
    ∧ (inDomainReset s 2 stack.val = false →
      ∃ t, exec (.stackReset stack cause) s = .next t ∧ t.resetBegan s .stack stack.val cause.toNat ∧ t.stackLost s stack.val
        ∧ (t.boot.deaccessioned = s.boot.deaccessioned → t.shelf = s.shelf ∧ t.dram = s.dram))
    ∧ (inDomainReset s 3 vault.val = false →
      ∃ t, exec (.vaultReset vault cause) s = .next t ∧ t.resetBegan s .vault vault.val cause.toNat ∧ t.vaultLost s vault.val
        ∧ (t.boot.deaccessioned = s.boot.deaccessioned → t.shelf = s.shelf ∧ t.dram = s.dram))
    ∧ (inDomainReset s 4 0 = false →
      ∃ t, exec (.curatorReset cause) s = .next t ∧ t.resetBegan s .curator 0 cause.toNat ∧ t.curator.running = none
        ∧ t.curator.queue = s.curator.queue)
    ∧ (inDomainReset s 1 port.val = true → exec (.hostPortReset port cause) s = .next s)
    ∧ (inDomainReset s 2 stack.val = true → exec (.stackReset stack cause) s = .next s)
    ∧ (inDomainReset s 3 vault.val = true → exec (.vaultReset vault cause) s = .next s)
    ∧ (inDomainReset s 4 0 = true → exec (.curatorReset cause) s = .next s)

/-- Function-level reset, hot reset and link-down reset the port's domain with cause 9, which is not counted; the link comes up out
of reset; PERST's release starts the configuration time; a reset ends at its duration's end, where the rails that faulted in its domain are
on again. It rests on R311, R369, R430 and R442,
and says only what its clauses say of them. The readings of log entries 50 and 51 are the model's, not the spec's. -/
def Obligations.PcieResetsAndLinks : Prop :=
  ∀ (s : State) (port : Fin 8) (rate : BitVec 3) (width : BitVec 5) (flit : Bool) (kind : DomainKind) (index e : Nat),
    s.sup.inReset = false →
    (inDomainReset s 1 port.val = false →
      (∃ t, exec (.pcieFunctionLevelReset port) s = .next t ∧ t.resetBegan s .hostPort port.val 9 ∧ t.esc.total = s.esc.total)
      ∧ (∃ t, exec (.pcieHotReset port) s = .next t ∧ t.resetBegan s .hostPort port.val 9 ∧ t.esc.total = s.esc.total)
      ∧ (∃ t, exec (.pcieLinkDown port) s = .next t ∧ t.resetBegan s .hostPort port.val 9 ∧ t.esc.total = s.esc.total)
      ∧ exec (.pcieLinkUp port rate width flit) s =
          .next (mapPort s port.val fun p => { p with up := true, rate := rate, width := width, flit := flit }))
    ∧ (∃ t, exec (.perstRelease port) s = .next t ∧ (portOf t port.val).perstReleased = true
        ∧ (portOf t port.val).configBy = now s + 25000000)
    ∧ (find s.resets (256 * domCode kind + index) = some e → e = now s →
        ∃ t, exec (.domainResetEnd kind index) s = .next t ∧ t.resets = drop s.resets (256 * domCode kind + index)
          ∧ (∀ r ∈ s.sup.railsDown, railDomain r = some (kind, index) → railIsOn t r = true)
          ∧ (∀ r, r ∉ s.sup.railsDown ∨ railDomain r ≠ some (kind, index) → railIsOn t r = railIsOn s r)
          ∧ t.sup.railsDown = s.sup.railsDown.filter fun r => decide (railDomain r ≠ some (kind, index)))

/-- At its beat, the shutdown after a trip or after deaccessioning switches off every wing, archive and vault rail, and every shelf
and vault word counts as unwritten; the other rails stay. The fault of a rail that is on sets its bit and RAIL_FAULT, switches it off and
resets the smallest domain with that rail (cause 7); the always-on rail's fault asserts module reset. It rests on R369, R403 and R449,
and says only what its clauses say of them. The readings of log entry 176 are the model's, not the spec's. -/
def Obligations.RailShutdownsAndFaults : Prop :=
  ∀ (s : State) (rail : Fin 210), s.sup.inReset = false →
    (s.boot.deaccOffAt = some (now s) → ∃ t, exec .deaccessionRailShutdown s = .next t ∧ t.railsCold s ∧ t.boot.deaccOffAt = none)
    ∧ (s.boot.tripOffAt = some (now s) → ∃ t, exec .tripRailShutdown s = .next t ∧ t.railsCold s ∧ t.boot.tripOffAt = none)
    ∧ (∀ k i, railIsOn s rail.val = true → railDomain rail.val = some (k, i) → inDomainReset s (domCode k) i = false →
      ∃ t, exec (.railFault rail) s = .next t ∧ find t.resets (256 * domCode k + i) = some (now s + domBeats k)
        ∧ railIsOn t rail.val = false ∧ rail.val ∈ t.sup.railsDown ∧ t.esc.lastCause = 7 ∧ t.power.railFaultFlag = true ∧ t.power.railFault = setBit s.power.railFault rail.val
        ∧ t.boot.alertRail = true)
    ∧ (railIsOn s rail.val = true → railDomain rail.val = none → ∃ t, exec (.railFault rail) s = .next t ∧ t.sup.inReset = true ∧ t.sup.railOut = true
        ∧ t.flash = s.flash ∧ t.fuses = s.fuses)

/-! ### The sequencer -/

/-- At its evaluation beat a step whose gate is closed is looked at again 4 beats later; one whose gate is open takes the gate's
count and is committed at the fastest allowed tier that fits, or waits 256 beats for its budget; gates and caps count as they
stood when the beat began, and the balance as the beat's metered charges leave it. The first time its budget wait has reached SEQ_WAIT_EVT, which is not 0, STEP_DELAYED is posted,
once. It rests on R52, R53, R54, R65 and R382, and says only what its clauses say of them. The readings of log entries 5, 72, 73 and
208 are the model's, not the spec's. -/
def Obligations.StepEvaluation : Prop :=
  ∀ (s : State) (part : Fin 8) (r : RunCtx) (e : EvalStep) (st : StepRec) (t : Nat) (b : Tier),
    let p := part.val
    let x := partOf s p
    let v := seenInputs x (now s)
    let n := look v.gates st.gateId 0
    let w := x.waitEvt.toNat
    let taken := if st.gateEn then put x.gates st.gateId (look x.gates st.gateId 0 - 1) else x.gates
    s.sup.inReset = false → x.run = some r → r.eval = some e →
      (r.next = none → chargesDue s p = false → stepOf s p r e.index = some st →
        (e.gate = none → e.at_ = now s → st.gateEn = true → n = 0 →
          exec (.evaluateStep part) s = .next (setRun s p { r with eval := some { e with at_ := now s + 4 } }))
        ∧ (e.gate = none → e.at_ = now s → (st.gateEn = false ∨ n ≠ 0) → chosenTier v st = some (t, b) →
          ∃ u, exec (.evaluateStep part) s = .next u ∧ u.commits s p r { e with gate := some (now s) } st t b
            ∧ (partOf u p).gates = taken)
        ∧ (e.gate = none → e.at_ = now s → (st.gateEn = false ∨ n ≠ 0) → chosenTier v st = none →
          ∃ u, exec (.evaluateStep part) s = .next u ∧ (partOf u p).gates = taken ∧ (partOf u p).balances = x.balances
            ∧ (partOf u p).run = some { r with eval := some { e with gate := some (now s), at_ := now s + 256 } })
        ∧ (e.gate = none → e.at_ ≤ now s → now s % 4 = 0 → st.gateEn = true → n ≠ 0 → chosenTier v st = some (t, b) →
          ∃ u, exec (.gateMet part) s = .next u ∧ u.commits s p r { e with gate := some (now s) } st t b
            ∧ (partOf u p).gates = taken)
        ∧ (e.gate.isSome = true → e.at_ = now s → chosenTier v st = some (t, b) →
          ∃ u, exec (.budgetRetry part) s = .next u ∧ u.commits s p r e st t b ∧ (partOf u p).gates = x.gates)
        ∧ (e.gate.isSome = true → e.at_ = now s → chosenTier v st = none →
          ∃ u, exec (.budgetRetry part) s = .next u
            ∧ (partOf u p).run = some { r with eval := some { e with at_ := now s + 256 } }
            ∧ (partOf u p).balances = x.balances ∧ (partOf u p).gates = x.gates
            ∧ (partOf u p).seqStatus = if capAllows v st then x.seqStatus else setBit x.seqStatus 2))
      ∧ (∀ g, e.gate = some g →
        (e.eventPosted = false → w ≠ 0 → g + w ≤ now s →
          exec (.stepDelayed part) s = .next (setRun (postEvent s p 1 [e.index, now s - g]) p
            { r with eval := some { e with eventPosted := true } }))
        ∧ ((e.eventPosted = true ∨ w = 0 ∨ now s < g + w) → exec (.stepDelayed part) s = .next s))

/-- A commit at beat b sets the step's start to a multiple of 4, not before the planned start, b + 500, or b + 64 and any wake
time of its list, counts the budget wait from the gate, and debits the tier's energies. It rests on R53, R57 and R383, and says only
what its clauses say of them. -/
def Obligations.CommitSetsTheStart : Prop :=
  ∀ (s : State) (p g t : Nat) (r : RunCtx) (e : EvalStep) (st : StepRec) (b : Tier), e.gate = some g →
    ∃ l, ((partOf (commitStep s p r e st t b) p).run = some { r with eval := none, next := some l })
      ∧ l.start % 4 = 0 ∧ e.planned ≤ l.start ∧ now s + 500 ≤ l.start
      ∧ (∀ w ∈ st.wakes, now s + 64 + entryWake s p t w ≤ l.start)
      ∧ l.start < max e.planned (now s + max 500 (64 + (st.wakes.map (entryWake s p t)).foldl max 0)) + 4
      ∧ l.index = e.index ∧ l.tier = t ∧ l.commit = now s ∧ l.planned = e.planned ∧ l.budgetWait = now s - g
      ∧ (partOf (commitStep s p r e st t b) p).inBalance = (partOf s p).inBalance - uj b.total
      ∧ (partOf (commitStep s p r e st t b) p).balances = (debit (partOf s p) b).balances
      ∧ (commitStep s p r e st t b).power.noticeAt = s.power.noticeAt ++ [(p, now s + 8, noticesOf l)]

/-- The commit reaches the stack sequencers 64 beats after it, and the VPS holds the step's notice 8 beats after it. A wake entry's
domain begins its wake its wake time before the start, and is usable at the wake's end; an entry of a domain that the partition
may not wake sets WAKE_SKIPPED. A stack sequencer in reset, or whose stack was in reset at the commit's arrival, does
nothing. It rests on R29, R57, R58, R371 and R372, and says only what
its clauses say of them. The readings of log entries 74 and 177 are the model's, not the spec's. -/
def Obligations.CommitsArriveAndDomainsWake : Prop :=
  ∀ (s : State) (part : Fin 8) (dom : DomainRef) (r : RunCtx) (l : LiveStep), s.sup.inReset = false →
    let p := part.val
    (∀ n, s.power.noticeAt.find? (fun n => n.1 = p && n.2.1 = now s) = some n →
      ∃ t, exec (.advanceNoticeReceipt part) s = .next t ∧ (∀ m ∈ n.2.2, m ∈ t.power.notices)
        ∧ t.power.noticeAt = s.power.noticeAt.erase n ∧ t.parts = s.parts ∧ t.wings = s.wings)
    ∧ ((partOf s p).run = some r → r.next = some l →
      (l.arrived = false → l.commit + 64 = now s →
        exec (.commitArrival part) s = .next (setRun s p { r with next := some { l with
          arrived := true, unheard := (List.range 8).filter fun st => inDomainReset s 2 st } }))
      ∧ (hears s l (stackOfDom dom.kind dom.index) = false → exec (.domainWakeStart part dom) s = .next s)
      ∧ (∀ e n, l.arrived = true → hears s l (stackOfDom dom.kind dom.index) = true →
        l.step.wakes.zipIdx.find? (fun y => y.1.kind = SwKind.code dom.kind && y.1.index = dom.index && y.2 ∉ l.woken) = some (e, n) →
        let s' := setRun s p { r with next := some { l with woken := l.woken ++ [n] } }
        (mayWake s p dom.kind dom.index = true → wakeTime s dom.kind dom.index (e.k l.tier) ≠ 0 →
          now s + wakeTime s dom.kind dom.index (e.k l.tier) = l.start →
          exec (.domainWakeStart part dom) s = .next (beginWake s' dom.kind dom.index (e.k l.tier)))
        ∧ (mayWake s p dom.kind dom.index = false →
          exec (.domainWakeStart part dom) s = .next (mapPart s' p fun y => y.powerFlag 0 (now s)))))
    ∧ (dom.kind = .wing → (wingOf s dom.index).clock = .changing → (wingOf s dom.index).until_ = now s →
      switchWaits s dom.index = false →
      ∃ t, exec (.domainWakeComplete dom) s = .next t ∧ (wingOf t dom.index).clock = .running
        ∧ (wingOf t dom.index).k = (wingOf s dom.index).kNext ∧ (wingOf t dom.index).railOn = true)
    ∧ (dom.kind ≠ .wing → let i := physDom s dom.kind dom.index
      (domOf s dom.kind i).state = .waking → (domOf s dom.kind i).until_ = now s →
      ∃ t, exec (.domainWakeComplete dom) s = .next t ∧ domOn t dom.kind i = true ∧ t.wings = s.wings)

/-- At its start beat an arrived step whose records are read executes, with every done report of it awaited, and its successor comes
up for evaluation at max(E − LEAD, s); where a word of its record in the step store is uncorrectable, the partition's job fault is
raised instead (log entry 196 places that check at the start beat). The entries of the executing step act at their beats: a slot-plan entry comes into force,
and a launch whose record has been read starts in its cabinet or, while that runs another, waits. From the commit's arrival to
the start, the stack sequencer reads each record of the step, as device memory holds it; one that cannot be read raises a job
fault. It rests on R21, R60, R99, R102, R279, R410 and R475, and says only what its clauses say of them. The readings of log entries 72,
76, 172 and 177 are the model's, not the spec's. -/
def Obligations.StepsStartAndActAtTheirBeats : Prop :=
  ∀ (s : State) (part : Fin 8) (r : RunCtx) (l : LiveStep), s.sup.inReset = false → (partOf s part.val).run = some r →
    let p := part.val
    (r.exec = none → r.next = some l → l.arrived = true → l.start = now s → recordsIn s l = true →
      let bad := (find (partOf s p).bound r.handle).bind fun tt => badStepWord tt l.step
      (∀ w, bad = some w → owned (partOf s p) = true → ∃ t f, exec (.stepStart part) s = .next t ∧ (partOf t p).run = some r
        ∧ f ∈ (partOf t p).faults ∧ f.kind = 7 ∧ f.code = w.2.2.cls.1 ∧ f.stack = w.1)
      ∧ (bad = none → ∃ t l', exec (.stepStart part) s = .next t
        ∧ (partOf t p).run = some { r with next := none, exec := some l', eval := successor s p r l }
        ∧ l'.index = l.index ∧ l'.tier = l.tier ∧ l'.start = l.start
        ∧ l'.launchOpen = List.range l.body.launches.length ∧ l'.engineOpen = List.range l.body.engines.length
        ∧ (partOf t p).stepIndex = BitVec.ofNat 32 l.index
        ∧ (partOf t p).slip = satAdd (partOf s p).slip (l.start - l.planned)))
    ∧ (∀ entry e, r.exec = some l → l.body.slots[entry]? = some e → entry ∉ l.slotsOn → l.start + e.first = now s → hears s l (stackOfRes e.kind e.res) = true →
      ∃ t, exec (.slotPlanEntryStart part entry) s = .next t ∧ t.plan = s.plan ++ [(p, e, now s)]
        ∧ execOf t p = some { l with slotsOn := l.slotsOn ++ [entry] })
    ∧ (∀ cab n d, r.exec = some l → dueLaunch s l (cabId cab) = some n → find l.launchRead n = some d →
        hears s l (cabId cab / 144) = true →
      let s' := setExec s p { l with launched := l.launched ++ [n] }
      exec (.kernelLaunch part cab) s = .next (if (cabOf s (cabId cab)).busy || (cabOf s (cabId cab)).waiting ≠ [] then
        mapCab s' (cabId cab) fun c => { c with waiting := c.waiting ++ [(d, n, now s)] } else startLaunch s' (cabId cab) n d))
    ∧ (∀ isEngine entry a n st, r.next = some l → l.arrived = true → now s < l.start → recordAddr l isEngine entry = some (a, n, st) →
        hears s l st = true →
      let x := peekBytes s a n
      (∀ d, x.2.1 = some d →
        exec (.stackSequencerRecordRead part isEngine entry) s =
          .next (setRun x.1 p { r with next := some (putRecord l isEngine entry d) }))
      ∧ (x.2.1 = none →
        exec (.stackSequencerRecordRead part isEngine entry) s = .next (raiseFault x.1 p ⟨7, 2, st, 0, x.2.2⟩)))

/-- A launch with a sound record makes its cabinet busy from the present beat, with its timeout and core mask, and each masked core
whose channel works holds its first tours; the launch that has waited longest starts at the beat of the done report, and the
wait is counted. It rests on R100, R102, R104 and R105, and says only what its clauses say of them. The readings of log entries
78, 151, 159 and 172 are the model's, not the spec's. -/
def Obligations.LaunchStarts : Prop :=
  ∀ (s : State) (cab : CabRef) (d : BitVec 512) (n b : Nat), launchOk d = true →
    let id := cabId cab
    let t := startLaunch s id n d
    (∀ k, k < 96 → (chanOf s (siteOfCore s (96 * id + k))).failed = false) →
      ((cabOf t id).busy = true ∧ (cabOf t id).started = now s ∧ (cabOf t id).entry = n
        ∧ (cabOf t id).timeout = (if lrField d 0x28 0 32 = 0 then 2500000 else lrField d 0x28 0 32)
        ∧ (cabOf t id).mask = BitVec.ofNat 96 (lrField d 16 0 96)
        ∧ (∀ k, k < 96 → (BitVec.ofNat 96 (lrField d 16 0 96)).getLsbD k = true →
            coreOf t (96 * id + k) = launchCore d (96 * id + k) (wtime s (id / 9) 0) (coreOf s (96 * id + k)))
        ∧ t.shelf = s.shelf ∧ t.dram = s.dram ∧ t.clm = s.clm)
      ∧ (s.sup.inReset = false → (∀ rest, (cabOf s id).waiting = (d, n, b) :: rest → (cabOf s id).busy = false → (cabOf s id).doneFrom = now s →
        ∃ u, exec (.delayedLaunchStart cab) s = .next u ∧ (cabOf u id).busy = true ∧ (cabOf u id).started = now s
          ∧ (cabOf u id).waiting = rest ∧ (cabOf u id).launchWait = satAdd (cabOf s id).launchWait (now s - b)))

/-- A cabinet whose cores are done reports at the beat boundary; a step that lacks a report at its planned end overruns. A step ends
at the later of its planned end and its last done report, once every report is in; SEQ_STEPS and SEQ_OVERRUN count it, and a run
with no successor returns to BOUND. It rests on R49, R61, R64 and R103, and says only what its clauses say of them. The readings
of log entries 75, 77, 93, 148 and 182 are the model's, not the spec's. -/
def Obligations.ReportsAndStepEnds : Prop :=
  ∀ (s : State) (cab : CabRef) (part : Fin 8) (r : RunCtx) (l : LiveStep), s.sup.inReset = false →
    let id := cabId cab
    let c := cabOf s id
    let p := part.val
    (c.busy = true → c.doneFrom ≤ now s → (∀ k, k < 96 → c.mask.getLsbD k = true → coreDone s (96 * id + k) = true) →
      ∃ t, exec (.cabinetDoneReport cab) s = .next t ∧ (cabOf t id).busy = false
        ∧ (∀ x ∈ t.cores, cabOfCore x.1 = id → x.2.done = true)
        ∧ (execOf s c.part = some l → execOf t c.part = some { l with launchOpen := l.launchOpen.erase c.entry, lastDone := now s }))
    ∧ (execOf s p = some l → l.overrunOn = false → l.start + l.body.length = now s → reportsIn l = false →
      exec (.stepPlannedEnd part) s = .next (setExec s p { l with overrunOn := true }))
    ∧ ((partOf s p).run = some r → r.exec = some l → reportsIn l = true → now s = max (l.start + l.body.length) l.lastDone →
      ∃ t, exec (.stepEnd part) s = .next t
        ∧ (partOf t p).steps = satAdd (partOf s p).steps 1
        ∧ (partOf t p).overrun = satAdd (partOf s p).overrun (now s - (l.start + l.body.length))
        ∧ (partOf t p).seqStatus = (endStep (partOf s p) (now s - (l.start + l.body.length)) (now s)).seqStatus
        ∧ (r.next = none → l.step.next = 0xFFFFFFFF → (partOf t p).run = none ∧ (partOf t p).runState = .bound)
        ∧ (∀ n, r.next = some n → ∃ n' r', (partOf t p).run = some r' ∧ r'.exec = none ∧ r'.next = some n'
            ∧ n'.start = max n.start (roundUp (now s) 4) ∧ r'.lastEnded = some l.index))

/-- At twice its length a step that lacks reports resets each stack that lacks one, and at its timeout a launch resets its stack;
each raises its job fault, and the launch's stands in its cabinet's fault registers with code 0x07; neither fires in the beat in
which the work completes. The delivery of a job fault whose report has been collected ends the partition's run, counts a new
job unless JOB_HELD stands, sets JOB_HELD and ends its kernels; the partition's other faults stay to be delivered. It rests on
R62, R63, R104, R337 and R447, and says only what its clauses say of them. The readings of log entries 76, 77, 139, 151 and 181 are
the model's, not the spec's. -/
def Obligations.TimeoutsAndJobFaults : Prop :=
  ∀ (s : State) (part : Fin 8) (l : LiveStep) (cab : CabRef), s.sup.inReset = false →
    let p := part.val
    (execOf s p = some l → l.start + 2 * l.body.length = now s → reportsNow s p l = false → owned (partOf s p) = true →
      ∃ t, exec (.stepTimeout part) s = .next t ∧ (∀ st ∈ lateStacks l, inDomainReset t 2 st = true)
        ∧ ⟨7, 1, (lateStacks l).headD 0, 0, none⟩ ∈ (partOf t p).faults
        ∧ (∀ st, lateStacks l = [st] → inDomainReset s 2 st = false → t.resetBeganWith s .stack st 1 ⟨7, 1, st, 0, none⟩))
    ∧ ((cabOf s (cabId cab)).busy = true → (cabOf s (cabId cab)).started + (cabOf s (cabId cab)).timeout = now s →
      kernelEnds s (cabId cab) = false →
      let st := cabId cab / 144
      let f : FaultRec := ⟨1, 7, st, cabUnit s (cabId cab), none⟩
      ∃ t, exec (.kernelTimeout cab) s = .next t ∧ inDomainReset t 2 st = true
        ∧ (inDomainReset s 2 st = false → t.resetBeganWith s .stack st 2 f)
        ∧ (owned (partOf s (cabOf s (cabId cab)).part) = true → f ∈ (partOf t (cabOf s (cabId cab)).part).faults)
        ∧ ((cabOf s (cabId cab)).faultSet = false → (cabOf t (cabId cab)).faultSet = true ∧ (cabOf t (cabId cab)).fault0 = 7
            ∧ (cabOf t (cabId cab)).fault1 = 0))
    ∧ ((execOf s p = some l → reportsNow s p l = true → exec (.stepTimeout part) s = .next s)
      ∧ (kernelEnds s (cabId cab) = true → exec (.kernelTimeout cab) s = .next s))
    ∧ (∀ f rest, (partOf s p).faults = f :: rest → faultCollected s f = true →
      ∃ t, exec (.jobFaultDelivery part) s = .next t ∧ (partOf t p).held = true
        ∧ (partOf t p).faults = rest ∧ (partOf t p).run = none
        ∧ (partOf t p).job = (if (partOf s p).held then (partOf s p).job else (partOf s p).job + 1)
        ∧ (∀ x ∈ t.cores, (partOf s p).wings.getLsbD (wingOfCore x.1) = true → x.2.active = [] ∧ x.2.pendingSet = [])
        ∧ t.plan = s.plan)

/-! ### Xilon: the issue, the register instructions and their results -/

/-- The results of the integer instructions, in every lane whose guard is true; the immediate is the sign-extended 10-bit field or
the extension word. `finishV s i r f` writes f's value of each lane into D, r GCLK from the issue on (XilonRegisterFrame says
what else it does). It rests on R110, R117 and R119, and says only what its clauses say of them. The readings of log entries 80,
84 and 152 are the model's, not the spec's. -/
def Obligations.XilonIntegerResults : Prop :=
  ∀ (s : State) (core : CoreRef) (j : Fin 7) (i : Issue), issueAt s (coreId core) j.val = some i →
    let a := opA i.tour i.x
    let b := opB i.tour i.x
    let va := fun l => getV i.tour l i.x.a
    let n : Word := if i.x.ext then BitVec.ofNat 32 i.x.w1 else (BitVec.ofNat 10 i.x.imm10).signExtend 32
    (i.clean 0x01 → exec (.xilonNop core j) s = .next (finish s i i.core))
    ∧ (i.clean 0x02 → exec (.add core j) s = .next (finishV s i 2 fun l => a l + b l))
    ∧ (i.clean 0x03 → exec (.sub core j) s = .next (finishV s i 2 fun l => a l - b l))
    ∧ (i.clean 0x04 → exec (.mul core j) s = .next (finishV s i 4 fun l => a l * b l))
    ∧ (i.clean 0x05 → exec (.mulhiS core j) s =
        .next (finishV s i 4 fun l => (((a l).signExtend 64 * (b l).signExtend 64) >>> 32).setWidth 32))
    ∧ (i.clean 0x06 → exec (.mulhiU core j) s =
        .next (finishV s i 4 fun l => (((a l).setWidth 64 * (b l).setWidth 64) >>> 32).setWidth 32))
    ∧ (i.clean 0x07 → exec (.and core j) s = .next (finishV s i 2 fun l => a l &&& b l))
    ∧ (i.clean 0x08 → exec (.or core j) s = .next (finishV s i 2 fun l => a l ||| b l))
    ∧ (i.clean 0x09 → exec (.xor core j) s = .next (finishV s i 2 fun l => a l ^^^ b l))
    ∧ (i.clean 0x0A → exec (.shl core j) s = .next (finishV s i 2 fun l => a l <<< ((b l).toNat % 32)))
    ∧ (i.clean 0x0B → exec (.shrU core j) s = .next (finishV s i 2 fun l => a l >>> ((b l).toNat % 32)))
    ∧ (i.clean 0x0C → exec (.shrS core j) s = .next (finishV s i 2 fun l => (a l).sshiftRight ((b l).toNat % 32)))
    ∧ (i.clean 0x0D → exec (.minS core j) s = .next (finishV s i 2 fun l => if (b l).slt (a l) then b l else a l))
    ∧ (i.clean 0x0E → exec (.minU core j) s = .next (finishV s i 2 fun l => if (b l).ult (a l) then b l else a l))
    ∧ (i.clean 0x0F → exec (.maxS core j) s = .next (finishV s i 2 fun l => if (a l).slt (b l) then b l else a l))
    ∧ (i.clean 0x10 → exec (.maxU core j) s = .next (finishV s i 2 fun l => if (a l).ult (b l) then b l else a l))
    ∧ (i.clean 0x11 → exec (.sel core j) s = .next (finishV s i 2 fun l => if getP i.tour l (i.x.m / 4) then a l else b l))
    ∧ (i.clean 0x18 → exec (.addi core j) s = .next (finishV s i 2 fun l => va l + n))
    ∧ (i.clean 0x19 → exec (.andi core j) s = .next (finishV s i 2 fun l => va l &&& n))
    ∧ (i.clean 0x1A → exec (.ori core j) s = .next (finishV s i 2 fun l => va l ||| n))
    ∧ (i.clean 0x1B → exec (.xori core j) s = .next (finishV s i 2 fun l => va l ^^^ n))
    ∧ (i.clean 0x1C → exec (.shli core j) s = .next (finishV s i 2 fun l => va l <<< (n.toNat % 32)))
    ∧ (i.clean 0x1D → exec (.shriU core j) s = .next (finishV s i 2 fun l => va l >>> (n.toNat % 32)))
    ∧ (i.clean 0x1E → exec (.shriS core j) s = .next (finishV s i 2 fun l => (va l).sshiftRight (n.toNat % 32)))
    ∧ (i.clean 0x1F → exec (.movi core j) s = .next (finishV s i 2 fun _ => n))

/-- The results of the floating-point, special-function and convert instructions; the special-function unit takes the next issue 4
GCLK later, and its results come after 15. It rests on R118, R120, R121, R124 and R183, and says only what its clauses say of
them. The readings of log entries 80 and 84 are the model's, not the spec's. -/
def Obligations.XilonFloatResults : Prop :=
  ∀ (s : State) (core : CoreRef) (j : Fin 7) (i : Issue), issueAt s (coreId core) j.val = some i →
    let a := opA i.tour i.x
    let b := opB i.tour i.x
    let va := fun l => getV i.tour l i.x.a
    let vb := fun l => getV i.tour l i.x.b
    let vc := fun l => getV i.tour l i.x.m
    let sfu := fun f : Nat → Word => finishV s { i with core := { i.core with sfuFree := i.g + 4 } } 15 f
    (i.clean 0x20 → exec (.fadd core j) s = .next (finishV s i 4 fun l => enc32 ((dec32 (a l)).add (dec32 (b l)))))
    ∧ (i.clean 0x21 → exec (.fsub core j) s = .next (finishV s i 4 fun l => enc32 ((dec32 (a l)).add (dec32 (b l)).neg)))
    ∧ (i.clean 0x22 → exec (.fmul core j) s = .next (finishV s i 4 fun l => enc32 ((dec32 (a l)).mul (dec32 (b l)))))
    ∧ (i.clean 0x23 → exec (.fmin core j) s = .next (finishV s i 2 fun l => fmin32 (a l) (b l)))
    ∧ (i.clean 0x24 → exec (.fmax core j) s = .next (finishV s i 2 fun l => fmax32 (a l) (b l)))
    ∧ (i.clean 0x25 → exec (.fabs core j) s = .next (finishV s i 2 fun l => a l &&& 0x7FFFFFFF#32))
    ∧ (i.clean 0x26 → exec (.fneg core j) s = .next (finishV s i 2 fun l => a l ^^^ 0x80000000#32))
    ∧ (i.clean 0x28 → exec (.ffma core j) s = .next (finishV s i 4 fun l => ffma32 (va l) (vb l) (vc l)))
    ∧ (i.clean 0x29 → exec (.ffmaUb core j) s = .next (finishV s i 4 fun l => ffma32 (va l) (getU i.tour i.x.b) (vc l)))
    ∧ (i.clean 0x2A → exec (.ffmaUc core j) s = .next (finishV s i 4 fun l => ffma32 (va l) (vb l) (getU i.tour i.x.m)))
    ∧ (i.clean 0x2B → exec (.ffmaUbc core j) s =
        .next (finishV s i 4 fun l => ffma32 (va l) (getU i.tour i.x.b) (getU i.tour i.x.m)))
    ∧ (i.clean 0x2C → exec (.frcp core j) s = .next (sfu fun l => frcp32 (a l)))
    ∧ (i.clean 0x2D → exec (.frsqrt core j) s = .next (sfu fun l => frsqrt32 (a l)))
    ∧ (i.clean 0x2E → exec (.fexp2 core j) s = .next (sfu fun l => fexp232 (a l)))
    ∧ (i.clean 0x2F → exec (.flog2 core j) s = .next (sfu fun l => flog232 (a l)))
    ∧ (∀ f : Nat → Word, (∀ l, cvtWord i.x.m (va l) (vb l) = some (f l)) → i.clean 0x34 →
        exec (.cvt core j) s = .next (finishV s i 4 f))

/-- The results of the compare, predicate, uniform and lane instructions. It rests on R116, R117, R122, R123 and R125, and says only
what its clauses say of them. -/
def Obligations.XilonPredicateUniformAndLaneResults : Prop :=
  ∀ (s : State) (core : CoreRef) (j : Fin 7) (i : Issue), issueAt s (coreId core) j.val = some i →
    let a := opA i.tour i.x
    let b := opB i.tour i.x
    let ua := getU i.tour i.x.a
    let ub := getU i.tour i.x.b
    (∀ f : Nat → Bool, (∀ l, condInt (i.x.m / 4) (a l).toInt (b l).toInt = some (f l)) → i.clean 0x30 →
        exec (.setpS core j) s = .next (finishP s i f))
    ∧ (∀ f : Nat → Bool, (∀ l, condInt (i.x.m / 4) (a l).toNat (b l).toNat = some (f l)) → i.clean 0x31 →
        exec (.setpU core j) s = .next (finishP s i f))
    ∧ (∀ f : Nat → Bool, (∀ l, condFloat (i.x.m / 4) (a l) (b l) = some (f l)) → i.clean 0x32 →
        exec (.setpF core j) s = .next (finishP s i f))
    ∧ (i.clean 0x33 → exec (.plog core j) s = .next (finishP s i fun l =>
        predLogic (i.x.m % 4) (i.x.m.testBit 2) (getP i.tour l i.x.a) (getP i.tour l i.x.b)))
    ∧ (∀ inv p q, predLogic 0 inv p q = ((p && q) != inv) ∧ predLogic 1 inv p q = ((p || q) != inv)
        ∧ predLogic 2 inv p q = ((p != q) != inv) ∧ predLogic 3 inv p q = ((p && !q) != inv))
    ∧ (4 * i.pc < i.core.codeBytes → badWord i.core.codeBad i.pc = none → i.x.op = 0x33 → 8 ≤ i.x.m →
        exec (.plog core j) s = .next (issueFault s i 0x10))
    ∧ (∀ f, i.x.d = 7 → finishP s i f = finish s i i.core)
    ∧ (∀ f, i.x.d ≠ 7 → finishP s i f = finish s i { i.core with
        results := i.core.results ++ [⟨i.tour.index, .pred i.x.d (i.on.map fun l => (l, f l)), i.g + 1⟩] })
    ∧ (∀ r v, 1 ≤ r → finishU s i r v = finish s i { i.core with
        results := i.core.results ++ [⟨i.tour.index, .uni i.x.d v, i.g + (r - 1)⟩] })
    ∧ (i.clean 0x38 → exec (.uadd core j) s = .next (finishU s i 2 (ua + ub)))
    ∧ (i.clean 0x39 → exec (.usub core j) s = .next (finishU s i 2 (ua - ub)))
    ∧ (i.clean 0x3A → exec (.umul core j) s = .next (finishU s i 4 (ua * ub)))
    ∧ (i.clean 0x3B → exec (.uand core j) s = .next (finishU s i 2 (ua &&& ub)))
    ∧ (i.clean 0x3C → exec (.uor core j) s = .next (finishU s i 2 (ua ||| ub)))
    ∧ (i.clean 0x3D → exec (.uxor core j) s = .next (finishU s i 2 (ua ^^^ ub)))
    ∧ (i.clean 0x3E → exec (.ushl core j) s = .next (finishU s i 2 (ua <<< (ub.toNat % 32))))
    ∧ (i.clean 0x3F → exec (.ushr core j) s = .next (finishU s i 2 (ua >>> (ub.toNat % 32))))
    ∧ (i.clean 0x40 → exec (.uaddi core j) s = .next (finishU s i 2 (ua + i.x.imm)))
    ∧ (i.clean 0x41 → exec (.umovi core j) s = .next (finishU s i 2 i.x.imm))
    ∧ (i.clean 0x42 → exec (.uGet core j) s = .next (finishU s i 2 (getV i.tour (i.x.b % 16) i.x.a)))
    ∧ (i.clean 0x43 → exec (.vote core j) s = .next (finishU s i 2
        (BitVec.ofNat 32 (laneMask (i.lanes.filter fun l => getP i.tour l i.x.a)))))
    ∧ (i.clean 0x44 → exec (.shfl core j) s = .next (finishV s i 3 fun l => getV i.tour ((b l).toNat % 16) i.x.a))

/-- What an issue that writes D changes. One result is put under way, for the lanes whose guard is true; the lanes of the issue
group advance by the instruction's words and no other lane does; every register, predicate and other tour of the core, and every
other field of the module, stays as it was, unless the advance leaves parked threads at different PCs (R78). It rests on R75,
R107, R109 and R115, and says only what its clauses say of them. -/
def Obligations.XilonRegisterFrame : Prop :=
  ∀ (s : State) (core : CoreRef) (j : Fin 7) (i : Issue) (r : Nat) (f : Nat → Word),
    issueAt s (coreId core) j.val = some i → mismatch i.core (advance i i.tour) = false → 1 ≤ r →
    let t := finishV s i r f
    let c := coreOf t (coreId core)
    t = { s with cores := put s.cores (coreId core) c }
      ∧ c = { i.core with results := c.results, active := c.active, docent := i.slot, lastIssue := some i.g }
      ∧ c.results = i.core.results ++ [⟨i.tour.index, .vec i.x.d (i.on.map fun l => (l, f l)), i.g + (r - 1)⟩]
      ∧ c.active = put i.core.active i.slot (advance i i.tour)
      ∧ advance i i.tour = { i.tour with threads := (advance i i.tour).threads }
      ∧ (∀ l ∈ i.lanes, l < i.tour.threads.length →
          threadOf (advance i i.tour) l = { threadOf i.tour l with pc := i.pc + i.x.words })
      ∧ (∀ l, l ∉ i.lanes → threadOf (advance i i.tour) l = threadOf i.tour l)
      ∧ i.on = i.lanes.filter fun l => getP i.tour l (i.x.g % 8) != i.x.g.testBit 3

/-- In the last GCLK of its latency a result is written: the named lanes of D take its values, and no other register of the tour
changes. It rests on R115, and says only what its clauses say of them. -/
def Obligations.XilonResultsLand : Prop :=
  ∀ (s : State) (core : CoreRef) (j : Fin 7) (c : Core) (slot : Nat) (t : Tour) (p : PendResult),
    s.sup.inReset = false → edgeOk s (wingOfCore (coreId core)) j.val = true → find s.cores (coreId core) = some c →
      issueAt s (coreId core) j.val = none → c.loads = [] → c.active = [(slot, t)] → p.tour = t.index →
      c.results = [p] → p.at_ = wtime s (wingOfCore (coreId core)) j.val →
      ∃ c', exec (.instructionResultWrite core j) s = .next (setCore s (coreId core) c') ∧ c'.results = []
        ∧ c'.active = [(slot, writeDest t p.dest)] ∧ c'.tiles = c.tiles ∧ c'.code = c.code
        ∧ (∀ d v l r, p.dest = .vec d [(l, v)] → l < 16 → r < 32 → d < 32 → ∀ l', l' < 16 →
            getV (writeDest t p.dest) l' r = (if l' = l ∧ r = d then v else getV t l' r))
        ∧ (∀ d v r, p.dest = .uni d v → getU (writeDest t p.dest) r = (if r = d then v else getU t r))
        ∧ (∀ d b l, p.dest = .pred d [(l, b)] → (t.threads[l]?).isSome → d < 7 →
            ∀ l' d', d' < 8 → getP (writeDest t p.dest) l' d' = (if l' = l ∧ d' = d then b else getP t l' d'))

/-! ### Xilon: control, memory and the matrix array -/

/-- Branches move the PCs of the lanes whose guard is true, to a word of the code or not at all; exit ends them, trap raises its
code, and the others only advance; a yield asks for an exchange where a tour is pending and the yielding tour has not asked for
one yet. It rests on R83 and R134 to R138, and says only what its clauses say of them. The readings of log entries 80 and 88 are
the model's, not the spec's; so is the clause that a second yield of a tour which already waits for an exchange only advances (log
entry 150), and the clause that a branch to a negative PC faults (log entry 185). -/
def Obligations.XilonControl : Prop :=
  ∀ (s : State) (core : CoreRef) (j : Fin 7) (i : Issue), issueAt s (coreId core) j.val = some i →
    let toPc := fun target : Nat → Nat => i.on.foldl (fun t l => mapThread t l fun h => { h with pc := target l }) (advance i i.tour)
    (∀ target : Nat, (i.pc : Int) + i.x.imm20 = target → 4 * target < i.core.codeBytes → i.clean 0x60 →
        exec (.br core j) s = .next (settle s i i.core (toPc fun _ => target)))
    ∧ (i.on ≠ [] → ((i.pc : Int) + i.x.imm20 < 0 ∨ (i.core.codeBytes : Int) ≤ 4 * (i.pc + i.x.imm20)) → i.clean 0x60 →
        exec (.br core j) s = .next (issueFault s i 0x11))
    ∧ ((∀ l ∈ i.on, (getV i.tour l i.x.a).toNat < 4096 ∧ 4 * (getV i.tour l i.x.a).toNat < i.core.codeBytes) → i.clean 0x61 →
        exec (.brx core j) s = .next (settle s i i.core (toPc fun l => (getV i.tour l i.x.a).toNat)))
    ∧ ((∃ l ∈ i.on, 4096 ≤ (getV i.tour l i.x.a).toNat ∨ i.core.codeBytes ≤ 4 * (getV i.tour l i.x.a).toNat) → i.clean 0x61 →
        exec (.brx core j) s = .next (issueFault s i 0x11))
    ∧ (i.clean 0x62 → exec (.exit core j) s = .next (settle s i i.core
        (i.on.foldl (fun t l => mapThread t l fun h => { h with exited := true }) (advance i i.tour))))
    ∧ (i.on ≠ [] → i.clean 0x63 → exec (.trap core j) s = .next (issueFault s i (0x30 + i.x.imm.toNat)))
    ∧ (i.on = [] → i.clean 0x63 → exec (.trap core j) s = .next (finish s i i.core))
    ∧ (i.clean 0x68 → exec (.tourSync core j) s = .next (finish s i i.core))
    ∧ ((i.core.pendingSet = [] ∨ i.core.swapQueue.any (·.tour = i.tour.index) = true) → i.clean 0x69 →
        exec (.tourYield core j) s = .next (finish s i i.core))
    ∧ (i.core.pendingSet ≠ [] → i.core.swapQueue.any (·.tour = i.tour.index) = false → i.clean 0x69 →
        exec (.tourYield core j) s = .next (finish s i
          { i.core with swapQueue := i.core.swapQueue ++ [⟨.exchange, i.slot, i.tour.index, i.g + 1⟩] }))
    ∧ (i.clean 0x6A → exec (.fence core j) s = .next (finish s i i.core))
    ∧ (i.clean 0x6B → exec (.beatRead core j) s = .next (finish s i { i.core with results := i.core.results
        ++ [⟨i.tour.index, .uni i.x.d (s.beat.extractLsb' 0 32), i.g + 1⟩,
            ⟨i.tour.index, .uni (i.x.d + 1) (s.beat.extractLsb' 32 32), i.g + 1⟩] }))
    ∧ (i.clean 0x6C → exec (.beatWait core j) s = .next (finish s i i.core))

/-- An instruction that faults at issue changes no register, PC or memory; its tour issues nothing further and the cabinet's first
fault is kept. A PC outside the code, a reserved opcode and an illegal form fault whichever instruction is commanded. It rests
on R109, R111, R134, R143 and R145, and says only what its clauses say of them. The readings of log entries 81, 82, 83 and 165
are the model's, not the spec's. -/
def Obligations.XilonIssueFaults : Prop :=
  ∀ (s : State) (core : CoreRef) (j : Fin 7) (i : Issue), issueAt s (coreId core) j.val = some i →
    (i.core.codeBytes ≤ 4 * i.pc → exec (.add core j) s = .next (issueFault s i 0x11)
      ∧ exec (.ldG core j) s = .next (issueFault s i 0x11) ∧ exec (.mxRun core j) s = .next (issueFault s i 0x11))
    ∧ (4 * i.pc < i.core.codeBytes → badWord i.core.codeBad i.pc = none → opListed i.x.op = false →
      exec (.add core j) s = .next (issueFault s i 0x10) ∧ exec (.br core j) s = .next (issueFault s i 0x10))
    ∧ (4 * i.pc < i.core.codeBytes → badWord i.core.codeBad i.pc = none → i.x.op = 0x02 → i.x.regs = none →
      exec (.add core j) s = .next (issueFault s i 0x10))
    ∧ (∀ code, let t := issueFault s i code
      (coreOf t (coreId core)).active = put i.core.active i.slot { i.tour with stopped := true }
        ∧ (coreOf t (coreId core)).results = i.core.results ∧ t.shelf = s.shelf ∧ t.clm = s.clm ∧ t.dram = s.dram
        ∧ ((cabOf s (cabOfCore (coreId core))).faultSet = false →
            (cabOf t (cabOfCore (coreId core))).fault0 =
                BitVec.ofNat 32 (code + 256 * coreInCab (coreId core) + 32768 * i.tour.index)
              ∧ (cabOf t (cabOfCore (coreId core))).fault1 = BitVec.ofNat 32 (4 * i.pc + 65536 * laneMask i.lanes)))

/-- The CLM accesses of an issue. With no address fault in any lane, a load's values, extended, are under way for its registers; a
store's bytes stand in the CLM, a later lane over an earlier one, and every other byte reads as before; an atomic updates its
locations lane after lane, each lane taking the value before its own update, one GCLK later for each further location and three more
where lanes were combined. Each occupies the CLM by its bank conflicts. It rests on R87, R94, R95, R126, R127, R129 and R131, and
says only what its clauses say of them. The readings of log entries 83 and 92 are the model's, not the spec's. -/
def Obligations.XilonClmAccesses : Prop :=
  ∀ (s : State) (core : CoreRef) (j : Fin 7) (i : Issue), issueAt s (coreId core) j.val = some i → Memory.wf s = true →
    let id := coreId core
    let size := i.x.size
    let m := clmTime size (i.on.map (memAddr i))
    let sound := ∀ l ∈ i.on, memAddr i l % size = 0 ∧ memAddr i l + size ≤ 32768
    let word := fun (t : State) (k : Nat) => wordRead t.clm clmCodec k
    (sound → i.clean 0x48 → (∀ l ∈ i.on, (clmValue s id (memAddr i l) size).isSome = true) →
      ∃ t, exec (.ldL core j) s = .next t ∧ t.clm = s.clm ∧ t.shelf = s.shelf ∧ t.dram = s.dram
        ∧ (coreOf t id).clmFree = i.g + m
        ∧ (coreOf t id).results = i.core.results ++ dataResults i.tour.index i.x.d size (i.g + m + 1)
            (i.on.map fun l => (l, extend size i.x.sx ((clmValue s id (memAddr i l) size).getD 0))))
    ∧ (sound → i.clean 0x49 →
      ∃ t, exec (.stL core j) s = .next t ∧ t.shelf = s.shelf ∧ t.dram = s.dram ∧ (coreOf t id).results = i.core.results
        ∧ (coreOf t id).clmFree = i.g + m
        ∧ (∀ k, (∀ l ∈ i.on, ∀ b, b < size → k ≠ clmKey s id (memAddr i l + b)) → word t k = word s k)
        ∧ (∀ l ∈ i.on, ∀ b, b < size → (∀ l' ∈ i.on, l < l' → memAddr i l' ≠ memAddr i l) →
            word t (clmKey s id (memAddr i l + b)) = .clean (byteOf (storeValue i.tour i.x.d size l) b).toNat))
    ∧ (∀ code, lowest (i.on.flatMap fun l => localFaults 0x12 0x13 32768 size (memAddr i l)) = some code →
        (i.clean 0x48 → exec (.ldL core j) s = .next (issueFault s i code))
        ∧ (i.clean 0x49 → exec (.stL core j) s = .next (issueFault s i code)))
    ∧ (∀ (n : Nat) (old : Nat → Nat), atomicSize i.x.m = some n → i.clean 0x50 →
      (∀ l ∈ i.on, atomAddr i l % n = 0 ∧ atomAddr i l + n ≤ 32768 ∧ clmValue s id (atomAddr i l) n = some (old (atomAddr i l))) →
      let at_ := distinct (i.on.map (atomAddr i))
      let update := fun (v : DWord) l => atomicNew i.x.m v (atomOperand i l).1 (atomOperand i l).2
      let after := fun (ls : List Nat) a => ((ls.filter fun l => atomAddr i l = a).foldl update (BitVec.ofNat 64 (old a))).toNat
      ∃ t vals, exec (.atomL core j) s = .next t ∧ t.shelf = s.shelf ∧ t.dram = s.dram ∧ (coreOf t id).clmFree = i.g + clmTime n at_
        ∧ (∀ l ∈ i.on, clmValue t id (atomAddr i l) n = some (after i.on (atomAddr i l) % 2 ^ (8 * n)))
        ∧ (coreOf t id).results = i.core.results ++ dataResults i.tour.index i.x.d n
            (i.g + 4 + (at_.length - 1) + (if at_.length < i.on.length then 3 else 0)) vals
        ∧ vals.length = i.on.length ∧ (∀ l ∈ i.on, (l, after (i.on.filter (· < l)) (atomAddr i l)) ∈ vals)
        ∧ (∀ k, (∀ l ∈ i.on, ∀ b, b < n → k ≠ clmKey s id (atomAddr i l + b)) → word t k = word s k))

/-- The own-shelf accesses of an issue whose lanes raise no address fault, on a working channel whose bank groups are ACTIVE. A load
or an atomic puts its words before the read direction; a store's whole words go before the write direction as one transfer,
which takes the merge buffer's bytes of such a word with it; a narrow one goes to the merge buffer, joins an entry of its word, which
leaves when it is whole, or makes another word's entry leave as a read-modify-write; no memory changes at issue. An issue with no enabled lane only advances, and one on a failed channel raises
SHELF_UNREACHABLE. It rests on R86, R88, R94, R130 and R194 to R196, and says only what its clauses say of them. The readings of
log entries 83, 89, 90, 91 and 92 are the model's, not the spec's. -/
def Obligations.XilonShelfAccesses : Prop :=
  ∀ (s : State) (core : CoreRef) (j : Fin 7) (i : Issue), issueAt s (coreId core) j.val = some i →
    let id := coreId core
    let size := i.x.size
    let sound := ∀ l ∈ i.on, memAddr i l % size = 0 ∧ memAddr i l + size ≤ shelfBytes
    let active := domOn s .bankGroup (bankGroupOf (wingOfCore id) 0) = true ∧ domOn s .bankGroup (bankGroupOf (wingOfCore id) 1) = true
    let ws := distinct (i.on.map fun l => memAddr i l / 16)
    let works := (chanOf s (siteOfCore s id)).failed = false
    (i.on = [] →
        (i.clean 0x4A → exec (.ldS core j) s = .next (finish s i i.core))
        ∧ (i.clean 0x4B → exec (.stS core j) s = .next (finish s i i.core))
        ∧ (i.clean 0x51 → exec (.atomS core j) s = .next (finish s i i.core)))
    ∧ (i.on ≠ [] → ¬ works →
        (i.clean 0x4A → exec (.ldS core j) s = .next (issueFault s i 0x06))
        ∧ (i.clean 0x4B → exec (.stS core j) s = .next (issueFault s i 0x06))
        ∧ (i.clean 0x51 → exec (.atomS core j) s = .next (issueFault s i 0x06)))
    ∧ (i.on ≠ [] → works → active →
      (sound → i.clean 0x4A →
        ∃ t q, exec (.ldS core j) s = .next t ∧ (coreOf t id).rdQueue = i.core.rdQueue ++ [q] ∧ q.kind = .load i.core.nextLoad
          ∧ q.issue = i.g ∧ q.words.map (·.1) = ws ∧ t.shelf = s.shelf ∧ t.clm = s.clm ∧ t.dram = s.dram
          ∧ (∃ ld, (coreOf t id).loads = i.core.loads ++ [ld] ∧ ld.id = i.core.nextLoad ∧ ld.reg = i.x.d ∧ ld.size = size
            ∧ ld.sx = i.x.sx ∧ ld.addrs = i.on.map fun l => (l, memAddr i l)))
      ∧ (sound → i.clean 0x4B →
        ∃ t, exec (.stS core j) s = .next t ∧ t.shelf = s.shelf ∧ t.clm = s.clm ∧ t.dram = s.dram
          ∧ (let u := (gather 16 size (i.on.map fun l => (memAddr i l, storeValue i.tour i.x.d size l))).foldl
              (storeWord i.g i.tour.index) i.core
            (coreOf t id).merge = u.merge ∧ (coreOf t id).wrQueue = u.wrQueue ∧ (coreOf t id).rdQueue = u.rdQueue))
      ∧ (∀ n, atomicSize i.x.m = some n → (∀ l ∈ i.on, atomAddr i l % n = 0 ∧ atomAddr i l + n ≤ shelfBytes) → i.clean 0x51 →
        ∃ t q, exec (.atomS core j) s = .next t ∧ (coreOf t id).rdQueue = i.core.rdQueue ++ [q]
          ∧ q.kind = .atomic i.core.nextLoad i.x.m (atomGroups i (atomAddr i)) ∧ q.issue = i.g
          ∧ t.shelf = s.shelf ∧ t.clm = s.clm ∧ t.dram = s.dram))
    ∧ (∀ (c : Core) (g tour w m d : Nat),
      let x : Nat × BitVec 16 × BitVec 128 := (w, BitVec.allOnes 16, BitVec.ofNat 128 d)
      let merge := c.merge.filter fun e => decide (e.word ≠ w)
      let fresh : MergeEntry := ⟨w, BitVec.ofNat 16 m, BitVec.ofNat 128 d, g, [tour]⟩
      (∀ qs q, c.wrQueue = qs ++ [q] → q.kind = .store → q.issue = g → q.tour = tour →
        storeWord g tour c (w, 2 ^ 16 - 1, d) = { c with merge := merge, wrQueue := qs ++ [{ q with words := q.words ++ [x] }] })
      ∧ ((∀ q, c.wrQueue.getLast? = some q → ¬(q.kind = .store ∧ q.issue = g ∧ q.tour = tour)) →
        storeWord g tour c (w, 2 ^ 16 - 1, d) =
          { c with merge := merge, wrQueue := c.wrQueue ++ [⟨.store, g, [x], [], [], tour, [], []⟩] })
      ∧ (m ≠ 2 ^ 16 - 1 →
        (c.merge = none → storeWord g tour c (w, m, d) = { c with merge := some fresh })
        ∧ (∀ e, c.merge = some e → e.word = w →
          let full := e.mask.toNat ||| m
          let both := mergeBytes 16 e.data.toNat d m
          let tours := if tour ∈ e.tours then e.tours else e.tours ++ [tour]
          (full ≠ 2 ^ 16 - 1 → storeWord g tour c (w, m, d) =
            { c with merge := some ⟨e.word, BitVec.ofNat 16 full, BitVec.ofNat 128 both, e.opened, tours⟩ })
          ∧ (full = 2 ^ 16 - 1 → storeWord g tour c (w, m, d) =
            { c with merge := none, wrQueue := c.wrQueue ++
                [⟨.merged, g, [(w, BitVec.allOnes 16, BitVec.ofNat 128 both)], [], [], tours.headD 0, tours.tail, []⟩] }))
        ∧ (∀ e, c.merge = some e → e.word ≠ w →
          let leg := fun k fwd => ⟨k, g, [(e.word, e.mask, e.data)], fwd, [], e.tours.headD 0, e.tours.tail, []⟩
          storeWord g tour c (w, m, d) = { c with
            merge := some fresh
            rdQueue := c.rdQueue ++ [leg .rmwRead (forwardWords { c with merge := none } [e.word])]
            wrQueue := c.wrQueue ++ [leg .rmwWrite []] })))

/-- The global accesses and the mesh put of an issue whose lanes raise no fault. Each 64 B block that the issue addresses is one
request before the cabinet's egress, in order of the lowest lane; a put is one flit; no memory changes at issue. It rests on
R89, R90, R94, R126, R132 and R133, and says only what its clauses say of them. The readings of log entries 83, 86 and 92 are
the model's, not the spec's. -/
def Obligations.XilonGlobalAccesses : Prop :=
  ∀ (s : State) (core : CoreRef) (j : Fin 7) (i : Issue), issueAt s (coreId core) j.val = some i →
    let id := coreId core
    let sound := fun what size => ∀ l ∈ i.on, globalFaults s (ownPart s i) what size (globalBase i l) (globalAddr i l) = []
    let n := (globalBlocks i).length
    let sent := fun t : State => t.nextReq = s.nextReq + n
      ∧ (coreOf t id).egress = i.core.egress ++ (List.range n).map (fun k => (false, s.nextReq + k))
      ∧ (∀ k a, (globalBlocks i)[k]? = some a → ∃ r, find t.net (s.nextReq + k) = some r ∧ r.addr = 64 * a ∧ r.stage = .egress i.g)
      ∧ t.shelf = s.shelf ∧ t.clm = s.clm ∧ t.dram = s.dram
    (i.on = [] → (i.clean 0x4C → exec (.ldG core j) s = .next (finish s i i.core))
        ∧ (i.clean 0x4D → exec (.stG core j) s = .next (finish s i i.core))
        ∧ (i.clean 0x52 → exec (.atomG core j) s = .next (finish s i i.core))
        ∧ (i.clean 0x53 → exec (.redG core j) s = .next (finish s i i.core)))
    ∧ (i.on ≠ [] →
      (sound 0 i.x.size → i.clean 0x4C → ∃ t, exec (.ldG core j) s = .next t ∧ sent t)
      ∧ (sound 0 i.x.size → i.clean 0x4D → ∃ t, exec (.stG core j) s = .next t ∧ sent t)
      ∧ (∀ z, atomicSize i.x.m = some z → sound 1 z → i.clean 0x52 → ∃ t, exec (.atomG core j) s = .next t ∧ sent t)
      ∧ (∀ z, redSize i.x.m = some z → sound 2 z → i.clean 0x53 → ∃ t, exec (.redG core j) s = .next t ∧ sent t))
    ∧ (let u := (getU i.tour i.x.a).toNat
      let off := (getU i.tour i.x.b).toNat
      let wing := 16 * stackOfCore id + bits u 11 4
      bits u 15 3 = stackOfCore id → bits u 0 7 < 96 → bits u 7 4 < logicalCabs s wing → off % 64 = 0 → off < 32768 →
      (∀ w ∈ meshWings (wingOfCore id) wing, ownerOfWing s w = ownPart s i) → i.clean 0x58 →
      ∃ t f, exec (.meshPut core j) s = .next t ∧ find t.flits s.nextFlit = some f
        ∧ f.target = wing * 864 + bits u 7 4 * 96 + bits u 0 7 ∧ f.offset = off
        ∧ (∀ l, l < 16 → f.data.extractLsb' (32 * l) 32 = getV i.tour l i.x.d)
        ∧ (coreOf t id).egress = i.core.egress ++ [(true, s.nextFlit)] ∧ t.clm = s.clm ∧ t.shelf = s.shelf ∧ t.dram = s.dram)

/-- The matrix and block instructions that raise no fault and read no uncorrectable tile word, with their operands in the CLM; and
the matrix ones with their operands in the own shelf, on a working channel whose bank groups are ACTIVE: the image's words go
before the channel, and no memory changes at issue. It rests on R86, R140 to R142, R151, R157 to R159, R163, R164 and R180, and
says only what its clauses say of them. The readings of log entries 85, 153 and 156 are the model's, not the spec's. -/
def Obligations.XilonMatrixInstructions : Prop :=
  ∀ (s : State) (core : CoreRef) (j : Fin 7) (i : Issue), issueAt s (coreId core) j.val = some i → Memory.wf s = true →
    let id := coreId core
    let a := (getU i.tour i.x.a).toNat
    let n := i.x.d % 8
    let m := shapeOf i.x
    let own := (tileOf i.core n).owner = some i.tour.index
    let fits := fun bound bytes : Nat => a % 16 = 0 ∧ a + bytes ≤ bound
    let readable := i.x.acc = true → tileBad i.core n (runWords m (i.x.count + 1)) = none
    let word := fun (t : State) (k : Nat) => wordRead t.clm clmCodec k
    let still := fun t : State => t.clm = s.clm ∧ t.shelf = s.shelf ∧ t.dram = s.dram
    let reads := fun (t : State) (k : XferKind) (bytes : Nat) => ∃ q, (coreOf t id).rdQueue = i.core.rdQueue ++ [q] ∧ q.kind = k
      ∧ q.issue = i.g ∧ q.words.map (·.1) = imageWords a bytes
    (i.x.shelf = false →
      (∀ img, shapeFaults s i.x = [] → fits 32768 m.heldBytes → clmImage s id a m.heldBytes = some img → i.clean 0x70 →
        ∃ t b, exec (.mxTile core j) s = .next t ∧ still t ∧ (coreOf t id).shadow = some b ∧ b.shape = m ∧ b.bytes = img
          ∧ b.tour = i.tour.index ∧ b.pc = i.pc ∧ b.ready = some (i.g + ceilDiv m.heldBytes 64 + 3) ∧ b.poisoned = false)
      ∧ (∀ img, own → readable → runFaults s i = [] → fits 32768 (m.streamBytes (i.x.count + 1)) →
        clmImage s id a (m.streamBytes (i.x.count + 1)) = some img → i.clean 0x71 →
        ∃ t r, exec (.mxRun core j) s = .next t ∧ still t ∧ (coreOf t id).runs = i.core.runs ++ [r] ∧ r.id = i.core.nextRun
          ∧ r.n = i.x.count + 1 ∧ r.tile = n ∧ r.stream = img ∧ r.ready = some (i.g + ceilDiv (m.streamBytes (i.x.count + 1)) 64 + 3)
          ∧ (coreOf t id).tiles = i.core.tiles)
      ∧ (i.x.mode = 1 → own → tileBad i.core n (List.range 256) = none → ((tileOf i.core n).int ↔ i.x.fmt = 4) → fits 32768 1024 → i.clean 0x72 →
        ∃ t, exec (.mxAccStore core j) s = .next t ∧ (coreOf t id).tiles = i.core.tiles ∧ t.shelf = s.shelf ∧ t.dram = s.dram
          ∧ (∀ w b, w < 256 → b < 4 → word t (clmKey s id (a + 4 * w + b)) =
              .clean (byteOf (look (tileOf i.core n).words w 0).toNat b).toNat)
          ∧ (∀ k, (∀ b, b < 1024 → k ≠ clmKey s id (a + b)) → word t k = word s k))
      ∧ (∀ img, i.x.mode = 2 → own → fits 32768 1024 → clmImage s id a 1024 = some img → i.clean 0x72 →
        ∃ t l, exec (.mxAccLoad core j) s = .next t ∧ still t ∧ (coreOf t id).accLoads = i.core.accLoads ++ [l] ∧ l.tile = n
          ∧ l.int = decide (i.x.fmt = 4) ∧ l.words = tileWords img ∧ l.tour = i.tour.index ∧ l.ready = some (i.g + 19)))
    ∧ (i.x.mode = 0 → own → i.clean 0x72 →
        ∃ t, exec (.mxAccClear core j) s = .next t ∧ still t
          ∧ (coreOf t id).tiles = put i.core.tiles n { tileOf i.core n with int := i.x.fmt = 4, words := [], bad := [] })
    ∧ (blockFaults s i a (blockBytes i) = [] → i.clean 0x73 →
        ∃ t, exec (.mxEnc core j) s = .next t ∧ t.shelf = s.shelf ∧ t.dram = s.dram
          ∧ (coreOf t id).results = i.core.results ++ [⟨i.tour.index, .uni i.x.m (runningMax (getU i.tour i.x.m)
              ((blockLanes i).map fun l => getV i.tour l.1 l.2)), i.g + 3⟩]
          ∧ (∀ b, b < blockBytes i → word t (clmKey s id (a + b)) = .clean (byteOf (packElts (eltBits i.x.fmt)
              ((blockLanes i).map fun l => encodeElt i.x.fmt (getV i.tour l.1 l.2) ((getU i.tour i.x.b).toNat % 256))) b).toNat)
          ∧ (∀ k, (∀ b, b < blockBytes i → k ≠ clmKey s id (a + b)) → word t k = word s k))
    ∧ (∀ area, blockFaults s i a (blockBytes i) = [] → clmValue s id a (blockBytes i) = some area → i.clean 0x74 →
        ∃ t p, exec (.mxDec core j) s = .next t ∧ still t ∧ p ∈ (coreOf t id).results ∧ p.at_ = i.g + 5
          ∧ p.dest = .vec i.x.d ((List.range 16).map fun l =>
              (l, decodeScaled i.x.fmt (unpackElt i.x.fmt area l) ((getU i.tour i.x.b).toNat % 256))))
    ∧ (i.x.shelf = true → (chanOf s (siteOfCore s id)).failed = false →
      domOn s .bankGroup (bankGroupOf (wingOfCore id) 0) = true → domOn s .bankGroup (bankGroupOf (wingOfCore id) 1) = true →
      (shapeFaults s i.x = [] → fits shelfBytes m.heldBytes → i.clean 0x70 →
        ∃ t, exec (.mxTile core j) s = .next t ∧ still t ∧ reads t .tile m.heldBytes)
      ∧ (own → readable → runFaults s i = [] → fits shelfBytes (m.streamBytes (i.x.count + 1)) → i.clean 0x71 →
        ∃ t, exec (.mxRun core j) s = .next t ∧ still t ∧ reads t (.run i.core.nextRun) (m.streamBytes (i.x.count + 1)))
      ∧ (i.x.mode = 1 → own → tileBad i.core n (List.range 256) = none → ((tileOf i.core n).int ↔ i.x.fmt = 4) → fits shelfBytes 1024 → i.clean 0x72 →
        ∃ t q, exec (.mxAccStore core j) s = .next t ∧ still t ∧ (coreOf t id).wrQueue = i.core.wrQueue ++ [q] ∧ q.kind = .accStore
          ∧ q.words.map (·.1) = (List.range 64).map (a / 16 + ·)
          ∧ (∀ w, w < 256 → ∀ x, q.words[w / 4]? = some x →
              x.2.2.extractLsb' (32 * (w % 4)) 32 = look (tileOf i.core n).words w 0))
      ∧ (i.x.mode = 2 → own → fits shelfBytes 1024 → i.clean 0x72 →
        ∃ t, exec (.mxAccLoad core j) s = .next t ∧ still t ∧ reads t (.accLoad n) 1024))

/-- What happens in a core after the issue, at the GCLK each is due: the shadow is armed, a run enters the array, its words are
written, an mx.acc load fills its tile, a swap begins and ends (a tour whose parked threads came back at different PCs faults),
and the merge buffer leaves after 4 GCLK. A swap takes its times, writes the outgoing tour's context image to the shelf at an
exchange, and reads the incoming tour's where it has run before. It rests on R71, R83 to R85, R158, R161 to R164 and R195, and says
only what its clauses say of them. The readings of log entries 88, 149, 150, 157 and 158 are the model's, not the spec's. -/
def Obligations.CoreEventsAtTheirTime : Prop :=
  ∀ (s : State) (core : CoreRef) (j : Fin 7) (c : Core), s.sup.inReset = false →
    let id := coreId core
    let g := wtime s (wingOfCore id) j.val
    edgeOk s (wingOfCore id) j.val = true → find s.cores id = some c →
      (∀ t, c.shadow = some t → t.ready = some g → t.armed = false →
        exec (.shadowArmed core j) s = .next (setCore s id { c with shadow := some { t with armed := true } }))
      ∧ (∀ r, c.runs.find? (·.entry.isNone) = some r → entryTime c r = some g →
        ∃ c' r', exec (.arrayRunEntry core j) s = .next (setCore s id c') ∧ r'.entry = some g ∧ r' ∈ c'.runs ∧ r'.id = r.id
          ∧ c'.tiles = c.tiles ∧ c'.prevRun = some (r.shape, g, r.n)
          ∧ (r.image = none → r.claims = true → c'.current = c.shadow ∧ c'.shadow = none)
          ∧ (∀ b, r.image = some b → c'.current = c.current ∧ c'.shadow = c.shadow ∧ r'.held = b.bytes))
      ∧ (∀ r, c.runs.find? (·.writes g) = some r → r.poisoned = false →
        ∃ c', exec (.arrayTileWrite core j) s = .next (setCore s id c')
          ∧ c'.tiles = (writeTile c r.tile (r.outputs (tileOf c r.tile) r.written)).tiles
          ∧ c'.active = c.active ∧ c'.results = c.results)
      ∧ (∀ l, c.accLoads.find? (·.ready = some g) = some l →
        ∃ c', exec (.accLoadComplete core j) s = .next (setCore s id c') ∧ (tileOf c' l.tile).int = l.int
          ∧ (tileOf c' l.tile).owner = (tileOf c l.tile).owner
          ∧ (∀ w, w < 256 → look (tileOf c' l.tile).words w 0 = (l.words[w]?).getD 0)
          ∧ (∀ n, n ≠ l.tile → find c'.tiles n = find c.tiles n))
      ∧ (∀ w, c.swap = some w → w.doneAt = g → (∀ x, find c.active w.slot = some x → mismatch c x = false ∨ x.stopped = true) →
        exec (.tourSwapComplete core j) s = .next (setCore s id { c with swap := none }))
      ∧ (∀ w x, c.swap = some w → w.doneAt = g → find c.active w.slot = some x → mismatch c x = true → x.stopped = false →
        ∃ t, exec (.tourSwapComplete core j) s = .next t ∧ (coreOf t id).swap = none
          ∧ (coreOf t id).active = put c.active w.slot { x with stopped := true })
      ∧ (∀ e, c.merge = some e → e.opened + 4 ≤ g → groupsOff s id [e.word] = false →
        exec (.mergeBufferTimeout core j) s = .next (setCore s id (leaveRmw c (e.opened + 4) e)))
      ∧ (∀ q inc more out crcR crcW, c.swapQueue = [q] → swapBegins c g = some q → c.pendingSet = inc :: more →
        find c.active q.slot = some out →
        let ran := decide (inc ∈ c.hasRun)
        let exch := decide (q.kind = .exchange)
        (ran = true ∨ exch = true → (chanOf s (siteOfCore s id)).failed = false) →
        (exch = true → groupsOff s id (contextWords c out.index) = false) → (ran = true → groupsOff s id (contextWords c inc) = false) →
        let way := fun n tour => rowOf s id (contextAt c tour + n)
        let h := threadOf out
        let image := fun k => if k < 512 then (getV out (k / 32) (k % 32)).toNat else if k < 528 then (getU out (k - 512)).toNat
          else (h (k - 528)).pc % 4096 + 2 ^ 12 * (h (k - 528)).pred.toNat + 2 ^ 19 * b2n (h (k - 528)).exited
        ∃ t y, exec (.tourSwapStart core j crcR crcW) s = .next t ∧ t.clm = s.clm ∧ t.dram = s.dram
          ∧ (coreOf t id).swapQueue = [] ∧ (coreOf t id).pendingSet = (if exch then more ++ [out.index] else more)
          ∧ (coreOf t id).hasRun = (c.hasRun.filter (· ≠ inc)) ++ (if exch then [out.index] else [])
          ∧ (coreOf t id).swap = some ⟨q.slot, inc, ran, if ran then g + 136 + latencyOf (contextWords c inc) else g + 4⟩
          ∧ (coreOf t id).rdFree = (if ran then g + 136 else c.rdFree) ∧ (coreOf t id).wrFree = (if exch then g + 136 else c.wrFree)
          ∧ find (coreOf t id).active q.slot = some y ∧ y.index = inc
          ∧ (ran = false → y = freshTour id inc c.args c.entryPc) ∧ (exch = false → t.shelf = s.shelf)
          ∧ (ran = true → exch = false → crcR = [] →
            ∀ W : Nat → Nat, (∀ n, n < 136 → (shelfRead s id (contextAt c inc + n)).data? = some (W n)) →
            let w := fun k => bits (W (k / 4)) (32 * (k % 4)) 32
            y.bad = [] ∧ (∀ l r, l < 16 → r < 32 → getV y l r = BitVec.ofNat 32 (w (32 * l + r)))
              ∧ (∀ r, r < 16 → getU y r = BitVec.ofNat 32 (w (512 + r)))
              ∧ (∀ l, l < 16 → threadOf y l = { pc := bits (w (528 + l)) 0 12, pred := BitVec.ofNat 7 (bits (w (528 + l)) 12 7)
                                                exited := (w (528 + l)).testBit 19 }))
          ∧ (ran = false → exch = true → crcW = [] → out.bad = [] → Memory.wf s = true →
            (∀ n m, n < 136 → m < 136 → n ≠ m → way n out.index ≠ way m out.index) →
            (∀ k, k < 544 → ∃ d, (shelfRead t id (contextAt c out.index + k / 4)).data? = some d ∧ bits d (32 * (k % 4)) 32 = image k)
              ∧ ∀ row, (∀ n, n < 136 → row ≠ way n out.index) → wordRead t.shelf shelfCodec row = wordRead s.shelf shelfCodec row))

/-- The transfers of a core's channel, with the bank groups ACTIVE, no earlier atomic on its words, no swap that waits before
them and no word failing its CRC: a read occupies its direction for its words and a load's data comes after the layer's latency; a store's words, one or several, are
written one in a GCLK, whatever waits behind them; a narrow write reads its word and writes it 12 GCLK later at the earliest. It rests on R86, R88, R196 and R205, and says only what
its clauses say of them. The readings of log entries 91, 102, 155 and 156 are the model's, not the spec's. -/
def Obligations.ChannelTransfers : Prop :=
  ∀ (s : State) (core : CoreRef) (j : Fin 7) (c : Core) (q : Xfer) (rest : List Xfer), s.sup.inReset = false → Memory.wf s = true →
    let id := coreId core
    let g := wtime s (wingOfCore id) j.val
    let quiet := edgeOk s (wingOfCore id) j.val = true ∧ find s.cores id = some c ∧ groupsOff s id (q.words.map (·.1)) = false
      ∧ q.issue ≤ g ∧ atomicAhead c q = false ∧ atomicJust c g q = false ∧ behindSwap c q = false
    quiet →
      (∀ n, c.rdQueue = q :: rest → c.rdFree ≤ g → q.kind = .load n →
        ∃ t, exec (.channelTransferStart core j false []) s = .next t ∧ (coreOf t id).rdQueue = rest
          ∧ (coreOf t id).rdFree = g + q.words.length ∧ t.shelf = s.shelf ∧ t.clm = s.clm ∧ t.dram = s.dram
          ∧ (∀ l ∈ (coreOf t id).loads, l.id = n →
              l.at_ = some (g + latencyOf (q.words.map (·.1)) + (q.words.length - 1) - 1)))
      ∧ (c.wrQueue = q :: rest → c.wrFree ≤ g → atomicDue c g q = false → q.kind = .store → q.reqs = [] →
        (∀ x ∈ q.words, x.2.1 = BitVec.allOnes 16) → (q.words.map fun x => rowOf s id x.1).Nodup →
        ∃ t, exec (.channelTransferStart core j true []) s = .next t ∧ (coreOf t id).wrQueue = rest
          ∧ (coreOf t id).wrFree = g + q.words.length ∧ t.clm = s.clm ∧ t.dram = s.dram
          ∧ (∀ x ∈ q.words, shelfRead t id x.1 = .clean x.2.2.toNat)
          ∧ (∀ k, k ∉ q.words.map (fun x => rowOf s id x.1) → wordRead t.shelf shelfCodec k = wordRead s.shelf shelfCodec k))
      ∧ (∀ w m d, c.rdQueue = q :: rest → c.rdFree ≤ g → q.kind = .rmwRead → q.words = [(w, m, d)] → m ≠ 0 →
        ∃ t r, exec (.shelfRmwRead core j false) s = .next t ∧ (coreOf t id).rmws = c.rmws ++ [r] ∧ r.word = w ∧ r.mask = m ∧ r.data = d
          ∧ (∀ d₀, (fwdOf q w).1 ≠ 2 ^ 16 - 1 → (readFinding s id q w).data? = some d₀ →
              r.old = some (BitVec.ofNat 128 (mergeBytes 16 d₀ (fwdOf q w).2 (fwdOf q w).1)))
          ∧ r.writeAt = g + 12 ∧ (coreOf t id).rdFree = g + 1 ∧ t.shelf = s.shelf
          ∧ (cabOf t (cabOfCore id)).rmwCount = satAdd (cabOf s (cabOfCore id)).rmwCount 1)
      ∧ (∀ m old, c.wrQueue = q :: rest → c.wrFree ≤ g → q.kind = .rmwWrite → q.words.map (·.1) = [m.word] → c.rmws = [m] →
        m.atomic = none → m.reqs = [] → m.mask ≠ 0 → m.writeAt ≤ g → m.old = some old →
        ∃ t, exec (.shelfRmwWrite core j false) s = .next t ∧ (coreOf t id).rmws = [] ∧ (coreOf t id).wrQueue = rest
          ∧ shelfRead t id m.word = .clean (mergeBytes 16 old.toNat m.data.toNat m.mask.toNat)
          ∧ (∀ k, k ≠ shelfRow s (siteOfCore s id) m.word → wordRead t.shelf shelfCodec k = wordRead s.shelf shelfCodec k))

/-- The egress takes its core's first request in that core's GCLK of 96, and the request is at its first resource at a beat boundary
10 GCLK later or more; a flit takes its path. Returns: a global load's registers are written, a posted access is acknowledged,
and a put stands in the target CLM. It rests on R89, R91, R92 and R103, and says only what its clauses say of them. The readings
of log entries 94, 95 and 99 are the model's, not the spec's. -/
def Obligations.EgressAndReturns : Prop :=
  ∀ (s : State) (core : CoreRef) (j : Fin 7) (c : Core) (n : Nat) (rest : List (Bool × Nat)) (r : Req) (f : Flit),
    s.sup.inReset = false → Memory.wf s = true →
    let id := coreId core
    let w := wingOfCore id
    let g := gclk s w j.val
    edgeOk s w j.val = true → find s.cores id = some c →
      (c.egress = (false, n) :: rest → g % 96 = coreInCab id → c.egressAt ≠ some (wtime s w j.val) → find s.net n = some r →
        ∃ t r', exec (.egressTake core j) s = .next t ∧ (coreOf t id).egress = rest ∧ find t.net n = some r'
          ∧ r'.route = (routeTo s (stackOfCore id) r.addr).1
          ∧ r'.stage = .route (5 * ceilDiv (g + 10) (max 1 (wingOf s w).k)) ∧ r'.addr = r.addr ∧ r'.data = r.data ∧ r'.kind = r.kind)
      ∧ (c.egress = (true, n) :: rest → g % 96 = coreInCab id → c.egressAt ≠ some (wtime s w j.val) → find s.flits n = some f →
        ∃ t f', exec (.egressTake core j) s = .next t ∧ (coreOf t id).egress = rest ∧ find t.flits n = some f'
          ∧ f'.path.isSome = true ∧ f'.data = f.data ∧ f'.target = f.target ∧ f'.offset = f.offset)
      ∧ (∀ l, c.loads.find? (fun l => l.open_ ≠ [] && returnedAt s id l = some (wtime s w j.val)) = some l →
        (gathered s l).poisoned = false →
        ∃ t, exec (.globalLoadReturn core j) s = .next t ∧ t = { s with net := t.net, cores := t.cores }
          ∧ (coreOf t id).active = ((loadResults (gathered s l)).foldl writeResult c).active
          ∧ (∀ x ∈ (coreOf t id).loads, x.id ≠ (gathered s l).id) ∧ (∀ k, k ≠ id → coreOf t k = coreOf s k))
      ∧ (∀ p tour, find s.net n = some r → r.origin = .core id tour none → r.stage = .answered p →
        returnTime s w p = wtime s w j.val →
        ∃ t, exec (.postedWriteAck n j) s = .next t ∧ (coreOf t id).unacked = c.unacked.filter (fun u => u.2.1 || u.2.2 ≠ n)
          ∧ (cabOf t (cabOfCore id)).doneFrom = now s + 1 ∧ t.shelf = s.shelf ∧ t.clm = s.clm ∧ t.dram = s.dram)
      ∧ (find s.flits n = some f → f.lostAt = none → f.writeAt = some (w, wtime s w j.val) →
        ∃ t, exec (.meshPutDelivery n j) s = .next t ∧ t.shelf = s.shelf ∧ t.dram = s.dram
          ∧ (∀ b, b < 64 → wordRead t.clm clmCodec (clmKey s f.target (f.offset + b)) = .clean (byteOf f.data.toNat b).toNat)
          ∧ (∀ k, (∀ b, b < 64 → k ≠ clmKey s f.target (f.offset + b)) → wordRead t.clm clmCodec k = wordRead s.clm clmCodec k))

/-- The gateway takes the first request off the crossing, one in a GCLK, after its core's own access of that GCLK; an idle check
adds the failing bonds to the spares in use, and a channel that has too few is marked failed and goes on being checked; a check that did not complete
within 1 s of its due beat sets the cabinet's bit. It rests on R200, R206 and R208, and says only what its clauses say of them.
The readings of log entries 98, 101, 151, 155 and 207 are the model's, not the spec's. -/
def Obligations.GatewayAndIdleChecks : Prop :=
  ∀ (s : State) (cab : CabRef) (j : Fin 7) (site : SiteRef) (n at_ failGa failUl : Nat) (rest : List (Nat × Nat)) (r : Req),
    s.sup.inReset = false →
    let id := cabId cab
    let g := wtime s cab.wing.val j.val
    let x := siteId site
    let ch := chanOf s x
    (edgeOk s cab.wing.val j.val = true → (cabOf s id).gateQueue = (n, at_) :: rest → find s.net n = some r → at_ ≤ g →
        (cabOf s id).gateLast < g → coreFirst s r j.val = false → exec (.gatewayRequest cab j) s = .next (gatePresent s id n g r))
    ∧ (edgeOk s (x / 1000) 0 = true → domOn s .cabinet (x / 100) = true → passFree s x = true → passApart s x ch = true →
        (ch.spareGa + failGa ≤ 8 → ch.spareUl + failUl ≤ 8 →
          let ch' := { ch with spareGa := ch.spareGa + failGa, spareUl := ch.spareUl + failUl, checkedAt := some (now s) }
          exec (.idleCheckPass site failGa failUl) s = .next (setChannel s x { ch' with dueAt := now s + 250000000 }))
        ∧ (ch.failed = true → ∃ t, exec (.idleCheckPass site failGa failUl) s = .next t ∧ (chanOf t x).failed = true
            ∧ (chanOf t x).checkedAt = some (now s) ∧ (chanOf t x).dueAt = now s + 250000000)
        ∧ (ch.failed = false → 8 < ch.spareGa + failGa ∨ 8 < ch.spareUl + failUl →
          ∃ t, exec (.idleCheckPass site failGa failUl) s = .next t ∧ (chanOf t x).failed = true ∧ (chanOf t x).retired = true))
    ∧ (domOn s .cabinet (x / 100) = true → ch.dueAt + 250000000 ≤ now s →
        exec (.idleCheckLate site) s = .next (setCabStatus s (cabAtSite s x) 3))

/-- A request that waits at a resource is taken in a slot of its lane or class (or, in reclaim, an idle one): the resource serves
one request in the PCLK, and the request goes on to its next resource, 24 PCLK later past a bridge. It rests on R35 to R37, R39
and R91, and says only what its clauses say of them. The readings of log entries 133 and 162 are the model's, not the spec's. -/
def Obligations.RotationSlots : Prop :=
  ∀ (s : State) (n : Nat) (j : Fin 5) (r : Req) (k i c : Nat) (next : Nat × Nat) (rest : List (Nat × Nat)),
    let pc := pclk s j.val
    s.sup.inReset = false → find s.net n = some r → r.stage = .route c → r.route = (k, i) :: next :: rest →
      takes s n r pc = true → edgeClosed s (k, i) next = false →
      ∃ t r', exec (.rotationSlotTake n j) s = .next t ∧ find t.net n = some r' ∧ r'.route = next :: rest
        ∧ r'.stage = .route (if k = 2 then pc + 24 else pc) ∧ r'.addr = r.addr ∧ r'.data = r.data ∧ r'.kind = r.kind
        ∧ look t.slotUse (k * 65536 + i) (pc + 1) = pc ∧ t.shelf = s.shelf ∧ t.clm = s.clm ∧ t.dram = s.dram ∧ t.slices = s.slices
        ∧ (ownsSlot s r k i pc = true ∨ (r.reclaim = true ∧ idleSlot s k i pc = true))

/-! ### The vault cache and the vaults -/

/-- At its turn a slice that is awake serves a load, store, atomic or reduction and the four range requests of a vault-space line,
in the order in which they entered; one that is OFF starts its wake, and the request's turn moves to the wake's end. It rests on
R216 and R225 to R240, and says only what its clauses say of them. The readings of log entries 103, 167 and 168 are the model's,
not the spec's. -/
def Obligations.SliceServesAtItsTurn : Prop :=
  ∀ (s : State) (slice : Fin 512) (n g : Nat) (j : Fin 5) (r : Req), s.sup.inReset = false →
    let q := placeOf s r.addr
    find s.net n = some r → r.stage = .slice (pclk s j.val) → spaceOf s r.addr = .vault g → q.i = slice.val →
      enteredBefore s slice.val (pclk s j.val) r = false →
      (domOn s .slice slice.val = true →
        (r.kind = .load → exec (.sliceLoad slice n j) s = .next (serve n j q r s))
        ∧ (r.kind = .store → exec (.sliceStore slice n j) s = .next (serve n j q r s))
        ∧ (∀ fn ops, r.kind = .atomic fn ops → exec (.sliceAtomic slice n j) s = .next (serve n j q r s))
        ∧ (∀ fn ops, r.kind = .red fn ops → exec (.sliceReduction slice n j) s = .next (serve n j q r s))
        ∧ (r.kind = .prefetch → exec (.rangePrefetch slice n j) s = .next (serveRange n j rangePrefetch q r s))
        ∧ (r.kind = .flush → exec (.rangeFlush slice n j) s = .next (serveRange n j rangeFlush q r s))
        ∧ (r.kind = .invalidate → exec (.rangeInvalidate slice n j) s = .next (serveRange n j rangeInvalidate q r s))
        ∧ (r.kind = .dead → exec (.rangeDead slice n j) s = .next (serveRange n j rangeDead q r s)))
      ∧ ((domOf s .slice slice.val).state = .off → isShared s q.granule = false → r.kind = .load →
        ∃ t, exec (.sliceLoad slice n j) s = .next t ∧ (domOf t .slice slice.val).state = .waking
          ∧ (domOf t .slice slice.val).until_ = now s + 300
          ∧ find t.net n = some { r with stage := .slice (5 * (now s + 300)) }
          ∧ (sliceOf t slice.val).wakeWait = satAdd (sliceOf s slice.val).wakeWait 300)

/-- A request on a resident line. Where the sectors it needs are valid, a load is answered 11 PCLK after its turn with the line's
data, and a store writes the line alone; an atomic or a reduction is answered after 15. Marking a line DEAD discards it; a
prefetch leaves it; a clean line is flushed and invalidated at once. The vault does not change.
A request on an absent line. An allocation takes the lowest way of the partition without a VALID entry, else the least recently
used. A scheduled load, prefetch, atomic, reduction or partial store fetches the line into the way's frame, or, compressible, into a
free half beside a compressed line; a line evicted dirty goes into the write-back buffer, to the controller 8 PCLK later. A store of
whole sectors allocates without a fetch and is answered after 11. An unscheduled request passes the slice and takes no frame. A line in
the write-back buffer is served from its entry 4 PCLK later than a resident one, and no frame changes. A compressed line that a
write makes too large for its half takes the whole frame, its partner evicted and the split counted. It rests on R219, R222, R223,
R226 to R228, R231 to R235 and R237, and says only what its clauses say of them. The readings of log entries 103, 105, 167 and 193
are the model's, not the spec's: that a fetched line stands in its place from its request's turn on is entry 103's. -/
def Obligations.SliceHits : Prop :=
  (∀ (s : State) (slice : Fin 512) (n g way : Nat) (h : Bool) (l : Line) (j : Fin 5) (r : Req), s.sup.inReset = false →
    let q := placeOf s r.addr
    let x := sliceOf s slice.val
    find s.net n = some r → r.stage = .slice (pclk s j.val) → spaceOf s r.addr = .vault g → q.i = slice.val →
      domOn s .slice slice.val = true → isShared s q.granule = false → x.fills = [] → x.wb = [] → r.skip = false →
      enteredBefore s slice.val (pclk s j.val) r = false →
      findLine x q.set q.granule q.tag = some (way, h, l) → l.dead = false → l.halfOnly = false →
      (applyReq l r).bad = [] →
        (r.kind = .load → r.mask ≠ 0 → (∀ k ∈ touched r, l.valid.getLsbD k = true) →
          ∃ t r', exec (.sliceLoad slice n j) s = .next t ∧ find t.net n = some r'
            ∧ r'.stage = .answered (pclk s j.val + 11 + 24 * r.hops) ∧ r'.resp = BitVec.ofNat 512 (applyReq l r).resp
            ∧ r'.poison = (applyReq l r).poison ∧ t.dram = s.dram ∧ t.shelf = s.shelf ∧ t.clm = s.clm)
        ∧ (r.kind = .store → r.mask ≠ 0 → scheduledAt s q r = true → (∀ k ∈ needed r, l.valid.getLsbD k = true) →
          ∃ t r', exec (.sliceStore slice n j) s = .next t ∧ find t.net n = some r'
            ∧ r'.stage = .answered (pclk s j.val + 11 + 24 * r.hops) ∧ t.dram = s.dram ∧ t.shelf = s.shelf ∧ t.clm = s.clm
            ∧ halfOf (frameOf (sliceOf t slice.val) q.set way) h = some (applyReq l r).line)
        ∧ (∀ fn ops, r.kind = .atomic fn ops → scheduledAt s q r = true → (∀ k ∈ needed r, l.valid.getLsbD k = true) →
          ∃ t r', exec (.sliceAtomic slice n j) s = .next t ∧ find t.net n = some r'
            ∧ r'.stage = .answered (pclk s j.val + 15 + 24 * r.hops) ∧ r'.olds = (applyReq l r).olds ∧ t.dram = s.dram)
        ∧ (∀ fn ops, r.kind = .red fn ops → scheduledAt s q r = true → (∀ k ∈ needed r, l.valid.getLsbD k = true) →
          ∃ t r', exec (.sliceReduction slice n j) s = .next t ∧ find t.net n = some r'
            ∧ r'.stage = .answered (pclk s j.val + 15 + 24 * r.hops) ∧ t.dram = s.dram
            ∧ ((applyReq l r).wrote = true →
                halfOf (frameOf (sliceOf t slice.val) q.set way) h = some (applyReq l r).line))
        ∧ (r.kind = .prefetch →
          ∃ t r', exec (.rangePrefetch slice n j) s = .next t ∧ find t.net n = some r'
            ∧ r'.stage = .answered (pclk s j.val + 11 + 24 * r.hops) ∧ t.dram = s.dram
            ∧ halfOf (frameOf (sliceOf t slice.val) q.set way) h = some l)
        ∧ (r.kind = .flush → l.dirty = 0 →
          ∃ t r', exec (.rangeFlush slice n j) s = .next t ∧ find t.net n = some r'
            ∧ r'.stage = .answered (pclk s j.val + 11 + 24 * r.hops) ∧ t.dram = s.dram
            ∧ (sliceOf t slice.val).frames = x.frames)
        ∧ (r.kind = .invalidate → l.dirty = 0 →
          ∃ t r', exec (.rangeInvalidate slice n j) s = .next t ∧ find t.net n = some r'
            ∧ r'.stage = .answered (pclk s j.val + 11 + 24 * r.hops) ∧ t.dram = s.dram
            ∧ halfOf (frameOf (sliceOf t slice.val) q.set way) h = none)
        ∧ (r.kind = .dead →
          ∃ t r', exec (.rangeDead slice n j) s = .next t ∧ find t.net n = some r'
            ∧ r'.stage = .answered (pclk s j.val + 11 + 24 * r.hops) ∧ t.dram = s.dram
            ∧ halfOf (frameOf (sliceOf t slice.val) q.set way) h =
                some { dead := true, tag := q.tag, granule := q.granule, halfOnly := l.halfOnly }))
  ∧ (∀ (s : State) (x : Slice) (q : Place), waysOf s q.part ≠ [] →
      let free := fun w => isValid (frameOf x q.set w).half0 = false ∧ isValid (frameOf x q.set w).half1 = false
      ∃ w, victimWay s x q = some w ∧ w ∈ waysOf s q.part
        ∧ (free w → ∀ v ∈ waysOf s q.part, v < w → ¬ free v)
        ∧ (¬ free w → ∀ v ∈ waysOf s q.part, ¬ free v ∧ (frameOf x q.set w).used ≤ (frameOf x q.set v).used))
  ∧ (∀ (s : State) (slice : Fin 512) (n g way : Nat) (j : Fin 5) (r : Req), s.sup.inReset = false →
    let pc := pclk s j.val
    let q := placeOf s r.addr
    let i := q.i
    let x := sliceOf s i
    let old := frameOf x q.set way
    let fetched := lineFromVault q (vaultRaw s q.P q.off)
    let kept := fun l => if (applyReq l r).wrote then (applyReq l r).line else l
    let fetch := { slice := i, kind := .fetch q.line, arrive := pc + 8, scheduled := laneSlot r, off := q.off : CtrlReq }
    let others := fun (t : State) (w : Nat) => ∀ k, k ≠ 16 * q.set + w → look (sliceOf t i).frames k {} = look x.frames k {}
    let answered := fun (t : State) (dt : Nat) => ∃ r', find t.net n = some r' ∧ r'.stage = .answered (pc + dt + 24 * r.hops)
    let waiting := fun (t : State) (w : Nat) (h : Bool) => ∃ f r', (sliceOf t i).fills = [f] ∧ f.lineAddr = q.line ∧ f.place = (w, h)
      ∧ f.waiters.map (·.req) = [n] ∧ f.back = none ∧ find t.net n = some r' ∧ r'.stage = .inSlice
    let clean := fun v : Option Line => ∀ l, v = some l → l.dead = true ∨ l.dirty = 0
    let load := r.kind = .load ∧ (trainMiss s q r.addr).2 = false
    let run := fun t => (r.kind = .load ∧ exec (.sliceLoad slice n j) s = .next t)
      ∨ (r.kind = .store ∧ exec (.sliceStore slice n j) s = .next t)
      ∨ ((∃ fn ops, r.kind = .atomic fn ops) ∧ exec (.sliceAtomic slice n j) s = .next t)
      ∨ ((∃ fn ops, r.kind = .red fn ops) ∧ exec (.sliceReduction slice n j) s = .next t)
    let partialWrite := (∃ fn ops, r.kind = .atomic fn ops) ∨ (∃ fn ops, r.kind = .red fn ops)
      ∨ (r.kind = .store ∧ wholeSectors r = false)
    find s.net n = some r → r.stage = .slice pc → spaceOf s r.addr = .vault g → q.i = slice.val → domOn s .slice i = true →
      isShared s q.granule = false → enteredBefore s i pc r = false → x.fills = [] → findLine x q.set q.granule q.tag = none →
        (x.wb = [] → scheduledAt s q r = true →
          (load ∨ partialWrite → (compressing s q.part = false ∨ partialWrite) → victimWay s x q = some way →
            clean old.half0 → clean old.half1 → ∃ t, run t ∧ waiting t way false ∧ others t way
              ∧ (frameOf (sliceOf t i) q.set way).half0 = some (kept fetched) ∧ (frameOf (sliceOf t i) q.set way).half1 = none
              ∧ (pchOf t q.P).queue = (pchOf s q.P).queue ++ [fetch] ∧ (sliceOf t i).wb = [] ∧ t.dram = s.dram)
          ∧ (∀ v e share, load → compressing s q.part = false → victimWay s x q = some way → old.half0 = some v → old.half1 = none →
            v.dead = false → v.dirty ≠ 0 → (∀ k, k < 4 → v.dirty.getLsbD k = true → (v.sector k).cls.1 = 0) →
            shareOf s q.part = e :: share → ∃ t w c, run t ∧ waiting t way false ∧ others t way
              ∧ (frameOf (sliceOf t i) q.set way).half0 = some (kept fetched)
              ∧ (sliceOf t i).wb = [(e, w)] ∧ w.lineAddr = lineAddrOf s i q.set v ∧ w.dirty = v.dirty ∧ w.data = (readDirty v).data
              ∧ w.valid = v.valid ∧ c ∈ (pchOf t (vaultPlace s (128 * w.lineAddr)).1).queue ∧ c.slice = i ∧ c.kind = .writeBack e
              ∧ c.arrive = pc + 8 ∧ t.dram = s.dram)
          ∧ (∀ h l, load → compressing s q.part = true → fetched.shrink = some l → pairHalf s x q = some (way, h) →
            ∃ t, run t ∧ waiting t way h ∧ others t way ∧ halfOf (frameOf (sliceOf t i) q.set way) h = some l
              ∧ halfOf (frameOf (sliceOf t i) q.set way) (!h) = halfOf old (!h) ∧ (sliceOf t i).wb = [] ∧ t.dram = s.dram)
          ∧ (∀ l, load → compressing s q.part = true → fetched.shrink = some l → pairHalf s x q = none → victimWay s x q = some way →
            clean old.half0 → clean old.half1 → ∃ t, run t ∧ waiting t way false ∧ others t way
              ∧ (frameOf (sliceOf t i) q.set way).half0 = some l ∧ (frameOf (sliceOf t i) q.set way).half1 = none ∧ t.dram = s.dram)
          ∧ (r.kind = .store → wholeSectors r = true → r.mask ≠ 0 → r.skip = false → victimWay s x q = some way →
            clean old.half0 → clean old.half1 → ∃ t, run t ∧ answered t 11 ∧ others t way ∧ (sliceOf t i).fills = []
              ∧ (frameOf (sliceOf t i) q.set way).half0 = some (applyReq { tag := q.tag, granule := q.granule } r).line
              ∧ (frameOf (sliceOf t i) q.set way).half1 = none ∧ t.pchs = s.pchs ∧ t.dram = s.dram)
          ∧ (r.kind = .prefetch → compressing s q.part = false → victimWay s x q = some way → clean old.half0 → clean old.half1 →
            ∃ t, exec (.rangePrefetch slice n j) s = .next t ∧ waiting t way false ∧ others t way
              ∧ (frameOf (sliceOf t i) q.set way).half0 = some fetched ∧ (pchOf t q.P).queue = (pchOf s q.P).queue ++ [fetch]
              ∧ t.dram = s.dram))
        ∧ (x.wb = [] → scheduledAt s q r = false →
          (r.kind = .load → ∃ t c, run t ∧ (sliceOf t i).frames = x.frames ∧ (sliceOf t i).fills = []
            ∧ (pchOf t q.P).queue = (pchOf s q.P).queue ++ [c] ∧ c.kind = .uncached n ∧ c.arrive = pc + 8 ∧ c.need = secMask (touched r)
            ∧ c.raw = some (vaultRaw s q.P q.off) ∧ t.dram = s.dram)
          ∧ (r.kind = .store → wholeSectors r = true → r.mask ≠ 0 → ∃ t c, run t ∧ (sliceOf t i).frames = x.frames
            ∧ (pchOf t q.P).queue = (pchOf s q.P).queue ++ [c] ∧ c.kind = .uncached n ∧ c.arrive = pc + 8
            ∧ t.dram = (vaultStore s (some q.part) q.P q.off r (touched r)).dram))
        ∧ (∀ key e, x.wb = [(key, e)] → e.lineAddr = q.line → (∀ k ∈ touched r, e.valid.getLsbD k = true) →
          let l : Line := { tag := q.tag, granule := e.granule, valid := e.valid, dirty := e.dirty, data := e.data, chk := e.chk }
          (applyReq l r).bad = [] →
          (r.kind = .load → ∃ t r', run t ∧ find t.net n = some r' ∧ r'.stage = .answered (pc + 15 + 24 * r.hops)
            ∧ r'.resp = BitVec.ofNat 512 (applyReq l r).resp ∧ (sliceOf t i).frames = x.frames ∧ (sliceOf t i).wb = x.wb
            ∧ (sliceOf t i).wbMerges = satAdd x.wbMerges 1 ∧ t.pchs = s.pchs ∧ t.dram = s.dram)
          ∧ (partialWrite ∨ r.kind = .store → (applyReq l r).wrote = true → ∃ t w, run t
            ∧ answered t (hitTime r + 4) ∧ (sliceOf t i).frames = x.frames ∧ (sliceOf t i).wb = [(key, w)] ∧ w.lineAddr = e.lineAddr
            ∧ w.data = (applyReq l r).line.data ∧ w.chk = (applyReq l r).line.chk ∧ w.dirty = (applyReq l r).line.dirty
            ∧ (sliceOf t i).wbMerges = satAdd x.wbMerges 1 ∧ t.pchs = s.pchs ∧ t.dram = s.dram)))
  ∧ (∀ (t : Turn) (q : Place) (way : Nat) (h : Bool) (l p : Line),
    let x := sliceOf t.s q.i
    l.shrink = none → halfOf (frameOf x q.set way) (!h) = some p → p.dead = false → p.dirty = 0 →
      let u := putLine q way h true l t
      (frameOf (sliceOf u.s q.i) q.set way).half0 = some l ∧ (frameOf (sliceOf u.s q.i) q.set way).half1 = none
        ∧ (sliceOf u.s q.i).pairSplits = satAdd x.pairSplits 1 ∧ u.effs = t.effs ∧ u.stall = t.stall)

/-- A fill comes back and the request that waited for its line is answered; a write-back entry's dirty sectors stand in the vault at
its acknowledgement, and a line that waits behind a full share takes the freed entry; a controller takes one request of a window's class, 88 PCLK before its data returns. A refresh window
starts at its beats, lasts 64 and ends; refresh and pace changes come into force at a multiple of 976; a mode write switches the
pseudo-channel when no request that has arrived waits. It rests on R226, R233, R234, R252 to R256, R258 and R276, and says only what
its clauses say of them. The readings of log entries 103, 104, 106, 108, 112 and 169 are the model's, not the spec's: that a
completed fill changes no frame, the line having stood in its place since its request's turn, is entry 103's. -/
def Obligations.FillsWindowsAndRefresh : Prop :=
  ∀ (s : State) (slice : Fin 512) (pch : Fin 1024) (vault : Fin 16) (j : Fin 5), s.sup.inReset = false →
    let i := slice.val
    let P := pch.val
    let pc := pclk s j.val
    let x := pchOf s P
    let v := vaultOf s vault.val
    (∀ f, (sliceOf s i).fills = [f] → f.back = some pc → f.lost = false → vaultWhy f.pch f.raw 15 = none →
      (f.waiters = [] →
        ∃ t, exec (.sliceFillComplete slice j) s = .next t ∧ (sliceOf t i).fills = [] ∧ (sliceOf t i).frames = (sliceOf s i).frames
          ∧ t.net = s.net ∧ t.dram = s.dram)
      ∧ (∀ w r, f.waiters = [w] → w.bad = [] → find s.net w.req = some r →
        ∃ t r', exec (.sliceFillComplete slice j) s = .next t ∧ (sliceOf t i).fills = [] ∧ (sliceOf t i).frames = (sliceOf s i).frames
          ∧ find t.net w.req = some r' ∧ r'.stage = .answered (pc + missTime r - 96 + 24 * r.hops) ∧ r'.resp = r.resp ∧ t.dram = s.dram))
    ∧ (∀ key e, (sliceOf s i).wb.find? (fun e => e.2.ack = some pc) = some (key, e) → e.waiters = [] →
      (∀ k < 4, (getUnit { tag := 0, granule := e.granule, data := e.data, chk := e.chk } k).cls.1 = 0) →
      ((∀ b ∈ (sliceOf s i).wb, b.1 < 16) →
        ∃ t, exec (.writeBackAck slice j) s = .next t ∧ t.dram = (landEntry s i key e).dram
          ∧ (sliceOf t i).wb = drop (sliceOf s i).wb key)
      ∧ (∀ behind b, key < 16 → (sliceOf s i).wb = [(key, e), (behind, b)] → 16 ≤ behind → key ∈ shareOf s b.part → b.stalled = [] →
        ∃ t, exec (.writeBackAck slice j) s = .next t ∧ t.dram = (landEntry s i key e).dram ∧ (sliceOf t i).wb = [(key, b)]
          ∧ ∀ P, (pchOf t P).queue = (pchOf s P).queue.map (renameReq i behind key)))
    ∧ (∀ c, (pchOf s P).queue.find? (fun c => !c.arrived && c.arrive = pc) = some c →
      ∃ t, exec (.controllerRequestArrival pch j) s = .next t
        ∧ (pchOf t P).queue = (pchOf s P).queue.map (fun d => if d = c then { c with arrived := true } else d) ∧ t.dram = s.dram)
    ∧ (∀ cls c line, openWindow s P pc = some cls → (pchOf s P).queue = [c] → waitsFor cls pc c = true → c.first = none →
      c.kind = .fetch line → inDomainReset s 3 (P / 64) = false →
      ∃ t, exec (.dramWindow pch j) s = .next t ∧ (pchOf t P).queue = [{ c with first := some pc, window := some pc }]
        ∧ t.dram = s.dram ∧ t.vaults = s.vaults)
    ∧ (∀ c line, (pchOf s P).queue.find? (fun c => c.window.map (· + 88) = some pc) = some c → c.kind = .fetch line →
      ∃ t, exec (.dramDataReturn pch j) s = .next t ∧ (pchOf t P).queue = (pchOf s P).queue.erase c
        ∧ (sliceOf t c.slice).fills = (sliceOf s c.slice).fills.map
            (fun f => if f.lineAddr = line && f.back.isNone then { f with back := some pc } else f) ∧ t.dram = s.dram)
    ∧ (refreshStarts P (vaultOf s (P / 64)).mult (now s) = true →
      exec (.refreshWindowStart pch) s = .next (setPch s P { x with inRefresh := true, refreshEnd := now s + 64 }))
    ∧ (x.inRefresh = true → x.refreshEnd = now s → exec (.refreshWindowEnd pch) s = .next (setPch s P { x with inRefresh := false }))
    ∧ (∀ m, v.multNext = some m → now s % 976 = 0 →
      ∃ t, exec (.refreshMultiplierChange vault) s = .next t ∧ (vaultOf t vault.val).mult = m ∧ (vaultOf t vault.val).multNext = none
        ∧ (vaultOf t vault.val).multPrev = v.mult ∧ (vaultOf t vault.val).multAt = now s
        ∧ (vaultOf t vault.val).pace = v.pace ∧ t.pchs = s.pchs ∧ t.dram = s.dram)
    ∧ (∀ p, v.paceNext = some p → now s % 976 = 0 →
      let s' := setVault s vault.val { v with pace := p, paceNext := none }
      exec (.paceLevelChange vault) s = .next (if v.multAt = now s then replanVault s' vault.val else s'))
    ∧ (∀ b, x.modeWrite = some b → (∀ c ∈ x.queue, c.arrived = true → c.window.isSome = true) →
      exec (.nearBankModeSwitch pch) s = .next
        (setPch s P { x with nbMode := b, modeWrite := none, modeAt := if b = x.nbMode then x.modeAt else now s }))

/-! ### The conservators -/

/-- A near-bank window's access acts on the awake conservator at its time and is answered, one that met it OFF after the wake. A
write sets the bytes of the SRAM words, of the command slots and of the registers that it names, merging into a word it names in part;
the I-SRAM of a running hart stays and WRITE_IGNORED is set; outside near-bank mode nothing is written. A
conservator that is awake, out of reset and in near-bank mode is started, halted and rung; it goes OFF once no burst is in
flight; a command that has stood at HEAD for its time, and does not complete in that beat, resets the vault. It rests on R260 to
R262, R264 to R266, R268 and R447, and says only what its clauses say of them. The readings of log entries 109, 117 and 118 are the model's, not the spec's. -/
def Obligations.ConservatorWindowAndControl : Prop :=
  (∀ (s : State) (n P off : Nat) (j : Fin 5) (r : Req) (t : Nat), s.sup.inReset = false →
    find s.net n = some r → spaceOf s r.addr = .window P off → inDomainReset s 3 (P / 64) = false →
      let base := off / 64 * 64
      let E := cclkOfPclk (t + 20)
      let c0 := csvOf (setCsvF (runUnit s P (E - 1)) P fun c => settleHalt (landLines c E) E) P
      let named := fun i => bits r.mask.toNat (4 * i) 4
      let value := fun i => bits r.data.toNat (32 * i) 32
      let whole := fun i => r.mask.toNat = 15 * 2 ^ (4 * i)
      let reg := fun (u : State) => c0.haltAsked = false →
        ((base = 0x21000 → whole 0 → value 0 % 4 = 1 → c0.state ≠ .running → csvOf u P =
            { c0 with state := .running, cause := 0, headSince := now s, pc := BitVec.ofNat 32 (c0.pc.toNat % 2 ^ 15) })
          ∧ (base = 0x21000 → whole 0 → value 0 % 4 = 2 → c0.state = .running → csvOf u P =
            if c0.free ≤ cclk s 0 then { c0 with state := .halted } else { c0 with haltAsked := true })
          ∧ (base = 0x21000 → whole 1 → csvOf u P =
            if c0.state = .running then c0 else { c0 with pc := BitVec.ofNat 32 (value 1 % 2 ^ 15) })
          ∧ (base = 0x21000 → whole 2 → (csvOf u P) = { c0 with status :=
              c0.status &&& ~~~(BitVec.ofNat 2 (bits (value 2) 9 2) &&& ~~~setIn c0.setAt 0 2 E) })
          ∧ (base = 0x21000 → whole 3 → (csvOf u P) = { c0 with faultBits :=
              c0.faultBits &&& ~~~(BitVec.ofNat 3 (value 3) &&& ~~~setIn c0.setAt 16 3 E) })
          ∧ (base = 0x21000 → whole 5 → value 5 % 32 ≠ 0 → c0.pending + value 5 % 32 ≤ 16 →
            (csvOf u P).pending = c0.pending + value 5 % 32 ∧ (csvOf u P).tail = c0.tail + BitVec.ofNat 4 (value 5 % 32)
              ∧ (csvOf u P).status = c0.status)
          ∧ (base = 0x21000 → whole 5 → 16 < c0.pending + value 5 % 32 → value 5 % 32 ≠ 0 → csvOf u P = c0.flag 1 E))
      let read := fun u : State => u = readNow s P n r base (t + 40)
        ∧ ∃ r', find u.net n = some r' ∧ r'.stage = .answered (t + 40 + 24 * r.hops)
      let written := fun u : State => u = writeNow s P n r base t
        ∧ (∃ r', find u.net n = some r' ∧ r'.stage = .answered (t + 32 + 24 * r.hops))
        ∧ ((pchOf s P).nbMode = false → csvOf u P = c0)
        ∧ ((pchOf s P).nbMode = true → r.skip = false → reg u ∧ ∀ i, i < 16 → named i ≠ 0 →
          let a := base + 4 * i
          let sram := fun m : List Host.Cell => storeOk sramCodec m = true →
            (named i = 15 → sramWord (csvOf u P) a = .clean (value i))
            ∧ (∀ old, named i ≠ 15 → sramWord c0 a = .clean old → sramWord (csvOf u P) a = .clean (mergeBytes 4 old (value i) (named i)))
          (inDSram a = true → sram (csvOf s P).dsram)
          ∧ (inISram a = true → c0.state ≠ .running → sram (csvOf s P).isram)
          ∧ (inISram a = true → c0.state = .running → (csvOf u P).isram = c0.isram ∧ (csvOf u P).status.getLsbD 0 = true)
          ∧ (inCmds a = true → (c0.cmds.Pairwise fun x y => x.1 < y.1) →
            slotWord (csvOf u P).cmds (a - 0x20000) = mergeBytes 4 (slotWord c0.cmds (a - 0x20000)) (value i) (named i)))
      (r.stage = .window t none → r.kind = .load → pclk s j.val = t + 40 → ∃ u, exec (.nbWindowRead n j) s = .next u ∧ read u)
      ∧ (r.stage = .window t none → r.kind = .store → pclk s j.val = t + 20 → ∃ u, exec (.nbWindowWrite n j) s = .next u ∧ written u)
      ∧ (∀ b, r.stage = .window t (some b) → domOn s .conservator P = true → r.kind = .load → pclk s j.val = t + 40 →
        ∃ u, exec (.nbWindowAccessAfterWake n j) s = .next u ∧ read u)
      ∧ (∀ b, r.stage = .window t (some b) → domOn s .conservator P = true → r.kind = .store → pclk s j.val = t + 20 →
        ∃ u, exec (.nbWindowAccessAfterWake n j) s = .next u ∧ written u))
  ∧ (∀ (s : State) (pch : Fin 1024) (count : BitVec 5), s.sup.inReset = false →
    let P := pch.val
    let c := csvOf s P
    domOn s .conservator P = true → inDomainReset s 3 (P / 64) = false →
      ((pchOf s P).nbMode = true → c.state ≠ .running → c.haltAsked = false →
        exec (.csvStart pch) s = .next (setCsv s P
          { c with state := .running, cause := 0, headSince := now s, pc := BitVec.ofNat 32 (c.pc.toNat % 2 ^ 15) }))
      ∧ ((pchOf s P).nbMode = true → c.state = .running →
        (c.free ≤ cclk s 0 → exec (.csvHalt pch) s = .next (setCsv s P { c with state := .halted, haltAsked := false }))
        ∧ (cclk s 0 < c.free → exec (.csvHalt pch) s = .next (setCsv s P { c with haltAsked := true })))
      ∧ ((pchOf s P).nbMode = true → c.pending + count.toNat ≤ 16 →
        ∃ t, exec (.csvDoorbell pch count) s = .next t ∧ (csvOf t P).pending = c.pending + count.toNat
          ∧ (csvOf t P).tail = c.tail + BitVec.ofNat 4 count.toNat ∧ (csvOf t P).status = c.status ∧ (csvOf t P).cmds = c.cmds
          ∧ t = { s with csvs := t.csvs })
      ∧ ((pchOf s P).nbMode = true → 16 < c.pending + count.toNat → count ≠ 0 →
        exec (.csvDoorbell pch count) s = .next (setCsv s P (c.flag 1 (cclk s 0))))
      ∧ (c.switchOff = true → c.bursts = [] →
        ∃ t, exec (.conservatorSwitchOff pch) s = .next t ∧ domOn t .conservator P = false ∧ (csvOf t P).dsram = c.dsram
          ∧ (csvOf t P).isram = c.isram ∧ t.dram = s.dram)
      ∧ (c.state = .running → 0 < c.pending → c.headSince + 2500000 ≤ now s → nbDoneDue s P = false →
        ∃ t, exec (.conservatorCommandTimeout pch) s = .next t ∧ t.resetBegan s .vault (P / 64) 5))

/-- The hart's RV32IMC instructions. `hartIssue` gives the state and the hart at an issue: the hart runs, its word can be read, and
its operands are there. An ecall or an ebreak traps with its cause. The products, and the quotients and remainders, those of a
divisor of 0 and of the overflow among them. It rests on R263, R264 and R267, and says only what its clauses say of them. The
readings of log entries 20 and 110 are the model's, not the spec's: that a misaligned store outside the map traps STORE_MISALIGNED, and
not STORE_ACCESS, is entry 110's order. -/
def Obligations.HartInstructions : Prop :=
  (∀ (s t : State) (pch : Fin 1024) (j : Fin 4) (op : RvOp) (h : HartAt), hartIssue s pch.val (cclk s j.val) = some (op, t, h) →
    let rd := rvRd h.w
    let f3 := rvF3 h.w
    (op = .alu → exec (.rvIntegerAlu pch j) s = .next (retire t h (setX h.c h.g rd (rvAluValue h) 1) 1))
    ∧ (op = .branch → h.w % 128 = 0x6F → exec (.rvBranchJump pch j) s = .next (jumpTo t h (h.c.pc + immJ h.w) rd))
    ∧ (op = .branch → h.w % 128 = 0x67 → exec (.rvBranchJump pch j) s = .next (jumpTo t h ((h.a + immI h.w) &&& ~~~1#32) rd))
    ∧ (op = .branch → h.w % 128 = 0x63 → exec (.rvBranchJump pch j) s = .next
        (if branchTaken f3 h.a h.b then jumpTo t h (h.c.pc + immB h.w) 0 else retire t h h.c 1))
    ∧ (∀ d, op = .load → let a := (h.a + immI h.w).toNat
        a % 2 ^ (f3 % 4) = 0 → csvMapped a = true → (windowWord t h.P (a / 4 * 4)).2 = some d →
        exec (.rvLoad pch j) s = .next (retire (windowWord t h.P (a / 4 * 4)).1 h
          (setX h.c h.g rd (loadBits f3 a d) (if inISram a || inDSram a then 2 else 4)) 1))
    ∧ (op = .store → let a := (h.a + immS h.w).toNat
        let mask := (2 ^ 2 ^ f3 - 1) * 2 ^ (a % 4) &&& (15 - windowMask h.c (a / 4 * 4) h.g)
        let w := wordMerge h.c.dsram sramCodec ((a / 4 * 4 - 0x10000) / 4) (h.b.toNat * 2 ^ (8 * (a % 4))) mask
        a % 2 ^ f3 = 0 → inDSram a = true → w.2.cls.1 = 0 →
        exec (.rvStore pch j) s = .next (retire t h { h.c with dsram := w.1 } 1))
    ∧ (op = .store → let a := (h.a + immS h.w).toNat
        let slots := slotWrite h.c.results (a / 4 * 4 - 0x20400) (h.b.toNat * 2 ^ (8 * (a % 4))) ((2 ^ 2 ^ f3 - 1) * 2 ^ (a % 4))
        a % 2 ^ f3 = 0 → inResults a = true → exec (.rvStore pch j) s = .next (retire t h { h.c with results := slots } 1))
    ∧ (op = .store → let a := (h.a + immS h.w).toNat
        (a % 2 ^ f3 ≠ 0 → exec (.rvStore pch j) s = .next (trapCsv t h.P 5))
        ∧ (a % 2 ^ f3 = 0 → inResults a = false → inDSram a = false → exec (.rvStore pch j) s = .next (trapCsv t h.P 6)))
    ∧ (op = .mul → exec (.rvMul pch j) s = .next (retire t h (setX h.c h.g rd (rvMulValue f3 h.a h.b) 3) 1))
    ∧ (op = .div → exec (.rvDiv pch j) s = .next (retire t h (setX h.c h.g rd (rvDivValue f3 h.a h.b) 34) 34))
    ∧ (op = .fence → exec (.rvFence pch j) s = .next (retire t h h.c 1))
    ∧ (op = .ecall → exec (.ecall pch j) s = .next (trapCsv t h.P 7))
    ∧ (op = .ebreak → exec (.ebreak pch j) s = .next (trapCsv t h.P 8)))
  ∧ (∀ a b : Word,
    rvMulValue 0 a b = a * b
    ∧ rvMulValue 1 a b = ((a.signExtend 64 * b.signExtend 64) >>> 32).setWidth 32
    ∧ rvMulValue 2 a b = ((a.signExtend 64 * b.setWidth 64) >>> 32).setWidth 32
    ∧ rvMulValue 3 a b = ((a.setWidth 64 * b.setWidth 64) >>> 32).setWidth 32
    ∧ (b = 0 → rvDivValue 4 a b = BitVec.allOnes 32 ∧ rvDivValue 5 a b = BitVec.allOnes 32 ∧ rvDivValue 6 a b = a ∧ rvDivValue 7 a b = a)
    ∧ (b ≠ 0 → rvDivValue 4 a b = a.sdiv b ∧ rvDivValue 5 a b = a.udiv b ∧ rvDivValue 6 a b = a.srem b ∧ rvDivValue 7 a b = a.umod b)
    ∧ rvDivValue 4 0x80000000#32 (BitVec.allOnes 32) = 0x80000000#32 ∧ rvDivValue 6 0x80000000#32 (BitVec.allOnes 32) = 0)

/-- What a hart's register instruction leaves as it was: no register but rd, none of its memories, queues or bursts, and nothing of
the module outside the conservator; x0 reads 0 and keeps no write. It rests on R267, R270 and R272, and says only what its
clauses say of them. The readings of log entry 20 are the model's, not the spec's. -/
def Obligations.HartRegisterFrame : Prop :=
  ∀ (t : State) (h : HartAt) (rd lat n : Nat) (v : Word),
    let u := retire t h (setX h.c h.g rd v lat) n
    let c := csvOf u h.P
    u = { t with csvs := put t.csvs h.P c }
      ∧ (∀ r, r < 32 → getX c r = if r = rd ∧ r ≠ 0 then v else getX h.c r)
      ∧ c.pc = h.c.pc + BitVec.ofNat 32 h.len ∧ c.free = h.g + n
      ∧ c.isram = h.c.isram ∧ c.dsram = h.c.dsram ∧ c.cmds = h.c.cmds ∧ c.results = h.c.results ∧ c.bursts = h.c.bursts
      ∧ c.state = h.c.state ∧ c.head = h.c.head ∧ c.pending = h.c.pending

/-- The near-bank instructions that neither wait nor trap, and the step that the attention unit makes for each row after its issue.
It rests on R268 and R270 to R275, and says only what its clauses say of them. The readings of log entries 11, 111, 112, 115 and
116 are the model's, not the spec's. -/
def Obligations.NearBankInstructions : Prop :=
  ∀ (s t : State) (pch : Fin 1024) (j : Fin 4) (f7 : Nat) (h : HartAt),
    hartIssue s pch.val (cclk s j.val) = some (.nb f7, t, h) →
    let rd := rvRd h.w
    let a := h.a.toNat
    let b := h.b.toNat
    let n := bits b 23 6 + 1
    let burst := b < 2 ^ 29 ∧ (pchOf t h.P).nbMode = true ∧ pchShared t h.P = true ∧ a % 128 = 0 ∧ 0x10000 ≤ a
      ∧ a + 128 * n ≤ 0x20000 ∧ bits b 0 23 + n ≤ 2 ^ 23 ∧ h.c.bursts.length < 8
    (f7 = 0 → burst → ∃ u x, exec (.nbRd pch j) s = .next u ∧ (csvOf u h.P).bursts = h.c.bursts ++ [x]
        ∧ x.ticket = h.c.nextTicket ∧ x.write = false ∧ x.dst = a ∧ x.line = bits b 0 23 ∧ x.n = n ∧ u.dram = t.dram)
    ∧ (f7 = 1 → burst → ∃ u x, exec (.nbWr pch j) s = .next u ∧ (csvOf u h.P).bursts = h.c.bursts ++ [x]
        ∧ x.ticket = h.c.nextTicket ∧ x.write = true ∧ x.dst = a ∧ x.line = bits b 0 23 ∧ x.n = n ∧ u.dram = t.dram)
    ∧ (f7 = 2 → (∀ x ∈ h.c.bursts, (h.a - x.ticket).msb = true) → exec (.nbWait pch j) s = .next (retire t h h.c 1))
    ∧ (f7 = 3 → exec (.nbBeat pch j) s = .next (retire t h (setX h.c h.g rd (t.beat.setWidth 32) 1) 1))
    ∧ (f7 = 4 → (t.beat.setWidth 32 - h.a).msb = false → exec (.nbUntil pch j) s = .next (retire t h h.c 1))
    ∧ (f7 = 8 → h.c.unitFree ≤ h.g → a < 256 → 5 ≤ a % 16 → a % 16 ≤ 10 → (t.boot.legacy = true → a.testBit 4 = false) →
        exec (.nbAcfg pch j) s = .next (retire t h
          { h.c with fmt := BitVec.ofNat 4 a, blk16 := a.testBit 4, g := bits a 5 3 + 1, scale := h.b } 1))
    ∧ (∀ t' d, f7 = 9 → h.c.unitFree ≤ h.g → spanOk a (512 * h.c.g) = true → dsramSpan t h.P a (512 * h.c.g) = (t', some d) →
        ∃ u, exec (.nbQld pch j) s = .next u
          ∧ (csvOf u h.P).q = (List.range (128 * h.c.g)).map (fun i => BitVec.ofNat 32 (bits d (32 * i) 32))
          ∧ (csvOf u h.P).unitFree = h.g + 8 * h.c.g ∧ u.dram = t'.dram)
    ∧ (f7 = 10 → h.c.unitFree ≤ h.g → b < 2 ^ 22 →
        let m := bits b 16 6 + 1
        let r := rowBytes h.c.fmt.toNat h.c.blk16
        spanOk a (m * r) = true → spanOk (0x10000 + bits b 0 16) (m * r) = true →
        ∃ u, exec (.nbAttn pch j) s = .next u
          ∧ (csvOf u h.P).unit = some { score := false, issue := h.g, pc := h.c.pc, rows := a, second := 0x10000 + bits b 0 16, n := m }
          ∧ (csvOf u h.P).unitFree = h.g + m ∧ (csvOf u h.P).finalAt = h.g + m + 11 ∧ (csvOf u h.P).final = false
          ∧ (csvOf u h.P).attn = h.c.attn ∧ (csvOf u h.P).dsram = h.c.dsram ∧ u.dram = t.dram)
    ∧ (f7 = 11 → h.c.unitFree ≤ h.g → b < 2 ^ 22 →
        let m := bits b 16 6 + 1
        spanOk a (m * rowBytes h.c.fmt.toNat h.c.blk16) = true → spanOk (0x10000 + bits b 0 16) (4 * m) = true →
        ∃ u, exec (.nbScore pch j) s = .next u
          ∧ (csvOf u h.P).unit = some { score := true, issue := h.g, pc := h.c.pc, rows := a, second := 0x10000 + bits b 0 16, n := m }
          ∧ (csvOf u h.P).unitFree = h.g + m ∧ (csvOf u h.P).final = h.c.final ∧ (csvOf u h.P).dsram = h.c.dsram ∧ u.dram = t.dram)
    ∧ (∀ (P i k : Nat) (w : UnitWork) (s2 : State),
        rowAt (setCsvF t P fun c => landLines c (w.issue + 1 + i)) P w.rows i = (s2, some k) → let c := csvOf s2 P
        (w.score = true → (csvOf (unitStep t P w i) P).scores = c.scores ++ [(w.issue + i + 11, w.second + 4 * i, bestScore c k)])
        ∧ (∀ s3 v, w.score = false → rowAt s2 P w.second i = (s3, some v) →
          (csvOf (unitStep t P w i) P).attn = (attnStates (csvOf s3 P)).zipIdx.map fun y =>
            tokenStep y.1 (scoreOf (csvOf s3 P) y.2 k) (rowElt c.fmt.toNat (if c.blk16 then 16 else 32) v)))
    ∧ (f7 = 12 → h.c.unitFree ≤ h.g → h.c.final = true → spanOk a (520 * h.c.g) = true →
        ∃ u, exec (.nbOst pch j) s = .next u ∧ (csvOf u h.P).unitFree = h.g + ceilDiv (520 * h.c.g) 64
          ∧ (csvOf u h.P).dsram = (((attnStates h.c).flatMap partialRecord).zipIdx.foldl
              (fun c x => dWrite c (a + 4 * x.2) x.1.toNat) h.c).dsram ∧ u.dram = t.dram)
    ∧ (f7 = 16 → exec (.nbCmd pch j) s = .next (retire t h
        (setX h.c h.g rd (if h.c.pending = 0 then BitVec.allOnes 32 else h.c.head.setWidth 32) 4) 1))
    ∧ (f7 = 17 → h.a = h.c.head.setWidth 32 → h.c.pending ≠ 0 →
        ∃ u, exec (.nbDone pch j) s = .next u ∧ (csvOf u h.P).head = h.c.head + 1 ∧ (csvOf u h.P).pending = h.c.pending - 1
          ∧ (csvOf u h.P).doneCount = satAdd h.c.doneCount 1 ∧ (csvOf u h.P).x = h.c.x)
    ∧ (f7 = 18 → exec (.nbFlt pch j) s = .next (retire t h (setX h.c h.g rd (BitVec.ofNat 32 (csvFaultWord h.c)) 4) 1))

/-- In near-bank mode, its granule shared, a burst's line moves in its slot between the pseudo-channel and the D-SRAM, after an ordinary request due at the same instant;
the burst ends 69 CCLK after its last line's slot; the attention unit's state becomes final at its time. It rests on R270, R271
and R273, and says only what its clauses say of them. The readings of log entries 112, 113 and 114 are the model's, not the
spec's. -/
def Obligations.BurstsAndAttentionEnd : Prop :=
  ∀ (s : State) (pch : Fin 1024) (j : Fin 4) (u : Burst), s.sup.inReset = false →
    let P := pch.val
    let g := cclk s j.val
    let s1 := catchUp s P g
    let c := csvOf s1 P
    let turn := (j = 0 → windowDue s P = false) ∧ (pchOf s P).nbMode = true ∧ pchShared s P = true
    (c.bursts = [u] → u.slots[u.done]? = some g → u.write = false → turn → csvListed s P = true →
      ∃ t x, exec (.burstLine pch j) s = .next t ∧ (csvOf t P).bursts = [x] ∧ x.done = u.done + 1 ∧ x.ticket = u.ticket
        ∧ (∃ d, x.landing = u.landing ++ [(g + 69, u.dst + 128 * u.done, d)]) ∧ t.dram = s.dram)
    ∧ (c.bursts = [u] → u.slots[u.done]? = some g → u.write = true → turn → csvListed s P = true →
      ∃ t x, exec (.burstLine pch j) s = .next t ∧ (csvOf t P).bursts = [x] ∧ x.done = u.done + 1
        ∧ t.dram = (burstWrite s1 P (u.line + u.done) (u.dst + 128 * u.done)).dram)
    ∧ (c.bursts = [u] → u.done = u.n → u.slots.getLast? = some (g - 69) → 69 ≤ g →
      exec (.burstComplete pch j) s = .next (setCsv s1 P { c with bursts := [] }))
    ∧ ((csvOf s P).final = false → (csvOf s P).finalAt = g → inDomainReset s 3 (P / 64) = false →
      exec (.attentionStateFinal pch j) s = .next (setCsv s1 P { c with final := true }))

/-! ### The engines -/

/-- The op commands. A descriptor that waits for an idle context of an engine that is on is taken in the context's slot (a scheduled
one at its beat, after the one before it): its first address goes out 4 PCLK later, and a cause of the check refuses it. One
that meets the engine OFF starts the wake and waits for it. It rests on R278, R279, R281 and R307, and says only what its
clauses say of them. The readings of log entries 119, 123 and 138 are the model's, not the spec's. -/
def Obligations.EnginesTakeDescriptors : Prop :=
  ∀ (s : State) (eng : Fin 48) (ctx : Fin 9) (j : Fin 5) (job : EngJob), s.sup.inReset = false →
    let e := eng.val
    let x := ctx.val
    let pc := pclk s j.val
    let s1 := if x = 8 then dueEntry s e pc else s
    inDomainReset s 2 (e / 6) = false → ctxOf s1 e x = none → queued s1 e x pc = some job →
      (domOn s1 .engine e = true → takeFrom s1 e x job ≤ pc → (x = 8 ∨ hasIntake s1 e x pc = true) →
        let t := takeDesc s1 e x pc job
        (dOp job.desc = 1 → exec (.copy eng ctx j) s = .next t)
        ∧ (dOp job.desc = 2 → exec (.fill eng ctx j) s = .next t)
        ∧ (dOp job.desc = 3 → exec (.range eng ctx j) s = .next t)
        ∧ (dOp job.desc = 4 → exec (.window eng ctx j) s = .next t)
        ∧ (dOp job.desc = 0x10 → exec (.transpose eng ctx j) s = .next t)
        ∧ (dOp job.desc = 0x20 → exec (.frame eng ctx j) s = .next t)
        ∧ (dOp job.desc = 0x30 → exec (.topk eng ctx j) s = .next t)
        ∧ (∃ c, ctxOf t e x = some c ∧ c.job = job ∧ c.take = pc ∧ c.start = pc + 4 ∧ c.reads = 0 ∧ c.writes = 0
          ∧ c.refused = if descCause s1 e job = 0 then none else some (descCause s1 e job))
        ∧ (engOf t e).queue = (engOf s1 e).queue.erase (x, job)
        ∧ t.shelf = s.shelf ∧ t.clm = s.clm ∧ t.dram = s.dram)
      ∧ (domOn s1 .engine e = false → dOp job.desc = 1 →
        ∃ t, exec (.copy eng ctx j) s = .next t ∧ (domOf t .engine e).state = .waking ∧ ctxOf t e x = none
          ∧ t.shelf = s.shelf ∧ t.clm = s.clm ∧ t.dram = s.dram)

/-- A read goes out at its time for its block, or its address refuses the descriptor; its data comes back, inside the module or from
the host, and enters as the context's next flit in a slot of the intake. A write goes out at its time with its block's data and
bytes, or as a skipped write where it depends on poison; its acknowledgement closes it, a write to the host being sent then unless
it is skipped or follows one that the host completed with an error; at its end a scheduled descriptor reports at the next beat
boundary, and a ring-driven one posts its completion, one refused at its take 4 PCLK after it. It rests on R283 to R286, R302, R303 and R476, and says only what its clauses say of them.
The readings of log entries 120, 121, 122, 123, 124, 160 and 211 are the model's, not the spec's. -/
def Obligations.EngineReadsFlitsAndWrites : Prop :=
  ∀ (s : State) (eng : Fin 48) (ctx : Fin 9) (j : Fin 5) (c : EngCtx), s.sup.inReset = false →
    let e := eng.val
    let x := ctx.val
    let pc := pclk s j.val
    ctxOf s e x = some c →
      (∀ a, issuing c = true → readDue x c = some pc → (readAddrs c.job.desc)[c.reads]? = some a →
        (readCause s c.job a = 0 → (dSrcHost c.job.desc = true → inDomainReset s 1 x = false) →
          ∃ t r c', exec (.engineReadIssue eng ctx j) s = .next t ∧ find t.net s.nextReq = some r ∧ r.addr = a
            ∧ r.origin = .engRead e x c.reads ∧ r.kind = (if dSrcHost c.job.desc then .hostRead else .load) ∧ r.stage = .route pc
            ∧ ctxOf t e x = some c' ∧ c'.reads = c.reads + 1 ∧ c'.lastRead = pc ∧ c'.openReads = c.openReads ++ [s.nextReq]
            ∧ t.shelf = s.shelf ∧ t.clm = s.clm ∧ t.dram = s.dram)
        ∧ (readCause s c.job a ≠ 0 →
          ∃ t, exec (.engineReadIssue eng ctx j) s = .next t ∧ ctxOf t e x = some { c with refused := some (readCause s c.job a), refusedAt := pc }
            ∧ t.net = s.net))
      ∧ (∀ n r i, readBack s e x false pc = some (n, r, i) →
        ∃ t c', exec (.engineReadReturn eng ctx j .inside) s = .next t ∧ t.net = drop s.net n ∧ ctxOf t e x = some c'
          ∧ c'.back = c.back ++ [(i, r.resp, pc)] ∧ c'.bad = (if r.poison then poisonFlit c.bad i else c.bad)
          ∧ c'.openReads = c.openReads.erase n ∧ t.dram = s.dram ∧ t.shelf = s.shelf)
      ∧ (∀ n r i d, readBack s e x true pc = some (n, r, i) →
        (∃ t c', exec (.engineReadReturn eng ctx j (.data d)) s = .next t ∧ t.net = drop s.net n ∧ ctxOf t e x = some c'
          ∧ c'.back = c.back ++ [(i, d, pc)] ∧ c'.bad = c.bad ∧ c'.openReads = c.openReads.erase n)
        ∧ (∃ t c', exec (.engineReadReturn eng ctx j .error) s = .next t ∧ t.net = drop s.net n ∧ ctxOf t e x = some c'
          ∧ c'.hostError = true ∧ c'.back = c.back))
      ∧ (∀ b, c.back.find? (·.1 = c.eTimes.length) = some b → c.abandoned.isNone = true → flitReady c pc = true →
        hasIntake s e x pc = true →
        ∃ t c', exec (.flitEntry eng ctx j) s = .next t ∧ ctxOf t e x = some c' ∧ c'.eTimes = c.eTimes ++ [pc]
          ∧ find c'.flits c.eTimes.length = some b.2.1 ∧ c'.bad = c.bad ∧ (engOf t e).flits = satAdd (engOf s e).flits 1
          ∧ t.shelf = s.shelf ∧ t.dram = s.dram)
      ∧ (∀ w, issuing c = true → (writesOf c.job.desc)[c.writes]? = some w → writeDue c c.writes w = some pc →
        (writeCause s c.job w = 0 → (dDstHost c.job.desc = true → inDomainReset s 1 x = false) →
          let bad := w.deps.any (flitBad c.bad)
          ∃ t r c', exec (.engineWriteIssue eng ctx j) s = .next t ∧ find t.net s.nextReq = some r ∧ r.addr = w.addr
            ∧ r.origin = .engWrite e x c.writes ∧ r.data = writeData c.job.desc c.flits c.writes w
            ∧ r.mask = BitVec.ofNat 64 w.mask ∧ r.skip = bad ∧ r.stage = .route pc
            ∧ ctxOf t e x = some c' ∧ c'.writes = c.writes + 1 ∧ c'.lastWrite = pc ∧ c'.openWrites = c.openWrites ++ [s.nextReq]
            ∧ t.shelf = s.shelf ∧ t.clm = s.clm ∧ t.dram = s.dram)
        ∧ (writeCause s c.job w ≠ 0 →
          ∃ t, exec (.engineWriteIssue eng ctx j) s = .next t ∧ ctxOf t e x = some { c with refused := some (writeCause s c.job w), refusedAt := pc }
            ∧ t.net = s.net))
      ∧ (∀ n m r, s.net.findSome? (fun r => match r.2.origin, r.2.stage with
            | .engWrite a b k, .answered t => if a = e && b = x && t = pc then some (r.1, k, r.2) else none
            | _, _ => none) = some (n, m, r) → n ∈ c.openWrites →
        let sent := r.kind = .hostWrite ∧ r.skip = false ∧ afterError c m = false
        (∃ t c', exec (.engineWriteAck eng ctx j false) s = .next t ∧ t.net = drop s.net n ∧ ctxOf t e x = some c'
          ∧ c'.openWrites = c.openWrites.erase n ∧ c'.lastAck = max c.lastAck pc ∧ c'.hostError = c.hostError
          ∧ (sent → t.out = s.out ++ [.hostWrite r.cls r.addr r.mask r.data]) ∧ (¬ sent → t.out = s.out))
        ∧ (sent → c.failedWrite = none → ∃ t c', exec (.engineWriteAck eng ctx j true) s = .next t ∧ ctxOf t e x = some c'
          ∧ c'.hostError = true ∧ c'.failedWrite = some m))
      ∧ (∀ l, doneAt c = some pc → c.job.ring = none → c.refused = none → execOf s c.job.part = some l →
        ∃ t, exec (.descriptorDone eng ctx j) s = .next t ∧ (engOf t e).ctx = drop (engOf s e).ctx x ∧ (engOf t e).descs = satAdd (engOf s e).descs 1
          ∧ execOf t c.job.part = some { l with engineOpen := l.engineOpen.erase c.job.entry, lastDone := now s + 1 })
      ∧ (doneAt c = some pc → c.job.ring.isSome = true →
        ∃ t u, exec (.descriptorDone eng ctx j) s = .next t ∧ (engOf t e).ctx = drop (engOf s e).ctx x ∧ t.shelf = s.shelf ∧ t.dram = s.dram
          ∧ t.clm = s.clm ∧ t = engineComplete u c.job (endStatus c).1 (endStatus c).2 (now s)
            (if c.refused.isSome && c.refusedAt = c.take then pc else pc + 1) ∧ u.rings = s.rings)

/-- A ring-driven descriptor that is not done in its time ends with cause 9 and resets its stack, or the host port if it waits on
host memory; an abandoned one completes once nothing of it is out; a descriptor held outside a stack in reset goes on when the
reset has ended; ENG_STATUS clears the bits that are written as 1 and not set in the same cycle, and its cause with the last of
them. It rests on R11, R279, R281, R305 and R306, and says only what its clauses say of them. The readings of log entries 125, 171,
173 and 180 are the model's, not the spec's: that the cycle of R11 is here the beat is entry 173's. -/
def Obligations.EngineTimeoutsAndStatus : Prop :=
  ∀ (s : State) (eng : Fin 48) (ctx : Fin 9) (c : EngCtx) (value : BitVec 32), s.sup.inReset = false →
    let e := eng.val
    let x := ctx.val
    let g := engOf s e
    let cleared := (value >>> 9).setWidth 6 &&& ~~~ (setIn g.setAt 0 6 (now s) : BitVec 6)
    (ctxOf s e x = some c → x ≠ 8 → c.take / 5 + 250000 + 24 * requestsOf c.job.desc ≤ now s → endsNow s c = false →
        ∃ t, exec (.engineDescriptorTimeout eng ctx) s = .next t ∧ (∃ d ∈ (engOf t e).done, d.1 = c.job ∧ d.2.1 = 5 ∧ d.2.2.1 = 9)
          ∧ (onHost s c = false → inDomainReset s 2 (e / 6) = false → t.resetBegan s .stack (e / 6) 3)
          ∧ (onHost s c = true → inDomainReset s 1 x = false → t.resetBegan s .hostPort x 3))
    ∧ (∀ f, ctxOf s e x = some c → g.done = [] → c.abandoned = some f → f < now s → settled s c = true →
        ∃ t, exec (.abandonedDescriptorCompletion eng ctx) s = .next t ∧ (engOf t e).ctx = drop g.ctx x ∧ t.dram = s.dram ∧ t.shelf = s.shelf)
    ∧ (∀ q, g.queue = [q] → q.2.held = true → inDomainReset s 2 (e / 6) = false →
        exec (.heldDescriptorRelease eng) s =
          .next (setEng s e { g with queue := [(q.1, { q.2 with held := false, from_ := 5 * now s })] }))
    ∧ (s.boot.deaccessioned = false → ∃ t, exec (.engineStatusWrite eng value) s = .next t ∧ (engOf t e).status = g.status &&& ~~~cleared
        ∧ (cleared = 0 → (engOf t e).cause = g.cause)
        ∧ (g.status &&& 0b110111 ≠ 0 → (g.status &&& ~~~cleared) &&& 0b110111 = 0 → (engOf t e).cause = 0)
        ∧ ((g.status &&& ~~~cleared) &&& 0b110111 ≠ 0 → (engOf t e).cause = g.cause)
        ∧ t = { s with engines := t.engines })

/-- The sorter ranks every key of the array, in its order: binary32 keys in the direction's order, equal keys by position, and
NaNs last. It rests on R299 and R300, and says only what its clauses say of them. -/
def Obligations.SorterRanksTheKeys : Prop :=
  ∀ (d : BitVec 384) (f : Flits),
    let up := dField d 0x20 13 1 = 1
    (ranked d f).Perm ((List.range (tkN d)).map fun i => (BitVec.ofNat 32 (bits (flitOf f (i / 16)) (32 * (i % 16)) 32), i))
      ∧ (ranked d f).Pairwise (fun x y =>
          (isNan32 x.1 = true → isNan32 y.1 = true ∧ x.2 < y.2)
          ∧ (isNan32 x.1 = false → isNan32 y.1 = false →
              (totalKey x.1 = totalKey y.1 ∧ x.2 < y.2) ∨ (if up then totalKey x.1 < totalKey y.1 else totalKey y.1 < totalKey x.1)))
      ∧ (∀ a b : Word, numKey a < numKey b → totalKey a < totalKey b) ∧ totalKey 0x80000000 < totalKey 0


/-! ### The host ports, rings and the registrar -/

/-- Configuration space keeps what is written, but for the words that nothing writes, and reads with the fixed bits of R311; a BAR2 access to a block that the port's
partition reaches goes out as the port's request, and any other is refused: a write is lost and a read completes with all ones;
a read's completion carries the data, and one that a closed edge has poisoned ends the owner's job; HP_BAR2_BASE takes its high
half. It rests on R9, R21, R311, R315 to R318, R351, R430 and R444, and says only what its clauses say of them. The readings of log
entries 24, 25, 130, 132, 197 and 212 are the model's, not the spec's. -/
def Obligations.ConfigurationAndBar2 : Prop :=
  ∀ (s : State) (port : Fin 8) (offset : BitVec 12) (off : BitVec 36) (lanes : BitVec 64) (data : BitVec 512) (tag : BitVec 10)
    (value : BitVec 32) (who : Requester), s.sup.inReset = false → inDomainReset s 1 port.val = false →
    let p := port.val
    let x := portOf s p
    (x.perstReleased = true →
        let w := offset.toNat / 4
        let f := configFixed w
        (configReadOnly w = false →
          ∃ t, exec (.configRequest port true offset value) s = .next t ∧ find (portOf t p).config w = some value)
        ∧ (configReadOnly w = true → ∃ t, exec (.configRequest port true offset value) s = .next t ∧ (portOf t p).config = x.config)
        ∧ (∃ v, exec (.configRequest port false offset value) s = .next (emit s (.config p v))
          ∧ (w ≠ capabilityAt 0 → v &&& BitVec.ofNat 32 f.1 = BitVec.ofNat 32 f.2 &&& BitVec.ofNat 32 f.1)
          ∧ (∀ y, w ≠ capabilityAt 0 → find x.config w = some y →
            v &&& ~~~BitVec.ofNat 32 f.1 = (y ||| BitVec.ofNat 32 f.2) &&& ~~~BitVec.ofNat 32 f.1)))
    ∧ (∀ a part, bar2Target s p off lanes = some (a, part) →
        (∃ t r, exec (.bar2Read port off lanes tag) s = .next t ∧ find t.net s.nextReq = some r ∧ r.origin = .bar2 p tag.toNat
          ∧ r.addr = a ∧ r.kind = .load ∧ r.mask = lanes ∧ (portOf t p).bar2Rd = satAdd x.bar2Rd 1
          ∧ t.shelf = s.shelf ∧ t.dram = s.dram ∧ t.clm = s.clm)
        ∧ (∃ t r, exec (.bar2Write port off lanes data) s = .next t ∧ find t.net s.nextReq = some r ∧ r.addr = a ∧ r.kind = .store
          ∧ r.mask = lanes ∧ r.data = data ∧ (portOf t p).bar2Wr = satAdd x.bar2Wr 1
          ∧ t.shelf = s.shelf ∧ t.dram = s.dram ∧ t.clm = s.clm))
    ∧ (bar2Target s p off lanes = none →
        exec (.bar2Read port off lanes tag) s = .next (emit (refuseBar2 s p) (.bar2 p tag.toNat (BitVec.allOnes 512) false))
        ∧ exec (.bar2Write port off lanes data) s = .next (refuseBar2 s p)
        ∧ (portOf (refuseBar2 s p) p).refused = satAdd x.refused 1 ∧ (portOf (refuseBar2 s p) p).status = setBit x.status 2)
    ∧ (∀ n r c, find s.net n = some r → r.origin = .bar2 p tag.toNat → r.stage = .answered c → c ≤ 5 * now s + 4 →
        let done := emit { s with net := drop s.net n } (.bar2 p tag.toNat r.resp r.poison)
        exec (.bar2ReadCompletion n) s = .next (if r.poison && r.why.isNone then raiseFault done r.part ⟨6, 2, p, 0, none⟩ else done))
    ∧ (∃ t, exec (.hpBar2BaseWrite who port true value) s = .next t
        ∧ (portOf t p).bar2Base = BitVec.ofNat 64 (bits value.toNat 4 12 * 2 ^ 36) ∧ t.dram = s.dram ∧ t.shelf = s.shelf)
    ∧ exec (.hpBar2BaseWrite who port false value) s = .next s

/-- A sound doorbell moves its ring's index, an unsound one is ignored and counted; a fetch reads the ring's waiting descriptors
and, at its return, moves the head past those that no doorbell has discarded and hands them on; a fetch that does not return
resets its port; an entry that a full ring held goes on to the host-port DMA engine when there is room. It rests on R320 to
R323, R328 and R329, and says only what its clauses say of them. The readings of log entries 126, 127 and 128 are the model's,
not the spec's. -/
def Obligations.DoorbellsAndFetches : Prop :=
  ∀ (s : State) (port : Fin 8) (ring : Fin 32768) (value : BitVec 32) (r : Ring) (j : Fin 5), s.sup.inReset = false →
    inDomainReset s 1 port.val = false →
    let p := port.val
    let id := 32768 * p + ring.val
    let idx : BitVec 16 := value.setWidth 16
    let ignored := ignoreDoorbell s p
    (ignored.rings = s.rings ∧ (portOf ignored p).dbDropped = satAdd (portOf s p).dbDropped 1
        ∧ (portOf ignored p).status = setBit (portOf s p).status 1)
    ∧ (∀ be : BitVec 4, be ≠ 15 ∨ bits value.toNat 17 15 ≠ 0 ∨ ownerOfPort s p = none ∨ find s.rings id = none →
        exec (.sqDoorbell port ring be value) s = .next ignored ∧ exec (.cqDoorbell port ring be value) s = .next ignored)
    ∧ ((ownerOfPort s p).isSome = true → bits value.toNat 17 15 = 0 → find s.rings id = some r →
        (r.type_ = 0 → value.getLsbD 16 = false → (idx - r.head).toNat ≤ ringEntries r →
          exec (.sqDoorbell port ring 15 value) s = .next (ringTail s p id r idx)
            ∧ find (ringTail s p id r idx).rings id = some { r with tail := idx })
        ∧ (r.type_ = 0 → value.getLsbD 16 = true ∨ ringEntries r < (idx - r.head).toNat →
          exec (.sqDoorbell port ring 15 value) s = .next ignored)
        ∧ (r.type_ ≠ 0 → (idx - r.head).toNat ≤ (r.tail - r.head).toNat →
          exec (.cqDoorbell port ring 15 value) s = .next (ringHeadTo s p id r idx (value.getLsbD 16))
          ∧ exec (.ringArm port ring 15 value) s = .next (ringHeadTo s p id r idx true)
          ∧ (∀ arm, ∃ r', find (ringHeadTo s p id r idx arm).rings id = some r' ∧ r'.head = idx ∧ r'.tail = r.tail))
        ∧ (r.type_ ≠ 0 → (r.tail - r.head).toNat < (idx - r.head).toNat →
          exec (.cqDoorbell port ring 15 value) s = .next ignored))
    ∧ (let x := portOf s p
      let pc := pclk s j.val
      (x.fetch = none → x.fetchQueue = [id] → find s.rings id = some r → mayFetch s r.part = true → fetchCount r ≠ 0 →
        beforeFetch s p pc = false →
        hostReadsOut s p < 256 → x.nextFetch ≤ pc → 16 ≤ pc % 20 → classOfSlot pc = p → look s.slotUse (5 * 65536 + p) (pc + 1) ≠ pc →
        ∃ t, exec (.fetchReadIssue port j) s = .next t ∧ (portOf t p).fetch = some ⟨id, r.head, fetchCount r, fetchCount r, pc⟩ ∧ t.rings = s.rings)
      ∧ (∀ f data, x.fetch = some f → find s.rings f.ring = some r → r.head = f.first →
        mayFetch s r.part = true → f.issue + 8 ≤ pc → data.length = f.count → f.count ≤ 16 →
        ∃ t, exec (.fetchDataReturn port j data) s = .next t ∧ (portOf t p).fetch = none
          ∧ find t.rings f.ring = some { r with head := r.head + BitVec.ofNat 16 f.keep,
                                                fetched := r.fetched ++ (data.take f.keep).map fun d => (d, now s + 1) })
      ∧ (∀ f, x.fetch = some f → f.issue / 5 + 25000000 ≤ now s →
        ∃ t, exec (.fetchTimeout port) s = .next t ∧ t.resetBegan s .hostPort p 6)
      ∧ (∀ id' : Fin 262144, ∀ e rest, find s.rings id'.val = some r → r.held = e :: rest → entryFree s id'.val r = true →
        ∃ t q, exec (.heldEntryWrite id') s = .next t ∧ find t.rings id'.val = some { r with held := rest }
          ∧ find t.net s.nextReq = some q ∧ q.origin = .registrar id'.val ∧ q.kind = .hostWrite ∧ q.data = e
          ∧ q.route = [(5, portOfRing id'.val)] ∧ q.stage = .route (5 * now s)))

/-- The delivery of the descriptor at the front of a ring's fetched ones: one that fails a check is answered with its status, and a
sound one acts. An acceptance is posted at the next beat. A 1 written to JOB_HELD clears it, unless it was set in the same beat,
and fetching resumes at the next beat. It rests on R11, R47, R49, R51, R279, R324 to R326 and R338, and says only what its clauses
say of them. The readings of log entries 129, 131 and 173 are the model's, not the spec's: that the cycle of R11 is here the beat is
entry 173's. -/
def Obligations.DescriptorsAreDelivered : Prop :=
  ∀ (s : State) (ring : Fin 262144) (part : Fin 8) (r : Ring) (d : BitVec 512) (b : Nat) (rest : List (BitVec 512 × Nat)),
    s.sup.inReset = false → find s.rings ring.val = some r →
    let id := ring.val
    let p := r.part
    let r' := { r with fetched := rest }
    let h := r.head - BitVec.ofNat 16 rest.length
    (r.fetched = (d, b) :: rest → b ≤ now s →
      (sdStatus s p d ≠ 0 →
        let t := accept s id r' d (sdStatus s p d) h
        (sdKind d = 0 ∨ 4 < sdKind d → exec (.submissionNop ring) s = .next t)
        ∧ (sdKind d = 1 → commandPart s ≠ some p → exec (.run ring) s = .next t)
        ∧ (sdKind d = 2 → exec (.gate ring) s = .next t)
        ∧ (sdKind d = 3 → commandPart s ≠ some p → exec (.stop ring) s = .next t)
        ∧ (sdKind d = 4 → exec (.engine ring) s = .next t))
      ∧ (sdStatus s p d = 0 →
        (sdKind d = 0 → d.getLsbD 8 = false → exec (.submissionNop ring) s = .next (setRing s id r'))
        ∧ (sdKind d = 1 → commandPart s ≠ some p →
          ∃ t c e, exec (.run ring) s = .next t ∧ (partOf t p).run = some c ∧ (partOf t p).runState = .gated
            ∧ c.handle = sdWord d 1 ∧ c.cq = sdWord d 3 ∧ c.next = none ∧ c.exec = none ∧ c.eval = some e
            ∧ e.at_ = roundUp (now s + 1) 4 ∧ (sdWord d 2 ≠ 0xFFFFFFFF → e.index = sdWord d 2)
            ∧ (partOf t p).steps = 0 ∧ (partOf t p).gates = [] ∧ t.dram = s.dram ∧ t.shelf = s.shelf ∧ t.clm = s.clm)
        ∧ (sdKind d = 2 →
          ∃ t, exec (.gate ring) s = .next t
            ∧ look (partOf t p).gates (sdWord d 1) 0 = min (look (partOf s p).gates (sdWord d 1) 0 + sdWord d 2) 0xFFFFFFFF
            ∧ (∀ g, g ≠ sdWord d 1 → look (partOf t p).gates g 0 = look (partOf s p).gates g 0)
            ∧ t.dram = s.dram ∧ t.shelf = s.shelf ∧ t.clm = s.clm)
        ∧ (∀ c, sdKind d = 3 → commandPart s ≠ some p → (partOf s p).run = some c →
          (c.exec.isSome = true ∨ c.next.isSome = true →
            ∃ t, exec (.stop ring) s = .next t ∧ (partOf t p).run = some { c with eval := none } ∧ (partOf t p).runState = .stopping)
          ∧ (c.exec = none → c.next = none → ∃ t, exec (.stop ring) s = .next t ∧ (partOf t p).run = none))
        ∧ (sdKind d = 4 →
          let e := 6 * (sdWord d 1 % 8) + bits (sdWord d 1) 3 3
          ∃ t q, exec (.engine ring) s = .next t ∧ (engOf t e).queue = (engOf s e).queue ++ [(portOfRing id, q)]
            ∧ q.desc = BitVec.ofNat 384 (d.toNat / 2 ^ 128) ∧ q.part = p ∧ q.ring = some (id, sdTag d, h)
            ∧ q.held = inDomainReset s 2 (e / 6))))
    ∧ (∀ e more, r.accept = (e, b) :: more → b ≤ now s →
        ∃ t, exec (.acceptanceCompletionPost ring) s = .next t ∧ t.dram = s.dram ∧ t.shelf = s.shelf
          ∧ (r.cq ≠ id → (find t.rings id).map (·.accept) = some more))
    ∧ (s.boot.deaccessioned = false → owned (partOf s part.val) = true → (partOf s part.val).held = true →
        ∃ t, exec (.rgsJobHeldClear part) s = .next t ∧ t = { s with parts := t.parts, ports := t.ports }
          ∧ (partOf t part.val).held = decide (find (partOf s part.val).setAt 32 = some (now s))
          ∧ (partOf t part.val).heldClearedAt = some (now s)
          ∧ (∀ q ∈ t.ports, (partOf s part.val).ports.getLsbD q.1 = true → 5 * (now s + 1) ≤ q.2.nextFetch))

/-! ### The curator's mailboxes -/

/-- A GO on an idle channel queues its block, and any other sets GO_IGNORED; the command arrives at the next beat behind those that
wait, and starts with the verdict of its checks where the curator is free; it ends at its exact time with its response, after
which the channel is DONE; one that has not ended 1,000,000 MCLK later resets the curator. It rests on R341 to R343, R348, R350
and R447, and says only what its clauses say of them. The readings of log entries 55, 56, 57 and 60 are the model's, not the
spec's. -/
def Obligations.MailboxProtocol : Prop :=
  ∀ (s : State) (chan : Fin 33) (r : Running), s.sup.inReset = false →
    let n := chan.val
    let c := chanBlock s n
    (s.boot.valid = true → c.state ≠ .queued → c.state ≠ .running → s.boot.legacy = false →
        exec (.mailboxGo chan) s = .next (setChan s n { c with state := .queued, captured := c.cmd, goAt := some (now s) }))
    ∧ (s.boot.valid = false ∨ c.state = .queued ∨ c.state = .running →
        exec (.mailboxGo chan) s = .next (setChan s n { c with goIgnored := true, ignoredAt := some (now s) }))
    ∧ (arrives s n = true → (∀ k, k < n → arrives s k = false) →
        let s' := setChan s n { c with goAt := none, arrivedAt := now s }
        let q := { s' with curator := { s'.curator with queue := s'.curator.queue ++ [n] } }
        (s.curator.running = some r → exec (.commandArrival chan) s = .next q)
        ∧ (curatorFree s = true → s.curator.queue = [] → opcodeOf c.captured ≠ 0x103 →
          let v := evaluate (cmdTime q c.captured).2 n c.captured
          ∃ t r', exec (.commandArrival chan) s = .next t ∧ t.curator.running = some r' ∧ t.curator.queue = []
            ∧ r'.chan = n ∧ r'.start = now s ∧ r'.arrived = now s ∧ r'.block = c.captured ∧ r'.t = (cmdTime q c.captured).1
            ∧ r'.check = v.1.check ∧ r'.status = v.1.status ∧ r'.half = v.1.half ∧ r'.applied = false ∧ (chanBlock t n).state = .running))
    ∧ (s.curator.running = some r → s.curator.queue = [] → now s = replyBeat r →
        (∀ status, lateStatus s r = some status →
          exec .commandEnd s = .next (respondWith (undoCommand s r) r status 1 []))
        ∧ (lateStatus s r = none → r.status ≠ 0 → exec .commandEnd s = .next (respondWith s r r.status r.check r.results))
        ∧ (∀ x, lateStatus s r = none → r.status = 0 → effectMade s r = true → cmdRow (opcodeOf r.block) = some x →
          ∃ t, exec .commandEnd s = .next t ∧ t.curator.epoch = (if x.moves then s.curator.epoch + 1 else s.curator.epoch)
            ∧ t.curator.running = none ∧ (chanBlock t r.chan).state = .done ∧ t.parts = s.parts ∧ t.granules = s.granules))
    ∧ (∀ status check results, let t := respondWith s r status check results
        (chanBlock t r.chan).state = .done ∧ t.curator.running = none ∧ t.parts = s.parts
          ∧ (now s = endBeat r → t.curator.freeAt = r.start + ceilDiv r.t 4)
          ∧ (chanBlock t r.chan).rsp = (responseWords s r status check results).filter fun x => x.2 ≠ 0)
    ∧ (s.curator.running = some r → now s = r.start + (r.t + 1000000) / 4 → inDomainReset s 4 0 = false →
        ∃ t, exec .mailboxCommandTimeout s = .next t ∧ t.resetBegan s .curator 0 4)

/-- The effects and results of the queries and of the settings, at the command's end; a partition is created with the resources
named, committed, renewed and destroyed; at its creation and renewal its accounts, of the input and of every rail, start at their
capacities, and no other partition's resources, granules, rings, timetables or accounts change. It
rests on R24 to R26, R350, R353 to R357, R361, R387 and R401, and says only what its clauses say of them. The readings of log
entries 14, 33, 58, 64 and 65 are the model's, not the spec's. -/
def Obligations.QueriesSettingsAndPartitionCommands : Prop :=
  ∀ (s : State) (r : Running),
    let p := runningPart s r
    let x := partOf s p
    let w := arg s r.block 0
    let v := arg s r.block 1
    let full := fun t : State => (partOf t p).inBalance = uj (inputCap (partOf t p))
      ∧ (∀ i, i < 210 → (weight (partOf t p) i).1 ≠ 0 → balanceOf (partOf t p) i = uj (railCap (partOf t p) i))
    let others := fun t : State => ∀ q, q ≠ p →
      (partOf t q).state = (partOf s q).state ∧ (partOf t q).ports = (partOf s q).ports ∧ (partOf t q).wings = (partOf s q).wings
        ∧ (partOf t q).lanes = (partOf s q).lanes ∧ (partOf t q).ways = (partOf s q).ways ∧ (partOf t q).slots = (partOf s q).slots
        ∧ (partOf t q).share = (partOf s q).share ∧ (partOf t q).half = (partOf s q).half ∧ (partOf t q).bound = (partOf s q).bound
        ∧ (partOf t q).inBalance = (partOf s q).inBalance ∧ (partOf t q).balances = (partOf s q).balances
        ∧ (∀ g y, find s.granules g = some y → y.part = q → find t.granules g = some y)
        ∧ (∀ id y, find s.rings id = some y → y.part = q → ∃ z, find t.rings id = some z ∧ z.part = q ∧ z.type_ = y.type_
          ∧ z.base = y.base ∧ z.log2 = y.log2)
    (dueCommand s 0x001 false = some r → exec .nop s = .next (s.applied r []))
    ∧ (dueCommand s 0x002 false = some r → ∃ l, exec .moduleQuery s = .next (s.applied r l)
        ∧ look l 4 0 = BitVec.ofNat 32 s.fuses.securityMin ∧ look l 6 0 = BitVec.ofNat 32 (now s)
        ∧ look l 7 0 = BitVec.ofNat 32 (now s / 2 ^ 32)
        ∧ look l 8 0 = BitVec.ofNat 32 (1024 - otherShares s 8))
    ∧ (dueCommand s 0x003 false = some r → ∃ l, exec .capsRead s = .next (s.applied r l)
        ∧ ∀ i, i < 12 → look l i 0 = BitVec.ofNat 32 (capWord s i))
    ∧ (dueCommand s 0x004 false = some r → ∃ l, exec .partitionQuery s = .next (s.applied r l)
        ∧ look l 0 0 = BitVec.ofNat 32 (x.ports.toNat + 2 ^ 8 * x.lanes.toNat + 2 ^ 16 * x.ways.toNat)
        ∧ look l 3 0 = BitVec.ofNat 32 (s.rings.filter fun r => r.2.part = p).length
        ∧ ∀ i, i < 4 → look l (4 + i) 0 = BitVec.ofNat 32 (bits x.wings.toNat (32 * i) 32))
    ∧ (dueCommand s 0x005 false = some r → ∃ l, exec .logRead s = .next (s.applied r l)
        ∧ look l 0 0 = s.errLog.written ∧ look l 1 0 = BitVec.ofNat 32 (b2n s.errLog.overflow)
        ∧ ∀ i k, i < bits w 12 2 → k < 16 →
            look l (8 + 16 * i + k) 0 = BitVec.ofNat 32 (bits (look s.errLog.ring ((w % 4096 + i) % 4096) 0).toNat (32 * k) 32))
    ∧ (dueCommand s 0x010 false = some r → exec .thermalGraceSet s =
        .next (({ s with thermal := { s.thermal with grace := BitVec.ofNat 8 w } } : State).applied r []))
    ∧ (dueCommand s 0x011 false = some r → exec .escalationSet s =
        .next (({ s with esc := { s.esc with count := BitVec.ofNat 4 w, windowS := BitVec.ofNat 12 (bits w 16 12) } } : State).applied r []))
    ∧ (dueCommand s 0x012 false = some r →
        ∃ t, exec .accountSet s = .next (t.applied r []) ∧ t = { s with parts := t.parts }
          ∧ (partOf t p).share = w % 2048 ∧ (∀ q, q ≠ p → partOf t q = partOf s q)
          ∧ (partOf t p).inBalance = clip x.inBalance (inputCap { x with share := w % 2048 })
          ∧ (partOf t p).wings = x.wings ∧ (partOf t p).state = x.state)
    ∧ (dueCommand s 0x100 false = some r → ∃ t, exec .partitionCreate s = .next t ∧ (partOf t p).state = .forming
        ∧ (partOf t p).ports = BitVec.ofNat 8 w ∧ (partOf t p).lanes = BitVec.ofNat 8 (w / 256)
        ∧ (partOf t p).ways = BitVec.ofNat 16 (w / 65536) ∧ (partOf t p).slots = BitVec.ofNat 16 v
        ∧ (partOf t p).share = bits v 16 11
        ∧ (partOf t p).wings = BitVec.ofNat 128 (argPair s r.block 2 + 2 ^ 64 * argPair s r.block 4)
        ∧ (partOf t p).runState = .unbound ∧ full t ∧ others t ∧ t.dram = s.dram)
    ∧ (dueCommand s 0x101 false = some r → exec .partitionCommit s =
        .next ((setPart s p { x with state := .committed, vcCtlOn := x.vcCtl, waysOn := x.ways }).applied r [])
        ∧ others (setPart s p { x with state := .committed, vcCtlOn := x.vcCtl, waysOn := x.ways }))
    ∧ (dueCommand s 0x102 false = some r → ∃ t, exec .partitionRenew s = .next t ∧ (partOf t p).job = 0 ∧ (partOf t p).held = false
        ∧ full t ∧ (partOf t p).steps = 0 ∧ (partOf t p).wings = x.wings ∧ (partOf t p).ports = x.ports ∧ others t ∧ t.dram = s.dram)
    ∧ (dueCommand s 0x103 false = some r → ∃ t, exec .partitionDestroy s = .next t ∧ (partOf t p).state = .absent
        ∧ (partOf t p).ports = 0 ∧ (partOf t p).wings = 0 ∧ (partOf t p).share = 0 ∧ (partOf t p).run = none
        ∧ (∀ g ∈ t.granules, g.2.part ≠ p) ∧ (∀ e ∈ t.plan, e.1 ≠ p) ∧ others t)

/-- The granule, near-bank, ring and timetable commands, and the retirement, reset and firmware commands. It rests on R43, R49,
R216, R248, R258, R320, R358 to R361, R364, R365, R425 and R447, and says only what its clauses say of them. The readings of log
entries 19, 58, 60, 62, 63 and 179 are the model's, not the spec's. -/
def Obligations.ResourceAndMaintenanceCommands : Prop :=
  ∀ (s : State) (r : Running),
    let p := runningPart s r
    let x := partOf s p
    let w := arg s r.block 0
    let v := arg s r.block 1
    let g := w % 1024
    let spare := spareIsB s
    (dueCommand s 0x200 false = some r →
        (bits w 10 2 = 2 → exec .granuleAssign s =
          .next (({ s with granules := put s.granules g { kind := .pinned, part := p, pch := v } } : State).applied r []))
        ∧ (∀ h k, bits w 10 2 = 1 → r.half = some h → freeRank s h = some k →
          ∃ t, exec .granuleAssign s = .next (t.applied r [(0, BitVec.ofNat 32 (b2n h + 2 * k))])
            ∧ find t.granules g = some { kind := .interleaved, part := p, half := h, rank := k } ∧ (partOf t p).half = some h
            ∧ t.dram = s.dram ∧ t.rings = s.rings))
    ∧ (dueCommand s 0x201 false = some r → ∃ t : State, exec .granuleRelease s = .next (t.applied r []) ∧ t.granules = drop s.granules g
        ∧ (partOf t p).wings = x.wings)
    ∧ (∀ y, dueCommand s 0x202 false = some r → find s.granules g = some y →
        ∃ t : State, exec .granuleShare s = .next (t.applied r []) ∧ find t.granules g = some { y with shared := w.testBit 16 })
    ∧ (dueCommand s 0x203 true = some r → exec .nbMode s =
        .next ((setPch s g { pchOf s g with modeWrite := some (w.testBit 16) }).applied r []))
    ∧ (dueCommand s 0x300 false = some r → ∃ (t : State) (y : Ring), exec .ringCreate s = .next (t.applied r []) ∧ find t.rings (bits w 0 18) = some y
        ∧ y.type_ = BitVec.ofNat 2 (bits w 18 2) ∧ y.log2 = bits w 20 4 ∧ y.base = BitVec.ofNat 64 (argPair s r.block 2) ∧ y.part = p
        ∧ y.cq = bits v 0 18 ∧ y.vector = BitVec.ofNat 11 (bits v 18 11) ∧ y.head = 0 ∧ y.tail = 0 ∧ t = { s with rings := t.rings })
    ∧ (dueCommand s 0x301 false = some r → ∃ t : State, exec .ringDelete s = .next (t.applied r []) ∧ t.rings = drop s.rings (bits w 0 18)
        ∧ t = { s with rings := t.rings, ports := t.ports })
    ∧ (∀ i h, dueCommand s 0x400 false = some r → r.image = some i →
        (List.range 16).find? (fun h => (find x.bound h).isNone) = some h →
        ∃ t : State, exec .timetableBind s = .next (t.applied r [(0, BitVec.ofNat 32 h)]) ∧ find (partOf t p).bound h = some (placeImage s i)
          ∧ (x.runState = .unbound → (partOf t p).runState = .bound) ∧ (x.runState ≠ .unbound → (partOf t p).runState = x.runState)
          ∧ t = { s with parts := t.parts })
    ∧ (dueCommand s 0x401 false = some r → ∃ t : State, exec .timetableUnbind s = .next (t.applied r [])
        ∧ (partOf t p).bound = drop x.bound (w % 16) ∧ t = { s with parts := t.parts })
    ∧ (dueCommand s 0x500 false = some r →
        (recordArg s r.block ∈ s.flash.retire → exec .retire s = .next (s.applied r []))
        ∧ (recordArg s r.block ∉ s.flash.retire →
          ∃ t, exec .retire s = .next t ∧ recordArg s r.block ∈ t.flash.retire ∧ (∀ x ∈ s.flash.retire, x ∈ t.flash.retire)
            ∧ t.dram = s.dram ∧ t.shelf = s.shelf))
    ∧ (∀ k, dueCommand s 0x600 true = some r → resetKind (w % 16) = some k → inDomainReset s (domCode k) (bits w 8 8) = false →
        ∃ t, exec .domainReset s = .next t ∧ t.resetBegan s k (bits w 8 8) 8)
    ∧ (∀ k, dueCommand s 0x600 true = some r → resetKind (w % 16) = some k → inDomainReset s (domCode k) (bits w 8 8) = true →
        ∃ t, exec .domainReset s = .next t ∧ t.resets = s.resets)
    ∧ (dueCommand s 0x700 false = some r →
        ∃ t, exec .fwChunk s = .next t ∧ slotOf t (!spare) = slotOf s (!spare)
          ∧ slotOf t spare = fwWrites (if w % 2 ^ 24 = 0 then {} else slotOf s spare) (w % 2 ^ 24)
              ((List.range 48).flatMap fun i => leBytes (arg s r.block (4 + i)) 4))
    ∧ (dueCommand s 0x701 false = some r →
        ∃ t, exec .fwUpdate s = .next t ∧ t.flash.preferredB = spare ∧ (slotOf t spare).len = some (arg s r.block 2)
          ∧ slotOf t (!spare) = slotOf s (!spare) ∧ t.fuses = s.fuses)
    ∧ (dueCommand s 0x702 false = some r →
        let m := max s.fuses.securityMin (runningImage s).1
        let f : Fuses := { s.fuses with securityMin := m, keyRevoked := revokeBelow s.fuses.keyRevoked (runningImage s).2 }
        exec .fwSecurityRaise s = .next (({ s with fuses := f } : State).applied r [(0, BitVec.ofNat 32 m)]))

/-! ### Register space -/

/-- A read of the low half of a 64-bit register takes a snapshot whose high half the next read of the high half gives; a write of
the low half changes no register until the high half's; a write of any other word acts on the bits that its byte enables select;
an access outside every block changes no register; a write lands within its beat where the order of its sources lets it. It rests on R9,
R10, R13 and R462, and says only what its clauses say of them. The readings of log entries 26, 27, 28, 29, 30, 147, 173, 183 and 202 are
the model's, not the spec's. -/
def Obligations.RegisterAccesses : Prop :=
  ∀ (s : State) (who : Requester) (offset : BitVec 26) (be : BitVec 4) (value : BitVec 32), regAccess s who = true →
    let o := offset.toNat
    let x := reach s who o
    let z := reachRead s who o
    let landed := landWrite s who o
    (s.boot.deaccessioned = false → z = x)
    ∧ (∀ v, pairValue s z = some v →
        (∃ t, exec (.registerLowHalfRead who offset) s = .next (emit t (.reg who (BitVec.ofNat 32 v))) ∧ t = { s with halves := t.halves }
          ∧ find (halvesOf t who).latched o = some (BitVec.ofNat 32 (v / 2 ^ 32))))
    ∧ (∀ v, pairValue s x = some v → mayLand s who o = true →
        (o % 4 = 0 → ∃ t, exec (.registerLowHalfWrite who offset value) s = .next t ∧ t = { landed with halves := t.halves }
          ∧ find (halvesOf t who).heldLow o = some value))
    ∧ (o % 4 = 0 → mayLand s who o = true → isHighHalf s who o = true → x.1 = .errLog → x.2 = 0x2C →
        ∀ low, find (halvesOf s who).heldLow (o - 4) = some low →
        ∃ t, exec (.registerHighHalfWrite who offset value) s = .next t
          ∧ t.errLog = { s.errLog with rawLoc := BitVec.ofNat 64 (value.toNat * 2 ^ 32 + low.toNat) }
          ∧ (halvesOf t who).heldLow = drop (halvesOf s who).heldLow (o - 4))
    ∧ (o % 4 = 0 → mayLand s who o = true → pairValue s x = none → (4 ≤ x.2 → pairValue s (x.1, x.2 - 4) = none) →
        exec (.registerWrite who offset be value) s = .next (writeReg landed x (enabledBits be) value))
    ∧ (o % 4 = 0 → x.1 = .none → mayLand s who o = true → exec (.registerWrite who offset be value) s = .next landed)
    ∧ (o % 4 = 0 → z.1 = .none → exec (.registerLowHalfRead who offset) s = .next (emit s (.reg who 0)))
    ∧ landed = { s with boot := { s.boot with landed := landed.boot.landed } }
    ∧ (∀ k, landRank who = some k → find s.boot.landed (landKey who o) = none → mayLand s who o = true)
    ∧ (∀ i, i < 32 → (enabledBits be).getLsbD i = be.getLsbD (i / 8)
        ∧ ∀ old : BitVec 32, (rwField old 0 (enabledBits be) value).getLsbD i = (if be.getLsbD (i / 8) then value.getLsbD i else old.getLsbD i)
          ∧ ∀ fresh : BitVec 32, (w1c old 0 (enabledBits be &&& value) fresh).getLsbD i =
              (old.getLsbD i && !(be.getLsbD (i / 8) && value.getLsbD i && !fresh.getLsbD i)))

/-- The registers whose writes have their own commands: a partition's lanes and ways change only before its commitment and without
overlap, its other settings at any time, each change moving the epoch; the input limit is clamped; and the log's head and a
collector's source are selected and cleared. In the deaccessioned state these writes change nothing. It rests on R12, R34, R38, R56, R65,
R218, R351, R381, R422, R423, R450 and R452, and says only
what its clauses say of them. The readings of log entries 32, 33 and 71 are the model's, not the spec's. -/
def Obligations.SettingRegisters : Prop :=
  ∀ (s : State) (part stack : Fin 8) (who : Requester) (offset : BitVec 26) (value : BitVec 32), s.sup.inReset = false →
    let p := part.val
    let x := partOf s p
    let c := colOf s stack.val
    let moved := fun (b : Bool) (t : State) => if b then moveEpoch t else t
    (s.boot.deaccessioned = false → (locked s p = true → exec (.seqLanesWrite part value) s = .next s ∧ exec (.vcWaysWrite part value) s = .next s)
    ∧ (locked s p = false →
        (clashes s p 0 (value.setWidth 8) 0 0 0 = false → exec (.seqLanesWrite part value) s =
          .next (moved (value.setWidth 8 ≠ x.lanes) (setPart s p { x with lanes := value.setWidth 8 })))
        ∧ (clashes s p 0 (value.setWidth 8) 0 0 0 = true → exec (.seqLanesWrite part value) s = .next s)
        ∧ (clashes s p 0 0 (value.setWidth 16) 0 0 = false → exec (.vcWaysWrite part value) s =
          .next (moved (value.setWidth 16 ≠ x.ways) (setPart s p { x with ways := value.setWidth 16 })))
        ∧ (clashes s p 0 0 (value.setWidth 16) 0 0 = true → exec (.vcWaysWrite part value) s = .next s))
      ∧ exec (.seqSvcWrite part value) s = .next (moved (value.setWidth 2 ≠ x.svc)
        (setPart s p { x with svc := value.setWidth 2, svcFrom := now s + 1
                              svcPast := if x.svcFrom ≤ now s then (x.svcFrom, x.svc) :: x.svcPast else x.svcPast }))
      ∧ (∃ t, exec (.seqSvcWrite part value) s = .next t ∧ svcNow t p = svcNow s p ∧ svcAt t p (now s + 1) = value.setWidth 2)
      ∧ exec (.pwrInputLimitWrite value) s = .next { s with power := { s.power with
        inputLimit := max 2000 (min 8000 (value.toNat % 65536)), limitAt := some (now s), limitWas := limitAtStart s.power (now s) } })
    ∧ (s.boot.deaccessioned = true → exec (.seqLanesWrite part value) s = .next s ∧ exec (.vcWaysWrite part value) s = .next s
        ∧ exec (.seqSvcWrite part value) s = .next s ∧ exec (.pwrInputLimitWrite value) s = .next s)
    ∧ (∀ q : Fin 8, ∀ y, regAccess s who = true → mayLand s who offset.toNat = true → reach s who offset.toNat = (.seq q.val, y) → offset.toNat % 4 = 0 →
        let z := partOf s q.val
        (y = 0x008 → exec (.epochRegisterWrite who offset value) s =
          .next (moved (value.setWidth 2 ≠ z.capHost) (setPart (landWrite s who offset.toNat) q.val { latchInputs z (now s) with capHost := value.setWidth 2 })))
        ∧ (y = 0x014 → exec (.epochRegisterWrite who offset value) s =
          .next (moved (value ≠ z.waitEvt) (setPart (landWrite s who offset.toNat) q.val { z with waitEvt := value }))))
    ∧ ((value - s.errLog.head).toNat ≤ (s.errLog.tail - s.errLog.head).toNat →
        exec (.errLogHeadWrite value) s = .next { s with errLog := { s.errLog with head := value } })
    ∧ ((s.errLog.tail - s.errLog.head).toNat < (value - s.errLog.head).toNat → exec (.errLogHeadWrite value) s = .next s)
    ∧ exec (.errSrcSelWrite stack value) s = .next (setCol s stack.val
        { c with sel := value.setWidth 16, view := look c.sources (value.toNat % 65536) {} })
    ∧ (value.getLsbD 0 = true → exec (.errSrcClr stack value) s = .next (setCol s stack.val
        { c with sources := drop c.sources c.sel.toNat, view := {} }))

/-! ### Raw access, scrubbing and the error log -/

/-- A write of ERR_RAW_CTL that sets GO starts a raw operation where none is in progress; at its end a read gives the codeword's
data and check bits as stored, a write stores them, and one that R415 refuses does neither; one on a vault word goes into the fabric in
class 8; none acts while the module is tripped or deaccessioned. A scrubber has a cycle where its
clock's count, its bank, its slice or its pseudo-channel's window allows one. A visit passes sound codewords; it reports a
single-bit error, and its next cycle writes the corrected codeword back, with new check bits; it reports an uncorrectable one,
which its owner takes as a job fault, and its next cycle stores poison; a codeword that was written in between is left alone; a
lap that takes too long sets the collector's bit. It rests on R33, R414 to R418, R452 and R453, and says only what its clauses say of
them. The readings of log entries 16, 34, 35, 36, 37, 38, 39, 163 and 201 are the model's, not the spec's. -/
def Obligations.RawAccessAndScrubbing : Prop :=
  (∀ (s : State) (value : BitVec 32), s.sup.inReset = false →
    let l := s.errLog
    let target := bits value.toNat 2 2
    (value.getLsbD 0 = true → coldHeld s = false → l.rawOp = none → target ≠ 3 →
        let op : RawOp := ⟨value.getLsbD 1, target, now s + rawBeats target, l.rawLoc, l.rawData, l.rawCheck⟩
        let started := fun t : State => t.errLog.rawOp = some op
          ∧ t = { s with errLog := t.errLog, net := t.net, nextReq := t.nextReq } ∧ (target ≠ 2 ∨ rawRefused s op = true → t.net = s.net)
          ∧ (target = 2 → rawRefused s op = false → ∃ q, find t.net s.nextReq = some q ∧ q.origin = .curator ∧ q.cls = 8
            ∧ q.lane = none ∧ q.stage = .route (5 * now s))
        (value.getLsbD 1 = false → ∃ t, exec (.rawRead value) s = .next t ∧ started t)
        ∧ (value.getLsbD 1 = true → ∃ t, exec (.rawWrite value) s = .next t ∧ started t))
    ∧ (value.getLsbD 0 = false → s.boot.deaccessioned = false → ∃ t, exec (.rawModeEnable value) s = .next t ∧ t.errLog.rawEnable = value.getLsbD 4
        ∧ t.errLog.rawOp = l.rawOp ∧ t = { s with errLog := t.errLog })
    ∧ (coldHeld s = true → ∀ o, l.rawOp = some o → o.end_ = now s → l.rawHeld = [] →
        ∃ t, exec .rawOperationDone s = .next t ∧ t = { s with errLog := t.errLog } ∧ t.errLog.rawOp = none ∧ t.errLog.rawData = l.rawData)
    ∧ (∀ o c, coldHeld s = false → l.rawOp = some o → o.end_ = now s → rawRef o = some c → l.rawHeld = [] →
        (rawRefused s o = true → ∃ t, exec .rawOperationDone s = .next t ∧ t.errLog.rawRefused = true ∧ t.errLog.rawDone = true
          ∧ t.errLog.rawOp = none ∧ t = { s with errLog := t.errLog })
        ∧ (rawRefused s o = false → o.write = false →
          ∃ t, exec .rawOperationDone s = .next t ∧ t.errLog.rawDone = true ∧ t.errLog.rawOp = none ∧ t = { s with errLog := t.errLog }
            ∧ t.errLog.rawCheck = BitVec.ofNat 32 (codeGet s c).2
            ∧ ∀ i, i < rawWords o.target → look t.errLog.rawData i 0 = BitVec.ofNat 32 (bits (codeGet s c).1 (32 * i) 32))
        ∧ (rawRefused s o = false → o.write = true →
          ∃ t, exec .rawOperationDone s = .next t ∧ t.errLog.rawDone = true ∧ t.errLog.rawOp = none
            ∧ t.shelf = (codePut s c (rawValue o).1 (rawValue o).2).shelf ∧ t.dram = (codePut s c (rawValue o).1 (rawValue o).2).dram
            ∧ t.slices = (codePut s c (rawValue o).1 (rawValue o).2).slices ∧ t.clm = s.clm)))
  ∧ (∀ (s : State) (x : Scrubber) (j : Fin 8) (g : Nat), scrubOn s (scrubUnit x) = true → scrubTime s x j.val = some g →
    let y := scrubOf s x
    (y.fix = none → y.pos + 1 < lapLength (scrubPlace x).2 →
      ((∀ r ∈ codesAt s x y.pos, scrubbed s r = true →
          (∃ d, codeCheck r (codeGet s r).1 (codeGet s r).2 = .clean d) ∨ codeCheck r (codeGet s r).1 (codeGet s r).2 = .marker
            ∨ codeCheck r (codeGet s r).1 (codeGet s r).2 = .poison) →
        ∃ t, exec (.scrubRead ⟨x, j⟩) s = .next t ∧ t = { s with collectors := t.collectors }
          ∧ scrubOf t x = { y with pos := y.pos + 1, usedAt := some g })
      ∧ (∀ k r, (codesAt s x y.pos)[k]? = some r → scrubbed s r = true →
        let f := codeCheck r (codeGet s r).1 (codeGet s r).2
        (∃ d z raw, f = .corrected d z raw) ∨ (∃ z raw, f = .bad z raw) →
        ∃ t l q, exec (.scrubRead ⟨x, j⟩) s = .next t ∧ (scrubOf t x).pos = y.pos + 1 ∧ (scrubOf t x).fix = some (y.pos, l)
          ∧ (k, (codeGet s r).1, (codeGet s r).2) ∈ l
          ∧ q ∈ (colOf t (scrubPlace x).1).queue ∧ q.rep.scrub = true ∧ q.rep.cls = BitVec.ofNat 4 f.cls.1
          ∧ t.shelf = s.shelf ∧ t.dram = s.dram
          ∧ (∀ z raw p, f = .bad z raw → codeOwner s r = some p → owned (partOf s p) = true → scrubFault r f ∈ (partOf t p).faults)))
    ∧ (∀ n l, y.fix = some (n, l) →
      let t := l.foldl (fun s c => scrubMend s x n c) s
      exec (.scrubWriteBack ⟨x, j⟩) s = .next (setScrub t x { scrubOf t x with fix := none, usedAt := some g })))
  ∧ (∀ (s : State) (x : Scrubber) (n k d e : Nat) (r : CodeRef), (codesAt s x n)[k]? = some r → scrubbed s r = true →
    (codeGet s r ≠ (d, e) → scrubMend s x n (k, d, e) = s)
    ∧ (codeGet s r = (d, e) →
      (∀ v z raw, codeCheck r d e = .corrected v z raw → scrubMend s x n (k, d, e) = codePut s r v (codeEncode r v))
      ∧ (∀ z raw, codeCheck r d e = .bad z raw → scrubMend s x n (k, d, e) = codePut s r (codePoison r).1 (codePoison r).2)))
  ∧ (∀ (s : State) (j g : Nat),
    (∀ b, scrubTime s (.bank b) j = some g →
      gclk s (b.val / 14000) j % 4096 = 0 ∧ bankIdle s (b.val / 14) (b.val % 14) (wtime s (b.val / 14000) j) = true)
    ∧ (∀ i, scrubTime s (.slice i) j = some g → g = pclk s j ∧ g % 64 = 0 ∧ sliceIdle s i.val g = true)
    ∧ (∀ P, scrubTime s (.pch P) j = some g → g = pclk s j ∧ (openWindow s P.val g).isSome = true
        ∧ (∀ w, g / 4096 * 4096 ≤ w → w < g → windowWasFree s P.val w = false)
        ∧ (∀ u, (scrubOf s (.pch P)).usedAt = some u → u < g / 4096 * 4096)))
  ∧ (∀ (s : State) (u : ScrubUnit) (b : Nat), s.sup.inReset = false → (lapNow s u).began = some b → now s = b + 86400 * 250000000 →
    ∃ t, exec (.scrubLapLate u) s = .next t ∧ (colOf t (lapOf u).1).scrubLate = true ∧ t = { s with collectors := t.collectors })

/-- A report matches an open entry of its key, or opens one at the log's next index, or is lost with its overflow set; an entry
closes 250,000 beats after its first report, and is written to the log 2,500 beats later. It rests on R420, R421, R423 and R424,
and says only what its clauses say of them. The readings of log entries 141 and 181 are the model's, not the spec's. -/
def Obligations.ErrorCollection : Prop :=
  ∀ (s : State) (stack : Fin 8) (h : Heard) (e : ColEntry), s.sup.inReset = false →
    let r := h.rep
    let k := stack.val
    let c := colOf s k
    let u := setCol s k { c with queue := c.queue.erase h }
    (exec (.collectorReport stack (some r)) s = .next (softFault (report s k r) k r))
    ∧ (nextReport c.queue = some h → lowerTaken s k = true →
        (exec (.collectorReport stack none) s = .next (collect u k h))
        ∧ (matching s c r = some e → ∃ t, exec (.collectorReport stack none) s = .next t ∧ (colOf t k).queue = c.queue.erase h
          ∧ (colOf t k).entries = c.entries.map (fun x => if x.index = e.index then { x with count := x.count + 1, last := now s } else x)
          ∧ t.errLog = s.errLog)
        ∧ (matching s c r = none → c.entries.length < 64 → logFree s = true →
            ∃ t e', exec (.collectorReport stack none) s = .next t ∧ (colOf t k).entries = c.entries ++ [e'] ∧ e'.rep = r
              ∧ e'.count = 1 ∧ e'.first = now s ∧ e'.index = s.errLog.tail.toNat
              ∧ e'.part = h.part ∧ e'.job = (h.part.map fun p => (partOf s p).job).getD 0 ∧ t.errLog.tail = s.errLog.tail + 1)
        ∧ (matching s c r = none → 64 ≤ c.entries.length →
            ∃ t, exec (.collectorReport stack none) s = .next t ∧ (colOf t k).overflow = true ∧ (colOf t k).entries = c.entries
              ∧ t.boot.alertLog = true)
        ∧ (matching s c r = none → c.entries.length < 64 → logFree s = false →
            ∃ t, exec (.collectorReport stack none) s = .next t ∧ t.errLog.overflow = true ∧ (colOf t k).entries = c.entries
              ∧ t.boot.alertLog = true))
    ∧ (c.entries = [e] → e.closed = false → e.first + 250000 = now s →
        exec (.collectorEntryClose stack) s = .next (setCol s k { c with entries := [{ e with closed := true }] }))
    ∧ (c.entries = [e] → e.closed = true → e.first + 252500 = now s → entryRecord s k e.rep = none →
        ∃ t, exec (.logEntryWrite stack) s = .next t ∧ (colOf t k).entries = []
          ∧ look t.errLog.ring (e.index % 4096) 0 = logBlock k e.rep e.count e.first e.last e.index e.part e.job
          ∧ t.errLog.written = satAdd s.errLog.written 1)

/-! ### Power and heat -/

/-- A current report sets the registers and the guard; allowed powers and limits take effect at their beats; a model run sets every
region's reading and temperatures; a reading at a trip limit trips the module; a self-check marks its sensors; a cycle count
reaches the flash; a command with a list of another length than the spec's quantities, or with a region that does not exist, is refused as
ill-formed. It rests on R374, R381, R386, R390, R393, R394, R399, R403, R406 and R445, and says only what its clauses say
of them. The readings of log entries 6, 17, 68, 69, 70, 71, 140, 174 and 175 are the model's, not the spec's: that a command whose list
has not the length of its quantities, or that names a region of 528 or more, is ill-formed and refused is entry 6's. -/
def Obligations.PowerAndThermalCommands : Prop :=
  ∀ (s : State) (coolant : BitVec 12) (v a : BitVec 16) (rails : List (BitVec 16)) (sensors : List (BitVec 12)) (broken : Bool)
    (failed : List Nat) (stack : Fin 8), s.sup.inReset = false →
    (rails.length = 210 → 252500 ≤ now s → now s % 250000 = 2500 → s.power.reportAt ≠ some (now s) →
        ∃ t, exec (.currentReport v a rails) s = .next t ∧ t.power.volts = v ∧ t.power.amps = a ∧ t.power.curSeq = s.power.curSeq + 1
          ∧ t.power.reports = s.power.reports + 1 ∧ (∀ i x, rails[i]? = some x → look t.power.currents i 0 = x)
          ∧ (96000000 < v.toNat * a.toNat → t.power.guard = true ∧ (s.power.guard = false → t.power.guardHit = true))
          ∧ t = { s with power := t.power })
    ∧ (rails.length ≠ 210 → exec (.currentReport v a rails) s = .refused .illFormed)
    ∧ (now s % 250000 = 0 → exec .allowedPowerEffect s = .next { s with power := { s.power with
        allow := s.power.allowNext, limitOn := limitAtStart s.power (now s), guardOn := s.power.guard } })
    ∧ (sensors.length = 528 → s.power.forModel = true → inDomainReset s 4 0 = false → now s % 250000 = 12500 →
        ∃ t, exec (.modelRun sensors coolant broken) s = .next t ∧ t.thermal.runs = s.thermal.runs + 1 ∧ t.thermal.coolant = coolant
          ∧ (∀ r x, sensors[r]? = some x → (regionOf t r).sensor = x)
          ∧ (∀ rail, rail < 208 → look t.power.allowNext rail (ratedMw rail) = allowedFor rail (marginOf t rail))
          ∧ (∀ r, r < 528 → tripAt r ≤ (regionOf t r).eff → t.boot.tripped = true)
          ∧ t.shelf = s.shelf ∧ t.clm = s.clm ∧ t.dram = s.dram)
    ∧ (sensors.length ≠ 528 → exec (.modelRun sensors coolant broken) s = .refused .illFormed
        ∧ exec (.alwaysOnTripCheck sensors) s = .refused .illFormed)
    ∧ (failed.any (528 ≤ ·) = false → s.thermal.lastSelfCheck.map (· + 15000000000) = some (now s)
          ∨ (s.thermal.lastSelfCheck = none ∧ s.boot.valid = false) →
        ∃ t, exec (.sensorSelfCheck failed) s = .next t ∧ (∀ r, (regionOf t r).selfFail = (decide (r ∈ failed) || (regionOf s r).selfFail))
          ∧ t.thermal.lastSelfCheck = some (now s) ∧ t = { s with thermal := t.thermal })
    ∧ (failed.any (528 ≤ ·) = true → exec (.sensorSelfCheck failed) s = .refused .illFormed)
    ∧ (∀ b, (look s.thermal.cycles stack.val {}).unwritten = some b → now s < b + 250000000 →
        ∃ t, exec (.cycleCountFlashWrite stack) s = .next t
          ∧ look t.flash.cycles stack.val 0 = (look s.thermal.cycles stack.val {}).count
          ∧ (look t.thermal.cycles stack.val {}).unwritten = none ∧ t = { s with flash := t.flash, thermal := t.thermal })
    ∧ (∀ r, sensors.length = 528 → inDomainReset s 4 0 = true → now s % 250000 = 0 → s.boot.tripped = false →
        (List.range 528).find? (fun r => !(regionOf s r).broken && tripAt r ≤ toSigned 12 ((sensors[r]?).getD 0).toNat) = some r →
        ∃ t, exec (.alwaysOnTripCheck sensors) s = .next t ∧ t.boot.tripped = true ∧ t.boot.tripRegion = BitVec.ofNat 10 r
          ∧ t.boot.tripOffAt = some (now s + 2500) ∧ t.flash = s.flash)

/-! ### The sideband and JTAG -/

/-- The dynamic address of the I3C target: it is assigned by ENTDAA or SETDASA where none is held, changed by SETNEWDA and dropped
by RSTDAA; ENEC and DISEC set and clear event bits; Hot-Join goes out where no address is held; the target answers GETPID,
GETBCR and GETDCR. A private write sets the pointer or writes its whole words upward from its offset, a misaligned one nothing;
a private read reads words from the pointer, which moves on by 4 for each. While the always-on rail is up, TRST and IDCODE select the
identification register, which reads 0x29160FFF; EXTEST, CLAMP and HIGHZ act on the pins only while module reset is asserted,
and select BYPASS otherwise. Private transfers are answered at the dynamic address, and at the static one while none is assigned.
THERM_TRIP_N is low while the powered module has tripped, and ALERT_N while the module runs with an alert. It rests on R460, R461, R463,
R464, R466 and R467, and says only what its clauses say of them. The readings of log entries 18, 21, 22, 23, 145, 219 and 220 are the
model's, not the spec's. -/
def Obligations.SidebandAndJtag : Prop :=
  (∀ (s : State) (addr : BitVec 7) (events : BitVec 8), s.sup.inReset = false →
    let x := s.sideband
    let own : BitVec 7 := 0x2C + s.boot.addrSel.setWidth 7
    let given := { s with sideband := { x with dynAddr := some addr, hotJoin := false } }
    (x.dynAddr = none →
        exec (.entdaa addr) s = .next given ∧ exec (.setdasa own addr) s = .next given ∧ exec (.setnewda addr) s = .next s
        ∧ (x.events.getLsbD 3 = true → exec .hotJoin s = .next (emit { s with sideband := { x with hotJoin := true } } .hotJoin))
        ∧ (∀ other, other ≠ own → exec (.setdasa other addr) s = .next s)
        ∧ exec .getpid s = .next s)
    ∧ (x.dynAddr.isSome = true →
        exec (.entdaa addr) s = .next s ∧ exec (.setdasa own addr) s = .next s
        ∧ exec (.setnewda addr) s = .next { s with sideband := { x with dynAddr := some addr } }
        ∧ exec .getpid s = .next (emit s (.ccc (BitVec.ofNat 64
            (2 ^ 32 + 0x9160 * 2 ^ 16 + 2 ^ 14 * s.boot.addrSel.toNat + Config.serial.toNat))))
        ∧ exec .getbcr s = .next (emit s (.ccc 0x06)) ∧ exec .getdcr s = .next (emit s (.ccc 0x00))
        ∧ (∃ t v, exec .getstatus s = .next (emit t (.ccc v)) ∧ t = { s with free := s.free + 1 })
        ∧ (∃ t v, exec .getmxds s = .next (emit t (.ccc v)) ∧ t = { s with free := s.free + 1 }))
    ∧ exec .rstdaa s = .next { s with sideband := { x with dynAddr := none } }
    ∧ exec (.enec events) s = .next { s with sideband := { x with events := x.events ||| events } }
    ∧ exec (.disec events) s = .next { s with sideband := { x with events := x.events &&& ~~~ events } })
  ∧ (∀ (s : State) (offset : BitVec 32) (bytes : List (BitVec 8)) (a b c d : BitVec 8), s.sup.inReset = false →
    (offset.toNat % 4 ≠ 0 → exec (.sidebandWrite offset bytes) s = .next s ∧ exec (.sidebandSetPointer offset) s = .next s)
    ∧ (offset.toNat % 4 = 0 →
        exec (.sidebandSetPointer offset) s = .next { s with sideband := { s.sideband with pointer := offset } }
        ∧ exec (.sidebandWrite offset [a, b, c, d]) s =
            .next (regWrite s .sideband offset.toNat (BitVec.allOnes 32) (BitVec.ofNat 32 (leNat [a, b, c, d])))
        ∧ (bytes.length < 4 → exec (.sidebandWrite offset bytes) s = .next s))
    ∧ exec (.sidebandRead 0) s = .next (emit s (.sideband (answerAddress s) []))
    ∧ (∀ n, ∃ t l, exec (.sidebandRead n) s = .next (emit t (.sideband (answerAddress s) l)) ∧ l.length = n
        ∧ t.sideband.pointer = s.sideband.pointer + BitVec.ofNat 32 (4 * n) ∧ t = { s with sideband := t.sideband, halves := t.halves })
    ∧ (∃ t, exec (.sidebandRead 1) s =
        .next (emit t (.sideband (answerAddress s) [BitVec.ofNat 32 (regRead s .sideband s.sideband.pointer.toNat).1])))
    ∧ (∀ y, s.sideband.dynAddr = some y → answerAddress s = y)
    ∧ (s.sideband.dynAddr = none → answerAddress s = 0x2C + s.boot.addrSel.setWidth 7))
  ∧ (∀ s : State,
    (powered s = true →
        exec .jtagTrst s = .next { s with jtag := .idcode, sup := { s.sup with tapReset := true } }
        ∧ exec .idcode s = .next (emit (setTap s .idcode) (.jtag 0x29160FFF))
        ∧ exec .jtagBypass s = .next (setTap s .bypass)
        ∧ (s.sup.inReset = true →
          (∃ t x, exec .extest s = .next (emit (setTap t .extest) (.pins .extest x))
            ∧ t = { s with sup := { s.sup with scan := x }, free := s.free + 1 })
          ∧ exec .clamp s = .next (emit (setTap s .clamp) (.pins .clamp s.sup.scan))
          ∧ exec .highz s = .next (emit (setTap s .highz) (.pins .highz s.sup.scan)))
        ∧ (s.sup.inReset = false → exec .extest s = .next (setTap s .bypass)
          ∧ exec .clamp s = .next (setTap s .bypass) ∧ exec .highz s = .next (setTap s .bypass)))
    ∧ (powered s = false → exec .extest s = .next s ∧ exec .idcode s = .next s)
    ∧ (∀ i, setTap s i = { s with jtag := i, sup := { s.sup with tapReset := false } })
    ∧ (pinState s .thermTrip = .low ↔ powered s = true ∧ s.boot.tripped = true)
    ∧ (pinState s .alert = .low ↔ live s = true ∧ s.boot.alertLow = true))

/-! ### The codes -/

/-- The SEC-DED code of every word size in use corrects each single-bit error in the data and reports each in the check bits; a word
written to a store with that code reads back, and every other word of any coded store reads as before. It rests on R8 and R407
to R409, and says only what its clauses say of them. The readings of log entry 13 are the model's, not the spec's. -/
def Obligations.CodesAndCodedStores : Prop :=
  (∀ (d i m r : Nat), (m, r) ∈ [(8, 5), (32, 7), (128, 9)] → d < 2 ^ m →
    hammingRead m r d (hammingCheck m r d) = .clean d
    ∧ (i < m → ∃ raw, hammingRead m r (d ^^^ 2 ^ i) (hammingCheck m r d) = .corrected d 0 raw)
    ∧ (i < r → ∃ raw, hammingRead m r d (hammingCheck m r d ^^^ 2 ^ i) = .corrected d 1 raw))
  ∧ (∀ (m : List Host.Cell) (k k' d : Nat) (c : Codec), c ∈ [shelfCodec, clmCodec, sramCodec, vaultCodec] → storeOk c m = true →
    (c ∈ [shelfCodec, clmCodec, sramCodec] → d < 2 ^ (8 * c.n) → wordRead (wordWrite m c k d) c k = .clean d)
    ∧ (k' ≠ k → wordRead (wordWrite m c k d) c k' = wordRead m c k'))
end

