-- ==== Sys2Proof/Laws/Frames.lean ====
section
/-! SUPPORT. What the shared operations leave as it was: the clock, the supervisor, the flash and fuses, the coded stores, the granules,
the slot plan and the conservators' SRAMs, but where an operation's own lemma leaves one of them out. -/

set_option linter.unusedVariables false

set_option linter.unusedSimpArgs false

set_option linter.unusedTactic false

set_option linter.unreachableTactic false

namespace Sys2Proof.Machine

/-- The clock, the supervisor, the flash and fuses, the coded stores, the granules, the slot plan and the conservators' SRAMs are as
before. -/
abbrev calm (t s : State) : Prop :=
  t.beat = s.beat ∧ t.sup = s.sup ∧ t.flash = s.flash ∧ t.fuses = s.fuses ∧ t.shelf = s.shelf ∧ t.clm = s.clm ∧ t.dram = s.dram
    ∧ t.granules = s.granules ∧ t.plan = s.plan ∧ sramsOf t.csvs = sramsOf s.csvs

/-- The same but for the conservators' SRAMs. -/
abbrev calmC (t s : State) : Prop :=
  t.beat = s.beat ∧ t.sup = s.sup ∧ t.flash = s.flash ∧ t.fuses = s.fuses ∧ t.shelf = s.shelf ∧ t.clm = s.clm ∧ t.dram = s.dram
    ∧ t.granules = s.granules ∧ t.plan = s.plan

theorem foldl_field {α β : Type} (φ : State → β) (g : State → α → State) (h : ∀ s x, φ (g s x) = φ s) (l : List α) (s : State) :
    φ (l.foldl g s) = φ s := by
  induction l generalizing s with
  | nil => rfl
  | cons a l ih => rw [List.foldl_cons, ih, h]

theorem foldl_fst {α β γ : Type} (φ : State → β) (g : State × γ → α → State × γ) (h : ∀ s x, φ (g s x).1 = φ s.1) (l : List α)
    (s : State × γ) : φ (l.foldl g s).1 = φ s.1 := by
  induction l generalizing s with
  | nil => rfl
  | cons a l ih => rw [List.foldl_cons, ih, h]

theorem foldl_srams {α : Type} (g : State → α → State) (h : ∀ s x, sramsOf (g s x).csvs = sramsOf s.csvs) (l : List α) (s : State) :
    sramsOf (l.foldl g s).csvs = sramsOf s.csvs := foldl_field (fun s : State => sramsOf s.csvs) g h l s

theorem foldl_srams_fst {α γ : Type} (g : State × γ → α → State × γ) (h : ∀ s x, sramsOf (g s x).1.csvs = sramsOf s.1.csvs)
    (l : List α) (s : State × γ) : sramsOf (l.foldl g s).1.csvs = sramsOf s.1.csvs :=
  foldl_fst (fun s : State => sramsOf s.csvs) g h l s

theorem foldl_turn {α β : Type} (φ : State → β) (g : Turn → α → Turn) (h : ∀ s x, φ (g s x).s = φ s.s) (l : List α)
    (s : Turn) : φ (l.foldl g s).s = φ s.s := by
  induction l generalizing s with
  | nil => rfl
  | cons a l ih => rw [List.foldl_cons, ih, h]

/-- Composition, and folds of calm steps. -/
theorem calm_trans {t u s : State} (a : calm t u) (b : calm u s) : calm t s := by
  obtain ⟨a1, a2, a3, a4, a5, a6, a7, a8, a9, a10⟩ := a
  obtain ⟨b1, b2, b3, b4, b5, b6, b7, b8, b9, b10⟩ := b
  exact ⟨a1.trans b1, a2.trans b2, a3.trans b3, a4.trans b4, a5.trans b5, a6.trans b6, a7.trans b7, a8.trans b8, a9.trans b9,
    a10.trans b10⟩

theorem calmC_of {t s : State} (h : calm t s) : calmC t s := by
  obtain ⟨a1, a2, a3, a4, a5, a6, a7, a8, a9, _⟩ := h
  exact ⟨a1, a2, a3, a4, a5, a6, a7, a8, a9⟩

theorem calmC_trans {t u s : State} (a : calmC t u) (b : calmC u s) : calmC t s := by
  obtain ⟨a1, a2, a3, a4, a5, a6, a7, a8, a9⟩ := a
  obtain ⟨b1, b2, b3, b4, b5, b6, b7, b8, b9⟩ := b
  exact ⟨a1.trans b1, a2.trans b2, a3.trans b3, a4.trans b4, a5.trans b5, a6.trans b6, a7.trans b7, a8.trans b8, a9.trans b9⟩

theorem calmC_refl (s : State) : calmC s s := calmC_of ⟨rfl, rfl, rfl, rfl, rfl, rfl, rfl, rfl, rfl, rfl⟩

theorem foldl_calmC {α : Type} {g : State → α → State} (h : ∀ s x, calmC (g s x) s) (l : List α) (s : State) :
    calmC (l.foldl g s) s := by
  induction l generalizing s with
  | nil => exact calmC_refl s
  | cons a l ih => exact calmC_trans (ih _) (h s a)

theorem calm_refl (s : State) : calm s s := ⟨rfl, rfl, rfl, rfl, rfl, rfl, rfl, rfl, rfl, rfl⟩

theorem foldl_calm {α : Type} {g : State → α → State} (h : ∀ s x, calm (g s x) s) (l : List α) (s : State) :
    calm (l.foldl g s) s := by
  induction l generalizing s with
  | nil => exact calm_refl s
  | cons a l ih => exact calm_trans (ih _) (h s a)

theorem foldl_calm_fst {α γ : Type} {g : State × γ → α → State × γ} (h : ∀ s x, calm (g s x).1 s.1) (l : List α) (s : State × γ) :
    calm (l.foldl g s).1 s.1 := by
  induction l generalizing s with
  | nil => exact calm_refl _
  | cons a l ih => exact calm_trans (ih _) (h s a)

theorem calm_fst {α : Type} {p : State × α} {t s : State} {x : α} (e : p = (t, x)) (h : calm p.1 s) : calm t s := by
  subst e; exact h

/-- The same but for the vaults' stores. -/
abbrev calmV (t s : State) : Prop :=
  t.beat = s.beat ∧ t.sup = s.sup ∧ t.flash = s.flash ∧ t.fuses = s.fuses ∧ t.shelf = s.shelf ∧ t.clm = s.clm
    ∧ t.granules = s.granules ∧ t.plan = s.plan ∧ sramsOf t.csvs = sramsOf s.csvs

theorem calmV_of {t s : State} (h : calm t s) : calmV t s := by
  obtain ⟨a, b, c, d, e, f, _, g, i, j⟩ := h
  exact ⟨a, b, c, d, e, f, g, i, j⟩

theorem calmV_refl (s : State) : calmV s s := ⟨rfl, rfl, rfl, rfl, rfl, rfl, rfl, rfl, rfl⟩

theorem calmV_trans {t u s : State} (a : calmV t u) (b : calmV u s) : calmV t s := by
  obtain ⟨a1, a2, a3, a4, a5, a6, a7, a8, a9⟩ := a
  obtain ⟨b1, b2, b3, b4, b5, b6, b7, b8, b9⟩ := b
  exact ⟨a1.trans b1, a2.trans b2, a3.trans b3, a4.trans b4, a5.trans b5, a6.trans b6, a7.trans b7, a8.trans b8, a9.trans b9⟩

theorem foldl_calmV {α : Type} {g : State → α → State} (h : ∀ s x, calmV (g s x) s) (l : List α) (s : State) :
    calmV (l.foldl g s) s := by
  induction l generalizing s with
  | nil => exact calmV_refl s
  | cons a l ih => exact calmV_trans (ih _) (h s a)

@[simp] theorem foldl_keeps {α : Type} (g : State → α → State) (l : List α) (s : State) :
    ((∀ s x, (g s x).beat = s.beat) → (l.foldl g s).beat = s.beat) ∧ ((∀ s x, (g s x).sup = s.sup) → (l.foldl g s).sup = s.sup) ∧ ((∀ s x, (g s x).flash = s.flash) → (l.foldl g s).flash = s.flash) ∧ ((∀ s x, (g s x).fuses = s.fuses) → (l.foldl g s).fuses = s.fuses) ∧ ((∀ s x, (g s x).shelf = s.shelf) → (l.foldl g s).shelf = s.shelf) ∧ ((∀ s x, (g s x).clm = s.clm) → (l.foldl g s).clm = s.clm) ∧ ((∀ s x, (g s x).dram = s.dram) → (l.foldl g s).dram = s.dram) ∧ ((∀ s x, (g s x).granules = s.granules) → (l.foldl g s).granules = s.granules) ∧ ((∀ s x, (g s x).plan = s.plan) → (l.foldl g s).plan = s.plan) ∧ ((∀ s x, sramsOf (g s x).csvs = sramsOf s.csvs) → sramsOf (l.foldl g s).csvs = sramsOf s.csvs) :=
  ⟨fun h => foldl_field State.beat g h l s, fun h => foldl_field State.sup g h l s, fun h => foldl_field State.flash g h l s, fun h => foldl_field State.fuses g h l s, fun h => foldl_field State.shelf g h l s, fun h => foldl_field State.clm g h l s, fun h => foldl_field State.dram g h l s, fun h => foldl_field State.granules g h l s, fun h => foldl_field State.plan g h l s, fun h => foldl_field (fun s : State => sramsOf s.csvs) g h l s⟩

@[simp] theorem foldl_keeps_fst {α γ : Type} (g : State × γ → α → State × γ) (l : List α) (s : State × γ) :
    ((∀ s x, (g s x).1.beat = s.1.beat) → (l.foldl g s).1.beat = s.1.beat) ∧ ((∀ s x, (g s x).1.sup = s.1.sup) → (l.foldl g s).1.sup = s.1.sup) ∧ ((∀ s x, (g s x).1.flash = s.1.flash) → (l.foldl g s).1.flash = s.1.flash) ∧ ((∀ s x, (g s x).1.fuses = s.1.fuses) → (l.foldl g s).1.fuses = s.1.fuses) ∧ ((∀ s x, (g s x).1.shelf = s.1.shelf) → (l.foldl g s).1.shelf = s.1.shelf) ∧ ((∀ s x, (g s x).1.clm = s.1.clm) → (l.foldl g s).1.clm = s.1.clm) ∧ ((∀ s x, (g s x).1.dram = s.1.dram) → (l.foldl g s).1.dram = s.1.dram) ∧ ((∀ s x, (g s x).1.granules = s.1.granules) → (l.foldl g s).1.granules = s.1.granules) ∧ ((∀ s x, (g s x).1.plan = s.1.plan) → (l.foldl g s).1.plan = s.1.plan) ∧ ((∀ s x, sramsOf (g s x).1.csvs = sramsOf s.1.csvs) → sramsOf (l.foldl g s).1.csvs = sramsOf s.1.csvs) :=
  ⟨fun h => foldl_fst State.beat g h l s, fun h => foldl_fst State.sup g h l s, fun h => foldl_fst State.flash g h l s, fun h => foldl_fst State.fuses g h l s, fun h => foldl_fst State.shelf g h l s, fun h => foldl_fst State.clm g h l s, fun h => foldl_fst State.dram g h l s, fun h => foldl_fst State.granules g h l s, fun h => foldl_fst State.plan g h l s, fun h => foldl_fst (fun s : State => sramsOf s.csvs) g h l s⟩

@[simp] theorem ite_keeps (c : Prop) [Decidable c] (a b : State) :
    ((if c then a else b).beat = if c then a.beat else b.beat) ∧ ((if c then a else b).sup = if c then a.sup else b.sup) ∧ ((if c then a else b).flash = if c then a.flash else b.flash) ∧ ((if c then a else b).fuses = if c then a.fuses else b.fuses) ∧ ((if c then a else b).shelf = if c then a.shelf else b.shelf) ∧ ((if c then a else b).clm = if c then a.clm else b.clm) ∧ ((if c then a else b).dram = if c then a.dram else b.dram) ∧ ((if c then a else b).granules = if c then a.granules else b.granules) ∧ ((if c then a else b).plan = if c then a.plan else b.plan) ∧ (sramsOf (if c then a else b).csvs = if c then sramsOf a.csvs else sramsOf b.csvs) := by
  split <;> simp

@[simp] theorem setWing_calm (s : State) (w : Nat) (x : Wing) : calm (setWing s w x) s := by
  dsimp only [setWing]
  refine ⟨?_, ?_, ?_, ?_, ?_, ?_, ?_, ?_, ?_, ?_⟩ <;> rfl

@[simp] theorem setPart_calm (s : State) (p : Nat) (x : Part) : calm (setPart s p x) s := by
  dsimp only [setPart]
  refine ⟨?_, ?_, ?_, ?_, ?_, ?_, ?_, ?_, ?_, ?_⟩ <;> rfl

@[simp] theorem mapPart_calm (s : State) (p : Nat) (f : Part → Part) : calm (mapPart s p f) s := by
  dsimp only [mapPart]
  refine ⟨?_, ?_, ?_, ?_, ?_, ?_, ?_, ?_, ?_, ?_⟩ <;> rfl

@[simp] theorem setCore_calm (s : State) (c : Nat) (x : Core) : calm (setCore s c x) s := by
  dsimp only [setCore]
  refine ⟨?_, ?_, ?_, ?_, ?_, ?_, ?_, ?_, ?_, ?_⟩ <;> rfl

@[simp] theorem setCab_calm (s : State) (c : Nat) (x : Cabinet) : calm (setCab s c x) s := by
  dsimp only [setCab]
  refine ⟨?_, ?_, ?_, ?_, ?_, ?_, ?_, ?_, ?_, ?_⟩ <;> rfl

@[simp] theorem mapCab_calm (s : State) (c : Nat) (f : Cabinet → Cabinet) : calm (mapCab s c f) s := by
  dsimp only [mapCab]
  refine ⟨?_, ?_, ?_, ?_, ?_, ?_, ?_, ?_, ?_, ?_⟩ <;> rfl

@[simp] theorem setChannel_calm (s : State) (site : Nat) (x : Channel) : calm (setChannel s site x) s := by
  dsimp only [setChannel]
  refine ⟨?_, ?_, ?_, ?_, ?_, ?_, ?_, ?_, ?_, ?_⟩ <;> rfl

@[simp] theorem setSlice_calm (s : State) (i : Nat) (x : Slice) : calm (setSlice s i x) s := by
  dsimp only [setSlice]
  refine ⟨?_, ?_, ?_, ?_, ?_, ?_, ?_, ?_, ?_, ?_⟩ <;> rfl

@[simp] theorem mapSlice_calm (s : State) (i : Nat) (f : Slice → Slice) : calm (mapSlice s i f) s := by
  dsimp only [mapSlice]
  refine ⟨?_, ?_, ?_, ?_, ?_, ?_, ?_, ?_, ?_, ?_⟩ <;> rfl

@[simp] theorem setPch_calm (s : State) (i : Nat) (x : Pch) : calm (setPch s i x) s := by
  dsimp only [setPch]
  refine ⟨?_, ?_, ?_, ?_, ?_, ?_, ?_, ?_, ?_, ?_⟩ <;> rfl

@[simp] theorem setVault_calm (s : State) (i : Nat) (x : Vault) : calm (setVault s i x) s := by
  dsimp only [setVault]
  refine ⟨?_, ?_, ?_, ?_, ?_, ?_, ?_, ?_, ?_, ?_⟩ <;> rfl

@[simp] theorem setCsv_calm (s : State) (i : Nat) (x : Csv) : calmC (setCsv s i x) s := by
  dsimp only [setCsv]
  refine ⟨?_, ?_, ?_, ?_, ?_, ?_, ?_, ?_, ?_⟩ <;> rfl

@[simp] theorem find_put_same {α : Type} (m : SMap α) (k : Nat) (v : α) : find (put m k v) k = some v := by
  induction m with
  | nil => simp [put, find]
  | cons a m ih =>
    obtain ⟨b, w⟩ := a
    simp only [put]
    split
    · simp [find]
    · split
      · simp [find]
      · rename_i h1 h2; simp [find, h1, h2, ih]

theorem find_put_ne {α : Type} (m : SMap α) (k j : Nat) (v : α) (h : j ≠ k) : find (put m k v) j = find m j := by
  induction m with
  | nil => simp only [put, find]; split <;> simp_all
  | cons a m ih =>
    obtain ⟨b, w⟩ := a
    simp only [put]
    split
    · subst_vars; simp [find, h]
    · split
      · simp only [find]
        repeat' split
        all_goals first | rfl | omega
      · simp only [find, ih]

@[simp] theorem look_put_same {α : Type} (m : SMap α) (k : Nat) (v d : α) : look (put m k v) k d = v := by
  simp [look]

theorem look_put_ne {α : Type} (m : SMap α) (k j : Nat) (v d : α) (h : j ≠ k) : look (put m k v) j d = look m j d := by
  simp [look, find_put_ne m k j v h]

/-- A map over the conservators that changes neither their keys nor their SRAMs. -/
theorem sramsOf_map (f : Nat × Csv → Nat × Csv) (h1 : ∀ c, (f c).1 = c.1) (h2 : ∀ c, (f c).2.isram = c.2.isram)
    (h3 : ∀ c, (f c).2.dsram = c.2.dsram) (m : SMap Csv) : sramsOf (m.map f) = sramsOf m := by
  funext P
  induction m with
  | nil => rfl
  | cons a m ih =>
    obtain ⟨e1, e2⟩ := Prod.mk.inj ih
    have k1 := h1 a
    have k2 := h2 a
    have k3 := h3 a
    simp only [sramsOf, look, List.map_cons, find, k1] at *
    split
    · simp [k2, k3]
    · split
      · rfl
      · simp_all

theorem csvOf_isram (s : State) (P : Nat) : (csvOf s P).isram = (sramsOf s.csvs P).1 := rfl
theorem csvOf_dsram (s : State) (P : Nat) : (csvOf s P).dsram = (sramsOf s.csvs P).2 := rfl

/-- A conservator's state put with its SRAMs unchanged. -/
theorem setCsv_srams (s : State) (P : Nat) (x : Csv) (h : sramsOf s.csvs P = (x.isram, x.dsram)) :
    sramsOf (setCsv s P x).csvs = sramsOf s.csvs := by
  funext Q
  by_cases e : Q = P
  · subst e; rw [h]; simp [sramsOf, setCsv]
  · simp [sramsOf, setCsv, look_put_ne _ _ _ _ _ e]

@[simp] theorem setEng_calm (s : State) (i : Nat) (x : Engine) : calm (setEng s i x) s := by
  dsimp only [setEng]
  refine ⟨?_, ?_, ?_, ?_, ?_, ?_, ?_, ?_, ?_, ?_⟩ <;> rfl

@[simp] theorem setPort_calm (s : State) (i : Nat) (x : Port) : calm (setPort s i x) s := by
  dsimp only [setPort]
  refine ⟨?_, ?_, ?_, ?_, ?_, ?_, ?_, ?_, ?_, ?_⟩ <;> rfl

@[simp] theorem mapPort_calm (s : State) (i : Nat) (f : Port → Port) : calm (mapPort s i f) s := by
  dsimp only [mapPort]
  refine ⟨?_, ?_, ?_, ?_, ?_, ?_, ?_, ?_, ?_, ?_⟩ <;> rfl

@[simp] theorem setChan_calm (s : State) (i : Nat) (x : Chan) : calm (setChan s i x) s := by
  dsimp only [setChan]
  refine ⟨?_, ?_, ?_, ?_, ?_, ?_, ?_, ?_, ?_, ?_⟩ <;> rfl

@[simp] theorem setCol_calm (s : State) (i : Nat) (x : Collector) : calm (setCol s i x) s := by
  dsimp only [setCol]
  refine ⟨?_, ?_, ?_, ?_, ?_, ?_, ?_, ?_, ?_, ?_⟩ <;> rfl

@[simp] theorem emit_calm (s : State) (o : Output) : calm (emit s o) s := by
  dsimp only [emit]
  refine ⟨?_, ?_, ?_, ?_, ?_, ?_, ?_, ?_, ?_, ?_⟩ <;> rfl

@[simp] theorem raiseIbi_calm (s : State) (b : BitVec 8) : calm (raiseIbi s b) s := by
  dsimp only [raiseIbi]
  refine ⟨?_, ?_, ?_, ?_, ?_, ?_, ?_, ?_, ?_, ?_⟩ <;> (first | rfl | (simp; done))

@[simp] theorem report_calm (s : State) (stack : Nat) (r : Report) : calm (report s stack r) s := by
  dsimp only [report]
  refine ⟨?_, ?_, ?_, ?_, ?_, ?_, ?_, ?_, ?_, ?_⟩ <;> rfl

@[simp] theorem reportOwned_calm (s : State) (stack : Nat) (r : Report) (p : Option Nat) : calm (reportOwned s stack r p) s := by
  dsimp only [reportOwned]
  refine ⟨?_, ?_, ?_, ?_, ?_, ?_, ?_, ?_, ?_, ?_⟩ <;> rfl

@[simp] theorem reportFinding_calm (s : State) (stack kind unit mem : Nat) (f : Checked) (loc : Nat) : calm (reportFinding s stack kind unit mem f loc) s := by
  dsimp only [reportFinding]
  refine ⟨?_, ?_, ?_, ?_, ?_, ?_, ?_, ?_, ?_, ?_⟩ <;> (first | rfl | (simp; done))

@[simp] theorem raiseFault_calm (s : State) (p : Nat) (f : FaultRec) : calm (raiseFault s p f) s := by
  dsimp only [raiseFault]
  refine ⟨?_, ?_, ?_, ?_, ?_, ?_, ?_, ?_, ?_, ?_⟩ <;> (first | rfl | (simp; done))

@[simp] theorem raiseFaultO_calm (s : State) (p : Option Nat) (f : FaultRec) : calm (raiseFaultO s p f) s := by
  dsimp only [raiseFaultO]
  refine ⟨?_, ?_, ?_, ?_, ?_, ?_, ?_, ?_, ?_, ?_⟩ <;> (first | rfl | (simp; done) | ((repeat' split) <;> (first | rfl | (simp_all; done))))

@[simp] theorem faultFinding_calm (s : State) (p : Option Nat) (stack kind unit mem : Nat) (f : Checked) (loc : Nat) : calm (faultFinding s p stack kind unit mem f loc) s := by
  dsimp only [faultFinding]
  refine ⟨?_, ?_, ?_, ?_, ?_, ?_, ?_, ?_, ?_, ?_⟩ <;> (first | rfl | (simp; done))

@[simp] theorem recordKernelFault_calm (s : State) (cab core tour code pc lanes g : Nat) : calm (recordKernelFault s cab core tour code pc lanes g) s := by
  dsimp only [recordKernelFault]
  refine ⟨?_, ?_, ?_, ?_, ?_, ?_, ?_, ?_, ?_, ?_⟩ <;> rfl

@[simp] theorem kernelFault_calm (s : State) (cab core tour code pc lanes g : Nat) (why : Option (Nat × Nat × Nat × Nat)) : calm (kernelFault s cab core tour code pc lanes g why) s := by
  dsimp only [kernelFault]
  refine ⟨?_, ?_, ?_, ?_, ?_, ?_, ?_, ?_, ?_, ?_⟩ <;> (first | rfl | (simp; done))

@[simp] theorem sendVector_calm (s : State) (port vec : Nat) : calm (sendVector s port vec) s := by
  dsimp only [sendVector]
  refine ⟨?_, ?_, ?_, ?_, ?_, ?_, ?_, ?_, ?_, ?_⟩ <;> (first | rfl | (simp; done))

@[simp] theorem writeRingEntry_calm (s : State) (id : Nat) (r : Ring) (e : BitVec 512) : calm (writeRingEntry s id r e) s := by
  dsimp only [writeRingEntry]
  refine ⟨?_, ?_, ?_, ?_, ?_, ?_, ?_, ?_, ?_, ?_⟩ <;> (first | rfl | (simp; done))

@[simp] theorem presentEntry_calm (s : State) (id : Nat) (r : Ring) (e : BitVec 512) (pc : Nat) : calm (presentEntry s id r e pc) s := by
  dsimp only [presentEntry]
  refine ⟨?_, ?_, ?_, ?_, ?_, ?_, ?_, ?_, ?_, ?_⟩ <;> (first | rfl | (simp; done) | ((repeat' split) <;> (first | rfl | (simp_all; done))))

@[simp] theorem postEntryAt_calm (s : State) (id : Nat) (e : BitVec 512) (pc : Nat) : calm (postEntryAt s id e pc) s := by
  dsimp only [postEntryAt]
  refine ⟨?_, ?_, ?_, ?_, ?_, ?_, ?_, ?_, ?_, ?_⟩ <;> (first | rfl | (simp; done) | ((repeat' split) <;> (first | rfl | (simp_all; done))))

@[simp] theorem postEntry_calm (s : State) (id : Nat) (e : BitVec 512) : calm (postEntry s id e) s := by
  exact postEntryAt_calm _ _ _ _

@[simp] theorem queueRing_calm (s : State) (id b : Nat) : calm (queueRing s id b) s := by
  dsimp only [queueRing]
  refine ⟨?_, ?_, ?_, ?_, ?_, ?_, ?_, ?_, ?_, ?_⟩ <;> (first | rfl | (simp; done) | ((repeat' split) <;> (first | rfl | (simp_all; done))))

@[simp] theorem postEvent_calm (s : State) (part code : Nat) (payload : List Nat) : calm (postEvent s part code payload) s := by
  exact foldl_calm (fun s r => postEntry_calm _ _ _) _ _

@[simp] theorem sendPending_calm (s : State) (port : Nat) : calm (sendPending s port) s := by
  dsimp only [sendPending]
  refine ⟨?_, ?_, ?_, ?_, ?_, ?_, ?_, ?_, ?_, ?_⟩ <;> (first | rfl | (simp; done) | ((repeat' split) <;> (first | rfl | (simp_all; done))))

@[simp] theorem portsNotice_calm (s : State) (bit : Nat) : calm (portsNotice s bit) s := by
  exact foldl_calm (fun s r => calm_trans (sendVector_calm _ _ _) (mapPort_calm _ _ _)) _ _

@[simp] theorem postEventAll_calm (s : State) (code bit : Nat) (payload : List Nat) : calm (postEventAll s code bit payload) s := by
  refine calm_trans (portsNotice_calm _ _) (foldl_calm (fun s p => ?_) _ _)
  split
  · exact postEvent_calm _ _ _ _
  · exact calm_refl _

@[simp] theorem moveEpoch_calm (s : State) : calm (moveEpoch s) s := by
  dsimp only [moveEpoch]
  refine ⟨?_, ?_, ?_, ?_, ?_, ?_, ?_, ?_, ?_, ?_⟩ <;> rfl

@[simp] theorem setDom_calm (s : State) (k : SwKind) (i : Nat) (d : Dom) : calm (setDom s k i d) s := by
  dsimp only [setDom]
  refine ⟨?_, ?_, ?_, ?_, ?_, ?_, ?_, ?_, ?_, ?_⟩ <;> (first | rfl | (simp; done) | ((repeat' split) <;> (first | rfl | (simp_all; done))))

@[simp] theorem demandNotice_calm (s : State) (k : SwKind) (i : Nat) : calm (demandNotice s k i) s := by
  dsimp only [demandNotice]
  refine ⟨?_, ?_, ?_, ?_, ?_, ?_, ?_, ?_, ?_, ?_⟩ <;> (first | rfl | (simp; done) | ((repeat' split) <;> (first | rfl | (simp_all; done))))

@[simp] theorem demandWake_calm (s : State) (k : SwKind) (i : Nat) : calm (demandWake s k i) s := by
  dsimp only [demandWake]
  refine ⟨?_, ?_, ?_, ?_, ?_, ?_, ?_, ?_, ?_, ?_⟩ <;> (first | rfl | (simp; done) | ((repeat' split) <;> (first | rfl | (simp_all; done))))

@[simp] theorem freeWord_calm (s : State) : calm (freeWord s).2 s := by
  dsimp only [freeWord]
  refine ⟨?_, ?_, ?_, ?_, ?_, ?_, ?_, ?_, ?_, ?_⟩ <;> rfl

@[simp] theorem freeBlock_calm (s : State) : calm (freeBlock s).2 s := by
  dsimp only [freeBlock]
  refine ⟨?_, ?_, ?_, ?_, ?_, ?_, ?_, ?_, ?_, ?_⟩ <;> rfl

@[simp] theorem charge_calm (s : State) (pi rail pj : Nat) : calm (charge s pi rail pj) s := by
  dsimp only [charge]
  refine ⟨?_, ?_, ?_, ?_, ?_, ?_, ?_, ?_, ?_, ?_⟩ <;> (first | rfl | (simp; done))

@[simp] theorem reportBad_calm (s : State) (i : Issue) : calm (reportBad s i) s := by
  dsimp only [reportBad]
  refine ⟨?_, ?_, ?_, ?_, ?_, ?_, ?_, ?_, ?_, ?_⟩ <;> (first | rfl | (simp; done) | ((repeat' split) <;> (first | rfl | (simp_all; done))))

@[simp] theorem issueFault_calm (s : State) (i : Issue) (code : Nat) : calm (issueFault s i code) s := by
  dsimp only [issueFault]
  refine ⟨?_, ?_, ?_, ?_, ?_, ?_, ?_, ?_, ?_, ?_⟩ <;> (first | rfl | (simp; done))

@[simp] theorem settle_calm (s : State) (i : Issue) (c : Core) (t : Tour) : calm (settle s i c t) s := by
  dsimp only [settle]
  refine ⟨?_, ?_, ?_, ?_, ?_, ?_, ?_, ?_, ?_, ?_⟩ <;> (first | rfl | (simp; done))

@[simp] theorem finish_calm (s : State) (i : Issue) (c : Core) : calm (finish s i c) s := by
  dsimp only [finish]
  refine ⟨?_, ?_, ?_, ?_, ?_, ?_, ?_, ?_, ?_, ?_⟩ <;> (first | rfl | (simp; done))

@[simp] theorem finishV_calm (s : State) (i : Issue) (r : Nat) (f : Nat → Word) : calm (finishV s i r f) s := by
  dsimp only [finishV]
  refine ⟨?_, ?_, ?_, ?_, ?_, ?_, ?_, ?_, ?_, ?_⟩ <;> (first | rfl | (simp; done))

@[simp] theorem finishU_calm (s : State) (i : Issue) (r : Nat) (v : Word) : calm (finishU s i r v) s := by
  dsimp only [finishU]
  refine ⟨?_, ?_, ?_, ?_, ?_, ?_, ?_, ?_, ?_, ?_⟩ <;> (first | rfl | (simp; done))

@[simp] theorem finishP_calm (s : State) (i : Issue) (f : Nat → Bool) : calm (finishP s i f) s := by
  dsimp only [finishP]
  refine ⟨?_, ?_, ?_, ?_, ?_, ?_, ?_, ?_, ?_, ?_⟩ <;> (first | rfl | (simp; done))

@[simp] theorem regOp_calm (r : Nat) (f : Word → Word → Word) (s : State) (i : Issue) : calm (regOp r f s i) s := by
  dsimp only [regOp]
  refine ⟨?_, ?_, ?_, ?_, ?_, ?_, ?_, ?_, ?_, ?_⟩ <;> (first | rfl | (simp; done))

@[simp] theorem immOp_calm (f : Word → Word → Word) (s : State) (i : Issue) : calm (immOp f s i) s := by
  dsimp only [immOp]
  refine ⟨?_, ?_, ?_, ?_, ?_, ?_, ?_, ?_, ?_, ?_⟩ <;> (first | rfl | (simp; done))

@[simp] theorem unaryOp_calm (f : Word → Word) (s : State) (i : Issue) : calm (unaryOp f s i) s := by
  dsimp only [unaryOp]
  refine ⟨?_, ?_, ?_, ?_, ?_, ?_, ?_, ?_, ?_, ?_⟩ <;> (first | rfl | (simp; done))

@[simp] theorem sfuOp_calm (f : Word → Word) (s : State) (i : Issue) : calm (sfuOp f s i) s := by
  dsimp only [sfuOp]
  refine ⟨?_, ?_, ?_, ?_, ?_, ?_, ?_, ?_, ?_, ?_⟩ <;> (first | rfl | (simp; done))

@[simp] theorem fmaOp_calm (ub uc : Bool) (s : State) (i : Issue) : calm (fmaOp ub uc s i) s := by
  dsimp only [fmaOp]
  refine ⟨?_, ?_, ?_, ?_, ?_, ?_, ?_, ?_, ?_, ?_⟩ <;> (first | rfl | (simp; done))

@[simp] theorem uniOp_calm (r : Nat) (f : Word → Word → Word) (s : State) (i : Issue) : calm (uniOp r f s i) s := by
  dsimp only [uniOp]
  refine ⟨?_, ?_, ?_, ?_, ?_, ?_, ?_, ?_, ?_, ?_⟩ <;> (first | rfl | (simp; done))

@[simp] theorem setpOp_calm (f : Nat → Word → Word → Option Bool) (s : State) (i : Issue) : calm (setpOp f s i) s := by
  dsimp only [setpOp]
  refine ⟨?_, ?_, ?_, ?_, ?_, ?_, ?_, ?_, ?_, ?_⟩ <;> (first | rfl | (simp; done))

@[simp] theorem branchTo_calm (target : Nat → Int) (s : State) (i : Issue) : calm (branchTo target s i) s := by
  dsimp only [branchTo]
  refine ⟨?_, ?_, ?_, ?_, ?_, ?_, ?_, ?_, ?_, ?_⟩ <;> (first | rfl | (simp; done))

@[simp] theorem shelfPut_calm (s : State) (core w d : Nat) : (shelfPut s core w d).beat = s.beat ∧ (shelfPut s core w d).sup = s.sup ∧ (shelfPut s core w d).flash = s.flash ∧ (shelfPut s core w d).fuses = s.fuses ∧ (shelfPut s core w d).clm = s.clm ∧ (shelfPut s core w d).dram = s.dram ∧ (shelfPut s core w d).granules = s.granules ∧ (shelfPut s core w d).plan = s.plan ∧ sramsOf (shelfPut s core w d).csvs = sramsOf s.csvs := by
  dsimp only [shelfPut]
  refine ⟨?_, ?_, ?_, ?_, ?_, ?_, ?_, ?_, ?_⟩ <;> rfl

@[simp] theorem shelfReport_calm (s : State) (core w : Nat) (f : Checked) : calm (shelfReport s core w f) s := by
  dsimp only [shelfReport]
  refine ⟨?_, ?_, ?_, ?_, ?_, ?_, ?_, ?_, ?_, ?_⟩ <;> (first | rfl | (simp; done))

@[simp] theorem addReq_calm (s : State) (r : Req) : calm (addReq s r) s := by
  dsimp only [addReq]
  refine ⟨?_, ?_, ?_, ?_, ?_, ?_, ?_, ?_, ?_, ?_⟩ <;> rfl

@[simp] theorem setReq_calm (s : State) (n : Nat) (r : Req) : calm (setReq s n r) s := by
  dsimp only [setReq]
  refine ⟨?_, ?_, ?_, ?_, ?_, ?_, ?_, ?_, ?_, ?_⟩ <;> rfl

@[simp] theorem countSlot_calm (s : State) (r : Req) (kind idx c pc : Nat) : calm (countSlot s r kind idx c pc) s := by
  dsimp only [countSlot]
  refine ⟨?_, ?_, ?_, ?_, ?_, ?_, ?_, ?_, ?_, ?_⟩ <;> (first | rfl | (simp; done))

@[simp] theorem useSlot_calm (s : State) (kind idx pc : Nat) : calm (useSlot s kind idx pc) s := by
  dsimp only [useSlot]
  refine ⟨?_, ?_, ?_, ?_, ?_, ?_, ?_, ?_, ?_, ?_⟩ <;> rfl

@[simp] theorem answer_calm (s : State) (n : Nat) (r : Req) (c : Nat) : calm (answer s n r c) s := by
  dsimp only [answer]
  refine ⟨?_, ?_, ?_, ?_, ?_, ?_, ?_, ?_, ?_, ?_⟩ <;> rfl

@[simp] theorem checked_calm (s : State) (i : Issue) (faults : Nat → List Nat) (extra : List Nat) (t : State) :
    (t.beat = s.beat → (checked s i faults extra t).beat = s.beat) ∧ (t.sup = s.sup → (checked s i faults extra t).sup = s.sup) ∧ (t.flash = s.flash → (checked s i faults extra t).flash = s.flash) ∧ (t.fuses = s.fuses → (checked s i faults extra t).fuses = s.fuses) ∧ (t.shelf = s.shelf → (checked s i faults extra t).shelf = s.shelf) ∧ (t.clm = s.clm → (checked s i faults extra t).clm = s.clm) ∧ (t.dram = s.dram → (checked s i faults extra t).dram = s.dram) ∧ (t.granules = s.granules → (checked s i faults extra t).granules = s.granules) ∧ (t.plan = s.plan → (checked s i faults extra t).plan = s.plan) ∧ (sramsOf t.csvs = sramsOf s.csvs → sramsOf (checked s i faults extra t).csvs = sramsOf s.csvs) := by
  unfold checked
  refine ⟨?_, ?_, ?_, ?_, ?_, ?_, ?_, ?_, ?_, ?_⟩ <;> intro h <;> split <;> first | exact h | simp

@[simp] theorem clmReport_calm (s : State) (core : Nat) (addrs : List Nat) : calm (clmReport s core addrs) s := by
  dsimp only [clmReport]
  refine ⟨?_, ?_, ?_, ?_, ?_, ?_, ?_, ?_, ?_, ?_⟩ <;> (first | rfl | (simp; done))

@[simp] theorem clmPut_calm (s : State) (core a : Nat) (bs : List Byte) : (clmPut s core a bs).beat = s.beat ∧ (clmPut s core a bs).sup = s.sup ∧ (clmPut s core a bs).flash = s.flash ∧ (clmPut s core a bs).fuses = s.fuses ∧ (clmPut s core a bs).shelf = s.shelf ∧ (clmPut s core a bs).dram = s.dram ∧ (clmPut s core a bs).granules = s.granules ∧ (clmPut s core a bs).plan = s.plan ∧ sramsOf (clmPut s core a bs).csvs = sramsOf s.csvs := by
  induction bs generalizing s a with
  | nil => simp [clmPut]
  | cons b bs ih => simp [clmPut, ih]

@[simp] theorem loadClm_calm (s : State) (i : Issue) : calm (loadClm s i) s := by
  dsimp only [loadClm]
  refine ⟨?_, ?_, ?_, ?_, ?_, ?_, ?_, ?_, ?_, ?_⟩ <;> (first | rfl | (simp; done))

@[simp] theorem storeClm_calm (s : State) (i : Issue) : (storeClm s i).beat = s.beat ∧ (storeClm s i).sup = s.sup ∧ (storeClm s i).flash = s.flash ∧ (storeClm s i).fuses = s.fuses ∧ (storeClm s i).shelf = s.shelf ∧ (storeClm s i).dram = s.dram ∧ (storeClm s i).granules = s.granules ∧ (storeClm s i).plan = s.plan ∧ sramsOf (storeClm s i).csvs = sramsOf s.csvs := by
  dsimp only [storeClm]
  refine ⟨?_, ?_, ?_, ?_, ?_, ?_, ?_, ?_, ?_⟩ <;> (first | rfl | (simp; done))

@[simp] theorem clmAtomic_calm (core fn size : Nat) (acc : State × List (Nat × DWord)) (g : Nat × List (Nat × DWord × DWord)) : (clmAtomic core fn size acc g).1.beat = acc.1.beat ∧ (clmAtomic core fn size acc g).1.sup = acc.1.sup ∧ (clmAtomic core fn size acc g).1.flash = acc.1.flash ∧ (clmAtomic core fn size acc g).1.fuses = acc.1.fuses ∧ (clmAtomic core fn size acc g).1.shelf = acc.1.shelf ∧ (clmAtomic core fn size acc g).1.dram = acc.1.dram ∧ (clmAtomic core fn size acc g).1.granules = acc.1.granules ∧ (clmAtomic core fn size acc g).1.plan = acc.1.plan ∧ sramsOf ((clmAtomic core fn size acc g).1).csvs = sramsOf (acc.1).csvs := by
  dsimp only [clmAtomic]
  refine ⟨?_, ?_, ?_, ?_, ?_, ?_, ?_, ?_, ?_⟩ <;> (first | rfl | (simp; done) | ((repeat' split) <;> (first | rfl | (simp_all; done))))

@[simp] theorem atomicClm_calm (s : State) (i : Issue) : (atomicClm s i).beat = s.beat ∧ (atomicClm s i).sup = s.sup ∧ (atomicClm s i).flash = s.flash ∧ (atomicClm s i).fuses = s.fuses ∧ (atomicClm s i).shelf = s.shelf ∧ (atomicClm s i).dram = s.dram ∧ (atomicClm s i).granules = s.granules ∧ (atomicClm s i).plan = s.plan ∧ sramsOf (atomicClm s i).csvs = sramsOf s.csvs := by
  dsimp only [atomicClm]
  refine ⟨?_, ?_, ?_, ?_, ?_, ?_, ?_, ?_, ?_⟩ <;> (first | rfl | (simp; done))

@[simp] theorem meetGroups_calm (s : State) (core : Nat) (ws : List Nat) : calm (meetGroups s core ws) s := by
  dsimp only [meetGroups]
  refine ⟨?_, ?_, ?_, ?_, ?_, ?_, ?_, ?_, ?_, ?_⟩ <;> (first | rfl | (simp; done))

@[simp] theorem loadShelf_calm (s : State) (i : Issue) : calm (loadShelf s i) s := by
  dsimp only [loadShelf]
  refine ⟨?_, ?_, ?_, ?_, ?_, ?_, ?_, ?_, ?_, ?_⟩ <;> (first | rfl | (simp; done))

@[simp] theorem presentWrites_calm (s : State) (core : Nat) (c0 : Core) : calm (presentWrites s core c0) s := by
  exact foldl_calm (fun s q => meetGroups_calm _ _ _) _ _

@[simp] theorem storeShelf_calm (s : State) (i : Issue) : calm (storeShelf s i) s := by
  dsimp only [storeShelf]
  refine ⟨?_, ?_, ?_, ?_, ?_, ?_, ?_, ?_, ?_, ?_⟩ <;> (first | rfl | (simp; done))

@[simp] theorem atomicShelf_calm (s : State) (i : Issue) : calm (atomicShelf s i) s := by
  dsimp only [atomicShelf]
  refine ⟨?_, ?_, ?_, ?_, ?_, ?_, ?_, ?_, ?_, ?_⟩ <;> (first | rfl | (simp; done))

@[simp] theorem sendGlobal_calm (s : State) (i : Issue) (load : Option Nat) (kind : ReqKind) (block mask d : Nat) : calm (sendGlobal s i load kind block mask d) s := by
  dsimp only [sendGlobal]
  refine ⟨?_, ?_, ?_, ?_, ?_, ?_, ?_, ?_, ?_, ?_⟩ <;> rfl

@[simp] theorem loadGlobal_calm (s : State) (i : Issue) : calm (loadGlobal s i) s := by
  dsimp only [loadGlobal]
  refine ⟨?_, ?_, ?_, ?_, ?_, ?_, ?_, ?_, ?_, ?_⟩ <;> (first | rfl | (simp; done))

@[simp] theorem storeGlobal_calm (s : State) (i : Issue) : calm (storeGlobal s i) s := by
  dsimp only [storeGlobal]
  refine ⟨?_, ?_, ?_, ?_, ?_, ?_, ?_, ?_, ?_, ?_⟩ <;> (first | rfl | (simp; done))

@[simp] theorem atomicGlobal_calm (s : State) (i : Issue) : calm (atomicGlobal s i) s := by
  dsimp only [atomicGlobal]
  refine ⟨?_, ?_, ?_, ?_, ?_, ?_, ?_, ?_, ?_, ?_⟩ <;> (first | rfl | (simp; done))

@[simp] theorem reduceGlobal_calm (s : State) (i : Issue) : calm (reduceGlobal s i) s := by
  dsimp only [reduceGlobal]
  refine ⟨?_, ?_, ?_, ?_, ?_, ?_, ?_, ?_, ?_, ?_⟩ <;> (first | rfl | (simp; done))

@[simp] theorem meshPut_calm (s : State) (i : Issue) : calm (meshPut s i) s := by
  dsimp only [meshPut]
  refine ⟨?_, ?_, ?_, ?_, ?_, ?_, ?_, ?_, ?_, ?_⟩ <;> (first | rfl | (simp; done) | ((repeat' split) <;> (first | rfl | (simp_all; done))))

@[simp] theorem loadTile_calm (s : State) (i : Issue) : calm (loadTile s i) s := by
  dsimp only [loadTile]
  refine ⟨?_, ?_, ?_, ?_, ?_, ?_, ?_, ?_, ?_, ?_⟩ <;> (first | rfl | (simp; done) | ((repeat' split) <;> (first | rfl | (simp_all; done))))

@[simp] theorem startRun_calm (s : State) (i : Issue) : calm (startRun s i) s := by
  dsimp only [startRun]
  refine ⟨?_, ?_, ?_, ?_, ?_, ?_, ?_, ?_, ?_, ?_⟩ <;> (first | rfl | (simp; done) | ((repeat' split) <;> (first | rfl | (simp_all; done))))

@[simp] theorem accClear_calm (s : State) (i : Issue) : calm (accClear s i) s := by
  dsimp only [accClear]
  refine ⟨?_, ?_, ?_, ?_, ?_, ?_, ?_, ?_, ?_, ?_⟩ <;> (first | rfl | (simp; done))

@[simp] theorem accStore_calm (s : State) (i : Issue) : (accStore s i).beat = s.beat ∧ (accStore s i).sup = s.sup ∧ (accStore s i).flash = s.flash ∧ (accStore s i).fuses = s.fuses ∧ (accStore s i).shelf = s.shelf ∧ (accStore s i).dram = s.dram ∧ (accStore s i).granules = s.granules ∧ (accStore s i).plan = s.plan ∧ sramsOf (accStore s i).csvs = sramsOf s.csvs := by
  dsimp only [accStore]
  refine ⟨?_, ?_, ?_, ?_, ?_, ?_, ?_, ?_, ?_⟩ <;> (first | rfl | (simp; done))

@[simp] theorem accLoad_calm (s : State) (i : Issue) : calm (accLoad s i) s := by
  dsimp only [accLoad]
  refine ⟨?_, ?_, ?_, ?_, ?_, ?_, ?_, ?_, ?_, ?_⟩ <;> (first | rfl | (simp; done) | ((repeat' split) <;> (first | rfl | (simp_all; done))))

@[simp] theorem encodeBlock_calm (s : State) (i : Issue) : (encodeBlock s i).beat = s.beat ∧ (encodeBlock s i).sup = s.sup ∧ (encodeBlock s i).flash = s.flash ∧ (encodeBlock s i).fuses = s.fuses ∧ (encodeBlock s i).shelf = s.shelf ∧ (encodeBlock s i).dram = s.dram ∧ (encodeBlock s i).granules = s.granules ∧ (encodeBlock s i).plan = s.plan ∧ sramsOf (encodeBlock s i).csvs = sramsOf s.csvs := by
  dsimp only [encodeBlock]
  refine ⟨?_, ?_, ?_, ?_, ?_, ?_, ?_, ?_, ?_⟩ <;> (first | rfl | (simp; done))

@[simp] theorem decodeBlock_calm (s : State) (i : Issue) : calm (decodeBlock s i) s := by
  dsimp only [decodeBlock]
  refine ⟨?_, ?_, ?_, ?_, ?_, ?_, ?_, ?_, ?_, ?_⟩ <;> (first | rfl | (simp; done) | ((repeat' split) <;> (first | rfl | (simp_all; done))))

@[simp] theorem putLog_calm (s : State) (index : Nat) (b : BitVec 512) : calm (putLog s index b) s := by
  dsimp only [putLog]
  refine ⟨?_, ?_, ?_, ?_, ?_, ?_, ?_, ?_, ?_, ?_⟩ <;> rfl

@[simp] theorem alertOverflow_calm (s : State) : calm (alertOverflow s) s := by
  dsimp only [alertOverflow]
  refine ⟨?_, ?_, ?_, ?_, ?_, ?_, ?_, ?_, ?_, ?_⟩ <;> rfl

@[simp] theorem logOverflow_calm (s : State) : calm (logOverflow s) s := by
  dsimp only [logOverflow]
  refine ⟨?_, ?_, ?_, ?_, ?_, ?_, ?_, ?_, ?_, ?_⟩ <;> rfl

@[simp] theorem reserveLog_calm (s : State) : calm (reserveLog s) s := by
  dsimp only [reserveLog]
  refine ⟨?_, ?_, ?_, ?_, ?_, ?_, ?_, ?_, ?_, ?_⟩ <;> rfl

@[simp] theorem curatorLog_calm (s : State) (mem cls synd loc : Nat) : calm (curatorLog s mem cls synd loc) s := by
  dsimp only [curatorLog]
  refine ⟨?_, ?_, ?_, ?_, ?_, ?_, ?_, ?_, ?_, ?_⟩ <;> (first | rfl | (simp; done))

@[simp] theorem addRecord_calm (s : State) (r : BitVec 256) : (addRecord s r).beat = s.beat ∧ (addRecord s r).sup = s.sup ∧ (addRecord s r).fuses = s.fuses ∧ (addRecord s r).shelf = s.shelf ∧ (addRecord s r).clm = s.clm ∧ (addRecord s r).dram = s.dram ∧ (addRecord s r).granules = s.granules ∧ (addRecord s r).plan = s.plan ∧ sramsOf (addRecord s r).csvs = sramsOf s.csvs := by
  dsimp only [addRecord]
  refine ⟨?_, ?_, ?_, ?_, ?_, ?_, ?_, ?_, ?_⟩ <;> rfl

@[simp] theorem autoRecord_calm (s : State) (r : BitVec 256) : (autoRecord s r).beat = s.beat ∧ (autoRecord s r).sup = s.sup ∧ (autoRecord s r).fuses = s.fuses ∧ (autoRecord s r).shelf = s.shelf ∧ (autoRecord s r).clm = s.clm ∧ (autoRecord s r).dram = s.dram ∧ (autoRecord s r).granules = s.granules ∧ (autoRecord s r).plan = s.plan ∧ sramsOf (autoRecord s r).csvs = sramsOf s.csvs := by
  dsimp only [autoRecord]
  refine ⟨?_, ?_, ?_, ?_, ?_, ?_, ?_, ?_, ?_⟩ <;> (first | rfl | (simp; done))

@[simp] theorem afterRecord_calm (s : State) (r : BitVec 256) : (afterRecord s r).beat = s.beat ∧ (afterRecord s r).sup = s.sup ∧ (afterRecord s r).fuses = s.fuses ∧ (afterRecord s r).shelf = s.shelf ∧ (afterRecord s r).clm = s.clm ∧ (afterRecord s r).dram = s.dram ∧ (afterRecord s r).granules = s.granules ∧ (afterRecord s r).plan = s.plan ∧ sramsOf (afterRecord s r).csvs = sramsOf s.csvs := by
  dsimp only [afterRecord]
  refine ⟨?_, ?_, ?_, ?_, ?_, ?_, ?_, ?_, ?_⟩ <;> (first | rfl | (simp; done))

@[simp] theorem autoRetire_calm (s : State) (r : BitVec 256) : (autoRetire s r).beat = s.beat ∧ (autoRetire s r).sup = s.sup ∧ (autoRetire s r).fuses = s.fuses ∧ (autoRetire s r).shelf = s.shelf ∧ (autoRetire s r).clm = s.clm ∧ (autoRetire s r).dram = s.dram ∧ (autoRetire s r).granules = s.granules ∧ (autoRetire s r).plan = s.plan ∧ sramsOf (autoRetire s r).csvs = sramsOf s.csvs := by
  dsimp only [autoRetire]
  refine ⟨?_, ?_, ?_, ?_, ?_, ?_, ?_, ?_, ?_⟩ <;> (first | rfl | (simp; done))

@[simp] theorem setCabStatus_calm (s : State) (cab : Option Nat) (bit : Nat) : calm (setCabStatus s cab bit) s := by
  dsimp only [setCabStatus]
  refine ⟨?_, ?_, ?_, ?_, ?_, ?_, ?_, ?_, ?_, ?_⟩ <;> (first | rfl | (simp; done) | ((repeat' split) <;> (first | rfl | (simp_all; done))))

@[simp] theorem markFailed_calm (s : State) (site : Nat) : (markFailed s site).beat = s.beat ∧ (markFailed s site).sup = s.sup ∧ (markFailed s site).fuses = s.fuses ∧ (markFailed s site).shelf = s.shelf ∧ (markFailed s site).clm = s.clm ∧ (markFailed s site).dram = s.dram ∧ (markFailed s site).granules = s.granules ∧ (markFailed s site).plan = s.plan ∧ sramsOf (markFailed s site).csvs = sramsOf s.csvs := by
  unfold markFailed
  dsimp only
  split <;> simp

@[simp] theorem collect_calm (s : State) (stack : Nat) (r : Heard) : calm (collect s stack r) s := by
  dsimp only [collect]
  refine ⟨?_, ?_, ?_, ?_, ?_, ?_, ?_, ?_, ?_, ?_⟩ <;> (first | rfl | (simp; done) | ((repeat' split) <;> (first | rfl | (simp_all; done))))

@[simp] theorem endLoad_calm (s : State) (id g : Nat) (l : PendLoad) : calm (endLoad s id g l) s := by
  dsimp only [endLoad]
  refine ⟨?_, ?_, ?_, ?_, ?_, ?_, ?_, ?_, ?_, ?_⟩ <;> (first | rfl | (simp; done))

@[simp] theorem crcFault_calm (s : State) (core w dir : Nat) : calm (crcFault s core w dir) s := by
  dsimp only [crcFault]
  refine ⟨?_, ?_, ?_, ?_, ?_, ?_, ?_, ?_, ?_, ?_⟩ <;> (first | rfl | (simp; done))

@[simp] theorem readXfer_calm (s : State) (core : Nat) (q : Xfer) (crcBad : List Nat) : calm (readXfer s core q crcBad).1 s := by
  dsimp only [readXfer]
  refine ⟨?_, ?_, ?_, ?_, ?_, ?_, ?_, ?_, ?_, ?_⟩ <;> (first | rfl | (simp; done) | (first | (refine (foldl_field _ _ (fun s x => ?_) _ _).trans ?_ <;> (repeat' split) <;> (first | rfl | (simp_all; done))) | (refine (foldl_srams_fst _ (fun s x => ?_) _ _).trans ?_ <;> (repeat' split) <;> (first | rfl | (simp_all; done))) | (refine (foldl_fst _ _ (fun s x => ?_) _ _).trans ?_ <;> (repeat' split) <;> (first | rfl | (simp_all; done))) | (refine (foldl_turn _ _ (fun s x => ?_) _ _).trans ?_ <;> (repeat' split) <;> (first | rfl | (simp_all; done)))) | ((repeat' split) <;> first | (first | rfl | (simp_all; done)) | (first | (refine (foldl_field _ _ (fun s x => ?_) _ _).trans ?_ <;> (repeat' split) <;> (first | rfl | (simp_all; done))) | (refine (foldl_srams_fst _ (fun s x => ?_) _ _).trans ?_ <;> (repeat' split) <;> (first | rfl | (simp_all; done))) | (refine (foldl_fst _ _ (fun s x => ?_) _ _).trans ?_ <;> (repeat' split) <;> (first | rfl | (simp_all; done))) | (refine (foldl_turn _ _ (fun s x => ?_) _ _).trans ?_ <;> (repeat' split) <;> (first | rfl | (simp_all; done))))))

@[simp] theorem writeWord_calm (s : State) (core : Nat) (x : Xfer) (w d : Nat) (bad : Bool) : (writeWord s core x w d bad).beat = s.beat ∧ (writeWord s core x w d bad).sup = s.sup ∧ (writeWord s core x w d bad).flash = s.flash ∧ (writeWord s core x w d bad).fuses = s.fuses ∧ (writeWord s core x w d bad).clm = s.clm ∧ (writeWord s core x w d bad).dram = s.dram ∧ (writeWord s core x w d bad).granules = s.granules ∧ (writeWord s core x w d bad).plan = s.plan ∧ sramsOf (writeWord s core x w d bad).csvs = sramsOf s.csvs := by
  dsimp only [writeWord]
  refine ⟨?_, ?_, ?_, ?_, ?_, ?_, ?_, ?_, ?_⟩ <;> (first | rfl | (simp; done))

@[simp] theorem writePoison_calm (s : State) (core : Nat) (x : Xfer) (w : Nat) : (writePoison s core x w).beat = s.beat ∧ (writePoison s core x w).sup = s.sup ∧ (writePoison s core x w).flash = s.flash ∧ (writePoison s core x w).fuses = s.fuses ∧ (writePoison s core x w).clm = s.clm ∧ (writePoison s core x w).dram = s.dram ∧ (writePoison s core x w).granules = s.granules ∧ (writePoison s core x w).plan = s.plan ∧ sramsOf (writePoison s core x w).csvs = sramsOf s.csvs := by
  dsimp only [writePoison]
  refine ⟨?_, ?_, ?_, ?_, ?_, ?_, ?_, ?_, ?_⟩ <;> (first | rfl | (simp; done) | ((repeat' split) <;> (first | rfl | (simp_all; done))))

@[simp] theorem putContext_calm (s : State) (core : Nat) (x : Xfer) (c : Core) (t : Tour) (crcBad : List Nat) : (putContext s core x c t crcBad).beat = s.beat ∧ (putContext s core x c t crcBad).sup = s.sup ∧ (putContext s core x c t crcBad).flash = s.flash ∧ (putContext s core x c t crcBad).fuses = s.fuses ∧ (putContext s core x c t crcBad).clm = s.clm ∧ (putContext s core x c t crcBad).dram = s.dram ∧ (putContext s core x c t crcBad).granules = s.granules ∧ (putContext s core x c t crcBad).plan = s.plan ∧ sramsOf (putContext s core x c t crcBad).csvs = sramsOf s.csvs := by
  dsimp only [putContext]
  refine ⟨?_, ?_, ?_, ?_, ?_, ?_, ?_, ?_, ?_⟩ <;> (first | refine foldl_field _ _ (fun s n => ?_) _ _ | refine foldl_srams _ (fun s n => ?_) _ _) <;> split <;> simp

@[simp] theorem takeContext_calm (s : State) (core : Nat) (c : Core) (tour g : Nat) (crcBad : List Nat) : calm (takeContext s core c tour g crcBad).1 s := by
  dsimp only [takeContext]
  refine ⟨?_, ?_, ?_, ?_, ?_, ?_, ?_, ?_, ?_, ?_⟩ <;> (first | rfl | (simp; done) | ((repeat' split) <;> (first | rfl | (simp_all; done))))

@[simp] theorem gateAnswer_calm (s : State) (core n t : Nat) (f : Req → Req) : calm (gateAnswer s core n t f) s := by
  dsimp only [gateAnswer]
  refine ⟨?_, ?_, ?_, ?_, ?_, ?_, ?_, ?_, ?_, ?_⟩ <;> (first | rfl | (simp; done) | ((repeat' split) <;> (first | rfl | (simp_all; done))))

@[simp] theorem gateAcks_calm (s : State) (core t : Nat) (reqs : List Nat) : calm (gateAcks s core t reqs) s := by
  dsimp only [gateAcks]
  refine ⟨?_, ?_, ?_, ?_, ?_, ?_, ?_, ?_, ?_, ?_⟩ <;> (first | rfl | (simp; done))

@[simp] theorem readLoad_calm (s : State) (core id g : Nat) (q : Xfer) (r : Words) : calm (readLoad s core id g q r) s := by
  dsimp only [readLoad]
  refine ⟨?_, ?_, ?_, ?_, ?_, ?_, ?_, ?_, ?_, ?_⟩ <;> rfl

@[simp] theorem readAtomic_calm (s : State) (core id fn g : Nat) (gs : List (Nat × List (Nat × DWord × DWord))) (q : Xfer) (r : Words) : calm (readAtomic s core id fn g gs q r) s := by
  dsimp only [readAtomic]
  refine ⟨?_, ?_, ?_, ?_, ?_, ?_, ?_, ?_, ?_, ?_⟩ <;> rfl

@[simp] theorem readCode_calm (s : State) (core g : Nat) (q : Xfer) (r : Words) : calm (readCode s core g q r) s := by
  dsimp only [readCode]
  refine ⟨?_, ?_, ?_, ?_, ?_, ?_, ?_, ?_, ?_, ?_⟩ <;> rfl

@[simp] theorem readTile_calm (s : State) (core g : Nat) (q : Xfer) (r : Words) : calm (readTile s core g q r) s := by
  dsimp only [readTile]
  refine ⟨?_, ?_, ?_, ?_, ?_, ?_, ?_, ?_, ?_, ?_⟩ <;> (first | rfl | (simp; done) | ((repeat' split) <;> (first | rfl | (simp_all; done))))

@[simp] theorem readStream_calm (s : State) (core n g : Nat) (q : Xfer) (r : Words) : calm (readStream s core n g q r) s := by
  dsimp only [readStream]
  refine ⟨?_, ?_, ?_, ?_, ?_, ?_, ?_, ?_, ?_, ?_⟩ <;> (first | rfl | (simp; done) | ((repeat' split) <;> (first | rfl | (simp_all; done))))

@[simp] theorem readAcc_calm (s : State) (core tile g : Nat) (q : Xfer) (r : Words) : calm (readAcc s core tile g q r) s := by
  dsimp only [readAcc]
  refine ⟨?_, ?_, ?_, ?_, ?_, ?_, ?_, ?_, ?_, ?_⟩ <;> (first | rfl | (simp; done) | ((repeat' split) <;> (first | rfl | (simp_all; done))))

@[simp] theorem readGate_calm (s : State) (core n g : Nat) (q : Xfer) (r : Words) : calm (readGate s core n g q r) s := by
  dsimp only [readGate]
  refine ⟨?_, ?_, ?_, ?_, ?_, ?_, ?_, ?_, ?_, ?_⟩ <;> (first | rfl | (simp; done))

@[simp] theorem readGateAtomic_calm (s : State) (core n g : Nat) (q : Xfer) (r : Words) : calm (readGateAtomic s core n g q r) s := by
  dsimp only [readGateAtomic]
  refine ⟨?_, ?_, ?_, ?_, ?_, ?_, ?_, ?_, ?_, ?_⟩ <;> (first | rfl | (simp; done) | ((repeat' split) <;> (first | rfl | (simp_all; done))))

@[simp] theorem swapUnreachable_calm (s : State) (core g : Nat) (r : SwapReq) (rest : List SwapReq) : calm (swapUnreachable s core g r rest) s := by
  dsimp only [swapUnreachable]
  refine ⟨?_, ?_, ?_, ?_, ?_, ?_, ?_, ?_, ?_, ?_⟩ <;> (first | rfl | (simp; done) | ((repeat' split) <;> (first | rfl | (simp_all; done))))

@[simp] theorem endSwap_calm (s : State) (id g : Nat) (c : Core) (w : Swap) : calm (endSwap s id g c w) s := by
  dsimp only [endSwap]
  refine ⟨?_, ?_, ?_, ?_, ?_, ?_, ?_, ?_, ?_, ?_⟩ <;> (first | rfl | (simp; done) | ((repeat' split) <;> (first | rfl | (simp_all; done))))

@[simp] theorem readOldTile_calm (s : State) (core g : Nat) (q : Xfer) (r : Words) : calm (readOldTile s core g q r) s := by
  unfold readOldTile
  dsimp only
  repeat' split
  all_goals first | exact calm_refl _ | exact setCore_calm _ _ _

@[simp] theorem startRead_calm (s : State) (core g : Nat) (q : Xfer) (rest : List Xfer) (crcBad : List Nat) : calm (startRead s core g q rest crcBad) s := by
  dsimp only [startRead]
  refine ⟨?_, ?_, ?_, ?_, ?_, ?_, ?_, ?_, ?_, ?_⟩ <;> (first | rfl | (simp; done) | ((repeat' split) <;> (first | rfl | (simp_all; done))))

@[simp] theorem startWrite_calm (s : State) (core g : Nat) (q : Xfer) (rest : List Xfer) (crcBad : List Nat) : (startWrite s core g q rest crcBad).beat = s.beat ∧ (startWrite s core g q rest crcBad).sup = s.sup ∧ (startWrite s core g q rest crcBad).flash = s.flash ∧ (startWrite s core g q rest crcBad).fuses = s.fuses ∧ (startWrite s core g q rest crcBad).clm = s.clm ∧ (startWrite s core g q rest crcBad).dram = s.dram ∧ (startWrite s core g q rest crcBad).granules = s.granules ∧ (startWrite s core g q rest crcBad).plan = s.plan ∧ sramsOf (startWrite s core g q rest crcBad).csvs = sramsOf s.csvs := by
  dsimp only [startWrite]
  refine ⟨?_, ?_, ?_, ?_, ?_, ?_, ?_, ?_, ?_⟩ <;> (first | rfl | (simp; done))

@[simp] theorem rmwRead_calm (s : State) (core g : Nat) (q : Xfer) (rest : List Xfer) (crcBad : Bool) : calm (rmwRead s core g q rest crcBad) s := by
  dsimp only [rmwRead]
  refine ⟨?_, ?_, ?_, ?_, ?_, ?_, ?_, ?_, ?_, ?_⟩ <;> (first | rfl | (simp; done) | ((repeat' split) <;> (first | rfl | (simp_all; done))))

@[simp] theorem rmwWrite_calm (s : State) (core g : Nat) (m : Rmw) (x : Xfer) (rest : List Xfer) (crcBad : Bool) : (rmwWrite s core g m x rest crcBad).beat = s.beat ∧ (rmwWrite s core g m x rest crcBad).sup = s.sup ∧ (rmwWrite s core g m x rest crcBad).flash = s.flash ∧ (rmwWrite s core g m x rest crcBad).fuses = s.fuses ∧ (rmwWrite s core g m x rest crcBad).clm = s.clm ∧ (rmwWrite s core g m x rest crcBad).dram = s.dram ∧ (rmwWrite s core g m x rest crcBad).granules = s.granules ∧ (rmwWrite s core g m x rest crcBad).plan = s.plan ∧ sramsOf (rmwWrite s core g m x rest crcBad).csvs = sramsOf s.csvs := by
  dsimp only [rmwWrite]
  refine ⟨?_, ?_, ?_, ?_, ?_, ?_, ?_, ?_, ?_⟩ <;> (first | rfl | (simp; done) | ((first | refine (foldl_field _ _ (fun s x => ?_) _ _).trans ?_ | refine (foldl_srams _ (fun s x => ?_) _ _).trans ?_) <;> (repeat' split) <;> (first | rfl | (simp_all; done))))

@[simp] theorem sendFlit_calm (s : State) (n : Nat) (f : Flit) (edge : Nat) : calm (sendFlit s n f edge) s := by
  dsimp only [sendFlit]
  refine ⟨?_, ?_, ?_, ?_, ?_, ?_, ?_, ?_, ?_, ?_⟩ <;> rfl

@[simp] theorem sendRequest_calm (s : State) (core n g : Nat) (r : Req) : calm (sendRequest s core n g r) s := by
  dsimp only [sendRequest]
  refine ⟨?_, ?_, ?_, ?_, ?_, ?_, ?_, ?_, ?_, ?_⟩ <;> rfl

@[simp] theorem gateRead_calm (s : State) (core n g : Nat) (kind : XferKind) (ws : List Nat) : calm (gateRead s core n g kind ws) s := by
  dsimp only [gateRead]
  refine ⟨?_, ?_, ?_, ?_, ?_, ?_, ?_, ?_, ?_, ?_⟩ <;> (first | rfl | (simp; done))

@[simp] theorem gateWrite_calm (s : State) (core n g : Nat) (ws : List (Nat × BitVec 16 × BitVec 128)) (skip : Bool) : calm (gateWrite s core n g ws skip) s := by
  dsimp only [gateWrite]
  refine ⟨?_, ?_, ?_, ?_, ?_, ?_, ?_, ?_, ?_, ?_⟩ <;> (first | rfl | (simp; done) | ((repeat' split) <;> (first | rfl | (simp_all; done))))

@[simp] theorem dropWindow_calm (s : State) (cab core g part : Nat) (reqs : List Nat) : calm (dropWindow s cab core g part reqs) s := by
  dsimp only [dropWindow]
  refine ⟨?_, ?_, ?_, ?_, ?_, ?_, ?_, ?_, ?_, ?_⟩ <;> (first | rfl | (simp; done))

@[simp] theorem gateWindow_calm (s : State) (cab core n g : Nat) (r : Req) (eng ctx : Nat) (elt base pitch row : Nat) : calm (gateWindow s cab core n g r eng ctx elt base pitch row) s := by
  dsimp only [gateWindow]
  refine ⟨?_, ?_, ?_, ?_, ?_, ?_, ?_, ?_, ?_, ?_⟩ <;> (first | rfl | (simp; done) | ((repeat' split) <;> (first | rfl | (simp_all; done))))

@[simp] theorem gatePresent_calm (s : State) (cab n g : Nat) (r : Req) : calm (gatePresent s cab n g r) s := by
  unfold gatePresent
  split
  · dsimp only
    (repeat' split) <;> (refine ⟨?_, ?_, ?_, ?_, ?_, ?_, ?_, ?_, ?_, ?_⟩ <;> (first | rfl | (simp; done) | (simp_all; done)))
  · exact gateAnswer_calm _ _ _ _ _

@[simp] theorem sendHost_calm (s : State) (n pc : Nat) (r : Req) : calm (sendHost s n pc r) s := by
  dsimp only [sendHost]
  refine ⟨?_, ?_, ?_, ?_, ?_, ?_, ?_, ?_, ?_, ?_⟩ <;> (first | rfl | (simp; done) | ((repeat' split) <;> (first | rfl | (simp_all; done))))

@[simp] theorem leaveRoute_calm (s : State) (n pc : Nat) (r : Req) : calm (leaveRoute s n pc r) s := by
  dsimp only [leaveRoute]
  refine ⟨?_, ?_, ?_, ?_, ?_, ?_, ?_, ?_, ?_, ?_⟩ <;> (first | rfl | (simp [setCsv_srams, csvOf_isram, csvOf_dsram]; done) | ((repeat' split) <;> (first | rfl | (simp_all [setCsv_srams, csvOf_isram, csvOf_dsram]; done))))

@[simp] theorem dropRequests_calm (s : State) (st : Nat) : calm (dropRequests s st) s := by
  dsimp only [dropRequests]
  refine ⟨?_, ?_, ?_, ?_, ?_, ?_, ?_, ?_, ?_, ?_⟩ <;> rfl

@[simp] theorem resetEngine_calm (s : State) (e : Nat) : calm (resetEngine s e) s := by
  dsimp only [resetEngine]
  refine ⟨?_, ?_, ?_, ?_, ?_, ?_, ?_, ?_, ?_, ?_⟩ <;> rfl

@[simp] theorem loseStack_calm (s : State) (st : Nat) : (loseStack s st).beat = s.beat ∧ (loseStack s st).sup = s.sup ∧ (loseStack s st).flash = s.flash ∧ (loseStack s st).fuses = s.fuses ∧ (loseStack s st).shelf = s.shelf ∧ (loseStack s st).dram = s.dram ∧ (loseStack s st).granules = s.granules ∧ (loseStack s st).plan = s.plan ∧ sramsOf (loseStack s st).csvs = sramsOf s.csvs := by
  dsimp only [loseStack]
  refine ⟨?_, ?_, ?_, ?_, ?_, ?_, ?_, ?_, ?_⟩ <;> ((first | refine (foldl_field _ _ (fun s x => ?_) _ _).trans ?_ | refine (foldl_srams _ (fun s x => ?_) _ _).trans ?_) <;> (repeat' split) <;> first | rfl | (simp; done))

@[simp] theorem losePort_calm (s : State) (p : Nat) : calm (losePort s p) s := by
  dsimp only [losePort]
  refine ⟨?_, ?_, ?_, ?_, ?_, ?_, ?_, ?_, ?_, ?_⟩ <;> (first | rfl | (simp; done))

@[simp] theorem loseVault_calm (s : State) (v : Nat) : calm (loseVault s v) s := by
  dsimp only [loseVault]
  refine ⟨?_, ?_, ?_, ?_, ?_, ?_, ?_, ?_, ?_, ?_⟩ <;> (first | rfl | (refine sramsOf_map _ (fun c => ?_) (fun c => ?_) (fun c => ?_) _ <;> split <;> rfl))

@[simp] theorem respondWith_calm (s : State) (r : Running) (status check : Nat) (results : SMap Word) : calm (respondWith s r status check results) s := by
  dsimp only [respondWith]
  refine ⟨?_, ?_, ?_, ?_, ?_, ?_, ?_, ?_, ?_, ?_⟩ <;> (first | rfl | (simp; done))

@[simp] theorem undoCommand_calm (s : State) (r : Running) : calm (undoCommand s r) s := by
  dsimp only [undoCommand]
  refine ⟨?_, ?_, ?_, ?_, ?_, ?_, ?_, ?_, ?_, ?_⟩ <;> (first | rfl | (simp; done))

@[simp] theorem endCommand_calm (s : State) (r : Running) : calm (endCommand s r) s := by
  dsimp only [endCommand]
  refine ⟨?_, ?_, ?_, ?_, ?_, ?_, ?_, ?_, ?_, ?_⟩ <;> (first | rfl | (simp; done) | ((repeat' split) <;> (first | rfl | (simp_all; done))))

@[simp] theorem loseCommand_calm (s : State) : calm (loseCommand s) s := by
  dsimp only [loseCommand]
  refine ⟨?_, ?_, ?_, ?_, ?_, ?_, ?_, ?_, ?_, ?_⟩ <;> (first | rfl | (simp; done) | ((repeat' split) <;> (first | rfl | (simp_all; done))))

@[simp] theorem loseDomain_calm (s : State) (k : DomainKind) (i : Nat) : (loseDomain s k i).beat = s.beat ∧ (loseDomain s k i).sup = s.sup ∧ (loseDomain s k i).flash = s.flash ∧ (loseDomain s k i).fuses = s.fuses ∧ (loseDomain s k i).shelf = s.shelf ∧ (loseDomain s k i).dram = s.dram ∧ (loseDomain s k i).granules = s.granules ∧ (loseDomain s k i).plan = s.plan ∧ sramsOf (loseDomain s k i).csvs = sramsOf s.csvs := by
  cases k <;> simp [loseDomain]

@[simp] theorem deaccession_calm (s : State) (kind index : Nat) : (deaccession s kind index).beat = s.beat ∧ (deaccession s kind index).sup = s.sup ∧ (deaccession s kind index).flash = s.flash ∧ (deaccession s kind index).fuses = s.fuses ∧ (deaccession s kind index).clm = s.clm ∧ (deaccession s kind index).granules = s.granules ∧ (deaccession s kind index).plan = s.plan ∧ sramsOf (deaccession s kind index).csvs = sramsOf s.csvs := by
  unfold deaccession
  generalize List.range 8 = l
  simp

@[simp] theorem countReset_calm (s : State) : (countReset s).beat = s.beat ∧ (countReset s).sup = s.sup ∧ (countReset s).flash = s.flash ∧ (countReset s).fuses = s.fuses ∧ (countReset s).clm = s.clm ∧ (countReset s).granules = s.granules ∧ (countReset s).plan = s.plan ∧ sramsOf (countReset s).csvs = sramsOf s.csvs := by
  dsimp only [countReset]
  refine ⟨?_, ?_, ?_, ?_, ?_, ?_, ?_, ?_⟩ <;> (first | rfl | (simp; done))

@[simp] theorem resetDomain_calm (s : State) (k : DomainKind) (i cause : Nat) (f : FaultRec) : (resetDomain s k i cause f).beat = s.beat ∧ (resetDomain s k i cause f).sup = s.sup ∧ (resetDomain s k i cause f).flash = s.flash ∧ (resetDomain s k i cause f).fuses = s.fuses ∧ (resetDomain s k i cause f).granules = s.granules ∧ (resetDomain s k i cause f).plan = s.plan ∧ sramsOf (resetDomain s k i cause f).csvs = sramsOf s.csvs := by
  dsimp only [resetDomain]
  refine ⟨?_, ?_, ?_, ?_, ?_, ?_⟩ <;> (first | rfl | (simp; done))

@[simp] theorem resetFor_calm (s : State) (k : DomainKind) (i cause : Nat) : (resetFor s k i cause).beat = s.beat ∧ (resetFor s k i cause).sup = s.sup ∧ (resetFor s k i cause).flash = s.flash ∧ (resetFor s k i cause).fuses = s.fuses ∧ (resetFor s k i cause).granules = s.granules ∧ (resetFor s k i cause).plan = s.plan ∧ sramsOf (resetFor s k i cause).csvs = sramsOf s.csvs := by
  dsimp only [resetFor]
  refine ⟨?_, ?_, ?_, ?_, ?_, ?_⟩ <;> (first | rfl | (simp; done))

@[simp] theorem railsOff_calm (s : State) (l : List Nat) : (railsOff s l).beat = s.beat ∧ (railsOff s l).flash = s.flash ∧ (railsOff s l).fuses = s.fuses ∧ (railsOff s l).shelf = s.shelf ∧ (railsOff s l).clm = s.clm ∧ (railsOff s l).dram = s.dram ∧ (railsOff s l).granules = s.granules ∧ (railsOff s l).plan = s.plan ∧ sramsOf (railsOff s l).csvs = sramsOf s.csvs := by
  dsimp only [railsOff]
  refine ⟨?_, ?_, ?_, ?_, ?_, ?_, ?_, ?_, ?_⟩ <;> rfl

@[simp] theorem coldShutdown_calm (s : State) : (coldShutdown s).beat = s.beat ∧ (coldShutdown s).flash = s.flash ∧ (coldShutdown s).fuses = s.fuses ∧ (coldShutdown s).clm = s.clm ∧ (coldShutdown s).granules = s.granules ∧ (coldShutdown s).plan = s.plan ∧ sramsOf (coldShutdown s).csvs = sramsOf s.csvs := by
  dsimp only [coldShutdown, railsOff]
  refine ⟨?_, ?_, ?_, ?_, ?_, ?_, ?_⟩ <;> rfl

@[simp] theorem haltCsvs_calm (s : State) (p : Nat) : calm (haltCsvs s p) s := by
  refine foldl_calm (fun t d => ?_) _ _
  split
  · refine ⟨?_, ?_, ?_, ?_, ?_, ?_, ?_, ?_, ?_, ?_⟩ <;> first | rfl | exact setCsv_srams _ _ _ rfl
  · exact calm_refl _

@[simp] theorem engineComplete_calm (s : State) (j : EngJob) (status cause beat pc : Nat) : calm (engineComplete s j status cause beat pc) s := by
  dsimp only [engineComplete]
  refine ⟨?_, ?_, ?_, ?_, ?_, ?_, ?_, ?_, ?_, ?_⟩ <;> (first | rfl | (simp; done) | ((repeat' split) <;> (first | rfl | (simp_all; done))))

@[simp] theorem abandonAll_calm (s : State) (p : Nat) : calm (abandonAll s p) s := by
  dsimp only [abandonAll]
  refine ⟨?_, ?_, ?_, ?_, ?_, ?_, ?_, ?_, ?_, ?_⟩ <;> rfl

@[simp] theorem vaultNote_calm (s : State) (P off k : Nat) (f : Checked) : calm (vaultNote s P off k f) s := by
  dsimp only [vaultNote]
  refine ⟨?_, ?_, ?_, ?_, ?_, ?_, ?_, ?_, ?_, ?_⟩ <;> (first | rfl | (simp; done))

@[simp] theorem vaultFault_calm (s : State) (part : Option Nat) (P : Nat) (f : Checked) : calm (vaultFault s part P f) s := by
  dsimp only [vaultFault]
  refine ⟨?_, ?_, ?_, ?_, ?_, ?_, ?_, ?_, ?_, ?_⟩ <;> (first | rfl | (simp; done))

@[simp] theorem vaultReport_calm (s : State) (P off : Nat) (raw : BitVec 1024 × BitVec 128) (need : BitVec 4) : calm (vaultReport s P off raw need) s := by
  dsimp only [vaultReport]
  refine ⟨?_, ?_, ?_, ?_, ?_, ?_, ?_, ?_, ?_, ?_⟩ <;> (first | rfl | (simp; done))

@[simp] theorem vaultPut_calm (s : State) (P off k : Nat) (f : Checked) : (vaultPut s P off k f).beat = s.beat ∧ (vaultPut s P off k f).sup = s.sup ∧ (vaultPut s P off k f).flash = s.flash ∧ (vaultPut s P off k f).fuses = s.fuses ∧ (vaultPut s P off k f).shelf = s.shelf ∧ (vaultPut s P off k f).clm = s.clm ∧ (vaultPut s P off k f).granules = s.granules ∧ (vaultPut s P off k f).plan = s.plan ∧ sramsOf (vaultPut s P off k f).csvs = sramsOf s.csvs := by
  dsimp only [vaultPut]
  refine ⟨?_, ?_, ?_, ?_, ?_, ?_, ?_, ?_, ?_⟩ <;> (first | rfl | (simp; done) | ((repeat' split) <;> (first | rfl | (simp_all; done))))

@[simp] theorem vaultMerge_calm (s : State) (part : Option Nat) (P off k d mask : Nat) : (vaultMerge s part P off k d mask).beat = s.beat ∧ (vaultMerge s part P off k d mask).sup = s.sup ∧ (vaultMerge s part P off k d mask).flash = s.flash ∧ (vaultMerge s part P off k d mask).fuses = s.fuses ∧ (vaultMerge s part P off k d mask).shelf = s.shelf ∧ (vaultMerge s part P off k d mask).clm = s.clm ∧ (vaultMerge s part P off k d mask).granules = s.granules ∧ (vaultMerge s part P off k d mask).plan = s.plan ∧ sramsOf (vaultMerge s part P off k d mask).csvs = sramsOf s.csvs := by
  dsimp only [vaultMerge]
  refine ⟨?_, ?_, ?_, ?_, ?_, ?_, ?_, ?_, ?_⟩ <;> (first | rfl | (simp; done))

@[simp] theorem vaultStore_calm (s : State) (part : Option Nat) (P off : Nat) (r : Req) (secs : List Nat) : (vaultStore s part P off r secs).beat = s.beat ∧ (vaultStore s part P off r secs).sup = s.sup ∧ (vaultStore s part P off r secs).flash = s.flash ∧ (vaultStore s part P off r secs).fuses = s.fuses ∧ (vaultStore s part P off r secs).shelf = s.shelf ∧ (vaultStore s part P off r secs).clm = s.clm ∧ (vaultStore s part P off r secs).granules = s.granules ∧ (vaultStore s part P off r secs).plan = s.plan ∧ sramsOf (vaultStore s part P off r secs).csvs = sramsOf s.csvs := by
  dsimp only [vaultStore]
  refine ⟨?_, ?_, ?_, ?_, ?_, ?_, ?_, ?_, ?_⟩ <;> (first | rfl | (simp; done))

@[simp] theorem setSliceStatus_calm (s : State) (i bit : Nat) : calm (setSliceStatus s i bit) s := by
  dsimp only [setSliceStatus]
  refine ⟨?_, ?_, ?_, ?_, ?_, ?_, ?_, ?_, ?_, ?_⟩ <;> (first | rfl | (simp; done) | ((repeat' split) <;> (first | rfl | (simp_all; done))))

@[simp] theorem noteSector_calm (s : State) (i part : Nat) (faults : Bool) (loc : Nat) (f : Checked) : calm (noteSector s i part faults loc f) s := by
  dsimp only [noteSector]
  refine ⟨?_, ?_, ?_, ?_, ?_, ?_, ?_, ?_, ?_, ?_⟩ <;> (first | rfl | (simp; done) | ((repeat' split) <;> (first | rfl | (simp_all; done))))

@[simp] theorem writeBack_calm (t : Turn) (q : Place) (way : Nat) (h : Bool) (l : Line) (line P off : Nat) : calm (writeBack t q way h l line P off).s t.s := by
  unfold writeBack
  split
  · exact calm_refl _
  · dsimp only
    refine calm_trans (setSlice_calm _ _ _) (foldl_calm (fun s k => ?_) _ _)
    split
    · exact noteSector_calm _ _ _ _ _ _
    · exact calm_refl _

@[simp] theorem evictHalf_calm (q : Place) (way : Nat) (h : Bool) (t : Turn) : calm (evictHalf q way h t).s t.s := by
  dsimp only [evictHalf]
  refine ⟨?_, ?_, ?_, ?_, ?_, ?_, ?_, ?_, ?_, ?_⟩ <;> (first | rfl | (simp; done) | ((repeat' split) <;> (first | rfl | (simp_all; done))))

@[simp] theorem evictFrame_calm (q : Place) (way : Nat) (t : Turn) : calm (evictFrame q way t).s t.s := by
  dsimp only [evictFrame]
  refine ⟨?_, ?_, ?_, ?_, ?_, ?_, ?_, ?_, ?_, ?_⟩ <;> (first | rfl | (simp; done))

@[simp] theorem splitPair_calm (q : Place) (way : Nat) (h : Bool) (l : Line) (t : Turn) : calm (splitPair q way h l t).s t.s := by
  dsimp only [splitPair]
  refine ⟨?_, ?_, ?_, ?_, ?_, ?_, ?_, ?_, ?_, ?_⟩ <;> (first | rfl | (simp; done))

@[simp] theorem putLine_calm (q : Place) (way : Nat) (h : Bool) (wasHalf : Bool) (l : Line) (t : Turn) : calm (putLine q way h wasHalf l t).s t.s := by
  dsimp only [putLine]
  refine ⟨?_, ?_, ?_, ?_, ?_, ?_, ?_, ?_, ?_, ?_⟩ <;> (first | rfl | (simp; done) | ((repeat' split) <;> (first | rfl | (simp_all; done))))

@[simp] theorem sectorReports_calm (s : State) (q : Place) (way : Nat) (h : Bool) (wb : Option Nat) (r : Req) (bad : List (Nat × Checked)) : calm (sectorReports s q way h wb r bad) s := by
  exact foldl_calm (fun s x => noteSector_calm _ _ _ _ _ _) _ _

@[simp] theorem respond_calm (s : State) (n : Nat) (r : Req) (a : Applied) (i : Nat) : calm (respond s n r a i) s := by
  dsimp only [respond]
  refine ⟨?_, ?_, ?_, ?_, ?_, ?_, ?_, ?_, ?_, ?_⟩ <;> rfl

@[simp] theorem serveResident_calm (t : Turn) (q : Place) (n : Nat) (r : Req) (way : Nat) (h : Bool) (l : Line) (answer : List SliceEff) : calm (serveResident t q n r way h l answer).s t.s := by
  dsimp only [serveResident]
  refine ⟨?_, ?_, ?_, ?_, ?_, ?_, ?_, ?_, ?_, ?_⟩ <;> (first | rfl | (simp; done) | ((repeat' split) <;> (first | rfl | (simp_all; done))))

@[simp] theorem serveFilled_calm (t : Turn) (q : Place) (n : Nat) (r : Req) (way : Nat) (h : Bool) (l : Line) : calm (serveFilled t q n r way h l).s t.s := by
  dsimp only [serveFilled]
  refine ⟨?_, ?_, ?_, ?_, ?_, ?_, ?_, ?_, ?_, ?_⟩ <;> (first | rfl | (simp; done) | ((repeat' split) <;> (first | rfl | (simp_all; done))))

@[simp] theorem startFill_calm (t : Turn) (q : Place) (n : Nat) (r : Req) (way : Nat) (h : Bool) (l : Line) (raw : BitVec 1024 × BitVec 128) : calm (startFill t q n r way h l raw).s t.s := by
  dsimp only [startFill]
  refine ⟨?_, ?_, ?_, ?_, ?_, ?_, ?_, ?_, ?_, ?_⟩ <;> (first | rfl | (simp; done) | ((repeat' split) <;> (first | rfl | (simp_all; done))))

theorem allocPlace_calm (t : Turn) (q : Place) (r : Req) (full : Line) (next : Turn → Nat → Bool → Line → Turn)
    (h : ∀ t way b l, calm (next t way b l).s t.s) : calm (allocPlace t q r full next).s t.s := by
  unfold allocPlace
  dsimp only
  split
  · exact h _ _ _ _
  · split
    · exact calm_trans (h _ _ _ _) (evictFrame_calm _ _ _)
    · exact calm_refl _

@[simp] theorem allocFetch_calm (t : Turn) (q : Place) (n : Nat) (r : Req) : calm (allocFetch t q n r).s t.s := by
  exact allocPlace_calm _ _ _ _ _ fun t way b l => startFill_calm _ _ _ _ _ _ _ _

@[simp] theorem refill_calm (t : Turn) (q : Place) (n : Nat) (r : Req) : calm (refill t q n r).s t.s := by
  exact allocPlace_calm _ _ _ _ _ fun t way b l => calm_trans (serveFilled_calm _ _ _ _ _ _ _) (mapSlice_calm _ _ _)

@[simp] theorem allocStore_calm (t : Turn) (q : Place) (n : Nat) (r : Req) : calm (allocStore t q n r).s t.s := by
  dsimp only [allocStore]
  refine ⟨?_, ?_, ?_, ?_, ?_, ?_, ?_, ?_, ?_, ?_⟩ <;> (first | rfl | (simp; done) | ((repeat' split) <;> (first | rfl | (simp_all; done))))

@[simp] theorem passBy_calm (t : Turn) (q : Place) (n : Nat) (r : Req) : (passBy t q n r).s.beat = t.s.beat ∧ (passBy t q n r).s.sup = t.s.sup ∧ (passBy t q n r).s.flash = t.s.flash ∧ (passBy t q n r).s.fuses = t.s.fuses ∧ (passBy t q n r).s.shelf = t.s.shelf ∧ (passBy t q n r).s.clm = t.s.clm ∧ (passBy t q n r).s.granules = t.s.granules ∧ (passBy t q n r).s.plan = t.s.plan ∧ sramsOf ((passBy t q n r).s).csvs = sramsOf t.s.csvs := by
  dsimp only [passBy]
  refine ⟨?_, ?_, ?_, ?_, ?_, ?_, ?_, ?_, ?_⟩ <;> (first | rfl | (simp; done) | ((repeat' split) <;> (first | rfl | (simp_all; done))))

@[simp] theorem mixedAccess_calm (t : Turn) (q : Place) (n : Nat) (r : Req) (way : Nat) (h : Bool) (l : Line) : (mixedAccess t q n r way h l).s.beat = t.s.beat ∧ (mixedAccess t q n r way h l).s.sup = t.s.sup ∧ (mixedAccess t q n r way h l).s.flash = t.s.flash ∧ (mixedAccess t q n r way h l).s.fuses = t.s.fuses ∧ (mixedAccess t q n r way h l).s.shelf = t.s.shelf ∧ (mixedAccess t q n r way h l).s.clm = t.s.clm ∧ (mixedAccess t q n r way h l).s.granules = t.s.granules ∧ (mixedAccess t q n r way h l).s.plan = t.s.plan ∧ sramsOf ((mixedAccess t q n r way h l).s).csvs = sramsOf t.s.csvs := by
  dsimp only [mixedAccess]
  refine ⟨?_, ?_, ?_, ?_, ?_, ?_, ?_, ?_, ?_⟩ <;> (first | rfl | (simp; done) | ((repeat' split) <;> (first | rfl | (simp_all; done))))

@[simp] theorem trainMiss_calm (s : State) (q : Place) (a : Nat) : calm (trainMiss s q a).1 s := by
  dsimp only [trainMiss]
  refine ⟨?_, ?_, ?_, ?_, ?_, ?_, ?_, ?_, ?_, ?_⟩ <;> (first | rfl | (simp; done) | ((repeat' split) <;> (first | rfl | (simp_all; done))))

@[simp] theorem dropEntry_calm (t : Turn) (q : Place) (way : Nat) (h : Bool) : calm (dropEntry t q way h).s t.s := by
  dsimp only [dropEntry]
  refine ⟨?_, ?_, ?_, ?_, ?_, ?_, ?_, ?_, ?_, ?_⟩ <;> rfl

@[simp] theorem countDead_calm (s : State) (i bit : Nat) : calm (countDead s i bit) s := by
  dsimp only [countDead]
  refine ⟨?_, ?_, ?_, ?_, ?_, ?_, ?_, ?_, ?_, ?_⟩ <;> rfl

@[simp] theorem strictDead_calm (t : Turn) (q : Place) (n : Nat) (r : Req) (way : Nat) (h : Bool) : calm (strictDead t q n r way h).s t.s := by
  unfold strictDead
  dsimp only
  split <;> simp [calm, consumerFaults]

@[simp] theorem meetDead_calm (t : Turn) (q : Place) (n : Nat) (r : Req) (way : Nat) (h : Bool) (l : Line) (sched : Bool) : (meetDead t q n r way h l sched).s.beat = t.s.beat ∧ (meetDead t q n r way h l sched).s.sup = t.s.sup ∧ (meetDead t q n r way h l sched).s.flash = t.s.flash ∧ (meetDead t q n r way h l sched).s.fuses = t.s.fuses ∧ (meetDead t q n r way h l sched).s.shelf = t.s.shelf ∧ (meetDead t q n r way h l sched).s.clm = t.s.clm ∧ (meetDead t q n r way h l sched).s.granules = t.s.granules ∧ (meetDead t q n r way h l sched).s.plan = t.s.plan ∧ sramsOf ((meetDead t q n r way h l sched).s).csvs = sramsOf t.s.csvs := by
  dsimp only [meetDead]
  refine ⟨?_, ?_, ?_, ?_, ?_, ?_, ?_, ?_, ?_⟩ <;> (first | rfl | (simp; done) | ((repeat' split) <;> (first | rfl | (simp_all; done))))

theorem noteAll_calm (l : List Nat) (f : Nat → Checked) (o : Option Nat) (P off : Nat) (s : State) :
    calm (l.foldl (fun s k => vaultFault (vaultNote s P off k (f k)) o P (f k)) s) s :=
  foldl_calm (fun s k => calm_trans (vaultFault_calm _ _ _ _) (vaultNote_calm _ _ _ _ _)) _ _

@[simp] theorem wbReads_calm (s : State) (q : Place) (e : WbEntry) (r : Req) : calm (wbReads s q e r) s := by
  rw [show wbReads s q e r = (wbMissing e r).foldl (fun s' k => vaultFault (vaultNote s' q.P q.off k (vaultFinding (memRaw s q) k))
    (some q.part) q.P (vaultFinding (memRaw s q) k)) s from rfl]
  exact noteAll_calm _ _ _ _ _ _

@[simp] theorem meetBuffer_calm (t : Turn) (q : Place) (n : Nat) (r : Req) (key : Nat) (e : WbEntry) : calm (meetBuffer t q n r key e).s t.s := by
  dsimp only [meetBuffer]
  refine ⟨?_, ?_, ?_, ?_, ?_, ?_, ?_, ?_, ?_, ?_⟩ <;> (first | rfl | (simp; done) | ((repeat' split) <;> (first | rfl | (simp_all; done))))

@[simp] theorem meetDeadBuffered_calm (t : Turn) (q : Place) (n : Nat) (r : Req) (way : Nat) (h : Bool) (sched : Bool) (key : Nat) (e : WbEntry) : calm (meetDeadBuffered t q n r way h sched key e).s t.s := by
  unfold meetDeadBuffered
  dsimp only
  split
  · exact strictDead_calm _ _ _ _ _ _
  · refine calm_trans (meetBuffer_calm _ _ _ _ _ _) ?_
    split <;> split <;> (first | exact calm_refl _ | exact dropEntry_calm _ _ _ _ | exact countDead_calm _ _ _ | exact calm_trans (dropEntry_calm _ _ _ _) (countDead_calm _ _ _))

@[simp] theorem meetAbsent_calm (t : Turn) (q : Place) (n : Nat) (r : Req) (sched : Bool) : (meetAbsent t q n r sched).s.beat = t.s.beat ∧ (meetAbsent t q n r sched).s.sup = t.s.sup ∧ (meetAbsent t q n r sched).s.flash = t.s.flash ∧ (meetAbsent t q n r sched).s.fuses = t.s.fuses ∧ (meetAbsent t q n r sched).s.shelf = t.s.shelf ∧ (meetAbsent t q n r sched).s.clm = t.s.clm ∧ (meetAbsent t q n r sched).s.granules = t.s.granules ∧ (meetAbsent t q n r sched).s.plan = t.s.plan ∧ sramsOf ((meetAbsent t q n r sched).s).csvs = sramsOf t.s.csvs := by
  dsimp only [meetAbsent]
  refine ⟨?_, ?_, ?_, ?_, ?_, ?_, ?_, ?_, ?_⟩ <;> (first | rfl | (simp; done) | ((repeat' split) <;> (first | rfl | (simp_all; done))))

@[simp] theorem joinFillUncached_calm (t : Turn) (q : Place) (n : Nat) (r : Req) : calmV (joinFillUncached t q n r).s t.s := by
  unfold joinFillUncached
  dsimp only
  split
  · exact calmV_of (respond_calm _ _ _ _ _)
  · exact calmV_trans (calmV_of (setReq_calm _ _ _)) (vaultStore_calm _ _ _ _ _ _)

@[simp] theorem access_calm (s : State) (q : Place) (n : Nat) (r : Req) : (access s q n r).s.beat = s.beat ∧ (access s q n r).s.sup = s.sup ∧ (access s q n r).s.flash = s.flash ∧ (access s q n r).s.fuses = s.fuses ∧ (access s q n r).s.shelf = s.shelf ∧ (access s q n r).s.clm = s.clm ∧ (access s q n r).s.granules = s.granules ∧ (access s q n r).s.plan = s.plan ∧ sramsOf ((access s q n r).s).csvs = sramsOf s.csvs := by
  dsimp only [access]
  refine ⟨?_, ?_, ?_, ?_, ?_, ?_, ?_, ?_, ?_⟩ <;> (first | rfl | (simp; done) | ((repeat' split) <;> (first | rfl | (simp_all; done))))

@[simp] theorem passShared_calm (s : State) (q : Place) (n : Nat) (r : Req) : calm (passShared s q n r).s s := by
  dsimp only [passShared]
  refine ⟨?_, ?_, ?_, ?_, ?_, ?_, ?_, ?_, ?_, ?_⟩ <;> rfl

@[simp] theorem sendCtrl_calm (s : State) (P : Nat) (c : CtrlReq) : calm (sendCtrl s P c) s := by
  dsimp only [sendCtrl]
  refine ⟨?_, ?_, ?_, ?_, ?_, ?_, ?_, ?_, ?_, ?_⟩ <;> rfl

@[simp] theorem answerWaiter_calm (s : State) (q : Place) (lost : Bool) (F w : Nat) (x : Waiter) : calm (answerWaiter s q lost F w x) s := by
  unfold answerWaiter
  split
  · exact calm_refl _
  · exact calm_trans (answer_calm _ _ _ _) (sectorReports_calm _ _ _ _ _ _ _)

@[simp] theorem joinFill_calm (s : State) (i line : Nat) (w : Waiter) : calm (joinFill s i line w) s := by
  unfold joinFill
  dsimp only
  split
  · exact setSlice_calm _ _ _
  · split
    · exact answerWaiter_calm _ _ _ _ _ _
    · exact calm_refl _

@[simp] theorem runEffs_calm (s : State) (base : Nat) (l : List SliceEff) : calm (runEffs s base l) s := by
  refine foldl_calm (fun s e => ?_) _ _
  cases e with
  | answer n dt =>
    dsimp only
    split
    · exact answer_calm _ _ _ _
    · exact calm_refl _
  | send P c => exact sendCtrl_calm _ _ _
  | join i line w => exact joinFill_calm _ _ _ _

@[simp] theorem noteAct_calm (s : State) (i pc : Nat) : calm (noteAct s i pc) s := by
  exact mapSlice_calm _ _ _

@[simp] theorem endTurn_calm (t : Turn) (i pc : Nat) : calm (endTurn t i pc) t.s := by
  unfold endTurn
  dsimp only
  refine calm_trans ?_ (noteAct_calm t.s i pc)
  split
  · exact runEffs_calm _ _ _
  · split
    · exact runEffs_calm _ _ _
    · split
      · refine calm_trans (runEffs_calm _ _ _) ?_
        split
        · exact calm_trans (mapSlice_calm _ _ _) (setSliceStatus_calm _ _ _)
        · exact calm_refl _
      · refine calm_trans (mapSlice_calm _ _ _) ?_
        split
        · exact setSliceStatus_calm _ _ _
        · exact calm_refl _

@[simp] theorem serve_calm (req : Nat) (j : Fin 5) (q : Place) (r : Req) (s : State) : (serve req j q r s).beat = s.beat ∧ (serve req j q r s).sup = s.sup ∧ (serve req j q r s).flash = s.flash ∧ (serve req j q r s).fuses = s.fuses ∧ (serve req j q r s).shelf = s.shelf ∧ (serve req j q r s).clm = s.clm ∧ (serve req j q r s).granules = s.granules ∧ (serve req j q r s).plan = s.plan ∧ sramsOf (serve req j q r s).csvs = sramsOf s.csvs := by
  unfold serve
  split
  · exact calmV_of (calm_trans (answer_calm _ _ _ _) (noteAct_calm _ _ _))
  · split
    · exact calmV_of (calm_trans (endTurn_calm _ _ _) (passShared_calm _ _ _ _))
    · exact calmV_trans (calmV_of (endTurn_calm _ _ _)) (access_calm _ _ _ _)

@[simp] theorem landEntry_calm (s : State) (i key : Nat) (e : WbEntry) : (landEntry s i key e).beat = s.beat ∧ (landEntry s i key e).sup = s.sup ∧ (landEntry s i key e).flash = s.flash ∧ (landEntry s i key e).fuses = s.fuses ∧ (landEntry s i key e).shelf = s.shelf ∧ (landEntry s i key e).clm = s.clm ∧ (landEntry s i key e).granules = s.granules ∧ (landEntry s i key e).plan = s.plan ∧ sramsOf (landEntry s i key e).csvs = sramsOf s.csvs := by
  unfold landEntry
  dsimp only
  split
  · exact calmV_refl _
  · refine foldl_calmV (fun s k => ?_) _ _
    split
    · exact calmV_trans (calmV_of (noteSector_calm _ _ _ _ _ _)) (vaultPut_calm _ _ _ _ _)
    · exact calmV_refl _

@[simp] theorem rangeDone_calm (t : Turn) (n : Nat) (r : Req) (dt : Nat) : calm (rangeDone t n r dt).s t.s := by
  dsimp only [rangeDone]
  refine ⟨?_, ?_, ?_, ?_, ?_, ?_, ?_, ?_, ?_, ?_⟩ <;> rfl

@[simp] theorem rangeWaits_calm (t : Turn) (q : Place) (n : Nat) (r : Req) (key : Nat) : calm (rangeWaits t q n r key).s t.s := by
  dsimp only [rangeWaits]
  refine ⟨?_, ?_, ?_, ?_, ?_, ?_, ?_, ?_, ?_, ?_⟩ <;> rfl

@[simp] theorem rangePrefetch_calm (q : Place) (n : Nat) (r : Req) (s : State) : (rangePrefetch q n r s).s.beat = s.beat ∧ (rangePrefetch q n r s).s.sup = s.sup ∧ (rangePrefetch q n r s).s.flash = s.flash ∧ (rangePrefetch q n r s).s.fuses = s.fuses ∧ (rangePrefetch q n r s).s.shelf = s.shelf ∧ (rangePrefetch q n r s).s.clm = s.clm ∧ (rangePrefetch q n r s).s.granules = s.granules ∧ (rangePrefetch q n r s).s.plan = s.plan ∧ sramsOf ((rangePrefetch q n r s).s).csvs = sramsOf s.csvs := by
  dsimp only [rangePrefetch]
  refine ⟨?_, ?_, ?_, ?_, ?_, ?_, ?_, ?_, ?_⟩ <;> (first | rfl | (simp; done) | ((repeat' split) <;> (first | rfl | (simp_all; done))))

@[simp] theorem rangeFlush_calm (q : Place) (n : Nat) (r : Req) (s : State) : calm (rangeFlush q n r s).s s := by
  dsimp only [rangeFlush]
  refine ⟨?_, ?_, ?_, ?_, ?_, ?_, ?_, ?_, ?_, ?_⟩ <;> (first | rfl | (simp; done) | ((repeat' split) <;> (first | rfl | (simp_all; done))))

@[simp] theorem rangeInvalidate_calm (q : Place) (n : Nat) (r : Req) (s : State) : calm (rangeInvalidate q n r s).s s := by
  dsimp only [rangeInvalidate]
  refine ⟨?_, ?_, ?_, ?_, ?_, ?_, ?_, ?_, ?_, ?_⟩ <;> (first | rfl | (simp; done) | ((repeat' split) <;> (first | rfl | (simp_all; done))))

@[simp] theorem rangeDead_calm (q : Place) (n : Nat) (r : Req) (s : State) : calm (rangeDead q n r s).s s := by
  dsimp only [rangeDead]
  refine ⟨?_, ?_, ?_, ?_, ?_, ?_, ?_, ?_, ?_, ?_⟩ <;> (first | rfl | (simp; done) | ((repeat' split) <;> (first | rfl | (simp_all; done))))

@[simp] theorem takeFreed_calm (s : State) (i key : Nat) : calm (takeFreed s i key) s := by
  unfold takeFreed
  dsimp only
  split
  · exact calm_refl _
  · split
    · exact ⟨rfl, rfl, rfl, rfl, rfl, rfl, rfl, rfl, rfl, rfl⟩
    · exact calm_refl _

@[simp] theorem freeEntry_calm (s : State) (i key : Nat) : calm (freeEntry s i key) s :=
  calm_trans (takeFreed_calm _ _ _) (mapSlice_calm _ _ _)

@[simp] theorem landNow_calm (s : State) (i key : Nat) (e : WbEntry) : (landNow s i key e).beat = s.beat ∧ (landNow s i key e).sup = s.sup ∧ (landNow s i key e).flash = s.flash ∧ (landNow s i key e).fuses = s.fuses ∧ (landNow s i key e).shelf = s.shelf ∧ (landNow s i key e).clm = s.clm ∧ (landNow s i key e).granules = s.granules ∧ (landNow s i key e).plan = s.plan ∧ sramsOf (landNow s i key e).csvs = sramsOf s.csvs := by
  unfold landNow
  dsimp only
  refine calmV_trans (foldl_calmV (fun s w => ?_) _ _) ?_
  · refine calmV_of (calm_trans (runEffs_calm _ _ _) ?_)
    split
    · exact mapSlice_calm _ _ _
    · exact calm_refl _
  refine calmV_trans (calmV_of (calm_trans (runEffs_calm _ _ _) (freeEntry_calm _ _ _))) ?_
  exact calmV_trans (u := landEntry s i key e) ⟨rfl, rfl, rfl, rfl, rfl, rfl, rfl, rfl, rfl⟩ (landEntry_calm _ _ _ _)

@[simp] theorem purgeHalf_calm (s : State) (i set way : Nat) (h : Bool) (l : Line) : (purgeHalf s i set way h l).beat = s.beat ∧ (purgeHalf s i set way h l).sup = s.sup ∧ (purgeHalf s i set way h l).flash = s.flash ∧ (purgeHalf s i set way h l).fuses = s.fuses ∧ (purgeHalf s i set way h l).shelf = s.shelf ∧ (purgeHalf s i set way h l).clm = s.clm ∧ (purgeHalf s i set way h l).granules = s.granules ∧ (purgeHalf s i set way h l).plan = s.plan ∧ sramsOf (purgeHalf s i set way h l).csvs = sramsOf s.csvs := by
  unfold purgeHalf
  dsimp only
  refine calmV_trans (calmV_of (mapSlice_calm _ _ _)) (calmV_trans (landEntry_calm _ _ _ _) (foldl_calmV (fun s k => ?_) _ _))
  repeat' split
  all_goals first | exact calmV_of (noteSector_calm _ _ _ _ _ _) | exact calmV_refl _

@[simp] theorem poisonFill_calm (s : State) (q : Place) : calm (poisonFill s q) s := by
  dsimp only [poisonFill]
  refine ⟨?_, ?_, ?_, ?_, ?_, ?_, ?_, ?_, ?_, ?_⟩ <;> (first | rfl | (simp; done) | ((repeat' split) <;> (first | rfl | (simp_all; done))))

@[simp] theorem purge_calm (s : State) (pick : Nat → Nat → Line → Bool) (pickWb : WbEntry → Bool) : (purge s pick pickWb).beat = s.beat ∧ (purge s pick pickWb).sup = s.sup ∧ (purge s pick pickWb).flash = s.flash ∧ (purge s pick pickWb).fuses = s.fuses ∧ (purge s pick pickWb).shelf = s.shelf ∧ (purge s pick pickWb).clm = s.clm ∧ (purge s pick pickWb).granules = s.granules ∧ (purge s pick pickWb).plan = s.plan ∧ sramsOf (purge s pick pickWb).csvs = sramsOf s.csvs := by
  unfold purge
  refine foldl_calmV (fun s x => ?_) _ _
  dsimp only
  refine calmV_trans (foldl_calmV (fun s f => foldl_calmV (fun s h => ?_) _ _) _ _)
    (foldl_calmV (fun s e => landNow_calm _ _ _ _) _ _)
  split
  · split
    · exact purgeHalf_calm _ _ _ _ _ _
    · exact calmV_refl _
  · exact calmV_refl _

@[simp] theorem ackEntry_calm (s : State) (i key a : Nat) : calm (ackEntry s i key a) s := by
  dsimp only [ackEntry]
  refine ⟨?_, ?_, ?_, ?_, ?_, ?_, ?_, ?_, ?_, ?_⟩ <;> (first | rfl | (simp; done) | ((repeat' split) <;> (first | rfl | (simp_all; done))))

@[simp] theorem dropAtVault_calm (s : State) (P : Nat) (c : CtrlReq) : calm (dropAtVault s P c).1 s := by
  dsimp only [dropAtVault]
  refine ⟨?_, ?_, ?_, ?_, ?_, ?_, ?_, ?_, ?_, ?_⟩ <;> (first | rfl | (simp; done) | ((repeat' split) <;> (first | rfl | (simp_all; done))))

@[simp] theorem atWindow_calm (s : State) (P : Nat) (c : CtrlReq) (a : Nat) : (atWindow s P c a).1.beat = s.beat ∧ (atWindow s P c a).1.sup = s.sup ∧ (atWindow s P c a).1.flash = s.flash ∧ (atWindow s P c a).1.fuses = s.fuses ∧ (atWindow s P c a).1.shelf = s.shelf ∧ (atWindow s P c a).1.clm = s.clm ∧ (atWindow s P c a).1.granules = s.granules ∧ (atWindow s P c a).1.plan = s.plan ∧ sramsOf ((atWindow s P c a).1).csvs = sramsOf s.csvs := by
  dsimp only [atWindow]
  refine ⟨?_, ?_, ?_, ?_, ?_, ?_, ?_, ?_, ?_⟩ <;> (first | rfl | (simp; done) | ((repeat' split) <;> (first | rfl | (simp_all; done))))

@[simp] theorem returnLoad_calm (s : State) (P pc n : Nat) (c : CtrlReq) (r : Req) : calm (returnLoad s P pc n c r) s := by
  dsimp only [returnLoad]
  refine ⟨?_, ?_, ?_, ?_, ?_, ?_, ?_, ?_, ?_, ?_⟩ <;> (first | rfl | (simp; done))

@[simp] theorem setCsvF_calm (s : State) (P : Nat) (f : Csv → Csv) : calmC (setCsvF s P f) s := by
  dsimp only [setCsvF]
  refine ⟨?_, ?_, ?_, ?_, ?_, ?_, ?_, ?_, ?_⟩ <;> rfl

@[simp] theorem setCsvF_srams (s : State) (P : Nat) (f : Csv → Csv) (h : ∀ c, (f c).isram = c.isram ∧ (f c).dsram = c.dsram) :
    sramsOf (setCsvF s P f).csvs = sramsOf s.csvs :=
  setCsv_srams _ _ _ (by rw [(h _).1, (h _).2]; rfl)

@[simp] theorem sramReport_calm (s : State) (P off : Nat) (f : Checked) : calm (sramReport s P off f) s := by
  dsimp only [sramReport]
  refine ⟨?_, ?_, ?_, ?_, ?_, ?_, ?_, ?_, ?_, ?_⟩ <;> (first | rfl | (simp; done))

@[simp] theorem sramFault_calm (s : State) (P off : Nat) (f : Checked) : calm (sramFault s P off f) s := by
  dsimp only [sramFault]
  refine ⟨?_, ?_, ?_, ?_, ?_, ?_, ?_, ?_, ?_, ?_⟩ <;> (first | rfl | (simp; done))

@[simp] theorem dsramSpan_calm (s : State) (P a n : Nat) : calm (dsramSpan s P a n).1 s := by
  dsimp only [dsramSpan]
  refine ⟨?_, ?_, ?_, ?_, ?_, ?_, ?_, ?_, ?_, ?_⟩ <;> (first | rfl | (simp; done))

@[simp] theorem rowAt_calm (s : State) (P a t : Nat) : calm (rowAt s P a t).1 s := by
  dsimp only [rowAt]
  refine ⟨?_, ?_, ?_, ?_, ?_, ?_, ?_, ?_, ?_, ?_⟩ <;> (first | rfl | (simp; done) | ((repeat' split) <;> (first | rfl | (simp_all; done))))

@[simp] theorem unitTrap_calm (s : State) (P : Nat) (u : UnitWork) : calmC (unitTrap s P u) s := by
  dsimp only [unitTrap]
  refine ⟨?_, ?_, ?_, ?_, ?_, ?_, ?_, ?_, ?_⟩ <;> (first | rfl | (simp; done) | ((repeat' split) <;> (first | rfl | (simp_all; done))))

@[simp] theorem unitStep_calm (s : State) (P : Nat) (u : UnitWork) (t : Nat) : calmC (unitStep s P u t) s := by
  unfold unitStep
  dsimp only
  have h0 : calmC (setCsvF s P fun c => landLines c (u.issue + 1 + t)) s := setCsvF_calm _ _ _
  split
  · rename_i heq; exact calmC_trans (unitTrap_calm _ _ _) (calmC_trans (calmC_of (calm_fst heq (rowAt_calm _ _ _ _))) h0)
  · rename_i heq
    have h1 := calmC_trans (calmC_of (calm_fst heq (rowAt_calm _ _ _ _))) h0
    split
    · exact calmC_trans (setCsvF_calm _ _ _) h1
    · split
      · rename_i heq2; exact calmC_trans (unitTrap_calm _ _ _) (calmC_trans (calmC_of (calm_fst heq2 (rowAt_calm _ _ _ _))) h1)
      · rename_i heq2; exact calmC_trans (setCsvF_calm _ _ _) (calmC_trans (calmC_of (calm_fst heq2 (rowAt_calm _ _ _ _))) h1)

@[simp] theorem runUnit_calm (s : State) (P cc : Nat) : calmC (runUnit s P cc) s := by
  unfold runUnit
  split
  · exact calmC_refl _
  · refine foldl_calmC (fun s t => ?_) _ _
    split
    · split
      · exact unitStep_calm _ _ _ _
      · exact calmC_refl _
    · exact calmC_refl _

@[simp] theorem catchUp_calm (s : State) (P cc : Nat) : calmC (catchUp s P cc) s := by
  exact calmC_trans (setCsvF_calm _ _ _) (runUnit_calm _ _ _)

@[simp] theorem csvStart_calm (s : State) (P : Nat) : calmC (csvStart s P) s := by
  dsimp only [csvStart]
  refine ⟨?_, ?_, ?_, ?_, ?_, ?_, ?_, ?_, ?_⟩ <;> rfl

@[simp] theorem csvHalt_calm (s : State) (P : Nat) : calmC (csvHalt s P) s := by
  dsimp only [csvHalt]
  refine ⟨?_, ?_, ?_, ?_, ?_, ?_, ?_, ?_, ?_⟩ <;> rfl

@[simp] theorem csvDoorbell_calm (s : State) (P n t : Nat) : calmC (csvDoorbell s P n t) s := by
  dsimp only [csvDoorbell]
  refine ⟨?_, ?_, ?_, ?_, ?_, ?_, ?_, ?_, ?_⟩ <;> (first | rfl | (simp; done) | ((repeat' split) <;> (first | rfl | (simp_all; done))))

@[simp] theorem csvRegWrite_calm (s : State) (P off v t : Nat) : calmC (csvRegWrite s P off v t) s := by
  dsimp only [csvRegWrite]
  refine ⟨?_, ?_, ?_, ?_, ?_, ?_, ?_, ?_, ?_⟩ <;> (first | rfl | (simp; done) | ((repeat' split) <;> (first | rfl | (simp_all; done))))

@[simp] theorem windowWord_calm (s : State) (P off : Nat) : calm (windowWord s P off).1 s := by
  dsimp only [windowWord]
  refine ⟨?_, ?_, ?_, ?_, ?_, ?_, ?_, ?_, ?_, ?_⟩ <;> (first | rfl | (simp; done) | ((repeat' split) <;> (first | rfl | (simp_all; done))))

@[simp] theorem windowRead_calm (s : State) (P n : Nat) (r : Req) (base pc : Nat) : calm (windowRead s P n r base pc) s := by
  unfold windowRead
  dsimp only
  generalize List.filter _ _ = l
  have h := foldl_calm_fst (g := fun (a : State × Nat × Option Nat) i =>
    if (!(pchOf s P).nbMode && decide (base + 4 * i ≠ 0x21008)) = true then a
    else match windowWord a.1 P (base + 4 * i) with
      | (s, some d) => (s, a.2.1 + d * 2 ^ (32 * i), a.2.2)
      | (s, none) => (s, a.2.1, some (a.2.2.getD (base + 4 * i)))) (fun a i => by
    split
    · exact calm_refl _
    · split
      · rename_i heq; exact calm_fst heq (windowWord_calm _ _ _)
      · rename_i heq; exact calm_fst heq (windowWord_calm _ _ _)) l (s, 0, none)
  refine calm_trans (answer_calm _ _ _ _) ?_
  split
  · exact calm_trans (raiseFaultO_calm _ _ _) h
  · exact h

@[simp] theorem windowWriteWord_calm (s : State) (P E off d mask : Nat) : calmC (windowWriteWord s P E off d mask) s := by
  unfold windowWriteWord
  dsimp only
  repeat' split
  all_goals first | exact setCsv_calm _ _ _ | exact calmC_trans (calmC_of (sramFault_calm _ _ _ _)) (setCsv_calm _ _ _) | exact csvRegWrite_calm _ _ _ _ _ | exact calmC_refl _

@[simp] theorem windowWrite_calm (s : State) (P n : Nat) (r : Req) (base E : Nat) (ack : Nat) : calmC (windowWrite s P n r base E ack) s := by
  unfold windowWrite
  dsimp only
  refine calmC_trans (calmC_of (answer_calm _ _ _ _)) ?_
  split
  · exact calmC_refl _
  · refine foldl_calmC (fun s i => ?_) _ _
    split
    · exact calmC_refl _
    · exact windowWriteWord_calm _ _ _ _ _ _

@[simp] theorem readNow_calm (s : State) (P req : Nat) (r : Req) (base pc : Nat) : calmC (readNow s P req r base pc) s := by
  exact calmC_trans (calmC_of (windowRead_calm _ _ _ _ _ _)) (catchUp_calm _ _ _)

@[simp] theorem writeNow_calm (s : State) (P req : Nat) (r : Req) (base t : Nat) : calmC (writeNow s P req r base t) s := by
  exact calmC_trans (windowWrite_calm _ _ _ _ _ _ _) (calmC_trans (setCsvF_calm _ _ _) (runUnit_calm _ _ _))

@[simp] theorem trapCsv_calm (s : State) (P cause : Nat) : calmC (trapCsv s P cause) s := by
  dsimp only [trapCsv]
  refine ⟨?_, ?_, ?_, ?_, ?_, ?_, ?_, ?_, ?_⟩ <;> rfl

@[simp] theorem retire_calm (s : State) (h : HartAt) (c : Csv) (issue : Nat) : calmC (retire s h c issue) s := by
  dsimp only [retire]
  refine ⟨?_, ?_, ?_, ?_, ?_, ?_, ?_, ?_, ?_⟩ <;> rfl

@[simp] theorem codeWord_calm (s : State) (P a : Nat) : calm (codeWord s P a).1 s := by
  dsimp only [codeWord]
  refine ⟨?_, ?_, ?_, ?_, ?_, ?_, ?_, ?_, ?_, ?_⟩ <;> (first | rfl | (simp; done))

@[simp] theorem fetchRv_calm (s : State) (P : Nat) : calm (fetchRv s P).1 s := by
  unfold fetchRv
  dsimp only
  split
  · exact calm_refl _
  · split
    · rename_i heq; exact calm_fst heq (codeWord_calm _ _ _)
    · rename_i heq
      have h := calm_fst heq (codeWord_calm _ _ _)
      split
      · split <;> exact h
      · split
        · exact h
        · split
          · exact h
          · split
            · rename_i heq2; exact calm_trans (calm_fst heq2 (codeWord_calm _ _ _)) h
            · rename_i heq2; exact calm_trans (calm_fst heq2 (codeWord_calm _ _ _)) h

@[simp] theorem jumpTo_calm (s : State) (h : HartAt) (target : Word) (rd : Nat) : calmC (jumpTo s h target rd) s := by
  dsimp only [jumpTo]
  refine ⟨?_, ?_, ?_, ?_, ?_, ?_, ?_, ?_, ?_⟩ <;> rfl

@[simp] theorem rvBranch_calm (s : State) (h : HartAt) : calmC (rvBranch s h) s := by
  dsimp only [rvBranch]
  refine ⟨?_, ?_, ?_, ?_, ?_, ?_, ?_, ?_, ?_⟩ <;> (first | rfl | (simp; done) | ((repeat' split) <;> (first | rfl | (simp_all; done))))

@[simp] theorem rvLoad_calm (s : State) (h : HartAt) : calmC (rvLoad s h) s := by
  unfold rvLoad
  dsimp only
  split
  · simp [calmC]
  · split
    · simp [calmC]
    · split
      · rename_i heq; exact calmC_trans (retire_calm _ _ _ _) (calmC_of (calm_fst heq (windowWord_calm _ _ _)))
      · simp [calmC]

@[simp] theorem rvStore_calm (s : State) (h : HartAt) : calmC (rvStore s h) s := by
  dsimp only [rvStore]
  refine ⟨?_, ?_, ?_, ?_, ?_, ?_, ?_, ?_, ?_⟩ <;> (first | rfl | (simp; done))

@[simp] theorem nbBurst_calm (write : Bool) (s : State) (h : HartAt) : calmC (nbBurst write s h) s := by
  dsimp only [nbBurst]
  refine ⟨?_, ?_, ?_, ?_, ?_, ?_, ?_, ?_, ?_⟩ <;> (first | rfl | (simp; done))

@[simp] theorem burstRead_calm (s : State) (P line cc : Nat) : calmC (burstRead s P line cc).1 s := by
  dsimp only [burstRead]
  refine ⟨?_, ?_, ?_, ?_, ?_, ?_, ?_, ?_, ?_⟩ <;> (first | rfl | (simp; done) | ((repeat' split) <;> (first | rfl | (simp_all; done))))

@[simp] theorem burstWrite_calm (s : State) (P line dst : Nat) : (burstWrite s P line dst).beat = s.beat ∧ (burstWrite s P line dst).sup = s.sup ∧ (burstWrite s P line dst).flash = s.flash ∧ (burstWrite s P line dst).fuses = s.fuses ∧ (burstWrite s P line dst).shelf = s.shelf ∧ (burstWrite s P line dst).clm = s.clm ∧ (burstWrite s P line dst).granules = s.granules ∧ (burstWrite s P line dst).plan = s.plan ∧ sramsOf (burstWrite s P line dst).csvs = sramsOf s.csvs := by
  unfold burstWrite
  generalize List.range 4 = l
  generalize List.range 8 = m
  refine ⟨?_, ?_, ?_, ?_, ?_, ?_, ?_, ?_, ?_⟩ <;>
  · first | refine foldl_field _ _ (fun s x => ?_) _ _ | refine foldl_srams _ (fun s x => ?_) _ _
    dsimp only
    split <;> simp

theorem waitUntil_calm {ok : HartAt → Bool} {act : State → HartAt → State} (h : ∀ s x, calmC (act s x) s) (s : State) (x : HartAt) :
    calmC (waitUntil ok act s x) s := by
  unfold waitUntil
  split
  · exact h _ _
  · exact setCsv_calm _ _ _

@[simp] theorem startUnit_calm (s : State) (h : HartAt) (score : Bool) (rows second n : Nat) : calmC (startUnit s h score rows second n) s := by
  dsimp only [startUnit]
  refine ⟨?_, ?_, ?_, ?_, ?_, ?_, ?_, ?_, ?_⟩ <;> (first | rfl | (simp; done) | ((repeat' split) <;> (first | rfl | (simp_all; done))))

@[simp] theorem setRatio_calm (s : State) (w k : Nat) (clock : WingClock) : calm (setRatio s w k clock) s := by
  dsimp only [setRatio]
  refine ⟨?_, ?_, ?_, ?_, ?_, ?_, ?_, ?_, ?_, ?_⟩ <;> rfl

@[simp] theorem countRatio_calm (s : State) : calm (countRatio s) s := by
  dsimp only [countRatio]
  refine ⟨?_, ?_, ?_, ?_, ?_, ?_, ?_, ?_, ?_, ?_⟩ <;> rfl

@[simp] theorem runWing_calm (s : State) (w k : Nat) : calm (runWing s w k) s := by
  dsimp only [runWing]
  refine ⟨?_, ?_, ?_, ?_, ?_, ?_, ?_, ?_, ?_, ?_⟩ <;> (first | rfl | (simp; done))

@[simp] theorem stopWing_calm (s : State) (w : Nat) : calm (stopWing s w) s := by
  dsimp only [stopWing]
  refine ⟨?_, ?_, ?_, ?_, ?_, ?_, ?_, ?_, ?_, ?_⟩ <;> (first | rfl | (simp; done))

@[simp] theorem offWing_calm (s : State) (w : Nat) : calm (offWing s w) s := by
  dsimp only [offWing]
  refine ⟨?_, ?_, ?_, ?_, ?_, ?_, ?_, ?_, ?_, ?_⟩ <;> rfl

@[simp] theorem beginWake_calm (s : State) (k : SwKind) (i ratio : Nat) : calm (beginWake s k i ratio) s := by
  dsimp only [beginWake]
  refine ⟨?_, ?_, ?_, ?_, ?_, ?_, ?_, ?_, ?_, ?_⟩ <;> (first | rfl | (simp; done) | ((repeat' split) <;> (first | rfl | (simp_all; done))))

@[simp] theorem setRun_calm (s : State) (p : Nat) (r : RunCtx) : calm (setRun s p r) s := by
  dsimp only [setRun]
  refine ⟨?_, ?_, ?_, ?_, ?_, ?_, ?_, ?_, ?_, ?_⟩ <;> rfl

@[simp] theorem setRunState_calm (s : State) (p : Nat) (t : RunState) : calm (setRunState s p t) s := by
  dsimp only [setRunState]
  refine ⟨?_, ?_, ?_, ?_, ?_, ?_, ?_, ?_, ?_, ?_⟩ <;> rfl

@[simp] theorem postCompletion_calm (s : State) (p : Nat) (r : RunCtx) (kind status index : Nat) (rest : List Nat) (tier beat : Nat) : calm (postCompletion s p r kind status index rest tier beat) s := by
  dsimp only [postCompletion]
  refine ⟨?_, ?_, ?_, ?_, ?_, ?_, ?_, ?_, ?_, ?_⟩ <;> (first | rfl | (simp; done))

@[simp] theorem stepCompletion_calm (s : State) (p : Nat) (r : RunCtx) (l : LiveStep) (status : Nat) : calm (stepCompletion s p r l status) s := by
  dsimp only [stepCompletion]
  refine ⟨?_, ?_, ?_, ?_, ?_, ?_, ?_, ?_, ?_, ?_⟩ <;> (first | rfl | (simp; done))

@[simp] theorem runCompletion_calm (s : State) (p : Nat) (r : RunCtx) (status : Nat) : calm (runCompletion s p r status) s := by
  dsimp only [runCompletion]
  refine ⟨?_, ?_, ?_, ?_, ?_, ?_, ?_, ?_, ?_, ?_⟩ <;> (first | rfl | (simp; done))

@[simp] theorem commitStep_calm (s : State) (p : Nat) (r : RunCtx) (e : EvalStep) (st : StepRec) (t : Nat) (b : Tier) : calm (commitStep s p r e st t b) s := by
  dsimp only [commitStep]
  refine ⟨?_, ?_, ?_, ?_, ?_, ?_, ?_, ?_, ?_, ?_⟩ <;> rfl

@[simp] theorem tryBudget_calm (s : State) (p : Nat) (r : RunCtx) (e : EvalStep) (st : StepRec) : calm (tryBudget s p r e st) s := by
  dsimp only [tryBudget]
  refine ⟨?_, ?_, ?_, ?_, ?_, ?_, ?_, ?_, ?_, ?_⟩ <;> (first | rfl | (simp; done) | ((repeat' split) <;> (first | rfl | (simp_all; done))))

@[simp] theorem tryGate_calm (s : State) (p : Nat) (r : RunCtx) (e : EvalStep) (st : StepRec) : calm (tryGate s p r e st) s := by
  dsimp only [tryGate]
  refine ⟨?_, ?_, ?_, ?_, ?_, ?_, ?_, ?_, ?_, ?_⟩ <;> (first | rfl | (simp; done))

@[simp] theorem startWings_calm (s : State) (p : Nat) (l : LiveStep) : calm (startWings s p l) s := by
  dsimp only [startWings]
  refine ⟨?_, ?_, ?_, ?_, ?_, ?_, ?_, ?_, ?_, ?_⟩ <;> (first | rfl | (simp; done) | ((first | refine (foldl_field _ _ (fun s x => ?_) _ _).trans ?_ | refine (foldl_srams _ (fun s x => ?_) _ _).trans ?_) <;> (repeat' split) <;> (first | rfl | (simp_all; done))))

@[simp] theorem setExec_calm (s : State) (p : Nat) (l : LiveStep) : calm (setExec s p l) s := by
  dsimp only [setExec]
  refine ⟨?_, ?_, ?_, ?_, ?_, ?_, ?_, ?_, ?_, ?_⟩ <;> (first | rfl | (simp; done) | ((repeat' split) <;> (first | rfl | (simp_all; done))))

@[simp] theorem reportPeek_calm (s : State) (a : Nat) : calm (reportPeek s a) s := by
  unfold reportPeek
  split
  · refine foldl_calm (fun s h => ?_) _ _
    dsimp only
    split
    · exact noteSector_calm _ _ _ _ _ _
    · exact vaultNote_calm _ _ _ _ _
  · split
    · exact calm_refl _
    · exact foldl_calm (fun s i => shelfReport_calm _ _ _ _) _ _
  · exact calm_refl _

@[simp] theorem peekBytes_calm (s : State) (a n : Nat) : calm (peekBytes s a n).1 s := by
  dsimp only [peekBytes]
  refine ⟨?_, ?_, ?_, ?_, ?_, ?_, ?_, ?_, ?_, ?_⟩ <;> (first | rfl | (simp; done) | ((repeat' split) <;> (first | rfl | (simp_all; done))))

@[simp] theorem startLaunch_calm (s : State) (cab entry : Nat) (d : BitVec 512) : calm (startLaunch s cab entry d) s := by
  dsimp only [startLaunch]
  refine ⟨?_, ?_, ?_, ?_, ?_, ?_, ?_, ?_, ?_, ?_⟩ <;> (first | rfl | (simp; done))

@[simp] theorem offDom_calm (s : State) (k : SwKind) (i : Nat) : calm (offDom s k i) s := by
  dsimp only [offDom]
  refine ⟨?_, ?_, ?_, ?_, ?_, ?_, ?_, ?_, ?_, ?_⟩ <;> (first | rfl | (simp; done) | ((repeat' split) <;> (first | rfl | (simp_all; done))))

@[simp] theorem switchOffKind_calm (s : State) (k : SwKind) : calm (switchOffKind s k) s := by
  refine foldl_calm (fun s d => ?_) _ _
  split
  · exact offDom_calm _ _ _
  · exact calm_refl _

@[simp] theorem switchOffIdle_calm (s : State) : calm (switchOffIdle s) s := by
  dsimp only [switchOffIdle]
  refine ⟨?_, ?_, ?_, ?_, ?_, ?_, ?_, ?_, ?_, ?_⟩ <;> (first | rfl | (simp; done))

@[simp] theorem meterEnded_calm (s : State) (p : Nat) (l : LiveStep) : calm (meterEnded s p l) s := by
  unfold meterEnded
  refine foldl_calm (fun s x => ?_) _ _
  dsimp only
  (repeat' split) <;> first | exact charge_calm _ _ _ _ | exact calm_refl _

@[simp] theorem stopWings_calm (s : State) (p : Nat) : calm (stopWings s p) s := by
  dsimp only [stopWings]
  refine ⟨?_, ?_, ?_, ?_, ?_, ?_, ?_, ?_, ?_, ?_⟩ <;> (first | rfl | (simp; done))

@[simp] theorem offWings_calm (s : State) (p : Nat) : calm (offWings s p) s := by
  dsimp only [offWings]
  refine ⟨?_, ?_, ?_, ?_, ?_, ?_, ?_, ?_, ?_, ?_⟩ <;> (first | rfl | (simp; done))

@[simp] theorem endWindows_calm (s : State) (p : Nat) : calm (endWindows s p) s := by
  dsimp only [endWindows]
  refine ⟨?_, ?_, ?_, ?_, ?_, ?_, ?_, ?_, ?_, ?_⟩ <;> (first | rfl | (simp; done) | ((repeat' split) <;> (first | rfl | (simp_all; done))))

@[simp] theorem endRun_calm (s : State) (p : Nat) : calm (endRun s p) s := by
  dsimp only [endRun]
  refine ⟨?_, ?_, ?_, ?_, ?_, ?_, ?_, ?_, ?_, ?_⟩ <;> (first | rfl | (simp; done))

@[simp] theorem postpone_calm (s : State) (p : Nat) (l : LiveStep) : calm (postpone s p l).1 s := by
  dsimp only [postpone]
  refine ⟨?_, ?_, ?_, ?_, ?_, ?_, ?_, ?_, ?_, ?_⟩ <;> (first | rfl | (simp; done) | ((repeat' split) <;> (first | rfl | (simp_all; done))))

@[simp] theorem faultRings_calm (s : State) (p : Nat) : calm (faultRings s p) s := by
  dsimp only [faultRings]
  refine ⟨?_, ?_, ?_, ?_, ?_, ?_, ?_, ?_, ?_, ?_⟩ <;> (first | rfl | (simp; done))

@[simp] theorem faultUnits_calm (s : State) (p : Nat) : (faultUnits s p).beat = s.beat ∧ (faultUnits s p).sup = s.sup ∧ (faultUnits s p).flash = s.flash ∧ (faultUnits s p).fuses = s.fuses ∧ (faultUnits s p).shelf = s.shelf ∧ (faultUnits s p).clm = s.clm ∧ (faultUnits s p).dram = s.dram ∧ (faultUnits s p).granules = s.granules ∧ sramsOf (faultUnits s p).csvs = sramsOf s.csvs := by
  dsimp only [faultUnits]
  refine ⟨?_, ?_, ?_, ?_, ?_, ?_, ?_, ?_, ?_⟩ <;> rfl

@[simp] theorem faultDomains_calm (s : State) (p : Nat) (ended : List LiveStep) : calm (faultDomains s p ended) s := by
  unfold faultDomains
  dsimp only
  refine calm_trans (offWings_calm _ _) (foldl_calm (fun s k => foldl_calm (fun s d => ?_) _ _) _ _)
  split
  · exact offDom_calm _ _ _
  · exact calm_refl _

@[simp] theorem faultCredit_calm (s : State) (p : Nat) (r : RunCtx) : calm (faultCredit s p r) s := by
  dsimp only [faultCredit]
  refine ⟨?_, ?_, ?_, ?_, ?_, ?_, ?_, ?_, ?_, ?_⟩ <;> rfl

@[simp] theorem faultRun_calm (s : State) (p : Nat) : calm (faultRun s p) s := by
  dsimp only [faultRun]
  refine ⟨?_, ?_, ?_, ?_, ?_, ?_, ?_, ?_, ?_, ?_⟩ <;> (first | rfl | (simp; done) | ((repeat' split) <;> (first | rfl | (simp_all; done))))

@[simp] theorem setCtx_calm (s : State) (e x : Nat) (c : EngCtx) : calm (setCtx s e x c) s := by
  dsimp only [setCtx]
  refine ⟨?_, ?_, ?_, ?_, ?_, ?_, ?_, ?_, ?_, ?_⟩ <;> rfl

@[simp] theorem dueEntry_calm (s : State) (e pc : Nat) : calm (dueEntry s e pc) s := by
  unfold dueEntry
  generalize List.range 8 = l
  refine ⟨?_, ?_, ?_, ?_, ?_, ?_, ?_, ?_, ?_, ?_⟩ <;>
  · first | refine foldl_field _ _ (fun s x => ?_) _ _ | refine foldl_srams _ (fun s x => ?_) _ _
    split
    · rfl
    · first | refine foldl_field _ _ (fun s x => ?_) _ _ | refine foldl_srams _ (fun s x => ?_) _ _
      split
      · split <;> simp
      · rfl

@[simp] theorem refuse_calm (s : State) (e x cause pc : Nat) (c : EngCtx) : calm (refuse s e x cause pc c) s := by
  dsimp only [refuse]
  refine ⟨?_, ?_, ?_, ?_, ?_, ?_, ?_, ?_, ?_, ?_⟩ <;> (first | rfl | (simp; done) | ((repeat' split) <;> (first | rfl | (simp_all; done))))

@[simp] theorem takeDesc_calm (s : State) (e x pc : Nat) (j : EngJob) : calm (takeDesc s e x pc j) s := by
  dsimp only [takeDesc]
  refine ⟨?_, ?_, ?_, ?_, ?_, ?_, ?_, ?_, ?_, ?_⟩ <;> (first | rfl | (simp; done) | ((repeat' split) <;> (first | rfl | (simp_all; done))))

@[simp] theorem meetOff_calm (s : State) (e x : Nat) (j : EngJob) : calm (meetOff s e x j) s := by
  dsimp only [meetOff]
  refine ⟨?_, ?_, ?_, ?_, ?_, ?_, ?_, ?_, ?_, ?_⟩ <;> (first | rfl | (simp; done))

@[simp] theorem engRequest_calm (s : State) (e x : Nat) (c : EngCtx) (host : Bool) (origin : Origin) (kind : ReqKind) (a : Nat) (mask : BitVec 64) (d : BitVec 512) (skip : Bool) (pc : Nat) : calm (engRequest s e x c host origin kind a mask d skip pc) s := by
  dsimp only [engRequest]
  refine ⟨?_, ?_, ?_, ?_, ?_, ?_, ?_, ?_, ?_, ?_⟩ <;> (first | rfl | (simp; done) | ((repeat' split) <;> (first | rfl | (simp_all; done))))

@[simp] theorem poisonRead'_calm (s : State) (e x : Nat) (c : EngCtx) (why : Option (Nat × Nat × Nat × Nat)) : calm (poisonRead' s e x c why) s := by
  dsimp only [poisonRead']
  refine ⟨?_, ?_, ?_, ?_, ?_, ?_, ?_, ?_, ?_, ?_⟩ <;> (first | rfl | (simp; done) | ((repeat' split) <;> (first | rfl | (simp_all; done))))

@[simp] theorem acceptRead_calm (s : State) (e x n i pc : Nat) (c : EngCtx) (d : BitVec 512) (poison : Bool) (why : Option (Nat × Nat × Nat × Nat)) : calm (acceptRead s e x n i pc c d poison why) s := by
  dsimp only [acceptRead]
  refine ⟨?_, ?_, ?_, ?_, ?_, ?_, ?_, ?_, ?_, ?_⟩ <;> (first | rfl | (simp; done))

@[simp] theorem dropCtx_calm (s : State) (e x : Nat) : calm (dropCtx s e x) s := by
  dsimp only [dropCtx]
  refine ⟨?_, ?_, ?_, ?_, ?_, ?_, ?_, ?_, ?_, ?_⟩ <;> rfl

@[simp] theorem refuseBar2_calm (s : State) (port : Nat) : calm (refuseBar2 s port) s := by
  dsimp only [refuseBar2]
  refine ⟨?_, ?_, ?_, ?_, ?_, ?_, ?_, ?_, ?_, ?_⟩ <;> rfl

@[simp] theorem bar2Send_calm (s : State) (port tag a part : Nat) (kind : ReqKind) (lanes : BitVec 64) (d : BitVec 512) : calm (bar2Send s port tag a part kind lanes d) s := by
  dsimp only [bar2Send]
  refine ⟨?_, ?_, ?_, ?_, ?_, ?_, ?_, ?_, ?_, ?_⟩ <;> (first | rfl | (simp; done))

@[simp] theorem setRing_calm (s : State) (id : Nat) (r : Ring) : calm (setRing s id r) s := by
  dsimp only [setRing]
  refine ⟨?_, ?_, ?_, ?_, ?_, ?_, ?_, ?_, ?_, ?_⟩ <;> rfl

@[simp] theorem ignoreDoorbell_calm (s : State) (port : Nat) : calm (ignoreDoorbell s port) s := by
  dsimp only [ignoreDoorbell]
  refine ⟨?_, ?_, ?_, ?_, ?_, ?_, ?_, ?_, ?_, ?_⟩ <;> rfl

@[simp] theorem ringTail_calm (s : State) (port id : Nat) (r : Ring) (t : BitVec 16) : calm (ringTail s port id r t) s := by
  dsimp only [ringTail]
  refine ⟨?_, ?_, ?_, ?_, ?_, ?_, ?_, ?_, ?_, ?_⟩ <;> (first | rfl | (simp; done) | ((repeat' split) <;> (first | rfl | (simp_all; done))))

@[simp] theorem ringHeadTo_calm (s : State) (port id : Nat) (r : Ring) (h : BitVec 16) (arm : Bool) : calm (ringHeadTo s port id r h arm) s := by
  dsimp only [ringHeadTo]
  refine ⟨?_, ?_, ?_, ?_, ?_, ?_, ?_, ?_, ?_, ?_⟩ <;> (first | rfl | (simp; done))

@[simp] theorem doorbell_calm (port : Fin 8) (ring : Fin 32768) (be : BitVec 4) (value : BitVec 32) (s : State) : calm (doorbell port ring be value s) s := by
  dsimp only [doorbell]
  refine ⟨?_, ?_, ?_, ?_, ?_, ?_, ?_, ?_, ?_, ?_⟩ <;> (first | rfl | (simp; done) | ((repeat' split) <;> (first | rfl | (simp_all; done))))

@[simp] theorem accept_calm (s : State) (id : Nat) (r : Ring) (d : BitVec 512) (status : Nat) (sqHead : BitVec 16) : calm (accept s id r d status sqHead) s := by
  dsimp only [accept]
  refine ⟨?_, ?_, ?_, ?_, ?_, ?_, ?_, ?_, ?_, ?_⟩ <;> rfl

@[simp] theorem acknowledge_calm (s : State) (id : Nat) (d : BitVec 512) (sqHead : BitVec 16) (always : Bool) : calm (acknowledge s id d sqHead always) s := by
  dsimp only [acknowledge]
  refine ⟨?_, ?_, ?_, ?_, ?_, ?_, ?_, ?_, ?_, ?_⟩ <;> (first | rfl | (simp; done) | ((repeat' split) <;> (first | rfl | (simp_all; done))))

@[simp] theorem configWrite_calm (s : State) (port w : Nat) (v : Word) : calm (configWrite s port w v) s := by
  dsimp only [configWrite]
  refine ⟨?_, ?_, ?_, ?_, ?_, ?_, ?_, ?_, ?_, ?_⟩ <;> (first | rfl | (simp; done) | ((repeat' split) <;> (first | rfl | (simp_all; done))))

@[simp] theorem setRegion_calm (s : State) (r : Nat) (x : Region) : calm (setRegion s r x) s := by
  dsimp only [setRegion]
  refine ⟨?_, ?_, ?_, ?_, ?_, ?_, ?_, ?_, ?_, ?_⟩ <;> rfl

@[simp] theorem logMark_calm (s : State) (r synd : Nat) : calm (logMark s r synd) s := by
  dsimp only [logMark]
  refine ⟨?_, ?_, ?_, ?_, ?_, ?_, ?_, ?_, ?_, ?_⟩ <;> (first | rfl | (simp; done))

@[simp] theorem runRegion_calm (s : State) (first : Bool) (r : Nat) (sensor : BitVec 12) (model : Int) : calm (runRegion s first r sensor model) s := by
  dsimp only [runRegion]
  refine ⟨?_, ?_, ?_, ?_, ?_, ?_, ?_, ?_, ?_, ?_⟩ <;> (first | rfl | (simp; done))

@[simp] theorem setAllowed_calm (s : State) : calm (setAllowed s) s := by
  dsimp only [setAllowed]
  refine ⟨?_, ?_, ?_, ?_, ?_, ?_, ?_, ?_, ?_, ?_⟩ <;> rfl

@[simp] theorem slowDown_calm (s : State) (p r : Nat) : calm (slowDown s p r) s := by
  dsimp only [slowDown]
  refine ⟨?_, ?_, ?_, ?_, ?_, ?_, ?_, ?_, ?_, ?_⟩ <;> (first | rfl | (simp; done))

@[simp] theorem runEpisode_calm (s : State) (r : Nat) : calm (runEpisode s r) s := by
  unfold runEpisode
  generalize List.range 8 = l
  dsimp only
  split <;> simp [calm, setRegion]

@[simp] theorem writeCap_calm (s : State) (p : Nat) : calm (writeCap s p) s := by
  dsimp only [writeCap]
  refine ⟨?_, ?_, ?_, ?_, ?_, ?_, ?_, ?_, ?_, ?_⟩ <;> (first | rfl | (simp; done))

@[simp] theorem takeCap_calm (s : State) (p : Nat) : calm (takeCap s p) s := by
  dsimp only [takeCap]
  refine ⟨?_, ?_, ?_, ?_, ?_, ?_, ?_, ?_, ?_, ?_⟩ <;> (first | rfl | (simp; done))

@[simp] theorem paceVault_calm (s : State) (v : Nat) : calm (paceVault s v) s := by
  dsimp only [paceVault]
  refine ⟨?_, ?_, ?_, ?_, ?_, ?_, ?_, ?_, ?_, ?_⟩ <;> rfl

@[simp] theorem tripModule_calm (s : State) (r : Nat) : calm (tripModule s r) s := by
  unfold tripModule
  generalize List.range 8 = l
  dsimp only
  split <;> simp [calm]

@[simp] theorem runCycles_calm (s : State) (st : Nat) : calm (runCycles s st) s := by
  dsimp only [runCycles]
  refine ⟨?_, ?_, ?_, ?_, ?_, ?_, ?_, ?_, ?_, ?_⟩ <;> rfl

@[simp] theorem runRegions_calm (s : State) (first : Bool) (x : List ((Int × BitVec 12) × Nat)) : calm (runRegions s first x) s := by
  unfold runRegions
  simp [calm]

@[simp] theorem runEpisodes_calm (s : State) : calm (runEpisodes s) s := by
  unfold runEpisodes
  generalize List.range 528 = l
  simp [calm]

@[simp] theorem writeCaps_calm (s : State) : calm (writeCaps s) s := by
  unfold writeCaps
  generalize List.range 8 = l
  simp [calm]

@[simp] theorem paceVaults_calm (s : State) : calm (paceVaults s) s := by
  unfold paceVaults
  generalize List.range 16 = l
  simp [calm]

@[simp] theorem runAllCycles_calm (s : State) : calm (runAllCycles s) s := by
  unfold runAllCycles
  generalize List.range 8 = l
  simp [calm]

@[simp] theorem tripOver_calm (s : State) : calm (tripOver s) s := by
  unfold tripOver
  split <;> simp [calm]

@[simp] theorem noteRun_calm (s : State) (coolant : BitVec 12) (coolantBroken : Bool) : calm (noteRun s coolant coolantBroken) s := by
  dsimp only [noteRun]
  refine ⟨?_, ?_, ?_, ?_, ?_, ?_, ?_, ?_, ?_, ?_⟩ <;> rfl

@[simp] theorem setSlot_calm (s : State) (isB : Bool) (x : FwSlot) : (setSlot s isB x).beat = s.beat ∧ (setSlot s isB x).sup = s.sup ∧ (setSlot s isB x).fuses = s.fuses ∧ (setSlot s isB x).shelf = s.shelf ∧ (setSlot s isB x).clm = s.clm ∧ (setSlot s isB x).dram = s.dram ∧ (setSlot s isB x).granules = s.granules ∧ (setSlot s isB x).plan = s.plan ∧ sramsOf (setSlot s isB x).csvs = sramsOf s.csvs := by
  dsimp only [setSlot]
  refine ⟨?_, ?_, ?_, ?_, ?_, ?_, ?_, ?_, ?_⟩ <;> rfl

@[simp] theorem steerRow_calm (s : State) (key : Nat) : (steerRow s key).beat = s.beat ∧ (steerRow s key).sup = s.sup ∧ (steerRow s key).flash = s.flash ∧ (steerRow s key).fuses = s.fuses ∧ (steerRow s key).clm = s.clm ∧ (steerRow s key).dram = s.dram ∧ (steerRow s key).granules = s.granules ∧ (steerRow s key).plan = s.plan ∧ sramsOf (steerRow s key).csvs = sramsOf s.csvs := by
  unfold steerRow
  split <;> exact ⟨rfl, rfl, rfl, rfl, rfl, rfl, rfl, rfl, rfl⟩

@[simp] theorem clearSite_calm (s : State) (site : Nat) : (clearSite s site).beat = s.beat ∧ (clearSite s site).sup = s.sup ∧ (clearSite s site).flash = s.flash ∧ (clearSite s site).fuses = s.fuses ∧ (clearSite s site).dram = s.dram ∧ (clearSite s site).granules = s.granules ∧ (clearSite s site).plan = s.plan ∧ sramsOf (clearSite s site).csvs = sramsOf s.csvs := by
  dsimp only [clearSite]
  refine ⟨?_, ?_, ?_, ?_, ?_, ?_, ?_, ?_⟩ <;> rfl

@[simp] theorem markSites_calm (s : State) (wing : Nat) : calm (markSites s wing) s := by
  dsimp only [markSites]
  refine ⟨?_, ?_, ?_, ?_, ?_, ?_, ?_, ?_, ?_, ?_⟩ <;> (first | rfl | (simp; done))

@[simp] theorem buildMaps_calm (s : State) (wing : Nat) : (buildMaps s wing).1.beat = s.beat ∧ (buildMaps s wing).1.sup = s.sup ∧ (buildMaps s wing).1.flash = s.flash ∧ (buildMaps s wing).1.fuses = s.fuses ∧ (buildMaps s wing).1.dram = s.dram ∧ (buildMaps s wing).1.granules = s.granules ∧ (buildMaps s wing).1.plan = s.plan ∧ sramsOf ((buildMaps s wing).1).csvs = sramsOf s.csvs := by
  unfold buildMaps
  generalize List.range 9 = l9
  generalize List.range 10 = l10
  simp [setWing]

@[simp] theorem darkWing_calm (s : State) (w : Nat) : calm (darkWing s w) s := by
  dsimp only [darkWing]
  refine ⟨?_, ?_, ?_, ?_, ?_, ?_, ?_, ?_, ?_, ?_⟩ <;> rfl

@[simp] theorem createWings_calm (s : State) (p : Nat) : (createWings s p).1.beat = s.beat ∧ (createWings s p).1.sup = s.sup ∧ (createWings s p).1.flash = s.flash ∧ (createWings s p).1.fuses = s.fuses ∧ (createWings s p).1.dram = s.dram ∧ (createWings s p).1.granules = s.granules ∧ (createWings s p).1.plan = s.plan ∧ sramsOf ((createWings s p).1).csvs = sramsOf s.csvs := by
  unfold createWings
  generalize List.range 9 = l
  simp

@[simp] theorem createResults_calm (s : State) (p : Nat) (l : List (Nat × Nat)) : calm (createResults s p l).1 s := by
  dsimp only [createResults]
  refine ⟨?_, ?_, ?_, ?_, ?_, ?_, ?_, ?_, ?_, ?_⟩ <;> (first | rfl | (simp; done))

@[simp] theorem dropLost_calm (s : State) (p : Nat) : calm (dropLost s p) s := by
  dsimp only [dropLost]
  refine ⟨?_, ?_, ?_, ?_, ?_, ?_, ?_, ?_, ?_, ?_⟩ <;> rfl

@[simp] theorem createPart_calm (s : State) (p : Nat) (ports lanes : BitVec 8) (ways slots : BitVec 16) (share : Nat) (wings : BitVec 128) : (createPart s p ports lanes ways slots share wings).1.beat = s.beat ∧ (createPart s p ports lanes ways slots share wings).1.sup = s.sup ∧ (createPart s p ports lanes ways slots share wings).1.flash = s.flash ∧ (createPart s p ports lanes ways slots share wings).1.fuses = s.fuses ∧ (createPart s p ports lanes ways slots share wings).1.dram = s.dram ∧ (createPart s p ports lanes ways slots share wings).1.granules = s.granules ∧ (createPart s p ports lanes ways slots share wings).1.plan = s.plan ∧ sramsOf ((createPart s p ports lanes ways slots share wings).1).csvs = sramsOf s.csvs := by
  dsimp only [createPart]
  refine ⟨?_, ?_, ?_, ?_, ?_, ?_, ?_, ?_⟩ <;> (first | rfl | (simp; done))

@[simp] theorem renewPart_calm (s : State) (p : Nat) : (renewPart s p).1.beat = s.beat ∧ (renewPart s p).1.sup = s.sup ∧ (renewPart s p).1.flash = s.flash ∧ (renewPart s p).1.fuses = s.fuses ∧ (renewPart s p).1.dram = s.dram ∧ (renewPart s p).1.granules = s.granules ∧ (renewPart s p).1.plan = s.plan ∧ sramsOf ((renewPart s p).1).csvs = sramsOf s.csvs := by
  dsimp only [renewPart]
  refine ⟨?_, ?_, ?_, ?_, ?_, ?_, ?_, ?_⟩ <;> (first | rfl | (simp; done))

@[simp] theorem commitPart_calm (s : State) (p : Nat) : calm (commitPart s p) s := by
  dsimp only [commitPart]
  refine ⟨?_, ?_, ?_, ?_, ?_, ?_, ?_, ?_, ?_, ?_⟩ <;> rfl

@[simp] theorem deleteRing_calm (s : State) (id : Nat) : calm (deleteRing s id) s := by
  dsimp only [deleteRing]
  refine ⟨?_, ?_, ?_, ?_, ?_, ?_, ?_, ?_, ?_, ?_⟩ <;> rfl

@[simp] theorem stopCsv_calm (s : State) (P : Nat) : calm (stopCsv s P) s := by
  dsimp only [stopCsv]
  refine ⟨?_, ?_, ?_, ?_, ?_, ?_, ?_, ?_, ?_, ?_⟩ <;> (first | rfl | (simp [setCsv_srams, csvOf_isram, csvOf_dsram]; done))

@[simp] theorem stopPart_calm (s : State) (p : Nat) : calm (stopPart s p) s := by
  unfold stopPart
  generalize List.range 1024 = l
  exact calm_trans (foldl_calm (fun s P => stopCsv_calm s P) _ _) (endWindows_calm s p)

@[simp] theorem destroyPart_calm (s : State) (p : Nat) : (destroyPart s p).beat = s.beat ∧ (destroyPart s p).sup = s.sup ∧ (destroyPart s p).flash = s.flash ∧ (destroyPart s p).fuses = s.fuses ∧ (destroyPart s p).shelf = s.shelf ∧ (destroyPart s p).clm = s.clm ∧ sramsOf (destroyPart s p).csvs = sramsOf s.csvs := by
  unfold destroyPart
  simp

@[simp] theorem cmdTime_calm (s : State) (b : SMap Word) : calm (cmdTime s b).2 s := by
  dsimp only [cmdTime]
  refine ⟨?_, ?_, ?_, ?_, ?_, ?_, ?_, ?_, ?_, ?_⟩ <;> (first | rfl | (simp; done) | ((repeat' split) <;> (first | rfl | (simp_all; done))))

@[simp] theorem curatorRead_calm (s : State) (a n : Nat) : calm (curatorRead s a n).1 s := by
  unfold curatorRead
  dsimp only
  split <;> simp [calm]

@[simp] theorem checkBind_calm (s : State) (p : Nat) (b : SMap Word) : calm (checkBind s p b).2 s := by
  unfold checkBind
  dsimp only
  split
  · exact calm_refl _
  · split
    · exact calm_refl _
    · split
      · exact calm_refl _
      · split
        · rename_i heq; exact calm_fst heq (curatorRead_calm _ _ _)
        · rename_i heq
          have h := calm_fst heq (curatorRead_calm _ _ _)
          split <;> exact h

@[simp] theorem checkUpdate_calm (s : State) (b : SMap Word) : calm (checkUpdate s b).2 s := by
  unfold checkUpdate
  dsimp only
  split
  · exact calm_refl _
  · split
    · exact calm_refl _
    · split
      · exact calm_refl _
      · split
        · rename_i heq; exact calm_fst heq (curatorRead_calm _ _ _)
        · rename_i heq
          exact calm_trans (freeWord_calm _) (calm_fst heq (curatorRead_calm _ _ _))

@[simp] theorem bodyChecks_calm (s : State) (chan p : Nat) (b : SMap Word) : calm (bodyChecks s chan p b).2 s := by
  dsimp only [bodyChecks]
  refine ⟨?_, ?_, ?_, ?_, ?_, ?_, ?_, ?_, ?_, ?_⟩ <;> (first | rfl | (simp; done) | ((repeat' split) <;> (first | rfl | (simp_all; done))))

@[simp] theorem evaluate_calm (s : State) (chan : Nat) (b : SMap Word) : calm (evaluate s chan b).2 s := by
  dsimp only [evaluate]
  refine ⟨?_, ?_, ?_, ?_, ?_, ?_, ?_, ?_, ?_, ?_⟩ <;> (first | rfl | (simp; done) | ((repeat' split) <;> (first | rfl | (simp_all; done))))

@[simp] theorem destroyFault_calm (s : State) (r : Running) : calm (destroyFault s r) s := by
  dsimp only [destroyFault]
  refine ⟨?_, ?_, ?_, ?_, ?_, ?_, ?_, ?_, ?_, ?_⟩ <;> (first | rfl | (simp; done))

@[simp] theorem startNext_calm (s : State) : calm (startNext s) s := by
  dsimp only [startNext]
  refine ⟨?_, ?_, ?_, ?_, ?_, ?_, ?_, ?_, ?_, ?_⟩ <;> (first | rfl | (simp; done) | ((repeat' split) <;> (first | rfl | (simp_all; done))))

@[simp] theorem submit_calm (s : State) (n : Nat) : calm (submit s n) s := by
  dsimp only [submit]
  refine ⟨?_, ?_, ?_, ?_, ?_, ?_, ?_, ?_, ?_, ?_⟩ <;> rfl

@[simp] theorem purgeGranule_calm (s : State) (g : Nat) : (purgeGranule s g).beat = s.beat ∧ (purgeGranule s g).sup = s.sup ∧ (purgeGranule s g).flash = s.flash ∧ (purgeGranule s g).fuses = s.fuses ∧ (purgeGranule s g).shelf = s.shelf ∧ (purgeGranule s g).clm = s.clm ∧ (purgeGranule s g).granules = s.granules ∧ (purgeGranule s g).plan = s.plan ∧ sramsOf (purgeGranule s g).csvs = sramsOf s.csvs := by
  dsimp only [purgeGranule]
  refine ⟨?_, ?_, ?_, ?_, ?_, ?_, ?_, ?_, ?_⟩ <;> (first | rfl | (simp; done))

@[simp] theorem codePut_calm (s : State) (r : CodeRef) (d chk : Nat) : (codePut s r d chk).beat = s.beat ∧ (codePut s r d chk).sup = s.sup ∧ (codePut s r d chk).flash = s.flash ∧ (codePut s r d chk).fuses = s.fuses ∧ (codePut s r d chk).clm = s.clm ∧ (codePut s r d chk).granules = s.granules ∧ (codePut s r d chk).plan = s.plan ∧ sramsOf (codePut s r d chk).csvs = sramsOf s.csvs := by
  dsimp only [codePut]
  refine ⟨?_, ?_, ?_, ?_, ?_, ?_, ?_, ?_⟩ <;> (first | rfl | (simp; done) | ((repeat' split) <;> (first | rfl | (simp_all; done))))

@[simp] theorem setErrLog_calm (s : State) (l : ErrLog) : calm (setErrLog s l) s := by
  dsimp only [setErrLog]
  refine ⟨?_, ?_, ?_, ?_, ?_, ?_, ?_, ?_, ?_, ?_⟩ <;> rfl

@[simp] theorem rawSend_calm (s : State) (o : RawOp) : calm (rawSend s o) s := by
  unfold rawSend
  repeat' split
  all_goals first | exact calm_refl _ | exact addReq_calm _ _

@[simp] theorem rawStart_calm (s : State) : calm (rawStart s) s := by
  dsimp only [rawStart]
  refine ⟨?_, ?_, ?_, ?_, ?_, ?_, ?_, ?_, ?_, ?_⟩ <;> (first | rfl | (simp; done))

@[simp] theorem rawControl_calm (s : State) (mask value : Word) : calm (rawControl s mask value) s := by
  unfold rawControl
  dsimp only
  split
  · exact calm_trans (rawStart_calm _) (by simp [calm, setErrLog])
  · simp [calm, setErrLog]

@[simp] theorem rawReadInto_calm (s : State) (o : RawOp) : calm (rawReadInto s o) s := by
  dsimp only [rawReadInto]
  refine ⟨?_, ?_, ?_, ?_, ?_, ?_, ?_, ?_, ?_, ?_⟩ <;> (first | rfl | (simp; done) | ((repeat' split) <;> (first | rfl | (simp_all; done))))

@[simp] theorem rawRelease_calm (s : State) : calm (rawRelease s) s := by
  dsimp only [rawRelease]
  refine ⟨?_, ?_, ?_, ?_, ?_, ?_, ?_, ?_, ?_, ?_⟩ <;> rfl

@[simp] theorem forgetFix_calm (s : State) (r : CodeRef) : calm (forgetFix s r) s := by
  unfold forgetFix
  dsimp only
  split
  · exact setCol_calm _ _ _
  · exact calm_refl _

@[simp] theorem rawAct_calm (s : State) (o : RawOp) : (rawAct s o).beat = s.beat ∧ (rawAct s o).sup = s.sup ∧ (rawAct s o).flash = s.flash ∧ (rawAct s o).fuses = s.fuses ∧ (rawAct s o).clm = s.clm ∧ (rawAct s o).granules = s.granules ∧ (rawAct s o).plan = s.plan ∧ sramsOf (rawAct s o).csvs = sramsOf s.csvs := by
  dsimp only [rawAct]
  refine ⟨?_, ?_, ?_, ?_, ?_, ?_, ?_, ?_⟩ <;> (first | rfl | (simp; done) | ((repeat' split) <;> (first | rfl | (simp_all; done))))

@[simp] theorem scrubReport_calm (s : State) (r : CodeRef) (f : Checked) : calm (scrubReport s r f) s := by
  dsimp only [scrubReport]
  refine ⟨?_, ?_, ?_, ?_, ?_, ?_, ?_, ?_, ?_, ?_⟩ <;> (first | rfl | (simp; done) | ((repeat' split) <;> (first | rfl | (simp_all; done))))

@[simp] theorem setLap_calm (s : State) (u : ScrubUnit) (l : Lap) : calm (setLap s u l) s := by
  dsimp only [setLap]
  refine ⟨?_, ?_, ?_, ?_, ?_, ?_, ?_, ?_, ?_, ?_⟩ <;> rfl

@[simp] theorem setScrub_calm (s : State) (x : Scrubber) (y : Scrub) : calm (setScrub s x y) s := by
  exact setCol_calm _ _ _

@[simp] theorem closeLap_calm (s : State) (u : ScrubUnit) : calm (closeLap s u) s := by
  unfold closeLap
  split
  · exact calm_refl _
  · exact calm_trans (setCol_calm _ _ _) (setLap_calm _ _ _)

@[simp] theorem endVisit_calm (s : State) (x : Scrubber) (t : Nat) : calm (endVisit s x t) s := by
  unfold endVisit
  dsimp only
  have h := calm_trans (setScrub_calm (setLap s (scrubUnit x) { lapNow s (scrubUnit x) with began := some ((lapNow s (scrubUnit x)).began.getD (now s)) }) x
    { scrubOf s x with pos := (scrubOf s x).pos + 1, usedAt := some t }) (setLap_calm s (scrubUnit x) _)
  split
  · exact h
  · exact calm_trans (closeLap_calm _ _) h

@[simp] theorem scrubFinding_calm (s : State) (x : Scrubber) (n : Nat) (r : CodeRef) (k : Nat) : calm (scrubFinding s x n r k) s := by
  unfold scrubFinding
  dsimp only
  split
  · exact calm_refl _
  · split
    · exact calm_refl _
    · exact calm_refl _
    · exact calm_refl _
    · exact calm_trans (setScrub_calm _ _ _) (scrubReport_calm _ _ _)
    · exact calm_trans (setScrub_calm _ _ _) (calm_trans (raiseFaultO_calm _ _ _) (scrubReport_calm _ _ _))

@[simp] theorem scrubVisit_calm (s : State) (x : Scrubber) (t : Nat) : calm (scrubVisit s x t) s := by
  unfold scrubVisit
  dsimp only
  split
  · exact closeLap_calm _ _
  · exact calm_trans (endVisit_calm _ _ _) (foldl_calm (fun s r => scrubFinding_calm _ _ _ _ _) _ _)

@[simp] theorem scrubMend_calm (s : State) (x : Scrubber) (n : Nat) (f : Nat × Nat × Nat) : (scrubMend s x n f).beat = s.beat ∧ (scrubMend s x n f).sup = s.sup ∧ (scrubMend s x n f).flash = s.flash ∧ (scrubMend s x n f).fuses = s.fuses ∧ (scrubMend s x n f).clm = s.clm ∧ (scrubMend s x n f).granules = s.granules ∧ (scrubMend s x n f).plan = s.plan ∧ sramsOf (scrubMend s x n f).csvs = sramsOf s.csvs := by
  unfold scrubMend
  split
  · split
    · split <;> exact codePut_calm _ _ _ _
    · exact ⟨rfl, rfl, rfl, rfl, rfl, rfl, rfl, rfl⟩
  · exact ⟨rfl, rfl, rfl, rfl, rfl, rfl, rfl, rfl⟩

@[simp] theorem plantWord_calm (s : State) (stack : Nat) (r : Report) : calm (plantWord s stack r) s := by
  dsimp only [plantWord]
  refine ⟨?_, ?_, ?_, ?_, ?_, ?_, ?_, ?_, ?_, ?_⟩ <;> (first | rfl | (simp; done) | ((repeat' split) <;> (first | rfl | (simp_all; done))))

@[simp] theorem plantFlit_calm (s : State) (e : Nat) (r : Report) : calm (plantFlit s e r) s := by
  dsimp only [plantFlit]
  refine ⟨?_, ?_, ?_, ?_, ?_, ?_, ?_, ?_, ?_, ?_⟩ <;> (first | rfl | (simp; done) | ((repeat' split) <;> (first | rfl | (simp_all; done))))

@[simp] theorem plantStep_calm (s : State) (stack : Nat) (r : Report) : calm (plantStep s stack r) s := by
  unfold plantStep
  split
  · exact calm_refl _
  · exact mapPart_calm _ _ _

@[simp] theorem softFault_calm (s : State) (stack : Nat) (r : Report) : calm (softFault s stack r) s := by
  unfold softFault
  dsimp only
  repeat' split
  all_goals first | exact calm_refl _ | exact plantWord_calm _ _ _ | exact plantFlit_calm _ _ _ | exact calm_trans (raiseFaultO_calm _ _ _) (plantStep_calm _ _ _) | exact raiseFaultO_calm _ _ _

@[simp] theorem setHalves_calm (s : State) (who : Requester) (h : Halves) : calm (setHalves s who h) s := by
  dsimp only [setHalves]
  refine ⟨?_, ?_, ?_, ?_, ?_, ?_, ?_, ?_, ?_, ?_⟩ <;> rfl

@[simp] theorem regRead_calm (s : State) (who : Requester) (o : Nat) : calm (regRead s who o).2 s := by
  dsimp only [regRead]
  refine ⟨?_, ?_, ?_, ?_, ?_, ?_, ?_, ?_, ?_, ?_⟩ <;> (first | rfl | (simp; done) | ((repeat' split) <;> (first | rfl | (simp_all; done))))

@[simp] theorem epochIf_calm (changed : Bool) (s : State) : calm (epochIf changed s) s := by
  dsimp only [epochIf]
  refine ⟨?_, ?_, ?_, ?_, ?_, ?_, ?_, ?_, ?_, ?_⟩ <;> (first | rfl | (simp; done))

@[simp] theorem writeLanes_calm (s : State) (p : Nat) (mask value : Word) : calm (writeLanes s p mask value) s := by
  dsimp only [writeLanes]
  refine ⟨?_, ?_, ?_, ?_, ?_, ?_, ?_, ?_, ?_, ?_⟩ <;> (first | rfl | (simp; done))

@[simp] theorem writeWays_calm (s : State) (p : Nat) (mask value : Word) : calm (writeWays s p mask value) s := by
  dsimp only [writeWays]
  refine ⟨?_, ?_, ?_, ?_, ?_, ?_, ?_, ?_, ?_, ?_⟩ <;> (first | rfl | (simp; done))

@[simp] theorem writeSvc_calm (s : State) (p : Nat) (mask value : Word) : calm (writeSvc s p mask value) s := by
  dsimp only [writeSvc]
  refine ⟨?_, ?_, ?_, ?_, ?_, ?_, ?_, ?_, ?_, ?_⟩ <;> (first | rfl | (simp; done))

@[simp] theorem writeCapHost_calm (s : State) (p : Nat) (mask value : Word) : calm (writeCapHost s p mask value) s := by
  dsimp only [writeCapHost]
  refine ⟨?_, ?_, ?_, ?_, ?_, ?_, ?_, ?_, ?_, ?_⟩ <;> (first | rfl | (simp; done))

@[simp] theorem writeWaitEvt_calm (s : State) (p : Nat) (mask value : Word) : calm (writeWaitEvt s p mask value) s := by
  dsimp only [writeWaitEvt]
  refine ⟨?_, ?_, ?_, ?_, ?_, ?_, ?_, ?_, ?_, ?_⟩ <;> (first | rfl | (simp; done))

@[simp] theorem writeVcCtl_calm (s : State) (p : Nat) (mask value : Word) : calm (writeVcCtl s p mask value) s := by
  dsimp only [writeVcCtl]
  refine ⟨?_, ?_, ?_, ?_, ?_, ?_, ?_, ?_, ?_, ?_⟩ <;> (first | rfl | (simp; done))

@[simp] theorem writeInputLimit_calm (s : State) (mask value : Word) : calm (writeInputLimit s mask value) s := by
  dsimp only [writeInputLimit]
  refine ⟨?_, ?_, ?_, ?_, ?_, ?_, ?_, ?_, ?_, ?_⟩ <;> rfl

@[simp] theorem writeSeq_calm (s : State) (p o : Nat) (mask value : Word) : calm (writeSeq s p o mask value) s := by
  dsimp only [writeSeq]
  refine ⟨?_, ?_, ?_, ?_, ?_, ?_, ?_, ?_, ?_, ?_⟩ <;> (first | rfl | (simp; done) | ((repeat' split) <;> (first | rfl | (simp_all; done))))

@[simp] theorem recoveryErase_calm (s : State) : (recoveryErase s).beat = s.beat ∧ (recoveryErase s).sup = s.sup ∧ (recoveryErase s).fuses = s.fuses ∧ (recoveryErase s).shelf = s.shelf ∧ (recoveryErase s).clm = s.clm ∧ (recoveryErase s).dram = s.dram ∧ (recoveryErase s).granules = s.granules ∧ (recoveryErase s).plan = s.plan ∧ sramsOf (recoveryErase s).csvs = sramsOf s.csvs := by
  dsimp only [recoveryErase]
  refine ⟨?_, ?_, ?_, ?_, ?_, ?_, ?_, ?_, ?_⟩ <;> rfl

@[simp] theorem recoveryData_calm (s : State) (d : Word) : (recoveryData s d).beat = s.beat ∧ (recoveryData s d).sup = s.sup ∧ (recoveryData s d).fuses = s.fuses ∧ (recoveryData s d).shelf = s.shelf ∧ (recoveryData s d).clm = s.clm ∧ (recoveryData s d).dram = s.dram ∧ (recoveryData s d).granules = s.granules ∧ (recoveryData s d).plan = s.plan ∧ sramsOf (recoveryData s d).csvs = sramsOf s.csvs := by
  dsimp only [recoveryData]
  refine ⟨?_, ?_, ?_, ?_, ?_, ?_, ?_, ?_, ?_⟩ <;> rfl

@[simp] theorem recoveryCommit_calm (s : State) : calm (recoveryCommit s) s := by
  dsimp only [recoveryCommit]
  refine ⟨?_, ?_, ?_, ?_, ?_, ?_, ?_, ?_, ?_, ?_⟩ <;> rfl

@[simp] theorem writeCur_calm (s : State) (o : Nat) (mask value : Word) : (writeCur s o mask value).beat = s.beat ∧ (writeCur s o mask value).sup = s.sup ∧ (writeCur s o mask value).fuses = s.fuses ∧ (writeCur s o mask value).shelf = s.shelf ∧ (writeCur s o mask value).clm = s.clm ∧ (writeCur s o mask value).dram = s.dram ∧ (writeCur s o mask value).granules = s.granules ∧ (writeCur s o mask value).plan = s.plan ∧ sramsOf (writeCur s o mask value).csvs = sramsOf s.csvs := by
  dsimp only [writeCur]
  refine ⟨?_, ?_, ?_, ?_, ?_, ?_, ?_, ?_, ?_⟩ <;> (first | rfl | (simp; done) | ((repeat' split) <;> (first | rfl | (simp_all; done))))

@[simp] theorem writeMailbox_calm (s : State) (n o : Nat) (mask value : Word) : calm (writeMailbox s n o mask value) s := by
  dsimp only [writeMailbox]
  refine ⟨?_, ?_, ?_, ?_, ?_, ?_, ?_, ?_, ?_, ?_⟩ <;> (first | rfl | (simp; done))

@[simp] theorem writeMsix_calm (s : State) (p o : Nat) (mask value : Word) : calm (writeMsix s p o mask value) s := by
  dsimp only [writeMsix]
  refine ⟨?_, ?_, ?_, ?_, ?_, ?_, ?_, ?_, ?_, ?_⟩ <;> (first | rfl | (simp; done))

@[simp] theorem writeLogHead_calm (s : State) (mask value : Word) : calm (writeLogHead s mask value) s := by
  dsimp only [writeLogHead]
  refine ⟨?_, ?_, ?_, ?_, ?_, ?_, ?_, ?_, ?_, ?_⟩ <;> (first | rfl | (simp; done))

@[simp] theorem writeRaw_calm (s : State) (i : Nat) (mask value : Word) : calm (writeRaw s i mask value) s := by
  dsimp only [writeRaw]
  refine ⟨?_, ?_, ?_, ?_, ?_, ?_, ?_, ?_, ?_, ?_⟩ <;> (first | rfl | (simp; done))

@[simp] theorem writeErrLog_calm (s : State) (o : Nat) (mask value : Word) : calm (writeErrLog s o mask value) s := by
  dsimp only [writeErrLog]
  refine ⟨?_, ?_, ?_, ?_, ?_, ?_, ?_, ?_, ?_, ?_⟩ <;> (first | rfl | (simp; done) | ((repeat' split) <;> (first | rfl | (simp_all; done))))

@[simp] theorem writeCollector_calm (s : State) (st o : Nat) (mask value : Word) : calm (writeCollector s st o mask value) s := by
  dsimp only [writeCollector]
  refine ⟨?_, ?_, ?_, ?_, ?_, ?_, ?_, ?_, ?_, ?_⟩ <;> (first | rfl | (simp; done) | ((repeat' split) <;> (first | rfl | (simp_all; done))))

@[simp] theorem writePwr_calm (s : State) (o : Nat) (mask value : Word) : calm (writePwr s o mask value) s := by
  dsimp only [writePwr]
  refine ⟨?_, ?_, ?_, ?_, ?_, ?_, ?_, ?_, ?_, ?_⟩ <;> (first | rfl | (simp; done) | ((repeat' split) <;> (first | rfl | (simp_all; done))))

@[simp] theorem writeThm_calm (s : State) (o : Nat) (mask value : Word) : calm (writeThm s o mask value) s := by
  dsimp only [writeThm]
  refine ⟨?_, ?_, ?_, ?_, ?_, ?_, ?_, ?_, ?_, ?_⟩ <;> (first | rfl | (simp; done) | ((repeat' split) <;> (first | rfl | (simp_all; done))))

@[simp] theorem writeBar2Base_calm (s : State) (p : Nat) (v : Nat) : calm (writeBar2Base s p v) s := by
  dsimp only [writeBar2Base]
  refine ⟨?_, ?_, ?_, ?_, ?_, ?_, ?_, ?_, ?_, ?_⟩ <;> (first | rfl | (simp; done))

@[simp] theorem writePair_calm (s : State) (r : RegRef) (v : Nat) : calm (writePair s r v) s := by
  dsimp only [writePair]
  refine ⟨?_, ?_, ?_, ?_, ?_, ?_, ?_, ?_, ?_, ?_⟩ <;> (first | rfl | (simp; done) | ((repeat' split) <;> (first | rfl | (simp_all; done))))

@[simp] theorem clearHeld_calm (s : State) (p : Nat) : calm (clearHeld s p) s := by
  unfold clearHeld
  first | exact foldl_calm (fun s x => queueRing_calm _ _ _) _ _ | (dsimp only; repeat' split) <;> first | exact calm_refl _ | exact calm_trans (foldl_calm (fun s x => queueRing_calm _ _ _) _ _) (mapPart_calm _ _ _)

@[simp] theorem writeReg_calm (s : State) (r : RegRef) (mask value : Word) : (writeReg s r mask value).beat = s.beat ∧ (writeReg s r mask value).sup = s.sup ∧ (writeReg s r mask value).fuses = s.fuses ∧ (writeReg s r mask value).shelf = s.shelf ∧ (writeReg s r mask value).clm = s.clm ∧ (writeReg s r mask value).dram = s.dram ∧ (writeReg s r mask value).granules = s.granules ∧ (writeReg s r mask value).plan = s.plan ∧ sramsOf (writeReg s r mask value).csvs = sramsOf s.csvs := by
  dsimp only [writeReg]
  refine ⟨?_, ?_, ?_, ?_, ?_, ?_, ?_, ?_, ?_⟩ <;> (first | rfl | (simp; done) | ((repeat' split) <;> (first | rfl | (simp_all; done))))

@[simp] theorem landWrite_calm (s : State) (who : Requester) (o : Nat) : calm (landWrite s who o) s := by
  unfold landWrite
  split <;> exact ⟨rfl, rfl, rfl, rfl, rfl, rfl, rfl, rfl, rfl, rfl⟩

@[simp] theorem regWrite_calm (s : State) (who : Requester) (o : Nat) (mask value : Word) : (regWrite s who o mask value).beat = s.beat ∧ (regWrite s who o mask value).sup = s.sup ∧ (regWrite s who o mask value).fuses = s.fuses ∧ (regWrite s who o mask value).shelf = s.shelf ∧ (regWrite s who o mask value).clm = s.clm ∧ (regWrite s who o mask value).dram = s.dram ∧ (regWrite s who o mask value).granules = s.granules ∧ (regWrite s who o mask value).plan = s.plan ∧ sramsOf (regWrite s who o mask value).csvs = sramsOf s.csvs := by
  dsimp only [regWrite]
  refine ⟨?_, ?_, ?_, ?_, ?_, ?_, ?_, ?_, ?_⟩ <;> (first | rfl | (simp; done) | ((repeat' split) <;> (first | rfl | (simp_all; done))))

@[simp] theorem noteFail_calm (s : State) (isB : Bool) (check : Nat) : calm (noteFail s isB check) s := by
  dsimp only [noteFail]
  refine ⟨?_, ?_, ?_, ?_, ?_, ?_, ?_, ?_, ?_, ?_⟩ <;> rfl

@[simp] theorem romStage_calm (s : State) : calm (romStage s) s := by
  dsimp only [romStage]
  refine ⟨?_, ?_, ?_, ?_, ?_, ?_, ?_, ?_, ?_, ?_⟩ <;> (first | rfl | (simp; done))

@[simp] theorem loadCycles_calm (s : State) : calm (loadCycles s) s := by
  dsimp only [loadCycles]
  refine ⟨?_, ?_, ?_, ?_, ?_, ?_, ?_, ?_, ?_, ?_⟩ <;> rfl

@[simp] theorem enterStage_calm (s : State) (stage : Nat) : calm (enterStage s stage) s := by
  dsimp only [enterStage]
  refine ⟨?_, ?_, ?_, ?_, ?_, ?_, ?_, ?_, ?_, ?_⟩ <;> rfl

@[simp] theorem legacyPart_calm (s : State) : (legacyPart s).beat = s.beat ∧ (legacyPart s).sup = s.sup ∧ (legacyPart s).flash = s.flash ∧ (legacyPart s).fuses = s.fuses ∧ (legacyPart s).dram = s.dram ∧ (legacyPart s).granules = s.granules ∧ (legacyPart s).plan = s.plan ∧ sramsOf (legacyPart s).csvs = sramsOf s.csvs := by
  unfold legacyPart
  split
  · obtain ⟨a1, a2, a3, a4, _, _, a7, a8, a9, a10⟩ := commitPart_calm (createPart s 0 255 255 0xFFFF 0xFFFF 1024 (BitVec.allOnes 128)).1 0
    obtain ⟨b1, b2, b3, b4, b7, b8, b9, b10⟩ := createPart_calm s 0 255 255 0xFFFF 0xFFFF 1024 (BitVec.allOnes 128)
    exact ⟨a1.trans b1, a2.trans b2, a3.trans b3, a4.trans b4, a7.trans b7, a8.trans b8, a9.trans b9, a10.trans b10⟩
  · exact ⟨rfl, rfl, rfl, rfl, rfl, rfl, rfl, rfl⟩

@[simp] theorem endBringup_calm (s : State) (kind index : Nat) : (endBringup s kind index).beat = s.beat ∧ (endBringup s kind index).sup = s.sup ∧ (endBringup s kind index).flash = s.flash ∧ (endBringup s kind index).fuses = s.fuses ∧ (endBringup s kind index).granules = s.granules ∧ (endBringup s kind index).plan = s.plan ∧ sramsOf (endBringup s kind index).csvs = sramsOf s.csvs := by
  unfold endBringup
  generalize hs : ({ s with boot := _ } : State) = t
  have ht : t.beat = s.beat ∧ t.sup = s.sup ∧ t.flash = s.flash ∧ t.fuses = s.fuses ∧ t.granules = s.granules ∧ t.plan = s.plan
      ∧ sramsOf t.csvs = sramsOf s.csvs := by
    subst hs; exact ⟨rfl, rfl, rfl, rfl, rfl, rfl, rfl⟩
  obtain ⟨a1, a2, a3, a4, _, a6, a7, a8⟩ := deaccession_calm (legacyPart t) 0 0
  obtain ⟨b1, b2, b3, b4, _, b6, b7, b8⟩ := legacyPart_calm t
  obtain ⟨c1, c2, c3, c4, c6, c7, c8⟩ := ht
  exact ⟨a1.trans (b1.trans c1), a2.trans (b2.trans c2), a3.trans (b3.trans c3), a4.trans (b4.trans c4), a6.trans (b6.trans c6), a7.trans (b7.trans c7), a8.trans (b8.trans c8)⟩

@[simp] theorem trainChannel_calm (s : State) (x : SiteRef × Nat × Nat) : (trainChannel s x).beat = s.beat ∧ (trainChannel s x).sup = s.sup ∧ (trainChannel s x).fuses = s.fuses ∧ (trainChannel s x).shelf = s.shelf ∧ (trainChannel s x).clm = s.clm ∧ (trainChannel s x).dram = s.dram ∧ (trainChannel s x).granules = s.granules ∧ (trainChannel s x).plan = s.plan ∧ sramsOf (trainChannel s x).csvs = sramsOf s.csvs := by
  dsimp only [trainChannel]
  refine ⟨?_, ?_, ?_, ?_, ?_, ?_, ?_, ?_, ?_⟩ <;> (first | rfl | (simp; done))

@[simp] theorem endTraining_calm (s : State) : (endTraining s).beat = s.beat ∧ (endTraining s).sup = s.sup ∧ (endTraining s).fuses = s.fuses ∧ (endTraining s).shelf = s.shelf ∧ (endTraining s).clm = s.clm ∧ (endTraining s).dram = s.dram ∧ (endTraining s).granules = s.granules ∧ (endTraining s).plan = s.plan ∧ sramsOf (endTraining s).csvs = sramsOf s.csvs := by
  unfold endTraining
  split
  · split
    · refine ⟨?_, ?_, ?_, ?_, ?_, ?_, ?_, ?_, ?_⟩ <;> ((first | refine (foldl_field _ _ (fun s x => ?_) _ _).trans ?_ | refine (foldl_srams _ (fun s x => ?_) _ _).trans ?_) <;> simp)
    · simp
  · simp

@[simp] theorem trainVaults_calm (s : State) (r : TrainReport) : (trainVaults s r).beat = s.beat ∧ (trainVaults s r).sup = s.sup ∧ (trainVaults s r).fuses = s.fuses ∧ (trainVaults s r).shelf = s.shelf ∧ (trainVaults s r).clm = s.clm ∧ (trainVaults s r).dram = s.dram ∧ (trainVaults s r).granules = s.granules ∧ (trainVaults s r).plan = s.plan ∧ sramsOf (trainVaults s r).csvs = sramsOf s.csvs := by
  dsimp only [trainVaults]
  refine ⟨?_, ?_, ?_, ?_, ?_, ?_, ?_, ?_, ?_⟩ <;> (first | rfl | (simp; done))

@[simp] theorem testFail_calm (s : State) (f : SelfTestFail) : (testFail s f).1.beat = s.beat ∧ (testFail s f).1.sup = s.sup ∧ (testFail s f).1.fuses = s.fuses ∧ (testFail s f).1.shelf = s.shelf ∧ (testFail s f).1.clm = s.clm ∧ (testFail s f).1.dram = s.dram ∧ (testFail s f).1.granules = s.granules ∧ (testFail s f).1.plan = s.plan ∧ sramsOf ((testFail s f).1).csvs = sramsOf s.csvs := by
  dsimp only [testFail]
  refine ⟨?_, ?_, ?_, ?_, ?_, ?_, ?_, ?_, ?_⟩ <;> (first | rfl | (simp; done) | ((repeat' split) <;> (first | rfl | (simp_all; done))))

@[simp] theorem assignWays_calm (s : State) : calm (assignWays s).2 s := by
  dsimp only [assignWays]
  refine ⟨?_, ?_, ?_, ?_, ?_, ?_, ?_, ?_, ?_, ?_⟩ <;> (first | rfl | (simp; done))

theorem buildAll_over (l : List Nat) (s : State) : (l.foldl (fun s w => (buildMaps s w).1) s).beat = s.beat ∧ (l.foldl (fun s w => (buildMaps s w).1) s).sup = s.sup ∧ (l.foldl (fun s w => (buildMaps s w).1) s).flash = s.flash ∧ (l.foldl (fun s w => (buildMaps s w).1) s).fuses = s.fuses ∧ (l.foldl (fun s w => (buildMaps s w).1) s).dram = s.dram ∧ (l.foldl (fun s w => (buildMaps s w).1) s).granules = s.granules ∧ (l.foldl (fun s w => (buildMaps s w).1) s).plan = s.plan ∧ sramsOf (l.foldl (fun s w => (buildMaps s w).1) s).csvs = sramsOf s.csvs := by
  simp

theorem buildAll_eq (s : State) : ∃ t x, t = (List.range 128).foldl (fun s w => (buildMaps s w).1) s ∧ buildAll s = { t with cabinets := x } :=
  ⟨_, _, rfl, rfl⟩

@[simp] theorem buildAll_calm (s : State) : (buildAll s).beat = s.beat ∧ (buildAll s).sup = s.sup ∧ (buildAll s).flash = s.flash ∧ (buildAll s).fuses = s.fuses ∧ (buildAll s).dram = s.dram ∧ (buildAll s).granules = s.granules ∧ (buildAll s).plan = s.plan ∧ sramsOf (buildAll s).csvs = sramsOf s.csvs := by
  obtain ⟨t, x, h, e⟩ := buildAll_eq s
  rw [e]
  have := buildAll_over (List.range 128) s
  rw [← h] at this
  exact this

@[simp] theorem assignAllSites_calm (s : State) : calm (assignAllSites s).1 s := by
  unfold assignAllSites
  generalize List.range 16 = l
  refine foldl_calm_fst (fun a v => ?_) _ _
  split
  · rename_i heq
    unfold assignSites at heq
    dsimp only at heq
    split at heq
    · cases heq
    · injection heq with heq; subst heq
      dsimp only
      split <;> simp [calm]
  · exact calm_refl _

@[simp] theorem allOff_calm (s : State) : calm (allOff s) s := by
  dsimp only [allOff]
  refine ⟨?_, ?_, ?_, ?_, ?_, ?_, ?_, ?_, ?_, ?_⟩ <;> rfl

@[simp] theorem recoveryCheck_calm (s : State) : (recoveryCheck s).beat = s.beat ∧ (recoveryCheck s).sup = s.sup ∧ (recoveryCheck s).fuses = s.fuses ∧ (recoveryCheck s).shelf = s.shelf ∧ (recoveryCheck s).clm = s.clm ∧ (recoveryCheck s).dram = s.dram ∧ (recoveryCheck s).granules = s.granules ∧ (recoveryCheck s).plan = s.plan ∧ sramsOf (recoveryCheck s).csvs = sramsOf s.csvs := by
  dsimp only [recoveryCheck]
  refine ⟨?_, ?_, ?_, ?_, ?_, ?_, ?_, ?_, ?_⟩ <;> (first | rfl | (simp; done))

@[simp] theorem epochEvent_calm (s : State) : calm (epochEvent s) s := by
  dsimp only [epochEvent]
  refine ⟨?_, ?_, ?_, ?_, ?_, ?_, ?_, ?_, ?_, ?_⟩ <;> (first | rfl | (simp; done))

@[simp] theorem fillTerms_calm (s : State) : calm (fillTerms s) s := by
  dsimp only [fillTerms]
  refine ⟨?_, ?_, ?_, ?_, ?_, ?_, ?_, ?_, ?_, ?_⟩ <;> (first | rfl | (simp; done))

@[simp] theorem fillAll_calm (s : State) : calm (fillAll s) s := by
  refine foldl_calm (fun s x => ?_) _ _
  split
  · exact mapPart_calm _ _ _
  · exact calm_refl _

@[simp] theorem pauseScrubs_calm (s : State) : calm (pauseScrubs s) s := by
  unfold pauseScrubs; split <;> exact ⟨rfl, rfl, rfl, rfl, rfl, rfl, rfl, rfl, rfl, rfl⟩

@[simp] theorem meterCsv_calm (s : State) (P : Nat) : calm (meterCsv s P) s := by
  dsimp only [meterCsv]
  refine ⟨?_, ?_, ?_, ?_, ?_, ?_, ?_, ?_, ?_, ?_⟩ <;> (first | rfl | (simp; done) | ((repeat' split) <;> (first | rfl | (simp_all; done))))

@[simp] theorem meterLate_calm (s : State) : calm (meterLate s) s := by
  refine foldl_calm (fun s d => ?_) _ _
  split
  · exact meterCsv_calm _ _
  · exact calm_refl _

@[simp] theorem meterCsvs_calm (s : State) : calm (meterCsvs s) s := by
  refine foldl_calm (fun s d => ?_) _ _
  split
  · exact meterCsv_calm _ _
  · exact calm_refl _

@[simp] theorem settleHalts_calm (s : State) : calmC (settleHalts s) s := by
  refine foldl_calmC (fun s d => ?_) _ _
  first | exact catchUp_calm _ _ _ | (split <;> first | exact catchUp_calm _ _ _ | exact calmC_refl _)

@[simp] theorem dropWrites_calm (s : State) : calm (dropWrites s) s := by
  dsimp only [dropWrites]
  refine ⟨?_, ?_, ?_, ?_, ?_, ?_, ?_, ?_, ?_, ?_⟩ <;> rfl

@[simp] theorem evaluateAlert_calm (s : State) : calm (evaluateAlert s) s := by
  dsimp only [evaluateAlert]
  refine ⟨?_, ?_, ?_, ?_, ?_, ?_, ?_, ?_, ?_, ?_⟩ <;> (first | rfl | (simp; done))

@[simp] theorem setSideband_calm (s : State) (x : Sideband) : calm (setSideband s x) s := by
  dsimp only [setSideband]
  refine ⟨?_, ?_, ?_, ?_, ?_, ?_, ?_, ?_, ?_, ?_⟩ <;> rfl

end Sys2Proof.Machine
end

