-- ==== Sys2Proof/Laws/Stores.lean ====
section
/-! SUPPORT. Laws of the sparse maps and of the coded stores: what a put, a drop and a write leave, and that every memory operation keeps
the canonical form (R8, R407 to R411). -/

namespace Sys2Proof.Machine

/-! ### Sparse maps -/

/-- Keys rise strictly. -/
def rising {α : Type} (m : SMap α) : Prop := m.Pairwise fun a b => a.1 < b.1

theorem find_eq_none_of_lt {α : Type} (m : SMap α) (k : Nat) (h : ∀ x ∈ m, k < x.1) : find m k = none := by
  cases m with
  | nil => rfl
  | cons a m =>
    obtain ⟨b, w⟩ := a
    have := h (b, w) (by simp)
    simp only [find]
    split
    · simp_all
    · rfl

theorem mem_put {α : Type} (m : SMap α) (k : Nat) (v : α) (x : Nat × α) (h : x ∈ put m k v) : x = (k, v) ∨ x ∈ m := by
  induction m with
  | nil => simpa [put] using h
  | cons a m ih =>
    obtain ⟨b, w⟩ := a
    simp only [put] at h
    split at h
    · simp at h ⊢; tauto
    · split at h
      · simp at h ⊢; tauto
      · simp at h ⊢; rcases h with h | h
        · tauto
        · have := ih h; tauto

theorem mem_drop_map {α : Type} (m : SMap α) (k : Nat) (x : Nat × α) (h : x ∈ Machine.drop m k) : x ∈ m := by
  induction m with
  | nil => simp [Machine.drop] at h
  | cons a m ih =>
    obtain ⟨b, w⟩ := a
    simp only [Machine.drop] at h
    split at h
    · simp [h]
    · split at h
      · exact h
      · simp at h ⊢; rcases h with h | h
        · tauto
        · exact Or.inr (ih h)

theorem rising_put {α : Type} (m : SMap α) (k : Nat) (v : α) (h : rising m) : rising (put m k v) := by
  induction m with
  | nil => simp [put, rising]
  | cons a m ih =>
    obtain ⟨b, w⟩ := a
    simp only [rising, List.pairwise_cons] at h ih
    simp only [put]
    split
    · subst_vars; simpa [rising] using h
    · split
      · rename_i h1 h2
        simp only [rising, List.pairwise_cons, List.mem_cons, forall_eq_or_imp]
        exact ⟨⟨h2, fun x hx => Nat.lt_trans h2 (h.1 x hx)⟩, h⟩
      · rename_i h1 h2
        simp only [rising, List.pairwise_cons]
        refine ⟨fun x hx => ?_, ih h.2⟩
        rcases mem_put m k v x hx with rfl | hx
        · simp only; omega
        · exact h.1 x hx

theorem rising_drop {α : Type} (m : SMap α) (k : Nat) (h : rising m) : rising (Machine.drop m k) := by
  induction m with
  | nil => simp [Machine.drop, rising]
  | cons a m ih =>
    obtain ⟨b, w⟩ := a
    simp only [rising, List.pairwise_cons] at h ih
    simp only [Machine.drop]
    split
    · exact h.2
    · split
      · simp only [rising, List.pairwise_cons]; exact h
      · simp only [rising, List.pairwise_cons]
        exact ⟨fun x hx => h.1 x (mem_drop_map m k x hx), ih h.2⟩

theorem find_drop_same {α : Type} (m : SMap α) (k : Nat) (h : rising m) : find (Machine.drop m k) k = none := by
  induction m with
  | nil => rfl
  | cons a m ih =>
    obtain ⟨b, w⟩ := a
    simp only [rising, List.pairwise_cons] at h
    simp only [Machine.drop]
    split
    · subst_vars; exact find_eq_none_of_lt m _ h.1
    · split
      · rename_i h1 h2; simp [find, h1, h2]
      · rename_i h1 h2; simp [find, h1, h2, ih h.2]

theorem find_drop_ne {α : Type} (m : SMap α) (k j : Nat) (h : rising m) (hj : j ≠ k) : find (Machine.drop m k) j = find m j := by
  induction m with
  | nil => rfl
  | cons a m ih =>
    obtain ⟨b, w⟩ := a
    simp only [rising, List.pairwise_cons] at h
    simp only [Machine.drop]
    split
    · subst_vars
      simp only [find, hj, if_false]
      split
      · exact find_eq_none_of_lt m _ fun x hx => Nat.lt_trans (by assumption) (h.1 x hx)
      · rfl
    · split
      · rfl
      · simp only [find, ih h.2]

/-! ### Coded stores -/

theorem storeOk_iff (c : Codec) (m : List Host.Cell) :
    storeOk c m = true ↔ rising m ∧ ∀ x ∈ m, x.2 ≠ c.unlisted x.1 := by
  induction m with
  | nil => simp [storeOk, rising]
  | cons a m ih =>
    obtain ⟨a1, a2⟩ := a
    cases m with
    | nil => simp [storeOk, rising]
    | cons b m =>
      obtain ⟨b1, b2⟩ := b
      simp only [storeOk, Bool.and_eq_true, decide_eq_true_eq, ih, rising, List.pairwise_cons, List.mem_cons, forall_eq_or_imp]
      constructor
      · rintro ⟨⟨h1, h2⟩, ⟨h3, h4⟩, h5, h6⟩
        exact ⟨⟨⟨h1, fun x hx => Nat.lt_trans h1 (h3 x hx)⟩, h3, h4⟩, h2, h5, h6⟩
      · rintro ⟨⟨⟨h1, _⟩, h3, h4⟩, h2, h5, h6⟩
        exact ⟨⟨h1, h2⟩, ⟨h3, h4⟩, h5, h6⟩

@[simp] theorem storeOk_nil (c : Codec) : storeOk c [] = true := rfl

@[simp] theorem storeOk_filter (c : Codec) (m : List Host.Cell) (p : Host.Cell → Bool) (h : storeOk c m = true) :
    storeOk c (m.filter p) = true := by
  rw [storeOk_iff] at h ⊢
  exact ⟨List.Pairwise.filter _ h.1, fun x hx => h.2 x (List.mem_filter.mp hx).1⟩

@[simp] theorem cellWrite_ok (c : Codec) (m : List Host.Cell) (a : Nat) (b : Byte) (h : storeOk c m = true) :
    storeOk c (cellWrite m c a b) = true := by
  rw [storeOk_iff] at h ⊢
  unfold cellWrite
  split
  · exact ⟨rising_drop _ _ h.1, fun x hx => h.2 x (mem_drop_map _ _ _ hx)⟩
  · refine ⟨rising_put _ _ _ h.1, fun x hx => ?_⟩
    rcases mem_put _ _ _ _ hx with rfl | hx
    · assumption
    · exact h.2 x hx

@[simp] theorem cellsWrite_ok (c : Codec) (bs : List Byte) (m : List Host.Cell) (a : Nat) (h : storeOk c m = true) :
    storeOk c (cellsWrite m c a bs) = true := by
  induction bs generalizing m a with
  | nil => exact h
  | cons b bs ih => exact ih _ _ (cellWrite_ok c m a b h)

@[simp] theorem rawPut_ok (c : Codec) (m : List Host.Cell) (i d chk : Nat) (h : storeOk c m = true) :
    storeOk c (rawPut m c i d chk) = true := cellsWrite_ok _ _ _ _ h

@[simp] theorem wordWrite_ok (c : Codec) (m : List Host.Cell) (i d : Nat) (h : storeOk c m = true) :
    storeOk c (wordWrite m c i d) = true := rawPut_ok _ _ _ _ _ h

@[simp] theorem wordPoison_ok (c : Codec) (m : List Host.Cell) (i : Nat) (h : storeOk c m = true) :
    storeOk c (wordPoison m c i) = true := rawPut_ok _ _ _ _ _ h

@[simp] theorem wordMark_ok (c : Codec) (m : List Host.Cell) (i : Nat) (h : storeOk c m = true) :
    storeOk c (wordMark m c i) = true := rawPut_ok _ _ _ _ _ h

@[simp] theorem wordMerge_ok (c : Codec) (m : List Host.Cell) (i new mask : Nat) (h : storeOk c m = true) :
    storeOk c (wordMerge m c i new mask).1 = true := by
  unfold wordMerge
  split
  · exact wordWrite_ok _ _ _ _ h
  · dsimp only
    split
    · exact wordWrite_ok _ _ _ _ h
    · exact h

@[simp] theorem unwrite_ok (c : Codec) (m : List Host.Cell) (lo hi : Nat) (h : storeOk c m = true) :
    storeOk c (unwrite m lo hi) = true := storeOk_filter _ _ _ h

theorem foldl_inv {α : Type} (P : State → Prop) {g : State → α → State} (h : ∀ s x, P s → P (g s x)) (l : List α) (s : State)
    (hs : P s) : P (l.foldl g s) := by
  induction l generalizing s with
  | nil => exact hs
  | cons a l ih => exact ih _ (h s a hs)

theorem foldl_inv_fst {α γ : Type} (P : State → Prop) {g : State × γ → α → State × γ} (h : ∀ s x, P s.1 → P (g s x).1) (l : List α)
    (s : State × γ) (hs : P s.1) : P (l.foldl g s).1 := by
  induction l generalizing s with
  | nil => exact hs
  | cons a l ih => exact ih _ (h s a hs)

/-! ### Bytes of a store: a byte written reads back, and every other byte reads as before -/

@[simp] theorem cellRead_cellWrite_self (c : Codec) (m : List Host.Cell) (a : Nat) (b : Byte) (h : storeOk c m = true) :
    cellRead (cellWrite m c a b) c a = b := by
  have hr := ((storeOk_iff c m).mp h).1
  unfold cellWrite cellRead look
  split
  · rw [find_drop_same m a hr]; simp_all
  · rw [find_put_same]; rfl

theorem cellRead_cellWrite_ne (c : Codec) (m : List Host.Cell) (a a' : Nat) (b : Byte) (h : storeOk c m = true) (ha : a' ≠ a) :
    cellRead (cellWrite m c a b) c a' = cellRead m c a' := by
  have hr := ((storeOk_iff c m).mp h).1
  unfold cellWrite cellRead look
  split
  · rw [find_drop_ne m a a' hr ha]
  · rw [find_put_ne m a a' b ha]

theorem cellRead_cellsWrite_outside (c : Codec) (bs : List Byte) (m : List Host.Cell) (a a' : Nat) (h : storeOk c m = true)
    (ha : a' < a ∨ a + bs.length ≤ a') : cellRead (cellsWrite m c a bs) c a' = cellRead m c a' := by
  induction bs generalizing m a with
  | nil => rfl
  | cons b bs ih =>
    simp only [List.length_cons] at ha
    rw [cellsWrite, ih _ _ (cellWrite_ok c m a b h) (by omega), cellRead_cellWrite_ne c m a a' b h (by omega)]

theorem cellRead_cellsWrite_inside (c : Codec) (bs : List Byte) (m : List Host.Cell) (a i : Nat) (h : storeOk c m = true)
    (hi : i < bs.length) : cellRead (cellsWrite m c a bs) c (a + i) = bs[i] := by
  induction bs generalizing m a i with
  | nil => simp at hi
  | cons b bs ih =>
    cases i with
    | zero =>
      rw [cellsWrite, cellRead_cellsWrite_outside c bs _ _ _ (cellWrite_ok c m a b h) (by omega)]
      simpa using cellRead_cellWrite_self c m a b h
    | succ i =>
      simp only [List.length_cons] at hi
      rw [cellsWrite, show a + (i + 1) = (a + 1) + i by omega, ih _ _ _ (cellWrite_ok c m a b h) (by omega)]
      simp

/-! ### Folds over states -/

@[simp] theorem foldl_shelf_ok {α : Type} (g : State → α → State) (l : List α) (s : State) (hs : storeOk shelfCodec s.shelf = true)
    (h : ∀ s x, storeOk shelfCodec s.shelf = true → storeOk shelfCodec (g s x).shelf = true) :
    storeOk shelfCodec (l.foldl g s).shelf = true := foldl_inv (fun s => storeOk shelfCodec s.shelf = true) h l s hs

@[simp] theorem foldl_clm_ok {α : Type} (g : State → α → State) (l : List α) (s : State) (hs : storeOk clmCodec s.clm = true)
    (h : ∀ s x, storeOk clmCodec s.clm = true → storeOk clmCodec (g s x).clm = true) :
    storeOk clmCodec (l.foldl g s).clm = true := foldl_inv (fun s => storeOk clmCodec s.clm = true) h l s hs

@[simp] theorem foldl_dram_ok {α : Type} (g : State → α → State) (l : List α) (s : State) (hs : storeOk vaultCodec s.dram = true)
    (h : ∀ s x, storeOk vaultCodec s.dram = true → storeOk vaultCodec (g s x).dram = true) :
    storeOk vaultCodec (l.foldl g s).dram = true := foldl_inv (fun s => storeOk vaultCodec s.dram = true) h l s hs

end Sys2Proof.Machine
end

