-- ==== Sys2Proof/Laws/Memory.lean ====
section
/-! SUPPORT. Every shared operation that writes a coded store or a conservator's SRAM keeps its canonical form (R8, R261, R407 to R411). -/

set_option linter.unusedVariables false

set_option linter.unusedSimpArgs false

set_option linter.unusedTactic false

set_option linter.unreachableTactic false

namespace Sys2Proof.Machine

theorem checked_clm_ok (s : State) (i : Issue) (faults : Nat → List Nat) (extra : List Nat) (t : State)
    (hs : storeOk clmCodec s.clm = true) (ht : storeOk clmCodec t.clm = true) : storeOk clmCodec (checked s i faults extra t).clm = true := by
  unfold checked
  split
  · simpa using hs
  · exact ht


@[simp] theorem shelfPut_shelf_ok (s : State) (core w d : Nat) (hs : storeOk shelfCodec s.shelf = true) : storeOk shelfCodec (shelfPut s core w d).shelf = true := by
  unfold shelfPut
  (repeat' split) <;> first | (simp_all; done) | (dsimp only; (repeat' split) <;> simp_all)

@[simp] theorem clmPut_clm_ok (s : State) (core a : Nat) (bs : List Byte) (hs : storeOk clmCodec s.clm = true) : storeOk clmCodec (clmPut s core a bs).clm = true := by
  induction bs generalizing s a with
  | nil => exact hs
  | cons b bs ih => exact ih _ _ (wordWrite_ok _ _ _ _ hs)

@[simp] theorem storeClm_clm_ok (s : State) (i : Issue) (hs : storeOk clmCodec s.clm = true) : storeOk clmCodec (storeClm s i).clm = true := by
  unfold storeClm
  refine checked_clm_ok _ _ _ _ _ hs ?_
  dsimp only
  rw [(finish_calm _ _ _).2.2.2.2.2.1]
  exact foldl_inv (fun s => storeOk clmCodec s.clm = true) (fun s x h => clmPut_clm_ok _ _ _ _ h) _ _ hs

@[simp] theorem clmAtomic_clm_ok (core fn size : Nat) (acc : State × List (Nat × DWord)) (g : Nat × List (Nat × DWord × DWord)) (hs : storeOk clmCodec acc.1.clm = true) : storeOk clmCodec (clmAtomic core fn size acc g).1.clm = true := by
  unfold clmAtomic
  (repeat' split) <;> first | (simp_all; done) | (dsimp only; (repeat' split) <;> simp_all)

@[simp] theorem atomicClm_clm_ok (s : State) (i : Issue) (hs : storeOk clmCodec s.clm = true) : storeOk clmCodec (atomicClm s i).clm = true := by
  unfold atomicClm
  refine checked_clm_ok _ _ _ _ _ hs ?_
  dsimp only
  have h : ∀ (l : List (Nat × List (Nat × DWord × DWord))) (c f z : Nat) (t : State) (r : List (Nat × DWord)), storeOk clmCodec t.clm = true →
      storeOk clmCodec (l.foldl (clmAtomic c f z) (t, r)).1.clm = true :=
    fun l c f z t r ht => foldl_inv_fst (fun s => storeOk clmCodec s.clm = true) (fun s x h => clmAtomic_clm_ok _ _ _ _ _ h) l (t, r) ht
  split
  · rw [(finish_calm _ _ _).2.2.2.2.2.1]; exact h _ _ _ _ _ _ (by simpa using hs)
  · rw [(finish_calm _ _ _).2.2.2.2.2.1]; exact h _ _ _ _ _ _ (by simpa using hs)

@[simp] theorem accStore_clm_ok (s : State) (i : Issue) (hs : storeOk clmCodec s.clm = true) : storeOk clmCodec (accStore s i).clm = true := by
  unfold accStore
  refine checked_clm_ok _ _ _ _ _ hs ?_
  split
  · simpa using hs
  · simp [hs]

@[simp] theorem encodeBlock_clm_ok (s : State) (i : Issue) (hs : storeOk clmCodec s.clm = true) : storeOk clmCodec (encodeBlock s i).clm = true := by
  unfold encodeBlock
  refine checked_clm_ok _ _ _ _ _ hs ?_
  simp [hs]

@[simp] theorem writeWord_shelf_ok (s : State) (core : Nat) (x : Xfer) (w d : Nat) (bad : Bool) (hs : storeOk shelfCodec s.shelf = true) : storeOk shelfCodec (writeWord s core x w d bad).shelf = true := by
  unfold writeWord
  (repeat' split) <;> first | (simp_all; done) | (dsimp only; (repeat' split) <;> simp_all)

@[simp] theorem writePoison_shelf_ok (s : State) (core : Nat) (x : Xfer) (w : Nat) (hs : storeOk shelfCodec s.shelf = true) : storeOk shelfCodec (writePoison s core x w).shelf = true := by
  unfold writePoison
  dsimp only
  refine wordPoison_ok _ _ _ ?_
  simpa using hs

@[simp] theorem putContext_shelf_ok (s : State) (core : Nat) (x : Xfer) (c : Core) (t : Tour) (crcBad : List Nat) (hs : storeOk shelfCodec s.shelf = true) : storeOk shelfCodec (putContext s core x c t crcBad).shelf = true := by
  unfold putContext
  refine foldl_inv (fun s => storeOk shelfCodec s.shelf = true) (fun s x h => ?_) _ _ hs
  dsimp only
  split
  · exact writePoison_shelf_ok _ _ _ _ h
  · exact writeWord_shelf_ok _ _ _ _ _ _ h

@[simp] theorem startWrite_shelf_ok (s : State) (core g : Nat) (q : Xfer) (rest : List Xfer) (crcBad : List Nat) (hs : storeOk shelfCodec s.shelf = true) : storeOk shelfCodec (startWrite s core g q rest crcBad).shelf = true := by
  unfold startWrite
  dsimp only
  rw [(gateAcks_calm _ _ _ _).2.2.2.2.1]
  refine foldl_inv (fun s => storeOk shelfCodec s.shelf = true) (fun s x h => ?_) _ _ ?_
  · split
    · exact h
    · exact writeWord_shelf_ok _ _ _ _ _ _ h
  · rw [(setCore_calm _ _ _).2.2.2.2.1]; exact hs

@[simp] theorem rmwWrite_shelf_ok (s : State) (core g : Nat) (m : Rmw) (x : Xfer) (rest : List Xfer) (crcBad : Bool) (hs : storeOk shelfCodec s.shelf = true) : storeOk shelfCodec (rmwWrite s core g m x rest crcBad).shelf = true := by
  unfold rmwWrite
  (repeat' split) <;> first | (simp_all; done) | (dsimp only; (repeat' split) <;> simp_all)

@[simp] theorem loseStack_clm_ok (s : State) (st : Nat) (hs : storeOk clmCodec s.clm = true) : storeOk clmCodec (loseStack s st).clm = true := by
  unfold loseStack
  (repeat' split) <;> first | (simp_all; done) | (dsimp only; (repeat' split) <;> simp_all)

@[simp] theorem loseDomain_clm_ok (s : State) (k : DomainKind) (i : Nat) (hs : storeOk clmCodec s.clm = true) : storeOk clmCodec (loseDomain s k i).clm = true := by
  unfold loseDomain
  (repeat' split) <;> first | (simp_all; done) | (dsimp only; (repeat' split) <;> simp_all)

@[simp] theorem deaccession_shelf_ok (s : State) (kind index : Nat) (hs : storeOk shelfCodec s.shelf = true) : storeOk shelfCodec (deaccession s kind index).shelf = true := by
  unfold deaccession
  (repeat' split) <;> first | (simp_all; done) | (dsimp only; (repeat' split) <;> simp_all)

@[simp] theorem deaccession_dram_ok (s : State) (kind index : Nat) (hs : storeOk vaultCodec s.dram = true) : storeOk vaultCodec (deaccession s kind index).dram = true := by
  unfold deaccession
  (repeat' split) <;> first | (simp_all; done) | (dsimp only; (repeat' split) <;> simp_all)

@[simp] theorem countReset_shelf_ok (s : State) (hs : storeOk shelfCodec s.shelf = true) : storeOk shelfCodec (countReset s).shelf = true := by
  unfold countReset
  (repeat' split) <;> first | (simp_all; done) | (dsimp only; (repeat' split) <;> simp_all)

@[simp] theorem countReset_dram_ok (s : State) (hs : storeOk vaultCodec s.dram = true) : storeOk vaultCodec (countReset s).dram = true := by
  unfold countReset
  (repeat' split) <;> first | (simp_all; done) | (dsimp only; (repeat' split) <;> simp_all)

@[simp] theorem resetDomain_shelf_ok (s : State) (k : DomainKind) (i cause : Nat) (f : FaultRec) (hs : storeOk shelfCodec s.shelf = true) : storeOk shelfCodec (resetDomain s k i cause f).shelf = true := by
  unfold resetDomain
  (repeat' split) <;> first | (simp_all; done) | (dsimp only; (repeat' split) <;> simp_all)

@[simp] theorem resetDomain_clm_ok (s : State) (k : DomainKind) (i cause : Nat) (f : FaultRec) (hs : storeOk clmCodec s.clm = true) : storeOk clmCodec (resetDomain s k i cause f).clm = true := by
  unfold resetDomain
  (repeat' split) <;> first | (simp_all; done) | (dsimp only; (repeat' split) <;> simp_all)

@[simp] theorem resetDomain_dram_ok (s : State) (k : DomainKind) (i cause : Nat) (f : FaultRec) (hs : storeOk vaultCodec s.dram = true) : storeOk vaultCodec (resetDomain s k i cause f).dram = true := by
  unfold resetDomain
  (repeat' split) <;> first | (simp_all; done) | (dsimp only; (repeat' split) <;> simp_all)

@[simp] theorem resetFor_shelf_ok (s : State) (k : DomainKind) (i cause : Nat) (hs : storeOk shelfCodec s.shelf = true) : storeOk shelfCodec (resetFor s k i cause).shelf = true := by
  unfold resetFor
  (repeat' split) <;> first | (simp_all; done) | (dsimp only; (repeat' split) <;> simp_all)

@[simp] theorem resetFor_clm_ok (s : State) (k : DomainKind) (i cause : Nat) (hs : storeOk clmCodec s.clm = true) : storeOk clmCodec (resetFor s k i cause).clm = true := by
  unfold resetFor
  (repeat' split) <;> first | (simp_all; done) | (dsimp only; (repeat' split) <;> simp_all)

@[simp] theorem resetFor_dram_ok (s : State) (k : DomainKind) (i cause : Nat) (hs : storeOk vaultCodec s.dram = true) : storeOk vaultCodec (resetFor s k i cause).dram = true := by
  unfold resetFor
  (repeat' split) <;> first | (simp_all; done) | (dsimp only; (repeat' split) <;> simp_all)

@[simp] theorem coldShutdown_shelf_ok (s : State) (hs : storeOk shelfCodec s.shelf = true) : storeOk shelfCodec (coldShutdown s).shelf = true := by
  unfold coldShutdown
  (repeat' split) <;> first | (simp_all; done) | (dsimp only; (repeat' split) <;> simp_all)

@[simp] theorem coldShutdown_dram_ok (s : State) (hs : storeOk vaultCodec s.dram = true) : storeOk vaultCodec (coldShutdown s).dram = true := by
  unfold coldShutdown
  (repeat' split) <;> first | (simp_all; done) | (dsimp only; (repeat' split) <;> simp_all)

@[simp] theorem vaultPut_dram_ok (s : State) (P off k : Nat) (f : Checked) (hs : storeOk vaultCodec s.dram = true) : storeOk vaultCodec (vaultPut s P off k f).dram = true := by
  unfold vaultPut
  (repeat' split) <;> first | (simp_all; done) | (dsimp only; (repeat' split) <;> simp_all)

@[simp] theorem vaultMerge_dram_ok (s : State) (part : Option Nat) (P off k d mask : Nat) (hs : storeOk vaultCodec s.dram = true) : storeOk vaultCodec (vaultMerge s part P off k d mask).dram = true := by
  unfold vaultMerge
  (repeat' split) <;> first | (simp_all; done) | (dsimp only; (repeat' split) <;> simp_all)

@[simp] theorem vaultStore_dram_ok (s : State) (part : Option Nat) (P off : Nat) (r : Req) (secs : List Nat) (hs : storeOk vaultCodec s.dram = true) : storeOk vaultCodec (vaultStore s part P off r secs).dram = true := by
  unfold vaultStore
  (repeat' split) <;> first | (simp_all; done) | (dsimp only; (repeat' split) <;> simp_all)

@[simp] theorem passBy_dram_ok (t : Turn) (q : Place) (n : Nat) (r : Req) (hs : storeOk vaultCodec t.s.dram = true) : storeOk vaultCodec (passBy t q n r).s.dram = true := by
  unfold passBy
  (repeat' split) <;> first | (simp_all; done) | (dsimp only; (repeat' split) <;> simp_all)

@[simp] theorem mixedAccess_dram_ok (t : Turn) (q : Place) (n : Nat) (r : Req) (way : Nat) (h : Bool) (l : Line) (hs : storeOk vaultCodec t.s.dram = true) : storeOk vaultCodec (mixedAccess t q n r way h l).s.dram = true := by
  unfold mixedAccess
  (repeat' split) <;> first | (simp_all; done) | (dsimp only; (repeat' split) <;> simp_all)

@[simp] theorem meetDead_dram_ok (t : Turn) (q : Place) (n : Nat) (r : Req) (way : Nat) (h : Bool) (l : Line) (sched : Bool) (hs : storeOk vaultCodec t.s.dram = true) : storeOk vaultCodec (meetDead t q n r way h l sched).s.dram = true := by
  unfold meetDead
  (repeat' split) <;> first | (simp_all; done) | (dsimp only; (repeat' split) <;> simp_all)

@[simp] theorem meetAbsent_dram_ok (t : Turn) (q : Place) (n : Nat) (r : Req) (sched : Bool) (hs : storeOk vaultCodec t.s.dram = true) : storeOk vaultCodec (meetAbsent t q n r sched).s.dram = true := by
  unfold meetAbsent
  (repeat' split) <;> first | (simp_all; done) | (dsimp only; (repeat' split) <;> simp_all)

@[simp] theorem joinFillUncached_dram_ok (t : Turn) (q : Place) (n : Nat) (r : Req) (hs : storeOk vaultCodec t.s.dram = true) : storeOk vaultCodec (joinFillUncached t q n r).s.dram = true := by
  unfold joinFillUncached
  dsimp only
  split
  · rw [(respond_calm _ _ _ _ _).2.2.2.2.2.2.1]; exact hs
  · rw [(setReq_calm _ _ _).2.2.2.2.2.2.1]; exact vaultStore_dram_ok _ _ _ _ _ _ hs

@[simp] theorem access_dram_ok (s : State) (q : Place) (n : Nat) (r : Req) (hs : storeOk vaultCodec s.dram = true) : storeOk vaultCodec (access s q n r).s.dram = true := by
  unfold access
  (repeat' split) <;> first | (simp_all; done) | (dsimp only; (repeat' split) <;> simp_all)

@[simp] theorem serve_dram_ok (req : Nat) (j : Fin 5) (q : Place) (r : Req) (s : State) (hs : storeOk vaultCodec s.dram = true) : storeOk vaultCodec (serve req j q r s).dram = true := by
  unfold serve
  (repeat' split) <;> first | (simp_all; done) | (dsimp only; (repeat' split) <;> simp_all)

@[simp] theorem landEntry_dram_ok (s : State) (i key : Nat) (e : WbEntry) (hs : storeOk vaultCodec s.dram = true) : storeOk vaultCodec (landEntry s i key e).dram = true := by
  unfold landEntry
  dsimp only
  split
  · exact hs
  · refine foldl_inv (fun s => storeOk vaultCodec s.dram = true) (fun s x h => ?_) _ _ hs
    split
    · rw [(noteSector_calm _ _ _ _ _ _).2.2.2.2.2.2.1]; exact vaultPut_dram_ok _ _ _ _ _ h
    · exact h

@[simp] theorem rangePrefetch_dram_ok (q : Place) (n : Nat) (r : Req) (s : State) (hs : storeOk vaultCodec s.dram = true) : storeOk vaultCodec (rangePrefetch q n r s).s.dram = true := by
  unfold rangePrefetch
  (repeat' split) <;> first | (simp_all; done) | (dsimp only; (repeat' split) <;> simp_all)

@[simp] theorem landNow_dram_ok (s : State) (i key : Nat) (e : WbEntry) (hs : storeOk vaultCodec s.dram = true) : storeOk vaultCodec (landNow s i key e).dram = true := by
  unfold landNow
  dsimp only
  refine foldl_inv (fun s => storeOk vaultCodec s.dram = true) (fun s x h => ?_) _ _ ?_
  · rw [(runEffs_calm _ _ _).2.2.2.2.2.2.1]
    split
    · exact h
    · exact h
  · rw [(runEffs_calm _ _ _).2.2.2.2.2.2.1, (freeEntry_calm _ _ _).2.2.2.2.2.2.1]; exact landEntry_dram_ok _ _ _ _ hs

@[simp] theorem purgeHalf_dram_ok (s : State) (i set way : Nat) (h : Bool) (l : Line) (hs : storeOk vaultCodec s.dram = true) : storeOk vaultCodec (purgeHalf s i set way h l).dram = true := by
  unfold purgeHalf
  dsimp only
  rw [(mapSlice_calm _ _ _).2.2.2.2.2.2.1]
  refine landEntry_dram_ok _ _ _ _ ?_
  refine foldl_inv (fun s => storeOk vaultCodec s.dram = true) (fun s x h => ?_) _ _ hs
  repeat' split
  all_goals first | exact h | (rw [(noteSector_calm _ _ _ _ _ _).2.2.2.2.2.2.1]; exact h)

@[simp] theorem purge_dram_ok (s : State) (pick : Nat → Nat → Line → Bool) (pickWb : WbEntry → Bool) (hs : storeOk vaultCodec s.dram = true) : storeOk vaultCodec (purge s pick pickWb).dram = true := by
  unfold purge
  refine foldl_inv (fun s => storeOk vaultCodec s.dram = true) (fun s x h => ?_) _ _ hs
  dsimp only
  refine foldl_inv (fun s => storeOk vaultCodec s.dram = true) (fun s x h => ?_) _ _
    (foldl_inv (fun s => storeOk vaultCodec s.dram = true) (fun s x h => landNow_dram_ok _ _ _ _ h) _ _ h)
  refine foldl_inv (fun s => storeOk vaultCodec s.dram = true) (fun s x h => ?_) _ _ h
  split
  · split
    · exact purgeHalf_dram_ok _ _ _ _ _ _ h
    · exact h
  · exact h

@[simp] theorem atWindow_dram_ok (s : State) (P : Nat) (c : CtrlReq) (a : Nat) (hs : storeOk vaultCodec s.dram = true) : storeOk vaultCodec (atWindow s P c a).1.dram = true := by
  unfold atWindow
  (repeat' split) <;> first | (simp_all; done) | (dsimp only; (repeat' split) <;> simp_all)

@[simp] theorem burstWrite_dram_ok (s : State) (P line dst : Nat) (hs : storeOk vaultCodec s.dram = true) : storeOk vaultCodec (burstWrite s P line dst).dram = true := by
  unfold burstWrite
  refine foldl_inv (fun s => storeOk vaultCodec s.dram = true) (fun s x h => ?_) _ _ hs
  dsimp only
  split <;> (refine vaultPut_dram_ok _ _ _ _ _ ?_; rw [(foldl_keeps _ _ _).2.2.2.2.2.2.1 (fun s x => (sramFault_calm _ _ _ _).2.2.2.2.2.2.1)]; exact h)

@[simp] theorem steerRow_shelf_ok (s : State) (key : Nat) (hs : storeOk shelfCodec s.shelf = true) : storeOk shelfCodec (steerRow s key).shelf = true := by
  unfold steerRow
  (repeat' split) <;> first | (simp_all; done) | (dsimp only; (repeat' split) <;> simp_all)

@[simp] theorem clearSite_shelf_ok (s : State) (site : Nat) (hs : storeOk shelfCodec s.shelf = true) : storeOk shelfCodec (clearSite s site).shelf = true := by
  unfold clearSite
  (repeat' split) <;> first | (simp_all; done) | (dsimp only; (repeat' split) <;> simp_all)

@[simp] theorem clearSite_clm_ok (s : State) (site : Nat) (hs : storeOk clmCodec s.clm = true) : storeOk clmCodec (clearSite s site).clm = true := by
  unfold clearSite
  (repeat' split) <;> first | (simp_all; done) | (dsimp only; (repeat' split) <;> simp_all)

@[simp] theorem buildMaps_shelf_ok (s : State) (wing : Nat) (hs : storeOk shelfCodec s.shelf = true) : storeOk shelfCodec (buildMaps s wing).1.shelf = true := by
  unfold buildMaps
  generalize List.range 9 = l9
  generalize List.range 10 = l10
  simp only [foldl_keeps, mapCab_calm, implies_true]
  refine foldl_inv (fun s => storeOk shelfCodec s.shelf = true) (fun s x h => clearSite_shelf_ok _ _ h) _ _ ?_
  simp only [foldl_keeps, mapCab_calm, implies_true, setWing, markSites_calm]
  exact foldl_inv (fun s => storeOk shelfCodec s.shelf = true) (fun s x h => steerRow_shelf_ok _ _ h) _ _ hs

@[simp] theorem buildMaps_clm_ok (s : State) (wing : Nat) (hs : storeOk clmCodec s.clm = true) : storeOk clmCodec (buildMaps s wing).1.clm = true := by
  unfold buildMaps
  (repeat' split) <;> first | (simp_all; done) | (dsimp only; (repeat' split) <;> simp_all)

@[simp] theorem createWings_shelf_ok (s : State) (p : Nat) (hs : storeOk shelfCodec s.shelf = true) : storeOk shelfCodec (createWings s p).1.shelf = true := by
  unfold createWings
  refine foldl_inv_fst (fun s => storeOk shelfCodec s.shelf = true) (fun s x h => ?_) _ _ hs
  generalize List.range 9 = l9
  simp [h]

@[simp] theorem createWings_clm_ok (s : State) (p : Nat) (hs : storeOk clmCodec s.clm = true) : storeOk clmCodec (createWings s p).1.clm = true := by
  unfold createWings
  refine foldl_inv_fst (fun s => storeOk clmCodec s.clm = true) (fun s x h => ?_) _ _ hs
  generalize List.range 9 = l9
  simp [h]

@[simp] theorem createPart_shelf_ok (s : State) (p : Nat) (ports lanes : BitVec 8) (ways slots : BitVec 16) (share : Nat) (wings : BitVec 128) (hs : storeOk shelfCodec s.shelf = true) : storeOk shelfCodec (createPart s p ports lanes ways slots share wings).1.shelf = true := by
  unfold createPart
  (repeat' split) <;> first | (simp_all; done) | (dsimp only; (repeat' split) <;> simp_all)

@[simp] theorem createPart_clm_ok (s : State) (p : Nat) (ports lanes : BitVec 8) (ways slots : BitVec 16) (share : Nat) (wings : BitVec 128) (hs : storeOk clmCodec s.clm = true) : storeOk clmCodec (createPart s p ports lanes ways slots share wings).1.clm = true := by
  unfold createPart
  (repeat' split) <;> first | (simp_all; done) | (dsimp only; (repeat' split) <;> simp_all)

@[simp] theorem renewPart_shelf_ok (s : State) (p : Nat) (hs : storeOk shelfCodec s.shelf = true) : storeOk shelfCodec (renewPart s p).1.shelf = true := by
  unfold renewPart
  (repeat' split) <;> first | (simp_all; done) | (dsimp only; (repeat' split) <;> simp_all)

@[simp] theorem renewPart_clm_ok (s : State) (p : Nat) (hs : storeOk clmCodec s.clm = true) : storeOk clmCodec (renewPart s p).1.clm = true := by
  unfold renewPart
  (repeat' split) <;> first | (simp_all; done) | (dsimp only; (repeat' split) <;> simp_all)

@[simp] theorem destroyPart_dram_ok (s : State) (p : Nat) (hs : storeOk vaultCodec s.dram = true) : storeOk vaultCodec (destroyPart s p).dram = true := by
  have h : storeOk vaultCodec (stopPart s p).dram = true := by rw [(stopPart_calm s p).2.2.2.2.2.2.1]; exact hs
  unfold destroyPart
  simp only [foldl_keeps, setPart_calm, deleteRing_calm, darkWing_calm, implies_true, purge_dram_ok _ _ _ h]

@[simp] theorem purgeGranule_dram_ok (s : State) (g : Nat) (hs : storeOk vaultCodec s.dram = true) : storeOk vaultCodec (purgeGranule s g).dram = true := by
  unfold purgeGranule
  (repeat' split) <;> first | (simp_all; done) | (dsimp only; (repeat' split) <;> simp_all)

@[simp] theorem codePut_shelf_ok (s : State) (r : CodeRef) (d chk : Nat) (hs : storeOk shelfCodec s.shelf = true) : storeOk shelfCodec (codePut s r d chk).shelf = true := by
  unfold codePut
  (repeat' split) <;> first | (simp_all; done) | (dsimp only; (repeat' split) <;> simp_all)

@[simp] theorem codePut_dram_ok (s : State) (r : CodeRef) (d chk : Nat) (hs : storeOk vaultCodec s.dram = true) : storeOk vaultCodec (codePut s r d chk).dram = true := by
  unfold codePut
  (repeat' split) <;> first | (simp_all; done) | (dsimp only; (repeat' split) <;> simp_all)

@[simp] theorem scrubMend_shelf_ok (s : State) (x : Scrubber) (n : Nat) (f : Nat × Nat × Nat) (hs : storeOk shelfCodec s.shelf = true) : storeOk shelfCodec (scrubMend s x n f).shelf = true := by
  unfold scrubMend
  split
  · split
    · split <;> exact codePut_shelf_ok _ _ _ _ hs
    · exact hs
  · exact hs

@[simp] theorem scrubMend_dram_ok (s : State) (x : Scrubber) (n : Nat) (f : Nat × Nat × Nat) (hs : storeOk vaultCodec s.dram = true) : storeOk vaultCodec (scrubMend s x n f).dram = true := by
  unfold scrubMend
  split
  · split
    · split <;> exact codePut_dram_ok _ _ _ _ hs
    · exact hs
  · exact hs

@[simp] theorem rawAct_shelf_ok (s : State) (o : RawOp) (hs : storeOk shelfCodec s.shelf = true) : storeOk shelfCodec (rawAct s o).shelf = true := by
  unfold rawAct
  repeat' split
  · exact hs
  · exact hs
  · rw [(forgetFix_calm _ _).2.2.2.2.1]; exact codePut_shelf_ok _ _ _ _ hs
  · exact hs
  · rw [(rawReadInto_calm _ _).2.2.2.2.1]; exact hs

@[simp] theorem rawAct_dram_ok (s : State) (o : RawOp) (hs : storeOk vaultCodec s.dram = true) : storeOk vaultCodec (rawAct s o).dram = true := by
  unfold rawAct
  repeat' split
  · exact hs
  · exact hs
  · rw [(forgetFix_calm _ _).2.2.2.2.2.2.1]; exact codePut_dram_ok _ _ _ _ hs
  · exact hs
  · rw [(rawReadInto_calm _ _).2.2.2.2.2.2.1]; exact hs

@[simp] theorem legacyPart_shelf_ok (s : State) (hs : storeOk shelfCodec s.shelf = true) : storeOk shelfCodec (legacyPart s).shelf = true := by
  unfold legacyPart
  split
  · rw [(commitPart_calm _ _).2.2.2.2.1]; exact createPart_shelf_ok _ _ _ _ _ _ _ _ hs
  · exact hs

@[simp] theorem legacyPart_clm_ok (s : State) (hs : storeOk clmCodec s.clm = true) : storeOk clmCodec (legacyPart s).clm = true := by
  unfold legacyPart
  split
  · rw [(commitPart_calm _ _).2.2.2.2.2.1]; exact createPart_clm_ok _ _ _ _ _ _ _ _ hs
  · exact hs

@[simp] theorem endBringup_shelf_ok (s : State) (kind index : Nat) (hs : storeOk shelfCodec s.shelf = true) : storeOk shelfCodec (endBringup s kind index).shelf = true := by
  unfold endBringup
  exact deaccession_shelf_ok _ _ _ (legacyPart_shelf_ok _ hs)

@[simp] theorem endBringup_dram_ok (s : State) (kind index : Nat) (hs : storeOk vaultCodec s.dram = true) : storeOk vaultCodec (endBringup s kind index).dram = true := by
  unfold endBringup
  refine deaccession_dram_ok _ _ _ ?_
  rw [(legacyPart_calm _).2.2.2.2.1]; exact hs

@[simp] theorem endBringup_clm_ok (s : State) (kind index : Nat) (hs : storeOk clmCodec s.clm = true) : storeOk clmCodec (endBringup s kind index).clm = true := by
  unfold endBringup
  rw [(deaccession_calm _ _ _).2.2.2.2.1]
  exact legacyPart_clm_ok _ hs

@[simp] theorem buildAll_shelf_ok (s : State) (hs : storeOk shelfCodec s.shelf = true) : storeOk shelfCodec (buildAll s).shelf = true := by
  obtain ⟨t, x, h, e⟩ := buildAll_eq s
  rw [e]
  show storeOk shelfCodec t.shelf = true
  rw [h]
  exact foldl_inv (fun s => storeOk shelfCodec s.shelf = true) (fun s x h => buildMaps_shelf_ok _ _ h) _ _ hs

@[simp] theorem buildAll_clm_ok (s : State) (hs : storeOk clmCodec s.clm = true) : storeOk clmCodec (buildAll s).clm = true := by
  obtain ⟨t, x, h, e⟩ := buildAll_eq s
  rw [e]
  show storeOk clmCodec t.clm = true
  rw [h]
  exact foldl_inv (fun s => storeOk clmCodec s.clm = true) (fun s x h => buildMaps_clm_ok _ _ h) _ _ hs

/-! ### The conservators' SRAMs -/

/-- The I-SRAM and the D-SRAM of one conservator are in canonical form. -/
def Csv.sramsOk (c : Csv) : Prop := storeOk sramCodec c.isram = true ∧ storeOk sramCodec c.dsram = true

theorem csvOf_sramsOk {s : State} (hs : sramsOk (sramsOf s.csvs)) (P : Nat) : (csvOf s P).sramsOk := hs P

theorem setCsv_srams_ok {s : State} {P : Nat} {x : Csv} (hs : sramsOk (sramsOf s.csvs)) (hx : x.sramsOk) :
    sramsOk (sramsOf (setCsv s P x).csvs) := by
  intro Q
  by_cases e : Q = P
  · subst e
    have h : csvOf (setCsv s Q x) Q = x := look_put_same _ _ _ _
    rw [← h] at hx; exact hx
  · have h : csvOf (setCsv s P x) Q = csvOf s Q := look_put_ne _ _ _ _ _ e
    have := hs Q
    rw [← csvOf_isram, ← csvOf_dsram] at this ⊢
    rw [h]; exact this

theorem setCsvF_srams_ok {s : State} {P : Nat} {f : Csv → Csv} (hs : sramsOk (sramsOf s.csvs)) (hf : ∀ c : Csv, c.sramsOk → (f c).sramsOk) :
    sramsOk (sramsOf (setCsvF s P f).csvs) := setCsv_srams_ok hs (hf _ (csvOf_sramsOk hs P))

theorem srams_ok_of {s t : State} (e : sramsOf t.csvs = sramsOf s.csvs) (hs : sramsOk (sramsOf s.csvs)) : sramsOk (sramsOf t.csvs) := by
  rw [e]; exact hs

theorem srams_ok_of_calm {s t : State} (h : calm t s) (hs : sramsOk (sramsOf s.csvs)) : sramsOk (sramsOf t.csvs) :=
  srams_ok_of h.2.2.2.2.2.2.2.2.2 hs

theorem foldl_csv {α : Type} {g : Csv → α → Csv} (h : ∀ c x, c.sramsOk → (g c x).sramsOk) (l : List α) (c : Csv) (hc : c.sramsOk) :
    (l.foldl g c).sramsOk := by
  induction l generalizing c with
  | nil => exact hc
  | cons a l ih => exact ih _ (h _ _ hc)

theorem dWrite_sramsOk {c : Csv} (off d : Nat) (h : c.sramsOk) : (dWrite c off d).sramsOk := by
  unfold dWrite
  generalize (off - 0x10000) / 4 = i
  exact ⟨h.1, wordWrite_ok _ _ _ _ h.2⟩

theorem landLines_sramsOk {c : Csv} (cc : Nat) (h : c.sramsOk) : (landLines c cc).sramsOk := by
  unfold landLines
  generalize List.range 8 = m
  dsimp only
  refine foldl_csv (fun c x hc => ?_) _ _ (foldl_csv (fun c x hc => dWrite_sramsOk _ _ hc) _ _ h)
  refine foldl_csv (fun c x hc => ?_) _ _ hc
  split
  · exact foldl_csv (fun c x hc => dWrite_sramsOk _ _ hc) _ _ hc
  · exact hc

theorem settleHalt_sramsOk {c : Csv} (cc : Nat) (h : c.sramsOk) : (settleHalt c cc).sramsOk := by
  unfold settleHalt; split <;> exact h

theorem setX_sramsOk {c : Csv} (g r : Nat) (v : Word) (lat : Nat) (h : c.sramsOk) : (setX c g r v lat).sramsOk := by
  unfold setX; split <;> exact h

@[simp] theorem unitTrap_srams (s : State) (P : Nat) (u : UnitWork) : sramsOf (unitTrap s P u).csvs = sramsOf s.csvs :=
  setCsvF_srams _ _ _ (fun c => by split <;> exact ⟨rfl, rfl⟩)

theorem unitStep_srams_ok (s : State) (P : Nat) (u : UnitWork) (t : Nat) (hs : sramsOk (sramsOf s.csvs)) :
    sramsOk (sramsOf (unitStep s P u t).csvs) := by
  unfold unitStep
  dsimp only
  have h0 : sramsOk (sramsOf (setCsvF s P fun c => landLines c (u.issue + 1 + t)).csvs) :=
    setCsvF_srams_ok hs fun c h => landLines_sramsOk _ h
  split
  · rename_i heq; rw [unitTrap_srams]; exact srams_ok_of_calm (calm_fst heq (rowAt_calm _ _ _ _)) h0
  · rename_i heq
    have h1 := srams_ok_of_calm (calm_fst heq (rowAt_calm _ _ _ _)) h0
    split
    · exact setCsvF_srams_ok h1 fun c h => h
    · split
      · rename_i heq2; rw [unitTrap_srams]; exact srams_ok_of_calm (calm_fst heq2 (rowAt_calm _ _ _ _)) h1
      · rename_i heq2; exact setCsvF_srams_ok (srams_ok_of_calm (calm_fst heq2 (rowAt_calm _ _ _ _)) h1) fun c h => h

@[simp] theorem runUnit_srams_ok (s : State) (P cc : Nat) (hs : sramsOk (sramsOf s.csvs)) :
    sramsOk (sramsOf (runUnit s P cc).csvs) := by
  unfold runUnit
  split
  · exact hs
  · refine foldl_inv (fun s => sramsOk (sramsOf s.csvs)) (fun s t h => ?_) _ _ hs
    split
    · split
      · exact unitStep_srams_ok _ _ _ _ h
      · exact h
    · exact h

@[simp] theorem catchUp_srams_ok (s : State) (P cc : Nat) (hs : sramsOk (sramsOf s.csvs)) :
    sramsOk (sramsOf (catchUp s P cc).csvs) :=
  setCsvF_srams_ok (runUnit_srams_ok s P cc hs) fun _ h => settleHalt_sramsOk _ (landLines_sramsOk _ h)

@[simp] theorem csvStart_srams (s : State) (P : Nat) : sramsOf (csvStart s P).csvs = sramsOf s.csvs :=
  setCsvF_srams _ _ _ (fun c => by dsimp only; unfold settleHalt; (repeat' split) <;> exact ⟨rfl, rfl⟩)

@[simp] theorem csvHalt_srams (s : State) (P : Nat) : sramsOf (csvHalt s P).csvs = sramsOf s.csvs :=
  setCsvF_srams _ _ _ (fun c => by (repeat' split) <;> exact ⟨rfl, rfl⟩)

@[simp] theorem csvDoorbell_srams (s : State) (P n t : Nat) : sramsOf (csvDoorbell s P n t).csvs = sramsOf s.csvs :=
  setCsvF_srams _ _ _ (fun c => by (repeat' split) <;> exact ⟨rfl, rfl⟩)

@[simp] theorem csvRegWrite_srams (s : State) (P off v t : Nat) : sramsOf (csvRegWrite s P off v t).csvs = sramsOf s.csvs := by
  unfold csvRegWrite
  (repeat' split) <;> first
    | rfl
    | exact csvStart_srams _ _
    | exact csvHalt_srams _ _
    | exact csvDoorbell_srams _ _ _ _
    | exact setCsvF_srams _ _ _ (fun c => by (repeat' split) <;> exact ⟨rfl, rfl⟩)

theorem windowWriteWord_srams_ok (s : State) (P E off d mask : Nat) (hs : sramsOk (sramsOf s.csvs)) :
    sramsOk (sramsOf (windowWriteWord s P E off d mask).csvs) := by
  have hc := csvOf_sramsOk hs P
  unfold windowWriteWord
  dsimp only
  repeat' split
  · exact setCsv_srams_ok hs hc
  · exact srams_ok_of_calm (sramFault_calm _ _ _ _) (setCsv_srams_ok hs ⟨wordMerge_ok _ _ _ _ _ hc.1, hc.2⟩)
  · exact srams_ok_of_calm (sramFault_calm _ _ _ _) (setCsv_srams_ok hs ⟨hc.1, wordMerge_ok _ _ _ _ _ hc.2⟩)
  · exact setCsv_srams_ok hs hc
  · rw [csvRegWrite_srams]; exact hs
  · rw [csvRegWrite_srams]; exact hs
  · exact hs

theorem windowWrite_srams_ok (s : State) (P n : Nat) (r : Req) (base E ack : Nat) (hs : sramsOk (sramsOf s.csvs)) :
    sramsOk (sramsOf (windowWrite s P n r base E ack).csvs) := by
  unfold windowWrite
  dsimp only
  refine srams_ok_of_calm (answer_calm _ _ _ _) ?_
  split
  · exact hs
  · refine foldl_inv (fun s => sramsOk (sramsOf s.csvs)) (fun s i h => ?_) _ _ hs
    split
    · exact h
    · exact windowWriteWord_srams_ok _ _ _ _ _ _ h

@[simp] theorem readNow_srams_ok (s : State) (P req : Nat) (r : Req) (base pc : Nat) (hs : sramsOk (sramsOf s.csvs)) :
    sramsOk (sramsOf (readNow s P req r base pc).csvs) :=
  srams_ok_of_calm (windowRead_calm _ _ _ _ _ _) (catchUp_srams_ok _ _ _ hs)

@[simp] theorem writeNow_srams_ok (s : State) (P req : Nat) (r : Req) (base t : Nat) (hs : sramsOk (sramsOf s.csvs)) :
    sramsOk (sramsOf (writeNow s P req r base t).csvs) :=
  windowWrite_srams_ok _ _ _ _ _ _ _
    (setCsvF_srams_ok (runUnit_srams_ok _ _ _ hs) fun _ h => settleHalt_sramsOk _ (landLines_sramsOk _ h))

@[simp] theorem trapCsv_srams (s : State) (P cause : Nat) : sramsOf (trapCsv s P cause).csvs = sramsOf s.csvs :=
  setCsvF_srams _ _ _ fun _ => ⟨rfl, rfl⟩

theorem csvNoted_srams (s : State) (P line cc : Nat) (n : Nat) (b : Bool) :
    sramsOf (setCsvF s P fun c =>
      if n = 0 then c
      else if b then c.faultFlag 1 cc
      else { c.faultFlag 0 cc with faultLine := if c.faultBits.getLsbD 0 then c.faultLine else BitVec.ofNat 23 line }).csvs = sramsOf s.csvs :=
  setCsvF_srams _ _ _ fun c => by
    split
    · exact ⟨rfl, rfl⟩
    · split <;> exact ⟨rfl, rfl⟩

@[simp] theorem burstRead_srams (s : State) (P line cc : Nat) : sramsOf (burstRead s P line cc).1.csvs = sramsOf s.csvs := by
  unfold burstRead
  generalize vaultRaw s P (128 * line) = raw
  generalize 128 * line = off
  generalize List.range 4 = l
  refine foldl_srams_fst _ (fun a k => ?_) _ _
  generalize vaultFinding raw k = f
  refine (csvNoted_srams _ _ _ _ _ _).trans ?_
  simp

@[simp] theorem settleHalts_srams_ok (s : State) (hs : sramsOk (sramsOf s.csvs)) : sramsOk (sramsOf (settleHalts s).csvs) := by
  refine foldl_inv (fun s => sramsOk (sramsOf s.csvs)) (fun s d h => ?_) _ _ hs
  split
  · exact setCsvF_srams_ok (runUnit_srams_ok _ _ _ h) fun _ hc => settleHalt_sramsOk _ hc
  · exact h

@[simp] theorem replanVault_srams (s : State) (v : Nat) : sramsOf (replanVault s v).csvs = sramsOf s.csvs := by
  refine sramsOf_map _ (fun c => ?_) (fun c => ?_) (fun c => ?_) _ <;> split <;> rfl

/-- The SRAMs of a machine whose conservators hold nothing. -/
@[simp] theorem sramsOk_nil : sramsOk (sramsOf []) := fun _ => ⟨storeOk_nil _, storeOk_nil _⟩

/-- The fill clears every SRAM (R436). -/
theorem sramsOf_clear (m : SMap Csv) : sramsOf (m.map fun c => (c.1, { c.2 with isram := [], dsram := [] })) = sramsOf [] := by
  funext P
  induction m with
  | nil => rfl
  | cons a m ih =>
    obtain ⟨e1, e2⟩ := Prod.mk.inj ih
    simp only [sramsOf, look, List.map_cons, find] at *
    split
    · rfl
    · split
      · rfl
      · simp_all

end Sys2Proof.Machine
end

