-- ==== Sys2Proof/Laws/Outcomes.lean ====
section
/-! SUPPORT. What the shared frames of the commands answer: an event whose condition holds, and one whose condition does not. -/

set_option linter.unusedVariables false

set_option linter.unusedSimpArgs false

set_option linter.unusedTactic false

set_option linter.unreachableTactic false

namespace Sys2Proof.Machine

/-- Whenever the outcome is a next state, P holds of it. -/
def after (P : State → Prop) (r : Result) : Prop := ∀ t, r = .next t → P t

/-- The canonical form of the memories, store by store. -/
def State.sound (s : State) : Prop :=
  storeOk shelfCodec s.shelf = true ∧ storeOk clmCodec s.clm = true ∧ storeOk vaultCodec s.dram = true
    ∧ sramsOk (sramsOf s.csvs)

theorem sound_iff_canonical (s : State) : s.sound ↔ s.canonical := by
  simp [State.sound, State.canonical, Memory.wf, and_assoc]

variable {P : State → Prop}

@[simp] theorem after_next (t : State) : after P (.next t) ↔ P t := by
  constructor
  · intro h; exact h t rfl
  · rintro h _ ⟨⟩; exact h

@[simp] theorem after_fault (f : Fault) : after P (.fault f) := by intro t h; cases h
@[simp] theorem after_refused (f : Refusal) : after P (.refused f) := by intro t h; cases h

theorem after_onlyIf (c : Bool) {s u : State} (hs : P s) (hu : P u) : after P (onlyIf c s u) := by
  unfold onlyIf; rw [after_next]; split <;> assumption

theorem after_onlyIf' (c : Bool) {s u : State} (hs : P s) (hu : c = true → P u) : after P (onlyIf c s u) := by
  unfold onlyIf; rw [after_next]; split
  · exact hu (by assumption)
  · assumption

theorem after_xilon (core : CoreRef) (j : Fin 7) (op : Nat) (act : State → Issue → State) (s : State) (hs : P s)
    (hf : ∀ i c, P (issueFault s i c)) (ha : ∀ i, P (act s i)) : after P (xilon core j op act s) := by
  have branch : ∀ (c : Prop) [Decidable c] (x y : Result), after P x → after P y → after P (if c then x else y) := by
    intro c _ x y hx hy; split <;> assumption
  have is : ∀ t : State, P t → after P (.next t) := fun t ht => (after_next t).mpr ht
  have code : ∀ i n, P ((codeFault s i n).getD s) := by
    intro i n
    unfold codeFault
    cases badWord i.core.codeBad n with
    | none => exact hs
    | some f => exact hf _ _
  unfold xilon
  cases issueAt s (coreId core) j.val with
  | none => exact is _ hs
  | some i =>
    refine branch _ _ _ (is _ (hf _ _)) (branch _ _ _ (is _ (code _ _)) (branch _ _ _ (is _ (hf _ _)) (branch _ _ _ (is _ hs)
      (branch _ _ _ (is _ (hf _ _)) (branch _ _ _ (is _ (hf _ _)) (branch _ _ _ (is _ (code _ _)) ?_))))))
    cases poisonRead i.tour i.x i.lanes with
    | none => exact is _ (ha _)
    | some b =>
      refine is _ ?_
      split
      · exact ha _
      · exact hf _ _

theorem after_atCore (core : CoreRef) (j : Fin 7) (s : State) (f : Nat → Core → Nat → Option State) (hs : P s)
    (hf : ∀ id c g t, f id c g = some t → P t) : after P (atCore core j s f) := by
  unfold atCore
  dsimp only
  split
  · split
    · rw [after_next]
      cases h : f (coreId core) _ (wtime s (wingOfCore (coreId core)) j.val) with
      | none => exact hs
      | some t => exact hf _ _ _ _ h
    · rw [after_next]; exact hs
  · rw [after_next]; exact hs

theorem after_withRun (s : State) (p : Nat) (f : RunCtx → Option State) (hs : P s) (hf : ∀ r t, f r = some t → P t) :
    after P (withRun s p f) := by
  unfold withRun
  split
  · split
    · exact after_onlyIf _ hs (hf _ _ (by assumption))
    · rw [after_next]; exact hs
  · rw [after_next]; exact hs

theorem after_execWith (s : State) (p : Nat) (f : LiveStep → Option State) (hs : P s) (hf : ∀ r t, f r = some t → P t) :
    after P (execWith s p f) := by
  unfold execWith
  split
  · split
    · exact after_onlyIf _ hs (hf _ _ (by assumption))
    · rw [after_next]; exact hs
  · rw [after_next]; exact hs

theorem after_windowAt (s : State) (req : Nat) (f : Req → Nat → Nat → Nat → Option Nat → Result) (hs : P s)
    (hf : ∀ r a b c d, after P (f r a b c d)) : after P (windowAt s req f) := by
  unfold windowAt
  (repeat' split) <;> first | exact hf _ _ _ _ _ | (rw [after_next]; exact hs)

theorem after_atCtx (eng : Fin 48) (ctx : Fin 9) (j : Fin 5) (s : State) (f : Nat → Nat → EngCtx → Nat → Option State) (hs : P s)
    (hf : ∀ e x c pc t, f e x c pc = some t → P t) : after P (atCtx eng ctx j s f) := by
  unfold atCtx
  split
  · split
    · exact after_onlyIf _ hs (hf _ _ _ _ _ (by assumption))
    · rw [after_next]; exact hs
  · rw [after_next]; exact hs

theorem after_deliver (ring : Fin 262144) (mine : Nat → Bool) (act : State → Nat → Ring → BitVec 512 → BitVec 16 → State) (s : State)
    (hs : P s) (ha : ∀ id r d st h, P (accept s id r d st h)) (hact : ∀ id r r' d h, P (act (setRing s id r) id r' d h)) :
    after P (deliver ring mine act s) := by
  unfold deliver
  dsimp only
  split
  · rw [after_next]; exact hs
  · split
    · rw [after_next]; exact hs
    · refine after_onlyIf _ hs ?_
      split
      · exact ha _ _ _ _ _
      · exact hact _ _ _ _ _

theorem after_atSlice (slice : Fin 512) (req : Nat) (j : Fin 5) (ok : ReqKind → Bool) (s : State) (f : Place → Req → State → State)
    (hs : P s) (hf : ∀ q r, P (f q r s))
    (hw : ∀ (i b : Nat) (r : Req), P (setReq (setSliceStatus (demandWake s .slice i) i 5) req { r with stage := .slice b }))
    (hw' : ∀ (i a b : Nat) (r : Req), P (setReq (mapSlice (setSliceStatus (demandWake s .slice i) i 5) i fun (x : Slice) =>
      { x with wakeWait := satAdd x.wakeWait a }) req { r with stage := .slice b })) : after P (atSlice slice req j ok s f) := by
  unfold atSlice
  (repeat' split) <;> first | exact (after_next _).mpr hs | skip
  all_goals (dsimp only; (repeat' split) <;> rw [after_next] <;> first | exact hs | exact hf _ _ | exact hw _ _ _ | exact hw' _ _ _ _)

theorem after_applyWith (op : Nat) (early : Bool) (s : State) (f : State → Nat → Running → State × SMap Word) (hs : P s)
    (hf : ∀ p r, P { (f s p r).1 with curator := { (f s p r).1.curator with running := some { r with applied := true, results := (f s p r).2 } } }) :
    after P (applyWith op early s f) := by
  unfold applyWith
  split
  · rw [after_next]; exact hf _ _
  · rw [after_next]; exact hs

theorem after_hart (pch : Fin 1024) (j : Fin 4) (op : RvOp) (act : State → HartAt → State) (s : State) (hs : P s)
    (ht : ∀ c, P (trapCsv (fetchRv (catchUp s pch.val (cclk s j.val)) pch.val).1 pch.val c))
    (ha : ∀ h, h.c = csvOf (fetchRv (catchUp s pch.val (cclk s j.val)) pch.val).1 h.P →
      P (act (fetchRv (catchUp s pch.val (cclk s j.val)) pch.val).1 h)) :
    after P (hart pch j op act s) := by
  unfold hart
  dsimp only
  split
  · exact (after_next _).mpr hs
  · split
    · rename_i heq; rw [after_next]; have := ht; rw [heq] at this; exact this _
    · rename_i heq
      rw [heq] at ht ha
      split
      · rw [after_next]; exact ht _
      · exact after_onlyIf _ hs (ha _ rfl)

/-! ### Conditions -/

theorem onlyIf_on {c : Bool} {s t : State} (h : c = true) : onlyIf c s t = .next t := by simp [onlyIf, h]
theorem onlyIf_off {c : Bool} {s t : State} (h : c = false) : onlyIf c s t = .next s := by simp [onlyIf, h]
theorem live_of {s : State} (h : s.sup.inReset = false) : live s = true := by simp [live, h]

end Sys2Proof.Machine
end

