-- ==== Sys2Proof/Laws/State.lean ====
section
/-! SUPPORT. What each named update of State leaves and sets: every field beside the one it writes is as before, the unit written reads
back, and every other unit reads as before. -/

namespace Sys2Proof.Machine

/-! ### setWing -/

@[simp] theorem setWing_beat (s : State) (w : Nat) (x : Wing) : (setWing s w x).beat = s.beat := rfl
@[simp] theorem setWing_sup (s : State) (w : Nat) (x : Wing) : (setWing s w x).sup = s.sup := rfl
@[simp] theorem setWing_boot (s : State) (w : Nat) (x : Wing) : (setWing s w x).boot = s.boot := rfl
@[simp] theorem setWing_flash (s : State) (w : Nat) (x : Wing) : (setWing s w x).flash = s.flash := rfl
@[simp] theorem setWing_fuses (s : State) (w : Nat) (x : Wing) : (setWing s w x).fuses = s.fuses := rfl
@[simp] theorem setWing_esc (s : State) (w : Nat) (x : Wing) : (setWing s w x).esc = s.esc := rfl
@[simp] theorem setWing_parts (s : State) (w : Nat) (x : Wing) : (setWing s w x).parts = s.parts := rfl
@[simp] theorem setWing_wings (s : State) (w : Nat) (x : Wing) : (setWing s w x).wings = put s.wings w x := rfl
@[simp] theorem setWing_cabSites (s : State) (w : Nat) (x : Wing) : (setWing s w x).cabSites = s.cabSites := rfl
@[simp] theorem setWing_bankGroups (s : State) (w : Nat) (x : Wing) : (setWing s w x).bankGroups = s.bankGroups := rfl
@[simp] theorem setWing_sliceDoms (s : State) (w : Nat) (x : Wing) : (setWing s w x).sliceDoms = s.sliceDoms := rfl
@[simp] theorem setWing_csvDoms (s : State) (w : Nat) (x : Wing) : (setWing s w x).csvDoms = s.csvDoms := rfl
@[simp] theorem setWing_engineDoms (s : State) (w : Nat) (x : Wing) : (setWing s w x).engineDoms = s.engineDoms := rfl
@[simp] theorem setWing_resets (s : State) (w : Nat) (x : Wing) : (setWing s w x).resets = s.resets := rfl
@[simp] theorem setWing_cores (s : State) (w : Nat) (x : Wing) : (setWing s w x).cores = s.cores := rfl
@[simp] theorem setWing_cabinets (s : State) (w : Nat) (x : Wing) : (setWing s w x).cabinets = s.cabinets := rfl
@[simp] theorem setWing_channels (s : State) (w : Nat) (x : Wing) : (setWing s w x).channels = s.channels := rfl
@[simp] theorem setWing_shelf (s : State) (w : Nat) (x : Wing) : (setWing s w x).shelf = s.shelf := rfl
@[simp] theorem setWing_rowMap (s : State) (w : Nat) (x : Wing) : (setWing s w x).rowMap = s.rowMap := rfl
@[simp] theorem setWing_clm (s : State) (w : Nat) (x : Wing) : (setWing s w x).clm = s.clm := rfl
@[simp] theorem setWing_slices (s : State) (w : Nat) (x : Wing) : (setWing s w x).slices = s.slices := rfl
@[simp] theorem setWing_pchs (s : State) (w : Nat) (x : Wing) : (setWing s w x).pchs = s.pchs := rfl
@[simp] theorem setWing_vaults (s : State) (w : Nat) (x : Wing) : (setWing s w x).vaults = s.vaults := rfl
@[simp] theorem setWing_csvs (s : State) (w : Nat) (x : Wing) : (setWing s w x).csvs = s.csvs := rfl
@[simp] theorem setWing_granules (s : State) (w : Nat) (x : Wing) : (setWing s w x).granules = s.granules := rfl
@[simp] theorem setWing_dram (s : State) (w : Nat) (x : Wing) : (setWing s w x).dram = s.dram := rfl
@[simp] theorem setWing_engines (s : State) (w : Nat) (x : Wing) : (setWing s w x).engines = s.engines := rfl
@[simp] theorem setWing_ports (s : State) (w : Nat) (x : Wing) : (setWing s w x).ports = s.ports := rfl
@[simp] theorem setWing_rings (s : State) (w : Nat) (x : Wing) : (setWing s w x).rings = s.rings := rfl
@[simp] theorem setWing_chans (s : State) (w : Nat) (x : Wing) : (setWing s w x).chans = s.chans := rfl
@[simp] theorem setWing_curator (s : State) (w : Nat) (x : Wing) : (setWing s w x).curator = s.curator := rfl
@[simp] theorem setWing_power (s : State) (w : Nat) (x : Wing) : (setWing s w x).power = s.power := rfl
@[simp] theorem setWing_thermal (s : State) (w : Nat) (x : Wing) : (setWing s w x).thermal = s.thermal := rfl
@[simp] theorem setWing_collectors (s : State) (w : Nat) (x : Wing) : (setWing s w x).collectors = s.collectors := rfl
@[simp] theorem setWing_errLog (s : State) (w : Nat) (x : Wing) : (setWing s w x).errLog = s.errLog := rfl
@[simp] theorem setWing_sideband (s : State) (w : Nat) (x : Wing) : (setWing s w x).sideband = s.sideband := rfl
@[simp] theorem setWing_jtag (s : State) (w : Nat) (x : Wing) : (setWing s w x).jtag = s.jtag := rfl
@[simp] theorem setWing_halves (s : State) (w : Nat) (x : Wing) : (setWing s w x).halves = s.halves := rfl
@[simp] theorem setWing_net (s : State) (w : Nat) (x : Wing) : (setWing s w x).net = s.net := rfl
@[simp] theorem setWing_nextReq (s : State) (w : Nat) (x : Wing) : (setWing s w x).nextReq = s.nextReq := rfl
@[simp] theorem setWing_flits (s : State) (w : Nat) (x : Wing) : (setWing s w x).flits = s.flits := rfl
@[simp] theorem setWing_nextFlit (s : State) (w : Nat) (x : Wing) : (setWing s w x).nextFlit = s.nextFlit := rfl
@[simp] theorem setWing_plan (s : State) (w : Nat) (x : Wing) : (setWing s w x).plan = s.plan := rfl
@[simp] theorem setWing_slotUse (s : State) (w : Nat) (x : Wing) : (setWing s w x).slotUse = s.slotUse := rfl
@[simp] theorem setWing_free (s : State) (w : Nat) (x : Wing) : (setWing s w x).free = s.free := rfl
@[simp] theorem setWing_out (s : State) (w : Nat) (x : Wing) : (setWing s w x).out = s.out := rfl
@[simp] theorem setWing_pending (s : State) (w : Nat) (x : Wing) : (setWing s w x).pending = s.pending := rfl
@[simp] theorem setWing_self (s : State) (w : Nat) (x : Wing) : wingOf (setWing s w x) w = x := by simp [wingOf]
theorem wingOf_setWing (s : State) (w j : Nat) (x : Wing) : wingOf (setWing s w x) j = if j = w then x else wingOf s j := by
  split
  · subst_vars; simp
  · exact look_put_ne _ _ _ _ _ (by assumption)
@[simp] theorem setWing_partOf (s : State) (w j : Nat) (x : Wing) : partOf (setWing s w x) j = partOf s j := rfl
@[simp] theorem setWing_coreOf (s : State) (w j : Nat) (x : Wing) : coreOf (setWing s w x) j = coreOf s j := rfl
@[simp] theorem setWing_cabOf (s : State) (w j : Nat) (x : Wing) : cabOf (setWing s w x) j = cabOf s j := rfl
@[simp] theorem setWing_chanOf (s : State) (w j : Nat) (x : Wing) : chanOf (setWing s w x) j = chanOf s j := rfl
@[simp] theorem setWing_sliceOf (s : State) (w j : Nat) (x : Wing) : sliceOf (setWing s w x) j = sliceOf s j := rfl
@[simp] theorem setWing_pchOf (s : State) (w j : Nat) (x : Wing) : pchOf (setWing s w x) j = pchOf s j := rfl
@[simp] theorem setWing_vaultOf (s : State) (w j : Nat) (x : Wing) : vaultOf (setWing s w x) j = vaultOf s j := rfl
@[simp] theorem setWing_csvOf (s : State) (w j : Nat) (x : Wing) : csvOf (setWing s w x) j = csvOf s j := rfl
@[simp] theorem setWing_engOf (s : State) (w j : Nat) (x : Wing) : engOf (setWing s w x) j = engOf s j := rfl
@[simp] theorem setWing_portOf (s : State) (w j : Nat) (x : Wing) : portOf (setWing s w x) j = portOf s j := rfl
@[simp] theorem setWing_chanBlock (s : State) (w j : Nat) (x : Wing) : chanBlock (setWing s w x) j = chanBlock s j := rfl
@[simp] theorem setWing_colOf (s : State) (w j : Nat) (x : Wing) : colOf (setWing s w x) j = colOf s j := rfl
@[simp] theorem setWing_regionOf (s : State) (w j : Nat) (x : Wing) : regionOf (setWing s w x) j = regionOf s j := rfl
@[simp] theorem setWing_now (s : State) (w : Nat) (x : Wing) : now (setWing s w x) = now s := rfl
@[simp] theorem setWing_live (s : State) (w : Nat) (x : Wing) : live (setWing s w x) = live s := rfl

/-! ### setPart -/

@[simp] theorem setPart_beat (s : State) (p : Nat) (x : Part) : (setPart s p x).beat = s.beat := rfl
@[simp] theorem setPart_sup (s : State) (p : Nat) (x : Part) : (setPart s p x).sup = s.sup := rfl
@[simp] theorem setPart_boot (s : State) (p : Nat) (x : Part) : (setPart s p x).boot = s.boot := rfl
@[simp] theorem setPart_flash (s : State) (p : Nat) (x : Part) : (setPart s p x).flash = s.flash := rfl
@[simp] theorem setPart_fuses (s : State) (p : Nat) (x : Part) : (setPart s p x).fuses = s.fuses := rfl
@[simp] theorem setPart_esc (s : State) (p : Nat) (x : Part) : (setPart s p x).esc = s.esc := rfl
@[simp] theorem setPart_parts (s : State) (p : Nat) (x : Part) : (setPart s p x).parts = put s.parts p x := rfl
@[simp] theorem setPart_wings (s : State) (p : Nat) (x : Part) : (setPart s p x).wings = s.wings := rfl
@[simp] theorem setPart_cabSites (s : State) (p : Nat) (x : Part) : (setPart s p x).cabSites = s.cabSites := rfl
@[simp] theorem setPart_bankGroups (s : State) (p : Nat) (x : Part) : (setPart s p x).bankGroups = s.bankGroups := rfl
@[simp] theorem setPart_sliceDoms (s : State) (p : Nat) (x : Part) : (setPart s p x).sliceDoms = s.sliceDoms := rfl
@[simp] theorem setPart_csvDoms (s : State) (p : Nat) (x : Part) : (setPart s p x).csvDoms = s.csvDoms := rfl
@[simp] theorem setPart_engineDoms (s : State) (p : Nat) (x : Part) : (setPart s p x).engineDoms = s.engineDoms := rfl
@[simp] theorem setPart_resets (s : State) (p : Nat) (x : Part) : (setPart s p x).resets = s.resets := rfl
@[simp] theorem setPart_cores (s : State) (p : Nat) (x : Part) : (setPart s p x).cores = s.cores := rfl
@[simp] theorem setPart_cabinets (s : State) (p : Nat) (x : Part) : (setPart s p x).cabinets = s.cabinets := rfl
@[simp] theorem setPart_channels (s : State) (p : Nat) (x : Part) : (setPart s p x).channels = s.channels := rfl
@[simp] theorem setPart_shelf (s : State) (p : Nat) (x : Part) : (setPart s p x).shelf = s.shelf := rfl
@[simp] theorem setPart_rowMap (s : State) (p : Nat) (x : Part) : (setPart s p x).rowMap = s.rowMap := rfl
@[simp] theorem setPart_clm (s : State) (p : Nat) (x : Part) : (setPart s p x).clm = s.clm := rfl
@[simp] theorem setPart_slices (s : State) (p : Nat) (x : Part) : (setPart s p x).slices = s.slices := rfl
@[simp] theorem setPart_pchs (s : State) (p : Nat) (x : Part) : (setPart s p x).pchs = s.pchs := rfl
@[simp] theorem setPart_vaults (s : State) (p : Nat) (x : Part) : (setPart s p x).vaults = s.vaults := rfl
@[simp] theorem setPart_csvs (s : State) (p : Nat) (x : Part) : (setPart s p x).csvs = s.csvs := rfl
@[simp] theorem setPart_granules (s : State) (p : Nat) (x : Part) : (setPart s p x).granules = s.granules := rfl
@[simp] theorem setPart_dram (s : State) (p : Nat) (x : Part) : (setPart s p x).dram = s.dram := rfl
@[simp] theorem setPart_engines (s : State) (p : Nat) (x : Part) : (setPart s p x).engines = s.engines := rfl
@[simp] theorem setPart_ports (s : State) (p : Nat) (x : Part) : (setPart s p x).ports = s.ports := rfl
@[simp] theorem setPart_rings (s : State) (p : Nat) (x : Part) : (setPart s p x).rings = s.rings := rfl
@[simp] theorem setPart_chans (s : State) (p : Nat) (x : Part) : (setPart s p x).chans = s.chans := rfl
@[simp] theorem setPart_curator (s : State) (p : Nat) (x : Part) : (setPart s p x).curator = s.curator := rfl
@[simp] theorem setPart_power (s : State) (p : Nat) (x : Part) : (setPart s p x).power = s.power := rfl
@[simp] theorem setPart_thermal (s : State) (p : Nat) (x : Part) : (setPart s p x).thermal = s.thermal := rfl
@[simp] theorem setPart_collectors (s : State) (p : Nat) (x : Part) : (setPart s p x).collectors = s.collectors := rfl
@[simp] theorem setPart_errLog (s : State) (p : Nat) (x : Part) : (setPart s p x).errLog = s.errLog := rfl
@[simp] theorem setPart_sideband (s : State) (p : Nat) (x : Part) : (setPart s p x).sideband = s.sideband := rfl
@[simp] theorem setPart_jtag (s : State) (p : Nat) (x : Part) : (setPart s p x).jtag = s.jtag := rfl
@[simp] theorem setPart_halves (s : State) (p : Nat) (x : Part) : (setPart s p x).halves = s.halves := rfl
@[simp] theorem setPart_net (s : State) (p : Nat) (x : Part) : (setPart s p x).net = s.net := rfl
@[simp] theorem setPart_nextReq (s : State) (p : Nat) (x : Part) : (setPart s p x).nextReq = s.nextReq := rfl
@[simp] theorem setPart_flits (s : State) (p : Nat) (x : Part) : (setPart s p x).flits = s.flits := rfl
@[simp] theorem setPart_nextFlit (s : State) (p : Nat) (x : Part) : (setPart s p x).nextFlit = s.nextFlit := rfl
@[simp] theorem setPart_plan (s : State) (p : Nat) (x : Part) : (setPart s p x).plan = s.plan := rfl
@[simp] theorem setPart_slotUse (s : State) (p : Nat) (x : Part) : (setPart s p x).slotUse = s.slotUse := rfl
@[simp] theorem setPart_free (s : State) (p : Nat) (x : Part) : (setPart s p x).free = s.free := rfl
@[simp] theorem setPart_out (s : State) (p : Nat) (x : Part) : (setPart s p x).out = s.out := rfl
@[simp] theorem setPart_pending (s : State) (p : Nat) (x : Part) : (setPart s p x).pending = s.pending := rfl
@[simp] theorem setPart_self (s : State) (p : Nat) (x : Part) : partOf (setPart s p x) p = x := by simp [partOf]
theorem partOf_setPart (s : State) (p j : Nat) (x : Part) : partOf (setPart s p x) j = if j = p then x else partOf s j := by
  split
  · subst_vars; simp
  · exact look_put_ne _ _ _ _ _ (by assumption)
@[simp] theorem setPart_wingOf (s : State) (p j : Nat) (x : Part) : wingOf (setPart s p x) j = wingOf s j := rfl
@[simp] theorem setPart_coreOf (s : State) (p j : Nat) (x : Part) : coreOf (setPart s p x) j = coreOf s j := rfl
@[simp] theorem setPart_cabOf (s : State) (p j : Nat) (x : Part) : cabOf (setPart s p x) j = cabOf s j := rfl
@[simp] theorem setPart_chanOf (s : State) (p j : Nat) (x : Part) : chanOf (setPart s p x) j = chanOf s j := rfl
@[simp] theorem setPart_sliceOf (s : State) (p j : Nat) (x : Part) : sliceOf (setPart s p x) j = sliceOf s j := rfl
@[simp] theorem setPart_pchOf (s : State) (p j : Nat) (x : Part) : pchOf (setPart s p x) j = pchOf s j := rfl
@[simp] theorem setPart_vaultOf (s : State) (p j : Nat) (x : Part) : vaultOf (setPart s p x) j = vaultOf s j := rfl
@[simp] theorem setPart_csvOf (s : State) (p j : Nat) (x : Part) : csvOf (setPart s p x) j = csvOf s j := rfl
@[simp] theorem setPart_engOf (s : State) (p j : Nat) (x : Part) : engOf (setPart s p x) j = engOf s j := rfl
@[simp] theorem setPart_portOf (s : State) (p j : Nat) (x : Part) : portOf (setPart s p x) j = portOf s j := rfl
@[simp] theorem setPart_chanBlock (s : State) (p j : Nat) (x : Part) : chanBlock (setPart s p x) j = chanBlock s j := rfl
@[simp] theorem setPart_colOf (s : State) (p j : Nat) (x : Part) : colOf (setPart s p x) j = colOf s j := rfl
@[simp] theorem setPart_regionOf (s : State) (p j : Nat) (x : Part) : regionOf (setPart s p x) j = regionOf s j := rfl
@[simp] theorem setPart_now (s : State) (p : Nat) (x : Part) : now (setPart s p x) = now s := rfl
@[simp] theorem setPart_live (s : State) (p : Nat) (x : Part) : live (setPart s p x) = live s := rfl

/-! ### setCore -/

@[simp] theorem setCore_beat (s : State) (c : Nat) (x : Core) : (setCore s c x).beat = s.beat := rfl
@[simp] theorem setCore_sup (s : State) (c : Nat) (x : Core) : (setCore s c x).sup = s.sup := rfl
@[simp] theorem setCore_boot (s : State) (c : Nat) (x : Core) : (setCore s c x).boot = s.boot := rfl
@[simp] theorem setCore_flash (s : State) (c : Nat) (x : Core) : (setCore s c x).flash = s.flash := rfl
@[simp] theorem setCore_fuses (s : State) (c : Nat) (x : Core) : (setCore s c x).fuses = s.fuses := rfl
@[simp] theorem setCore_esc (s : State) (c : Nat) (x : Core) : (setCore s c x).esc = s.esc := rfl
@[simp] theorem setCore_parts (s : State) (c : Nat) (x : Core) : (setCore s c x).parts = s.parts := rfl
@[simp] theorem setCore_wings (s : State) (c : Nat) (x : Core) : (setCore s c x).wings = s.wings := rfl
@[simp] theorem setCore_cabSites (s : State) (c : Nat) (x : Core) : (setCore s c x).cabSites = s.cabSites := rfl
@[simp] theorem setCore_bankGroups (s : State) (c : Nat) (x : Core) : (setCore s c x).bankGroups = s.bankGroups := rfl
@[simp] theorem setCore_sliceDoms (s : State) (c : Nat) (x : Core) : (setCore s c x).sliceDoms = s.sliceDoms := rfl
@[simp] theorem setCore_csvDoms (s : State) (c : Nat) (x : Core) : (setCore s c x).csvDoms = s.csvDoms := rfl
@[simp] theorem setCore_engineDoms (s : State) (c : Nat) (x : Core) : (setCore s c x).engineDoms = s.engineDoms := rfl
@[simp] theorem setCore_resets (s : State) (c : Nat) (x : Core) : (setCore s c x).resets = s.resets := rfl
@[simp] theorem setCore_cores (s : State) (c : Nat) (x : Core) : (setCore s c x).cores = put s.cores c x := rfl
@[simp] theorem setCore_cabinets (s : State) (c : Nat) (x : Core) : (setCore s c x).cabinets = s.cabinets := rfl
@[simp] theorem setCore_channels (s : State) (c : Nat) (x : Core) : (setCore s c x).channels = s.channels := rfl
@[simp] theorem setCore_shelf (s : State) (c : Nat) (x : Core) : (setCore s c x).shelf = s.shelf := rfl
@[simp] theorem setCore_rowMap (s : State) (c : Nat) (x : Core) : (setCore s c x).rowMap = s.rowMap := rfl
@[simp] theorem setCore_clm (s : State) (c : Nat) (x : Core) : (setCore s c x).clm = s.clm := rfl
@[simp] theorem setCore_slices (s : State) (c : Nat) (x : Core) : (setCore s c x).slices = s.slices := rfl
@[simp] theorem setCore_pchs (s : State) (c : Nat) (x : Core) : (setCore s c x).pchs = s.pchs := rfl
@[simp] theorem setCore_vaults (s : State) (c : Nat) (x : Core) : (setCore s c x).vaults = s.vaults := rfl
@[simp] theorem setCore_csvs (s : State) (c : Nat) (x : Core) : (setCore s c x).csvs = s.csvs := rfl
@[simp] theorem setCore_granules (s : State) (c : Nat) (x : Core) : (setCore s c x).granules = s.granules := rfl
@[simp] theorem setCore_dram (s : State) (c : Nat) (x : Core) : (setCore s c x).dram = s.dram := rfl
@[simp] theorem setCore_engines (s : State) (c : Nat) (x : Core) : (setCore s c x).engines = s.engines := rfl
@[simp] theorem setCore_ports (s : State) (c : Nat) (x : Core) : (setCore s c x).ports = s.ports := rfl
@[simp] theorem setCore_rings (s : State) (c : Nat) (x : Core) : (setCore s c x).rings = s.rings := rfl
@[simp] theorem setCore_chans (s : State) (c : Nat) (x : Core) : (setCore s c x).chans = s.chans := rfl
@[simp] theorem setCore_curator (s : State) (c : Nat) (x : Core) : (setCore s c x).curator = s.curator := rfl
@[simp] theorem setCore_power (s : State) (c : Nat) (x : Core) : (setCore s c x).power = s.power := rfl
@[simp] theorem setCore_thermal (s : State) (c : Nat) (x : Core) : (setCore s c x).thermal = s.thermal := rfl
@[simp] theorem setCore_collectors (s : State) (c : Nat) (x : Core) : (setCore s c x).collectors = s.collectors := rfl
@[simp] theorem setCore_errLog (s : State) (c : Nat) (x : Core) : (setCore s c x).errLog = s.errLog := rfl
@[simp] theorem setCore_sideband (s : State) (c : Nat) (x : Core) : (setCore s c x).sideband = s.sideband := rfl
@[simp] theorem setCore_jtag (s : State) (c : Nat) (x : Core) : (setCore s c x).jtag = s.jtag := rfl
@[simp] theorem setCore_halves (s : State) (c : Nat) (x : Core) : (setCore s c x).halves = s.halves := rfl
@[simp] theorem setCore_net (s : State) (c : Nat) (x : Core) : (setCore s c x).net = s.net := rfl
@[simp] theorem setCore_nextReq (s : State) (c : Nat) (x : Core) : (setCore s c x).nextReq = s.nextReq := rfl
@[simp] theorem setCore_flits (s : State) (c : Nat) (x : Core) : (setCore s c x).flits = s.flits := rfl
@[simp] theorem setCore_nextFlit (s : State) (c : Nat) (x : Core) : (setCore s c x).nextFlit = s.nextFlit := rfl
@[simp] theorem setCore_plan (s : State) (c : Nat) (x : Core) : (setCore s c x).plan = s.plan := rfl
@[simp] theorem setCore_slotUse (s : State) (c : Nat) (x : Core) : (setCore s c x).slotUse = s.slotUse := rfl
@[simp] theorem setCore_free (s : State) (c : Nat) (x : Core) : (setCore s c x).free = s.free := rfl
@[simp] theorem setCore_out (s : State) (c : Nat) (x : Core) : (setCore s c x).out = s.out := rfl
@[simp] theorem setCore_pending (s : State) (c : Nat) (x : Core) : (setCore s c x).pending = s.pending := rfl
@[simp] theorem setCore_self (s : State) (c : Nat) (x : Core) : coreOf (setCore s c x) c = x := by simp [coreOf]
theorem coreOf_setCore (s : State) (c j : Nat) (x : Core) : coreOf (setCore s c x) j = if j = c then x else coreOf s j := by
  split
  · subst_vars; simp
  · exact look_put_ne _ _ _ _ _ (by assumption)
@[simp] theorem setCore_wingOf (s : State) (c j : Nat) (x : Core) : wingOf (setCore s c x) j = wingOf s j := rfl
@[simp] theorem setCore_partOf (s : State) (c j : Nat) (x : Core) : partOf (setCore s c x) j = partOf s j := rfl
@[simp] theorem setCore_cabOf (s : State) (c j : Nat) (x : Core) : cabOf (setCore s c x) j = cabOf s j := rfl
@[simp] theorem setCore_chanOf (s : State) (c j : Nat) (x : Core) : chanOf (setCore s c x) j = chanOf s j := rfl
@[simp] theorem setCore_sliceOf (s : State) (c j : Nat) (x : Core) : sliceOf (setCore s c x) j = sliceOf s j := rfl
@[simp] theorem setCore_pchOf (s : State) (c j : Nat) (x : Core) : pchOf (setCore s c x) j = pchOf s j := rfl
@[simp] theorem setCore_vaultOf (s : State) (c j : Nat) (x : Core) : vaultOf (setCore s c x) j = vaultOf s j := rfl
@[simp] theorem setCore_csvOf (s : State) (c j : Nat) (x : Core) : csvOf (setCore s c x) j = csvOf s j := rfl
@[simp] theorem setCore_engOf (s : State) (c j : Nat) (x : Core) : engOf (setCore s c x) j = engOf s j := rfl
@[simp] theorem setCore_portOf (s : State) (c j : Nat) (x : Core) : portOf (setCore s c x) j = portOf s j := rfl
@[simp] theorem setCore_chanBlock (s : State) (c j : Nat) (x : Core) : chanBlock (setCore s c x) j = chanBlock s j := rfl
@[simp] theorem setCore_colOf (s : State) (c j : Nat) (x : Core) : colOf (setCore s c x) j = colOf s j := rfl
@[simp] theorem setCore_regionOf (s : State) (c j : Nat) (x : Core) : regionOf (setCore s c x) j = regionOf s j := rfl
@[simp] theorem setCore_now (s : State) (c : Nat) (x : Core) : now (setCore s c x) = now s := rfl
@[simp] theorem setCore_live (s : State) (c : Nat) (x : Core) : live (setCore s c x) = live s := rfl

/-! ### setCab -/

@[simp] theorem setCab_beat (s : State) (c : Nat) (x : Cabinet) : (setCab s c x).beat = s.beat := rfl
@[simp] theorem setCab_sup (s : State) (c : Nat) (x : Cabinet) : (setCab s c x).sup = s.sup := rfl
@[simp] theorem setCab_boot (s : State) (c : Nat) (x : Cabinet) : (setCab s c x).boot = s.boot := rfl
@[simp] theorem setCab_flash (s : State) (c : Nat) (x : Cabinet) : (setCab s c x).flash = s.flash := rfl
@[simp] theorem setCab_fuses (s : State) (c : Nat) (x : Cabinet) : (setCab s c x).fuses = s.fuses := rfl
@[simp] theorem setCab_esc (s : State) (c : Nat) (x : Cabinet) : (setCab s c x).esc = s.esc := rfl
@[simp] theorem setCab_parts (s : State) (c : Nat) (x : Cabinet) : (setCab s c x).parts = s.parts := rfl
@[simp] theorem setCab_wings (s : State) (c : Nat) (x : Cabinet) : (setCab s c x).wings = s.wings := rfl
@[simp] theorem setCab_cabSites (s : State) (c : Nat) (x : Cabinet) : (setCab s c x).cabSites = s.cabSites := rfl
@[simp] theorem setCab_bankGroups (s : State) (c : Nat) (x : Cabinet) : (setCab s c x).bankGroups = s.bankGroups := rfl
@[simp] theorem setCab_sliceDoms (s : State) (c : Nat) (x : Cabinet) : (setCab s c x).sliceDoms = s.sliceDoms := rfl
@[simp] theorem setCab_csvDoms (s : State) (c : Nat) (x : Cabinet) : (setCab s c x).csvDoms = s.csvDoms := rfl
@[simp] theorem setCab_engineDoms (s : State) (c : Nat) (x : Cabinet) : (setCab s c x).engineDoms = s.engineDoms := rfl
@[simp] theorem setCab_resets (s : State) (c : Nat) (x : Cabinet) : (setCab s c x).resets = s.resets := rfl
@[simp] theorem setCab_cores (s : State) (c : Nat) (x : Cabinet) : (setCab s c x).cores = s.cores := rfl
@[simp] theorem setCab_cabinets (s : State) (c : Nat) (x : Cabinet) : (setCab s c x).cabinets = put s.cabinets c x := rfl
@[simp] theorem setCab_channels (s : State) (c : Nat) (x : Cabinet) : (setCab s c x).channels = s.channels := rfl
@[simp] theorem setCab_shelf (s : State) (c : Nat) (x : Cabinet) : (setCab s c x).shelf = s.shelf := rfl
@[simp] theorem setCab_rowMap (s : State) (c : Nat) (x : Cabinet) : (setCab s c x).rowMap = s.rowMap := rfl
@[simp] theorem setCab_clm (s : State) (c : Nat) (x : Cabinet) : (setCab s c x).clm = s.clm := rfl
@[simp] theorem setCab_slices (s : State) (c : Nat) (x : Cabinet) : (setCab s c x).slices = s.slices := rfl
@[simp] theorem setCab_pchs (s : State) (c : Nat) (x : Cabinet) : (setCab s c x).pchs = s.pchs := rfl
@[simp] theorem setCab_vaults (s : State) (c : Nat) (x : Cabinet) : (setCab s c x).vaults = s.vaults := rfl
@[simp] theorem setCab_csvs (s : State) (c : Nat) (x : Cabinet) : (setCab s c x).csvs = s.csvs := rfl
@[simp] theorem setCab_granules (s : State) (c : Nat) (x : Cabinet) : (setCab s c x).granules = s.granules := rfl
@[simp] theorem setCab_dram (s : State) (c : Nat) (x : Cabinet) : (setCab s c x).dram = s.dram := rfl
@[simp] theorem setCab_engines (s : State) (c : Nat) (x : Cabinet) : (setCab s c x).engines = s.engines := rfl
@[simp] theorem setCab_ports (s : State) (c : Nat) (x : Cabinet) : (setCab s c x).ports = s.ports := rfl
@[simp] theorem setCab_rings (s : State) (c : Nat) (x : Cabinet) : (setCab s c x).rings = s.rings := rfl
@[simp] theorem setCab_chans (s : State) (c : Nat) (x : Cabinet) : (setCab s c x).chans = s.chans := rfl
@[simp] theorem setCab_curator (s : State) (c : Nat) (x : Cabinet) : (setCab s c x).curator = s.curator := rfl
@[simp] theorem setCab_power (s : State) (c : Nat) (x : Cabinet) : (setCab s c x).power = s.power := rfl
@[simp] theorem setCab_thermal (s : State) (c : Nat) (x : Cabinet) : (setCab s c x).thermal = s.thermal := rfl
@[simp] theorem setCab_collectors (s : State) (c : Nat) (x : Cabinet) : (setCab s c x).collectors = s.collectors := rfl
@[simp] theorem setCab_errLog (s : State) (c : Nat) (x : Cabinet) : (setCab s c x).errLog = s.errLog := rfl
@[simp] theorem setCab_sideband (s : State) (c : Nat) (x : Cabinet) : (setCab s c x).sideband = s.sideband := rfl
@[simp] theorem setCab_jtag (s : State) (c : Nat) (x : Cabinet) : (setCab s c x).jtag = s.jtag := rfl
@[simp] theorem setCab_halves (s : State) (c : Nat) (x : Cabinet) : (setCab s c x).halves = s.halves := rfl
@[simp] theorem setCab_net (s : State) (c : Nat) (x : Cabinet) : (setCab s c x).net = s.net := rfl
@[simp] theorem setCab_nextReq (s : State) (c : Nat) (x : Cabinet) : (setCab s c x).nextReq = s.nextReq := rfl
@[simp] theorem setCab_flits (s : State) (c : Nat) (x : Cabinet) : (setCab s c x).flits = s.flits := rfl
@[simp] theorem setCab_nextFlit (s : State) (c : Nat) (x : Cabinet) : (setCab s c x).nextFlit = s.nextFlit := rfl
@[simp] theorem setCab_plan (s : State) (c : Nat) (x : Cabinet) : (setCab s c x).plan = s.plan := rfl
@[simp] theorem setCab_slotUse (s : State) (c : Nat) (x : Cabinet) : (setCab s c x).slotUse = s.slotUse := rfl
@[simp] theorem setCab_free (s : State) (c : Nat) (x : Cabinet) : (setCab s c x).free = s.free := rfl
@[simp] theorem setCab_out (s : State) (c : Nat) (x : Cabinet) : (setCab s c x).out = s.out := rfl
@[simp] theorem setCab_pending (s : State) (c : Nat) (x : Cabinet) : (setCab s c x).pending = s.pending := rfl
@[simp] theorem setCab_self (s : State) (c : Nat) (x : Cabinet) : cabOf (setCab s c x) c = x := by simp [cabOf]
theorem cabOf_setCab (s : State) (c j : Nat) (x : Cabinet) : cabOf (setCab s c x) j = if j = c then x else cabOf s j := by
  split
  · subst_vars; simp
  · exact look_put_ne _ _ _ _ _ (by assumption)
@[simp] theorem setCab_wingOf (s : State) (c j : Nat) (x : Cabinet) : wingOf (setCab s c x) j = wingOf s j := rfl
@[simp] theorem setCab_partOf (s : State) (c j : Nat) (x : Cabinet) : partOf (setCab s c x) j = partOf s j := rfl
@[simp] theorem setCab_coreOf (s : State) (c j : Nat) (x : Cabinet) : coreOf (setCab s c x) j = coreOf s j := rfl
@[simp] theorem setCab_chanOf (s : State) (c j : Nat) (x : Cabinet) : chanOf (setCab s c x) j = chanOf s j := rfl
@[simp] theorem setCab_sliceOf (s : State) (c j : Nat) (x : Cabinet) : sliceOf (setCab s c x) j = sliceOf s j := rfl
@[simp] theorem setCab_pchOf (s : State) (c j : Nat) (x : Cabinet) : pchOf (setCab s c x) j = pchOf s j := rfl
@[simp] theorem setCab_vaultOf (s : State) (c j : Nat) (x : Cabinet) : vaultOf (setCab s c x) j = vaultOf s j := rfl
@[simp] theorem setCab_csvOf (s : State) (c j : Nat) (x : Cabinet) : csvOf (setCab s c x) j = csvOf s j := rfl
@[simp] theorem setCab_engOf (s : State) (c j : Nat) (x : Cabinet) : engOf (setCab s c x) j = engOf s j := rfl
@[simp] theorem setCab_portOf (s : State) (c j : Nat) (x : Cabinet) : portOf (setCab s c x) j = portOf s j := rfl
@[simp] theorem setCab_chanBlock (s : State) (c j : Nat) (x : Cabinet) : chanBlock (setCab s c x) j = chanBlock s j := rfl
@[simp] theorem setCab_colOf (s : State) (c j : Nat) (x : Cabinet) : colOf (setCab s c x) j = colOf s j := rfl
@[simp] theorem setCab_regionOf (s : State) (c j : Nat) (x : Cabinet) : regionOf (setCab s c x) j = regionOf s j := rfl
@[simp] theorem setCab_now (s : State) (c : Nat) (x : Cabinet) : now (setCab s c x) = now s := rfl
@[simp] theorem setCab_live (s : State) (c : Nat) (x : Cabinet) : live (setCab s c x) = live s := rfl

/-! ### setChannel -/

@[simp] theorem setChannel_beat (s : State) (n : Nat) (x : Channel) : (setChannel s n x).beat = s.beat := rfl
@[simp] theorem setChannel_sup (s : State) (n : Nat) (x : Channel) : (setChannel s n x).sup = s.sup := rfl
@[simp] theorem setChannel_boot (s : State) (n : Nat) (x : Channel) : (setChannel s n x).boot = s.boot := rfl
@[simp] theorem setChannel_flash (s : State) (n : Nat) (x : Channel) : (setChannel s n x).flash = s.flash := rfl
@[simp] theorem setChannel_fuses (s : State) (n : Nat) (x : Channel) : (setChannel s n x).fuses = s.fuses := rfl
@[simp] theorem setChannel_esc (s : State) (n : Nat) (x : Channel) : (setChannel s n x).esc = s.esc := rfl
@[simp] theorem setChannel_parts (s : State) (n : Nat) (x : Channel) : (setChannel s n x).parts = s.parts := rfl
@[simp] theorem setChannel_wings (s : State) (n : Nat) (x : Channel) : (setChannel s n x).wings = s.wings := rfl
@[simp] theorem setChannel_cabSites (s : State) (n : Nat) (x : Channel) : (setChannel s n x).cabSites = s.cabSites := rfl
@[simp] theorem setChannel_bankGroups (s : State) (n : Nat) (x : Channel) : (setChannel s n x).bankGroups = s.bankGroups := rfl
@[simp] theorem setChannel_sliceDoms (s : State) (n : Nat) (x : Channel) : (setChannel s n x).sliceDoms = s.sliceDoms := rfl
@[simp] theorem setChannel_csvDoms (s : State) (n : Nat) (x : Channel) : (setChannel s n x).csvDoms = s.csvDoms := rfl
@[simp] theorem setChannel_engineDoms (s : State) (n : Nat) (x : Channel) : (setChannel s n x).engineDoms = s.engineDoms := rfl
@[simp] theorem setChannel_resets (s : State) (n : Nat) (x : Channel) : (setChannel s n x).resets = s.resets := rfl
@[simp] theorem setChannel_cores (s : State) (n : Nat) (x : Channel) : (setChannel s n x).cores = s.cores := rfl
@[simp] theorem setChannel_cabinets (s : State) (n : Nat) (x : Channel) : (setChannel s n x).cabinets = s.cabinets := rfl
@[simp] theorem setChannel_channels (s : State) (n : Nat) (x : Channel) : (setChannel s n x).channels = put s.channels n x := rfl
@[simp] theorem setChannel_shelf (s : State) (n : Nat) (x : Channel) : (setChannel s n x).shelf = s.shelf := rfl
@[simp] theorem setChannel_rowMap (s : State) (n : Nat) (x : Channel) : (setChannel s n x).rowMap = s.rowMap := rfl
@[simp] theorem setChannel_clm (s : State) (n : Nat) (x : Channel) : (setChannel s n x).clm = s.clm := rfl
@[simp] theorem setChannel_slices (s : State) (n : Nat) (x : Channel) : (setChannel s n x).slices = s.slices := rfl
@[simp] theorem setChannel_pchs (s : State) (n : Nat) (x : Channel) : (setChannel s n x).pchs = s.pchs := rfl
@[simp] theorem setChannel_vaults (s : State) (n : Nat) (x : Channel) : (setChannel s n x).vaults = s.vaults := rfl
@[simp] theorem setChannel_csvs (s : State) (n : Nat) (x : Channel) : (setChannel s n x).csvs = s.csvs := rfl
@[simp] theorem setChannel_granules (s : State) (n : Nat) (x : Channel) : (setChannel s n x).granules = s.granules := rfl
@[simp] theorem setChannel_dram (s : State) (n : Nat) (x : Channel) : (setChannel s n x).dram = s.dram := rfl
@[simp] theorem setChannel_engines (s : State) (n : Nat) (x : Channel) : (setChannel s n x).engines = s.engines := rfl
@[simp] theorem setChannel_ports (s : State) (n : Nat) (x : Channel) : (setChannel s n x).ports = s.ports := rfl
@[simp] theorem setChannel_rings (s : State) (n : Nat) (x : Channel) : (setChannel s n x).rings = s.rings := rfl
@[simp] theorem setChannel_chans (s : State) (n : Nat) (x : Channel) : (setChannel s n x).chans = s.chans := rfl
@[simp] theorem setChannel_curator (s : State) (n : Nat) (x : Channel) : (setChannel s n x).curator = s.curator := rfl
@[simp] theorem setChannel_power (s : State) (n : Nat) (x : Channel) : (setChannel s n x).power = s.power := rfl
@[simp] theorem setChannel_thermal (s : State) (n : Nat) (x : Channel) : (setChannel s n x).thermal = s.thermal := rfl
@[simp] theorem setChannel_collectors (s : State) (n : Nat) (x : Channel) : (setChannel s n x).collectors = s.collectors := rfl
@[simp] theorem setChannel_errLog (s : State) (n : Nat) (x : Channel) : (setChannel s n x).errLog = s.errLog := rfl
@[simp] theorem setChannel_sideband (s : State) (n : Nat) (x : Channel) : (setChannel s n x).sideband = s.sideband := rfl
@[simp] theorem setChannel_jtag (s : State) (n : Nat) (x : Channel) : (setChannel s n x).jtag = s.jtag := rfl
@[simp] theorem setChannel_halves (s : State) (n : Nat) (x : Channel) : (setChannel s n x).halves = s.halves := rfl
@[simp] theorem setChannel_net (s : State) (n : Nat) (x : Channel) : (setChannel s n x).net = s.net := rfl
@[simp] theorem setChannel_nextReq (s : State) (n : Nat) (x : Channel) : (setChannel s n x).nextReq = s.nextReq := rfl
@[simp] theorem setChannel_flits (s : State) (n : Nat) (x : Channel) : (setChannel s n x).flits = s.flits := rfl
@[simp] theorem setChannel_nextFlit (s : State) (n : Nat) (x : Channel) : (setChannel s n x).nextFlit = s.nextFlit := rfl
@[simp] theorem setChannel_plan (s : State) (n : Nat) (x : Channel) : (setChannel s n x).plan = s.plan := rfl
@[simp] theorem setChannel_slotUse (s : State) (n : Nat) (x : Channel) : (setChannel s n x).slotUse = s.slotUse := rfl
@[simp] theorem setChannel_free (s : State) (n : Nat) (x : Channel) : (setChannel s n x).free = s.free := rfl
@[simp] theorem setChannel_out (s : State) (n : Nat) (x : Channel) : (setChannel s n x).out = s.out := rfl
@[simp] theorem setChannel_pending (s : State) (n : Nat) (x : Channel) : (setChannel s n x).pending = s.pending := rfl
@[simp] theorem setChannel_self (s : State) (n : Nat) (x : Channel) : chanOf (setChannel s n x) n = x := by simp [chanOf]
theorem chanOf_setChannel (s : State) (n j : Nat) (x : Channel) : chanOf (setChannel s n x) j = if j = n then x else chanOf s j := by
  split
  · subst_vars; simp
  · exact look_put_ne _ _ _ _ _ (by assumption)
@[simp] theorem setChannel_wingOf (s : State) (n j : Nat) (x : Channel) : wingOf (setChannel s n x) j = wingOf s j := rfl
@[simp] theorem setChannel_partOf (s : State) (n j : Nat) (x : Channel) : partOf (setChannel s n x) j = partOf s j := rfl
@[simp] theorem setChannel_coreOf (s : State) (n j : Nat) (x : Channel) : coreOf (setChannel s n x) j = coreOf s j := rfl
@[simp] theorem setChannel_cabOf (s : State) (n j : Nat) (x : Channel) : cabOf (setChannel s n x) j = cabOf s j := rfl
@[simp] theorem setChannel_sliceOf (s : State) (n j : Nat) (x : Channel) : sliceOf (setChannel s n x) j = sliceOf s j := rfl
@[simp] theorem setChannel_pchOf (s : State) (n j : Nat) (x : Channel) : pchOf (setChannel s n x) j = pchOf s j := rfl
@[simp] theorem setChannel_vaultOf (s : State) (n j : Nat) (x : Channel) : vaultOf (setChannel s n x) j = vaultOf s j := rfl
@[simp] theorem setChannel_csvOf (s : State) (n j : Nat) (x : Channel) : csvOf (setChannel s n x) j = csvOf s j := rfl
@[simp] theorem setChannel_engOf (s : State) (n j : Nat) (x : Channel) : engOf (setChannel s n x) j = engOf s j := rfl
@[simp] theorem setChannel_portOf (s : State) (n j : Nat) (x : Channel) : portOf (setChannel s n x) j = portOf s j := rfl
@[simp] theorem setChannel_chanBlock (s : State) (n j : Nat) (x : Channel) : chanBlock (setChannel s n x) j = chanBlock s j := rfl
@[simp] theorem setChannel_colOf (s : State) (n j : Nat) (x : Channel) : colOf (setChannel s n x) j = colOf s j := rfl
@[simp] theorem setChannel_regionOf (s : State) (n j : Nat) (x : Channel) : regionOf (setChannel s n x) j = regionOf s j := rfl
@[simp] theorem setChannel_now (s : State) (n : Nat) (x : Channel) : now (setChannel s n x) = now s := rfl
@[simp] theorem setChannel_live (s : State) (n : Nat) (x : Channel) : live (setChannel s n x) = live s := rfl

/-! ### setSlice -/

@[simp] theorem setSlice_beat (s : State) (i : Nat) (x : Slice) : (setSlice s i x).beat = s.beat := rfl
@[simp] theorem setSlice_sup (s : State) (i : Nat) (x : Slice) : (setSlice s i x).sup = s.sup := rfl
@[simp] theorem setSlice_boot (s : State) (i : Nat) (x : Slice) : (setSlice s i x).boot = s.boot := rfl
@[simp] theorem setSlice_flash (s : State) (i : Nat) (x : Slice) : (setSlice s i x).flash = s.flash := rfl
@[simp] theorem setSlice_fuses (s : State) (i : Nat) (x : Slice) : (setSlice s i x).fuses = s.fuses := rfl
@[simp] theorem setSlice_esc (s : State) (i : Nat) (x : Slice) : (setSlice s i x).esc = s.esc := rfl
@[simp] theorem setSlice_parts (s : State) (i : Nat) (x : Slice) : (setSlice s i x).parts = s.parts := rfl
@[simp] theorem setSlice_wings (s : State) (i : Nat) (x : Slice) : (setSlice s i x).wings = s.wings := rfl
@[simp] theorem setSlice_cabSites (s : State) (i : Nat) (x : Slice) : (setSlice s i x).cabSites = s.cabSites := rfl
@[simp] theorem setSlice_bankGroups (s : State) (i : Nat) (x : Slice) : (setSlice s i x).bankGroups = s.bankGroups := rfl
@[simp] theorem setSlice_sliceDoms (s : State) (i : Nat) (x : Slice) : (setSlice s i x).sliceDoms = s.sliceDoms := rfl
@[simp] theorem setSlice_csvDoms (s : State) (i : Nat) (x : Slice) : (setSlice s i x).csvDoms = s.csvDoms := rfl
@[simp] theorem setSlice_engineDoms (s : State) (i : Nat) (x : Slice) : (setSlice s i x).engineDoms = s.engineDoms := rfl
@[simp] theorem setSlice_resets (s : State) (i : Nat) (x : Slice) : (setSlice s i x).resets = s.resets := rfl
@[simp] theorem setSlice_cores (s : State) (i : Nat) (x : Slice) : (setSlice s i x).cores = s.cores := rfl
@[simp] theorem setSlice_cabinets (s : State) (i : Nat) (x : Slice) : (setSlice s i x).cabinets = s.cabinets := rfl
@[simp] theorem setSlice_channels (s : State) (i : Nat) (x : Slice) : (setSlice s i x).channels = s.channels := rfl
@[simp] theorem setSlice_shelf (s : State) (i : Nat) (x : Slice) : (setSlice s i x).shelf = s.shelf := rfl
@[simp] theorem setSlice_rowMap (s : State) (i : Nat) (x : Slice) : (setSlice s i x).rowMap = s.rowMap := rfl
@[simp] theorem setSlice_clm (s : State) (i : Nat) (x : Slice) : (setSlice s i x).clm = s.clm := rfl
@[simp] theorem setSlice_slices (s : State) (i : Nat) (x : Slice) : (setSlice s i x).slices = put s.slices i x := rfl
@[simp] theorem setSlice_pchs (s : State) (i : Nat) (x : Slice) : (setSlice s i x).pchs = s.pchs := rfl
@[simp] theorem setSlice_vaults (s : State) (i : Nat) (x : Slice) : (setSlice s i x).vaults = s.vaults := rfl
@[simp] theorem setSlice_csvs (s : State) (i : Nat) (x : Slice) : (setSlice s i x).csvs = s.csvs := rfl
@[simp] theorem setSlice_granules (s : State) (i : Nat) (x : Slice) : (setSlice s i x).granules = s.granules := rfl
@[simp] theorem setSlice_dram (s : State) (i : Nat) (x : Slice) : (setSlice s i x).dram = s.dram := rfl
@[simp] theorem setSlice_engines (s : State) (i : Nat) (x : Slice) : (setSlice s i x).engines = s.engines := rfl
@[simp] theorem setSlice_ports (s : State) (i : Nat) (x : Slice) : (setSlice s i x).ports = s.ports := rfl
@[simp] theorem setSlice_rings (s : State) (i : Nat) (x : Slice) : (setSlice s i x).rings = s.rings := rfl
@[simp] theorem setSlice_chans (s : State) (i : Nat) (x : Slice) : (setSlice s i x).chans = s.chans := rfl
@[simp] theorem setSlice_curator (s : State) (i : Nat) (x : Slice) : (setSlice s i x).curator = s.curator := rfl
@[simp] theorem setSlice_power (s : State) (i : Nat) (x : Slice) : (setSlice s i x).power = s.power := rfl
@[simp] theorem setSlice_thermal (s : State) (i : Nat) (x : Slice) : (setSlice s i x).thermal = s.thermal := rfl
@[simp] theorem setSlice_collectors (s : State) (i : Nat) (x : Slice) : (setSlice s i x).collectors = s.collectors := rfl
@[simp] theorem setSlice_errLog (s : State) (i : Nat) (x : Slice) : (setSlice s i x).errLog = s.errLog := rfl
@[simp] theorem setSlice_sideband (s : State) (i : Nat) (x : Slice) : (setSlice s i x).sideband = s.sideband := rfl
@[simp] theorem setSlice_jtag (s : State) (i : Nat) (x : Slice) : (setSlice s i x).jtag = s.jtag := rfl
@[simp] theorem setSlice_halves (s : State) (i : Nat) (x : Slice) : (setSlice s i x).halves = s.halves := rfl
@[simp] theorem setSlice_net (s : State) (i : Nat) (x : Slice) : (setSlice s i x).net = s.net := rfl
@[simp] theorem setSlice_nextReq (s : State) (i : Nat) (x : Slice) : (setSlice s i x).nextReq = s.nextReq := rfl
@[simp] theorem setSlice_flits (s : State) (i : Nat) (x : Slice) : (setSlice s i x).flits = s.flits := rfl
@[simp] theorem setSlice_nextFlit (s : State) (i : Nat) (x : Slice) : (setSlice s i x).nextFlit = s.nextFlit := rfl
@[simp] theorem setSlice_plan (s : State) (i : Nat) (x : Slice) : (setSlice s i x).plan = s.plan := rfl
@[simp] theorem setSlice_slotUse (s : State) (i : Nat) (x : Slice) : (setSlice s i x).slotUse = s.slotUse := rfl
@[simp] theorem setSlice_free (s : State) (i : Nat) (x : Slice) : (setSlice s i x).free = s.free := rfl
@[simp] theorem setSlice_out (s : State) (i : Nat) (x : Slice) : (setSlice s i x).out = s.out := rfl
@[simp] theorem setSlice_pending (s : State) (i : Nat) (x : Slice) : (setSlice s i x).pending = s.pending := rfl
@[simp] theorem setSlice_self (s : State) (i : Nat) (x : Slice) : sliceOf (setSlice s i x) i = x := by simp [sliceOf]
theorem sliceOf_setSlice (s : State) (i j : Nat) (x : Slice) : sliceOf (setSlice s i x) j = if j = i then x else sliceOf s j := by
  split
  · subst_vars; simp
  · exact look_put_ne _ _ _ _ _ (by assumption)
@[simp] theorem setSlice_wingOf (s : State) (i j : Nat) (x : Slice) : wingOf (setSlice s i x) j = wingOf s j := rfl
@[simp] theorem setSlice_partOf (s : State) (i j : Nat) (x : Slice) : partOf (setSlice s i x) j = partOf s j := rfl
@[simp] theorem setSlice_coreOf (s : State) (i j : Nat) (x : Slice) : coreOf (setSlice s i x) j = coreOf s j := rfl
@[simp] theorem setSlice_cabOf (s : State) (i j : Nat) (x : Slice) : cabOf (setSlice s i x) j = cabOf s j := rfl
@[simp] theorem setSlice_chanOf (s : State) (i j : Nat) (x : Slice) : chanOf (setSlice s i x) j = chanOf s j := rfl
@[simp] theorem setSlice_pchOf (s : State) (i j : Nat) (x : Slice) : pchOf (setSlice s i x) j = pchOf s j := rfl
@[simp] theorem setSlice_vaultOf (s : State) (i j : Nat) (x : Slice) : vaultOf (setSlice s i x) j = vaultOf s j := rfl
@[simp] theorem setSlice_csvOf (s : State) (i j : Nat) (x : Slice) : csvOf (setSlice s i x) j = csvOf s j := rfl
@[simp] theorem setSlice_engOf (s : State) (i j : Nat) (x : Slice) : engOf (setSlice s i x) j = engOf s j := rfl
@[simp] theorem setSlice_portOf (s : State) (i j : Nat) (x : Slice) : portOf (setSlice s i x) j = portOf s j := rfl
@[simp] theorem setSlice_chanBlock (s : State) (i j : Nat) (x : Slice) : chanBlock (setSlice s i x) j = chanBlock s j := rfl
@[simp] theorem setSlice_colOf (s : State) (i j : Nat) (x : Slice) : colOf (setSlice s i x) j = colOf s j := rfl
@[simp] theorem setSlice_regionOf (s : State) (i j : Nat) (x : Slice) : regionOf (setSlice s i x) j = regionOf s j := rfl
@[simp] theorem setSlice_now (s : State) (i : Nat) (x : Slice) : now (setSlice s i x) = now s := rfl
@[simp] theorem setSlice_live (s : State) (i : Nat) (x : Slice) : live (setSlice s i x) = live s := rfl

/-! ### setPch -/

@[simp] theorem setPch_beat (s : State) (i : Nat) (x : Pch) : (setPch s i x).beat = s.beat := rfl
@[simp] theorem setPch_sup (s : State) (i : Nat) (x : Pch) : (setPch s i x).sup = s.sup := rfl
@[simp] theorem setPch_boot (s : State) (i : Nat) (x : Pch) : (setPch s i x).boot = s.boot := rfl
@[simp] theorem setPch_flash (s : State) (i : Nat) (x : Pch) : (setPch s i x).flash = s.flash := rfl
@[simp] theorem setPch_fuses (s : State) (i : Nat) (x : Pch) : (setPch s i x).fuses = s.fuses := rfl
@[simp] theorem setPch_esc (s : State) (i : Nat) (x : Pch) : (setPch s i x).esc = s.esc := rfl
@[simp] theorem setPch_parts (s : State) (i : Nat) (x : Pch) : (setPch s i x).parts = s.parts := rfl
@[simp] theorem setPch_wings (s : State) (i : Nat) (x : Pch) : (setPch s i x).wings = s.wings := rfl
@[simp] theorem setPch_cabSites (s : State) (i : Nat) (x : Pch) : (setPch s i x).cabSites = s.cabSites := rfl
@[simp] theorem setPch_bankGroups (s : State) (i : Nat) (x : Pch) : (setPch s i x).bankGroups = s.bankGroups := rfl
@[simp] theorem setPch_sliceDoms (s : State) (i : Nat) (x : Pch) : (setPch s i x).sliceDoms = s.sliceDoms := rfl
@[simp] theorem setPch_csvDoms (s : State) (i : Nat) (x : Pch) : (setPch s i x).csvDoms = s.csvDoms := rfl
@[simp] theorem setPch_engineDoms (s : State) (i : Nat) (x : Pch) : (setPch s i x).engineDoms = s.engineDoms := rfl
@[simp] theorem setPch_resets (s : State) (i : Nat) (x : Pch) : (setPch s i x).resets = s.resets := rfl
@[simp] theorem setPch_cores (s : State) (i : Nat) (x : Pch) : (setPch s i x).cores = s.cores := rfl
@[simp] theorem setPch_cabinets (s : State) (i : Nat) (x : Pch) : (setPch s i x).cabinets = s.cabinets := rfl
@[simp] theorem setPch_channels (s : State) (i : Nat) (x : Pch) : (setPch s i x).channels = s.channels := rfl
@[simp] theorem setPch_shelf (s : State) (i : Nat) (x : Pch) : (setPch s i x).shelf = s.shelf := rfl
@[simp] theorem setPch_rowMap (s : State) (i : Nat) (x : Pch) : (setPch s i x).rowMap = s.rowMap := rfl
@[simp] theorem setPch_clm (s : State) (i : Nat) (x : Pch) : (setPch s i x).clm = s.clm := rfl
@[simp] theorem setPch_slices (s : State) (i : Nat) (x : Pch) : (setPch s i x).slices = s.slices := rfl
@[simp] theorem setPch_pchs (s : State) (i : Nat) (x : Pch) : (setPch s i x).pchs = put s.pchs i x := rfl
@[simp] theorem setPch_vaults (s : State) (i : Nat) (x : Pch) : (setPch s i x).vaults = s.vaults := rfl
@[simp] theorem setPch_csvs (s : State) (i : Nat) (x : Pch) : (setPch s i x).csvs = s.csvs := rfl
@[simp] theorem setPch_granules (s : State) (i : Nat) (x : Pch) : (setPch s i x).granules = s.granules := rfl
@[simp] theorem setPch_dram (s : State) (i : Nat) (x : Pch) : (setPch s i x).dram = s.dram := rfl
@[simp] theorem setPch_engines (s : State) (i : Nat) (x : Pch) : (setPch s i x).engines = s.engines := rfl
@[simp] theorem setPch_ports (s : State) (i : Nat) (x : Pch) : (setPch s i x).ports = s.ports := rfl
@[simp] theorem setPch_rings (s : State) (i : Nat) (x : Pch) : (setPch s i x).rings = s.rings := rfl
@[simp] theorem setPch_chans (s : State) (i : Nat) (x : Pch) : (setPch s i x).chans = s.chans := rfl
@[simp] theorem setPch_curator (s : State) (i : Nat) (x : Pch) : (setPch s i x).curator = s.curator := rfl
@[simp] theorem setPch_power (s : State) (i : Nat) (x : Pch) : (setPch s i x).power = s.power := rfl
@[simp] theorem setPch_thermal (s : State) (i : Nat) (x : Pch) : (setPch s i x).thermal = s.thermal := rfl
@[simp] theorem setPch_collectors (s : State) (i : Nat) (x : Pch) : (setPch s i x).collectors = s.collectors := rfl
@[simp] theorem setPch_errLog (s : State) (i : Nat) (x : Pch) : (setPch s i x).errLog = s.errLog := rfl
@[simp] theorem setPch_sideband (s : State) (i : Nat) (x : Pch) : (setPch s i x).sideband = s.sideband := rfl
@[simp] theorem setPch_jtag (s : State) (i : Nat) (x : Pch) : (setPch s i x).jtag = s.jtag := rfl
@[simp] theorem setPch_halves (s : State) (i : Nat) (x : Pch) : (setPch s i x).halves = s.halves := rfl
@[simp] theorem setPch_net (s : State) (i : Nat) (x : Pch) : (setPch s i x).net = s.net := rfl
@[simp] theorem setPch_nextReq (s : State) (i : Nat) (x : Pch) : (setPch s i x).nextReq = s.nextReq := rfl
@[simp] theorem setPch_flits (s : State) (i : Nat) (x : Pch) : (setPch s i x).flits = s.flits := rfl
@[simp] theorem setPch_nextFlit (s : State) (i : Nat) (x : Pch) : (setPch s i x).nextFlit = s.nextFlit := rfl
@[simp] theorem setPch_plan (s : State) (i : Nat) (x : Pch) : (setPch s i x).plan = s.plan := rfl
@[simp] theorem setPch_slotUse (s : State) (i : Nat) (x : Pch) : (setPch s i x).slotUse = s.slotUse := rfl
@[simp] theorem setPch_free (s : State) (i : Nat) (x : Pch) : (setPch s i x).free = s.free := rfl
@[simp] theorem setPch_out (s : State) (i : Nat) (x : Pch) : (setPch s i x).out = s.out := rfl
@[simp] theorem setPch_pending (s : State) (i : Nat) (x : Pch) : (setPch s i x).pending = s.pending := rfl
@[simp] theorem setPch_self (s : State) (i : Nat) (x : Pch) : pchOf (setPch s i x) i = x := by simp [pchOf]
theorem pchOf_setPch (s : State) (i j : Nat) (x : Pch) : pchOf (setPch s i x) j = if j = i then x else pchOf s j := by
  split
  · subst_vars; simp
  · exact look_put_ne _ _ _ _ _ (by assumption)
@[simp] theorem setPch_wingOf (s : State) (i j : Nat) (x : Pch) : wingOf (setPch s i x) j = wingOf s j := rfl
@[simp] theorem setPch_partOf (s : State) (i j : Nat) (x : Pch) : partOf (setPch s i x) j = partOf s j := rfl
@[simp] theorem setPch_coreOf (s : State) (i j : Nat) (x : Pch) : coreOf (setPch s i x) j = coreOf s j := rfl
@[simp] theorem setPch_cabOf (s : State) (i j : Nat) (x : Pch) : cabOf (setPch s i x) j = cabOf s j := rfl
@[simp] theorem setPch_chanOf (s : State) (i j : Nat) (x : Pch) : chanOf (setPch s i x) j = chanOf s j := rfl
@[simp] theorem setPch_sliceOf (s : State) (i j : Nat) (x : Pch) : sliceOf (setPch s i x) j = sliceOf s j := rfl
@[simp] theorem setPch_vaultOf (s : State) (i j : Nat) (x : Pch) : vaultOf (setPch s i x) j = vaultOf s j := rfl
@[simp] theorem setPch_csvOf (s : State) (i j : Nat) (x : Pch) : csvOf (setPch s i x) j = csvOf s j := rfl
@[simp] theorem setPch_engOf (s : State) (i j : Nat) (x : Pch) : engOf (setPch s i x) j = engOf s j := rfl
@[simp] theorem setPch_portOf (s : State) (i j : Nat) (x : Pch) : portOf (setPch s i x) j = portOf s j := rfl
@[simp] theorem setPch_chanBlock (s : State) (i j : Nat) (x : Pch) : chanBlock (setPch s i x) j = chanBlock s j := rfl
@[simp] theorem setPch_colOf (s : State) (i j : Nat) (x : Pch) : colOf (setPch s i x) j = colOf s j := rfl
@[simp] theorem setPch_regionOf (s : State) (i j : Nat) (x : Pch) : regionOf (setPch s i x) j = regionOf s j := rfl
@[simp] theorem setPch_now (s : State) (i : Nat) (x : Pch) : now (setPch s i x) = now s := rfl
@[simp] theorem setPch_live (s : State) (i : Nat) (x : Pch) : live (setPch s i x) = live s := rfl

/-! ### setVault -/

@[simp] theorem setVault_beat (s : State) (v : Nat) (x : Vault) : (setVault s v x).beat = s.beat := rfl
@[simp] theorem setVault_sup (s : State) (v : Nat) (x : Vault) : (setVault s v x).sup = s.sup := rfl
@[simp] theorem setVault_boot (s : State) (v : Nat) (x : Vault) : (setVault s v x).boot = s.boot := rfl
@[simp] theorem setVault_flash (s : State) (v : Nat) (x : Vault) : (setVault s v x).flash = s.flash := rfl
@[simp] theorem setVault_fuses (s : State) (v : Nat) (x : Vault) : (setVault s v x).fuses = s.fuses := rfl
@[simp] theorem setVault_esc (s : State) (v : Nat) (x : Vault) : (setVault s v x).esc = s.esc := rfl
@[simp] theorem setVault_parts (s : State) (v : Nat) (x : Vault) : (setVault s v x).parts = s.parts := rfl
@[simp] theorem setVault_wings (s : State) (v : Nat) (x : Vault) : (setVault s v x).wings = s.wings := rfl
@[simp] theorem setVault_cabSites (s : State) (v : Nat) (x : Vault) : (setVault s v x).cabSites = s.cabSites := rfl
@[simp] theorem setVault_bankGroups (s : State) (v : Nat) (x : Vault) : (setVault s v x).bankGroups = s.bankGroups := rfl
@[simp] theorem setVault_sliceDoms (s : State) (v : Nat) (x : Vault) : (setVault s v x).sliceDoms = s.sliceDoms := rfl
@[simp] theorem setVault_csvDoms (s : State) (v : Nat) (x : Vault) : (setVault s v x).csvDoms = s.csvDoms := rfl
@[simp] theorem setVault_engineDoms (s : State) (v : Nat) (x : Vault) : (setVault s v x).engineDoms = s.engineDoms := rfl
@[simp] theorem setVault_resets (s : State) (v : Nat) (x : Vault) : (setVault s v x).resets = s.resets := rfl
@[simp] theorem setVault_cores (s : State) (v : Nat) (x : Vault) : (setVault s v x).cores = s.cores := rfl
@[simp] theorem setVault_cabinets (s : State) (v : Nat) (x : Vault) : (setVault s v x).cabinets = s.cabinets := rfl
@[simp] theorem setVault_channels (s : State) (v : Nat) (x : Vault) : (setVault s v x).channels = s.channels := rfl
@[simp] theorem setVault_shelf (s : State) (v : Nat) (x : Vault) : (setVault s v x).shelf = s.shelf := rfl
@[simp] theorem setVault_rowMap (s : State) (v : Nat) (x : Vault) : (setVault s v x).rowMap = s.rowMap := rfl
@[simp] theorem setVault_clm (s : State) (v : Nat) (x : Vault) : (setVault s v x).clm = s.clm := rfl
@[simp] theorem setVault_slices (s : State) (v : Nat) (x : Vault) : (setVault s v x).slices = s.slices := rfl
@[simp] theorem setVault_pchs (s : State) (v : Nat) (x : Vault) : (setVault s v x).pchs = s.pchs := rfl
@[simp] theorem setVault_vaults (s : State) (v : Nat) (x : Vault) : (setVault s v x).vaults = put s.vaults v x := rfl
@[simp] theorem setVault_csvs (s : State) (v : Nat) (x : Vault) : (setVault s v x).csvs = s.csvs := rfl
@[simp] theorem setVault_granules (s : State) (v : Nat) (x : Vault) : (setVault s v x).granules = s.granules := rfl
@[simp] theorem setVault_dram (s : State) (v : Nat) (x : Vault) : (setVault s v x).dram = s.dram := rfl
@[simp] theorem setVault_engines (s : State) (v : Nat) (x : Vault) : (setVault s v x).engines = s.engines := rfl
@[simp] theorem setVault_ports (s : State) (v : Nat) (x : Vault) : (setVault s v x).ports = s.ports := rfl
@[simp] theorem setVault_rings (s : State) (v : Nat) (x : Vault) : (setVault s v x).rings = s.rings := rfl
@[simp] theorem setVault_chans (s : State) (v : Nat) (x : Vault) : (setVault s v x).chans = s.chans := rfl
@[simp] theorem setVault_curator (s : State) (v : Nat) (x : Vault) : (setVault s v x).curator = s.curator := rfl
@[simp] theorem setVault_power (s : State) (v : Nat) (x : Vault) : (setVault s v x).power = s.power := rfl
@[simp] theorem setVault_thermal (s : State) (v : Nat) (x : Vault) : (setVault s v x).thermal = s.thermal := rfl
@[simp] theorem setVault_collectors (s : State) (v : Nat) (x : Vault) : (setVault s v x).collectors = s.collectors := rfl
@[simp] theorem setVault_errLog (s : State) (v : Nat) (x : Vault) : (setVault s v x).errLog = s.errLog := rfl
@[simp] theorem setVault_sideband (s : State) (v : Nat) (x : Vault) : (setVault s v x).sideband = s.sideband := rfl
@[simp] theorem setVault_jtag (s : State) (v : Nat) (x : Vault) : (setVault s v x).jtag = s.jtag := rfl
@[simp] theorem setVault_halves (s : State) (v : Nat) (x : Vault) : (setVault s v x).halves = s.halves := rfl
@[simp] theorem setVault_net (s : State) (v : Nat) (x : Vault) : (setVault s v x).net = s.net := rfl
@[simp] theorem setVault_nextReq (s : State) (v : Nat) (x : Vault) : (setVault s v x).nextReq = s.nextReq := rfl
@[simp] theorem setVault_flits (s : State) (v : Nat) (x : Vault) : (setVault s v x).flits = s.flits := rfl
@[simp] theorem setVault_nextFlit (s : State) (v : Nat) (x : Vault) : (setVault s v x).nextFlit = s.nextFlit := rfl
@[simp] theorem setVault_plan (s : State) (v : Nat) (x : Vault) : (setVault s v x).plan = s.plan := rfl
@[simp] theorem setVault_slotUse (s : State) (v : Nat) (x : Vault) : (setVault s v x).slotUse = s.slotUse := rfl
@[simp] theorem setVault_free (s : State) (v : Nat) (x : Vault) : (setVault s v x).free = s.free := rfl
@[simp] theorem setVault_out (s : State) (v : Nat) (x : Vault) : (setVault s v x).out = s.out := rfl
@[simp] theorem setVault_pending (s : State) (v : Nat) (x : Vault) : (setVault s v x).pending = s.pending := rfl
@[simp] theorem setVault_self (s : State) (v : Nat) (x : Vault) : vaultOf (setVault s v x) v = x := by simp [vaultOf]
theorem vaultOf_setVault (s : State) (v j : Nat) (x : Vault) : vaultOf (setVault s v x) j = if j = v then x else vaultOf s j := by
  split
  · subst_vars; simp
  · exact look_put_ne _ _ _ _ _ (by assumption)
@[simp] theorem setVault_wingOf (s : State) (v j : Nat) (x : Vault) : wingOf (setVault s v x) j = wingOf s j := rfl
@[simp] theorem setVault_partOf (s : State) (v j : Nat) (x : Vault) : partOf (setVault s v x) j = partOf s j := rfl
@[simp] theorem setVault_coreOf (s : State) (v j : Nat) (x : Vault) : coreOf (setVault s v x) j = coreOf s j := rfl
@[simp] theorem setVault_cabOf (s : State) (v j : Nat) (x : Vault) : cabOf (setVault s v x) j = cabOf s j := rfl
@[simp] theorem setVault_chanOf (s : State) (v j : Nat) (x : Vault) : chanOf (setVault s v x) j = chanOf s j := rfl
@[simp] theorem setVault_sliceOf (s : State) (v j : Nat) (x : Vault) : sliceOf (setVault s v x) j = sliceOf s j := rfl
@[simp] theorem setVault_pchOf (s : State) (v j : Nat) (x : Vault) : pchOf (setVault s v x) j = pchOf s j := rfl
@[simp] theorem setVault_csvOf (s : State) (v j : Nat) (x : Vault) : csvOf (setVault s v x) j = csvOf s j := rfl
@[simp] theorem setVault_engOf (s : State) (v j : Nat) (x : Vault) : engOf (setVault s v x) j = engOf s j := rfl
@[simp] theorem setVault_portOf (s : State) (v j : Nat) (x : Vault) : portOf (setVault s v x) j = portOf s j := rfl
@[simp] theorem setVault_chanBlock (s : State) (v j : Nat) (x : Vault) : chanBlock (setVault s v x) j = chanBlock s j := rfl
@[simp] theorem setVault_colOf (s : State) (v j : Nat) (x : Vault) : colOf (setVault s v x) j = colOf s j := rfl
@[simp] theorem setVault_regionOf (s : State) (v j : Nat) (x : Vault) : regionOf (setVault s v x) j = regionOf s j := rfl
@[simp] theorem setVault_now (s : State) (v : Nat) (x : Vault) : now (setVault s v x) = now s := rfl
@[simp] theorem setVault_live (s : State) (v : Nat) (x : Vault) : live (setVault s v x) = live s := rfl

/-! ### setCsv -/

@[simp] theorem setCsv_beat (s : State) (i : Nat) (x : Csv) : (setCsv s i x).beat = s.beat := rfl
@[simp] theorem setCsv_sup (s : State) (i : Nat) (x : Csv) : (setCsv s i x).sup = s.sup := rfl
@[simp] theorem setCsv_boot (s : State) (i : Nat) (x : Csv) : (setCsv s i x).boot = s.boot := rfl
@[simp] theorem setCsv_flash (s : State) (i : Nat) (x : Csv) : (setCsv s i x).flash = s.flash := rfl
@[simp] theorem setCsv_fuses (s : State) (i : Nat) (x : Csv) : (setCsv s i x).fuses = s.fuses := rfl
@[simp] theorem setCsv_esc (s : State) (i : Nat) (x : Csv) : (setCsv s i x).esc = s.esc := rfl
@[simp] theorem setCsv_parts (s : State) (i : Nat) (x : Csv) : (setCsv s i x).parts = s.parts := rfl
@[simp] theorem setCsv_wings (s : State) (i : Nat) (x : Csv) : (setCsv s i x).wings = s.wings := rfl
@[simp] theorem setCsv_cabSites (s : State) (i : Nat) (x : Csv) : (setCsv s i x).cabSites = s.cabSites := rfl
@[simp] theorem setCsv_bankGroups (s : State) (i : Nat) (x : Csv) : (setCsv s i x).bankGroups = s.bankGroups := rfl
@[simp] theorem setCsv_sliceDoms (s : State) (i : Nat) (x : Csv) : (setCsv s i x).sliceDoms = s.sliceDoms := rfl
@[simp] theorem setCsv_csvDoms (s : State) (i : Nat) (x : Csv) : (setCsv s i x).csvDoms = s.csvDoms := rfl
@[simp] theorem setCsv_engineDoms (s : State) (i : Nat) (x : Csv) : (setCsv s i x).engineDoms = s.engineDoms := rfl
@[simp] theorem setCsv_resets (s : State) (i : Nat) (x : Csv) : (setCsv s i x).resets = s.resets := rfl
@[simp] theorem setCsv_cores (s : State) (i : Nat) (x : Csv) : (setCsv s i x).cores = s.cores := rfl
@[simp] theorem setCsv_cabinets (s : State) (i : Nat) (x : Csv) : (setCsv s i x).cabinets = s.cabinets := rfl
@[simp] theorem setCsv_channels (s : State) (i : Nat) (x : Csv) : (setCsv s i x).channels = s.channels := rfl
@[simp] theorem setCsv_shelf (s : State) (i : Nat) (x : Csv) : (setCsv s i x).shelf = s.shelf := rfl
@[simp] theorem setCsv_rowMap (s : State) (i : Nat) (x : Csv) : (setCsv s i x).rowMap = s.rowMap := rfl
@[simp] theorem setCsv_clm (s : State) (i : Nat) (x : Csv) : (setCsv s i x).clm = s.clm := rfl
@[simp] theorem setCsv_slices (s : State) (i : Nat) (x : Csv) : (setCsv s i x).slices = s.slices := rfl
@[simp] theorem setCsv_pchs (s : State) (i : Nat) (x : Csv) : (setCsv s i x).pchs = s.pchs := rfl
@[simp] theorem setCsv_vaults (s : State) (i : Nat) (x : Csv) : (setCsv s i x).vaults = s.vaults := rfl
@[simp] theorem setCsv_csvs (s : State) (i : Nat) (x : Csv) : (setCsv s i x).csvs = put s.csvs i x := rfl
@[simp] theorem setCsv_granules (s : State) (i : Nat) (x : Csv) : (setCsv s i x).granules = s.granules := rfl
@[simp] theorem setCsv_dram (s : State) (i : Nat) (x : Csv) : (setCsv s i x).dram = s.dram := rfl
@[simp] theorem setCsv_engines (s : State) (i : Nat) (x : Csv) : (setCsv s i x).engines = s.engines := rfl
@[simp] theorem setCsv_ports (s : State) (i : Nat) (x : Csv) : (setCsv s i x).ports = s.ports := rfl
@[simp] theorem setCsv_rings (s : State) (i : Nat) (x : Csv) : (setCsv s i x).rings = s.rings := rfl
@[simp] theorem setCsv_chans (s : State) (i : Nat) (x : Csv) : (setCsv s i x).chans = s.chans := rfl
@[simp] theorem setCsv_curator (s : State) (i : Nat) (x : Csv) : (setCsv s i x).curator = s.curator := rfl
@[simp] theorem setCsv_power (s : State) (i : Nat) (x : Csv) : (setCsv s i x).power = s.power := rfl
@[simp] theorem setCsv_thermal (s : State) (i : Nat) (x : Csv) : (setCsv s i x).thermal = s.thermal := rfl
@[simp] theorem setCsv_collectors (s : State) (i : Nat) (x : Csv) : (setCsv s i x).collectors = s.collectors := rfl
@[simp] theorem setCsv_errLog (s : State) (i : Nat) (x : Csv) : (setCsv s i x).errLog = s.errLog := rfl
@[simp] theorem setCsv_sideband (s : State) (i : Nat) (x : Csv) : (setCsv s i x).sideband = s.sideband := rfl
@[simp] theorem setCsv_jtag (s : State) (i : Nat) (x : Csv) : (setCsv s i x).jtag = s.jtag := rfl
@[simp] theorem setCsv_halves (s : State) (i : Nat) (x : Csv) : (setCsv s i x).halves = s.halves := rfl
@[simp] theorem setCsv_net (s : State) (i : Nat) (x : Csv) : (setCsv s i x).net = s.net := rfl
@[simp] theorem setCsv_nextReq (s : State) (i : Nat) (x : Csv) : (setCsv s i x).nextReq = s.nextReq := rfl
@[simp] theorem setCsv_flits (s : State) (i : Nat) (x : Csv) : (setCsv s i x).flits = s.flits := rfl
@[simp] theorem setCsv_nextFlit (s : State) (i : Nat) (x : Csv) : (setCsv s i x).nextFlit = s.nextFlit := rfl
@[simp] theorem setCsv_plan (s : State) (i : Nat) (x : Csv) : (setCsv s i x).plan = s.plan := rfl
@[simp] theorem setCsv_slotUse (s : State) (i : Nat) (x : Csv) : (setCsv s i x).slotUse = s.slotUse := rfl
@[simp] theorem setCsv_free (s : State) (i : Nat) (x : Csv) : (setCsv s i x).free = s.free := rfl
@[simp] theorem setCsv_out (s : State) (i : Nat) (x : Csv) : (setCsv s i x).out = s.out := rfl
@[simp] theorem setCsv_pending (s : State) (i : Nat) (x : Csv) : (setCsv s i x).pending = s.pending := rfl
@[simp] theorem setCsv_self (s : State) (i : Nat) (x : Csv) : csvOf (setCsv s i x) i = x := by simp [csvOf]
theorem csvOf_setCsv (s : State) (i j : Nat) (x : Csv) : csvOf (setCsv s i x) j = if j = i then x else csvOf s j := by
  split
  · subst_vars; simp
  · exact look_put_ne _ _ _ _ _ (by assumption)
@[simp] theorem setCsv_wingOf (s : State) (i j : Nat) (x : Csv) : wingOf (setCsv s i x) j = wingOf s j := rfl
@[simp] theorem setCsv_partOf (s : State) (i j : Nat) (x : Csv) : partOf (setCsv s i x) j = partOf s j := rfl
@[simp] theorem setCsv_coreOf (s : State) (i j : Nat) (x : Csv) : coreOf (setCsv s i x) j = coreOf s j := rfl
@[simp] theorem setCsv_cabOf (s : State) (i j : Nat) (x : Csv) : cabOf (setCsv s i x) j = cabOf s j := rfl
@[simp] theorem setCsv_chanOf (s : State) (i j : Nat) (x : Csv) : chanOf (setCsv s i x) j = chanOf s j := rfl
@[simp] theorem setCsv_sliceOf (s : State) (i j : Nat) (x : Csv) : sliceOf (setCsv s i x) j = sliceOf s j := rfl
@[simp] theorem setCsv_pchOf (s : State) (i j : Nat) (x : Csv) : pchOf (setCsv s i x) j = pchOf s j := rfl
@[simp] theorem setCsv_vaultOf (s : State) (i j : Nat) (x : Csv) : vaultOf (setCsv s i x) j = vaultOf s j := rfl
@[simp] theorem setCsv_engOf (s : State) (i j : Nat) (x : Csv) : engOf (setCsv s i x) j = engOf s j := rfl
@[simp] theorem setCsv_portOf (s : State) (i j : Nat) (x : Csv) : portOf (setCsv s i x) j = portOf s j := rfl
@[simp] theorem setCsv_chanBlock (s : State) (i j : Nat) (x : Csv) : chanBlock (setCsv s i x) j = chanBlock s j := rfl
@[simp] theorem setCsv_colOf (s : State) (i j : Nat) (x : Csv) : colOf (setCsv s i x) j = colOf s j := rfl
@[simp] theorem setCsv_regionOf (s : State) (i j : Nat) (x : Csv) : regionOf (setCsv s i x) j = regionOf s j := rfl
@[simp] theorem setCsv_now (s : State) (i : Nat) (x : Csv) : now (setCsv s i x) = now s := rfl
@[simp] theorem setCsv_live (s : State) (i : Nat) (x : Csv) : live (setCsv s i x) = live s := rfl

/-! ### setEng -/

@[simp] theorem setEng_beat (s : State) (e : Nat) (x : Engine) : (setEng s e x).beat = s.beat := rfl
@[simp] theorem setEng_sup (s : State) (e : Nat) (x : Engine) : (setEng s e x).sup = s.sup := rfl
@[simp] theorem setEng_boot (s : State) (e : Nat) (x : Engine) : (setEng s e x).boot = s.boot := rfl
@[simp] theorem setEng_flash (s : State) (e : Nat) (x : Engine) : (setEng s e x).flash = s.flash := rfl
@[simp] theorem setEng_fuses (s : State) (e : Nat) (x : Engine) : (setEng s e x).fuses = s.fuses := rfl
@[simp] theorem setEng_esc (s : State) (e : Nat) (x : Engine) : (setEng s e x).esc = s.esc := rfl
@[simp] theorem setEng_parts (s : State) (e : Nat) (x : Engine) : (setEng s e x).parts = s.parts := rfl
@[simp] theorem setEng_wings (s : State) (e : Nat) (x : Engine) : (setEng s e x).wings = s.wings := rfl
@[simp] theorem setEng_cabSites (s : State) (e : Nat) (x : Engine) : (setEng s e x).cabSites = s.cabSites := rfl
@[simp] theorem setEng_bankGroups (s : State) (e : Nat) (x : Engine) : (setEng s e x).bankGroups = s.bankGroups := rfl
@[simp] theorem setEng_sliceDoms (s : State) (e : Nat) (x : Engine) : (setEng s e x).sliceDoms = s.sliceDoms := rfl
@[simp] theorem setEng_csvDoms (s : State) (e : Nat) (x : Engine) : (setEng s e x).csvDoms = s.csvDoms := rfl
@[simp] theorem setEng_engineDoms (s : State) (e : Nat) (x : Engine) : (setEng s e x).engineDoms = s.engineDoms := rfl
@[simp] theorem setEng_resets (s : State) (e : Nat) (x : Engine) : (setEng s e x).resets = s.resets := rfl
@[simp] theorem setEng_cores (s : State) (e : Nat) (x : Engine) : (setEng s e x).cores = s.cores := rfl
@[simp] theorem setEng_cabinets (s : State) (e : Nat) (x : Engine) : (setEng s e x).cabinets = s.cabinets := rfl
@[simp] theorem setEng_channels (s : State) (e : Nat) (x : Engine) : (setEng s e x).channels = s.channels := rfl
@[simp] theorem setEng_shelf (s : State) (e : Nat) (x : Engine) : (setEng s e x).shelf = s.shelf := rfl
@[simp] theorem setEng_rowMap (s : State) (e : Nat) (x : Engine) : (setEng s e x).rowMap = s.rowMap := rfl
@[simp] theorem setEng_clm (s : State) (e : Nat) (x : Engine) : (setEng s e x).clm = s.clm := rfl
@[simp] theorem setEng_slices (s : State) (e : Nat) (x : Engine) : (setEng s e x).slices = s.slices := rfl
@[simp] theorem setEng_pchs (s : State) (e : Nat) (x : Engine) : (setEng s e x).pchs = s.pchs := rfl
@[simp] theorem setEng_vaults (s : State) (e : Nat) (x : Engine) : (setEng s e x).vaults = s.vaults := rfl
@[simp] theorem setEng_csvs (s : State) (e : Nat) (x : Engine) : (setEng s e x).csvs = s.csvs := rfl
@[simp] theorem setEng_granules (s : State) (e : Nat) (x : Engine) : (setEng s e x).granules = s.granules := rfl
@[simp] theorem setEng_dram (s : State) (e : Nat) (x : Engine) : (setEng s e x).dram = s.dram := rfl
@[simp] theorem setEng_engines (s : State) (e : Nat) (x : Engine) : (setEng s e x).engines = put s.engines e x := rfl
@[simp] theorem setEng_ports (s : State) (e : Nat) (x : Engine) : (setEng s e x).ports = s.ports := rfl
@[simp] theorem setEng_rings (s : State) (e : Nat) (x : Engine) : (setEng s e x).rings = s.rings := rfl
@[simp] theorem setEng_chans (s : State) (e : Nat) (x : Engine) : (setEng s e x).chans = s.chans := rfl
@[simp] theorem setEng_curator (s : State) (e : Nat) (x : Engine) : (setEng s e x).curator = s.curator := rfl
@[simp] theorem setEng_power (s : State) (e : Nat) (x : Engine) : (setEng s e x).power = s.power := rfl
@[simp] theorem setEng_thermal (s : State) (e : Nat) (x : Engine) : (setEng s e x).thermal = s.thermal := rfl
@[simp] theorem setEng_collectors (s : State) (e : Nat) (x : Engine) : (setEng s e x).collectors = s.collectors := rfl
@[simp] theorem setEng_errLog (s : State) (e : Nat) (x : Engine) : (setEng s e x).errLog = s.errLog := rfl
@[simp] theorem setEng_sideband (s : State) (e : Nat) (x : Engine) : (setEng s e x).sideband = s.sideband := rfl
@[simp] theorem setEng_jtag (s : State) (e : Nat) (x : Engine) : (setEng s e x).jtag = s.jtag := rfl
@[simp] theorem setEng_halves (s : State) (e : Nat) (x : Engine) : (setEng s e x).halves = s.halves := rfl
@[simp] theorem setEng_net (s : State) (e : Nat) (x : Engine) : (setEng s e x).net = s.net := rfl
@[simp] theorem setEng_nextReq (s : State) (e : Nat) (x : Engine) : (setEng s e x).nextReq = s.nextReq := rfl
@[simp] theorem setEng_flits (s : State) (e : Nat) (x : Engine) : (setEng s e x).flits = s.flits := rfl
@[simp] theorem setEng_nextFlit (s : State) (e : Nat) (x : Engine) : (setEng s e x).nextFlit = s.nextFlit := rfl
@[simp] theorem setEng_plan (s : State) (e : Nat) (x : Engine) : (setEng s e x).plan = s.plan := rfl
@[simp] theorem setEng_slotUse (s : State) (e : Nat) (x : Engine) : (setEng s e x).slotUse = s.slotUse := rfl
@[simp] theorem setEng_free (s : State) (e : Nat) (x : Engine) : (setEng s e x).free = s.free := rfl
@[simp] theorem setEng_out (s : State) (e : Nat) (x : Engine) : (setEng s e x).out = s.out := rfl
@[simp] theorem setEng_pending (s : State) (e : Nat) (x : Engine) : (setEng s e x).pending = s.pending := rfl
@[simp] theorem setEng_self (s : State) (e : Nat) (x : Engine) : engOf (setEng s e x) e = x := by simp [engOf]
theorem engOf_setEng (s : State) (e j : Nat) (x : Engine) : engOf (setEng s e x) j = if j = e then x else engOf s j := by
  split
  · subst_vars; simp
  · exact look_put_ne _ _ _ _ _ (by assumption)
@[simp] theorem setEng_wingOf (s : State) (e j : Nat) (x : Engine) : wingOf (setEng s e x) j = wingOf s j := rfl
@[simp] theorem setEng_partOf (s : State) (e j : Nat) (x : Engine) : partOf (setEng s e x) j = partOf s j := rfl
@[simp] theorem setEng_coreOf (s : State) (e j : Nat) (x : Engine) : coreOf (setEng s e x) j = coreOf s j := rfl
@[simp] theorem setEng_cabOf (s : State) (e j : Nat) (x : Engine) : cabOf (setEng s e x) j = cabOf s j := rfl
@[simp] theorem setEng_chanOf (s : State) (e j : Nat) (x : Engine) : chanOf (setEng s e x) j = chanOf s j := rfl
@[simp] theorem setEng_sliceOf (s : State) (e j : Nat) (x : Engine) : sliceOf (setEng s e x) j = sliceOf s j := rfl
@[simp] theorem setEng_pchOf (s : State) (e j : Nat) (x : Engine) : pchOf (setEng s e x) j = pchOf s j := rfl
@[simp] theorem setEng_vaultOf (s : State) (e j : Nat) (x : Engine) : vaultOf (setEng s e x) j = vaultOf s j := rfl
@[simp] theorem setEng_csvOf (s : State) (e j : Nat) (x : Engine) : csvOf (setEng s e x) j = csvOf s j := rfl
@[simp] theorem setEng_portOf (s : State) (e j : Nat) (x : Engine) : portOf (setEng s e x) j = portOf s j := rfl
@[simp] theorem setEng_chanBlock (s : State) (e j : Nat) (x : Engine) : chanBlock (setEng s e x) j = chanBlock s j := rfl
@[simp] theorem setEng_colOf (s : State) (e j : Nat) (x : Engine) : colOf (setEng s e x) j = colOf s j := rfl
@[simp] theorem setEng_regionOf (s : State) (e j : Nat) (x : Engine) : regionOf (setEng s e x) j = regionOf s j := rfl
@[simp] theorem setEng_now (s : State) (e : Nat) (x : Engine) : now (setEng s e x) = now s := rfl
@[simp] theorem setEng_live (s : State) (e : Nat) (x : Engine) : live (setEng s e x) = live s := rfl

/-! ### setPort -/

@[simp] theorem setPort_beat (s : State) (p : Nat) (x : Port) : (setPort s p x).beat = s.beat := rfl
@[simp] theorem setPort_sup (s : State) (p : Nat) (x : Port) : (setPort s p x).sup = s.sup := rfl
@[simp] theorem setPort_boot (s : State) (p : Nat) (x : Port) : (setPort s p x).boot = s.boot := rfl
@[simp] theorem setPort_flash (s : State) (p : Nat) (x : Port) : (setPort s p x).flash = s.flash := rfl
@[simp] theorem setPort_fuses (s : State) (p : Nat) (x : Port) : (setPort s p x).fuses = s.fuses := rfl
@[simp] theorem setPort_esc (s : State) (p : Nat) (x : Port) : (setPort s p x).esc = s.esc := rfl
@[simp] theorem setPort_parts (s : State) (p : Nat) (x : Port) : (setPort s p x).parts = s.parts := rfl
@[simp] theorem setPort_wings (s : State) (p : Nat) (x : Port) : (setPort s p x).wings = s.wings := rfl
@[simp] theorem setPort_cabSites (s : State) (p : Nat) (x : Port) : (setPort s p x).cabSites = s.cabSites := rfl
@[simp] theorem setPort_bankGroups (s : State) (p : Nat) (x : Port) : (setPort s p x).bankGroups = s.bankGroups := rfl
@[simp] theorem setPort_sliceDoms (s : State) (p : Nat) (x : Port) : (setPort s p x).sliceDoms = s.sliceDoms := rfl
@[simp] theorem setPort_csvDoms (s : State) (p : Nat) (x : Port) : (setPort s p x).csvDoms = s.csvDoms := rfl
@[simp] theorem setPort_engineDoms (s : State) (p : Nat) (x : Port) : (setPort s p x).engineDoms = s.engineDoms := rfl
@[simp] theorem setPort_resets (s : State) (p : Nat) (x : Port) : (setPort s p x).resets = s.resets := rfl
@[simp] theorem setPort_cores (s : State) (p : Nat) (x : Port) : (setPort s p x).cores = s.cores := rfl
@[simp] theorem setPort_cabinets (s : State) (p : Nat) (x : Port) : (setPort s p x).cabinets = s.cabinets := rfl
@[simp] theorem setPort_channels (s : State) (p : Nat) (x : Port) : (setPort s p x).channels = s.channels := rfl
@[simp] theorem setPort_shelf (s : State) (p : Nat) (x : Port) : (setPort s p x).shelf = s.shelf := rfl
@[simp] theorem setPort_rowMap (s : State) (p : Nat) (x : Port) : (setPort s p x).rowMap = s.rowMap := rfl
@[simp] theorem setPort_clm (s : State) (p : Nat) (x : Port) : (setPort s p x).clm = s.clm := rfl
@[simp] theorem setPort_slices (s : State) (p : Nat) (x : Port) : (setPort s p x).slices = s.slices := rfl
@[simp] theorem setPort_pchs (s : State) (p : Nat) (x : Port) : (setPort s p x).pchs = s.pchs := rfl
@[simp] theorem setPort_vaults (s : State) (p : Nat) (x : Port) : (setPort s p x).vaults = s.vaults := rfl
@[simp] theorem setPort_csvs (s : State) (p : Nat) (x : Port) : (setPort s p x).csvs = s.csvs := rfl
@[simp] theorem setPort_granules (s : State) (p : Nat) (x : Port) : (setPort s p x).granules = s.granules := rfl
@[simp] theorem setPort_dram (s : State) (p : Nat) (x : Port) : (setPort s p x).dram = s.dram := rfl
@[simp] theorem setPort_engines (s : State) (p : Nat) (x : Port) : (setPort s p x).engines = s.engines := rfl
@[simp] theorem setPort_ports (s : State) (p : Nat) (x : Port) : (setPort s p x).ports = put s.ports p x := rfl
@[simp] theorem setPort_rings (s : State) (p : Nat) (x : Port) : (setPort s p x).rings = s.rings := rfl
@[simp] theorem setPort_chans (s : State) (p : Nat) (x : Port) : (setPort s p x).chans = s.chans := rfl
@[simp] theorem setPort_curator (s : State) (p : Nat) (x : Port) : (setPort s p x).curator = s.curator := rfl
@[simp] theorem setPort_power (s : State) (p : Nat) (x : Port) : (setPort s p x).power = s.power := rfl
@[simp] theorem setPort_thermal (s : State) (p : Nat) (x : Port) : (setPort s p x).thermal = s.thermal := rfl
@[simp] theorem setPort_collectors (s : State) (p : Nat) (x : Port) : (setPort s p x).collectors = s.collectors := rfl
@[simp] theorem setPort_errLog (s : State) (p : Nat) (x : Port) : (setPort s p x).errLog = s.errLog := rfl
@[simp] theorem setPort_sideband (s : State) (p : Nat) (x : Port) : (setPort s p x).sideband = s.sideband := rfl
@[simp] theorem setPort_jtag (s : State) (p : Nat) (x : Port) : (setPort s p x).jtag = s.jtag := rfl
@[simp] theorem setPort_halves (s : State) (p : Nat) (x : Port) : (setPort s p x).halves = s.halves := rfl
@[simp] theorem setPort_net (s : State) (p : Nat) (x : Port) : (setPort s p x).net = s.net := rfl
@[simp] theorem setPort_nextReq (s : State) (p : Nat) (x : Port) : (setPort s p x).nextReq = s.nextReq := rfl
@[simp] theorem setPort_flits (s : State) (p : Nat) (x : Port) : (setPort s p x).flits = s.flits := rfl
@[simp] theorem setPort_nextFlit (s : State) (p : Nat) (x : Port) : (setPort s p x).nextFlit = s.nextFlit := rfl
@[simp] theorem setPort_plan (s : State) (p : Nat) (x : Port) : (setPort s p x).plan = s.plan := rfl
@[simp] theorem setPort_slotUse (s : State) (p : Nat) (x : Port) : (setPort s p x).slotUse = s.slotUse := rfl
@[simp] theorem setPort_free (s : State) (p : Nat) (x : Port) : (setPort s p x).free = s.free := rfl
@[simp] theorem setPort_out (s : State) (p : Nat) (x : Port) : (setPort s p x).out = s.out := rfl
@[simp] theorem setPort_pending (s : State) (p : Nat) (x : Port) : (setPort s p x).pending = s.pending := rfl
@[simp] theorem setPort_self (s : State) (p : Nat) (x : Port) : portOf (setPort s p x) p = x := by simp [portOf]
theorem portOf_setPort (s : State) (p j : Nat) (x : Port) : portOf (setPort s p x) j = if j = p then x else portOf s j := by
  split
  · subst_vars; simp
  · exact look_put_ne _ _ _ _ _ (by assumption)
@[simp] theorem setPort_wingOf (s : State) (p j : Nat) (x : Port) : wingOf (setPort s p x) j = wingOf s j := rfl
@[simp] theorem setPort_partOf (s : State) (p j : Nat) (x : Port) : partOf (setPort s p x) j = partOf s j := rfl
@[simp] theorem setPort_coreOf (s : State) (p j : Nat) (x : Port) : coreOf (setPort s p x) j = coreOf s j := rfl
@[simp] theorem setPort_cabOf (s : State) (p j : Nat) (x : Port) : cabOf (setPort s p x) j = cabOf s j := rfl
@[simp] theorem setPort_chanOf (s : State) (p j : Nat) (x : Port) : chanOf (setPort s p x) j = chanOf s j := rfl
@[simp] theorem setPort_sliceOf (s : State) (p j : Nat) (x : Port) : sliceOf (setPort s p x) j = sliceOf s j := rfl
@[simp] theorem setPort_pchOf (s : State) (p j : Nat) (x : Port) : pchOf (setPort s p x) j = pchOf s j := rfl
@[simp] theorem setPort_vaultOf (s : State) (p j : Nat) (x : Port) : vaultOf (setPort s p x) j = vaultOf s j := rfl
@[simp] theorem setPort_csvOf (s : State) (p j : Nat) (x : Port) : csvOf (setPort s p x) j = csvOf s j := rfl
@[simp] theorem setPort_engOf (s : State) (p j : Nat) (x : Port) : engOf (setPort s p x) j = engOf s j := rfl
@[simp] theorem setPort_chanBlock (s : State) (p j : Nat) (x : Port) : chanBlock (setPort s p x) j = chanBlock s j := rfl
@[simp] theorem setPort_colOf (s : State) (p j : Nat) (x : Port) : colOf (setPort s p x) j = colOf s j := rfl
@[simp] theorem setPort_regionOf (s : State) (p j : Nat) (x : Port) : regionOf (setPort s p x) j = regionOf s j := rfl
@[simp] theorem setPort_now (s : State) (p : Nat) (x : Port) : now (setPort s p x) = now s := rfl
@[simp] theorem setPort_live (s : State) (p : Nat) (x : Port) : live (setPort s p x) = live s := rfl

/-! ### setChan -/

@[simp] theorem setChan_beat (s : State) (n : Nat) (x : Chan) : (setChan s n x).beat = s.beat := rfl
@[simp] theorem setChan_sup (s : State) (n : Nat) (x : Chan) : (setChan s n x).sup = s.sup := rfl
@[simp] theorem setChan_boot (s : State) (n : Nat) (x : Chan) : (setChan s n x).boot = s.boot := rfl
@[simp] theorem setChan_flash (s : State) (n : Nat) (x : Chan) : (setChan s n x).flash = s.flash := rfl
@[simp] theorem setChan_fuses (s : State) (n : Nat) (x : Chan) : (setChan s n x).fuses = s.fuses := rfl
@[simp] theorem setChan_esc (s : State) (n : Nat) (x : Chan) : (setChan s n x).esc = s.esc := rfl
@[simp] theorem setChan_parts (s : State) (n : Nat) (x : Chan) : (setChan s n x).parts = s.parts := rfl
@[simp] theorem setChan_wings (s : State) (n : Nat) (x : Chan) : (setChan s n x).wings = s.wings := rfl
@[simp] theorem setChan_cabSites (s : State) (n : Nat) (x : Chan) : (setChan s n x).cabSites = s.cabSites := rfl
@[simp] theorem setChan_bankGroups (s : State) (n : Nat) (x : Chan) : (setChan s n x).bankGroups = s.bankGroups := rfl
@[simp] theorem setChan_sliceDoms (s : State) (n : Nat) (x : Chan) : (setChan s n x).sliceDoms = s.sliceDoms := rfl
@[simp] theorem setChan_csvDoms (s : State) (n : Nat) (x : Chan) : (setChan s n x).csvDoms = s.csvDoms := rfl
@[simp] theorem setChan_engineDoms (s : State) (n : Nat) (x : Chan) : (setChan s n x).engineDoms = s.engineDoms := rfl
@[simp] theorem setChan_resets (s : State) (n : Nat) (x : Chan) : (setChan s n x).resets = s.resets := rfl
@[simp] theorem setChan_cores (s : State) (n : Nat) (x : Chan) : (setChan s n x).cores = s.cores := rfl
@[simp] theorem setChan_cabinets (s : State) (n : Nat) (x : Chan) : (setChan s n x).cabinets = s.cabinets := rfl
@[simp] theorem setChan_channels (s : State) (n : Nat) (x : Chan) : (setChan s n x).channels = s.channels := rfl
@[simp] theorem setChan_shelf (s : State) (n : Nat) (x : Chan) : (setChan s n x).shelf = s.shelf := rfl
@[simp] theorem setChan_rowMap (s : State) (n : Nat) (x : Chan) : (setChan s n x).rowMap = s.rowMap := rfl
@[simp] theorem setChan_clm (s : State) (n : Nat) (x : Chan) : (setChan s n x).clm = s.clm := rfl
@[simp] theorem setChan_slices (s : State) (n : Nat) (x : Chan) : (setChan s n x).slices = s.slices := rfl
@[simp] theorem setChan_pchs (s : State) (n : Nat) (x : Chan) : (setChan s n x).pchs = s.pchs := rfl
@[simp] theorem setChan_vaults (s : State) (n : Nat) (x : Chan) : (setChan s n x).vaults = s.vaults := rfl
@[simp] theorem setChan_csvs (s : State) (n : Nat) (x : Chan) : (setChan s n x).csvs = s.csvs := rfl
@[simp] theorem setChan_granules (s : State) (n : Nat) (x : Chan) : (setChan s n x).granules = s.granules := rfl
@[simp] theorem setChan_dram (s : State) (n : Nat) (x : Chan) : (setChan s n x).dram = s.dram := rfl
@[simp] theorem setChan_engines (s : State) (n : Nat) (x : Chan) : (setChan s n x).engines = s.engines := rfl
@[simp] theorem setChan_ports (s : State) (n : Nat) (x : Chan) : (setChan s n x).ports = s.ports := rfl
@[simp] theorem setChan_rings (s : State) (n : Nat) (x : Chan) : (setChan s n x).rings = s.rings := rfl
@[simp] theorem setChan_chans (s : State) (n : Nat) (x : Chan) : (setChan s n x).chans = put s.chans n x := rfl
@[simp] theorem setChan_curator (s : State) (n : Nat) (x : Chan) : (setChan s n x).curator = s.curator := rfl
@[simp] theorem setChan_power (s : State) (n : Nat) (x : Chan) : (setChan s n x).power = s.power := rfl
@[simp] theorem setChan_thermal (s : State) (n : Nat) (x : Chan) : (setChan s n x).thermal = s.thermal := rfl
@[simp] theorem setChan_collectors (s : State) (n : Nat) (x : Chan) : (setChan s n x).collectors = s.collectors := rfl
@[simp] theorem setChan_errLog (s : State) (n : Nat) (x : Chan) : (setChan s n x).errLog = s.errLog := rfl
@[simp] theorem setChan_sideband (s : State) (n : Nat) (x : Chan) : (setChan s n x).sideband = s.sideband := rfl
@[simp] theorem setChan_jtag (s : State) (n : Nat) (x : Chan) : (setChan s n x).jtag = s.jtag := rfl
@[simp] theorem setChan_halves (s : State) (n : Nat) (x : Chan) : (setChan s n x).halves = s.halves := rfl
@[simp] theorem setChan_net (s : State) (n : Nat) (x : Chan) : (setChan s n x).net = s.net := rfl
@[simp] theorem setChan_nextReq (s : State) (n : Nat) (x : Chan) : (setChan s n x).nextReq = s.nextReq := rfl
@[simp] theorem setChan_flits (s : State) (n : Nat) (x : Chan) : (setChan s n x).flits = s.flits := rfl
@[simp] theorem setChan_nextFlit (s : State) (n : Nat) (x : Chan) : (setChan s n x).nextFlit = s.nextFlit := rfl
@[simp] theorem setChan_plan (s : State) (n : Nat) (x : Chan) : (setChan s n x).plan = s.plan := rfl
@[simp] theorem setChan_slotUse (s : State) (n : Nat) (x : Chan) : (setChan s n x).slotUse = s.slotUse := rfl
@[simp] theorem setChan_free (s : State) (n : Nat) (x : Chan) : (setChan s n x).free = s.free := rfl
@[simp] theorem setChan_out (s : State) (n : Nat) (x : Chan) : (setChan s n x).out = s.out := rfl
@[simp] theorem setChan_pending (s : State) (n : Nat) (x : Chan) : (setChan s n x).pending = s.pending := rfl
@[simp] theorem setChan_self (s : State) (n : Nat) (x : Chan) : chanBlock (setChan s n x) n = x := by simp [chanBlock]
theorem chanBlock_setChan (s : State) (n j : Nat) (x : Chan) : chanBlock (setChan s n x) j = if j = n then x else chanBlock s j := by
  split
  · subst_vars; simp
  · exact look_put_ne _ _ _ _ _ (by assumption)
@[simp] theorem setChan_wingOf (s : State) (n j : Nat) (x : Chan) : wingOf (setChan s n x) j = wingOf s j := rfl
@[simp] theorem setChan_partOf (s : State) (n j : Nat) (x : Chan) : partOf (setChan s n x) j = partOf s j := rfl
@[simp] theorem setChan_coreOf (s : State) (n j : Nat) (x : Chan) : coreOf (setChan s n x) j = coreOf s j := rfl
@[simp] theorem setChan_cabOf (s : State) (n j : Nat) (x : Chan) : cabOf (setChan s n x) j = cabOf s j := rfl
@[simp] theorem setChan_chanOf (s : State) (n j : Nat) (x : Chan) : chanOf (setChan s n x) j = chanOf s j := rfl
@[simp] theorem setChan_sliceOf (s : State) (n j : Nat) (x : Chan) : sliceOf (setChan s n x) j = sliceOf s j := rfl
@[simp] theorem setChan_pchOf (s : State) (n j : Nat) (x : Chan) : pchOf (setChan s n x) j = pchOf s j := rfl
@[simp] theorem setChan_vaultOf (s : State) (n j : Nat) (x : Chan) : vaultOf (setChan s n x) j = vaultOf s j := rfl
@[simp] theorem setChan_csvOf (s : State) (n j : Nat) (x : Chan) : csvOf (setChan s n x) j = csvOf s j := rfl
@[simp] theorem setChan_engOf (s : State) (n j : Nat) (x : Chan) : engOf (setChan s n x) j = engOf s j := rfl
@[simp] theorem setChan_portOf (s : State) (n j : Nat) (x : Chan) : portOf (setChan s n x) j = portOf s j := rfl
@[simp] theorem setChan_colOf (s : State) (n j : Nat) (x : Chan) : colOf (setChan s n x) j = colOf s j := rfl
@[simp] theorem setChan_regionOf (s : State) (n j : Nat) (x : Chan) : regionOf (setChan s n x) j = regionOf s j := rfl
@[simp] theorem setChan_now (s : State) (n : Nat) (x : Chan) : now (setChan s n x) = now s := rfl
@[simp] theorem setChan_live (s : State) (n : Nat) (x : Chan) : live (setChan s n x) = live s := rfl

/-! ### setCol -/

@[simp] theorem setCol_beat (s : State) (k : Nat) (x : Collector) : (setCol s k x).beat = s.beat := rfl
@[simp] theorem setCol_sup (s : State) (k : Nat) (x : Collector) : (setCol s k x).sup = s.sup := rfl
@[simp] theorem setCol_boot (s : State) (k : Nat) (x : Collector) : (setCol s k x).boot = s.boot := rfl
@[simp] theorem setCol_flash (s : State) (k : Nat) (x : Collector) : (setCol s k x).flash = s.flash := rfl
@[simp] theorem setCol_fuses (s : State) (k : Nat) (x : Collector) : (setCol s k x).fuses = s.fuses := rfl
@[simp] theorem setCol_esc (s : State) (k : Nat) (x : Collector) : (setCol s k x).esc = s.esc := rfl
@[simp] theorem setCol_parts (s : State) (k : Nat) (x : Collector) : (setCol s k x).parts = s.parts := rfl
@[simp] theorem setCol_wings (s : State) (k : Nat) (x : Collector) : (setCol s k x).wings = s.wings := rfl
@[simp] theorem setCol_cabSites (s : State) (k : Nat) (x : Collector) : (setCol s k x).cabSites = s.cabSites := rfl
@[simp] theorem setCol_bankGroups (s : State) (k : Nat) (x : Collector) : (setCol s k x).bankGroups = s.bankGroups := rfl
@[simp] theorem setCol_sliceDoms (s : State) (k : Nat) (x : Collector) : (setCol s k x).sliceDoms = s.sliceDoms := rfl
@[simp] theorem setCol_csvDoms (s : State) (k : Nat) (x : Collector) : (setCol s k x).csvDoms = s.csvDoms := rfl
@[simp] theorem setCol_engineDoms (s : State) (k : Nat) (x : Collector) : (setCol s k x).engineDoms = s.engineDoms := rfl
@[simp] theorem setCol_resets (s : State) (k : Nat) (x : Collector) : (setCol s k x).resets = s.resets := rfl
@[simp] theorem setCol_cores (s : State) (k : Nat) (x : Collector) : (setCol s k x).cores = s.cores := rfl
@[simp] theorem setCol_cabinets (s : State) (k : Nat) (x : Collector) : (setCol s k x).cabinets = s.cabinets := rfl
@[simp] theorem setCol_channels (s : State) (k : Nat) (x : Collector) : (setCol s k x).channels = s.channels := rfl
@[simp] theorem setCol_shelf (s : State) (k : Nat) (x : Collector) : (setCol s k x).shelf = s.shelf := rfl
@[simp] theorem setCol_rowMap (s : State) (k : Nat) (x : Collector) : (setCol s k x).rowMap = s.rowMap := rfl
@[simp] theorem setCol_clm (s : State) (k : Nat) (x : Collector) : (setCol s k x).clm = s.clm := rfl
@[simp] theorem setCol_slices (s : State) (k : Nat) (x : Collector) : (setCol s k x).slices = s.slices := rfl
@[simp] theorem setCol_pchs (s : State) (k : Nat) (x : Collector) : (setCol s k x).pchs = s.pchs := rfl
@[simp] theorem setCol_vaults (s : State) (k : Nat) (x : Collector) : (setCol s k x).vaults = s.vaults := rfl
@[simp] theorem setCol_csvs (s : State) (k : Nat) (x : Collector) : (setCol s k x).csvs = s.csvs := rfl
@[simp] theorem setCol_granules (s : State) (k : Nat) (x : Collector) : (setCol s k x).granules = s.granules := rfl
@[simp] theorem setCol_dram (s : State) (k : Nat) (x : Collector) : (setCol s k x).dram = s.dram := rfl
@[simp] theorem setCol_engines (s : State) (k : Nat) (x : Collector) : (setCol s k x).engines = s.engines := rfl
@[simp] theorem setCol_ports (s : State) (k : Nat) (x : Collector) : (setCol s k x).ports = s.ports := rfl
@[simp] theorem setCol_rings (s : State) (k : Nat) (x : Collector) : (setCol s k x).rings = s.rings := rfl
@[simp] theorem setCol_chans (s : State) (k : Nat) (x : Collector) : (setCol s k x).chans = s.chans := rfl
@[simp] theorem setCol_curator (s : State) (k : Nat) (x : Collector) : (setCol s k x).curator = s.curator := rfl
@[simp] theorem setCol_power (s : State) (k : Nat) (x : Collector) : (setCol s k x).power = s.power := rfl
@[simp] theorem setCol_thermal (s : State) (k : Nat) (x : Collector) : (setCol s k x).thermal = s.thermal := rfl
@[simp] theorem setCol_collectors (s : State) (k : Nat) (x : Collector) : (setCol s k x).collectors = put s.collectors k x := rfl
@[simp] theorem setCol_errLog (s : State) (k : Nat) (x : Collector) : (setCol s k x).errLog = s.errLog := rfl
@[simp] theorem setCol_sideband (s : State) (k : Nat) (x : Collector) : (setCol s k x).sideband = s.sideband := rfl
@[simp] theorem setCol_jtag (s : State) (k : Nat) (x : Collector) : (setCol s k x).jtag = s.jtag := rfl
@[simp] theorem setCol_halves (s : State) (k : Nat) (x : Collector) : (setCol s k x).halves = s.halves := rfl
@[simp] theorem setCol_net (s : State) (k : Nat) (x : Collector) : (setCol s k x).net = s.net := rfl
@[simp] theorem setCol_nextReq (s : State) (k : Nat) (x : Collector) : (setCol s k x).nextReq = s.nextReq := rfl
@[simp] theorem setCol_flits (s : State) (k : Nat) (x : Collector) : (setCol s k x).flits = s.flits := rfl
@[simp] theorem setCol_nextFlit (s : State) (k : Nat) (x : Collector) : (setCol s k x).nextFlit = s.nextFlit := rfl
@[simp] theorem setCol_plan (s : State) (k : Nat) (x : Collector) : (setCol s k x).plan = s.plan := rfl
@[simp] theorem setCol_slotUse (s : State) (k : Nat) (x : Collector) : (setCol s k x).slotUse = s.slotUse := rfl
@[simp] theorem setCol_free (s : State) (k : Nat) (x : Collector) : (setCol s k x).free = s.free := rfl
@[simp] theorem setCol_out (s : State) (k : Nat) (x : Collector) : (setCol s k x).out = s.out := rfl
@[simp] theorem setCol_pending (s : State) (k : Nat) (x : Collector) : (setCol s k x).pending = s.pending := rfl
@[simp] theorem setCol_self (s : State) (k : Nat) (x : Collector) : colOf (setCol s k x) k = x := by simp [colOf]
theorem colOf_setCol (s : State) (k j : Nat) (x : Collector) : colOf (setCol s k x) j = if j = k then x else colOf s j := by
  split
  · subst_vars; simp
  · exact look_put_ne _ _ _ _ _ (by assumption)
@[simp] theorem setCol_wingOf (s : State) (k j : Nat) (x : Collector) : wingOf (setCol s k x) j = wingOf s j := rfl
@[simp] theorem setCol_partOf (s : State) (k j : Nat) (x : Collector) : partOf (setCol s k x) j = partOf s j := rfl
@[simp] theorem setCol_coreOf (s : State) (k j : Nat) (x : Collector) : coreOf (setCol s k x) j = coreOf s j := rfl
@[simp] theorem setCol_cabOf (s : State) (k j : Nat) (x : Collector) : cabOf (setCol s k x) j = cabOf s j := rfl
@[simp] theorem setCol_chanOf (s : State) (k j : Nat) (x : Collector) : chanOf (setCol s k x) j = chanOf s j := rfl
@[simp] theorem setCol_sliceOf (s : State) (k j : Nat) (x : Collector) : sliceOf (setCol s k x) j = sliceOf s j := rfl
@[simp] theorem setCol_pchOf (s : State) (k j : Nat) (x : Collector) : pchOf (setCol s k x) j = pchOf s j := rfl
@[simp] theorem setCol_vaultOf (s : State) (k j : Nat) (x : Collector) : vaultOf (setCol s k x) j = vaultOf s j := rfl
@[simp] theorem setCol_csvOf (s : State) (k j : Nat) (x : Collector) : csvOf (setCol s k x) j = csvOf s j := rfl
@[simp] theorem setCol_engOf (s : State) (k j : Nat) (x : Collector) : engOf (setCol s k x) j = engOf s j := rfl
@[simp] theorem setCol_portOf (s : State) (k j : Nat) (x : Collector) : portOf (setCol s k x) j = portOf s j := rfl
@[simp] theorem setCol_chanBlock (s : State) (k j : Nat) (x : Collector) : chanBlock (setCol s k x) j = chanBlock s j := rfl
@[simp] theorem setCol_regionOf (s : State) (k j : Nat) (x : Collector) : regionOf (setCol s k x) j = regionOf s j := rfl
@[simp] theorem setCol_now (s : State) (k : Nat) (x : Collector) : now (setCol s k x) = now s := rfl
@[simp] theorem setCol_live (s : State) (k : Nat) (x : Collector) : live (setCol s k x) = live s := rfl

/-! ### mapPart -/

@[simp] theorem mapPart_beat (s : State) (p : Nat) (f : Part → Part) : (mapPart s p f).beat = s.beat := rfl
@[simp] theorem mapPart_sup (s : State) (p : Nat) (f : Part → Part) : (mapPart s p f).sup = s.sup := rfl
@[simp] theorem mapPart_boot (s : State) (p : Nat) (f : Part → Part) : (mapPart s p f).boot = s.boot := rfl
@[simp] theorem mapPart_flash (s : State) (p : Nat) (f : Part → Part) : (mapPart s p f).flash = s.flash := rfl
@[simp] theorem mapPart_fuses (s : State) (p : Nat) (f : Part → Part) : (mapPart s p f).fuses = s.fuses := rfl
@[simp] theorem mapPart_esc (s : State) (p : Nat) (f : Part → Part) : (mapPart s p f).esc = s.esc := rfl
@[simp] theorem mapPart_wings (s : State) (p : Nat) (f : Part → Part) : (mapPart s p f).wings = s.wings := rfl
@[simp] theorem mapPart_cabSites (s : State) (p : Nat) (f : Part → Part) : (mapPart s p f).cabSites = s.cabSites := rfl
@[simp] theorem mapPart_bankGroups (s : State) (p : Nat) (f : Part → Part) : (mapPart s p f).bankGroups = s.bankGroups := rfl
@[simp] theorem mapPart_sliceDoms (s : State) (p : Nat) (f : Part → Part) : (mapPart s p f).sliceDoms = s.sliceDoms := rfl
@[simp] theorem mapPart_csvDoms (s : State) (p : Nat) (f : Part → Part) : (mapPart s p f).csvDoms = s.csvDoms := rfl
@[simp] theorem mapPart_engineDoms (s : State) (p : Nat) (f : Part → Part) : (mapPart s p f).engineDoms = s.engineDoms := rfl
@[simp] theorem mapPart_resets (s : State) (p : Nat) (f : Part → Part) : (mapPart s p f).resets = s.resets := rfl
@[simp] theorem mapPart_cores (s : State) (p : Nat) (f : Part → Part) : (mapPart s p f).cores = s.cores := rfl
@[simp] theorem mapPart_cabinets (s : State) (p : Nat) (f : Part → Part) : (mapPart s p f).cabinets = s.cabinets := rfl
@[simp] theorem mapPart_channels (s : State) (p : Nat) (f : Part → Part) : (mapPart s p f).channels = s.channels := rfl
@[simp] theorem mapPart_shelf (s : State) (p : Nat) (f : Part → Part) : (mapPart s p f).shelf = s.shelf := rfl
@[simp] theorem mapPart_rowMap (s : State) (p : Nat) (f : Part → Part) : (mapPart s p f).rowMap = s.rowMap := rfl
@[simp] theorem mapPart_clm (s : State) (p : Nat) (f : Part → Part) : (mapPart s p f).clm = s.clm := rfl
@[simp] theorem mapPart_slices (s : State) (p : Nat) (f : Part → Part) : (mapPart s p f).slices = s.slices := rfl
@[simp] theorem mapPart_pchs (s : State) (p : Nat) (f : Part → Part) : (mapPart s p f).pchs = s.pchs := rfl
@[simp] theorem mapPart_vaults (s : State) (p : Nat) (f : Part → Part) : (mapPart s p f).vaults = s.vaults := rfl
@[simp] theorem mapPart_csvs (s : State) (p : Nat) (f : Part → Part) : (mapPart s p f).csvs = s.csvs := rfl
@[simp] theorem mapPart_granules (s : State) (p : Nat) (f : Part → Part) : (mapPart s p f).granules = s.granules := rfl
@[simp] theorem mapPart_dram (s : State) (p : Nat) (f : Part → Part) : (mapPart s p f).dram = s.dram := rfl
@[simp] theorem mapPart_engines (s : State) (p : Nat) (f : Part → Part) : (mapPart s p f).engines = s.engines := rfl
@[simp] theorem mapPart_ports (s : State) (p : Nat) (f : Part → Part) : (mapPart s p f).ports = s.ports := rfl
@[simp] theorem mapPart_rings (s : State) (p : Nat) (f : Part → Part) : (mapPart s p f).rings = s.rings := rfl
@[simp] theorem mapPart_chans (s : State) (p : Nat) (f : Part → Part) : (mapPart s p f).chans = s.chans := rfl
@[simp] theorem mapPart_curator (s : State) (p : Nat) (f : Part → Part) : (mapPart s p f).curator = s.curator := rfl
@[simp] theorem mapPart_power (s : State) (p : Nat) (f : Part → Part) : (mapPart s p f).power = s.power := rfl
@[simp] theorem mapPart_thermal (s : State) (p : Nat) (f : Part → Part) : (mapPart s p f).thermal = s.thermal := rfl
@[simp] theorem mapPart_collectors (s : State) (p : Nat) (f : Part → Part) : (mapPart s p f).collectors = s.collectors := rfl
@[simp] theorem mapPart_errLog (s : State) (p : Nat) (f : Part → Part) : (mapPart s p f).errLog = s.errLog := rfl
@[simp] theorem mapPart_sideband (s : State) (p : Nat) (f : Part → Part) : (mapPart s p f).sideband = s.sideband := rfl
@[simp] theorem mapPart_jtag (s : State) (p : Nat) (f : Part → Part) : (mapPart s p f).jtag = s.jtag := rfl
@[simp] theorem mapPart_halves (s : State) (p : Nat) (f : Part → Part) : (mapPart s p f).halves = s.halves := rfl
@[simp] theorem mapPart_net (s : State) (p : Nat) (f : Part → Part) : (mapPart s p f).net = s.net := rfl
@[simp] theorem mapPart_nextReq (s : State) (p : Nat) (f : Part → Part) : (mapPart s p f).nextReq = s.nextReq := rfl
@[simp] theorem mapPart_flits (s : State) (p : Nat) (f : Part → Part) : (mapPart s p f).flits = s.flits := rfl
@[simp] theorem mapPart_nextFlit (s : State) (p : Nat) (f : Part → Part) : (mapPart s p f).nextFlit = s.nextFlit := rfl
@[simp] theorem mapPart_plan (s : State) (p : Nat) (f : Part → Part) : (mapPart s p f).plan = s.plan := rfl
@[simp] theorem mapPart_slotUse (s : State) (p : Nat) (f : Part → Part) : (mapPart s p f).slotUse = s.slotUse := rfl
@[simp] theorem mapPart_free (s : State) (p : Nat) (f : Part → Part) : (mapPart s p f).free = s.free := rfl
@[simp] theorem mapPart_out (s : State) (p : Nat) (f : Part → Part) : (mapPart s p f).out = s.out := rfl
@[simp] theorem mapPart_pending (s : State) (p : Nat) (f : Part → Part) : (mapPart s p f).pending = s.pending := rfl
@[simp] theorem mapPart_self (s : State) (p : Nat) (f : Part → Part) : partOf (mapPart s p f) p = f (partOf s p) := by simp [mapPart]
theorem partOf_mapPart (s : State) (p j : Nat) (f : Part → Part) : partOf (mapPart s p f) j = if j = p then f (partOf s p) else partOf s j :=
  partOf_setPart s p j _

/-! ### mapCab -/

@[simp] theorem mapCab_beat (s : State) (c : Nat) (f : Cabinet → Cabinet) : (mapCab s c f).beat = s.beat := rfl
@[simp] theorem mapCab_sup (s : State) (c : Nat) (f : Cabinet → Cabinet) : (mapCab s c f).sup = s.sup := rfl
@[simp] theorem mapCab_boot (s : State) (c : Nat) (f : Cabinet → Cabinet) : (mapCab s c f).boot = s.boot := rfl
@[simp] theorem mapCab_flash (s : State) (c : Nat) (f : Cabinet → Cabinet) : (mapCab s c f).flash = s.flash := rfl
@[simp] theorem mapCab_fuses (s : State) (c : Nat) (f : Cabinet → Cabinet) : (mapCab s c f).fuses = s.fuses := rfl
@[simp] theorem mapCab_esc (s : State) (c : Nat) (f : Cabinet → Cabinet) : (mapCab s c f).esc = s.esc := rfl
@[simp] theorem mapCab_parts (s : State) (c : Nat) (f : Cabinet → Cabinet) : (mapCab s c f).parts = s.parts := rfl
@[simp] theorem mapCab_wings (s : State) (c : Nat) (f : Cabinet → Cabinet) : (mapCab s c f).wings = s.wings := rfl
@[simp] theorem mapCab_cabSites (s : State) (c : Nat) (f : Cabinet → Cabinet) : (mapCab s c f).cabSites = s.cabSites := rfl
@[simp] theorem mapCab_bankGroups (s : State) (c : Nat) (f : Cabinet → Cabinet) : (mapCab s c f).bankGroups = s.bankGroups := rfl
@[simp] theorem mapCab_sliceDoms (s : State) (c : Nat) (f : Cabinet → Cabinet) : (mapCab s c f).sliceDoms = s.sliceDoms := rfl
@[simp] theorem mapCab_csvDoms (s : State) (c : Nat) (f : Cabinet → Cabinet) : (mapCab s c f).csvDoms = s.csvDoms := rfl
@[simp] theorem mapCab_engineDoms (s : State) (c : Nat) (f : Cabinet → Cabinet) : (mapCab s c f).engineDoms = s.engineDoms := rfl
@[simp] theorem mapCab_resets (s : State) (c : Nat) (f : Cabinet → Cabinet) : (mapCab s c f).resets = s.resets := rfl
@[simp] theorem mapCab_cores (s : State) (c : Nat) (f : Cabinet → Cabinet) : (mapCab s c f).cores = s.cores := rfl
@[simp] theorem mapCab_channels (s : State) (c : Nat) (f : Cabinet → Cabinet) : (mapCab s c f).channels = s.channels := rfl
@[simp] theorem mapCab_shelf (s : State) (c : Nat) (f : Cabinet → Cabinet) : (mapCab s c f).shelf = s.shelf := rfl
@[simp] theorem mapCab_rowMap (s : State) (c : Nat) (f : Cabinet → Cabinet) : (mapCab s c f).rowMap = s.rowMap := rfl
@[simp] theorem mapCab_clm (s : State) (c : Nat) (f : Cabinet → Cabinet) : (mapCab s c f).clm = s.clm := rfl
@[simp] theorem mapCab_slices (s : State) (c : Nat) (f : Cabinet → Cabinet) : (mapCab s c f).slices = s.slices := rfl
@[simp] theorem mapCab_pchs (s : State) (c : Nat) (f : Cabinet → Cabinet) : (mapCab s c f).pchs = s.pchs := rfl
@[simp] theorem mapCab_vaults (s : State) (c : Nat) (f : Cabinet → Cabinet) : (mapCab s c f).vaults = s.vaults := rfl
@[simp] theorem mapCab_csvs (s : State) (c : Nat) (f : Cabinet → Cabinet) : (mapCab s c f).csvs = s.csvs := rfl
@[simp] theorem mapCab_granules (s : State) (c : Nat) (f : Cabinet → Cabinet) : (mapCab s c f).granules = s.granules := rfl
@[simp] theorem mapCab_dram (s : State) (c : Nat) (f : Cabinet → Cabinet) : (mapCab s c f).dram = s.dram := rfl
@[simp] theorem mapCab_engines (s : State) (c : Nat) (f : Cabinet → Cabinet) : (mapCab s c f).engines = s.engines := rfl
@[simp] theorem mapCab_ports (s : State) (c : Nat) (f : Cabinet → Cabinet) : (mapCab s c f).ports = s.ports := rfl
@[simp] theorem mapCab_rings (s : State) (c : Nat) (f : Cabinet → Cabinet) : (mapCab s c f).rings = s.rings := rfl
@[simp] theorem mapCab_chans (s : State) (c : Nat) (f : Cabinet → Cabinet) : (mapCab s c f).chans = s.chans := rfl
@[simp] theorem mapCab_curator (s : State) (c : Nat) (f : Cabinet → Cabinet) : (mapCab s c f).curator = s.curator := rfl
@[simp] theorem mapCab_power (s : State) (c : Nat) (f : Cabinet → Cabinet) : (mapCab s c f).power = s.power := rfl
@[simp] theorem mapCab_thermal (s : State) (c : Nat) (f : Cabinet → Cabinet) : (mapCab s c f).thermal = s.thermal := rfl
@[simp] theorem mapCab_collectors (s : State) (c : Nat) (f : Cabinet → Cabinet) : (mapCab s c f).collectors = s.collectors := rfl
@[simp] theorem mapCab_errLog (s : State) (c : Nat) (f : Cabinet → Cabinet) : (mapCab s c f).errLog = s.errLog := rfl
@[simp] theorem mapCab_sideband (s : State) (c : Nat) (f : Cabinet → Cabinet) : (mapCab s c f).sideband = s.sideband := rfl
@[simp] theorem mapCab_jtag (s : State) (c : Nat) (f : Cabinet → Cabinet) : (mapCab s c f).jtag = s.jtag := rfl
@[simp] theorem mapCab_halves (s : State) (c : Nat) (f : Cabinet → Cabinet) : (mapCab s c f).halves = s.halves := rfl
@[simp] theorem mapCab_net (s : State) (c : Nat) (f : Cabinet → Cabinet) : (mapCab s c f).net = s.net := rfl
@[simp] theorem mapCab_nextReq (s : State) (c : Nat) (f : Cabinet → Cabinet) : (mapCab s c f).nextReq = s.nextReq := rfl
@[simp] theorem mapCab_flits (s : State) (c : Nat) (f : Cabinet → Cabinet) : (mapCab s c f).flits = s.flits := rfl
@[simp] theorem mapCab_nextFlit (s : State) (c : Nat) (f : Cabinet → Cabinet) : (mapCab s c f).nextFlit = s.nextFlit := rfl
@[simp] theorem mapCab_plan (s : State) (c : Nat) (f : Cabinet → Cabinet) : (mapCab s c f).plan = s.plan := rfl
@[simp] theorem mapCab_slotUse (s : State) (c : Nat) (f : Cabinet → Cabinet) : (mapCab s c f).slotUse = s.slotUse := rfl
@[simp] theorem mapCab_free (s : State) (c : Nat) (f : Cabinet → Cabinet) : (mapCab s c f).free = s.free := rfl
@[simp] theorem mapCab_out (s : State) (c : Nat) (f : Cabinet → Cabinet) : (mapCab s c f).out = s.out := rfl
@[simp] theorem mapCab_pending (s : State) (c : Nat) (f : Cabinet → Cabinet) : (mapCab s c f).pending = s.pending := rfl
@[simp] theorem mapCab_self (s : State) (c : Nat) (f : Cabinet → Cabinet) : cabOf (mapCab s c f) c = f (cabOf s c) := by simp [mapCab]
theorem cabOf_mapCab (s : State) (c j : Nat) (f : Cabinet → Cabinet) : cabOf (mapCab s c f) j = if j = c then f (cabOf s c) else cabOf s j :=
  cabOf_setCab s c j _

/-! ### mapSlice -/

@[simp] theorem mapSlice_beat (s : State) (i : Nat) (f : Slice → Slice) : (mapSlice s i f).beat = s.beat := rfl
@[simp] theorem mapSlice_sup (s : State) (i : Nat) (f : Slice → Slice) : (mapSlice s i f).sup = s.sup := rfl
@[simp] theorem mapSlice_boot (s : State) (i : Nat) (f : Slice → Slice) : (mapSlice s i f).boot = s.boot := rfl
@[simp] theorem mapSlice_flash (s : State) (i : Nat) (f : Slice → Slice) : (mapSlice s i f).flash = s.flash := rfl
@[simp] theorem mapSlice_fuses (s : State) (i : Nat) (f : Slice → Slice) : (mapSlice s i f).fuses = s.fuses := rfl
@[simp] theorem mapSlice_esc (s : State) (i : Nat) (f : Slice → Slice) : (mapSlice s i f).esc = s.esc := rfl
@[simp] theorem mapSlice_parts (s : State) (i : Nat) (f : Slice → Slice) : (mapSlice s i f).parts = s.parts := rfl
@[simp] theorem mapSlice_wings (s : State) (i : Nat) (f : Slice → Slice) : (mapSlice s i f).wings = s.wings := rfl
@[simp] theorem mapSlice_cabSites (s : State) (i : Nat) (f : Slice → Slice) : (mapSlice s i f).cabSites = s.cabSites := rfl
@[simp] theorem mapSlice_bankGroups (s : State) (i : Nat) (f : Slice → Slice) : (mapSlice s i f).bankGroups = s.bankGroups := rfl
@[simp] theorem mapSlice_sliceDoms (s : State) (i : Nat) (f : Slice → Slice) : (mapSlice s i f).sliceDoms = s.sliceDoms := rfl
@[simp] theorem mapSlice_csvDoms (s : State) (i : Nat) (f : Slice → Slice) : (mapSlice s i f).csvDoms = s.csvDoms := rfl
@[simp] theorem mapSlice_engineDoms (s : State) (i : Nat) (f : Slice → Slice) : (mapSlice s i f).engineDoms = s.engineDoms := rfl
@[simp] theorem mapSlice_resets (s : State) (i : Nat) (f : Slice → Slice) : (mapSlice s i f).resets = s.resets := rfl
@[simp] theorem mapSlice_cores (s : State) (i : Nat) (f : Slice → Slice) : (mapSlice s i f).cores = s.cores := rfl
@[simp] theorem mapSlice_cabinets (s : State) (i : Nat) (f : Slice → Slice) : (mapSlice s i f).cabinets = s.cabinets := rfl
@[simp] theorem mapSlice_channels (s : State) (i : Nat) (f : Slice → Slice) : (mapSlice s i f).channels = s.channels := rfl
@[simp] theorem mapSlice_shelf (s : State) (i : Nat) (f : Slice → Slice) : (mapSlice s i f).shelf = s.shelf := rfl
@[simp] theorem mapSlice_rowMap (s : State) (i : Nat) (f : Slice → Slice) : (mapSlice s i f).rowMap = s.rowMap := rfl
@[simp] theorem mapSlice_clm (s : State) (i : Nat) (f : Slice → Slice) : (mapSlice s i f).clm = s.clm := rfl
@[simp] theorem mapSlice_pchs (s : State) (i : Nat) (f : Slice → Slice) : (mapSlice s i f).pchs = s.pchs := rfl
@[simp] theorem mapSlice_vaults (s : State) (i : Nat) (f : Slice → Slice) : (mapSlice s i f).vaults = s.vaults := rfl
@[simp] theorem mapSlice_csvs (s : State) (i : Nat) (f : Slice → Slice) : (mapSlice s i f).csvs = s.csvs := rfl
@[simp] theorem mapSlice_granules (s : State) (i : Nat) (f : Slice → Slice) : (mapSlice s i f).granules = s.granules := rfl
@[simp] theorem mapSlice_dram (s : State) (i : Nat) (f : Slice → Slice) : (mapSlice s i f).dram = s.dram := rfl
@[simp] theorem mapSlice_engines (s : State) (i : Nat) (f : Slice → Slice) : (mapSlice s i f).engines = s.engines := rfl
@[simp] theorem mapSlice_ports (s : State) (i : Nat) (f : Slice → Slice) : (mapSlice s i f).ports = s.ports := rfl
@[simp] theorem mapSlice_rings (s : State) (i : Nat) (f : Slice → Slice) : (mapSlice s i f).rings = s.rings := rfl
@[simp] theorem mapSlice_chans (s : State) (i : Nat) (f : Slice → Slice) : (mapSlice s i f).chans = s.chans := rfl
@[simp] theorem mapSlice_curator (s : State) (i : Nat) (f : Slice → Slice) : (mapSlice s i f).curator = s.curator := rfl
@[simp] theorem mapSlice_power (s : State) (i : Nat) (f : Slice → Slice) : (mapSlice s i f).power = s.power := rfl
@[simp] theorem mapSlice_thermal (s : State) (i : Nat) (f : Slice → Slice) : (mapSlice s i f).thermal = s.thermal := rfl
@[simp] theorem mapSlice_collectors (s : State) (i : Nat) (f : Slice → Slice) : (mapSlice s i f).collectors = s.collectors := rfl
@[simp] theorem mapSlice_errLog (s : State) (i : Nat) (f : Slice → Slice) : (mapSlice s i f).errLog = s.errLog := rfl
@[simp] theorem mapSlice_sideband (s : State) (i : Nat) (f : Slice → Slice) : (mapSlice s i f).sideband = s.sideband := rfl
@[simp] theorem mapSlice_jtag (s : State) (i : Nat) (f : Slice → Slice) : (mapSlice s i f).jtag = s.jtag := rfl
@[simp] theorem mapSlice_halves (s : State) (i : Nat) (f : Slice → Slice) : (mapSlice s i f).halves = s.halves := rfl
@[simp] theorem mapSlice_net (s : State) (i : Nat) (f : Slice → Slice) : (mapSlice s i f).net = s.net := rfl
@[simp] theorem mapSlice_nextReq (s : State) (i : Nat) (f : Slice → Slice) : (mapSlice s i f).nextReq = s.nextReq := rfl
@[simp] theorem mapSlice_flits (s : State) (i : Nat) (f : Slice → Slice) : (mapSlice s i f).flits = s.flits := rfl
@[simp] theorem mapSlice_nextFlit (s : State) (i : Nat) (f : Slice → Slice) : (mapSlice s i f).nextFlit = s.nextFlit := rfl
@[simp] theorem mapSlice_plan (s : State) (i : Nat) (f : Slice → Slice) : (mapSlice s i f).plan = s.plan := rfl
@[simp] theorem mapSlice_slotUse (s : State) (i : Nat) (f : Slice → Slice) : (mapSlice s i f).slotUse = s.slotUse := rfl
@[simp] theorem mapSlice_free (s : State) (i : Nat) (f : Slice → Slice) : (mapSlice s i f).free = s.free := rfl
@[simp] theorem mapSlice_out (s : State) (i : Nat) (f : Slice → Slice) : (mapSlice s i f).out = s.out := rfl
@[simp] theorem mapSlice_pending (s : State) (i : Nat) (f : Slice → Slice) : (mapSlice s i f).pending = s.pending := rfl
@[simp] theorem mapSlice_self (s : State) (i : Nat) (f : Slice → Slice) : sliceOf (mapSlice s i f) i = f (sliceOf s i) := by simp [mapSlice]
theorem sliceOf_mapSlice (s : State) (i j : Nat) (f : Slice → Slice) : sliceOf (mapSlice s i f) j = if j = i then f (sliceOf s i) else sliceOf s j :=
  sliceOf_setSlice s i j _

/-! ### mapPort -/

@[simp] theorem mapPort_beat (s : State) (p : Nat) (f : Port → Port) : (mapPort s p f).beat = s.beat := rfl
@[simp] theorem mapPort_sup (s : State) (p : Nat) (f : Port → Port) : (mapPort s p f).sup = s.sup := rfl
@[simp] theorem mapPort_boot (s : State) (p : Nat) (f : Port → Port) : (mapPort s p f).boot = s.boot := rfl
@[simp] theorem mapPort_flash (s : State) (p : Nat) (f : Port → Port) : (mapPort s p f).flash = s.flash := rfl
@[simp] theorem mapPort_fuses (s : State) (p : Nat) (f : Port → Port) : (mapPort s p f).fuses = s.fuses := rfl
@[simp] theorem mapPort_esc (s : State) (p : Nat) (f : Port → Port) : (mapPort s p f).esc = s.esc := rfl
@[simp] theorem mapPort_parts (s : State) (p : Nat) (f : Port → Port) : (mapPort s p f).parts = s.parts := rfl
@[simp] theorem mapPort_wings (s : State) (p : Nat) (f : Port → Port) : (mapPort s p f).wings = s.wings := rfl
@[simp] theorem mapPort_cabSites (s : State) (p : Nat) (f : Port → Port) : (mapPort s p f).cabSites = s.cabSites := rfl
@[simp] theorem mapPort_bankGroups (s : State) (p : Nat) (f : Port → Port) : (mapPort s p f).bankGroups = s.bankGroups := rfl
@[simp] theorem mapPort_sliceDoms (s : State) (p : Nat) (f : Port → Port) : (mapPort s p f).sliceDoms = s.sliceDoms := rfl
@[simp] theorem mapPort_csvDoms (s : State) (p : Nat) (f : Port → Port) : (mapPort s p f).csvDoms = s.csvDoms := rfl
@[simp] theorem mapPort_engineDoms (s : State) (p : Nat) (f : Port → Port) : (mapPort s p f).engineDoms = s.engineDoms := rfl
@[simp] theorem mapPort_resets (s : State) (p : Nat) (f : Port → Port) : (mapPort s p f).resets = s.resets := rfl
@[simp] theorem mapPort_cores (s : State) (p : Nat) (f : Port → Port) : (mapPort s p f).cores = s.cores := rfl
@[simp] theorem mapPort_cabinets (s : State) (p : Nat) (f : Port → Port) : (mapPort s p f).cabinets = s.cabinets := rfl
@[simp] theorem mapPort_channels (s : State) (p : Nat) (f : Port → Port) : (mapPort s p f).channels = s.channels := rfl
@[simp] theorem mapPort_shelf (s : State) (p : Nat) (f : Port → Port) : (mapPort s p f).shelf = s.shelf := rfl
@[simp] theorem mapPort_rowMap (s : State) (p : Nat) (f : Port → Port) : (mapPort s p f).rowMap = s.rowMap := rfl
@[simp] theorem mapPort_clm (s : State) (p : Nat) (f : Port → Port) : (mapPort s p f).clm = s.clm := rfl
@[simp] theorem mapPort_slices (s : State) (p : Nat) (f : Port → Port) : (mapPort s p f).slices = s.slices := rfl
@[simp] theorem mapPort_pchs (s : State) (p : Nat) (f : Port → Port) : (mapPort s p f).pchs = s.pchs := rfl
@[simp] theorem mapPort_vaults (s : State) (p : Nat) (f : Port → Port) : (mapPort s p f).vaults = s.vaults := rfl
@[simp] theorem mapPort_csvs (s : State) (p : Nat) (f : Port → Port) : (mapPort s p f).csvs = s.csvs := rfl
@[simp] theorem mapPort_granules (s : State) (p : Nat) (f : Port → Port) : (mapPort s p f).granules = s.granules := rfl
@[simp] theorem mapPort_dram (s : State) (p : Nat) (f : Port → Port) : (mapPort s p f).dram = s.dram := rfl
@[simp] theorem mapPort_engines (s : State) (p : Nat) (f : Port → Port) : (mapPort s p f).engines = s.engines := rfl
@[simp] theorem mapPort_rings (s : State) (p : Nat) (f : Port → Port) : (mapPort s p f).rings = s.rings := rfl
@[simp] theorem mapPort_chans (s : State) (p : Nat) (f : Port → Port) : (mapPort s p f).chans = s.chans := rfl
@[simp] theorem mapPort_curator (s : State) (p : Nat) (f : Port → Port) : (mapPort s p f).curator = s.curator := rfl
@[simp] theorem mapPort_power (s : State) (p : Nat) (f : Port → Port) : (mapPort s p f).power = s.power := rfl
@[simp] theorem mapPort_thermal (s : State) (p : Nat) (f : Port → Port) : (mapPort s p f).thermal = s.thermal := rfl
@[simp] theorem mapPort_collectors (s : State) (p : Nat) (f : Port → Port) : (mapPort s p f).collectors = s.collectors := rfl
@[simp] theorem mapPort_errLog (s : State) (p : Nat) (f : Port → Port) : (mapPort s p f).errLog = s.errLog := rfl
@[simp] theorem mapPort_sideband (s : State) (p : Nat) (f : Port → Port) : (mapPort s p f).sideband = s.sideband := rfl
@[simp] theorem mapPort_jtag (s : State) (p : Nat) (f : Port → Port) : (mapPort s p f).jtag = s.jtag := rfl
@[simp] theorem mapPort_halves (s : State) (p : Nat) (f : Port → Port) : (mapPort s p f).halves = s.halves := rfl
@[simp] theorem mapPort_net (s : State) (p : Nat) (f : Port → Port) : (mapPort s p f).net = s.net := rfl
@[simp] theorem mapPort_nextReq (s : State) (p : Nat) (f : Port → Port) : (mapPort s p f).nextReq = s.nextReq := rfl
@[simp] theorem mapPort_flits (s : State) (p : Nat) (f : Port → Port) : (mapPort s p f).flits = s.flits := rfl
@[simp] theorem mapPort_nextFlit (s : State) (p : Nat) (f : Port → Port) : (mapPort s p f).nextFlit = s.nextFlit := rfl
@[simp] theorem mapPort_plan (s : State) (p : Nat) (f : Port → Port) : (mapPort s p f).plan = s.plan := rfl
@[simp] theorem mapPort_slotUse (s : State) (p : Nat) (f : Port → Port) : (mapPort s p f).slotUse = s.slotUse := rfl
@[simp] theorem mapPort_free (s : State) (p : Nat) (f : Port → Port) : (mapPort s p f).free = s.free := rfl
@[simp] theorem mapPort_out (s : State) (p : Nat) (f : Port → Port) : (mapPort s p f).out = s.out := rfl
@[simp] theorem mapPort_pending (s : State) (p : Nat) (f : Port → Port) : (mapPort s p f).pending = s.pending := rfl
@[simp] theorem mapPort_self (s : State) (p : Nat) (f : Port → Port) : portOf (mapPort s p f) p = f (portOf s p) := by simp [mapPort]
theorem portOf_mapPort (s : State) (p j : Nat) (f : Port → Port) : portOf (mapPort s p f) j = if j = p then f (portOf s p) else portOf s j :=
  portOf_setPort s p j _

/-! ### emit -/

@[simp] theorem emit_beat (s : State) (o : Output) : (emit s o).beat = s.beat := rfl
@[simp] theorem emit_sup (s : State) (o : Output) : (emit s o).sup = s.sup := rfl
@[simp] theorem emit_boot (s : State) (o : Output) : (emit s o).boot = s.boot := rfl
@[simp] theorem emit_flash (s : State) (o : Output) : (emit s o).flash = s.flash := rfl
@[simp] theorem emit_fuses (s : State) (o : Output) : (emit s o).fuses = s.fuses := rfl
@[simp] theorem emit_esc (s : State) (o : Output) : (emit s o).esc = s.esc := rfl
@[simp] theorem emit_parts (s : State) (o : Output) : (emit s o).parts = s.parts := rfl
@[simp] theorem emit_wings (s : State) (o : Output) : (emit s o).wings = s.wings := rfl
@[simp] theorem emit_cabSites (s : State) (o : Output) : (emit s o).cabSites = s.cabSites := rfl
@[simp] theorem emit_bankGroups (s : State) (o : Output) : (emit s o).bankGroups = s.bankGroups := rfl
@[simp] theorem emit_sliceDoms (s : State) (o : Output) : (emit s o).sliceDoms = s.sliceDoms := rfl
@[simp] theorem emit_csvDoms (s : State) (o : Output) : (emit s o).csvDoms = s.csvDoms := rfl
@[simp] theorem emit_engineDoms (s : State) (o : Output) : (emit s o).engineDoms = s.engineDoms := rfl
@[simp] theorem emit_resets (s : State) (o : Output) : (emit s o).resets = s.resets := rfl
@[simp] theorem emit_cores (s : State) (o : Output) : (emit s o).cores = s.cores := rfl
@[simp] theorem emit_cabinets (s : State) (o : Output) : (emit s o).cabinets = s.cabinets := rfl
@[simp] theorem emit_channels (s : State) (o : Output) : (emit s o).channels = s.channels := rfl
@[simp] theorem emit_shelf (s : State) (o : Output) : (emit s o).shelf = s.shelf := rfl
@[simp] theorem emit_rowMap (s : State) (o : Output) : (emit s o).rowMap = s.rowMap := rfl
@[simp] theorem emit_clm (s : State) (o : Output) : (emit s o).clm = s.clm := rfl
@[simp] theorem emit_slices (s : State) (o : Output) : (emit s o).slices = s.slices := rfl
@[simp] theorem emit_pchs (s : State) (o : Output) : (emit s o).pchs = s.pchs := rfl
@[simp] theorem emit_vaults (s : State) (o : Output) : (emit s o).vaults = s.vaults := rfl
@[simp] theorem emit_csvs (s : State) (o : Output) : (emit s o).csvs = s.csvs := rfl
@[simp] theorem emit_granules (s : State) (o : Output) : (emit s o).granules = s.granules := rfl
@[simp] theorem emit_dram (s : State) (o : Output) : (emit s o).dram = s.dram := rfl
@[simp] theorem emit_engines (s : State) (o : Output) : (emit s o).engines = s.engines := rfl
@[simp] theorem emit_ports (s : State) (o : Output) : (emit s o).ports = s.ports := rfl
@[simp] theorem emit_rings (s : State) (o : Output) : (emit s o).rings = s.rings := rfl
@[simp] theorem emit_chans (s : State) (o : Output) : (emit s o).chans = s.chans := rfl
@[simp] theorem emit_curator (s : State) (o : Output) : (emit s o).curator = s.curator := rfl
@[simp] theorem emit_power (s : State) (o : Output) : (emit s o).power = s.power := rfl
@[simp] theorem emit_thermal (s : State) (o : Output) : (emit s o).thermal = s.thermal := rfl
@[simp] theorem emit_collectors (s : State) (o : Output) : (emit s o).collectors = s.collectors := rfl
@[simp] theorem emit_errLog (s : State) (o : Output) : (emit s o).errLog = s.errLog := rfl
@[simp] theorem emit_sideband (s : State) (o : Output) : (emit s o).sideband = s.sideband := rfl
@[simp] theorem emit_jtag (s : State) (o : Output) : (emit s o).jtag = s.jtag := rfl
@[simp] theorem emit_halves (s : State) (o : Output) : (emit s o).halves = s.halves := rfl
@[simp] theorem emit_net (s : State) (o : Output) : (emit s o).net = s.net := rfl
@[simp] theorem emit_nextReq (s : State) (o : Output) : (emit s o).nextReq = s.nextReq := rfl
@[simp] theorem emit_flits (s : State) (o : Output) : (emit s o).flits = s.flits := rfl
@[simp] theorem emit_nextFlit (s : State) (o : Output) : (emit s o).nextFlit = s.nextFlit := rfl
@[simp] theorem emit_plan (s : State) (o : Output) : (emit s o).plan = s.plan := rfl
@[simp] theorem emit_slotUse (s : State) (o : Output) : (emit s o).slotUse = s.slotUse := rfl
@[simp] theorem emit_free (s : State) (o : Output) : (emit s o).free = s.free := rfl
@[simp] theorem emit_pending (s : State) (o : Output) : (emit s o).pending = s.pending := rfl

/-! ### setErrLog -/

@[simp] theorem setErrLog_beat (s : State) (l : ErrLog) : (setErrLog s l).beat = s.beat := rfl
@[simp] theorem setErrLog_sup (s : State) (l : ErrLog) : (setErrLog s l).sup = s.sup := rfl
@[simp] theorem setErrLog_boot (s : State) (l : ErrLog) : (setErrLog s l).boot = s.boot := rfl
@[simp] theorem setErrLog_flash (s : State) (l : ErrLog) : (setErrLog s l).flash = s.flash := rfl
@[simp] theorem setErrLog_fuses (s : State) (l : ErrLog) : (setErrLog s l).fuses = s.fuses := rfl
@[simp] theorem setErrLog_esc (s : State) (l : ErrLog) : (setErrLog s l).esc = s.esc := rfl
@[simp] theorem setErrLog_parts (s : State) (l : ErrLog) : (setErrLog s l).parts = s.parts := rfl
@[simp] theorem setErrLog_wings (s : State) (l : ErrLog) : (setErrLog s l).wings = s.wings := rfl
@[simp] theorem setErrLog_cabSites (s : State) (l : ErrLog) : (setErrLog s l).cabSites = s.cabSites := rfl
@[simp] theorem setErrLog_bankGroups (s : State) (l : ErrLog) : (setErrLog s l).bankGroups = s.bankGroups := rfl
@[simp] theorem setErrLog_sliceDoms (s : State) (l : ErrLog) : (setErrLog s l).sliceDoms = s.sliceDoms := rfl
@[simp] theorem setErrLog_csvDoms (s : State) (l : ErrLog) : (setErrLog s l).csvDoms = s.csvDoms := rfl
@[simp] theorem setErrLog_engineDoms (s : State) (l : ErrLog) : (setErrLog s l).engineDoms = s.engineDoms := rfl
@[simp] theorem setErrLog_resets (s : State) (l : ErrLog) : (setErrLog s l).resets = s.resets := rfl
@[simp] theorem setErrLog_cores (s : State) (l : ErrLog) : (setErrLog s l).cores = s.cores := rfl
@[simp] theorem setErrLog_cabinets (s : State) (l : ErrLog) : (setErrLog s l).cabinets = s.cabinets := rfl
@[simp] theorem setErrLog_channels (s : State) (l : ErrLog) : (setErrLog s l).channels = s.channels := rfl
@[simp] theorem setErrLog_shelf (s : State) (l : ErrLog) : (setErrLog s l).shelf = s.shelf := rfl
@[simp] theorem setErrLog_rowMap (s : State) (l : ErrLog) : (setErrLog s l).rowMap = s.rowMap := rfl
@[simp] theorem setErrLog_clm (s : State) (l : ErrLog) : (setErrLog s l).clm = s.clm := rfl
@[simp] theorem setErrLog_slices (s : State) (l : ErrLog) : (setErrLog s l).slices = s.slices := rfl
@[simp] theorem setErrLog_pchs (s : State) (l : ErrLog) : (setErrLog s l).pchs = s.pchs := rfl
@[simp] theorem setErrLog_vaults (s : State) (l : ErrLog) : (setErrLog s l).vaults = s.vaults := rfl
@[simp] theorem setErrLog_csvs (s : State) (l : ErrLog) : (setErrLog s l).csvs = s.csvs := rfl
@[simp] theorem setErrLog_granules (s : State) (l : ErrLog) : (setErrLog s l).granules = s.granules := rfl
@[simp] theorem setErrLog_dram (s : State) (l : ErrLog) : (setErrLog s l).dram = s.dram := rfl
@[simp] theorem setErrLog_engines (s : State) (l : ErrLog) : (setErrLog s l).engines = s.engines := rfl
@[simp] theorem setErrLog_ports (s : State) (l : ErrLog) : (setErrLog s l).ports = s.ports := rfl
@[simp] theorem setErrLog_rings (s : State) (l : ErrLog) : (setErrLog s l).rings = s.rings := rfl
@[simp] theorem setErrLog_chans (s : State) (l : ErrLog) : (setErrLog s l).chans = s.chans := rfl
@[simp] theorem setErrLog_curator (s : State) (l : ErrLog) : (setErrLog s l).curator = s.curator := rfl
@[simp] theorem setErrLog_power (s : State) (l : ErrLog) : (setErrLog s l).power = s.power := rfl
@[simp] theorem setErrLog_thermal (s : State) (l : ErrLog) : (setErrLog s l).thermal = s.thermal := rfl
@[simp] theorem setErrLog_collectors (s : State) (l : ErrLog) : (setErrLog s l).collectors = s.collectors := rfl
@[simp] theorem setErrLog_errLog (s : State) (l : ErrLog) : (setErrLog s l).errLog = l := rfl
@[simp] theorem setErrLog_sideband (s : State) (l : ErrLog) : (setErrLog s l).sideband = s.sideband := rfl
@[simp] theorem setErrLog_jtag (s : State) (l : ErrLog) : (setErrLog s l).jtag = s.jtag := rfl
@[simp] theorem setErrLog_halves (s : State) (l : ErrLog) : (setErrLog s l).halves = s.halves := rfl
@[simp] theorem setErrLog_net (s : State) (l : ErrLog) : (setErrLog s l).net = s.net := rfl
@[simp] theorem setErrLog_nextReq (s : State) (l : ErrLog) : (setErrLog s l).nextReq = s.nextReq := rfl
@[simp] theorem setErrLog_flits (s : State) (l : ErrLog) : (setErrLog s l).flits = s.flits := rfl
@[simp] theorem setErrLog_nextFlit (s : State) (l : ErrLog) : (setErrLog s l).nextFlit = s.nextFlit := rfl
@[simp] theorem setErrLog_plan (s : State) (l : ErrLog) : (setErrLog s l).plan = s.plan := rfl
@[simp] theorem setErrLog_slotUse (s : State) (l : ErrLog) : (setErrLog s l).slotUse = s.slotUse := rfl
@[simp] theorem setErrLog_free (s : State) (l : ErrLog) : (setErrLog s l).free = s.free := rfl
@[simp] theorem setErrLog_out (s : State) (l : ErrLog) : (setErrLog s l).out = s.out := rfl
@[simp] theorem setErrLog_pending (s : State) (l : ErrLog) : (setErrLog s l).pending = s.pending := rfl

/-! ### setSideband -/

@[simp] theorem setSideband_beat (s : State) (x : Sideband) : (setSideband s x).beat = s.beat := rfl
@[simp] theorem setSideband_sup (s : State) (x : Sideband) : (setSideband s x).sup = s.sup := rfl
@[simp] theorem setSideband_boot (s : State) (x : Sideband) : (setSideband s x).boot = s.boot := rfl
@[simp] theorem setSideband_flash (s : State) (x : Sideband) : (setSideband s x).flash = s.flash := rfl
@[simp] theorem setSideband_fuses (s : State) (x : Sideband) : (setSideband s x).fuses = s.fuses := rfl
@[simp] theorem setSideband_esc (s : State) (x : Sideband) : (setSideband s x).esc = s.esc := rfl
@[simp] theorem setSideband_parts (s : State) (x : Sideband) : (setSideband s x).parts = s.parts := rfl
@[simp] theorem setSideband_wings (s : State) (x : Sideband) : (setSideband s x).wings = s.wings := rfl
@[simp] theorem setSideband_cabSites (s : State) (x : Sideband) : (setSideband s x).cabSites = s.cabSites := rfl
@[simp] theorem setSideband_bankGroups (s : State) (x : Sideband) : (setSideband s x).bankGroups = s.bankGroups := rfl
@[simp] theorem setSideband_sliceDoms (s : State) (x : Sideband) : (setSideband s x).sliceDoms = s.sliceDoms := rfl
@[simp] theorem setSideband_csvDoms (s : State) (x : Sideband) : (setSideband s x).csvDoms = s.csvDoms := rfl
@[simp] theorem setSideband_engineDoms (s : State) (x : Sideband) : (setSideband s x).engineDoms = s.engineDoms := rfl
@[simp] theorem setSideband_resets (s : State) (x : Sideband) : (setSideband s x).resets = s.resets := rfl
@[simp] theorem setSideband_cores (s : State) (x : Sideband) : (setSideband s x).cores = s.cores := rfl
@[simp] theorem setSideband_cabinets (s : State) (x : Sideband) : (setSideband s x).cabinets = s.cabinets := rfl
@[simp] theorem setSideband_channels (s : State) (x : Sideband) : (setSideband s x).channels = s.channels := rfl
@[simp] theorem setSideband_shelf (s : State) (x : Sideband) : (setSideband s x).shelf = s.shelf := rfl
@[simp] theorem setSideband_rowMap (s : State) (x : Sideband) : (setSideband s x).rowMap = s.rowMap := rfl
@[simp] theorem setSideband_clm (s : State) (x : Sideband) : (setSideband s x).clm = s.clm := rfl
@[simp] theorem setSideband_slices (s : State) (x : Sideband) : (setSideband s x).slices = s.slices := rfl
@[simp] theorem setSideband_pchs (s : State) (x : Sideband) : (setSideband s x).pchs = s.pchs := rfl
@[simp] theorem setSideband_vaults (s : State) (x : Sideband) : (setSideband s x).vaults = s.vaults := rfl
@[simp] theorem setSideband_csvs (s : State) (x : Sideband) : (setSideband s x).csvs = s.csvs := rfl
@[simp] theorem setSideband_granules (s : State) (x : Sideband) : (setSideband s x).granules = s.granules := rfl
@[simp] theorem setSideband_dram (s : State) (x : Sideband) : (setSideband s x).dram = s.dram := rfl
@[simp] theorem setSideband_engines (s : State) (x : Sideband) : (setSideband s x).engines = s.engines := rfl
@[simp] theorem setSideband_ports (s : State) (x : Sideband) : (setSideband s x).ports = s.ports := rfl
@[simp] theorem setSideband_rings (s : State) (x : Sideband) : (setSideband s x).rings = s.rings := rfl
@[simp] theorem setSideband_chans (s : State) (x : Sideband) : (setSideband s x).chans = s.chans := rfl
@[simp] theorem setSideband_curator (s : State) (x : Sideband) : (setSideband s x).curator = s.curator := rfl
@[simp] theorem setSideband_power (s : State) (x : Sideband) : (setSideband s x).power = s.power := rfl
@[simp] theorem setSideband_thermal (s : State) (x : Sideband) : (setSideband s x).thermal = s.thermal := rfl
@[simp] theorem setSideband_collectors (s : State) (x : Sideband) : (setSideband s x).collectors = s.collectors := rfl
@[simp] theorem setSideband_errLog (s : State) (x : Sideband) : (setSideband s x).errLog = s.errLog := rfl
@[simp] theorem setSideband_sideband (s : State) (x : Sideband) : (setSideband s x).sideband = x := rfl
@[simp] theorem setSideband_jtag (s : State) (x : Sideband) : (setSideband s x).jtag = s.jtag := rfl
@[simp] theorem setSideband_halves (s : State) (x : Sideband) : (setSideband s x).halves = s.halves := rfl
@[simp] theorem setSideband_net (s : State) (x : Sideband) : (setSideband s x).net = s.net := rfl
@[simp] theorem setSideband_nextReq (s : State) (x : Sideband) : (setSideband s x).nextReq = s.nextReq := rfl
@[simp] theorem setSideband_flits (s : State) (x : Sideband) : (setSideband s x).flits = s.flits := rfl
@[simp] theorem setSideband_nextFlit (s : State) (x : Sideband) : (setSideband s x).nextFlit = s.nextFlit := rfl
@[simp] theorem setSideband_plan (s : State) (x : Sideband) : (setSideband s x).plan = s.plan := rfl
@[simp] theorem setSideband_slotUse (s : State) (x : Sideband) : (setSideband s x).slotUse = s.slotUse := rfl
@[simp] theorem setSideband_free (s : State) (x : Sideband) : (setSideband s x).free = s.free := rfl
@[simp] theorem setSideband_out (s : State) (x : Sideband) : (setSideband s x).out = s.out := rfl
@[simp] theorem setSideband_pending (s : State) (x : Sideband) : (setSideband s x).pending = s.pending := rfl

end Sys2Proof.Machine
end

