-- ==== Sys2Proof/Laws/Posting.lean ====
section
/-! SUPPORT. What posting an event, raising a job fault and reporting an error may change, and that nothing else does. -/

set_option linter.unusedVariables false

set_option linter.unusedSimpArgs false

set_option linter.unusedTactic false

set_option linter.unreachableTactic false

namespace Sys2Proof.Machine

/-- What posting, reporting and raising a job fault may change: a partition's faults and lost count, a port's STATUS and pending
vectors, the rings, the outputs, the reports before a collector, and requests that come after those there. -/
structure Mild (t s : State) : Prop where
  rest : t = { s with parts := t.parts, rings := t.rings, ports := t.ports, out := t.out, collectors := t.collectors, net := t.net,
                      nextReq := t.nextReq }
  part : ∀ p, partOf t p = { partOf s p with faults := (partOf t p).faults, rgsLost := (partOf t p).rgsLost }
  faults : ∀ p f, f ∈ (partOf s p).faults → f ∈ (partOf t p).faults
  port : ∀ p, portOf t p = { portOf s p with status := (portOf t p).status, pba := (portOf t p).pba, setAt := (portOf t p).setAt }
  later : s.nextReq ≤ t.nextReq
  net : ∀ n, n < s.nextReq → find t.net n = find s.net n

theorem Mild.refl (s : State) : Mild s s := ⟨rfl, fun _ => rfl, fun _ _ h => h, fun _ => rfl, Nat.le_refl _, fun _ _ => rfl⟩

theorem Mild.trans {t u s : State} (a : Mild t u) (b : Mild u s) : Mild t s := by
  refine ⟨?_, fun p => ?_, fun p f h => a.faults p f (b.faults p f h), fun p => ?_, Nat.le_trans b.later a.later,
    fun n h => (a.net n (Nat.lt_of_lt_of_le h b.later)).trans (b.net n h)⟩
  · have := a.rest; rw [b.rest] at this; exact this
  · have := a.part p; rw [b.part p] at this; exact this
  · have := a.port p; rw [b.port p] at this; exact this

theorem Mild.foldl {α : Type} {g : State → α → State} (h : ∀ s x, Mild (g s x) s) (l : List α) (s : State) : Mild (l.foldl g s) s := by
  induction l generalizing s with
  | nil => exact .refl s
  | cons a l ih => exact (ih _).trans (h s a)

theorem emit_mild (s : State) (o : Output) : Mild (emit s o) s := ⟨rfl, fun _ => rfl, fun _ _ h => h, fun _ => rfl, Nat.le_refl _, fun _ _ => rfl⟩

theorem raiseIbi_mild (s : State) (b : BitVec 8) : Mild (raiseIbi s b) s := by
  unfold raiseIbi; split
  · exact emit_mild _ _
  · exact .refl _

theorem sendVector_mild (s : State) (p v : Nat) : Mild (sendVector s p v) s := by
  unfold sendVector; dsimp only; split
  · exact .refl _
  · split
    · refine ⟨rfl, fun _ => rfl, fun _ _ h => h, fun q => ?_, Nat.le_refl _, fun _ _ => rfl⟩
      simp only [portOf_setPort]; split
      · subst_vars; rfl
      · rfl
    · exact emit_mild _ _

theorem rings_mild (s : State) (r : SMap Ring) : Mild { s with rings := r } s := ⟨rfl, fun _ => rfl, fun _ _ h => h, fun _ => rfl, Nat.le_refl _, fun _ _ => rfl⟩

theorem mapPart_mild (s : State) (p : Nat) (f : Part → Part)
    (h : ∀ x, f x = { x with faults := (f x).faults, rgsLost := (f x).rgsLost }) (h2 : ∀ x, ∀ e ∈ x.faults, e ∈ (f x).faults) :
    Mild (mapPart s p f) s := by
  refine ⟨rfl, fun q => ?_, fun q e he => ?_, fun _ => rfl, Nat.le_refl _, fun _ _ => rfl⟩
  · simp only [mapPart, partOf_setPart]; split
    · subst_vars; exact h _
    · rfl
  · simp only [mapPart, partOf_setPart]; split
    · subst_vars; exact h2 _ _ he
    · exact he

theorem presentEntry_mild (s : State) (id : Nat) (r : Ring) (e : BitVec 512) (pc : Nat) : Mild (presentEntry s id r e pc) s :=
  ⟨rfl, fun _ => rfl, fun _ _ h => h, fun _ => rfl, Nat.le_succ _, fun n h => by
    simp only [presentEntry]; exact find_put_ne _ _ _ _ (Nat.ne_of_lt h)⟩

theorem postEntryAt_mild (s : State) (id : Nat) (e : BitVec 512) (pc : Nat) : Mild (postEntryAt s id e pc) s := by
  unfold postEntryAt
  split
  · exact .refl _
  · split
    · exact presentEntry_mild _ _ _ _ _
    · split
      · exact rings_mild _ _
      · dsimp only
        refine Mild.trans (mapPart_mild _ _ _ ?_ ?_) (rings_mild _ _)
        · intro x; rfl
        · intro x e h; exact h

theorem postEntry_mild (s : State) (id : Nat) (e : BitVec 512) : Mild (postEntry s id e) s := postEntryAt_mild _ _ _ _

theorem postEvent_mild (s : State) (p c : Nat) (l : List Nat) : Mild (postEvent s p c l) s :=
  Mild.foldl (fun s r => postEntry_mild _ _ _) _ _

theorem mapPort_mild (s : State) (p : Nat) (f : Port → Port) (h : ∀ x, f x = { x with status := (f x).status, pba := (f x).pba, setAt := (f x).setAt }) :
    Mild (mapPort s p f) s := by
  refine ⟨rfl, fun _ => rfl, fun _ _ h => h, fun q => ?_, Nat.le_refl _, fun _ _ => rfl⟩
  simp only [mapPort, portOf_setPort]; split
  · subst_vars; exact h _
  · rfl

theorem portsNotice_mild (s : State) (b : Nat) : Mild (portsNotice s b) s := by
  unfold portsNotice
  generalize List.range 8 = l
  refine Mild.foldl (fun s p => ?_) _ _
  refine Mild.trans (sendVector_mild _ _ _) (mapPort_mild _ _ _ ?_)
  intro x; rfl

theorem postEventAll_mild (s : State) (c b : Nat) (l : List Nat) : Mild (postEventAll s c b l) s := by
  unfold postEventAll
  generalize List.range 8 = l
  refine Mild.trans (portsNotice_mild _ _) (Mild.foldl (fun s p => ?_) _ _)
  split
  · exact postEvent_mild _ _ _ _
  · exact .refl _

theorem raiseFault_mild (s : State) (p : Nat) (f : FaultRec) : Mild (raiseFault s p f) s := by
  unfold raiseFault; split
  · exact mapPart_mild _ _ _ (fun _ => rfl) (fun _ _ h => by simp [h])
  · exact .refl _

theorem raiseFaultO_mild (s : State) (p : Option Nat) (f : FaultRec) : Mild (raiseFaultO s p f) s := by
  unfold raiseFaultO; split
  · exact raiseFault_mild _ _ _
  · exact .refl _

theorem report_mild (s : State) (k : Nat) (r : Report) : Mild (report s k r) s := ⟨rfl, fun _ => rfl, fun _ _ h => h, fun _ => rfl, Nat.le_refl _, fun _ _ => rfl⟩

theorem reportFinding_mild (s : State) (a b c d : Nat) (f : Checked) (e : Nat) : Mild (reportFinding s a b c d f e) s := by
  unfold reportFinding; split
  · exact .refl _
  · exact report_mild _ _ _

theorem reportOwned_mild (s : State) (k : Nat) (r : Report) (p : Option Nat) : Mild (reportOwned s k r p) s :=
  ⟨rfl, fun _ => rfl, fun _ _ h => h, fun _ => rfl, Nat.le_refl _, fun _ _ => rfl⟩

theorem faultFinding_mild (s : State) (p : Option Nat) (a b c d : Nat) (f : Checked) (e : Nat) : Mild (faultFinding s p a b c d f e) s := by
  unfold faultFinding; dsimp only; split
  · refine (raiseFaultO_mild _ _ _).trans ?_
    split
    · exact .refl _
    · exact reportOwned_mild _ _ _ _
  · split
    · exact .refl _
    · exact reportOwned_mild _ _ _ _

theorem Mild.beat {t s : State} (h : Mild t s) : t.beat = s.beat := by rw [h.rest]

theorem Mild.sup {t s : State} (h : Mild t s) : t.sup = s.sup := by rw [h.rest]

theorem Mild.boot {t s : State} (h : Mild t s) : t.boot = s.boot := by rw [h.rest]

theorem Mild.flash {t s : State} (h : Mild t s) : t.flash = s.flash := by rw [h.rest]

theorem Mild.fuses {t s : State} (h : Mild t s) : t.fuses = s.fuses := by rw [h.rest]

theorem Mild.esc {t s : State} (h : Mild t s) : t.esc = s.esc := by rw [h.rest]

theorem Mild.wings {t s : State} (h : Mild t s) : t.wings = s.wings := by rw [h.rest]

theorem Mild.cabSites {t s : State} (h : Mild t s) : t.cabSites = s.cabSites := by rw [h.rest]

theorem Mild.bankGroups {t s : State} (h : Mild t s) : t.bankGroups = s.bankGroups := by rw [h.rest]

theorem Mild.sliceDoms {t s : State} (h : Mild t s) : t.sliceDoms = s.sliceDoms := by rw [h.rest]

theorem Mild.csvDoms {t s : State} (h : Mild t s) : t.csvDoms = s.csvDoms := by rw [h.rest]

theorem Mild.engineDoms {t s : State} (h : Mild t s) : t.engineDoms = s.engineDoms := by rw [h.rest]

theorem Mild.resets {t s : State} (h : Mild t s) : t.resets = s.resets := by rw [h.rest]

theorem Mild.cores {t s : State} (h : Mild t s) : t.cores = s.cores := by rw [h.rest]

theorem Mild.cabinets {t s : State} (h : Mild t s) : t.cabinets = s.cabinets := by rw [h.rest]

theorem Mild.channels {t s : State} (h : Mild t s) : t.channels = s.channels := by rw [h.rest]

theorem Mild.shelf {t s : State} (h : Mild t s) : t.shelf = s.shelf := by rw [h.rest]

theorem Mild.rowMap {t s : State} (h : Mild t s) : t.rowMap = s.rowMap := by rw [h.rest]

theorem Mild.clm {t s : State} (h : Mild t s) : t.clm = s.clm := by rw [h.rest]

theorem Mild.slices {t s : State} (h : Mild t s) : t.slices = s.slices := by rw [h.rest]

theorem Mild.pchs {t s : State} (h : Mild t s) : t.pchs = s.pchs := by rw [h.rest]

theorem Mild.vaults {t s : State} (h : Mild t s) : t.vaults = s.vaults := by rw [h.rest]

theorem Mild.csvs {t s : State} (h : Mild t s) : t.csvs = s.csvs := by rw [h.rest]

theorem Mild.granules {t s : State} (h : Mild t s) : t.granules = s.granules := by rw [h.rest]

theorem Mild.dram {t s : State} (h : Mild t s) : t.dram = s.dram := by rw [h.rest]

theorem Mild.engines {t s : State} (h : Mild t s) : t.engines = s.engines := by rw [h.rest]

theorem Mild.chans {t s : State} (h : Mild t s) : t.chans = s.chans := by rw [h.rest]

theorem Mild.curator {t s : State} (h : Mild t s) : t.curator = s.curator := by rw [h.rest]

theorem Mild.power {t s : State} (h : Mild t s) : t.power = s.power := by rw [h.rest]

theorem Mild.thermal {t s : State} (h : Mild t s) : t.thermal = s.thermal := by rw [h.rest]

theorem Mild.errLog {t s : State} (h : Mild t s) : t.errLog = s.errLog := by rw [h.rest]

theorem Mild.sideband {t s : State} (h : Mild t s) : t.sideband = s.sideband := by rw [h.rest]

theorem Mild.jtag {t s : State} (h : Mild t s) : t.jtag = s.jtag := by rw [h.rest]

theorem Mild.halves {t s : State} (h : Mild t s) : t.halves = s.halves := by rw [h.rest]

theorem Mild.flits {t s : State} (h : Mild t s) : t.flits = s.flits := by rw [h.rest]

theorem Mild.nextFlit {t s : State} (h : Mild t s) : t.nextFlit = s.nextFlit := by rw [h.rest]

theorem Mild.plan {t s : State} (h : Mild t s) : t.plan = s.plan := by rw [h.rest]

theorem Mild.slotUse {t s : State} (h : Mild t s) : t.slotUse = s.slotUse := by rw [h.rest]

theorem Mild.free {t s : State} (h : Mild t s) : t.free = s.free := by rw [h.rest]

theorem Mild.pending {t s : State} (h : Mild t s) : t.pending = s.pending := by rw [h.rest]

end Sys2Proof.Machine
end

