-- ==== Sys2Proof/Laws/Resets.lean ====
section
/-! SUPPORT. What a domain reset loses, records and posts (R440 to R445). -/

set_option linter.unusedVariables false

set_option linter.unusedSimpArgs false

set_option linter.unusedTactic false

set_option linter.unreachableTactic false

namespace Sys2Proof.Machine

theorem countReset_eq (s : State) : ∃ e, countReset s = { s with esc := e } ∧ e.lastKind = s.esc.lastKind ∧ e.lastIndex = s.esc.lastIndex
    ∧ e.lastCause = s.esc.lastCause ∧ e.total = satAdd s.esc.total 1 := ⟨_, rfl, rfl, rfl, rfl, rfl⟩

theorem deaccession_mild (s : State) (k i : Nat) :
    Mild (deaccession s k i) { s with boot := { s.boot with deaccessioned := true, deaccOffAt := some (now s + 2500) }, shelf := [], dram := [] } := by
  unfold deaccession
  dsimp only
  generalize List.range 8 = l
  exact (postEventAll_mild _ _ _ _).trans (Mild.foldl (fun s p => raiseFault_mild _ _ _) _ _)

/-- What a reset leaves apart from what its domain loses and what it posts. -/
theorem resetDomain_cases (s : State) (k : DomainKind) (i cause : Nat) (f : FaultRec) (h : inDomainReset s (domCode k) i = false) :
   ∃ e r, ((r = (loseDomain s k i).boot ∧ Mild (resetDomain s k i cause f) { loseDomain s k i with
        resets := put (loseDomain s k i).resets (256 * domCode k + i) (now (loseDomain s k i) + domBeats k), esc := e })
      ∨ ((loseDomain s k i).boot.deaccessioned = false ∧ r = { (loseDomain s k i).boot with deaccessioned := true, deaccOffAt := some (now (loseDomain s k i) + 2500) } ∧ Mild (resetDomain s k i cause f) { loseDomain s k i with
        resets := put (loseDomain s k i).resets (256 * domCode k + i) (now (loseDomain s k i) + domBeats k), esc := e, boot := r, shelf := [], dram := [] }))
      ∧ e.lastKind = BitVec.ofNat 3 (domCode k) ∧ e.lastIndex = BitVec.ofNat 8 i ∧ e.lastCause = BitVec.ofNat 4 cause
      ∧ (¬ (1 ≤ cause ∧ cause ≤ 8) → e.total = (loseDomain s k i).esc.total ∧ r = (loseDomain s k i).boot) := by
  unfold resetDomain
  rw [h]
  simp only [Bool.false_eq_true, if_false]
  have hf : ∀ l (u : State), Mild (List.foldl (fun s p => raiseFault (postEvent s p 7 [domCode k, i, inWindow s]) p f) u l) u :=
    fun l u => Mild.foldl (fun s p => (raiseFault_mild _ _ _).trans (postEvent_mild _ _ _ _)) l u
  have hd : ∀ (t u : State), Mild t u → Mild (deaccession t (domCode k) i)
      { u with boot := { u.boot with deaccessioned := true, deaccOffAt := some (now u + 2500) }, shelf := [], dram := [] } := by
    intro t u m
    refine (deaccession_mild _ _ _).trans ⟨?_, m.part, m.faults, m.port, m.later, m.net⟩
    have := m.rest
    generalize t.parts = a, t.rings = b, t.ports = c, t.out = d, t.collectors = e, t.net = f, t.nextReq = g at this
    subst this; rfl
  generalize hb : (List.range 8).filter (resetFaults s k i) = hit
  by_cases hc : (decide (1 ≤ cause ∧ cause ≤ 8) && !(loseDomain s k i).boot.deaccessioned) = true
  · rw [hc]
    simp only [if_true, Bool.true_and]
    obtain ⟨e, h2, h3, h4, h5, h6⟩ := countReset_eq ({ loseDomain s k i with
      resets := put (loseDomain s k i).resets (256 * domCode k + i) (now (loseDomain s k i) + domBeats k),
      esc := { (loseDomain s k i).esc with lastKind := BitVec.ofNat 3 (domCode k), lastIndex := BitVec.ofNat 8 i, lastCause := BitVec.ofNat 4 cause } })
    rw [h2]
    simp only [Bool.and_eq_true, decide_eq_true_eq, Bool.not_eq_true'] at hc
    split
    · refine ⟨e, { (loseDomain s k i).boot with deaccessioned := true, deaccOffAt := some (now (loseDomain s k i) + 2500) }, Or.inr ⟨hc.2, rfl, ?_⟩, h3, h4, h5, fun hn => absurd hc.1 hn⟩
      exact hd _ _ (hf _ _)
    · exact ⟨e, (loseDomain s k i).boot, Or.inl ⟨rfl, hf _ _⟩, h3, h4, h5, fun hn => absurd hc.1 hn⟩
  · simp only [Bool.not_eq_true] at hc
    rw [hc]
    simp only [Bool.false_eq_true, if_false, Bool.false_and]
    exact ⟨{ (loseDomain s k i).esc with lastKind := BitVec.ofNat 3 (domCode k), lastIndex := BitVec.ofNat 8 i, lastCause := BitVec.ofNat 4 cause }, (loseDomain s k i).boot, Or.inl ⟨rfl, hf _ _⟩, rfl, rfl, rfl, fun hn => ⟨rfl, rfl⟩⟩

theorem respondWith_keeps (s : State) (r : Running) (a b : Nat) (l : SMap Word) : (respondWith s r a b l).resets = s.resets
    ∧ (respondWith s r a b l).esc = s.esc ∧ (respondWith s r a b l).boot = s.boot ∧ (respondWith s r a b l).curator.running = none := by
  unfold respondWith; dsimp only
  split
  · exact ⟨rfl, rfl, rfl, rfl⟩
  · split
    · refine ⟨(raiseIbi_mild _ _).resets, (raiseIbi_mild _ _).esc, (raiseIbi_mild _ _).boot, ?_⟩
      rw [(raiseIbi_mild _ _).curator]
    · refine ⟨(sendVector_mild _ _ _).resets, (sendVector_mild _ _ _).esc, (sendVector_mild _ _ _).boot, ?_⟩
      rw [(sendVector_mild _ _ _).curator]

theorem loseCommand_resets (s : State) : (loseCommand s).resets = s.resets ∧ (loseCommand s).esc = s.esc ∧ (loseCommand s).boot = s.boot ∧ (loseCommand s).curator.running = none := by
  unfold loseCommand
  split
  · rename_i r hr
    split
    · unfold endCommand
      have ite (β : Type) (φ : State → β) (c : Prop) [Decidable c] (h : φ (moveEpoch s) = φ s) : φ (if c then moveEpoch s else s) = φ s := by
        split <;> first | exact h | rfl
      exact ⟨(respondWith_keeps _ _ _ _ _).1.trans (ite _ State.resets _ rfl), (respondWith_keeps _ _ _ _ _).2.1.trans (ite _ State.esc _ rfl),
        (respondWith_keeps _ _ _ _ _).2.2.1.trans (ite _ State.boot _ rfl), (respondWith_keeps _ _ _ _ _).2.2.2⟩
    · obtain ⟨a, b, c, d⟩ := respondWith_keeps (undoCommand s r) r 5 0 []
      refine ⟨a.trans ?_, b.trans ?_, c.trans ?_, d⟩ <;> (unfold undoCommand; split <;> simp [setPch])
  · exact ⟨rfl, rfl, rfl, by assumption⟩

theorem foldl_same {α β : Type} (φ : State → β) {g : State → α → State} (h : ∀ s x, φ (g s x) = φ s) (l : List α) (s : State) : φ (l.foldl g s) = φ s := by
  induction l generalizing s with
  | nil => rfl
  | cons a l ih => exact (ih _).trans (h s a)

theorem loseDomain_keeps (s : State) (k : DomainKind) (i : Nat) : (loseDomain s k i).resets = s.resets ∧ (loseDomain s k i).esc = s.esc ∧ (loseDomain s k i).boot = s.boot
   ∧ now (loseDomain s k i) = now s := by
  have hn : now (loseDomain s k i) = now s := by unfold now; rw [(loseDomain_calm s k i).1]
  refine ⟨?_, ?_, ?_, hn⟩ <;> cases k <;> simp only [loseDomain, losePort, loseStack, loseVault, mapPort, setPort, dropRequests]
  · exact foldl_same State.resets (by intro s x; rfl) _ _
  · refine (foldl_same State.resets (by intro s x; rfl) _ _).trans ?_; rfl
  · exact (loseCommand_resets s).1
  · exact foldl_same State.esc (by intro s x; rfl) _ _
  · refine (foldl_same State.esc (by intro s x; rfl) _ _).trans ?_; rfl
  · exact (loseCommand_resets s).2.1
  · exact foldl_same State.boot (by intro s x; rfl) _ _
  · refine (foldl_same State.boot (by intro s x; rfl) _ _).trans ?_; rfl
  · exact (loseCommand_resets s).2.2.1

theorem raiseFault_mem (s : State) (p : Nat) (f : FaultRec) (h : owned (partOf s p) = true) : f ∈ (partOf (raiseFault s p f) p).faults := by
  unfold raiseFault
  rw [if_pos h]
  unfold mapPart
  simp [partOf_setPart]

theorem Mild.owned {t s : State} (m : Mild t s) (p : Nat) : owned (partOf t p) = owned (partOf s p) := by
  rw [m.part p]; rfl

/-- A fault raised for each partition of a list stands in that partition's list, whatever follows. -/
theorem raiseAll_mem (g : State → Nat → State) (hg : ∀ s p, Mild (g s p) s) (f : FaultRec) (l : List Nat) (s : State) (p : Nat)
    (hp : p ∈ l) (ho : owned (partOf s p) = true) :
    f ∈ (partOf (l.foldl (fun s p => raiseFault (g s p) p f) s) p).faults := by
  induction l generalizing s with
  | nil => cases hp
  | cons a l ih =>
    rw [List.foldl_cons]
    by_cases h : p = a
    · subst h
      have h1 := raiseFault_mem (g s p) p f (by rw [(hg s p).owned]; exact ho)
      exact (Mild.foldl (fun s p => (raiseFault_mild _ _ _).trans (hg _ _)) l _).faults p f h1
    · refine ih _ (List.mem_of_ne_of_mem h hp) ?_
      rw [((raiseFault_mild _ _ _).trans (hg s a)).owned]; exact ho

theorem respondWith_owned (s : State) (r : Running) (a b : Nat) (l : SMap Word) (p : Nat) :
    owned (partOf (respondWith s r a b l) p) = owned (partOf s p) := by
  unfold respondWith; dsimp only
  split
  · rfl
  · split
    · exact (raiseIbi_mild _ _).owned p
    · exact (sendVector_mild _ _ _).owned p

theorem parts_owned {t s : State} (h : t.parts = s.parts) (p : Nat) : owned (partOf t p) = owned (partOf s p) := by
  unfold partOf; rw [h]

theorem loseDomain_owned (s : State) (k : DomainKind) (i p : Nat) : owned (partOf (loseDomain s k i) p) = owned (partOf s p) := by
  cases k
  · simp only [loseDomain, losePort, mapPort, setPort]
    refine (parts_owned rfl p).trans (foldl_same (fun s => owned (partOf s p)) (g := fun s (x : Nat × Nat) =>
      mapPart s x.1 fun q => { q with rgsLost := satAdd q.rgsLost x.2 }) (fun s x => ?_) _ s)
    simp only [partOf_mapPart]; split
    · subst_vars; rfl
    · rfl
  · refine parts_owned ?_ p
    simp only [loseDomain, loseStack]
    exact foldl_same State.parts (g := fun s e => resetEngine s (6 * i + e)) (fun s x => rfl) _ _
  · rfl
  · show owned (partOf (loseCommand s) p) = _
    unfold loseCommand
    split
    · split
      · unfold endCommand; rw [respondWith_owned]; refine parts_owned ?_ p; split <;> (split <;> rfl)
      · rw [respondWith_owned]; refine parts_owned ?_ p; unfold undoCommand; split <;> rfl
    · rfl

/-- What the counting, the faults and the deaccession of a reset that has lost its domain's state leave. -/
theorem resetTail_began (u : State) (c : Bool) (d i : Nat) (hit : List Nat) (f : FaultRec) :
    let v := if c then countReset u else u
    let w := hit.foldl (fun s p => raiseFault (postEvent s p 7 [d, i, inWindow s]) p f) v
    let t := if c && decide (w.esc.count.toNat ≤ inWindow w) then deaccession w d i else w
    t.resets = u.resets ∧ t.esc.lastKind = u.esc.lastKind ∧ t.esc.lastIndex = u.esc.lastIndex ∧ t.esc.lastCause = u.esc.lastCause
      ∧ t.esc.total = (if c then satAdd u.esc.total 1 else u.esc.total)
      ∧ t.boot.deaccessioned = (u.boot.deaccessioned || (c && decide (u.esc.count.toNat ≤ u.resetsWithNow)))
      ∧ ∀ p ∈ hit, owned (partOf u p) = true → f ∈ (partOf t p).faults := by
  intro v w t
  have hg : ∀ (s : State) p, Mild (postEvent s p 7 [d, i, inWindow s]) s := fun _ _ => postEvent_mild _ _ _ _
  have hm : Mild w v := Mild.foldl (fun s p => (raiseFault_mild _ _ _).trans (hg _ _)) _ _
  have hv : v.resets = u.resets ∧ v.boot = u.boot ∧ v.esc.lastKind = u.esc.lastKind ∧ v.esc.lastIndex = u.esc.lastIndex
      ∧ v.esc.lastCause = u.esc.lastCause ∧ v.esc.total = (if c then satAdd u.esc.total 1 else u.esc.total)
      ∧ v.esc.count = u.esc.count ∧ (c = true → inWindow v = u.resetsWithNow) ∧ ∀ p, owned (partOf v p) = owned (partOf u p) := by
    cases c
    · exact ⟨rfl, rfl, rfl, rfl, rfl, rfl, rfl, fun h => absurd h (by decide), fun _ => rfl⟩
    · exact ⟨rfl, rfl, rfl, rfl, rfl, rfl, rfl, fun _ => rfl, fun _ => rfl⟩
  obtain ⟨e1, e2, e3, e4, e5, e6, e7, e8, e9⟩ := hv
  have hf : ∀ p ∈ hit, owned (partOf u p) = true → f ∈ (partOf w p).faults := fun p hp ho =>
    raiseAll_mem (fun s p => postEvent s p 7 [d, i, inWindow s]) hg f hit v p hp (by rw [e9]; exact ho)
  have hwi : inWindow w = inWindow v := by unfold inWindow now; rw [hm.esc, hm.beat]
  have hwc : w.esc.count = u.esc.count := by rw [hm.esc, e7]
  have hwe := hm.esc
  have hwb := hm.boot
  have hwr := hm.resets
  by_cases hd : (c && decide (w.esc.count.toNat ≤ inWindow w)) = true
  · have ht : t = deaccession w d i := if_pos hd
    have m := deaccession_mild w d i
    have me := m.esc
    have mb := m.boot
    have mr := m.resets
    rw [ht]
    simp only [Bool.and_eq_true, decide_eq_true_eq] at hd
    obtain ⟨hd1, hd2⟩ := hd
    rw [hwc, hwi, e8 hd1] at hd2
    refine ⟨mr.trans (hwr.trans e1), ?_, ?_, ?_, ?_, ?_, fun p hp ho => m.faults p f (hf p hp ho)⟩
    · rw [me]; exact (congrArg Escalation.lastKind hwe).trans e3
    · rw [me]; exact (congrArg Escalation.lastIndex hwe).trans e4
    · rw [me]; exact (congrArg Escalation.lastCause hwe).trans e5
    · rw [me]; exact (congrArg Escalation.total hwe).trans e6
    · rw [mb]; simp [hd1, hd2]
  · have ht : t = w := if_neg hd
    rw [ht]
    refine ⟨hwr.trans e1, by rw [hwe, e3], by rw [hwe, e4], by rw [hwe, e5], by rw [hwe, e6], ?_, hf⟩
    rw [hwb, e2]
    by_cases hc1 : c = true
    · rw [hwc, hwi, e8 hc1] at hd
      simp only [hc1, Bool.true_and, decide_eq_true_eq] at hd
      simp [hc1, hd]
    · simp [hc1]

theorem resetDomain_began (s : State) (k : DomainKind) (i cause : Nat) (f : FaultRec) (h : inDomainReset s (domCode k) i = false) :
   let t := resetDomain s k i cause f
   find t.resets (256 * domCode k + i) = some (now s + domBeats k)
    ∧ t.esc.lastKind = BitVec.ofNat 3 (domCode k) ∧ t.esc.lastIndex = BitVec.ofNat 8 i ∧ t.esc.lastCause = BitVec.ofNat 4 cause
    ∧ (let counted : Bool := decide (1 ≤ cause ∧ cause ≤ 8) && !s.boot.deaccessioned
       t.esc.total = (if counted then satAdd s.esc.total 1 else s.esc.total)
         ∧ t.boot.deaccessioned = (s.boot.deaccessioned || (counted && decide (s.esc.count.toNat ≤ s.resetsWithNow))))
    ∧ (∀ p, p < 8 → resetFaults s k i p = true → f ∈ (partOf t p).faults) := by
  obtain ⟨h1, h2, h3, h4⟩ := loseDomain_keeps s k i
  have ho := loseDomain_owned s k i
  intro t
  have ht : t = resetDomain s k i cause f := rfl
  unfold resetDomain at ht
  rw [if_neg (by rw [h]; decide)] at ht
  dsimp only at ht
  generalize loseDomain s k i = L at ht h1 h2 h3 h4 ho
  have hb := resetTail_began ({ L with
      resets := put L.resets (256 * domCode k + i) (now L + domBeats k)
      esc := { L.esc with lastKind := BitVec.ofNat 3 (domCode k), lastIndex := BitVec.ofNat 8 i, lastCause := BitVec.ofNat 4 cause } } : State)
    (decide (1 ≤ cause ∧ cause ≤ 8) && !L.boot.deaccessioned) (domCode k) i ((List.range 8).filter (resetFaults s k i)) f
  dsimp only at hb
  rw [← ht] at hb
  clear_value t
  clear ht
  obtain ⟨a, b, c, d, e, g, m⟩ := hb
  refine ⟨?_, b, c, d, ⟨?_, ?_⟩, fun p h8 hr => m p (List.mem_filter.mpr ⟨List.mem_range.mpr h8, hr⟩) ?_⟩
  · rw [a, h4]; exact find_put_same _ _ _
  · rw [e, h3, h2]
  · rw [g, h3]
    have hn : State.resetsWithNow L = s.resetsWithNow := by unfold State.resetsWithNow; rw [h2, h4]
    rw [← hn, ← h2]; rfl
  · show owned (partOf L p) = true
    rw [ho]; unfold resetFaults at hr; simp only [Bool.and_eq_true] at hr; exact hr.1

/-- A reset with the fault that its own cause gives has begun as the obligations' shared form says. -/
theorem resetFor_began (s : State) (k : DomainKind) (i cause : Nat) (h : inDomainReset s (domCode k) i = false) :
    (resetFor s k i cause).resetBegan s k i cause := resetDomain_began s k i cause _ h

end Sys2Proof.Machine
end

