-- ==== Sys2Proof/Laws/Bringup.lean ====
section
/-! SUPPORT. What bring-up's work and a partition's creation leave of the stage and of each partition's resources and settings. -/

set_option linter.unusedVariables false

set_option linter.unusedSimpArgs false

set_option linter.unusedTactic false

set_option linter.unreachableTactic false

namespace Sys2Proof.Machine

/-- Stage, VALID and what failed stay, and each partition's resources and settings. -/
structure KeepsParts (t s : State) : Prop where
  stage : t.boot.stage = s.boot.stage
  valid : t.boot.valid = s.boot.valid
  fail : t.boot.failKind = s.boot.failKind ∧ t.boot.failIndex = s.boot.failIndex
  part : ∀ p, partOf t p = { partOf s p with
    faults := (partOf t p).faults, rgsLost := (partOf t p).rgsLost, capThermal := (partOf t p).capThermal
    changedAt := (partOf t p).changedAt, gatesWas := (partOf t p).gatesWas, capHostWas := (partOf t p).capHostWas
    capThermalWas := (partOf t p).capThermalWas }

theorem KeepsParts.refl (s : State) : KeepsParts s s := ⟨rfl, rfl, ⟨rfl, rfl⟩, fun _ => rfl⟩

theorem KeepsParts.trans {t u s : State} (a : KeepsParts t u) (b : KeepsParts u s) : KeepsParts t s := by
  refine ⟨a.1.trans b.1, a.2.trans b.2, ⟨a.3.1.trans b.3.1, a.3.2.trans b.3.2⟩, fun p => ?_⟩
  have := a.part p; rw [b.part p] at this; exact this

theorem KeepsParts.foldl {α : Type} {g : State → α → State} (h : ∀ s x, KeepsParts (g s x) s) (l : List α) (s : State) : KeepsParts (l.foldl g s) s := by
  induction l generalizing s with
  | nil => exact .refl s
  | cons a l ih => exact (ih _).trans (h s a)

theorem KeepsParts.foldl_fst {α γ : Type} {g : State × γ → α → State × γ} (h : ∀ s x, KeepsParts (g s x).1 s.1) (l : List α) (s : State × γ) : KeepsParts (l.foldl g s).1 s.1 := by
  induction l generalizing s with
  | nil => exact .refl s.1
  | cons a l ih => exact (ih _).trans (h s a)

theorem Mild.keepsParts {t s : State} (m : Mild t s) : KeepsParts t s := by
  refine ⟨by rw [m.boot], by rw [m.boot], ⟨by rw [m.boot], by rw [m.boot]⟩, fun p => ?_⟩
  have := m.part p
  generalize (partOf t p).faults = a, (partOf t p).rgsLost = b at this
  rw [this]

theorem KeepsParts.of_eq {t s : State} (h1 : t.boot = s.boot) (h2 : t.parts = s.parts) : KeepsParts t s :=
  ⟨by rw [h1], by rw [h1], ⟨by rw [h1], by rw [h1]⟩, fun p => by unfold partOf; rw [h2]⟩

theorem autoRecord_keepsParts (s : State) (r) : KeepsParts (autoRecord s r) s := by
  unfold autoRecord
  split
  · exact .refl s
  · split
    · exact ⟨rfl, rfl, ⟨rfl, rfl⟩, fun _ => rfl⟩
    · unfold curatorLog; dsimp only; split
      · exact .of_eq rfl rfl
      · exact ⟨rfl, rfl, ⟨rfl, rfl⟩, fun _ => rfl⟩

theorem autoRetire_keepsParts (s : State) (r) : KeepsParts (autoRetire s r) s := by
  unfold autoRetire afterRecord; dsimp only
  split
  · exact (autoRecord_keepsParts _ _).trans (autoRecord_keepsParts _ _)
  · split
    · exact (autoRecord_keepsParts _ _).trans (autoRecord_keepsParts _ _)
    · exact autoRecord_keepsParts _ _

theorem setCabStatus_keepsParts (s : State) (c b) : KeepsParts (setCabStatus s c b) s := by
  unfold setCabStatus; split
  · exact .of_eq rfl rfl
  · exact .refl s

theorem kernelFault_keepsParts (s : State) (a b c d e f g) (w) : KeepsParts (kernelFault s a b c d e f g w) s :=
  (raiseFaultO_mild _ _ _).keepsParts.trans (.of_eq rfl rfl)

theorem markFailed_keepsParts (s : State) (x) : KeepsParts (markFailed s x) s := by
  unfold markFailed; dsimp only
  split
  · exact (kernelFault_keepsParts _ _ _ _ _ _ _ _ _).trans ((postEvent_mild _ _ _ _).keepsParts.trans ((autoRetire_keepsParts _ _).trans ((setCabStatus_keepsParts _ _ _).trans (.of_eq rfl rfl))))
  · exact (autoRetire_keepsParts _ _).trans ((setCabStatus_keepsParts _ _ _).trans (.of_eq rfl rfl))

theorem trainChannel_keepsParts (s : State) (x) : KeepsParts (trainChannel s x) s := by
  unfold trainChannel; dsimp only; split
  · exact .of_eq rfl rfl
  · exact (markFailed_keepsParts _ _).trans (.of_eq rfl rfl)

theorem trainVaults_keepsParts (s : State) (r) : KeepsParts (trainVaults s r) s := by
  unfold trainVaults; dsimp only
  refine (KeepsParts.foldl (fun s x => ?_) _ _).trans ⟨rfl, rfl, ⟨rfl, rfl⟩, fun _ => rfl⟩
  split
  · exact .refl _
  · exact autoRetire_keepsParts _ _

theorem boot_keepsParts (s : State) (b : Boot) (h1 : b.stage = s.boot.stage) (h2 : b.valid = s.boot.valid)
    (h3 : b.failKind = s.boot.failKind ∧ b.failIndex = s.boot.failIndex) : KeepsParts { s with boot := b } s := ⟨h1, h2, h3, fun _ => rfl⟩

theorem darkWing_keepsParts (s : State) (w) : KeepsParts (darkWing s w) s := .of_eq rfl rfl

theorem mapCab_keepsParts (s : State) (c f) : KeepsParts (mapCab s c f) s := .of_eq rfl rfl

theorem setChannel_keepsParts (s : State) (c f) : KeepsParts (setChannel s c f) s := .of_eq rfl rfl

theorem setWing_keepsParts (s : State) (c f) : KeepsParts (setWing s c f) s := .of_eq rfl rfl

theorem clearSite_keepsParts (s : State) (c) : KeepsParts (clearSite s c) s := .of_eq rfl rfl

theorem shrunk_keepsParts (s : State) (x) : KeepsParts { s with boot := { s.boot with shrunk := x } } s := ⟨rfl, rfl, ⟨rfl, rfl⟩, fun _ => rfl⟩

theorem buildMaps_keepsParts (s : State) (w) : KeepsParts (buildMaps s w).1 s := by
  unfold buildMaps
  extract_lets old rows s1 cabs retired w0 s2 s3 fresh s4 steered changed b5 s5
  have h1 : KeepsParts s1 s := by
    refine KeepsParts.trans (u := rows.foldl steerRow s) ?_ (KeepsParts.foldl (fun s x => ?_) _ _)
    · exact KeepsParts.foldl (fun s x => setChannel_keepsParts _ _ _) _ _
    · unfold steerRow; split
      · exact .of_eq rfl rfl
      · exact .refl _
  have h2 : KeepsParts s2 s1 := setWing_keepsParts _ _ _
  have h3 : KeepsParts s3 s2 := KeepsParts.foldl (fun s x => mapCab_keepsParts _ _ _) _ _
  have h4 : KeepsParts s4 s3 := KeepsParts.foldl (fun s x => clearSite_keepsParts _ _) _ _
  have h5 : KeepsParts s5 s4 := shrunk_keepsParts s4 _
  exact KeepsParts.trans (u := s5) (KeepsParts.foldl (fun s x => mapCab_keepsParts _ _ _) _ _) (h5.trans (h4.trans (h3.trans (h2.trans h1))))

theorem buildAll_keepsParts (s : State) : KeepsParts (buildAll s) s := by
  have key : ∀ l : List Nat, KeepsParts (let s := l.foldl (fun s w => (buildMaps s w).1) s
      { s with cabinets := s.cabinets.map fun c => (c.1, { c.2 with remapped := 0 }) }) s := by
    intro l
    exact KeepsParts.trans (u := List.foldl (fun s w => (buildMaps s w).1) s l) (.of_eq rfl rfl) (KeepsParts.foldl (fun s x => buildMaps_keepsParts s x) _ _)
  exact key _

theorem createWings_keepsParts (s : State) (p) : KeepsParts (createWings s p).1 s := by
  unfold createWings
  generalize List.range 9 = l9
  refine KeepsParts.foldl_fst (fun s x => ?_) _ _
  dsimp only
  refine KeepsParts.trans (KeepsParts.foldl (by intro s x; apply mapCab_keepsParts) _ _) ?_
  exact KeepsParts.trans (u := (buildMaps s.1 x).1) (darkWing_keepsParts _ _) (buildMaps_keepsParts _ _)

theorem takeCap_keepsParts (s : State) (p) : KeepsParts (takeCap s p) s := by
  unfold takeCap; dsimp only
  have hs : ∀ (u : State) (x : Nat × Region), KeepsParts (if x.2.episode = .grace ∧ affectedBy (partOf u p) x.1 then slowDown u p x.1 else u) u := by
    intro u x; split
    · unfold slowDown; exact (postEvent_mild _ _ _ _).keepsParts
    · exact .refl _
  have hm : ∀ (u : State) b n, KeepsParts (mapPart u p fun x => { latchInputs x b with capThermal := n }) u := by
    intro u b n; refine ⟨rfl, rfl, ⟨rfl, rfl⟩, fun q => ?_⟩
    simp only [mapPart, partOf_setPart]; split
    · subst_vars; unfold latchInputs; split <;> rfl
    · rfl
  split
  · exact (postEvent_mild _ _ _ _).keepsParts.trans ((hm _ _ _).trans (KeepsParts.foldl hs _ _))
  · exact (hm _ _ _).trans (KeepsParts.foldl hs _ _)

theorem createResults_keepsParts (s : State) (p l) : KeepsParts (createResults s p l).1 s := by
  unfold createResults; dsimp only
  split
  · exact .refl _
  · unfold freeWord; exact .of_eq rfl rfl

theorem createPart_part (s : State) (p po la wa sl sh wi) : (createPart s p po la wa sl sh wi).1.boot.stage = s.boot.stage ∧
   (createPart s p po la wa sl sh wi).1.boot.valid = s.boot.valid ∧
   ∀ q, partOf (createPart s p po la wa sl sh wi).1 q = { (if q = p then fullAccounts { state := .forming, ports := po, wings := wi, slots := sl, share := sh, lanes := la, ways := wa } else partOf s q) with
      faults := (partOf (createPart s p po la wa sl sh wi).1 q).faults, rgsLost := (partOf (createPart s p po la wa sl sh wi).1 q).rgsLost, capThermal := (partOf (createPart s p po la wa sl sh wi).1 q).capThermal,
      changedAt := (partOf (createPart s p po la wa sl sh wi).1 q).changedAt, gatesWas := (partOf (createPart s p po la wa sl sh wi).1 q).gatesWas,
      capHostWas := (partOf (createPart s p po la wa sl sh wi).1 q).capHostWas, capThermalWas := (partOf (createPart s p po la wa sl sh wi).1 q).capThermalWas } := by
  have k : KeepsParts (createPart s p po la wa sl sh wi).1 (setPart s p (fullAccounts { state := .forming, ports := po, wings := wi, slots := sl, share := sh, lanes := la, ways := wa })) := by
    unfold createPart; dsimp only
    exact (createResults_keepsParts _ _ _).trans ((takeCap_keepsParts _ _).trans (createWings_keepsParts _ _))
  refine ⟨k.1, k.2, fun q => ?_⟩
  have := k.4 q
  rw [partOf_setPart] at this
  exact this


theorem createPart_boot (s : State) (p po la wa sl sh wi) :
    (createPart s p po la wa sl sh wi).1.boot.valid = s.boot.valid
      ∧ (createPart s p po la wa sl sh wi).1.boot.failKind = s.boot.failKind ∧ (createPart s p po la wa sl sh wi).1.boot.failIndex = s.boot.failIndex := by
  have k : KeepsParts (createPart s p po la wa sl sh wi).1 (setPart s p (fullAccounts { state := .forming, ports := po, wings := wi, slots := sl, share := sh, lanes := la, ways := wa })) := by
    unfold createPart; dsimp only
    exact (createResults_keepsParts _ _ _).trans ((takeCap_keepsParts _ _).trans (createWings_keepsParts _ _))
  exact ⟨k.2, k.3.1, k.3.2⟩

theorem legacyPart_boot (s : State) : (legacyPart s).boot.valid = s.boot.valid ∧ (legacyPart s).boot.failKind = s.boot.failKind
    ∧ (legacyPart s).boot.failIndex = s.boot.failIndex := by
  unfold legacyPart; split
  · exact createPart_boot s 0 255 255 0xFFFF 0xFFFF 1024 (BitVec.allOnes 128)
  · exact ⟨rfl, rfl, rfl⟩

theorem endBringup_ended (s : State) (k i : Nat) : (endBringup s k i).endedBringup k i := by
  unfold endBringup
  generalize hu : ({ s with boot := _ } : State) = u
  have hv : u.boot.valid = true ∧ u.boot.failKind = BitVec.ofNat 4 k ∧ u.boot.failIndex = BitVec.ofNat 12 i := by subst hu; exact ⟨rfl, rfl, rfl⟩
  obtain ⟨l1, l2, l3⟩ := legacyPart_boot u
  have m := deaccession_mild (legacyPart u) 0 0
  unfold State.endedBringup
  rw [m.boot]
  exact ⟨l1.trans hv.1, rfl, l2.trans hv.2.1, l3.trans hv.2.2⟩

theorem setVault_keepsParts (s : State) (c f) : KeepsParts (setVault s c f) s := .of_eq rfl rfl

theorem testFail_keepsParts (s : State) (f) : KeepsParts (testFail s f).1 s ∧ (testFail s f).2 = f.ends := by
  unfold testFail SelfTestFail.ends
  have ht : ∀ (u : State) a r, KeepsParts (report u a r) u := fun u a r => (report_mild _ _ _).keepsParts
  dsimp only
  cases hu : f.unit <;> dsimp only <;> refine ⟨?_, rfl⟩
  all_goals first
    | exact (ht _ _ _).trans (.of_eq rfl rfl)
    | exact (autoRetire_keepsParts _ _).trans ((ht _ _ _).trans (.of_eq rfl rfl))
    | (refine KeepsParts.trans (setVault_keepsParts _ _ _) ((ht _ _ _).trans ?_); exact .of_eq rfl rfl)

theorem testFold (l : List SelfTestFail) (a : State × Option Nat) :
    KeepsParts (l.foldl (fun (a : State × Option Nat) f => let y := testFail a.1 f; (y.1, if a.2.isSome then a.2 else y.2)) a).1 a.1 ∧
    (l.foldl (fun (a : State × Option Nat) f => let y := testFail a.1 f; (y.1, if a.2.isSome then a.2 else y.2)) a).2 =
      (if a.2.isSome then a.2 else l.findSome? SelfTestFail.ends) := by
  induction l generalizing a with
  | nil => exact ⟨.refl _, by cases h : a.2 <;> simp [h]⟩
  | cons f l ih =>
    obtain ⟨h1, h2⟩ := ih (let y := testFail a.1 f; (y.1, if a.2.isSome then a.2 else y.2))
    refine ⟨h1.trans (testFail_keepsParts _ _).1, ?_⟩
    rw [List.foldl_cons, h2]
    simp only [(testFail_keepsParts _ _).2, List.findSome?_cons]
    cases h : a.2 <;> simp
    cases h' : f.ends <;> simp

theorem look_map_on (l : List Nat) (P : Nat) (h : P ∈ l) (hs : l.Pairwise (· < ·)) : find (l.map fun P => (P, (⟨.on, 0⟩ : Dom))) P = some ⟨.on, 0⟩ := by
  induction l with
  | nil => simp at h
  | cons a l ih =>
    simp only [List.map, find]
    simp only [List.pairwise_cons] at hs
    split
    · rfl
    · rename_i hne
      have hm : P ∈ l := by simpa [hne] using h
      have := hs.1 P hm
      rw [if_neg (by omega)]
      exact ih hm hs.2

theorem wings_on (l : List Nat) (s : State) (w : Nat) (h : w ∈ l) :
    wingOf (l.foldl (fun s w => setWing s w { wingOf s w with clock := .running, k := 4, railOn := true, kVolt := 4 }) s) w =
      { wingOf s w with clock := .running, k := 4, railOn := true, kVolt := 4 } := by
  induction l generalizing s with
  | nil => simp at h
  | cons a l ih =>
    by_cases hm : w ∈ l
    · rw [List.foldl_cons, ih _ hm]
      by_cases ha : w = a
      · subst ha; simp [wingOf, setWing]
      · simp [wingOf, setWing, look_put_ne _ _ _ _ _ ha]
    · have ha : w = a := by simpa [hm] using h
      subst ha
      rw [List.foldl_cons]
      have : ∀ (l : List Nat) (u : State), w ∉ l → wingOf (l.foldl (fun s w => setWing s w { wingOf s w with clock := .running, k := 4, railOn := true, kVolt := 4 }) u) w = wingOf u w := by
        intro l
        induction l with
        | nil => intros; rfl
        | cons b l ih2 =>
          intro u hb
          simp only [List.mem_cons, not_or] at hb
          rw [List.foldl_cons, ih2 _ hb.2]
          simp [wingOf, setWing, look_put_ne _ _ _ _ _ hb.1]
      rw [this _ _ hm]
      simp [wingOf, setWing]

theorem assign_one (s : State) (v : Nat) :
    (assignSites s v = none ↔ 4 < (badCsvSites s v).length) ∧
    ∀ t, assignSites s v = some t → KeepsParts t s ∧ (∀ w, badCsvSites t w = badCsvSites s w) ∧ t.fuses = s.fuses ∧ t.flash = s.flash ∧ t.boot = s.boot := by
  unfold assignSites; dsimp only
  constructor
  · split <;> simp_all
  · intro t ht
    split at ht
    · simp at ht
    · injection ht with ht; subst ht
      split
      · exact ⟨.refl _, fun _ => rfl, rfl, rfl, rfl⟩
      · refine ⟨.of_eq rfl rfl, fun w => ?_, rfl, rfl, rfl⟩
        unfold badCsvSites
        rw [vaultOf_setVault]; split
        · subst_vars; rfl
        · rfl

theorem assign_fold (l : List Nat) (a : State × Option Nat) :
    let r := l.foldl (fun (a : State × Option Nat) v => match assignSites a.1 v with
      | some s => (s, a.2)
      | none => (a.1, some (a.2.getD v))) a
    KeepsParts r.1 a.1 ∧ (∀ w, badCsvSites r.1 w = badCsvSites a.1 w) ∧ r.1.fuses = a.1.fuses ∧ r.1.flash = a.1.flash ∧ r.1.boot = a.1.boot ∧
    r.2 = (if a.2.isSome then a.2 else l.find? (fun v => 4 < (badCsvSites a.1 v).length)) := by
  induction l generalizing a with
  | nil => refine ⟨.refl _, fun _ => rfl, rfl, rfl, rfl, ?_⟩; cases h : a.2 <;> simp [h]
  | cons v l ih =>
    have h1 := assign_one a.1 v
    simp only [List.foldl_cons]
    cases hv : assignSites a.1 v with
    | some t =>
      obtain ⟨b1, b2, b3, b4, b5⟩ := h1.2 t hv
      obtain ⟨c1, c2, c3, c4, c6, c5⟩ := ih (t, a.2)
      refine ⟨c1.trans b1, fun w => (c2 w).trans (b2 w), c3.trans b3, c4.trans b4, c6.trans b5, ?_⟩
      have hn : ¬ 4 < (badCsvSites a.1 v).length := fun h => by rw [h1.1.mpr h] at hv; simp at hv
      simp only [b2] at c5
      refine c5.trans ?_
      cases a.2 <;> simp [List.find?_cons, hn]
    | none =>
      obtain ⟨c1, c2, c3, c4, c6, c5⟩ := ih (a.1, some (a.2.getD v))
      refine ⟨c1, c2, c3, c4, c6, ?_⟩
      have hn := h1.1.mp hv
      refine c5.trans ?_
      cases a.2 <;> simp [List.find?_cons, hn]

theorem mapSlice_keepsParts (s : State) (i f) : KeepsParts (mapSlice s i f) s := .of_eq rfl rfl

theorem assignWays_keepsParts (s : State) : KeepsParts (assignWays s).2 s := by
  unfold assignWays; dsimp only
  refine KeepsParts.foldl ?_ _ _
  intro s x; exact mapSlice_keepsParts _ _ _

theorem recorded_congr {s t : State} (h1 : t.fuses = s.fuses) (h2 : t.flash = s.flash) (h3 : t.boot.marks = s.boot.marks) :
    recordedSlices t = recordedSlices s ∧ ∀ i, badWays t i = badWays s i := by
  unfold recordedSlices badWays allMarks; rw [h1, h2, h3]; exact ⟨rfl, fun _ => rfl⟩

theorem assignAll (s : State) :
    KeepsParts (assignAllSites s).1 s ∧ (∀ w, badCsvSites (assignAllSites s).1 w = badCsvSites s w) ∧ (assignAllSites s).1.fuses = s.fuses ∧ (assignAllSites s).1.flash = s.flash ∧
    (assignAllSites s).1.boot = s.boot ∧ (assignAllSites s).2 = (List.range 16).find? (fun v => 4 < (badCsvSites s v).length) := by
  unfold assignAllSites
  generalize List.range 16 = l
  have := assign_fold l (s, none)
  refine ⟨this.1, this.2.1, this.2.2.1, this.2.2.2.1, this.2.2.2.2.1, this.2.2.2.2.2.trans ?_⟩
  simp

theorem domOn_csv (s : State) (m : SMap Dom) (P : Nat) : domOn { s with csvDoms := m } .conservator P = decide (((find m P).getD {}).state = .on) := rfl

/-- What the retirement of the sites of overfull banks keeps: the vaults, the stage, the slice ways on record. -/
def KeepsWays (t s : State) : Prop :=
  t.vaults = s.vaults ∧ t.boot.stage = s.boot.stage ∧ t.boot.valid = s.boot.valid ∧ recordedSlices t = recordedSlices s ∧ ∀ i, badWays t i = badWays s i

theorem curatorLog_keepsWays (s : State) (a b c d : Nat) : KeepsWays (curatorLog s a b c d) s := by
  unfold curatorLog
  dsimp only
  split
  · exact ⟨rfl, rfl, rfl, rfl, fun _ => rfl⟩
  · exact ⟨rfl, rfl, rfl, rfl, fun _ => rfl⟩

theorem autoRecord_core_keepsWays (s : State) (a b c d : Nat) : KeepsWays (autoRecord s (coreSiteRecord a b c d)) s := by
  have hk : ¬ recKind (coreSiteRecord a b c d) = 5 := by
    unfold recKind coreSiteRecord mkRecord bits packWords
    simp only [BitVec.toNat_ofNat, Nat.shiftRight_zero]
    generalize packWords _ = x
    omega
  unfold autoRecord
  split
  · exact ⟨rfl, rfl, rfl, rfl, fun _ => rfl⟩
  · split
    · refine ⟨rfl, rfl, rfl, ?_, fun i => ?_⟩
      · cases hv : s.boot.valid <;> simp [recordedSlices, allMarks, hk, hv]
      · cases hv : s.boot.valid <;> simp [badWays, allMarks, hk, hv]
    · obtain ⟨h1, h2, h3, h4, h5⟩ := curatorLog_keepsWays (addRecord s (coreSiteRecord a b c d)) 0xC 8 0 s.flash.retire.length
      refine ⟨h1, h2, h3, h4.trans ?_, fun i => (h5 i).trans ?_⟩
      · simp [recordedSlices, allMarks, addRecord, List.filter_append, hk]
      · simp [badWays, allMarks, addRecord, List.filter_append, hk]

theorem retireOverfull_keepsWays (s : State) : KeepsWays (retireOverfull s) s := by
  unfold retireOverfull
  generalize allMarks s = l
  induction l generalizing s with
  | nil => exact ⟨rfl, rfl, rfl, rfl, fun _ => rfl⟩
  | cons r l ih =>
    obtain ⟨h1, h2, h3, h4, h5⟩ := ih ((fun s r => if recKind r = 1 then afterRecord s r else s) s r)
    have k : KeepsWays ((fun s r => if recKind r = 1 then afterRecord s r else s) s r) s := by
      beta_reduce
      split
      · rename_i hr
        have n3 : ¬ (recKind r = 3 ∧ 64 ≤ pagesOfBank s (bits (recWord r 2) 0 10) (pageBank (bits (recWord r 3) 0 17))) := by omega
        unfold afterRecord
        rw [if_neg n3]
        split
        · exact autoRecord_core_keepsWays _ _ _ _ _
        · exact ⟨rfl, rfl, rfl, rfl, fun _ => rfl⟩
      · exact ⟨rfl, rfl, rfl, rfl, fun _ => rfl⟩
    exact ⟨h1.trans k.1, h2.trans k.2.1, h3.trans k.2.2.1, h4.trans k.2.2.2.1, fun i => (h5 i).trans (k.2.2.2.2 i)⟩

end Sys2Proof.Machine
end

