-- ==== Sys2Proof/Laws/Commands.lean ====
section
/-! SUPPORT. Each command keeps the canonical form of the memories wherever it ends in a next state (R8, R261, R407 to R411). -/

set_option linter.unusedVariables false

set_option linter.unusedSimpArgs false

set_option linter.unusedTactic false

set_option linter.unreachableTactic false

namespace Sys2Proof.Machine

/-- The three coded stores of the kernels, the shelves and the vaults and the conservators' SRAMs are as before. -/
abbrev sameStores (t s : State) : Prop :=
  t.shelf = s.shelf ∧ t.clm = s.clm ∧ t.dram = s.dram ∧ sramsOf t.csvs = sramsOf s.csvs

@[simp] theorem failSpare_stores (s : State) (stack : Nat) (r : Report) : sameStores (failSpare s stack r) s := by
  unfold failSpare
  dsimp only
  split <;> exact ⟨rfl, rfl, rfl, rfl⟩

@[simp] theorem replanVault_stores (s : State) (v : Nat) : sameStores (replanVault s v) s :=
  ⟨rfl, rfl, rfl, replanVault_srams s v⟩

@[simp] theorem refuseStep_stores (s : State) (p : Nat) (w : Nat × Nat × Checked) : sameStores (refuseStep s p w) s := by
  unfold refuseStep
  dsimp only
  split
  · exact ⟨rfl, rfl, rfl, rfl⟩
  · simp [sameStores]

@[simp] theorem switchRail_stores (s : State) (r : Nat) (on : Bool) : sameStores (switchRail s r on) s := by
  unfold switchRail
  split <;> exact ⟨rfl, rfl, rfl, rfl⟩

@[simp] theorem railsBack_stores (s : State) (k : DomainKind) (i : Nat) : sameStores (railsBack s k i) s := by
  have h (s : State) (l : List Nat) : sameStores (l.foldl (fun s r => switchRail s r true) s) s :=
    ⟨foldl_field State.shelf _ (fun s r => (switchRail_stores s r true).1) _ _,
      foldl_field State.clm _ (fun s r => (switchRail_stores s r true).2.1) _ _,
      foldl_field State.dram _ (fun s r => (switchRail_stores s r true).2.2.1) _ _,
      foldl_srams _ (fun s r => (switchRail_stores s r true).2.2.2) _ _⟩
  exact h s _

@[simp] theorem trainLinks_stores (s : State) (r : TrainReport) : sameStores (trainLinks s r) s := by
  unfold trainLinks
  exact ⟨foldl_field State.shelf _ (fun s l => (setWing_calm s _ _).2.2.2.2.1) _ _,
    foldl_field State.clm _ (fun s l => (setWing_calm s _ _).2.2.2.2.2.1) _ _,
    foldl_field State.dram _ (fun s l => (setWing_calm s _ _).2.2.2.2.2.2.1) _ _,
    foldl_srams _ (fun s l => (setWing_calm s _ _).2.2.2.2.2.2.2.2.2) _ _⟩

@[simp] theorem selectInReset_stores (s : State) (i : JtagInstr) : sameStores (selectInReset s i) s := by
  unfold selectInReset
  split <;> exact ⟨rfl, rfl, rfl, rfl⟩

@[simp] theorem shiftScan_stores (s : State) : sameStores (shiftScan s) s := ⟨rfl, rfl, rfl, rfl⟩

@[simp] theorem ackWrite_stores (s : State) (e x n m pc : Nat) (r : Req) (err : Bool) : sameStores (ackWrite s e x n m pc r err) s := by
  unfold ackWrite
  dsimp only
  (repeat' split) <;> simp [sameStores]

theorem sound_of_sameStores {s t : State} (h : sameStores t s) (hs : s.sound) : t.sound := by
  obtain ⟨h1, h2, h3, h4⟩ := h
  simp only [State.sound] at *; simp_all

theorem withGroups_sound {s t : State} {c : Nat} {ws : List Nat} {f : Option State} (h : withGroups s c ws f = some t) (hs : s.sound)
    (hf : ∀ u, f = some u → u.sound) : t.sound := by
  unfold withGroups at h
  split at h
  · injection h with h; subst h; simp only [State.sound] at *; simp_all
  · split at h
    · cases h
    · exact hf _ h
theorem iteSome_sound {c : Prop} [Decidable c] {a t : State} {f : Option State} (h : (if c then some a else f) = some t) (ha : a.sound)
    (hf : ∀ u, f = some u → u.sound) : t.sound := by
  split at h
  · injection h with h; exact h ▸ ha
  · exact hf _ h
theorem iteBoth_sound {c : Prop} [Decidable c] {t : State} {f g : Option State} (h : (if c then f else g) = some t)
    (hf : f = some t → t.sound) (hg : g = some t → t.sound) : t.sound := by
  split at h
  · exact hf h
  · exact hg h
theorem sound_of_calm {s t : State} (h : calm t s) (hs : s.sound) : t.sound := by
  obtain ⟨_, _, _, _, h1, h2, h3, _, _, h4⟩ := h
  simp only [State.sound] at *; simp_all
theorem sound_of_calmC {s t : State} (h : calmC t s) (hs : s.sound) (ht : sramsOk (sramsOf t.csvs)) : t.sound := by
  obtain ⟨_, _, _, _, h1, h2, h3, _, _⟩ := h
  simp only [State.sound] at *; simp_all
theorem catchUp_sound (s : State) (P g : Nat) (hs : s.sound) : (catchUp s P g).sound :=
  sound_of_calmC (catchUp_calm _ _ _) hs (catchUp_srams_ok _ _ _ hs.2.2.2)
theorem fetchRv_sound (s : State) (P g Q : Nat) (hs : s.sound) : (fetchRv (catchUp s P g) Q).1.sound :=
  sound_of_calm (fetchRv_calm _ _) (catchUp_sound _ _ _ hs)
theorem setCsv_sound {s : State} {P : Nat} {x : Csv} (hs : s.sound) (hx : x.sramsOk) : (setCsv s P x).sound :=
  sound_of_calmC (setCsv_calm _ _ _) hs (setCsv_srams_ok hs.2.2.2 hx)
theorem trapCsv_sound (s : State) (P cause : Nat) (hs : s.sound) : (trapCsv s P cause).sound :=
  sound_of_calmC (trapCsv_calm _ _ _) hs (srams_ok_of (trapCsv_srams _ _ _) hs.2.2.2)
theorem retire_sound {s : State} {h : HartAt} {c : Csv} {n : Nat} (hs : s.sound) (hc : c.sramsOk) : (retire s h c n).sound :=
  setCsv_sound hs hc
theorem jumpTo_sound {s : State} {h : HartAt} (target : Word) (rd : Nat) (hs : s.sound) (hc : h.c.sramsOk) :
    (jumpTo s h target rd).sound := setCsv_sound (x := { setX h.c h.g rd (h.c.pc + BitVec.ofNat 32 h.len) 1 with pc := target, free := h.g + 2 }) hs (setX_sramsOk h.g rd (h.c.pc + BitVec.ofNat 32 h.len) 1 hc)
/-- A hart's command keeps the memories in canonical form where what its instruction does to a conservator in that form does. -/
theorem after_hart_sound (pch : Fin 1024) (j : Fin 4) (op : RvOp) (act : State → HartAt → State) (s : State) (hs : s.sound)
    (ha : ∀ (t : State) (h : HartAt), t.sound → h.c.sramsOk → (act t h).sound) : after State.sound (hart pch j op act s) := by
  have hf := fetchRv_sound s pch.val (cclk s j.val) pch.val hs
  exact after_hart _ _ _ _ _ hs (fun c => trapCsv_sound _ _ _ hf) (fun h e => ha _ h hf (e ▸ csvOf_sramsOk hf.2.2.2 _))
theorem waitUntil_sound (ok : HartAt → Bool) (act : State → HartAt → State) (s : State) (h : HartAt) (hs : s.sound) (hc : h.c.sramsOk)
    (ha : (act s h).sound) : (waitUntil ok act s h).sound := by
  unfold waitUntil
  split
  · exact ha
  · exact setCsv_sound hs hc
theorem sidebandWords_sound (n : Nat) (s : State) (hs : s.sound) : (sidebandWords n s).2.sound := by
  induction n generalizing s with
  | zero => exact hs
  | succ n ih =>
    simp only [sidebandWords]
    exact ih _ (by simp only [State.sound] at *; simp_all [setSideband])
theorem foldTurn_sound {α : Type} (g : Turn → α → Turn) (h : ∀ t x, t.s.sound → (g t x).s.sound) (l : List α) (t : Turn) (hs : t.s.sound) :
    (l.foldl g t).s.sound := by
  induction l generalizing t with
  | nil => exact hs
  | cons a l ih => exact ih _ (h _ _ hs)

@[simp] theorem enterReset_sound (s : State) : (enterReset s).sound := ⟨rfl, rfl, rfl, sramsOk_nil⟩
@[simp] theorem coldShutdown_sound (s : State) (hs : s.sound) : (coldShutdown s).sound := by
  simp only [State.sound, coldShutdown, railsOff] at *
  exact ⟨storeOk_nil _, hs.2.1, storeOk_nil _, hs.2.2.2⟩
theorem accAction_sound (act : Nat) (f : State → Issue → State) (s : State) (i : Issue) (hs : s.sound) (hf : (f s i).sound) :
    (accAction act f s i).sound := by
  unfold accAction
  split
  · exact ⟨by rw [(checked_calm _ _ _ _ _).2.2.2.2.1 rfl]; exact hs.1, by rw [(checked_calm _ _ _ _ _).2.2.2.2.2.1 rfl]; exact hs.2.1, by rw [(checked_calm _ _ _ _ _).2.2.2.2.2.2.1 rfl]; exact hs.2.2.1,
      by rw [(checked_calm _ _ _ _ _).2.2.2.2.2.2.2.2.2 rfl]; exact hs.2.2.2⟩
  · split
    · exact hs
    · exact hf
theorem serveRange_sound (req : Nat) (j : Fin 5) (f : Place → Nat → Req → State → Turn) (q : Place) (r : Req) (s : State) (hs : s.sound)
    (hf : (f q req r s).s.sound) : (serveRange req j f q r s).sound := by
  unfold serveRange
  refine sound_of_calm (endTurn_calm _ _ _) ?_
  split
  · exact sound_of_calm (rangeDone_calm _ _ _ _) hs
  · exact hf
theorem landNow_sound (s : State) (i k : Nat) (e : WbEntry) (hs : s.sound) : (landNow s i k e).sound := by
  simp only [State.sound] at *; simp_all
theorem scrubMend_sound (s : State) (x : Scrubber) (n : Nat) (f : Nat × Nat × Nat) (hs : s.sound) : (scrubMend s x n f).sound := by
  simp only [State.sound] at *; simp_all
theorem endBringup_sound (s : State) (a b : Nat) (hs : s.sound) : (endBringup s a b).sound :=
  ⟨endBringup_shelf_ok _ _ _ hs.1, endBringup_clm_ok _ _ _ hs.2.1, endBringup_dram_ok _ _ _ hs.2.2.1,
    srams_ok_of (endBringup_calm s a b).2.2.2.2.2.2 hs.2.2.2⟩
@[simp] theorem losePower_sound (s : State) : (losePower s).sound := ⟨rfl, rfl, rfl, sramsOk_nil⟩
theorem foldl_sound {α : Type} {g : State → α → State} (h : ∀ s x, s.sound → (g s x).sound) (l : List α) (s : State) (hs : s.sound) :
    (l.foldl g s).sound := by
  induction l generalizing s with
  | nil => exact hs
  | cons a l ih => exact ih _ (h _ _ hs)

theorem execXilonNop_sound (core : CoreRef) (j : Fin 7) (s : State) (hs : s.sound) : after State.sound (execXilonNop core j s) := by
  unfold execXilonNop
  refine after_xilon _ _ _ _ _ (by assumption) (fun i c => ?_) (fun i => ?_) <;> (simp only [State.sound] at *; simp_all)

theorem execAdd_sound (core : CoreRef) (j : Fin 7) (s : State) (hs : s.sound) : after State.sound (execAdd core j s) := by
  unfold execAdd
  refine after_xilon _ _ _ _ _ (by assumption) (fun i c => ?_) (fun i => ?_) <;> (simp only [State.sound] at *; simp_all)

theorem execSub_sound (core : CoreRef) (j : Fin 7) (s : State) (hs : s.sound) : after State.sound (execSub core j s) := by
  unfold execSub
  refine after_xilon _ _ _ _ _ (by assumption) (fun i c => ?_) (fun i => ?_) <;> (simp only [State.sound] at *; simp_all)

theorem execMul_sound (core : CoreRef) (j : Fin 7) (s : State) (hs : s.sound) : after State.sound (execMul core j s) := by
  unfold execMul
  refine after_xilon _ _ _ _ _ (by assumption) (fun i c => ?_) (fun i => ?_) <;> (simp only [State.sound] at *; simp_all)

theorem execMulhiS_sound (core : CoreRef) (j : Fin 7) (s : State) (hs : s.sound) : after State.sound (execMulhiS core j s) := by
  unfold execMulhiS
  refine after_xilon _ _ _ _ _ (by assumption) (fun i c => ?_) (fun i => ?_) <;> (simp only [State.sound] at *; simp_all)

theorem execMulhiU_sound (core : CoreRef) (j : Fin 7) (s : State) (hs : s.sound) : after State.sound (execMulhiU core j s) := by
  unfold execMulhiU
  refine after_xilon _ _ _ _ _ (by assumption) (fun i c => ?_) (fun i => ?_) <;> (simp only [State.sound] at *; simp_all)

theorem execAnd_sound (core : CoreRef) (j : Fin 7) (s : State) (hs : s.sound) : after State.sound (execAnd core j s) := by
  unfold execAnd
  refine after_xilon _ _ _ _ _ (by assumption) (fun i c => ?_) (fun i => ?_) <;> (simp only [State.sound] at *; simp_all)

theorem execOr_sound (core : CoreRef) (j : Fin 7) (s : State) (hs : s.sound) : after State.sound (execOr core j s) := by
  unfold execOr
  refine after_xilon _ _ _ _ _ (by assumption) (fun i c => ?_) (fun i => ?_) <;> (simp only [State.sound] at *; simp_all)

theorem execXor_sound (core : CoreRef) (j : Fin 7) (s : State) (hs : s.sound) : after State.sound (execXor core j s) := by
  unfold execXor
  refine after_xilon _ _ _ _ _ (by assumption) (fun i c => ?_) (fun i => ?_) <;> (simp only [State.sound] at *; simp_all)

theorem execShl_sound (core : CoreRef) (j : Fin 7) (s : State) (hs : s.sound) : after State.sound (execShl core j s) := by
  unfold execShl
  refine after_xilon _ _ _ _ _ (by assumption) (fun i c => ?_) (fun i => ?_) <;> (simp only [State.sound] at *; simp_all)

theorem execShrU_sound (core : CoreRef) (j : Fin 7) (s : State) (hs : s.sound) : after State.sound (execShrU core j s) := by
  unfold execShrU
  refine after_xilon _ _ _ _ _ (by assumption) (fun i c => ?_) (fun i => ?_) <;> (simp only [State.sound] at *; simp_all)

theorem execShrS_sound (core : CoreRef) (j : Fin 7) (s : State) (hs : s.sound) : after State.sound (execShrS core j s) := by
  unfold execShrS
  refine after_xilon _ _ _ _ _ (by assumption) (fun i c => ?_) (fun i => ?_) <;> (simp only [State.sound] at *; simp_all)

theorem execMinS_sound (core : CoreRef) (j : Fin 7) (s : State) (hs : s.sound) : after State.sound (execMinS core j s) := by
  unfold execMinS
  refine after_xilon _ _ _ _ _ (by assumption) (fun i c => ?_) (fun i => ?_) <;> (simp only [State.sound] at *; simp_all)

theorem execMinU_sound (core : CoreRef) (j : Fin 7) (s : State) (hs : s.sound) : after State.sound (execMinU core j s) := by
  unfold execMinU
  refine after_xilon _ _ _ _ _ (by assumption) (fun i c => ?_) (fun i => ?_) <;> (simp only [State.sound] at *; simp_all)

theorem execMaxS_sound (core : CoreRef) (j : Fin 7) (s : State) (hs : s.sound) : after State.sound (execMaxS core j s) := by
  unfold execMaxS
  refine after_xilon _ _ _ _ _ (by assumption) (fun i c => ?_) (fun i => ?_) <;> (simp only [State.sound] at *; simp_all)

theorem execMaxU_sound (core : CoreRef) (j : Fin 7) (s : State) (hs : s.sound) : after State.sound (execMaxU core j s) := by
  unfold execMaxU
  refine after_xilon _ _ _ _ _ (by assumption) (fun i c => ?_) (fun i => ?_) <;> (simp only [State.sound] at *; simp_all)

theorem execFadd_sound (core : CoreRef) (j : Fin 7) (s : State) (hs : s.sound) : after State.sound (execFadd core j s) := by
  unfold execFadd
  refine after_xilon _ _ _ _ _ (by assumption) (fun i c => ?_) (fun i => ?_) <;> (simp only [State.sound] at *; simp_all)

theorem execFsub_sound (core : CoreRef) (j : Fin 7) (s : State) (hs : s.sound) : after State.sound (execFsub core j s) := by
  unfold execFsub
  refine after_xilon _ _ _ _ _ (by assumption) (fun i c => ?_) (fun i => ?_) <;> (simp only [State.sound] at *; simp_all)

theorem execFmul_sound (core : CoreRef) (j : Fin 7) (s : State) (hs : s.sound) : after State.sound (execFmul core j s) := by
  unfold execFmul
  refine after_xilon _ _ _ _ _ (by assumption) (fun i c => ?_) (fun i => ?_) <;> (simp only [State.sound] at *; simp_all)

theorem execFmin_sound (core : CoreRef) (j : Fin 7) (s : State) (hs : s.sound) : after State.sound (execFmin core j s) := by
  unfold execFmin
  refine after_xilon _ _ _ _ _ (by assumption) (fun i c => ?_) (fun i => ?_) <;> (simp only [State.sound] at *; simp_all)

theorem execFmax_sound (core : CoreRef) (j : Fin 7) (s : State) (hs : s.sound) : after State.sound (execFmax core j s) := by
  unfold execFmax
  refine after_xilon _ _ _ _ _ (by assumption) (fun i c => ?_) (fun i => ?_) <;> (simp only [State.sound] at *; simp_all)

theorem execSel_sound (core : CoreRef) (j : Fin 7) (s : State) (hs : s.sound) : after State.sound (execSel core j s) := by
  unfold execSel
  refine after_xilon _ _ _ _ _ (by assumption) (fun i c => ?_) (fun i => ?_) <;> (simp only [State.sound] at *; simp_all)

theorem execAddi_sound (core : CoreRef) (j : Fin 7) (s : State) (hs : s.sound) : after State.sound (execAddi core j s) := by
  unfold execAddi
  refine after_xilon _ _ _ _ _ (by assumption) (fun i c => ?_) (fun i => ?_) <;> (simp only [State.sound] at *; simp_all)

theorem execAndi_sound (core : CoreRef) (j : Fin 7) (s : State) (hs : s.sound) : after State.sound (execAndi core j s) := by
  unfold execAndi
  refine after_xilon _ _ _ _ _ (by assumption) (fun i c => ?_) (fun i => ?_) <;> (simp only [State.sound] at *; simp_all)

theorem execOri_sound (core : CoreRef) (j : Fin 7) (s : State) (hs : s.sound) : after State.sound (execOri core j s) := by
  unfold execOri
  refine after_xilon _ _ _ _ _ (by assumption) (fun i c => ?_) (fun i => ?_) <;> (simp only [State.sound] at *; simp_all)

theorem execXori_sound (core : CoreRef) (j : Fin 7) (s : State) (hs : s.sound) : after State.sound (execXori core j s) := by
  unfold execXori
  refine after_xilon _ _ _ _ _ (by assumption) (fun i c => ?_) (fun i => ?_) <;> (simp only [State.sound] at *; simp_all)

theorem execShli_sound (core : CoreRef) (j : Fin 7) (s : State) (hs : s.sound) : after State.sound (execShli core j s) := by
  unfold execShli
  refine after_xilon _ _ _ _ _ (by assumption) (fun i c => ?_) (fun i => ?_) <;> (simp only [State.sound] at *; simp_all)

theorem execShriU_sound (core : CoreRef) (j : Fin 7) (s : State) (hs : s.sound) : after State.sound (execShriU core j s) := by
  unfold execShriU
  refine after_xilon _ _ _ _ _ (by assumption) (fun i c => ?_) (fun i => ?_) <;> (simp only [State.sound] at *; simp_all)

theorem execShriS_sound (core : CoreRef) (j : Fin 7) (s : State) (hs : s.sound) : after State.sound (execShriS core j s) := by
  unfold execShriS
  refine after_xilon _ _ _ _ _ (by assumption) (fun i c => ?_) (fun i => ?_) <;> (simp only [State.sound] at *; simp_all)

theorem execMovi_sound (core : CoreRef) (j : Fin 7) (s : State) (hs : s.sound) : after State.sound (execMovi core j s) := by
  unfold execMovi
  refine after_xilon _ _ _ _ _ (by assumption) (fun i c => ?_) (fun i => ?_) <;> (simp only [State.sound] at *; simp_all)

theorem execFabs_sound (core : CoreRef) (j : Fin 7) (s : State) (hs : s.sound) : after State.sound (execFabs core j s) := by
  unfold execFabs
  refine after_xilon _ _ _ _ _ (by assumption) (fun i c => ?_) (fun i => ?_) <;> (simp only [State.sound] at *; simp_all)

theorem execFneg_sound (core : CoreRef) (j : Fin 7) (s : State) (hs : s.sound) : after State.sound (execFneg core j s) := by
  unfold execFneg
  refine after_xilon _ _ _ _ _ (by assumption) (fun i c => ?_) (fun i => ?_) <;> (simp only [State.sound] at *; simp_all)

theorem execFfma_sound (core : CoreRef) (j : Fin 7) (s : State) (hs : s.sound) : after State.sound (execFfma core j s) := by
  unfold execFfma
  refine after_xilon _ _ _ _ _ (by assumption) (fun i c => ?_) (fun i => ?_) <;> (simp only [State.sound] at *; simp_all)

theorem execFfmaUb_sound (core : CoreRef) (j : Fin 7) (s : State) (hs : s.sound) : after State.sound (execFfmaUb core j s) := by
  unfold execFfmaUb
  refine after_xilon _ _ _ _ _ (by assumption) (fun i c => ?_) (fun i => ?_) <;> (simp only [State.sound] at *; simp_all)

theorem execFfmaUc_sound (core : CoreRef) (j : Fin 7) (s : State) (hs : s.sound) : after State.sound (execFfmaUc core j s) := by
  unfold execFfmaUc
  refine after_xilon _ _ _ _ _ (by assumption) (fun i c => ?_) (fun i => ?_) <;> (simp only [State.sound] at *; simp_all)

theorem execFfmaUbc_sound (core : CoreRef) (j : Fin 7) (s : State) (hs : s.sound) : after State.sound (execFfmaUbc core j s) := by
  unfold execFfmaUbc
  refine after_xilon _ _ _ _ _ (by assumption) (fun i c => ?_) (fun i => ?_) <;> (simp only [State.sound] at *; simp_all)

theorem execFrcp_sound (core : CoreRef) (j : Fin 7) (s : State) (hs : s.sound) : after State.sound (execFrcp core j s) := by
  unfold execFrcp
  refine after_xilon _ _ _ _ _ (by assumption) (fun i c => ?_) (fun i => ?_) <;> (simp only [State.sound] at *; simp_all)

theorem execFrsqrt_sound (core : CoreRef) (j : Fin 7) (s : State) (hs : s.sound) : after State.sound (execFrsqrt core j s) := by
  unfold execFrsqrt
  refine after_xilon _ _ _ _ _ (by assumption) (fun i c => ?_) (fun i => ?_) <;> (simp only [State.sound] at *; simp_all)

theorem execFexp2_sound (core : CoreRef) (j : Fin 7) (s : State) (hs : s.sound) : after State.sound (execFexp2 core j s) := by
  unfold execFexp2
  refine after_xilon _ _ _ _ _ (by assumption) (fun i c => ?_) (fun i => ?_) <;> (simp only [State.sound] at *; simp_all)

theorem execFlog2_sound (core : CoreRef) (j : Fin 7) (s : State) (hs : s.sound) : after State.sound (execFlog2 core j s) := by
  unfold execFlog2
  refine after_xilon _ _ _ _ _ (by assumption) (fun i c => ?_) (fun i => ?_) <;> (simp only [State.sound] at *; simp_all)

theorem execSetpS_sound (core : CoreRef) (j : Fin 7) (s : State) (hs : s.sound) : after State.sound (execSetpS core j s) := by
  unfold execSetpS
  refine after_xilon _ _ _ _ _ (by assumption) (fun i c => ?_) (fun i => ?_) <;> (simp only [State.sound] at *; simp_all)

theorem execSetpU_sound (core : CoreRef) (j : Fin 7) (s : State) (hs : s.sound) : after State.sound (execSetpU core j s) := by
  unfold execSetpU
  refine after_xilon _ _ _ _ _ (by assumption) (fun i c => ?_) (fun i => ?_) <;> (simp only [State.sound] at *; simp_all)

theorem execSetpF_sound (core : CoreRef) (j : Fin 7) (s : State) (hs : s.sound) : after State.sound (execSetpF core j s) := by
  unfold execSetpF
  refine after_xilon _ _ _ _ _ (by assumption) (fun i c => ?_) (fun i => ?_) <;> (simp only [State.sound] at *; simp_all)

theorem execPlog_sound (core : CoreRef) (j : Fin 7) (s : State) (hs : s.sound) : after State.sound (execPlog core j s) := by
  unfold execPlog
  refine after_xilon _ _ _ _ _ (by assumption) (fun i c => ?_) (fun i => ?_) <;> (simp only [State.sound] at *; simp_all)

theorem execCvt_sound (core : CoreRef) (j : Fin 7) (s : State) (hs : s.sound) : after State.sound (execCvt core j s) := by
  unfold execCvt
  refine after_xilon _ _ _ _ _ (by assumption) (fun i c => ?_) (fun i => ?_) <;> (simp only [State.sound] at *; simp_all)

theorem execUadd_sound (core : CoreRef) (j : Fin 7) (s : State) (hs : s.sound) : after State.sound (execUadd core j s) := by
  unfold execUadd
  refine after_xilon _ _ _ _ _ (by assumption) (fun i c => ?_) (fun i => ?_) <;> (simp only [State.sound] at *; simp_all)

theorem execUsub_sound (core : CoreRef) (j : Fin 7) (s : State) (hs : s.sound) : after State.sound (execUsub core j s) := by
  unfold execUsub
  refine after_xilon _ _ _ _ _ (by assumption) (fun i c => ?_) (fun i => ?_) <;> (simp only [State.sound] at *; simp_all)

theorem execUmul_sound (core : CoreRef) (j : Fin 7) (s : State) (hs : s.sound) : after State.sound (execUmul core j s) := by
  unfold execUmul
  refine after_xilon _ _ _ _ _ (by assumption) (fun i c => ?_) (fun i => ?_) <;> (simp only [State.sound] at *; simp_all)

theorem execUand_sound (core : CoreRef) (j : Fin 7) (s : State) (hs : s.sound) : after State.sound (execUand core j s) := by
  unfold execUand
  refine after_xilon _ _ _ _ _ (by assumption) (fun i c => ?_) (fun i => ?_) <;> (simp only [State.sound] at *; simp_all)

theorem execUor_sound (core : CoreRef) (j : Fin 7) (s : State) (hs : s.sound) : after State.sound (execUor core j s) := by
  unfold execUor
  refine after_xilon _ _ _ _ _ (by assumption) (fun i c => ?_) (fun i => ?_) <;> (simp only [State.sound] at *; simp_all)

theorem execUxor_sound (core : CoreRef) (j : Fin 7) (s : State) (hs : s.sound) : after State.sound (execUxor core j s) := by
  unfold execUxor
  refine after_xilon _ _ _ _ _ (by assumption) (fun i c => ?_) (fun i => ?_) <;> (simp only [State.sound] at *; simp_all)

theorem execUshl_sound (core : CoreRef) (j : Fin 7) (s : State) (hs : s.sound) : after State.sound (execUshl core j s) := by
  unfold execUshl
  refine after_xilon _ _ _ _ _ (by assumption) (fun i c => ?_) (fun i => ?_) <;> (simp only [State.sound] at *; simp_all)

theorem execUshr_sound (core : CoreRef) (j : Fin 7) (s : State) (hs : s.sound) : after State.sound (execUshr core j s) := by
  unfold execUshr
  refine after_xilon _ _ _ _ _ (by assumption) (fun i c => ?_) (fun i => ?_) <;> (simp only [State.sound] at *; simp_all)

theorem execUaddi_sound (core : CoreRef) (j : Fin 7) (s : State) (hs : s.sound) : after State.sound (execUaddi core j s) := by
  unfold execUaddi
  refine after_xilon _ _ _ _ _ (by assumption) (fun i c => ?_) (fun i => ?_) <;> (simp only [State.sound] at *; simp_all)

theorem execUmovi_sound (core : CoreRef) (j : Fin 7) (s : State) (hs : s.sound) : after State.sound (execUmovi core j s) := by
  unfold execUmovi
  refine after_xilon _ _ _ _ _ (by assumption) (fun i c => ?_) (fun i => ?_) <;> (simp only [State.sound] at *; simp_all)

theorem execUGet_sound (core : CoreRef) (j : Fin 7) (s : State) (hs : s.sound) : after State.sound (execUGet core j s) := by
  unfold execUGet
  refine after_xilon _ _ _ _ _ (by assumption) (fun i c => ?_) (fun i => ?_) <;> (simp only [State.sound] at *; simp_all)

theorem execVote_sound (core : CoreRef) (j : Fin 7) (s : State) (hs : s.sound) : after State.sound (execVote core j s) := by
  unfold execVote
  refine after_xilon _ _ _ _ _ (by assumption) (fun i c => ?_) (fun i => ?_) <;> (simp only [State.sound] at *; simp_all)

theorem execShfl_sound (core : CoreRef) (j : Fin 7) (s : State) (hs : s.sound) : after State.sound (execShfl core j s) := by
  unfold execShfl
  refine after_xilon _ _ _ _ _ (by assumption) (fun i c => ?_) (fun i => ?_) <;> (simp only [State.sound] at *; simp_all)

theorem execBr_sound (core : CoreRef) (j : Fin 7) (s : State) (hs : s.sound) : after State.sound (execBr core j s) := by
  unfold execBr
  refine after_xilon _ _ _ _ _ (by assumption) (fun i c => ?_) (fun i => ?_) <;> (simp only [State.sound] at *; simp_all)

theorem execBrx_sound (core : CoreRef) (j : Fin 7) (s : State) (hs : s.sound) : after State.sound (execBrx core j s) := by
  unfold execBrx
  refine after_xilon _ _ _ _ _ (by assumption) (fun i c => ?_) (fun i => ?_) <;> (simp only [State.sound] at *; simp_all)

theorem execExit_sound (core : CoreRef) (j : Fin 7) (s : State) (hs : s.sound) : after State.sound (execExit core j s) := by
  unfold execExit
  refine after_xilon _ _ _ _ _ (by assumption) (fun i c => ?_) (fun i => ?_) <;> (simp only [State.sound] at *; simp_all)

theorem execTrap_sound (core : CoreRef) (j : Fin 7) (s : State) (hs : s.sound) : after State.sound (execTrap core j s) := by
  unfold execTrap
  refine after_xilon _ _ _ _ _ (by assumption) (fun i c => ?_) (fun i => ?_) <;> (simp only [State.sound] at *; simp_all)

theorem execTourSync_sound (core : CoreRef) (j : Fin 7) (s : State) (hs : s.sound) : after State.sound (execTourSync core j s) := by
  unfold execTourSync
  refine after_xilon _ _ _ _ _ (by assumption) (fun i c => ?_) (fun i => ?_) <;> (simp only [State.sound] at *; simp_all)

theorem execTourYield_sound (core : CoreRef) (j : Fin 7) (s : State) (hs : s.sound) : after State.sound (execTourYield core j s) := by
  unfold execTourYield
  refine after_xilon _ _ _ _ _ (by assumption) (fun i c => ?_) (fun i => ?_) <;> (simp only [State.sound] at *; simp_all)

theorem execFence_sound (core : CoreRef) (j : Fin 7) (s : State) (hs : s.sound) : after State.sound (execFence core j s) := by
  unfold execFence
  refine after_xilon _ _ _ _ _ (by assumption) (fun i c => ?_) (fun i => ?_) <;> (simp only [State.sound] at *; simp_all)

theorem execBeatRead_sound (core : CoreRef) (j : Fin 7) (s : State) (hs : s.sound) : after State.sound (execBeatRead core j s) := by
  unfold execBeatRead
  refine after_xilon _ _ _ _ _ (by assumption) (fun i c => ?_) (fun i => ?_) <;> (simp only [State.sound] at *; simp_all)

theorem execBeatWait_sound (core : CoreRef) (j : Fin 7) (s : State) (hs : s.sound) : after State.sound (execBeatWait core j s) := by
  unfold execBeatWait
  refine after_xilon _ _ _ _ _ (by assumption) (fun i c => ?_) (fun i => ?_) <;> (simp only [State.sound] at *; simp_all)

theorem execLdL_sound (core : CoreRef) (j : Fin 7) (s : State) (hs : s.sound) : after State.sound (execLdL core j s) := by
  unfold execLdL
  refine after_xilon _ _ _ _ _ (by assumption) (fun i c => ?_) (fun i => ?_) <;> (simp only [State.sound] at *; simp_all)

theorem execStL_sound (core : CoreRef) (j : Fin 7) (s : State) (hs : s.sound) : after State.sound (execStL core j s) := by
  unfold execStL
  refine after_xilon _ _ _ _ _ (by assumption) (fun i c => ?_) (fun i => ?_) <;> (simp only [State.sound] at *; simp_all)

theorem execAtomL_sound (core : CoreRef) (j : Fin 7) (s : State) (hs : s.sound) : after State.sound (execAtomL core j s) := by
  unfold execAtomL
  refine after_xilon _ _ _ _ _ (by assumption) (fun i c => ?_) (fun i => ?_) <;> (simp only [State.sound] at *; simp_all)

theorem execLdS_sound (core : CoreRef) (j : Fin 7) (s : State) (hs : s.sound) : after State.sound (execLdS core j s) := by
  unfold execLdS
  refine after_xilon _ _ _ _ _ (by assumption) (fun i c => ?_) (fun i => ?_) <;> (simp only [State.sound] at *; simp_all)

theorem execStS_sound (core : CoreRef) (j : Fin 7) (s : State) (hs : s.sound) : after State.sound (execStS core j s) := by
  unfold execStS
  refine after_xilon _ _ _ _ _ (by assumption) (fun i c => ?_) (fun i => ?_) <;> (simp only [State.sound] at *; simp_all)

theorem execAtomS_sound (core : CoreRef) (j : Fin 7) (s : State) (hs : s.sound) : after State.sound (execAtomS core j s) := by
  unfold execAtomS
  refine after_xilon _ _ _ _ _ (by assumption) (fun i c => ?_) (fun i => ?_) <;> (simp only [State.sound] at *; simp_all)

theorem execLdG_sound (core : CoreRef) (j : Fin 7) (s : State) (hs : s.sound) : after State.sound (execLdG core j s) := by
  unfold execLdG
  refine after_xilon _ _ _ _ _ (by assumption) (fun i c => ?_) (fun i => ?_) <;> (simp only [State.sound] at *; simp_all)

theorem execStG_sound (core : CoreRef) (j : Fin 7) (s : State) (hs : s.sound) : after State.sound (execStG core j s) := by
  unfold execStG
  refine after_xilon _ _ _ _ _ (by assumption) (fun i c => ?_) (fun i => ?_) <;> (simp only [State.sound] at *; simp_all)

theorem execAtomG_sound (core : CoreRef) (j : Fin 7) (s : State) (hs : s.sound) : after State.sound (execAtomG core j s) := by
  unfold execAtomG
  refine after_xilon _ _ _ _ _ (by assumption) (fun i c => ?_) (fun i => ?_) <;> (simp only [State.sound] at *; simp_all)

theorem execRedG_sound (core : CoreRef) (j : Fin 7) (s : State) (hs : s.sound) : after State.sound (execRedG core j s) := by
  unfold execRedG
  refine after_xilon _ _ _ _ _ (by assumption) (fun i c => ?_) (fun i => ?_) <;> (simp only [State.sound] at *; simp_all)

theorem execMeshPut_sound (core : CoreRef) (j : Fin 7) (s : State) (hs : s.sound) : after State.sound (execMeshPut core j s) := by
  unfold execMeshPut
  refine after_xilon _ _ _ _ _ (by assumption) (fun i c => ?_) (fun i => ?_) <;> (simp only [State.sound] at *; simp_all)

theorem execMxTile_sound (core : CoreRef) (j : Fin 7) (s : State) (hs : s.sound) : after State.sound (execMxTile core j s) := by
  unfold execMxTile
  refine after_xilon _ _ _ _ _ (by assumption) (fun i c => ?_) (fun i => ?_) <;> (simp only [State.sound] at *; simp_all)

theorem execMxRun_sound (core : CoreRef) (j : Fin 7) (s : State) (hs : s.sound) : after State.sound (execMxRun core j s) := by
  unfold execMxRun
  refine after_xilon _ _ _ _ _ (by assumption) (fun i c => ?_) (fun i => ?_) <;> (simp only [State.sound] at *; simp_all)

theorem execMxAccClear_sound (core : CoreRef) (j : Fin 7) (s : State) (hs : s.sound) : after State.sound (execMxAccClear core j s) := by
  unfold execMxAccClear
  refine after_xilon _ _ _ _ _ hs (fun i c => ?_) (fun i => accAction_sound _ _ _ _ hs ?_) <;> (first | assumption | (simp only [State.sound] at *; simp_all; done) | (simp only [State.sound] at *; (repeat' split) <;> simp_all))

theorem execMxAccStore_sound (core : CoreRef) (j : Fin 7) (s : State) (hs : s.sound) : after State.sound (execMxAccStore core j s) := by
  unfold execMxAccStore
  refine after_xilon _ _ _ _ _ hs (fun i c => ?_) (fun i => accAction_sound _ _ _ _ hs ?_) <;> (first | assumption | (simp only [State.sound] at *; simp_all; done) | (simp only [State.sound] at *; (repeat' split) <;> simp_all))

theorem execMxAccLoad_sound (core : CoreRef) (j : Fin 7) (s : State) (hs : s.sound) : after State.sound (execMxAccLoad core j s) := by
  unfold execMxAccLoad
  refine after_xilon _ _ _ _ _ hs (fun i c => ?_) (fun i => accAction_sound _ _ _ _ hs ?_) <;> (first | assumption | (simp only [State.sound] at *; simp_all; done) | (simp only [State.sound] at *; (repeat' split) <;> simp_all))

theorem execShadowArmed_sound (core : CoreRef) (j : Fin 7) (s : State) (hs : s.sound) : after State.sound (execShadowArmed core j s) := by
  unfold execShadowArmed
  refine after_atCore _ _ _ _ (by assumption) (fun id c g t h => ?_); (try dsimp only at h); (try simp only [when'] at h); (repeat' split at h) <;> first | (cases h; done) | (injection h with h; subst h; (simp only [State.sound] at *; simp_all))

theorem execArrayRunEntry_sound (core : CoreRef) (j : Fin 7) (s : State) (hs : s.sound) : after State.sound (execArrayRunEntry core j s) := by
  unfold execArrayRunEntry
  refine after_atCore _ _ _ _ (by assumption) (fun id c g t h => ?_); (try dsimp only at h); (try simp only [when'] at h); (repeat' split at h) <;> first | (cases h; done) | (injection h with h; subst h; (simp only [State.sound] at *; simp_all))

theorem execArrayTileWrite_sound (core : CoreRef) (j : Fin 7) (s : State) (hs : s.sound) : after State.sound (execArrayTileWrite core j s) := by
  unfold execArrayTileWrite
  refine after_atCore _ _ _ _ (by assumption) (fun id c g t h => ?_); (try dsimp only at h); (try simp only [when'] at h); (repeat' split at h) <;> first | (cases h; done) | (injection h with h; subst h; (simp only [State.sound] at *; simp_all))

theorem execAccLoadComplete_sound (core : CoreRef) (j : Fin 7) (s : State) (hs : s.sound) : after State.sound (execAccLoadComplete core j s) := by
  unfold execAccLoadComplete
  refine after_atCore _ _ _ _ (by assumption) (fun id c g t h => ?_); (try dsimp only at h); (try simp only [when'] at h); (repeat' split at h) <;> first | (cases h; done) | (injection h with h; subst h; (simp only [State.sound] at *; simp_all))

theorem execMxEnc_sound (core : CoreRef) (j : Fin 7) (s : State) (hs : s.sound) : after State.sound (execMxEnc core j s) := by
  unfold execMxEnc
  refine after_xilon _ _ _ _ _ (by assumption) (fun i c => ?_) (fun i => ?_) <;> (simp only [State.sound] at *; simp_all)

theorem execMxDec_sound (core : CoreRef) (j : Fin 7) (s : State) (hs : s.sound) : after State.sound (execMxDec core j s) := by
  unfold execMxDec
  refine after_xilon _ _ _ _ _ (by assumption) (fun i c => ?_) (fun i => ?_) <;> (simp only [State.sound] at *; simp_all)

theorem execCollectorReport_sound (stack : Fin 8) (soft : Option Report) (s : State) (hs : s.sound) : after State.sound (execCollectorReport stack soft s) := by
  unfold execCollectorReport
  dsimp only
  split
  · exact after_onlyIf _ hs (sound_of_calm (calm_trans (softFault_calm _ _ _) (report_calm _ _ _)) hs)
  · split
    · refine after_onlyIf _ hs ?_; (simp only [State.sound] at *; simp_all)
    · exact (after_next _).mpr hs

theorem execCollectorEntryClose_sound (stack : Fin 8) (s : State) (hs : s.sound) : after State.sound (execCollectorEntryClose stack s) := by
  unfold execCollectorEntryClose
  refine after_onlyIf _ (by assumption) ?_; (simp only [State.sound] at *; simp_all)

theorem execLogEntryWrite_sound (stack : Fin 8) (s : State) (hs : s.sound) : after State.sound (execLogEntryWrite stack s) := by
  unfold execLogEntryWrite
  (try dsimp only); (repeat' split) <;> first | exact (after_next _).mpr (by assumption) | (rw [after_next]; (simp only [State.sound] at *; simp_all)) | exact after_refused _ | exact after_fault _ | (refine after_onlyIf _ (by assumption) ?_; (simp only [State.sound] at *; simp_all))

theorem execErrLogHeadWrite_sound (value : BitVec 32) (s : State) (hs : s.sound) : after State.sound (execErrLogHeadWrite value s) := by
  unfold execErrLogHeadWrite
  refine after_onlyIf _ (by assumption) ?_; (simp only [State.sound] at *; simp_all)

theorem execErrSrcSelWrite_sound (stack : Fin 8) (value : BitVec 32) (s : State) (hs : s.sound) : after State.sound (execErrSrcSelWrite stack value s) := by
  unfold execErrSrcSelWrite
  refine after_onlyIf _ (by assumption) ?_; (simp only [State.sound] at *; simp_all)

theorem execErrSrcClr_sound (stack : Fin 8) (value : BitVec 32) (s : State) (hs : s.sound) : after State.sound (execErrSrcClr stack value s) := by
  unfold execErrSrcClr
  refine after_onlyIf _ (by assumption) ?_; (simp only [State.sound] at *; simp_all)

theorem execInstructionResultWrite_sound (core : CoreRef) (j : Fin 7) (s : State) (hs : s.sound) : after State.sound (execInstructionResultWrite core j s) := by
  unfold execInstructionResultWrite
  refine after_atCore _ _ _ _ (by assumption) (fun id c g t h => ?_); (try dsimp only at h); (try simp only [when'] at h); (repeat' split at h) <;> first | (cases h; done) | (injection h with h; subst h; (simp only [State.sound] at *; simp_all))

theorem execTourSwapStart_sound (core : CoreRef) (j : Fin 7) (crcRead crcWrite : List Nat) (s : State) (hs : s.sound) : after State.sound (execTourSwapStart core j crcRead crcWrite s) := by
  unfold execTourSwapStart
  refine after_atCore _ _ _ _ hs (fun id c g t h => ?_)
  dsimp only at h
  split at h
  · split at h
    · injection h with h; subst h; exact sound_of_calm (setCore_calm _ _ _) hs
    · injection h with h; subst h; exact sound_of_calm (setCore_calm _ _ _) hs
    · refine iteSome_sound h (sound_of_calm (swapUnreachable_calm _ _ _ _ _) hs) (fun u hu => ?_)
      refine iteBoth_sound hu (fun hu => ?_) (fun hu => ?_)
      · split at hu
        · cases hu
        · injection hu with hu; subst hu
          exact sound_of_calm (calm_trans (meetGroups_calm _ _ _) (setCore_calm _ _ _)) hs
      · injection hu with hu; subst hu
        split <;> (first | assumption | (simp only [State.sound] at *; simp_all; done) | (simp only [State.sound] at *; (repeat' split) <;> simp_all))
  · cases h

theorem execTourSwapComplete_sound (core : CoreRef) (j : Fin 7) (s : State) (hs : s.sound) : after State.sound (execTourSwapComplete core j s) := by
  unfold execTourSwapComplete
  refine after_atCore _ _ _ _ (by assumption) (fun id c g t h => ?_); (try dsimp only at h); (try simp only [when'] at h); (repeat' split at h) <;> first | (cases h; done) | (injection h with h; subst h; (simp only [State.sound] at *; simp_all))

theorem execChannelTransferStart_sound (core : CoreRef) (j : Fin 7) (write : Bool) (crcBad : List Nat) (s : State) (hs : s.sound) : after State.sound (execChannelTransferStart core j write crcBad s) := by
  unfold execChannelTransferStart
  refine after_atCore _ _ _ _ hs (fun id c g t h => ?_)
  cases write with
  | false =>
    simp only [Bool.false_eq_true, if_false] at h
    split at h
    · cases h
    · split at h
      · cases h
      · refine withGroups_sound h hs (fun u hu => ?_)
        injection hu with hu; subst hu; (first | assumption | (simp only [State.sound] at *; simp_all; done) | (simp only [State.sound] at *; (repeat' split) <;> simp_all))
  | true =>
    simp only [if_true] at h
    split at h
    · cases h
    · split at h
      · cases h
      · refine withGroups_sound h hs (fun u hu => ?_)
        injection hu with hu; subst hu; (first | assumption | (simp only [State.sound] at *; simp_all; done) | (simp only [State.sound] at *; (repeat' split) <;> simp_all))

theorem execMergeBufferTimeout_sound (core : CoreRef) (j : Fin 7) (s : State) (hs : s.sound) : after State.sound (execMergeBufferTimeout core j s) := by
  unfold execMergeBufferTimeout
  refine after_atCore _ _ _ _ (by assumption) (fun id c g t h => ?_); (try dsimp only at h); (try simp only [when'] at h); (repeat' split at h) <;> first | (cases h; done) | (injection h with h; subst h; (simp only [State.sound] at *; simp_all))

theorem execShelfRmwRead_sound (core : CoreRef) (j : Fin 7) (crcBad : Bool) (s : State) (hs : s.sound) : after State.sound (execShelfRmwRead core j crcBad s) := by
  unfold execShelfRmwRead
  refine after_atCore _ _ _ _ hs (fun id c g t h => ?_)
  split at h
  · cases h
  · split at h
    · cases h
    · refine withGroups_sound h hs (fun u hu => ?_)
      injection hu with hu; subst hu; (first | assumption | (simp only [State.sound] at *; simp_all; done) | (simp only [State.sound] at *; (repeat' split) <;> simp_all))

theorem execShelfRmwWrite_sound (core : CoreRef) (j : Fin 7) (crcBad : Bool) (s : State) (hs : s.sound) : after State.sound (execShelfRmwWrite core j crcBad s) := by
  unfold execShelfRmwWrite
  refine after_atCore _ _ _ _ hs (fun id c g t h => ?_)
  split at h
  · cases h
  · split at h
    · refine withGroups_sound h hs (fun u hu => ?_)
      injection hu with hu; subst hu; (first | assumption | (simp only [State.sound] at *; simp_all; done) | (simp only [State.sound] at *; (repeat' split) <;> simp_all))
    · split at h
      · split at h
        · cases h
        · refine withGroups_sound h hs (fun u hu => ?_)
          injection hu with hu; subst hu; (first | assumption | (simp only [State.sound] at *; simp_all; done) | (simp only [State.sound] at *; (repeat' split) <;> simp_all))
      · cases h

theorem execEgressTake_sound (core : CoreRef) (j : Fin 7) (s : State) (hs : s.sound) : after State.sound (execEgressTake core j s) := by
  unfold execEgressTake
  refine after_atCore _ _ _ _ hs (fun id c g t h => ?_)
  dsimp only at h
  split at h
  · cases h
  · split at h
    · cases h
    · simp only [Option.map_eq_some_iff] at h; obtain ⟨_, _, rfl⟩ := h; (first | assumption | (simp only [State.sound] at *; simp_all; done) | (simp only [State.sound] at *; (repeat' split) <;> simp_all))
    · simp only [Option.map_eq_some_iff] at h; obtain ⟨_, _, rfl⟩ := h; (first | assumption | (simp only [State.sound] at *; simp_all; done) | (simp only [State.sound] at *; (repeat' split) <;> simp_all))

theorem execGlobalLoadReturn_sound (core : CoreRef) (j : Fin 7) (s : State) (hs : s.sound) : after State.sound (execGlobalLoadReturn core j s) := by
  unfold execGlobalLoadReturn
  refine after_atCore _ _ _ _ (by assumption) (fun id c g t h => ?_); (try dsimp only at h); (try simp only [when'] at h); (repeat' split at h) <;> first | (cases h; done) | (injection h with h; subst h; (simp only [State.sound] at *; simp_all))

theorem execPostedWriteAck_sound (req : Nat) (j : Fin 7) (s : State) (hs : s.sound) : after State.sound (execPostedWriteAck req j s) := by
  unfold execPostedWriteAck
  (try dsimp only); (repeat' split) <;> first | exact (after_next _).mpr (by assumption) | (rw [after_next]; (simp only [State.sound] at *; simp_all)) | exact after_refused _ | exact after_fault _ | (refine after_onlyIf _ (by assumption) ?_; (simp only [State.sound] at *; simp_all))

theorem execMeshPutDelivery_sound (flit : Nat) (j : Fin 7) (s : State) (hs : s.sound) : after State.sound (execMeshPutDelivery flit j s) := by
  unfold execMeshPutDelivery
  (try dsimp only); (repeat' split) <;> first | exact (after_next _).mpr (by assumption) | (rw [after_next]; (simp only [State.sound] at *; simp_all)) | exact after_refused _ | exact after_fault _ | (refine after_onlyIf _ (by assumption) ?_; (simp only [State.sound] at *; simp_all))

theorem execGatewayRequest_sound (cab : CabRef) (j : Fin 7) (s : State) (hs : s.sound) : after State.sound (execGatewayRequest cab j s) := by
  unfold execGatewayRequest
  (try dsimp only); (repeat' split) <;> first | exact (after_next _).mpr (by assumption) | (rw [after_next]; (simp only [State.sound] at *; simp_all)) | exact after_refused _ | exact after_fault _ | (refine after_onlyIf _ (by assumption) ?_; (simp only [State.sound] at *; simp_all))

theorem execIdleCheckPass_sound (site : SiteRef) (failGa failUl : Nat) (s : State) (hs : s.sound) : after State.sound (execIdleCheckPass site failGa failUl s) := by
  unfold execIdleCheckPass
  refine after_onlyIf _ (by assumption) ?_; (simp only [State.sound] at *; simp_all)

theorem execIdleCheckLate_sound (site : SiteRef) (s : State) (hs : s.sound) : after State.sound (execIdleCheckLate site s) := by
  unfold execIdleCheckLate
  refine after_onlyIf _ (by assumption) ?_; (simp only [State.sound] at *; simp_all)

theorem execRotationSlotTake_sound (req : Nat) (j : Fin 5) (s : State) (hs : s.sound) : after State.sound (execRotationSlotTake req j s) := by
  unfold execRotationSlotTake
  (try dsimp only); (repeat' split) <;> first | exact (after_next _).mpr (by assumption) | (rw [after_next]; (simp only [State.sound] at *; simp_all)) | exact after_refused _ | exact after_fault _ | (refine after_onlyIf _ (by assumption) ?_; (simp only [State.sound] at *; simp_all))

theorem execHostPortReset_sound (port : Fin 8) (cause : BitVec 4) (s : State) (hs : s.sound) : after State.sound (execHostPortReset port cause s) := by
  unfold execHostPortReset
  refine after_onlyIf _ (by assumption) ?_; (simp only [State.sound] at *; simp_all)

theorem execStackReset_sound (stack : Fin 8) (cause : BitVec 4) (s : State) (hs : s.sound) : after State.sound (execStackReset stack cause s) := by
  unfold execStackReset
  refine after_onlyIf _ (by assumption) ?_; (simp only [State.sound] at *; simp_all)

theorem execVaultReset_sound (vault : Fin 16) (cause : BitVec 4) (s : State) (hs : s.sound) : after State.sound (execVaultReset vault cause s) := by
  unfold execVaultReset
  refine after_onlyIf _ (by assumption) ?_; (simp only [State.sound] at *; simp_all)

theorem execCuratorReset_sound (cause : BitVec 4) (s : State) (hs : s.sound) : after State.sound (execCuratorReset cause s) := by
  unfold execCuratorReset
  refine after_onlyIf _ (by assumption) ?_; (simp only [State.sound] at *; simp_all)

theorem execDomainResetEnd_sound (kind : DomainKind) (index : Nat) (s : State) (hs : s.sound) : after State.sound (execDomainResetEnd kind index s) := by
  unfold execDomainResetEnd
  split
  · exact after_onlyIf _ hs (sound_of_sameStores (railsBack_stores _ _ _) hs)
  · exact (after_next _).mpr hs

theorem execPcieFunctionLevelReset_sound (port : Fin 8) (s : State) (hs : s.sound) : after State.sound (execPcieFunctionLevelReset port s) := by
  unfold execPcieFunctionLevelReset
  refine after_onlyIf _ (by assumption) ?_; (simp only [State.sound] at *; simp_all)

theorem execPcieHotReset_sound (port : Fin 8) (s : State) (hs : s.sound) : after State.sound (execPcieHotReset port s) := by
  unfold execPcieHotReset
  refine after_onlyIf _ (by assumption) ?_; (simp only [State.sound] at *; simp_all)

theorem execPcieLinkDown_sound (port : Fin 8) (s : State) (hs : s.sound) : after State.sound (execPcieLinkDown port s) := by
  unfold execPcieLinkDown
  refine after_onlyIf _ (by assumption) ?_; (simp only [State.sound] at *; simp_all)

theorem execPcieLinkUp_sound (port : Fin 8) (rate : BitVec 3) (width : BitVec 5) (flit : Bool) (s : State) (hs : s.sound) : after State.sound (execPcieLinkUp port rate width flit s) := by
  unfold execPcieLinkUp
  refine after_onlyIf _ (by assumption) ?_; (simp only [State.sound] at *; simp_all)

theorem execPerstRelease_sound (port : Fin 8) (s : State) (hs : s.sound) : after State.sound (execPerstRelease port s) := by
  unfold execPerstRelease
  rw [after_next]; (simp only [State.sound] at *; simp_all)

theorem execDeaccessionRailShutdown_sound (s : State) (hs : s.sound) : after State.sound (execDeaccessionRailShutdown s) := by
  unfold execDeaccessionRailShutdown
  exact after_onlyIf _ hs (coldShutdown_sound _ hs)

theorem execTripRailShutdown_sound (s : State) (hs : s.sound) : after State.sound (execTripRailShutdown s) := by
  unfold execTripRailShutdown
  exact after_onlyIf _ hs (coldShutdown_sound _ hs)

theorem execRailFault_sound (rail : Fin 210) (s : State) (hs : s.sound) : after State.sound (execRailFault rail s) := by
  unfold execRailFault
  refine after_onlyIf _ hs ?_
  dsimp only
  split
  · simp only [State.sound] at *
    refine ⟨resetFor_shelf_ok _ _ _ _ ?_, resetFor_clm_ok _ _ _ _ ?_, resetFor_dram_ok _ _ _ _ ?_, ?_⟩ <;> (unfold dropRail; simp_all)
  · exact losePower_sound _

theorem execSliceLoad_sound (slice : Fin 512) (req : Nat) (j : Fin 5) (s : State) (hs : s.sound) : after State.sound (execSliceLoad slice req j s) := by
  unfold execSliceLoad
  refine after_atSlice _ _ _ _ _ _ (by assumption) (fun q r => ?_) (fun i b r => ?_) (fun i a b r => ?_) <;> (simp only [State.sound] at *; simp_all)

theorem execSliceStore_sound (slice : Fin 512) (req : Nat) (j : Fin 5) (s : State) (hs : s.sound) : after State.sound (execSliceStore slice req j s) := by
  unfold execSliceStore
  refine after_atSlice _ _ _ _ _ _ (by assumption) (fun q r => ?_) (fun i b r => ?_) (fun i a b r => ?_) <;> (simp only [State.sound] at *; simp_all)

theorem execSliceAtomic_sound (slice : Fin 512) (req : Nat) (j : Fin 5) (s : State) (hs : s.sound) : after State.sound (execSliceAtomic slice req j s) := by
  unfold execSliceAtomic
  refine after_atSlice _ _ _ _ _ _ (by assumption) (fun q r => ?_) (fun i b r => ?_) (fun i a b r => ?_) <;> (simp only [State.sound] at *; simp_all)

theorem execSliceReduction_sound (slice : Fin 512) (req : Nat) (j : Fin 5) (s : State) (hs : s.sound) : after State.sound (execSliceReduction slice req j s) := by
  unfold execSliceReduction
  refine after_atSlice _ _ _ _ _ _ (by assumption) (fun q r => ?_) (fun i b r => ?_) (fun i a b r => ?_) <;> (simp only [State.sound] at *; simp_all)

theorem execSliceFillComplete_sound (slice : Fin 512) (j : Fin 5) (s : State) (hs : s.sound) : after State.sound (execSliceFillComplete slice j s) := by
  unfold execSliceFillComplete
  dsimp only
  split
  · exact (after_next _).mpr hs
  · refine after_onlyIf _ hs (foldl_sound (fun s x h => sound_of_calm (answerWaiter_calm _ _ _ _ _ _) h) _ _ ?_)
    split <;> split <;> (first
      | exact sound_of_calm (calm_trans (raiseFault_calm _ _ _) (calm_trans (vaultReport_calm _ _ _ _ _) (calm_trans (poisonFill_calm _ _) (setSlice_calm _ _ _)))) hs
      | exact sound_of_calm (calm_trans (vaultReport_calm _ _ _ _ _) (calm_trans (poisonFill_calm _ _) (setSlice_calm _ _ _))) hs
      | exact sound_of_calm (calm_trans (raiseFault_calm _ _ _) (calm_trans (vaultReport_calm _ _ _ _ _) (setSlice_calm _ _ _))) hs
      | exact sound_of_calm (calm_trans (vaultReport_calm _ _ _ _ _) (setSlice_calm _ _ _)) hs)

theorem execWriteBackAck_sound (slice : Fin 512) (j : Fin 5) (s : State) (hs : s.sound) : after State.sound (execWriteBackAck slice j s) := by
  unfold execWriteBackAck
  (try dsimp only); (repeat' split) <;> first | exact (after_next _).mpr (by assumption) | (rw [after_next]; (simp only [State.sound] at *; simp_all)) | exact after_refused _ | exact after_fault _ | (refine after_onlyIf _ (by assumption) ?_; (simp only [State.sound] at *; simp_all))

theorem execRangePrefetch_sound (slice : Fin 512) (req : Nat) (j : Fin 5) (s : State) (hs : s.sound) : after State.sound (execRangePrefetch slice req j s) := by
  unfold execRangePrefetch
  refine after_atSlice _ _ _ _ _ _ hs (fun q r => serveRange_sound _ _ _ _ _ _ hs ?_) (fun i b r => ?_) (fun i a b r => ?_) <;> (first | assumption | (simp only [State.sound] at *; simp_all; done) | (simp only [State.sound] at *; (repeat' split) <;> simp_all))

theorem execRangeFlush_sound (slice : Fin 512) (req : Nat) (j : Fin 5) (s : State) (hs : s.sound) : after State.sound (execRangeFlush slice req j s) := by
  unfold execRangeFlush
  refine after_atSlice _ _ _ _ _ _ hs (fun q r => serveRange_sound _ _ _ _ _ _ hs ?_) (fun i b r => ?_) (fun i a b r => ?_) <;> (first | assumption | (simp only [State.sound] at *; simp_all; done) | (simp only [State.sound] at *; (repeat' split) <;> simp_all))

theorem execRangeInvalidate_sound (slice : Fin 512) (req : Nat) (j : Fin 5) (s : State) (hs : s.sound) : after State.sound (execRangeInvalidate slice req j s) := by
  unfold execRangeInvalidate
  refine after_atSlice _ _ _ _ _ _ hs (fun q r => serveRange_sound _ _ _ _ _ _ hs ?_) (fun i b r => ?_) (fun i a b r => ?_) <;> (first | assumption | (simp only [State.sound] at *; simp_all; done) | (simp only [State.sound] at *; (repeat' split) <;> simp_all))

theorem execRangeDead_sound (slice : Fin 512) (req : Nat) (j : Fin 5) (s : State) (hs : s.sound) : after State.sound (execRangeDead slice req j s) := by
  unfold execRangeDead
  refine after_atSlice _ _ _ _ _ _ hs (fun q r => serveRange_sound _ _ _ _ _ _ hs ?_) (fun i b r => ?_) (fun i a b r => ?_) <;> (first | assumption | (simp only [State.sound] at *; simp_all; done) | (simp only [State.sound] at *; (repeat' split) <;> simp_all))

theorem execControllerRequestArrival_sound (pch : Fin 1024) (j : Fin 5) (s : State) (hs : s.sound) : after State.sound (execControllerRequestArrival pch j s) := by
  unfold execControllerRequestArrival
  (try dsimp only); (repeat' split) <;> first | exact (after_next _).mpr (by assumption) | (rw [after_next]; (simp only [State.sound] at *; simp_all)) | exact after_refused _ | exact after_fault _ | (refine after_onlyIf _ (by assumption) ?_; (simp only [State.sound] at *; simp_all))

theorem execDramWindow_sound (pch : Fin 1024) (j : Fin 5) (s : State) (hs : s.sound) : after State.sound (execDramWindow pch j s) := by
  unfold execDramWindow
  (try dsimp only); (repeat' split) <;> first | exact (after_next _).mpr (by assumption) | (rw [after_next]; (simp only [State.sound] at *; simp_all)) | exact after_refused _ | exact after_fault _ | (refine after_onlyIf _ (by assumption) ?_; (simp only [State.sound] at *; simp_all))

theorem execDramDataReturn_sound (pch : Fin 1024) (j : Fin 5) (s : State) (hs : s.sound) : after State.sound (execDramDataReturn pch j s) := by
  unfold execDramDataReturn
  (try dsimp only); (repeat' split) <;> first | exact (after_next _).mpr (by assumption) | (rw [after_next]; (simp only [State.sound] at *; simp_all)) | exact after_refused _ | exact after_fault _ | (refine after_onlyIf _ (by assumption) ?_; (simp only [State.sound] at *; simp_all))

theorem execRefreshWindowStart_sound (pch : Fin 1024) (s : State) (hs : s.sound) : after State.sound (execRefreshWindowStart pch s) := by
  unfold execRefreshWindowStart
  refine after_onlyIf _ (by assumption) ?_; (simp only [State.sound] at *; simp_all)

theorem execRefreshWindowEnd_sound (pch : Fin 1024) (s : State) (hs : s.sound) : after State.sound (execRefreshWindowEnd pch s) := by
  unfold execRefreshWindowEnd
  refine after_onlyIf _ (by assumption) ?_; (simp only [State.sound] at *; simp_all)

theorem execRefreshMultiplierChange_sound (vault : Fin 16) (s : State) (hs : s.sound) : after State.sound (execRefreshMultiplierChange vault s) := by
  unfold execRefreshMultiplierChange
  (try dsimp only); (repeat' split) <;> first | exact (after_next _).mpr (by assumption) | (rw [after_next]; (simp only [State.sound] at *; simp_all)) | exact after_refused _ | exact after_fault _ | (refine after_onlyIf _ (by assumption) ?_; (simp only [State.sound] at *; simp_all))

theorem execPaceLevelChange_sound (vault : Fin 16) (s : State) (hs : s.sound) : after State.sound (execPaceLevelChange vault s) := by
  unfold execPaceLevelChange
  (try dsimp only); (repeat' split) <;> first | exact (after_next _).mpr (by assumption) | (rw [after_next]; (simp only [State.sound] at *; simp_all)) | exact after_refused _ | exact after_fault _ | (refine after_onlyIf _ (by assumption) ?_; (simp only [State.sound] at *; simp_all))

theorem execNearBankModeSwitch_sound (pch : Fin 1024) (s : State) (hs : s.sound) : after State.sound (execNearBankModeSwitch pch s) := by
  unfold execNearBankModeSwitch
  (try dsimp only); (repeat' split) <;> first | exact (after_next _).mpr (by assumption) | (rw [after_next]; (simp only [State.sound] at *; simp_all)) | exact after_refused _ | exact after_fault _ | (refine after_onlyIf _ (by assumption) ?_; (simp only [State.sound] at *; simp_all))

theorem execNbWindowRead_sound (req : Nat) (j : Fin 5) (s : State) (hs : s.sound) : after State.sound (execNbWindowRead req j s) := by
  unfold execNbWindowRead
  refine after_windowAt _ _ _ hs (fun r a b c d => ?_)
  refine after_onlyIf _ hs ?_; (first | assumption | (simp only [State.sound] at *; simp_all; done) | (simp only [State.sound] at *; (repeat' split) <;> simp_all))

theorem execNbWindowWrite_sound (req : Nat) (j : Fin 5) (s : State) (hs : s.sound) : after State.sound (execNbWindowWrite req j s) := by
  unfold execNbWindowWrite
  refine after_windowAt _ _ _ hs (fun r a b c d => ?_)
  refine after_onlyIf _ hs ?_; (first | assumption | (simp only [State.sound] at *; simp_all; done) | (simp only [State.sound] at *; (repeat' split) <;> simp_all))

theorem execNbWindowAccessAfterWake_sound (req : Nat) (j : Fin 5) (s : State) (hs : s.sound) : after State.sound (execNbWindowAccessAfterWake req j s) := by
  unfold execNbWindowAccessAfterWake
  refine after_windowAt _ _ _ hs (fun r a b c d => ?_)
  split <;> (refine after_onlyIf _ hs ?_; (first | assumption | (simp only [State.sound] at *; simp_all; done) | (simp only [State.sound] at *; (repeat' split) <;> simp_all)))

theorem execCsvStart_sound (pch : Fin 1024) (s : State) (hs : s.sound) : after State.sound (execCsvStart pch s) := by
  unfold execCsvStart
  refine after_onlyIf _ (by assumption) ?_; (simp only [State.sound] at *; simp_all)

theorem execCsvHalt_sound (pch : Fin 1024) (s : State) (hs : s.sound) : after State.sound (execCsvHalt pch s) := by
  unfold execCsvHalt
  refine after_onlyIf _ (by assumption) ?_; (simp only [State.sound] at *; simp_all)

theorem execCsvDoorbell_sound (pch : Fin 1024) (count : BitVec 5) (s : State) (hs : s.sound) : after State.sound (execCsvDoorbell pch count s) := by
  unfold execCsvDoorbell
  refine after_onlyIf _ (by assumption) ?_; (simp only [State.sound] at *; simp_all)

theorem execConservatorSwitchOff_sound (pch : Fin 1024) (s : State) (hs : s.sound) : after State.sound (execConservatorSwitchOff pch s) := by
  unfold execConservatorSwitchOff
  exact after_onlyIf _ hs (sound_of_calm (setDom_calm _ _ _ _) (setCsv_sound hs (csvOf_sramsOk hs.2.2.2 _)))

theorem execConservatorCommandTimeout_sound (pch : Fin 1024) (s : State) (hs : s.sound) : after State.sound (execConservatorCommandTimeout pch s) := by
  unfold execConservatorCommandTimeout
  refine after_onlyIf _ (by assumption) ?_; (simp only [State.sound] at *; simp_all)

theorem execRvIntegerAlu_sound (pch : Fin 1024) (j : Fin 4) (s : State) (hs : s.sound) : after State.sound (execRvIntegerAlu pch j s) := by
  unfold execRvIntegerAlu
  exact after_hart_sound _ _ _ _ _ hs fun t h ht hc => retire_sound ht (setX_sramsOk _ _ _ _ hc)

theorem execRvBranchJump_sound (pch : Fin 1024) (j : Fin 4) (s : State) (hs : s.sound) : after State.sound (execRvBranchJump pch j s) := by
  unfold execRvBranchJump
  refine after_hart_sound _ _ _ _ _ hs fun t h ht hc => ?_
  unfold rvBranch
  (repeat' split) <;> first | exact jumpTo_sound _ _ ht hc | exact retire_sound ht hc

theorem execRvLoad_sound (pch : Fin 1024) (j : Fin 4) (s : State) (hs : s.sound) : after State.sound (execRvLoad pch j s) := by
  unfold execRvLoad
  refine after_hart_sound _ _ _ _ _ hs fun t h ht hc => ?_
  unfold rvLoad
  dsimp only
  split
  · exact trapCsv_sound _ _ _ ht
  · split
    · exact trapCsv_sound _ _ _ ht
    · split
      · rename_i heq; exact retire_sound (sound_of_calm (calm_fst heq (windowWord_calm _ _ _)) ht) (setX_sramsOk _ _ _ _ hc)
      · exact trapCsv_sound _ _ _ (sound_of_calm (sramFault_calm _ _ _ _) ht)

theorem execRvStore_sound (pch : Fin 1024) (j : Fin 4) (s : State) (hs : s.sound) : after State.sound (execRvStore pch j s) := by
  unfold execRvStore
  refine after_hart_sound _ _ _ _ _ hs fun t h ht hc => ?_
  unfold rvStore
  dsimp only
  repeat' split
  · exact trapCsv_sound _ _ _ ht
  · exact retire_sound ht hc
  · exact trapCsv_sound _ _ _ (sound_of_calm (sramFault_calm _ _ _ _) ht)
  · exact retire_sound (sound_of_calm (sramFault_calm _ _ _ _) ht) ⟨hc.1, wordMerge_ok _ _ _ _ _ hc.2⟩
  · exact trapCsv_sound _ _ _ ht

theorem execRvMul_sound (pch : Fin 1024) (j : Fin 4) (s : State) (hs : s.sound) : after State.sound (execRvMul pch j s) := by
  unfold execRvMul
  exact after_hart_sound _ _ _ _ _ hs fun t h ht hc => retire_sound ht (setX_sramsOk _ _ _ _ hc)

theorem execRvDiv_sound (pch : Fin 1024) (j : Fin 4) (s : State) (hs : s.sound) : after State.sound (execRvDiv pch j s) := by
  unfold execRvDiv
  exact after_hart_sound _ _ _ _ _ hs fun t h ht hc => retire_sound ht (setX_sramsOk _ _ _ _ hc)

theorem execRvFence_sound (pch : Fin 1024) (j : Fin 4) (s : State) (hs : s.sound) : after State.sound (execRvFence pch j s) := by
  unfold execRvFence
  exact after_hart_sound _ _ _ _ _ hs fun t h ht hc => retire_sound ht hc

theorem execEcall_sound (pch : Fin 1024) (j : Fin 4) (s : State) (hs : s.sound) : after State.sound (execEcall pch j s) := by
  unfold execEcall
  exact after_hart_sound _ _ _ _ _ hs fun t h ht hc => trapCsv_sound _ _ _ ht

theorem execEbreak_sound (pch : Fin 1024) (j : Fin 4) (s : State) (hs : s.sound) : after State.sound (execEbreak pch j s) := by
  unfold execEbreak
  exact after_hart_sound _ _ _ _ _ hs fun t h ht hc => trapCsv_sound _ _ _ ht

theorem nbBurst_sound (write : Bool) (s : State) (h : HartAt) (hs : s.sound) (hc : h.c.sramsOk) : (nbBurst write s h).sound := by
  unfold nbBurst
  dsimp only
  (repeat' split) <;> first | exact trapCsv_sound _ _ _ hs | exact retire_sound hs (setX_sramsOk _ _ _ _ hc)

theorem startUnit_sound (s : State) (h : HartAt) (score : Bool) (rows second n : Nat) (hs : s.sound) (hc : h.c.sramsOk) :
    (startUnit s h score rows second n).sound := by
  unfold startUnit
  dsimp only
  refine retire_sound hs ?_
  split <;> exact hc

theorem execNbRd_sound (pch : Fin 1024) (j : Fin 4) (s : State) (hs : s.sound) : after State.sound (execNbRd pch j s) := by
  unfold execNbRd
  exact after_hart_sound _ _ _ _ _ hs fun t h ht hc => waitUntil_sound _ _ _ _ ht hc (nbBurst_sound _ _ _ ht hc)

theorem execNbWr_sound (pch : Fin 1024) (j : Fin 4) (s : State) (hs : s.sound) : after State.sound (execNbWr pch j s) := by
  unfold execNbWr
  exact after_hart_sound _ _ _ _ _ hs fun t h ht hc => waitUntil_sound _ _ _ _ ht hc (nbBurst_sound _ _ _ ht hc)

theorem execNbWait_sound (pch : Fin 1024) (j : Fin 4) (s : State) (hs : s.sound) : after State.sound (execNbWait pch j s) := by
  unfold execNbWait
  exact after_hart_sound _ _ _ _ _ hs fun t h ht hc => waitUntil_sound _ _ _ _ ht hc (retire_sound ht hc)

theorem execNbBeat_sound (pch : Fin 1024) (j : Fin 4) (s : State) (hs : s.sound) : after State.sound (execNbBeat pch j s) := by
  unfold execNbBeat
  exact after_hart_sound _ _ _ _ _ hs fun t h ht hc => retire_sound ht (setX_sramsOk _ _ _ _ hc)

theorem execNbUntil_sound (pch : Fin 1024) (j : Fin 4) (s : State) (hs : s.sound) : after State.sound (execNbUntil pch j s) := by
  unfold execNbUntil
  exact after_hart_sound _ _ _ _ _ hs fun t h ht hc => waitUntil_sound _ _ _ _ ht hc (retire_sound ht hc)

theorem execBurstLine_sound (pch : Fin 1024) (j : Fin 4) (s : State) (hs : s.sound) : after State.sound (execBurstLine pch j s) := by
  unfold execBurstLine
  (try dsimp only); (repeat' split) <;> first | exact (after_next _).mpr (by assumption) | (rw [after_next]; (simp only [State.sound] at *; simp_all)) | exact after_refused _ | exact after_fault _ | (refine after_onlyIf _ (by assumption) ?_; (simp only [State.sound] at *; simp_all))

theorem execBurstComplete_sound (pch : Fin 1024) (j : Fin 4) (s : State) (hs : s.sound) : after State.sound (execBurstComplete pch j s) := by
  unfold execBurstComplete
  dsimp only
  have h1 := catchUp_sound s pch.val (cclk s j.val) hs
  split
  · exact (after_next _).mpr hs
  · exact after_onlyIf _ hs (setCsv_sound h1 (csvOf_sramsOk h1.2.2.2 _))

theorem execNbAcfg_sound (pch : Fin 1024) (j : Fin 4) (s : State) (hs : s.sound) : after State.sound (execNbAcfg pch j s) := by
  unfold execNbAcfg
  refine after_hart_sound _ _ _ _ _ hs fun t h ht hc => waitUntil_sound _ _ _ _ ht hc ?_
  dsimp only
  split
  · exact trapCsv_sound _ _ _ ht
  · exact retire_sound ht hc

theorem execNbQld_sound (pch : Fin 1024) (j : Fin 4) (s : State) (hs : s.sound) : after State.sound (execNbQld pch j s) := by
  unfold execNbQld
  refine after_hart_sound _ _ _ _ _ hs fun t h ht hc => waitUntil_sound _ _ _ _ ht hc ?_
  dsimp only
  split
  · exact trapCsv_sound _ _ _ ht
  · split
    · rename_i heq; exact trapCsv_sound _ _ _ (sound_of_calm (calm_fst heq (dsramSpan_calm _ _ _ _)) ht)
    · rename_i heq; exact retire_sound (sound_of_calm (calm_fst heq (dsramSpan_calm _ _ _ _)) ht) hc

theorem execNbAttn_sound (pch : Fin 1024) (j : Fin 4) (s : State) (hs : s.sound) : after State.sound (execNbAttn pch j s) := by
  unfold execNbAttn
  refine after_hart_sound _ _ _ _ _ hs fun t h ht hc => waitUntil_sound _ _ _ _ ht hc ?_
  dsimp only
  (repeat' split) <;> first | exact trapCsv_sound _ _ _ ht | exact startUnit_sound _ _ _ _ _ _ ht hc

theorem execNbScore_sound (pch : Fin 1024) (j : Fin 4) (s : State) (hs : s.sound) : after State.sound (execNbScore pch j s) := by
  unfold execNbScore
  refine after_hart_sound _ _ _ _ _ hs fun t h ht hc => waitUntil_sound _ _ _ _ ht hc ?_
  dsimp only
  (repeat' split) <;> first | exact trapCsv_sound _ _ _ ht | exact startUnit_sound _ _ _ _ _ _ ht hc

theorem execNbOst_sound (pch : Fin 1024) (j : Fin 4) (s : State) (hs : s.sound) : after State.sound (execNbOst pch j s) := by
  unfold execNbOst
  refine after_hart_sound _ _ _ _ _ hs fun t h ht hc => waitUntil_sound _ _ _ _ ht hc ?_
  dsimp only
  split
  · exact trapCsv_sound _ _ _ ht
  · exact retire_sound ht (foldl_csv (fun c x h => dWrite_sramsOk _ _ h) _ _ hc)

theorem execAttentionStateFinal_sound (pch : Fin 1024) (j : Fin 4) (s : State) (hs : s.sound) : after State.sound (execAttentionStateFinal pch j s) := by
  unfold execAttentionStateFinal
  refine after_onlyIf _ (by assumption) ?_; (simp only [State.sound] at *; simp_all)

theorem execNbCmd_sound (pch : Fin 1024) (j : Fin 4) (s : State) (hs : s.sound) : after State.sound (execNbCmd pch j s) := by
  unfold execNbCmd
  exact after_hart_sound _ _ _ _ _ hs fun t h ht hc => retire_sound ht (setX_sramsOk _ _ _ _ hc)

theorem execNbDone_sound (pch : Fin 1024) (j : Fin 4) (s : State) (hs : s.sound) : after State.sound (execNbDone pch j s) := by
  unfold execNbDone
  refine after_hart_sound _ _ _ _ _ hs fun t h ht hc => ?_
  dsimp only
  split
  · exact trapCsv_sound _ _ _ ht
  · split
    · exact retire_sound ht hc
    · have hr (c : Csv) (hc : c.sramsOk) : (retire t h c 1).sound := retire_sound ht hc
      split
      · exact sound_of_calm (postEvent_calm _ _ _ _) (hr _ hc)
      · exact hr _ hc

theorem execNbFlt_sound (pch : Fin 1024) (j : Fin 4) (s : State) (hs : s.sound) : after State.sound (execNbFlt pch j s) := by
  unfold execNbFlt
  exact after_hart_sound _ _ _ _ _ hs fun t h ht hc => retire_sound ht (setX_sramsOk _ _ _ _ hc)

theorem execEvaluateStep_sound (part : Fin 8) (s : State) (hs : s.sound) : after State.sound (execEvaluateStep part s) := by
  unfold execEvaluateStep
  refine after_withRun _ _ _ hs (fun r t h => ?_)
  split at h
  · simp only [when', Option.bind_eq_some_iff] at h
    obtain ⟨st, _, h⟩ := h
    split at h
    · injection h with h; subst h; (first | assumption | (simp only [State.sound] at *; simp_all; done) | (simp only [State.sound] at *; (repeat' split) <;> simp_all))
    · cases h
  · cases h

theorem execGateMet_sound (part : Fin 8) (s : State) (hs : s.sound) : after State.sound (execGateMet part s) := by
  unfold execGateMet
  refine after_withRun _ _ _ hs (fun r t h => ?_)
  split at h
  · simp only [when', Option.bind_eq_some_iff] at h
    obtain ⟨st, _, h⟩ := h
    split at h
    · injection h with h; subst h; (first | assumption | (simp only [State.sound] at *; simp_all; done) | (simp only [State.sound] at *; (repeat' split) <;> simp_all))
    · cases h
  · cases h

theorem execBudgetRetry_sound (part : Fin 8) (s : State) (hs : s.sound) : after State.sound (execBudgetRetry part s) := by
  unfold execBudgetRetry
  refine after_withRun _ _ _ hs (fun r t h => ?_)
  split at h
  · simp only [when', Option.bind_eq_some_iff] at h
    obtain ⟨st, _, h⟩ := h
    split at h
    · injection h with h; subst h; (first | assumption | (simp only [State.sound] at *; simp_all; done) | (simp only [State.sound] at *; (repeat' split) <;> simp_all))
    · cases h
  · cases h

theorem execStepDelayed_sound (part : Fin 8) (s : State) (hs : s.sound) : after State.sound (execStepDelayed part s) := by
  unfold execStepDelayed
  refine after_withRun _ _ _ (by assumption) (fun id t h => ?_); (try dsimp only at h); (try simp only [when'] at h); (repeat' split at h) <;> first | (cases h; done) | (injection h with h; subst h; (simp only [State.sound] at *; simp_all))

theorem execCommitArrival_sound (part : Fin 8) (s : State) (hs : s.sound) : after State.sound (execCommitArrival part s) := by
  unfold execCommitArrival
  refine after_withRun _ _ _ (by assumption) (fun id t h => ?_); (try dsimp only at h); (try simp only [when'] at h); (repeat' split at h) <;> first | (cases h; done) | (injection h with h; subst h; (first | assumption | (simp only [State.sound] at *; simp_all; done) | (simp only [State.sound] at *; (repeat' split) <;> simp_all)))

theorem execAdvanceNoticeReceipt_sound (part : Fin 8) (s : State) (hs : s.sound) : after State.sound (execAdvanceNoticeReceipt part s) := by
  unfold execAdvanceNoticeReceipt
  (try dsimp only); (repeat' split) <;> first | exact (after_next _).mpr (by assumption) | (rw [after_next]; (simp only [State.sound] at *; simp_all)) | exact after_refused _ | exact after_fault _ | (refine after_onlyIf _ (by assumption) ?_; (simp only [State.sound] at *; simp_all))

theorem execDomainWakeStart_sound (part : Fin 8) (dom : DomainRef) (s : State) (hs : s.sound) : after State.sound (execDomainWakeStart part dom s) := by
  unfold execDomainWakeStart
  refine after_withRun _ _ _ (by assumption) (fun id t h => ?_); (try dsimp only at h); (try simp only [when'] at h); (repeat' split at h) <;> first | (cases h; done) | (injection h with h; subst h; (first | assumption | (simp only [State.sound] at *; simp_all; done) | (simp only [State.sound] at *; (repeat' split) <;> simp_all)))

theorem execDomainWakeComplete_sound (dom : DomainRef) (s : State) (hs : s.sound) : after State.sound (execDomainWakeComplete dom s) := by
  unfold execDomainWakeComplete
  split
  · exact after_onlyIf _ hs (sound_of_calm (runWing_calm _ _ _) hs)
  · refine after_onlyIf _ hs ?_
    have hd (i : Nat) (d : Dom) : (setDom s dom.kind i d).sound := sound_of_calm (setDom_calm _ _ _ _) hs
    split
    · have hc (i : Nat) (d : Dom) (b : Nat) := setCsv_sound (P := i) (x := { csvOf (setDom s dom.kind i d) i with headSince := b }) (hd i d)
        (csvOf_sramsOk (hd i d).2.2.2 i)
      dsimp only
      split
      · exact sound_of_calm (meterCsv_calm _ _) (hc _ _ _)
      · exact hc _ _ _
    · exact hd _ _

theorem execStepStart_sound (part : Fin 8) (s : State) (hs : s.sound) : after State.sound (execStepStart part s) := by
  unfold execStepStart
  refine after_withRun _ _ _ (by assumption) (fun id t h => ?_); (try dsimp only at h); (try simp only [when'] at h); (repeat' split at h) <;> first | (cases h; done) | (injection h with h; subst h; (first | assumption | (simp only [State.sound] at *; simp_all; done) | (simp only [State.sound] at *; (repeat' split) <;> simp_all)))

theorem execSlotPlanEntryStart_sound (part : Fin 8) (entry : Nat) (s : State) (hs : s.sound) : after State.sound (execSlotPlanEntryStart part entry s) := by
  unfold execSlotPlanEntryStart
  refine after_execWith _ _ _ (by assumption) (fun id t h => ?_); (try dsimp only at h); (try simp only [when'] at h); (repeat' split at h) <;> first | (cases h; done) | (injection h with h; subst h; (simp only [State.sound] at *; simp_all))

theorem execStackSequencerRecordRead_sound (part : Fin 8) (isEngine : Bool) (entry : Nat) (s : State) (hs : s.sound) : after State.sound (execStackSequencerRecordRead part isEngine entry s) := by
  unfold execStackSequencerRecordRead
  refine after_withRun _ _ _ hs (fun r t h => ?_)
  simp only [Option.bind_eq_some_iff] at h
  obtain ⟨l, _, a, _, h⟩ := h
  unfold when' at h
  split at h
  · injection h with h; subst h
    split
    · exact sound_of_calm (calm_trans (setRun_calm _ _ _) (peekBytes_calm _ _ _)) hs
    · exact sound_of_calm (calm_trans (raiseFault_calm _ _ _) (peekBytes_calm _ _ _)) hs
  · cases h

theorem execKernelLaunch_sound (part : Fin 8) (cab : CabRef) (s : State) (hs : s.sound) : after State.sound (execKernelLaunch part cab s) := by
  unfold execKernelLaunch
  refine after_execWith _ _ _ hs (fun r t h => ?_)
  simp only [Option.bind_eq_some_iff] at h
  obtain ⟨n, _, d, _, h⟩ := h
  unfold when' at h
  split at h
  · injection h with h; subst h
    have h1 := sound_of_calm (setExec_calm s part.val { r with launched := r.launched ++ [n] }) hs
    split
    · exact sound_of_calm (mapCab_calm _ _ _) h1
    · exact sound_of_calm (startLaunch_calm _ _ _ _) h1
  · cases h

theorem execDelayedLaunchStart_sound (cab : CabRef) (s : State) (hs : s.sound) : after State.sound (execDelayedLaunchStart cab s) := by
  unfold execDelayedLaunchStart
  (try dsimp only); (repeat' split) <;> first | exact (after_next _).mpr (by assumption) | (rw [after_next]; (simp only [State.sound] at *; simp_all)) | exact after_refused _ | exact after_fault _ | (refine after_onlyIf _ (by assumption) ?_; (simp only [State.sound] at *; simp_all))

theorem execCabinetDoneReport_sound (cab : CabRef) (s : State) (hs : s.sound) : after State.sound (execCabinetDoneReport cab s) := by
  unfold execCabinetDoneReport
  refine after_onlyIf _ (by assumption) ?_; (first | assumption | (simp only [State.sound] at *; simp_all; done) | (simp only [State.sound] at *; (repeat' split) <;> simp_all))

theorem execStepPlannedEnd_sound (part : Fin 8) (s : State) (hs : s.sound) : after State.sound (execStepPlannedEnd part s) := by
  unfold execStepPlannedEnd
  refine after_execWith _ _ _ (by assumption) (fun id t h => ?_); (try dsimp only at h); (try simp only [when'] at h); (repeat' split at h) <;> first | (cases h; done) | (injection h with h; subst h; (simp only [State.sound] at *; simp_all))

theorem execStepEnd_sound (part : Fin 8) (s : State) (hs : s.sound) : after State.sound (execStepEnd part s) := by
  unfold execStepEnd
  refine after_withRun _ _ _ hs (fun r t h => ?_)
  split at h
  · cases h
  · simp only [when'] at h
    split at h
    · injection h with h; subst h
      rename_i n _ _
      have hc : ∀ (b : Bool) (p : Nat) (r' : RunCtx) (u : State), u.sound → (if b then runCompletion (endRun u p) p r' 0 else u).sound := by
        intro b p r' u hu; cases b
        · exact hu
        · exact sound_of_calm (calm_trans (runCompletion_calm _ _ _ _) (endRun_calm _ _)) hu
      refine hc _ _ _ _ (sound_of_calm (calm_trans (switchOffIdle_calm _) (calm_trans (stopWings_calm _ _) (meterEnded_calm _ _ _))) ?_)
      cases r.next with
      | none => (first | assumption | (simp only [State.sound] at *; simp_all; done) | (simp only [State.sound] at *; (repeat' split) <;> simp_all))
      | some n => (first | assumption | (simp only [State.sound] at *; simp_all; done) | (simp only [State.sound] at *; (repeat' split) <;> simp_all))
    · cases h

theorem execStepTimeout_sound (part : Fin 8) (s : State) (hs : s.sound) : after State.sound (execStepTimeout part s) := by
  unfold execStepTimeout
  refine after_execWith _ _ _ (by assumption) (fun id t h => ?_); (try dsimp only at h); (try simp only [when'] at h); (repeat' split at h) <;> first | (cases h; done) | (injection h with h; subst h; (simp only [State.sound] at *; simp_all))

theorem execKernelTimeout_sound (cab : CabRef) (s : State) (hs : s.sound) : after State.sound (execKernelTimeout cab s) := by
  unfold execKernelTimeout
  refine after_onlyIf _ (by assumption) ?_; (simp only [State.sound] at *; simp_all)

theorem execJobFaultDelivery_sound (part : Fin 8) (s : State) (hs : s.sound) : after State.sound (execJobFaultDelivery part s) := by
  unfold execJobFaultDelivery
  (try dsimp only); (repeat' split) <;> first | exact (after_next _).mpr (by assumption) | (rw [after_next]; (simp only [State.sound] at *; simp_all)) | exact after_refused _ | exact after_fault _ | (refine after_onlyIf _ (by assumption) ?_; (simp only [State.sound] at *; simp_all))

theorem execCopy_sound (eng : Fin 48) (ctx : Fin 9) (j : Fin 5) (s : State) (hs : s.sound) : after State.sound (execCopy eng ctx j s) := by
  unfold execCopy takeOp
  dsimp only
  have h1 : (if ctx.val = 8 then dueEntry s eng.val (pclk s j.val) else s).sound := by split <;> (first | assumption | (simp only [State.sound] at *; simp_all; done) | (simp only [State.sound] at *; (repeat' split) <;> simp_all))
  revert h1; generalize (if ctx.val = 8 then dueEntry s eng.val (pclk s j.val) else s) = s1; intro h1
  (repeat' split) <;> first | ((rw [after_next]); first | exact hs | (clear hs; (first | assumption | (simp only [State.sound] at *; simp_all; done) | (simp only [State.sound] at *; (repeat' split) <;> simp_all)))) | (refine after_onlyIf _ hs ?_; clear hs; (first | assumption | (simp only [State.sound] at *; simp_all; done) | (simp only [State.sound] at *; (repeat' split) <;> simp_all)))

theorem execFill_sound (eng : Fin 48) (ctx : Fin 9) (j : Fin 5) (s : State) (hs : s.sound) : after State.sound (execFill eng ctx j s) := by
  unfold execFill takeOp
  dsimp only
  have h1 : (if ctx.val = 8 then dueEntry s eng.val (pclk s j.val) else s).sound := by split <;> (first | assumption | (simp only [State.sound] at *; simp_all; done) | (simp only [State.sound] at *; (repeat' split) <;> simp_all))
  revert h1; generalize (if ctx.val = 8 then dueEntry s eng.val (pclk s j.val) else s) = s1; intro h1
  (repeat' split) <;> first | ((rw [after_next]); first | exact hs | (clear hs; (first | assumption | (simp only [State.sound] at *; simp_all; done) | (simp only [State.sound] at *; (repeat' split) <;> simp_all)))) | (refine after_onlyIf _ hs ?_; clear hs; (first | assumption | (simp only [State.sound] at *; simp_all; done) | (simp only [State.sound] at *; (repeat' split) <;> simp_all)))

theorem execRange_sound (eng : Fin 48) (ctx : Fin 9) (j : Fin 5) (s : State) (hs : s.sound) : after State.sound (execRange eng ctx j s) := by
  unfold execRange takeOp
  dsimp only
  have h1 : (if ctx.val = 8 then dueEntry s eng.val (pclk s j.val) else s).sound := by split <;> (first | assumption | (simp only [State.sound] at *; simp_all; done) | (simp only [State.sound] at *; (repeat' split) <;> simp_all))
  revert h1; generalize (if ctx.val = 8 then dueEntry s eng.val (pclk s j.val) else s) = s1; intro h1
  (repeat' split) <;> first | ((rw [after_next]); first | exact hs | (clear hs; (first | assumption | (simp only [State.sound] at *; simp_all; done) | (simp only [State.sound] at *; (repeat' split) <;> simp_all)))) | (refine after_onlyIf _ hs ?_; clear hs; (first | assumption | (simp only [State.sound] at *; simp_all; done) | (simp only [State.sound] at *; (repeat' split) <;> simp_all)))

theorem execWindow_sound (eng : Fin 48) (ctx : Fin 9) (j : Fin 5) (s : State) (hs : s.sound) : after State.sound (execWindow eng ctx j s) := by
  unfold execWindow takeOp
  dsimp only
  have h1 : (if ctx.val = 8 then dueEntry s eng.val (pclk s j.val) else s).sound := by split <;> (first | assumption | (simp only [State.sound] at *; simp_all; done) | (simp only [State.sound] at *; (repeat' split) <;> simp_all))
  revert h1; generalize (if ctx.val = 8 then dueEntry s eng.val (pclk s j.val) else s) = s1; intro h1
  (repeat' split) <;> first | ((rw [after_next]); first | exact hs | (clear hs; (first | assumption | (simp only [State.sound] at *; simp_all; done) | (simp only [State.sound] at *; (repeat' split) <;> simp_all)))) | (refine after_onlyIf _ hs ?_; clear hs; (first | assumption | (simp only [State.sound] at *; simp_all; done) | (simp only [State.sound] at *; (repeat' split) <;> simp_all)))

theorem execTranspose_sound (eng : Fin 48) (ctx : Fin 9) (j : Fin 5) (s : State) (hs : s.sound) : after State.sound (execTranspose eng ctx j s) := by
  unfold execTranspose takeOp
  dsimp only
  have h1 : (if ctx.val = 8 then dueEntry s eng.val (pclk s j.val) else s).sound := by split <;> (first | assumption | (simp only [State.sound] at *; simp_all; done) | (simp only [State.sound] at *; (repeat' split) <;> simp_all))
  revert h1; generalize (if ctx.val = 8 then dueEntry s eng.val (pclk s j.val) else s) = s1; intro h1
  (repeat' split) <;> first | ((rw [after_next]); first | exact hs | (clear hs; (first | assumption | (simp only [State.sound] at *; simp_all; done) | (simp only [State.sound] at *; (repeat' split) <;> simp_all)))) | (refine after_onlyIf _ hs ?_; clear hs; (first | assumption | (simp only [State.sound] at *; simp_all; done) | (simp only [State.sound] at *; (repeat' split) <;> simp_all)))

theorem execFrame_sound (eng : Fin 48) (ctx : Fin 9) (j : Fin 5) (s : State) (hs : s.sound) : after State.sound (execFrame eng ctx j s) := by
  unfold execFrame takeOp
  dsimp only
  have h1 : (if ctx.val = 8 then dueEntry s eng.val (pclk s j.val) else s).sound := by split <;> (first | assumption | (simp only [State.sound] at *; simp_all; done) | (simp only [State.sound] at *; (repeat' split) <;> simp_all))
  revert h1; generalize (if ctx.val = 8 then dueEntry s eng.val (pclk s j.val) else s) = s1; intro h1
  (repeat' split) <;> first | ((rw [after_next]); first | exact hs | (clear hs; (first | assumption | (simp only [State.sound] at *; simp_all; done) | (simp only [State.sound] at *; (repeat' split) <;> simp_all)))) | (refine after_onlyIf _ hs ?_; clear hs; (first | assumption | (simp only [State.sound] at *; simp_all; done) | (simp only [State.sound] at *; (repeat' split) <;> simp_all)))

theorem execTopk_sound (eng : Fin 48) (ctx : Fin 9) (j : Fin 5) (s : State) (hs : s.sound) : after State.sound (execTopk eng ctx j s) := by
  unfold execTopk takeOp
  dsimp only
  have h1 : (if ctx.val = 8 then dueEntry s eng.val (pclk s j.val) else s).sound := by split <;> (first | assumption | (simp only [State.sound] at *; simp_all; done) | (simp only [State.sound] at *; (repeat' split) <;> simp_all))
  revert h1; generalize (if ctx.val = 8 then dueEntry s eng.val (pclk s j.val) else s) = s1; intro h1
  (repeat' split) <;> first | ((rw [after_next]); first | exact hs | (clear hs; (first | assumption | (simp only [State.sound] at *; simp_all; done) | (simp only [State.sound] at *; (repeat' split) <;> simp_all)))) | (refine after_onlyIf _ hs ?_; clear hs; (first | assumption | (simp only [State.sound] at *; simp_all; done) | (simp only [State.sound] at *; (repeat' split) <;> simp_all)))

theorem execEngineReadIssue_sound (eng : Fin 48) (ctx : Fin 9) (j : Fin 5) (s : State) (hs : s.sound) : after State.sound (execEngineReadIssue eng ctx j s) := by
  unfold execEngineReadIssue
  refine after_atCtx _ _ _ _ _ (by assumption) (fun e x c pc t h => ?_); (try dsimp only at h); (try simp only [when'] at h); (repeat' split at h) <;> first | (cases h; done) | (injection h with h; subst h; (simp only [State.sound] at *; simp_all))

theorem execEngineReadReturn_sound (eng : Fin 48) (ctx : Fin 9) (j : Fin 5) (host : HostReply) (s : State) (hs : s.sound) : after State.sound (execEngineReadReturn eng ctx j host s) := by
  unfold execEngineReadReturn
  refine after_atCtx _ _ _ _ _ hs (fun e x c pc t h => ?_)
  split at h <;> (simp only [Option.map_eq_some_iff] at h; obtain ⟨_, _, rfl⟩ := h; (first | assumption | (simp only [State.sound] at *; simp_all; done) | (simp only [State.sound] at *; (repeat' split) <;> simp_all)))

theorem execFlitEntry_sound (eng : Fin 48) (ctx : Fin 9) (j : Fin 5) (s : State) (hs : s.sound) : after State.sound (execFlitEntry eng ctx j s) := by
  unfold execFlitEntry
  refine after_atCtx _ _ _ _ _ (by assumption) (fun e x c pc t h => ?_); (try dsimp only at h); (try simp only [when'] at h); (repeat' split at h) <;> first | (cases h; done) | (injection h with h; subst h; (simp only [State.sound] at *; simp_all))

theorem execEngineWriteIssue_sound (eng : Fin 48) (ctx : Fin 9) (j : Fin 5) (s : State) (hs : s.sound) : after State.sound (execEngineWriteIssue eng ctx j s) := by
  unfold execEngineWriteIssue
  refine after_atCtx _ _ _ _ _ (by assumption) (fun e x c pc t h => ?_); (try dsimp only at h); (try simp only [when'] at h); (repeat' split at h) <;> first | (cases h; done) | (injection h with h; subst h; (simp only [State.sound] at *; simp_all))

theorem execEngineWriteAck_sound (eng : Fin 48) (ctx : Fin 9) (j : Fin 5) (hostError : Bool) (s : State) (hs : s.sound) : after State.sound (execEngineWriteAck eng ctx j hostError s) := by
  unfold execEngineWriteAck
  dsimp only
  split
  · exact after_onlyIf _ hs (sound_of_sameStores (ackWrite_stores _ _ _ _ _ _ _ _) hs)
  · exact (after_next _).mpr hs

theorem execDescriptorDone_sound (eng : Fin 48) (ctx : Fin 9) (j : Fin 5) (s : State) (hs : s.sound) : after State.sound (execDescriptorDone eng ctx j s) := by
  unfold execDescriptorDone
  refine after_atCtx _ _ _ _ _ (by assumption) (fun e x c pc t h => ?_); (try dsimp only at h); (try simp only [when'] at h); (repeat' split at h) <;> first | (cases h; done) | (injection h with h; subst h; (simp only [State.sound] at *; simp_all))

theorem execEngineDescriptorTimeout_sound (eng : Fin 48) (ctx : Fin 9) (s : State) (hs : s.sound) : after State.sound (execEngineDescriptorTimeout eng ctx s) := by
  unfold execEngineDescriptorTimeout
  (try dsimp only); (repeat' split) <;> first | exact (after_next _).mpr (by assumption) | (rw [after_next]; (simp only [State.sound] at *; simp_all)) | exact after_refused _ | exact after_fault _ | (refine after_onlyIf _ (by assumption) ?_; (simp only [State.sound] at *; simp_all))

theorem execAbandonedDescriptorCompletion_sound (eng : Fin 48) (ctx : Fin 9) (s : State) (hs : s.sound) : after State.sound (execAbandonedDescriptorCompletion eng ctx s) := by
  unfold execAbandonedDescriptorCompletion
  (try dsimp only); (repeat' split) <;> first | exact (after_next _).mpr (by assumption) | (rw [after_next]; (simp only [State.sound] at *; simp_all)) | exact after_refused _ | exact after_fault _ | (refine after_onlyIf _ (by assumption) ?_; (simp only [State.sound] at *; simp_all))

theorem execHeldDescriptorRelease_sound (eng : Fin 48) (s : State) (hs : s.sound) : after State.sound (execHeldDescriptorRelease eng s) := by
  unfold execHeldDescriptorRelease
  (try dsimp only); (repeat' split) <;> first | exact (after_next _).mpr (by assumption) | (rw [after_next]; (simp only [State.sound] at *; simp_all)) | exact after_refused _ | exact after_fault _ | (refine after_onlyIf _ (by assumption) ?_; (simp only [State.sound] at *; simp_all))

theorem execEngineStatusWrite_sound (eng : Fin 48) (value : BitVec 32) (s : State) (hs : s.sound) : after State.sound (execEngineStatusWrite eng value s) := by
  unfold execEngineStatusWrite
  refine after_onlyIf _ (by assumption) ?_; (simp only [State.sound] at *; simp_all)

theorem execConfigRequest_sound (port : Fin 8) (write : Bool) (offset : BitVec 12) (value : BitVec 32) (s : State) (hs : s.sound) : after State.sound (execConfigRequest port write offset value s) := by
  unfold execConfigRequest
  refine after_onlyIf _ (by assumption) ?_; (first | assumption | (simp only [State.sound] at *; simp_all; done) | (simp only [State.sound] at *; (repeat' split) <;> simp_all))

theorem execBar2Read_sound (port : Fin 8) (offset : BitVec 36) (lanes : BitVec 64) (tag : BitVec 10) (s : State) (hs : s.sound) : after State.sound (execBar2Read port offset lanes tag s) := by
  unfold execBar2Read
  refine after_onlyIf _ (by assumption) ?_; (first | assumption | (simp only [State.sound] at *; simp_all; done) | (simp only [State.sound] at *; (repeat' split) <;> simp_all))

theorem execBar2Write_sound (port : Fin 8) (offset : BitVec 36) (lanes : BitVec 64) (data : BitVec 512) (s : State) (hs : s.sound) : after State.sound (execBar2Write port offset lanes data s) := by
  unfold execBar2Write
  refine after_onlyIf _ (by assumption) ?_; (first | assumption | (simp only [State.sound] at *; simp_all; done) | (simp only [State.sound] at *; (repeat' split) <;> simp_all))

theorem execBar2ReadCompletion_sound (req : Nat) (s : State) (hs : s.sound) : after State.sound (execBar2ReadCompletion req s) := by
  unfold execBar2ReadCompletion
  (try dsimp only); (repeat' split) <;> first | exact (after_next _).mpr (by assumption) | (rw [after_next]; (simp only [State.sound] at *; simp_all)) | exact after_refused _ | exact after_fault _ | (refine after_onlyIf _ (by assumption) ?_; (simp only [State.sound] at *; simp_all))

theorem execHpBar2BaseWrite_sound (u_who : Requester) (port : Fin 8) (high : Bool) (value : BitVec 32) (s : State) (hs : s.sound) : after State.sound (execHpBar2BaseWrite u_who port high value s) := by
  unfold execHpBar2BaseWrite
  refine after_onlyIf _ (by assumption) ?_; (simp only [State.sound] at *; simp_all)

theorem execSqDoorbell_sound (port : Fin 8) (ring : Fin 32768) (be : BitVec 4) (value : BitVec 32) (s : State) (hs : s.sound) : after State.sound (execSqDoorbell port ring be value s) := by
  unfold execSqDoorbell
  refine after_onlyIf _ (by assumption) ?_; (simp only [State.sound] at *; simp_all)

theorem execCqDoorbell_sound (port : Fin 8) (ring : Fin 32768) (be : BitVec 4) (value : BitVec 32) (s : State) (hs : s.sound) : after State.sound (execCqDoorbell port ring be value s) := by
  unfold execCqDoorbell
  refine after_onlyIf _ (by assumption) ?_; (simp only [State.sound] at *; simp_all)

theorem execRingArm_sound (port : Fin 8) (ring : Fin 32768) (be : BitVec 4) (value : BitVec 32) (s : State) (hs : s.sound) : after State.sound (execRingArm port ring be value s) := by
  unfold execRingArm
  refine after_onlyIf _ (by assumption) ?_; (simp only [State.sound] at *; simp_all)

theorem execHeldEntryWrite_sound (ring : Fin 262144) (s : State) (hs : s.sound) : after State.sound (execHeldEntryWrite ring s) := by
  unfold execHeldEntryWrite
  (try dsimp only); (repeat' split) <;> first | exact (after_next _).mpr (by assumption) | (rw [after_next]; (simp only [State.sound] at *; simp_all)) | exact after_refused _ | exact after_fault _ | (refine after_onlyIf _ (by assumption) ?_; (simp only [State.sound] at *; simp_all))

theorem execFetchReadIssue_sound (port : Fin 8) (j : Fin 5) (s : State) (hs : s.sound) : after State.sound (execFetchReadIssue port j s) := by
  unfold execFetchReadIssue
  (try dsimp only); (repeat' split) <;> first | exact (after_next _).mpr (by assumption) | (rw [after_next]; (simp only [State.sound] at *; simp_all)) | exact after_refused _ | exact after_fault _ | (refine after_onlyIf _ (by assumption) ?_; (simp only [State.sound] at *; simp_all))

theorem execFetchDataReturn_sound (port : Fin 8) (j : Fin 5) (data : List (BitVec 512)) (s : State) (hs : s.sound) : after State.sound (execFetchDataReturn port j data s) := by
  unfold execFetchDataReturn
  (try dsimp only); (repeat' split) <;> first | exact (after_next _).mpr (by assumption) | (rw [after_next]; (simp only [State.sound] at *; simp_all)) | exact after_refused _ | exact after_fault _ | (refine after_onlyIf _ (by assumption) ?_; (simp only [State.sound] at *; simp_all))

theorem execFetchTimeout_sound (port : Fin 8) (s : State) (hs : s.sound) : after State.sound (execFetchTimeout port s) := by
  unfold execFetchTimeout
  (try dsimp only); (repeat' split) <;> first | exact (after_next _).mpr (by assumption) | (rw [after_next]; (simp only [State.sound] at *; simp_all)) | exact after_refused _ | exact after_fault _ | (refine after_onlyIf _ (by assumption) ?_; (simp only [State.sound] at *; simp_all))

theorem execSubmissionNop_sound (ring : Fin 262144) (s : State) (hs : s.sound) : after State.sound (execSubmissionNop ring s) := by
  unfold execSubmissionNop
  refine after_deliver _ _ _ _ (by assumption) (fun id r d st h => ?_) (fun id r r' d h => ?_) <;> (simp only [State.sound] at *; simp_all)

theorem execRun_sound (ring : Fin 262144) (s : State) (hs : s.sound) : after State.sound (execRun ring s) := by
  unfold execRun
  refine after_deliver _ _ _ _ (by assumption) (fun id r d st h => ?_) (fun id r r' d h => ?_) <;> (simp only [State.sound] at *; simp_all)

theorem execGate_sound (ring : Fin 262144) (s : State) (hs : s.sound) : after State.sound (execGate ring s) := by
  unfold execGate
  refine after_deliver _ _ _ _ (by assumption) (fun id r d st h => ?_) (fun id r r' d h => ?_) <;> (simp only [State.sound] at *; simp_all)

theorem execStop_sound (ring : Fin 262144) (s : State) (hs : s.sound) : after State.sound (execStop ring s) := by
  unfold execStop
  refine after_deliver _ _ _ _ (by assumption) (fun id r d st h => ?_) (fun id r r' d h => ?_) <;> (first | assumption | (simp only [State.sound] at *; simp_all; done) | (simp only [State.sound] at *; (repeat' split) <;> simp_all))

theorem execEngine_sound (ring : Fin 262144) (s : State) (hs : s.sound) : after State.sound (execEngine ring s) := by
  unfold execEngine
  refine after_deliver _ _ _ _ (by assumption) (fun id r d st h => ?_) (fun id r r' d h => ?_) <;> (simp only [State.sound] at *; simp_all)

theorem execAcceptanceCompletionPost_sound (ring : Fin 262144) (s : State) (hs : s.sound) : after State.sound (execAcceptanceCompletionPost ring s) := by
  unfold execAcceptanceCompletionPost
  (try dsimp only); (repeat' split) <;> first | exact (after_next _).mpr (by assumption) | (rw [after_next]; (simp only [State.sound] at *; simp_all)) | exact after_refused _ | exact after_fault _ | (refine after_onlyIf _ (by assumption) ?_; (simp only [State.sound] at *; simp_all))

theorem execRgsJobHeldClear_sound (part : Fin 8) (s : State) (hs : s.sound) : after State.sound (execRgsJobHeldClear part s) := by
  unfold execRgsJobHeldClear
  refine after_onlyIf _ (by assumption) ?_; (simp only [State.sound] at *; simp_all)

theorem execCurrentReport_sound (volts amps : BitVec 16) (rails : List (BitVec 16)) (s : State) (hs : s.sound) : after State.sound (execCurrentReport volts amps rails s) := by
  unfold execCurrentReport
  (try dsimp only); (repeat' split) <;> first | (rw [after_next]; assumption) | exact after_fault _ | exact after_refused _ | (refine after_onlyIf _ (by assumption) ?_; (simp only [State.sound] at *; simp_all))

theorem execAllowedPowerEffect_sound (s : State) (hs : s.sound) : after State.sound (execAllowedPowerEffect s) := by
  unfold execAllowedPowerEffect
  refine after_onlyIf _ (by assumption) ?_; (simp only [State.sound] at *; simp_all)

theorem execSensorSelfCheck_sound (failed : List Nat) (s : State) (hs : s.sound) : after State.sound (execSensorSelfCheck failed s) := by
  unfold execSensorSelfCheck
  (try dsimp only); (repeat' split) <;> first | (rw [after_next]; assumption) | exact after_fault _ | exact after_refused _ | (refine after_onlyIf _ (by assumption) ?_; (simp only [State.sound] at *; simp_all))

theorem execCycleCountFlashWrite_sound (stack : Fin 8) (s : State) (hs : s.sound) : after State.sound (execCycleCountFlashWrite stack s) := by
  unfold execCycleCountFlashWrite
  (try dsimp only); (repeat' split) <;> first | exact (after_next _).mpr (by assumption) | (rw [after_next]; (simp only [State.sound] at *; simp_all)) | exact after_refused _ | exact after_fault _ | (refine after_onlyIf _ (by assumption) ?_; (simp only [State.sound] at *; simp_all))

theorem execModelRun_sound (sensors : List (BitVec 12)) (coolant : BitVec 12) (coolantBroken : Bool) (s : State) (hs : s.sound) : after State.sound (execModelRun sensors coolant coolantBroken s) := by
  unfold execModelRun
  split
  · exact after_refused _
  · refine after_onlyIf _ hs (sound_of_calm (runAllCycles_calm _) (sound_of_calm (tripOver_calm _) (sound_of_calm (paceVaults_calm _)
      (sound_of_calm (writeCaps_calm _) (sound_of_calm (runEpisodes_calm _) (sound_of_calm (setAllowed_calm _)
      (sound_of_calm (noteRun_calm _ _ _) (sound_of_calm (runRegions_calm _ _ _) hs))))))))

theorem execAlwaysOnTripCheck_sound (sensors : List (BitVec 12)) (s : State) (hs : s.sound) : after State.sound (execAlwaysOnTripCheck sensors s) := by
  unfold execAlwaysOnTripCheck
  (try dsimp only); (repeat' split) <;> first | (rw [after_next]; assumption) | exact after_fault _ | exact after_refused _ | (refine after_onlyIf _ (by assumption) ?_; (simp only [State.sound] at *; simp_all))

theorem execMailboxGo_sound (chan : Fin 33) (s : State) (hs : s.sound) : after State.sound (execMailboxGo chan s) := by
  unfold execMailboxGo
  refine after_onlyIf _ (by assumption) ?_; (simp only [State.sound] at *; simp_all)

theorem execCommandArrival_sound (chan : Fin 33) (s : State) (hs : s.sound) : after State.sound (execCommandArrival chan s) := by
  unfold execCommandArrival
  refine after_onlyIf _ (by assumption) ?_; (simp only [State.sound] at *; simp_all)

theorem execCommandEnd_sound (s : State) (hs : s.sound) : after State.sound (execCommandEnd s) := by
  unfold execCommandEnd
  (try dsimp only); (repeat' split) <;> first | exact (after_next _).mpr (by assumption) | (rw [after_next]; (simp only [State.sound] at *; simp_all)) | exact after_refused _ | exact after_fault _ | (refine after_onlyIf _ (by assumption) ?_; (simp only [State.sound] at *; simp_all))

theorem execMailboxCommandTimeout_sound (s : State) (hs : s.sound) : after State.sound (execMailboxCommandTimeout s) := by
  unfold execMailboxCommandTimeout
  (try dsimp only); (repeat' split) <;> first | exact (after_next _).mpr (by assumption) | (rw [after_next]; (simp only [State.sound] at *; simp_all)) | exact after_refused _ | exact after_fault _ | (refine after_onlyIf _ (by assumption) ?_; (simp only [State.sound] at *; simp_all))

theorem execNop_sound (s : State) (hs : s.sound) : after State.sound (execNop s) := by
  unfold execNop
  refine after_applyWith _ _ _ _ (by assumption) (fun p r => ?_) <;> (simp only [State.sound] at *; simp_all)

theorem execModuleQuery_sound (s : State) (hs : s.sound) : after State.sound (execModuleQuery s) := by
  unfold execModuleQuery
  refine after_applyWith _ _ _ _ (by assumption) (fun p r => ?_) <;> (simp only [State.sound] at *; simp_all)

theorem execCapsRead_sound (s : State) (hs : s.sound) : after State.sound (execCapsRead s) := by
  unfold execCapsRead
  refine after_applyWith _ _ _ _ (by assumption) (fun p r => ?_) <;> (simp only [State.sound] at *; simp_all)

theorem execPartitionQuery_sound (s : State) (hs : s.sound) : after State.sound (execPartitionQuery s) := by
  unfold execPartitionQuery
  refine after_applyWith _ _ _ _ (by assumption) (fun p r => ?_) <;> (simp only [State.sound] at *; simp_all)

theorem execLogRead_sound (s : State) (hs : s.sound) : after State.sound (execLogRead s) := by
  unfold execLogRead
  refine after_applyWith _ _ _ _ (by assumption) (fun p r => ?_) <;> (simp only [State.sound] at *; simp_all)

theorem execThermalGraceSet_sound (s : State) (hs : s.sound) : after State.sound (execThermalGraceSet s) := by
  unfold execThermalGraceSet
  refine after_applyWith _ _ _ _ (by assumption) (fun p r => ?_) <;> (simp only [State.sound] at *; simp_all)

theorem execEscalationSet_sound (s : State) (hs : s.sound) : after State.sound (execEscalationSet s) := by
  unfold execEscalationSet
  refine after_applyWith _ _ _ _ (by assumption) (fun p r => ?_) <;> (simp only [State.sound] at *; simp_all)

theorem execAccountSet_sound (s : State) (hs : s.sound) : after State.sound (execAccountSet s) := by
  unfold execAccountSet
  refine after_applyWith _ _ _ _ (by assumption) (fun p r => ?_) <;> (simp only [State.sound] at *; simp_all)

theorem execPartitionCreate_sound (s : State) (hs : s.sound) : after State.sound (execPartitionCreate s) := by
  unfold execPartitionCreate
  refine after_applyWith _ _ _ _ (by assumption) (fun p r => ?_) <;> (simp only [State.sound] at *; simp_all)

theorem execPartitionCommit_sound (s : State) (hs : s.sound) : after State.sound (execPartitionCommit s) := by
  unfold execPartitionCommit
  refine after_applyWith _ _ _ _ (by assumption) (fun p r => ?_) <;> (simp only [State.sound] at *; simp_all)

theorem execPartitionRenew_sound (s : State) (hs : s.sound) : after State.sound (execPartitionRenew s) := by
  unfold execPartitionRenew
  refine after_applyWith _ _ _ _ (by assumption) (fun p r => ?_) <;> (simp only [State.sound] at *; simp_all)

theorem execPartitionDestroy_sound (s : State) (hs : s.sound) : after State.sound (execPartitionDestroy s) := by
  unfold execPartitionDestroy
  refine after_applyWith _ _ _ _ (by assumption) (fun p r => ?_) <;> (simp only [State.sound] at *; simp_all)

theorem execGranuleAssign_sound (s : State) (hs : s.sound) : after State.sound (execGranuleAssign s) := by
  unfold execGranuleAssign
  refine after_applyWith _ _ _ _ (by assumption) (fun p r => ?_) <;> (first | assumption | (simp only [State.sound] at *; simp_all; done) | (simp only [State.sound] at *; (repeat' split) <;> simp_all))

theorem execGranuleRelease_sound (s : State) (hs : s.sound) : after State.sound (execGranuleRelease s) := by
  unfold execGranuleRelease
  refine after_applyWith _ _ _ _ (by assumption) (fun p r => ?_) <;> (simp only [State.sound] at *; simp_all)

theorem execGranuleShare_sound (s : State) (hs : s.sound) : after State.sound (execGranuleShare s) := by
  unfold execGranuleShare
  refine after_applyWith _ _ _ _ (by assumption) (fun p r => ?_) <;> (first | assumption | (simp only [State.sound] at *; simp_all; done) | (simp only [State.sound] at *; (repeat' split) <;> simp_all))

theorem execNbMode_sound (s : State) (hs : s.sound) : after State.sound (execNbMode s) := by
  unfold execNbMode
  refine after_applyWith _ _ _ _ (by assumption) (fun p r => ?_) <;> (simp only [State.sound] at *; simp_all)

theorem execRingCreate_sound (s : State) (hs : s.sound) : after State.sound (execRingCreate s) := by
  unfold execRingCreate
  refine after_applyWith _ _ _ _ (by assumption) (fun p r => ?_) <;> (simp only [State.sound] at *; simp_all)

theorem execRingDelete_sound (s : State) (hs : s.sound) : after State.sound (execRingDelete s) := by
  unfold execRingDelete
  refine after_applyWith _ _ _ _ (by assumption) (fun p r => ?_) <;> (simp only [State.sound] at *; simp_all)

theorem execTimetableBind_sound (s : State) (hs : s.sound) : after State.sound (execTimetableBind s) := by
  unfold execTimetableBind
  refine after_applyWith _ _ _ _ (by assumption) (fun p r => ?_) <;> (first | assumption | (simp only [State.sound] at *; simp_all; done) | (simp only [State.sound] at *; (repeat' split) <;> simp_all))

theorem execTimetableUnbind_sound (s : State) (hs : s.sound) : after State.sound (execTimetableUnbind s) := by
  unfold execTimetableUnbind
  refine after_applyWith _ _ _ _ (by assumption) (fun p r => ?_) <;> (simp only [State.sound] at *; simp_all)

theorem execRetire_sound (s : State) (hs : s.sound) : after State.sound (execRetire s) := by
  unfold execRetire
  refine after_applyWith _ _ _ _ (by assumption) (fun p r => ?_) <;> (simp only [State.sound] at *; simp_all)

theorem execDomainReset_sound (s : State) (hs : s.sound) : after State.sound (execDomainReset s) := by
  unfold execDomainReset
  split
  · exact (after_next _).mpr hs
  · rw [after_next]; simp only [State.sound] at *; (repeat' split) <;> simp_all

theorem execFwChunk_sound (s : State) (hs : s.sound) : after State.sound (execFwChunk s) := by
  unfold execFwChunk
  refine after_applyWith _ _ _ _ (by assumption) (fun p r => ?_) <;> (simp only [State.sound] at *; simp_all)

theorem execFwUpdate_sound (s : State) (hs : s.sound) : after State.sound (execFwUpdate s) := by
  unfold execFwUpdate
  refine after_applyWith _ _ _ _ (by assumption) (fun p r => ?_) <;> (simp only [State.sound] at *; simp_all)

theorem execFwSecurityRaise_sound (s : State) (hs : s.sound) : after State.sound (execFwSecurityRaise s) := by
  unfold execFwSecurityRaise
  refine after_applyWith _ _ _ _ (by assumption) (fun p r => ?_) <;> (simp only [State.sound] at *; simp_all)

theorem execRawRead_sound (value : BitVec 32) (s : State) (hs : s.sound) : after State.sound (execRawRead value s) := by
  unfold execRawRead
  refine after_onlyIf _ (by assumption) ?_; (simp only [State.sound] at *; simp_all)

theorem execRawWrite_sound (value : BitVec 32) (s : State) (hs : s.sound) : after State.sound (execRawWrite value s) := by
  unfold execRawWrite
  refine after_onlyIf _ (by assumption) ?_; (simp only [State.sound] at *; simp_all)

theorem execRawModeEnable_sound (value : BitVec 32) (s : State) (hs : s.sound) : after State.sound (execRawModeEnable value s) := by
  unfold execRawModeEnable
  refine after_onlyIf _ (by assumption) ?_; (simp only [State.sound] at *; simp_all)

theorem execRawOperationDone_sound (s : State) (hs : s.sound) : after State.sound (execRawOperationDone s) := by
  unfold execRawOperationDone
  (try dsimp only); (repeat' split) <;> first | exact (after_next _).mpr (by assumption) | (rw [after_next]; (simp only [State.sound] at *; simp_all)) | exact after_refused _ | exact after_fault _ | (refine after_onlyIf _ (by assumption) ?_; (simp only [State.sound] at *; simp_all))

theorem execScrubRead_sound (cycle : ScrubCycle) (s : State) (hs : s.sound) : after State.sound (execScrubRead cycle s) := by
  unfold execScrubRead
  dsimp only
  split
  · exact after_onlyIf _ hs (sound_of_calm (scrubVisit_calm _ _ _) hs)
  · exact (after_next _).mpr hs

theorem execScrubWriteBack_sound (cycle : ScrubCycle) (s : State) (hs : s.sound) : after State.sound (execScrubWriteBack cycle s) := by
  unfold execScrubWriteBack
  dsimp only
  split
  · exact after_onlyIf _ hs (sound_of_calm (setScrub_calm _ _ _) (foldl_sound (fun s f h => scrubMend_sound _ _ _ _ h) _ _ hs))
  · exact (after_next _).mpr hs

theorem execScrubLapLate_sound (unit : ScrubUnit) (s : State) (hs : s.sound) : after State.sound (execScrubLapLate unit s) := by
  unfold execScrubLapLate
  refine after_onlyIf _ (by assumption) ?_; (simp only [State.sound] at *; simp_all)

theorem execRegisterWrite_sound (who : Requester) (offset : BitVec 26) (be : BitVec 4) (value : BitVec 32) (s : State) (hs : s.sound) : after State.sound (execRegisterWrite who offset be value s) := by
  unfold execRegisterWrite
  refine after_onlyIf _ (by assumption) ?_; (simp only [State.sound] at *; simp_all)

theorem execRegisterLowHalfRead_sound (who : Requester) (offset : BitVec 26) (s : State) (hs : s.sound) : after State.sound (execRegisterLowHalfRead who offset s) := by
  unfold execRegisterLowHalfRead
  refine after_onlyIf _ (by assumption) ?_; (simp only [State.sound] at *; simp_all)

theorem execRegisterLowHalfWrite_sound (who : Requester) (offset : BitVec 26) (value : BitVec 32) (s : State) (hs : s.sound) : after State.sound (execRegisterLowHalfWrite who offset value s) := by
  unfold execRegisterLowHalfWrite
  refine after_onlyIf _ (by assumption) ?_; (simp only [State.sound] at *; simp_all)

theorem execRegisterHighHalfWrite_sound (who : Requester) (offset : BitVec 26) (value : BitVec 32) (s : State) (hs : s.sound) : after State.sound (execRegisterHighHalfWrite who offset value s) := by
  unfold execRegisterHighHalfWrite
  refine after_onlyIf _ (by assumption) ?_; (simp only [State.sound] at *; simp_all)

theorem execSeqLanesWrite_sound (part : Fin 8) (value : BitVec 32) (s : State) (hs : s.sound) : after State.sound (execSeqLanesWrite part value s) := by
  unfold execSeqLanesWrite
  refine after_onlyIf _ (by assumption) ?_; (simp only [State.sound] at *; simp_all)

theorem execVcWaysWrite_sound (part : Fin 8) (value : BitVec 32) (s : State) (hs : s.sound) : after State.sound (execVcWaysWrite part value s) := by
  unfold execVcWaysWrite
  refine after_onlyIf _ (by assumption) ?_; (simp only [State.sound] at *; simp_all)

theorem execSeqSvcWrite_sound (part : Fin 8) (value : BitVec 32) (s : State) (hs : s.sound) : after State.sound (execSeqSvcWrite part value s) := by
  unfold execSeqSvcWrite
  refine after_onlyIf _ (by assumption) ?_; (simp only [State.sound] at *; simp_all)

theorem execEpochRegisterWrite_sound (who : Requester) (offset : BitVec 26) (value : BitVec 32) (s : State) (hs : s.sound) : after State.sound (execEpochRegisterWrite who offset value s) := by
  unfold execEpochRegisterWrite
  refine after_onlyIf _ (by assumption) ?_; (simp only [State.sound] at *; simp_all)

theorem execPwrInputLimitWrite_sound (value : BitVec 32) (s : State) (hs : s.sound) : after State.sound (execPwrInputLimitWrite value s) := by
  unfold execPwrInputLimitWrite
  refine after_onlyIf _ (by assumption) ?_; (simp only [State.sound] at *; simp_all)

theorem execModuleResetAssert_sound (src : ResetSource) (s : State) (hs : s.sound) : after State.sound (execModuleResetAssert src s) := by
  unfold execModuleResetAssert
  rw [after_next]
  cases src <;> exact ⟨rfl, rfl, rfl, sramsOk_nil⟩

theorem execInputOutOfRange_sound (s : State) (hs : s.sound) : after State.sound (execInputOutOfRange s) := by
  unfold execInputOutOfRange
  simp

theorem execInputBackInRange_sound (s : State) (hs : s.sound) : after State.sound (execInputBackInRange s) := by
  unfold execInputBackInRange
  refine after_onlyIf _ (by assumption) ?_; (simp only [State.sound] at *; simp_all)

theorem execClockMonitorTrip_sound (pllLost : Bool) (s : State) (hs : s.sound) : after State.sound (execClockMonitorTrip pllLost s) := by
  unfold execClockMonitorTrip
  exact after_onlyIf _ hs ⟨rfl, rfl, rfl, sramsOk_nil⟩

theorem execInputBelow20V_sound (s : State) (hs : s.sound) : after State.sound (execInputBelow20V s) := by
  unfold execInputBelow20V
  rw [after_next]; exact ⟨rfl, rfl, rfl, sramsOk_nil⟩

theorem execInputRisesAbove20V_sound (s : State) (hs : s.sound) : after State.sound (execInputRisesAbove20V s) := by
  unfold execInputRisesAbove20V
  refine after_onlyIf _ (by assumption) ?_; (simp only [State.sound] at *; simp_all)

theorem execTripLatchClear_sound (s : State) (hs : s.sound) : after State.sound (execTripLatchClear s) := by
  unfold execTripLatchClear
  refine after_onlyIf _ (by assumption) ?_; (simp only [State.sound] at *; simp_all)

theorem execModuleResetDeassert_sound (legacySel : Bool) (addrSel : BitVec 2) (s : State) (hs : s.sound) : after State.sound (execModuleResetDeassert legacySel addrSel s) := by
  unfold execModuleResetDeassert
  refine after_onlyIf _ (by assumption) ?_; (simp only [State.sound] at *; simp_all)

theorem execStageRails_sound (s : State) (hs : s.sound) : after State.sound (execStageRails s) := by
  unfold execStageRails
  have h2 : (enterStage s 2).sound := sound_of_calm (enterStage_calm _ _) hs
  generalize enterStage s 2 = t at h2 ⊢
  generalize List.range 128 = l
  generalize List.range 8 = m
  generalize coldRails = cold
  dsimp only
  refine after_onlyIf _ hs ?_
  split
  · exact h2
  · exact foldl_sound (fun s w h => sound_of_calm (setWing_calm _ _ _) h) _ _ h2

theorem execStageTrain_sound (report : TrainReport) (s : State) (hs : s.sound) : after State.sound (execStageTrain report s) := by
  unfold execStageTrain
  refine after_onlyIf _ (by assumption) ?_; (first | assumption | (simp only [State.sound] at *; simp_all; done) | (simp only [State.sound] at *; (repeat' split) <;> simp_all))

theorem execStageTest_sound (fails : List SelfTestFail) (s : State) (hs : s.sound) : after State.sound (execStageTest fails s) := by
  unfold execStageTest
  refine after_onlyIf _ (by assumption) ?_; (first | assumption | (simp only [State.sound] at *; simp_all; done) | (simp only [State.sound] at *; (repeat' split) <;> simp_all))

theorem retireOverfull_sound (s : State) (hs : s.sound) : (retireOverfull s).sound := by
  unfold retireOverfull
  generalize allMarks s = l
  induction l generalizing s with
  | nil => exact hs
  | cons r l ih =>
    refine ih _ ?_
    beta_reduce
    split
    · obtain ⟨-, -, -, h1, h2, h3, -⟩ := afterRecord_calm s r
      have h4 := (afterRecord_calm s r).2.2.2.2.2.2.2.2
      simpa only [State.sound, h1, h2, h3, h4] using hs
    · exact hs

theorem execStageRepair_sound (s : State) (hs : s.sound) : after State.sound (execStageRepair s) := by
  unfold execStageRepair endRepair
  have hb : ∀ (u : State), u.sound → (buildAll u).sound := fun u h =>
    ⟨buildAll_shelf_ok u h.1, buildAll_clm_ok u h.2.1, by rw [(buildAll_calm u).2.2.2.2.1]; exact h.2.2.1,
      srams_ok_of (buildAll_calm u).2.2.2.2.2.2.2 h.2.2.2⟩
  have h0 : (retireOverfull (enterStage s 5)).sound := retireOverfull_sound _ (sound_of_calm (enterStage_calm _ _) hs)
  have h1 : (assignAllSites (retireOverfull (enterStage s 5))).1.sound := sound_of_calm (assignAllSites_calm _) h0
  have h2 : (assignWays (assignAllSites (retireOverfull (enterStage s 5))).1).2.sound := sound_of_calm (assignWays_calm _) h1
  refine after_onlyIf _ hs ?_
  split
  · exact endBringup_sound _ _ _ h1
  · exact endBringup_sound _ _ _ h2
  · exact hb _ h2

theorem execStageFill_sound (s : State) (hs : s.sound) : after State.sound (execStageFill s) := by
  unfold execStageFill
  refine after_onlyIf _ hs ?_
  simp only [State.sound] at *
  simp_all [sramsOf_clear]

theorem execStageCsv_sound (s : State) (hs : s.sound) : after State.sound (execStageCsv s) := by
  unfold execStageCsv
  refine after_onlyIf _ (by assumption) ?_; (simp only [State.sound] at *; simp_all)

theorem execStageDone_sound (s : State) (hs : s.sound) : after State.sound (execStageDone s) := by
  unfold execStageDone
  refine after_onlyIf _ (by assumption) ?_; (first | assumption | (simp only [State.sound] at *; simp_all; done) | (simp only [State.sound] at *; (repeat' split) <;> simp_all))

theorem execRecoveryErase_sound (s : State) (hs : s.sound) : after State.sound (execRecoveryErase s) := by
  unfold execRecoveryErase
  refine after_onlyIf _ (by assumption) ?_; (simp only [State.sound] at *; simp_all)

theorem execRecoveryDataWrite_sound (data : BitVec 32) (s : State) (hs : s.sound) : after State.sound (execRecoveryDataWrite data s) := by
  unfold execRecoveryDataWrite
  refine after_onlyIf _ (by assumption) ?_; (simp only [State.sound] at *; simp_all)

theorem execRecoveryCommit_sound (s : State) (hs : s.sound) : after State.sound (execRecoveryCommit s) := by
  unfold execRecoveryCommit
  refine after_onlyIf _ (by assumption) ?_; (simp only [State.sound] at *; simp_all)

theorem execRecoveryOperationDone_sound (s : State) (hs : s.sound) : after State.sound (execRecoveryOperationDone s) := by
  unfold execRecoveryOperationDone
  (try dsimp only); (repeat' split) <;> first | exact (after_next _).mpr (by assumption) | (rw [after_next]; (simp only [State.sound] at *; simp_all)) | exact after_refused _ | exact after_fault _ | (refine after_onlyIf _ (by assumption) ?_; (simp only [State.sound] at *; simp_all))

theorem execBeatTick_sound (s : State) (hs : s.sound) : after State.sound (execBeatTick s) := by
  unfold execBeatTick
  (try dsimp only); (repeat' split) <;> first | (rw [after_next]; assumption) | exact after_fault _ | exact after_refused _ | (refine after_onlyIf _ (by assumption) ?_; (simp only [State.sound] at *; simp_all))

theorem execSidebandWrite_sound (offset : BitVec 32) (bytes : List (BitVec 8)) (s : State) (hs : s.sound) : after State.sound (execSidebandWrite offset bytes s) := by
  unfold execSidebandWrite
  refine after_onlyIf _ (by assumption) ?_; (simp only [State.sound] at *; simp_all)

theorem execSidebandSetPointer_sound (offset : BitVec 32) (s : State) (hs : s.sound) : after State.sound (execSidebandSetPointer offset s) := by
  unfold execSidebandSetPointer
  refine after_onlyIf _ (by assumption) ?_; (simp only [State.sound] at *; simp_all)

theorem execSidebandRead_sound (words : Nat) (s : State) (hs : s.sound) : after State.sound (execSidebandRead words s) := by
  unfold execSidebandRead
  exact after_onlyIf _ hs (sound_of_calm (emit_calm _ _) (sidebandWords_sound _ _ hs))

theorem execHotJoin_sound (s : State) (hs : s.sound) : after State.sound (execHotJoin s) := by
  unfold execHotJoin
  refine after_onlyIf _ (by assumption) ?_; (simp only [State.sound] at *; simp_all)

theorem execEnec_sound (events : BitVec 8) (s : State) (hs : s.sound) : after State.sound (execEnec events s) := by
  unfold execEnec
  refine after_onlyIf _ (by assumption) ?_; (simp only [State.sound] at *; simp_all)

theorem execDisec_sound (events : BitVec 8) (s : State) (hs : s.sound) : after State.sound (execDisec events s) := by
  unfold execDisec
  refine after_onlyIf _ (by assumption) ?_; (simp only [State.sound] at *; simp_all)

theorem execRstdaa_sound (s : State) (hs : s.sound) : after State.sound (execRstdaa s) := by
  unfold execRstdaa
  refine after_onlyIf _ (by assumption) ?_; (simp only [State.sound] at *; simp_all)

theorem execEntdaa_sound (addr : BitVec 7) (s : State) (hs : s.sound) : after State.sound (execEntdaa addr s) := by
  unfold execEntdaa
  refine after_onlyIf _ (by assumption) ?_; (simp only [State.sound] at *; simp_all)

theorem execSetdasa_sound (staticAddr : BitVec 7) (addr : BitVec 7) (s : State) (hs : s.sound) : after State.sound (execSetdasa staticAddr addr s) := by
  unfold execSetdasa
  refine after_onlyIf _ (by assumption) ?_; (simp only [State.sound] at *; simp_all)

theorem execSetnewda_sound (addr : BitVec 7) (s : State) (hs : s.sound) : after State.sound (execSetnewda addr s) := by
  unfold execSetnewda
  refine after_onlyIf _ (by assumption) ?_; (simp only [State.sound] at *; simp_all)

theorem execGetpid_sound (s : State) (hs : s.sound) : after State.sound (execGetpid s) := by
  unfold execGetpid
  refine after_onlyIf _ (by assumption) ?_; (simp only [State.sound] at *; simp_all)

theorem execGetbcr_sound (s : State) (hs : s.sound) : after State.sound (execGetbcr s) := by
  unfold execGetbcr
  refine after_onlyIf _ (by assumption) ?_; (simp only [State.sound] at *; simp_all)

theorem execGetdcr_sound (s : State) (hs : s.sound) : after State.sound (execGetdcr s) := by
  unfold execGetdcr
  refine after_onlyIf _ (by assumption) ?_; (simp only [State.sound] at *; simp_all)

theorem execGetstatus_sound (s : State) (hs : s.sound) : after State.sound (execGetstatus s) := by
  unfold execGetstatus
  refine after_onlyIf _ (by assumption) ?_; (simp only [State.sound] at *; simp_all)

theorem execGetmxds_sound (s : State) (hs : s.sound) : after State.sound (execGetmxds s) := by
  unfold execGetmxds
  refine after_onlyIf _ (by assumption) ?_; (simp only [State.sound] at *; simp_all)

theorem execJtagTrst_sound (s : State) (hs : s.sound) : after State.sound (execJtagTrst s) := by
  unfold execJtagTrst
  refine after_onlyIf _ (by assumption) ?_; (simp only [State.sound] at *; simp_all)

theorem execIdcode_sound (s : State) (hs : s.sound) : after State.sound (execIdcode s) := by
  unfold execIdcode
  refine after_onlyIf _ hs ?_
  (repeat' split) <;> exact hs

theorem execExtest_sound (s : State) (hs : s.sound) : after State.sound (execExtest s) := by
  unfold execExtest
  refine after_onlyIf _ hs ?_
  (repeat' split) <;> (simp only [State.sound] at *; simp_all)

theorem execClamp_sound (s : State) (hs : s.sound) : after State.sound (execClamp s) := by
  unfold execClamp
  refine after_onlyIf _ hs ?_
  (repeat' split) <;> (simp only [State.sound] at *; simp_all)

theorem execHighz_sound (s : State) (hs : s.sound) : after State.sound (execHighz s) := by
  unfold execHighz
  refine after_onlyIf _ hs ?_
  (repeat' split) <;> (simp only [State.sound] at *; simp_all)

theorem execJtagBypass_sound (s : State) (hs : s.sound) : after State.sound (execJtagBypass s) := by
  unfold execJtagBypass
  refine after_onlyIf _ hs ?_
  (repeat' split) <;> exact hs

end Sys2Proof.Machine
end

