-- ==== Sys2Proof/Tests/Slice0.lean ====
section
/-! SUPPORT. The model's own tests: commands that WellFormed refuses, one word or result per family worked out from the spec by hand, and
for every statement of Certificates/Slice0 a state and operands that meet its hypotheses. -/

namespace Sys2Proof.Machine.Tests

open Sys2Proof Sys2Proof.Machine

set_option maxRecDepth 20000
set_option Elab.async false

/-! ### States -/

/-- Out of module reset, at beat 1,000, after bring-up. -/
def on : State :=
  { State.reset with sup := { inReset := false }, beat := 1000, boot := { valid := true, stage := 8 } }

/-- Partition 0 with this content, on ports 0 and wings 0. -/
def withPart (s : State) (x : Part) : State := setPart s 0 { x with state := .committed, ports := 1, wings := 1, share := 1024 }

/-! ### The block, module reset and bring-up -/

theorem witness_StepKeepsMemoriesCanonical : (on.canonical ∧ isNext (step on) = true)
    ∧ (Instr.beatTick.wf = true ∧ on.beat ≠ BitVec.allOnes 64) :=
  ⟨⟨⟨by decide, fun _ => ⟨rfl, rfl⟩⟩, by decide⟩, by decide⟩

theorem witness_NothingHappensInModuleReset :
    State.reset.sup.inReset = true ∧ Instr.beatTick.wf = true ∧ Instr.beatTick.outsideReset = false := by decide

theorem witness_ModuleResetKeeps : on.sup.below20 = false := by decide

/-- The input below 20 V. -/
def low : State := { State.reset with sup := { State.reset.sup with below20 := true } }

theorem witness_ModuleResetEndsAndInputPower :
    (State.reset.sup.inReset = true ∧ State.reset.sup.inputOut = false ∧ State.reset.sup.below20 = false) ∧ low.sup.below20 = true := by decide

def faulty : State := withPart on { faults := [⟨1, 7, 0, 0, none⟩] }
def lastBeat : State := { on with beat := BitVec.allOnes 64 }

theorem witness_BeatTickCounts : on.sup.inReset = false ∧ (beatOpen on = false ∧ on.beat ≠ BitVec.allOnes 64)
    ∧ (faulty.sup.inReset = false ∧ beatOpen faulty = true ∧ faulty.beat ≠ BitVec.allOnes 64)
    ∧ (lastBeat.sup.inReset = false ∧ lastBeat.beat = BitVec.allOnes 64) := by decide

/-- Bring-up in a stage that began at beat 0, at its last beat. -/
def stage (n : Nat) (b : Nat) (s : State) : State :=
  { s with beat := BitVec.ofNat 64 b, boot := { s.boot with stage := BitVec.ofNat 4 n, stageAt := 0, valid := false, slotRun := 1 } }
def trip (s : State) : State := { s with boot := { s.boot with tripped := true } }

def goodTrain : TrainReport := ⟨[], [(4095, 63, [0, 1, 2, 3])], 0, 0, [], []⟩
/-- The last lane group of the last crossing has five failing lanes. -/
def brokenBridge : TrainReport := ⟨[], [(4095, 63, [0, 1, 2, 3, 63])], 0, 0, [], []⟩
def deadVault : TrainReport := ⟨[], [], 0, 0x8000, [], []⟩
def softFail : SelfTestFail := ⟨0, .core ⟨0, 0, 0⟩⟩
def hardFail : SelfTestFail := ⟨5, .slice 511⟩
/-- Vault 15 with five bad conservator sites, one of them by the fuses. -/
def fiveBad : State := setVault { on with fuses := { on.fuses with csvSites := [(15, 67)] } } 15 { csvBad := [0, 1, 2, 3] }
/-- Three ways of slice 64 retired: stack 1, slice 0. -/
def threeWays : State := { on with fuses := { on.fuses with repair := [mkRecord 0x15 0 0 0 0, mkRecord 0x15 0 0 0 0x40, mkRecord 0x15 0 0 0 0x3C0] } }

theorem witness_BringupStages_rails :
    (stageIs (stage 1 125000000 on) 1 125000000 = true ∧ (stage 1 125000000 on).boot.slotRun ≠ 0)
    ∧ coldHeld (stage 1 0 on) = false ∧ (stageIs (trip (stage 1 0 on)) 1 125000000 = true ∧ coldHeld (trip (stage 1 0 on)) = true) := by
  decide
theorem witness_BringupStages_train :
    (stageIs (stage 2 60000 on) 2 60000 = true ∧ (stage 2 60000 on).boot.tripped = false)
    ∧ coldHeld (stage 2 60000 on) = false
    ∧ (badBridge on goodTrain = none ∧ goodTrain.deadVaults = 0) ∧ badBridge on brokenBridge = some 4095
    ∧ (badBridge on deadVault = none ∧ (List.range 16).find? (fun v => deadVault.deadVaults.getLsbD v) = some 15) := by decide
theorem witness_BringupStages_test :
    stageIs (stage 3 125000000 on) 3 125000000 = true ∧ (stage 3 125000000 on).boot.training = none ∧ (∀ f ∈ [softFail], f.ends = none)
    ∧ ([softFail, hardFail].find? (fun f => f.ends.isSome) = some hardFail ∧ hardFail.ends = some 511) := by decide
theorem witness_BringupStages_repair :
    stageIs (stage 4 250000 on) 4 250000 = true
    ∧ ((∀ v, v < 16 → (badCsvSites on v).length ≤ 4) ∧ (∀ i ∈ recordedSlices on, (badWays on i).length ≤ 2))
    ∧ (stageIs (stage 4 0 fiveBad) 4 250000 = true
      ∧ (List.range 16).find? (fun v => 4 < (badCsvSites (stage 4 0 fiveBad) v).length) = some 15)
    ∧ (stageIs (stage 4 0 threeWays) 4 250000 = true ∧ (∀ v, v < 16 → (badCsvSites (stage 4 0 threeWays) v).length ≤ 4)
      ∧ (recordedSlices (stage 4 0 threeWays)).find? (fun i => 2 < (badWays (stage 4 0 threeWays) i).length) = some 64) := by decide
/-- The fill of every vault began at beat 1. -/
def filling : State := { on with vaults := (List.range 16).map fun v => (v, { fillSpans := [(1, 1)] }) }
def legacyOn : State := { on with boot := { on.boot with legacy := true } }
theorem witness_BringupStages_end :
    stageIs (stage 5 250000 on) 5 250000 = true ∧ (stageIs (stage 6 2900000 filling) 6 2900000 = true ∧ fillDone (stage 6 2900000 filling) = true)
    ∧ (stageIs (stage 7 250000 on) 7 250000 = true ∧ (stage 7 250000 on).boot.legacy = false)
    ∧ (stageIs (stage 7 0 legacyOn) 7 250000 = true ∧ (stage 7 0 legacyOn).boot.legacy = true ∧ coldHeld (stage 7 0 legacyOn) = false)
    ∧ (stageIs (trip (stage 2 60000 on)) 2 60000 = true ∧ coldHeld (trip (stage 2 60000 on)) = true) := by decide

/-- In RECOVERY, with this operation under way. -/
def recovery (op : Option RecoveryOp) : State :=
  { on with boot := { on.boot with stage := 0xE, valid := false, recBusy := op } }

theorem witness_FirmwareRecovery :
    ((recovery none).sup.inReset = false ∧ (recovery none).boot.stage = 0xE ∧ (recovery none).boot.recBusy = none)
    ∧ (recovery (some .erase)).boot.recBusy = some .erase
    ∧ ((recovery (some .check)).boot.recBusy = some .check
      ∧ imageCheck (recovery (some .check)) ((slotOf (recovery (some .check)) false).image 0) 0 ≠ 0) := by decide

def resetting : State := { on with resets := [(256, 5000), (519, 1000), (783, 5000), (1024, 5000)] }

theorem witness_DomainResets :
    on.sup.inReset = false ∧ (inDomainReset on 1 7 = false ∧ inDomainReset on 2 7 = false ∧ inDomainReset on 3 15 = false
      ∧ inDomainReset on 4 0 = false)
    ∧ (resetting.sup.inReset = false ∧ inDomainReset resetting 1 0 = true ∧ inDomainReset resetting 2 7 = true
      ∧ inDomainReset resetting 3 15 = true ∧ inDomainReset resetting 4 0 = true) := by decide

theorem witness_PcieResetsAndLinks : on.sup.inReset = false ∧ inDomainReset on 1 7 = false
    ∧ (resetting.sup.inReset = false ∧ find resetting.resets (256 * domCode .stack + 7) = some 1000 ∧ 1000 = now resetting)
    ∧ (112 ∈ ({ resetting with sup := { resetting.sup with railsDown := [112] } } : State).sup.railsDown ∧ railDomain 112 = some (.stack, 7)) := by decide

def offAt : State := { on with boot := { on.boot with deaccOffAt := some 1000, tripOffAt := some 1000 } }

/-- With the rails of wing 0, of the curator and of the supervisor on. -/
def railed : State := setWing { on with sup := { on.sup with rails := [(208, true), (209, true)] } } 0 { railOn := true }

theorem witness_RailShutdownsAndFaults : offAt.sup.inReset = false ∧ offAt.boot.deaccOffAt = some (now offAt)
    ∧ offAt.boot.tripOffAt = some (now offAt)
    ∧ (railIsOn railed 0 = true ∧ railIsOn railed 208 = true ∧ railIsOn railed 209 = true)
    ∧ (railDomain 0 = some (.stack, 0) ∧ inDomainReset railed (domCode .stack) 0 = false)
    ∧ (railDomain 208 = some (.curator, 0) ∧ inDomainReset railed (domCode .curator) 0 = false) ∧ railDomain 209 = none := by decide

/-! ### The sequencer -/

def tier0 : Tier := ⟨10000, 1000, [], [⟨0, 0, 100, 0x1000⟩], [⟨1, 0, 3, 50, 2, 0⟩], [⟨0, 200, 0x2000⟩]⟩
/-- Step 0: gate 3, one wake entry (wing 0 at k = 4), one tier. -/
def step0 (gate : Bool) : StepRec := ⟨1024, 256, 0xFFFFFFFF, gate, true, 3, 500, [⟨1, 0, 0⟩], [none, none, none, some tier0]⟩
def table0 (gate : Bool) : Timetable := ⟨0, 1, 1, [0], [step0 gate], 4096, [(0, [(0, 4096)])], []⟩
def run0 : RunCtx := ⟨0, 0, 1, 0, 0, none, none, none, none⟩
def planned (e : EvalStep) : RunCtx := { run0 with eval := some e }
def richPart (gate : Bool) (r : RunCtx) : Part :=
  { bound := [(0, table0 gate)], run := some r, runState := .stepping, inBalance := 1000000000000, gates := [(3, 1)] }
def evalAt (g : Option Nat) (b : Nat) : EvalStep := { index := 0, planned := 2000, at_ := b, gate := g }
def evaluating (gate : Bool) (e : EvalStep) : State := withPart on (richPart gate (planned e))
/-- The gate's count is 0. -/
def closed : State := mapPart (evaluating true (evalAt none 1000)) 0 fun x => { x with gates := [] }
/-- The input account cannot pay. -/
def poor (e : EvalStep) : State := mapPart (evaluating false e) 0 fun x => { x with inBalance := -1 }

/-- Partition 0 with its gates and caps as its evaluations see them. -/
def seen (s : State) : Part := seenInputs (partOf s 0) (now s)

theorem witness_StepEvaluation_gate :
    (closed.sup.inReset = false ∧ (partOf closed 0).run = some (planned (evalAt none 1000))
      ∧ stepOf closed 0 (planned (evalAt none 1000)) 0 = some (step0 true) ∧ look (seenInputs (partOf closed 0) (now closed)).gates 3 0 = 0 ∧ 1000 = now closed)
    ∧ (stepOf (evaluating true (evalAt none 1000)) 0 (planned (evalAt none 1000)) 0 = some (step0 true)
      ∧ look (seen (evaluating true (evalAt none 1000))).gates 3 0 ≠ 0 ∧ 1000 % 4 = 0
      ∧ chosenTier (seen (evaluating true (evalAt none 1000))) (step0 true) = some (3, tier0))
    ∧ (stepOf (evaluating false (evalAt none 1000)) 0 (planned (evalAt none 1000)) 0 = some (step0 false)
      ∧ chosenTier (seen (evaluating false (evalAt none 1000))) (step0 false) = some (3, tier0))
    ∧ (stepOf (poor (evalAt none 1000)) 0 (planned (evalAt none 1000)) 0 = some (step0 false)
      ∧ chosenTier (seen (poor (evalAt none 1000))) (step0 false) = none) := by decide +kernel
theorem witness_StepEvaluation_budget :
    (let s := evaluating false (evalAt (some 744) 1000);
      s.sup.inReset = false ∧ (partOf s 0).run = some (planned (evalAt (some 744) 1000)) ∧ chargesDue s 0 = false
        ∧ chosenTier (seen s) (step0 false) = some (3, tier0))
    ∧ (let s := poor (evalAt (some 744) 1000);
      s.sup.inReset = false ∧ chosenTier (seen s) (step0 false) = none ∧ (partOf s 0).waitEvt.toNat ≠ 0 ∧ now s < 744 + (partOf s 0).waitEvt.toNat)
    ∧ (let s := mapPart (poor (evalAt (some 744) 1000)) 0 fun x => { x with waitEvt := 256 };
      (partOf s 0).waitEvt.toNat ≠ 0 ∧ 744 + (partOf s 0).waitEvt.toNat ≤ now s) := by decide +kernel

theorem witness_CommitSetsTheStart : (evalAt (some 744) 1000).gate = some 744 := by decide +kernel

def live0 (arrived : Bool) (commit start : Nat) : LiveStep :=
  { index := 0, tier := 3, commit := commit, start := start, planned := 1000, budgetWait := 0, body := tier0, step := step0 false, arrived := arrived }
def nextStep (l : LiveStep) : RunCtx := { run0 with next := some l }
def coming (l : LiveStep) : State :=
  { withPart on (richPart false (nextStep l)) with power := { on.power with noticeAt := [(0, 1000, noticesOf l)] } }
/-- A wing whose clock runs at k = 4. -/
def runsAt4 : Wing := { clock := .running, k := 4, railOn := true, kVolt := 4 }
def wing0 : DomainRef := ⟨.wing, 0⟩
/-- Partition 0 without its wing. -/
def notMine : State := mapPart (coming (live0 true 900 1500)) 0 fun x => { x with wings := 2 }
/-- Wing 0 at the end of a change to k = 4, and slice 0 at the end of a wake. -/
def changing : State :=
  { setWing on 0 { clock := .changing, k := 0, kNext := 4, until_ := 1000 } with sliceDoms := [(0, ⟨.waking, 1000⟩)] }

theorem witness_CommitsArriveAndDomainsWake_commit :
    (let s := coming (live0 false 936 2000);
      s.sup.inReset = false ∧ (partOf s 0).run = some (nextStep (live0 false 936 2000)) ∧ (live0 false 936 2000).commit + 64 = now s
        ∧ s.power.noticeAt.find? (fun n => n.1 = 0 && n.2.1 = now s) = some (0, 1000, noticesOf (live0 false 936 2000)))
    ∧ (let s := coming (live0 true 900 11000);
      (live0 true 900 11000).step.wakes.zipIdx.find? (fun y => y.1.kind = SwKind.code wing0.kind && y.1.index = wing0.index
          && y.2 ∉ (live0 true 900 11000).woken) = some (⟨1, 0, 0⟩, 0)
        ∧ hears s (live0 true 900 11000) (stackOfDom wing0.kind wing0.index) = true ∧ mayWake s 0 .wing 0 = true ∧ wakeTime s .wing 0 4 ≠ 0 ∧ now s + wakeTime s .wing 0 4 = 11000)
    ∧ mayWake notMine 0 .wing 0 = false
    ∧ hears on { live0 true 900 11000 with unheard := [0] } (stackOfDom wing0.kind wing0.index) = false := by decide +kernel
theorem witness_CommitsArriveAndDomainsWake_end :
    changing.sup.inReset = false ∧ switchWaits changing 0 = false ∧ (wingOf changing 0).clock = .changing ∧ (wingOf changing 0).until_ = now changing
    ∧ (domOf changing .slice (physDom changing .slice 0)).state = .waking
    ∧ (domOf changing .slice (physDom changing .slice 0)).until_ = now changing := by decide +kernel

def record0 : BitVec 512 := BitVec.ofNat 512 (1 + 2 ^ 16 + 2 ^ 48 * 4 + 2 ^ 100 * 2 ^ 28)
def execStep (l : LiveStep) : RunCtx := { run0 with exec := some l }
def executing (l : LiveStep) : State := withPart on (richPart false (execStep l))
/-- Started at beat 900, its records read. -/
def live1 : LiveStep := { live0 true 300 900 with launchRead := [(0, record0)], engineRead := [(0, 0)], launchOpen := [0], engineOpen := [0] }
def live2 : LiveStep := { live0 true 300 950 with launchOpen := [0], engineOpen := [0] }
def cab0 : CabRef := ⟨0, 0⟩
def granule0 : Granule := ⟨.pinned, 0, false, 0, false, 0⟩
/-- Device address 0x1000 written, in granule 0 of partition 0. -/
def written (s : State) : State :=
  { s with granules := [(0, granule0)], dram := (List.range 4).foldl (fun m i => wordWrite m vaultCodec (128 + i) 0) [] }

/-- An image with poison in its copy's word 128. -/
def spoiled : Timetable := { table0 false with bad := [(128, 2 ^ 64 - 1, 0)] }

/-- Arrived, with its records read, to start at this beat. -/
def recorded (b : Nat) : LiveStep := { live0 true 300 b with launchRead := [(0, record0)], engineRead := [(0, 0)] }

theorem witness_StepsStartAndActAtTheirBeats_start :
    (let s := coming (recorded 1000);
      s.sup.inReset = false ∧ (partOf s 0).run = some (nextStep (recorded 1000)) ∧ (recorded 1000).arrived = true
        ∧ (recorded 1000).start = now s ∧ recordsIn s (recorded 1000) = true
        ∧ (find (partOf s 0).bound 0).bind (fun tt => badStepWord tt (recorded 1000).step) = none)
    ∧ badStepWord spoiled (step0 false) = some (0, 1024, .poison)
    ∧ (let s := executing live2;
      s.sup.inReset = false ∧ (partOf s 0).run = some (execStep live2) ∧ live2.body.slots[0]? = some ⟨1, 0, 3, 50, 2, 0⟩
        ∧ 0 ∉ live2.slotsOn ∧ live2.start + 50 = now s ∧ hears s live2 (stackOfRes 1 0) = true)
    ∧ (let s := executing live1;
      dueLaunch s live1 (cabId cab0) = some 0 ∧ find live1.launchRead 0 = some record0 ∧ hears s live1 (cabId cab0 / 144) = true) := by
  decide +kernel
/-- A step to come, its records not yet read. -/
def unread : LiveStep := live0 true 300 2000
theorem witness_StepsStartAndActAtTheirBeats_read :
    ((partOf (coming unread) 0).run = some (nextStep unread) ∧ unread.arrived = true ∧ now (coming unread) < unread.start)
    ∧ recordAddr unread false 0 = some (0x1000, 64, 0) ∧ recordAddr unread true 0 = some (0x2000, 48, 0)
    ∧ hears (coming unread) unread 0 = true ∧ (peekBytes (coming unread) 0x1000 64).2.1 = none
    ∧ (peekBytes (written (coming unread)) 0x1000 64).2.1 = some 0 := by decide +kernel

theorem witness_LaunchStarts : launchOk record0 = true
    ∧ (∀ k, k < 96 → (chanOf on (siteOfCore on (96 * cabId cab0 + k))).failed = false)
    ∧ (let s := setCab on 0 { waiting := [(record0, 0, 990)], doneFrom := 1000 };
      s.sup.inReset = false ∧ (cabOf s (cabId cab0)).waiting = [(record0, 0, 990)] ∧ (cabOf s (cabId cab0)).busy = false
        ∧ (cabOf s (cabId cab0)).doneFrom = now s
        ∧ ∀ k, k < 96 → (chanOf s (siteOfCore s (96 * cabId cab0 + k))).failed = false) := by decide +kernel

/-- Cabinet 0 runs the launch of live1. -/
def launched (l : LiveStep) : State := setCab (executing l) 0 { busy := true, part := 0, entry := 0, started := 900, timeout := 100, mask := 1 }
def last0 : LiveStep := { live1 with start := 900, body := { tier0 with length := 100 } }
def over0 : LiveStep := { last0 with body := { tier0 with length := 50 } }
def ended0 : LiveStep := { last0 with launchOpen := [], engineOpen := [], lastDone := 1000 }

theorem witness_ReportsAndStepEnds :
    (let s := launched live1;
      s.sup.inReset = false ∧ (cabOf s 0).busy = true ∧ (cabOf s 0).doneFrom ≤ now s
        ∧ (∀ k, k < 96 → (cabOf s 0).mask.getLsbD k = true → coreDone s (96 * 0 + k) = true) ∧ execOf s 0 = some live1)
    ∧ (let s := executing last0;
      execOf s 0 = some last0 ∧ last0.overrunOn = false ∧ last0.start + last0.body.length = now s ∧ reportsIn last0 = false)
    ∧ (let s := executing ended0;
      (partOf s 0).run = some (execStep ended0) ∧ reportsIn ended0 = true ∧ now s = max (ended0.start + ended0.body.length) ended0.lastDone
        ∧ ended0.step.next = 0xFFFFFFFF) := by decide +kernel

theorem witness_TimeoutsAndJobFaults :
    (let s := executing over0;
      s.sup.inReset = false ∧ execOf s 0 = some over0 ∧ over0.start + 2 * over0.body.length = now s ∧ reportsNow s 0 over0 = false
        ∧ owned (partOf s 0) = true ∧ lateStacks over0 = [0] ∧ inDomainReset s 2 0 = false)
    ∧ (execOf (executing ended0) 0 = some ended0 ∧ reportsNow (executing ended0) 0 ended0 = true)
    ∧ ((cabOf (launched live1) (cabId cab0)).busy = true
      ∧ (cabOf (launched live1) (cabId cab0)).started + (cabOf (launched live1) (cabId cab0)).timeout = now (launched live1)
      ∧ kernelEnds { launched live1 with cores := [(0, { lastIssue := some 1000000 })] } (cabId cab0) = false
      ∧ inDomainReset (launched live1) 2 (cabId cab0 / 144) = false ∧ owned (partOf (launched live1) 0) = true
      ∧ (cabOf (launched live1) (cabId cab0)).faultSet = false)
    ∧ kernelEnds { launched live1 with cores := [] } (cabId cab0) = true
    ∧ (faulty.sup.inReset = false ∧ (partOf faulty 0).faults = [⟨1, 7, 0, 0, none⟩] ∧ faultCollected faulty ⟨1, 7, 0, 0, none⟩ = true) := by decide +kernel

/-! ### Xilon: issues -/

/-- A first word of the Reg form (R107): opcode, D, A, B, M, extension bit and guard. -/
def xw (op d a b m ext g : Nat) : Word := BitVec.ofNat 32 (2 ^ 25 * op + 2 ^ 20 * d + 2 ^ 15 * a + 2 ^ 10 * b + 2 ^ 5 * m + 2 ^ 4 * ext + g)

def core0 : CoreRef := ⟨0, 0, 0⟩
/-- Tour 0 with sixteen threads at PC 0; lane l holds l in v1 and 5 − l in v2, u1 holds 9. -/
def tour0 : Tour :=
  { index := 0, threads := List.replicate 16 {}, u := [(1, 9)],
    v := (List.range 16).flatMap fun l => [(32 * l + 1, BitVec.ofNat 32 l), (32 * l + 2, 5 - BitVec.ofNat 32 l)] }
def coreWith (ws : List Word) : Core :=
  { code := ws.zipIdx.map fun x => (x.2, x.1), codeBytes := 4 * ws.length, firstIssue := some 0, tours := 1, active := [(0, tour0)], hasRun := [0] }
/-- Core 0 of wing 0 with this code, its wing's clock at k = 4. -/
def xil (ws : List Word) : State := setCore (setWing on 0 runsAt4) 0 (coreWith ws)

/-- The issue at edge 0 is of this instruction and clean. -/
def cleanAt (s : State) (op : Nat) : Bool :=
  match issueAt s (coreId core0) 0 with
  | some i => i.x.op = op && opListed op && i.x.regs.isSome && 4 * (i.pc + i.x.words) ≤ i.core.codeBytes && (badWord i.core.codeBad i.pc).isNone
      && (!i.x.ext || (badWord i.core.codeBad (i.pc + 1)).isNone) && (poisonRead i.tour i.x i.lanes).isNone
  | none => false

theorem cleanAt_clean {s : State} {op : Nat} (h : cleanAt s op = true) : ∃ i, issueAt s (coreId core0) 0 = some i ∧ i.clean op := by
  unfold cleanAt at h
  split at h
  · rename_i i hi
    simp only [Bool.and_eq_true, decide_eq_true_eq, Bool.or_eq_true, Bool.not_eq_true',
      Option.isNone_iff_eq_none] at h
    obtain ⟨⟨⟨⟨⟨⟨h1, h2⟩, h3⟩, h4⟩, h5⟩, h6⟩, h7⟩ := h
    refine ⟨i, hi, h1, h2, ?_, h4, h5, ?_, h7⟩
    · intro e; rw [e] at h3; simp at h3
    · intro e; rcases h6 with h6 | h6
      · rw [e] at h6; cases h6
      · exact h6
  · cases h

theorem witness_XilonIntegerResults :
    cleanAt (xil [xw 1 0 0 0 0 0 7]) 1 = true
    ∧ (∀ op ∈ [2, 3, 4, 5, 6, 7, 8, 9, 10, 11, 12, 13, 14, 15, 16, 17], cleanAt (xil [xw op 31 1 2 0 0 7]) op = true)
    ∧ (∀ op ∈ [0x18, 0x19, 0x1A, 0x1B, 0x1C, 0x1D, 0x1E], cleanAt (xil [xw op 31 1 0 31 0 7]) op = true)
    ∧ cleanAt (xil [xw 0x1F 31 0 0 0 1 7, 0xFFFFFFFF]) 0x1F = true := by decide +kernel

theorem witness_XilonFloatResults :
    (∀ op ∈ [0x20, 0x21, 0x22, 0x23, 0x24, 0x28, 0x29, 0x2A, 0x2B], cleanAt (xil [xw op 31 1 2 1 0 7]) op = true)
    ∧ (∀ op ∈ [0x25, 0x26, 0x2C, 0x2D, 0x2E, 0x2F], cleanAt (xil [xw op 31 1 0 0 0 7]) op = true)
    ∧ (cleanAt (xil [xw 0x34 31 1 0 0 0 7]) 0x34 = true ∧ ∀ l < 16, (cvtWord 0 (getV tour0 l 1) (getV tour0 l 0)).isSome = true) := by
  decide +kernel

/-- The issue at edge 0 has this. -/
def issues (s : State) (f : Issue → Bool) : Bool := match issueAt s (coreId core0) 0 with | some i => f i | none => false

theorem witness_XilonPredicateUniformAndLaneResults :
    (∀ op ∈ [0x30, 0x31, 0x32], cleanAt (xil [xw op 6 1 2 0 0 7]) op = true ∧ cleanAt (xil [xw op 7 1 2 0 0 7]) op = true)
    ∧ ((condInt 0 (BitVec.toInt (1 : Word)) 2).isSome = true ∧ (condFloat 0 1 2).isSome = true)
    ∧ cleanAt (xil [xw 0x33 6 1 7 7 0 7]) 0x33 = true
    ∧ issues (xil [xw 0x33 6 1 7 8 0 7]) (fun i => 4 * i.pc < i.core.codeBytes && (badWord i.core.codeBad i.pc).isNone && i.x.op = 0x33 && 8 ≤ i.x.m) = true
    ∧ (∀ op ∈ [0x38, 0x39, 0x3A, 0x3B, 0x3C, 0x3D, 0x3E, 0x3F], cleanAt (xil [xw op 15 1 2 0 0 7]) op = true)
    ∧ cleanAt (xil [xw 0x40 15 1 0 0 0 7]) 0x40 = true ∧ cleanAt (xil [xw 0x41 15 0 0 0 0 7]) 0x41 = true
    ∧ cleanAt (xil [xw 0x42 15 1 15 0 0 7]) 0x42 = true ∧ cleanAt (xil [xw 0x43 15 6 0 0 0 7]) 0x43 = true
    ∧ cleanAt (xil [xw 0x44 31 1 2 0 0 7]) 0x44 = true := by decide +kernel

theorem witness_XilonRegisterFrame :
    (match issueAt (xil [xw 2 31 1 2 0 0 7, xw 1 0 0 0 0 0 7]) (coreId core0) 0 with
    | some i => !mismatch i.core (advance i i.tour) && i.core.pendingSet = [] && i.on = List.range 16
    | none => false) = true := by decide +kernel

/-- One result of tour 0 due at edge 0 of beat 1,000, and no issue possible. -/
def landing (d : RDest) : State :=
  setCore (setWing on 0 runsAt4) 0 { coreWith [] with active := [(0, { tour0 with stopped := true })], results := [⟨0, d, 4000⟩] }

theorem witness_XilonResultsLand : ∀ d ∈ [RDest.vec 31 [(15, 7)], .uni 15 7, .pred 6 [(15, true)]],
    let s := landing d;
    s.sup.inReset = false ∧ edgeOk s (wingOfCore (coreId core0)) 0 = true ∧ (find s.cores (coreId core0)).isSome = true
      ∧ issueAt s (coreId core0) 0 = none ∧ wtime s (wingOfCore (coreId core0)) 0 = 4000 := by decide +kernel

/-- A first word of the Jmp form: opcode, 20-bit offset and guard. -/
def jw (op imm g : Nat) : Word := BitVec.ofNat 32 (2 ^ 25 * op + 2 ^ 5 * imm + g)

theorem witness_XilonControl :
    cleanAt (xil [jw 0x60 1 7, 0]) 0x60 = true ∧ cleanAt (xil [jw 0x60 0xFFFFF 7]) 0x60 = true
    ∧ cleanAt (xil [xw 0x61 0 0 0 0 0 7]) 0x61 = true ∧ cleanAt (xil [xw 0x61 0 1 0 0 0 7]) 0x61 = true
    ∧ cleanAt (xil [xw 0x62 0 0 0 0 0 7]) 0x62 = true ∧ cleanAt (xil [xw 0x63 0 0 0 15 0 7]) 0x63 = true
    ∧ cleanAt (xil [xw 0x63 0 0 0 15 0 15]) 0x63 = true
    ∧ (∀ op ∈ [0x68, 0x69], cleanAt (xil [xw op 0 0 0 0 0 7]) op = true) ∧ cleanAt (xil [xw 0x6A 0 0 0 7 0 7]) 0x6A = true
    ∧ cleanAt (xil [xw 0x6B 14 0 0 0 0 7]) 0x6B = true ∧ cleanAt (xil [xw 0x6C 0 1 0 0 0 7]) 0x6C = true
    ∧ cleanAt (setCore (xil [xw 0x69 0 0 0 0 0 7]) 0 { coreWith [xw 0x69 0 0 0 0 0 7] with pendingSet := [4] }) 0x69 = true := by
  decide +kernel

theorem witness_XilonIssueFaults :
    issues (xil []) (fun i => i.core.codeBytes ≤ 4 * i.pc) = true
    ∧ issues (xil [0]) (fun i => 4 * i.pc < i.core.codeBytes && (badWord i.core.codeBad i.pc).isNone && !opListed i.x.op) = true
    ∧ issues (xil [xw 2 31 1 2 31 0 7]) (fun i => 4 * i.pc < i.core.codeBytes && (badWord i.core.codeBad i.pc).isNone && i.x.op = 2 && i.x.regs = none) = true := by decide +kernel

/-! ### Xilon: memory, the array, core events -/

/-- A first word of the Mem form (R107): opcode, D, A, W, SA, SX, I, extension bit and guard. -/
def mw (op d a w sa sx m ext g : Nat) : Word := xw op d a (4 * w + 2 * sa + sx) m ext g

/-- The first n CLM bytes of core 0 are written, as 0: only their check bytes differ from the marker's. -/
def clmZeros (s : State) (n : Nat) : State := { s with clm := (List.range' 0 n).map fun k => (2 * k + 1, 0) }

theorem find_zeros (n k b : Nat) (v : Byte) :
    find ((List.range' k n).map fun k => (2 * k + 1, v)) (2 * b + 1) = (if k ≤ b ∧ b < k + n then some v else none)
      ∧ find ((List.range' k n).map fun k => (2 * k + 1, v)) (2 * b) = none := by
  induction n generalizing k with
  | zero => refine ⟨?_, rfl⟩; rw [if_neg (by omega)]; rfl
  | succ n ih =>
    obtain ⟨h1, h2⟩ := ih (k + 1)
    simp only [List.range'_succ, List.map_cons, find, h1, h2]
    refine ⟨?_, ?_⟩ <;> (repeat' split) <;> first | rfl | omega

theorem clmZeros_value (s : State) (n m a : Nat) (hs : siteOfCore (clmZeros s n) 0 = 0) (h : a + m ≤ n) :
    clmValue (clmZeros s n) 0 a m = some 0 := by
  induction m generalizing a with
  | zero => rfl
  | succ m ih =>
    have h1 := (find_zeros n 0 a 0).1
    have h2 := (find_zeros n 0 a 0).2
    rw [if_pos (by omega)] at h1
    have hc : clmCheck (clmZeros s n) 0 a = .clean 0 := by
      unfold clmCheck wordRead rawGet clmKey
      rw [hs]
      have e1 : cellRead (clmZeros s n).clm clmCodec (2 * a) = 0 := by
        unfold cellRead look clmZeros; simp only; rw [h2]
        simp [Codec.unlisted, clmCodec, Nat.mul_mod_right]
      have e2 : cellRead (clmZeros s n).clm clmCodec (2 * a + 1) = 0 := by
        unfold cellRead look clmZeros; simp only; rw [h1]; rfl
      have e3 : (clmCodec.n + clmCodec.k) * (0 * 32768 + a) + 0 = 2 * a := by simp [clmCodec]
      have e4 : (clmCodec.n + clmCodec.k) * (0 * 32768 + a) + clmCodec.n + 0 = 2 * a + 1 := by simp [clmCodec]
      show clmCodec.check (leNat [cellRead _ clmCodec _]) (leNat [cellRead _ clmCodec _]) = _
      rw [e3, e4, e1, e2]
      decide
    rw [clmValue, hc, ih (a + 1) (by omega)]
    rfl

/-- The only lane whose guard p0 is true is lane 15. -/
def lane15 (s : State) : State :=
  setCore s 0 { coreOf s 0 with active := [(0, { tour0 with threads := List.replicate 15 {} ++ [{ pred := 1 }] })] }

theorem witness_XilonClmAccesses :
    (let s := clmZeros (xil [mw 0x48 31 1 0 0 0 0 0 7]) 16;
      cleanAt s 0x48 = true ∧ Memory.wf s = true
        ∧ issues s (fun i => i.on.all fun l => memAddr i l % i.x.size = 0 && memAddr i l + i.x.size ≤ 32768
            && (clmValue s 0 (memAddr i l) i.x.size).isSome) = true)
    ∧ cleanAt (xil [mw 0x49 2 1 0 0 0 31 0 7]) 0x49 = true
    ∧ (let s := xil [mw 0x48 31 2 0 0 0 0 0 7];
      cleanAt s 0x48 = true ∧ issues s (fun i => (lowest (i.on.flatMap fun l => localFaults 0x12 0x13 32768 i.x.size (memAddr i l))).isSome) = true)
    ∧ (let s := xil [mw 0x49 31 2 0 0 0 0 0 7];
      cleanAt s 0x49 = true ∧ issues s (fun i => (lowest (i.on.flatMap fun l => localFaults 0x12 0x13 32768 i.x.size (memAddr i l))).isSome) = true)
    ∧ (let s := lane15 (clmZeros (xil [xw 0x50 31 3 1 0 0 0]) 16);
      cleanAt s 0x50 = true ∧ Memory.wf s = true
        ∧ issues s (fun i => i.on = [15] && atomicSize i.x.m = some 4 && atomAddr i 15 = 0 && (clmValue s 0 0 4).isSome) = true)
    ∧ (let s := clmZeros (xil [xw 0x50 31 3 1 0 0 7]) 4;
      cleanAt s 0x50 = true ∧ issues s (fun i => i.on = List.range 16 && distinct (i.on.map (atomAddr i)) = [0] && (clmValue s 0 0 4).isSome) = true)
    ∧ (let s := clmZeros (xil [xw 0x50 31 4 1 0 0 7]) 64;
      let s := setCore s 0 { coreOf s 0 with active := [(0, { tour0 with
        v := (List.range 16).map fun l => (32 * l + 4, BitVec.ofNat 32 (4 * (l / 2))) })] };
      cleanAt s 0x50 = true ∧ issues s (fun i => i.on = List.range 16 && (distinct (i.on.map (atomAddr i))).length = 8
        && i.on.all fun l => atomAddr i l % 4 = 0 && (clmValue s 0 (atomAddr i l) 4).isSome) = true) := by
  decide +kernel

/-- Both bank groups of wing 0 are ACTIVE. -/
def banksOn (s : State) : State := { s with bankGroups := [(0, ⟨.on, 0⟩), (1, ⟨.on, 0⟩)] }
def badChannel (s : State) : State := setChannel s 0 { failed := true }

theorem witness_XilonShelfAccesses_none :
    (∀ op ∈ [0x4A, 0x4B], cleanAt (xil [mw op 31 1 0 0 0 0 0 15]) op = true
      ∧ issues (xil [mw op 31 1 0 0 0 0 0 15]) (fun i => i.on = [] && !(chanOf on (siteOfCore on 0)).failed) = true)
    ∧ cleanAt (xil [xw 0x51 31 3 1 0 0 15]) 0x51 = true
    ∧ (let s := badChannel (xil [mw 0x4A 31 1 0 0 0 0 0 7]); cleanAt s 0x4A = true ∧ (chanOf s (siteOfCore s 0)).failed = true) := by
  decide +kernel
theorem witness_XilonShelfAccesses :
    (∀ op ∈ [0x4A, 0x4B],
      let s := banksOn (lane15 (xil [mw op 31 1 0 0 0 0 0 0]));
      cleanAt s op = true ∧ domOn s .bankGroup (bankGroupOf 0 0) = true ∧ domOn s .bankGroup (bankGroupOf 0 1) = true
        ∧ issues s (fun i => i.on = [15] && memAddr i 15 % i.x.size = 0 && memAddr i 15 + i.x.size ≤ shelfBytes) = true)
    ∧ (let s := banksOn (lane15 (xil [xw 0x51 31 3 1 0 0 0]));
      cleanAt s 0x51 = true ∧ issues s (fun i => i.on = [15] && atomicSize i.x.m = some 4
        && atomAddr i 15 % 4 = 0 && atomAddr i 15 + 4 ≤ shelfBytes) = true) := by decide +kernel
theorem witness_XilonShelfAccesses_words :
    issues (lane15 (xil [mw 0x4B 31 1 0 0 0 0 0 0])) (fun i =>
      memAddr i 15 = 15 && i.x.size = 1 && (gather 16 1 [(15, 7)]).map (fun x => (x.1, x.2.1)) = [(0, 2 ^ 15)] && i.core.merge.isNone) = true
    ∧ issues (lane15 (xil [mw 0x4B 28 3 4 0 0 0 0 0])) (fun i =>
      memAddr i 15 = 0 && i.x.size = 16 && (gather 16 16 [(0, 7)]).map (fun x => (x.1, x.2.1)) = [(0, 2 ^ 16 - 1)]
        && i.core.merge.isNone && i.core.wrQueue = []) = true := by decide +kernel

/-- A full-word store of tour 0 that waits since GCLK 9, and a merge buffer that holds the last byte of word 5. -/
def storing : Core := { coreWith [] with wrQueue := [⟨.store, 9, [(5, BitVec.allOnes 16, 7)], [], [], 0, [], []⟩] }
def merging : Core := { coreWith [] with merge := some ⟨5, 1, 7, 9, [0]⟩ }
theorem witness_XilonShelfAccesses_several :
    (∃ q, storing.wrQueue = [] ++ [q] ∧ q.kind = .store ∧ q.issue = 9 ∧ q.tour = 0)
    ∧ (∀ q, storing.wrQueue.getLast? = some q → ¬(q.kind = .store ∧ q.issue = 10 ∧ q.tour = 0))
    ∧ (merging.merge = some ⟨5, 1, 7, 9, [0]⟩ ∧ 1 ||| 2 ≠ 2 ^ 16 - 1 ∧ 1 ||| (2 ^ 16 - 2) = 2 ^ 16 - 1 ∧ (2 ^ 16 - 2 : Nat) ≠ 2 ^ 16 - 1)
    ∧ issues (xil [mw 0x4B 28 4 4 0 0 0 0 7]) (fun i => i.on = List.range 16 && (gather 16 16 (i.on.map fun l => (16 * l, 7))).length = 16) = true := by
  refine ⟨⟨_, rfl, rfl, rfl, rfl⟩, ?_, ⟨rfl, ?_⟩, ?_⟩
  · intro q h; cases h; simp
  all_goals decide +kernel

/-- Granule 0 and wing 0 belong to partition 0, which has cache ways. -/
def mine (s : State) : State := { withPart s { waysOn := 3 } with granules := [(0, granule0)] }

theorem witness_XilonGlobalAccesses_none :
    (∀ x ∈ [(mw 0x4C 30 4 0 0 0 0 0 15, 0x4C), (mw 0x4D 30 4 0 0 0 0 0 15, 0x4D), (xw 0x52 31 4 1 0 0 15, 0x52), (xw 0x53 0 4 1 0 0 15, 0x53)],
      cleanAt (xil [x.1]) x.2 = true ∧ issues (xil [x.1]) (fun i => i.on = []) = true) := by decide +kernel
theorem witness_XilonGlobalAccesses :
    (∀ x ∈ [(mw 0x4C 30 4 2 0 0 31 0 0, 0x4C, 0), (mw 0x4D 30 4 2 0 0 31 0 0, 0x4D, 0), (xw 0x52 31 4 1 0 0 0, 0x52, 1), (xw 0x53 0 4 1 0 0 0, 0x53, 2)],
      let s := mine (lane15 (xil [x.1]));
      cleanAt s x.2.1 = true ∧ issues s (fun i => i.on = [15] &&
        globalFaults s (ownPart s i) x.2.2 4 (globalBase i 15) (globalAddr i 15) = []) = true)
    ∧ atomicSize 0 = some 4 ∧ redSize 0 = some 4
    ∧ (let s := mine (xil [xw 0x58 1 14 13 0 0 7]);
      cleanAt s 0x58 = true ∧ logicalCabs s 0 ≠ 0 ∧ ∀ w ∈ meshWings 0 0, ownerOfWing s w = some 0) := by decide +kernel

/-- Core 0 with the tile of number 0 owned by tour 0, and the image of the array held. -/
def arrayReady (s : State) : State :=
  setCore s 0 { coreOf s 0 with tiles := [(0, { owner := some 0 })], shadow := some { shape := ⟨0, 1, false⟩, bytes := [], ready := some 100 } }
/-- The extension word of a matrix instruction (R140). -/
def mx (mode fmt blk count shelf acc : Nat) : Word :=
  BitVec.ofNat 32 (mode + 4 * fmt + 64 * blk + 128 * count + 2 ^ 13 * shelf + 2 ^ 14 * acc)
def clmHas (s : State) (n : Nat) : Bool := (clmImage s 0 0 n).isSome

theorem witness_XilonMatrixInstructions_clm :
    (let s := clmZeros (xil [xw 0x70 0 0 0 0 1 7, mx 0 1 0 0 0 0]) 128;
      cleanAt s 0x70 = true ∧ Memory.wf s = true ∧ clmHas s 128 = true
        ∧ issues s (fun i => !i.x.shelf && shapeFaults s i.x = [] && (shapeOf i.x).heldBytes = 128) = true)
    ∧ (let s := arrayReady (clmZeros (xil [xw 0x71 0 0 0 0 1 7, mx 0 1 0 0 0 0]) 16);
      cleanAt s 0x71 = true ∧ clmHas s 16 = true ∧ issues s (fun i => !i.x.shelf && runFaults s i = []
        && (tileOf i.core 0).owner = some i.tour.index && (shapeOf i.x).streamBytes (i.x.count + 1) = 16) = true)
    ∧ (let s := arrayReady (xil [xw 0x71 0 0 0 0 1 7, mx 0 1 0 0 0 1]);
      cleanAt s 0x71 = true ∧ issues s (fun i => i.x.acc && runFaults s i = []
        && (tileBad i.core 0 (runWords (shapeOf i.x) (i.x.count + 1))).isNone) = true)
    ∧ (let s := arrayReady (xil [xw 0x72 0 0 0 0 1 7, mx 1 0 0 0 0 0]);
      cleanAt s 0x72 = true ∧ issues s (fun i => !i.x.shelf && i.x.mode = 1 && i.x.fmt = 0 && !(tileOf i.core 0).int
        && (tileBad i.core 0 (List.range 256)).isNone) = true)
    ∧ (let s := arrayReady (xil [xw 0x72 0 0 0 0 1 7, mx 0 4 0 0 0 0]); cleanAt s 0x72 = true ∧ issues s (fun i => i.x.mode = 0) = true)
    ∧ (let s := clmZeros (xil [xw 0x73 2 0 0 0 1 7, mx 0 5 0 0 0 0]) 0;
      cleanAt s 0x73 = true ∧ Memory.wf s = true ∧ issues s (fun i => blockFaults s i 0 (blockBytes i) = []) = true)
    ∧ (let s := clmZeros (xil [xw 0x74 2 0 0 0 1 7, mx 0 5 0 0 0 0]) 32;
      cleanAt s 0x74 = true ∧ issues s (fun i => blockFaults s i 0 (blockBytes i) = [] && blockBytes i = 32) = true
        ∧ (clmValue s 0 0 32).isSome = true) := by decide +kernel
def loading : State := arrayReady (xil [xw 0x72 0 0 0 0 1 7, mx 2 0 0 0 0 0])
theorem witness_XilonMatrixInstructions_load :
    cleanAt loading 0x72 = true ∧ issues loading (fun i => !i.x.shelf && i.x.mode = 2) = true ∧ clmHas (clmZeros loading 1024) 1024 = true := by
  refine ⟨by decide +kernel, by decide +kernel, ?_⟩
  rw [clmHas, clmImage, clmZeros_value loading 1024 1024 0 (by decide +kernel) (by omega)]
  rfl
theorem witness_XilonMatrixInstructions_shelf :
    ∀ x ∈ [(0x70, 0, 1), (0x71, 0, 1), (0x72, 1, 0), (0x72, 2, 0)],
      let s := banksOn (arrayReady (xil [xw x.1 0 0 0 0 1 7, mx x.2.1 x.2.2 0 0 1 0]));
      (x.1 = 0x70 ∨ cleanAt s x.1 = true) ∧ (x.1 ≠ 0x70 ∨ cleanAt (banksOn (xil [xw 0x70 0 0 0 0 1 7, mx 0 1 0 0 1 0])) 0x70 = true)
        ∧ (x.1 ≠ 0x71 ∨ issues s (fun i => runFaults s i = []) = true)
        ∧ domOn s .bankGroup (bankGroupOf 0 0) = true ∧ domOn s .bankGroup (bankGroupOf 0 1) = true
        ∧ (chanOf s (siteOfCore s 0)).failed = false := by decide +kernel

def image1 (ready : Nat) : TileImage := { shape := ⟨0, 1, false⟩, bytes := [], ready := some ready }
def waitingRun : MxRun := { id := 0, shape := ⟨0, 1, false⟩, n := 1, tile := 7, acc := false, claims := true, tour := 0, pc := 0, stream := [], ready := some 4000 }
def inArray : MxRun := { waitingRun with entry := some 3961, claims := false }
def accLoad1 : AccLoad := { tile := 7, int := false, words := [], tour := 0, pc := 0, ready := some 4000 }
def swapping (k : SwapKind) : Core :=
  { coreWith [] with pendingSet := [4], swapQueue := [⟨k, 0, 0, 4000⟩] }
def coreState (c : Core) : State := banksOn (setCore (setWing on 0 runsAt4) 0 c)

/-- Tour 0 with lane 0 one word further on than the others. -/
def apart : Tour := { tour0 with threads := { pc := 1 } :: List.replicate 15 {} }
/-- A swap that has brought tour 0 in is done at 4,000; its threads are parked at one PC or at two. -/
def swapped (two : Bool) : Core := { coreWith [xw 0x68 0 0 0 0 0 7, xw 0x68 0 0 0 0 0 7] with swap := some ⟨0, 0, false, 4000⟩, active := [(0, if two then apart else tour0)] }

theorem witness_CoreEventsAtTheirTime :
    (let s := coreState (coreWith []);
      s.sup.inReset = false ∧ wtime s (wingOfCore (coreId core0)) 0 = 4000 ∧ edgeOk s (wingOfCore (coreId core0)) 0 = true)
    ∧ ((image1 4000).ready = some 4000 ∧ (image1 4000).armed = false)
    ∧ (let c := { coreWith [] with runs := [waitingRun], shadow := some (image1 4000) };
      c.runs.find? (·.entry.isNone) = some waitingRun ∧ entryTime c waitingRun = some 4000)
    ∧ ((image1 4000).ready = some 4000 ∧ { waitingRun with image := some (image1 3000) }.image = some (image1 3000) ∧ waitingRun.image = none
      ∧ entryTime { coreWith [] with runs := [{ waitingRun with image := some (image1 3000) }] } { waitingRun with image := some (image1 3000) } = some 4000)
    ∧ ([inArray].find? (·.writes 4000) = some inArray ∧ inArray.poisoned = false)
    ∧ [accLoad1].find? (·.ready = some 4000) = some accLoad1
    ∧ ((swapped false).swap = some ⟨0, 0, false, 4000⟩ ∧ find (swapped false).active 0 = some tour0 ∧ mismatch (swapped false) tour0 = false
      ∧ find (swapped true).active 0 = some apart ∧ mismatch (swapped true) apart = true ∧ apart.stopped = false)
    ∧ (let c := { coreWith [] with merge := some ⟨0, 1, 7, 3996, [0]⟩ };
      c.merge = some ⟨0, 1, 7, 3996, [0]⟩ ∧ groupsOff (coreState c) 0 [0] = false)
    ∧ (swapBegins (swapping .swapIn) 4000 = some ⟨.swapIn, 0, 0, 4000⟩ ∧ swapBegins (swapping .exchange) 4000 = some ⟨.exchange, 0, 0, 4000⟩
      ∧ find (swapping .exchange).active 0 = some tour0 ∧ 4 ∉ (swapping .exchange).hasRun
      ∧ groupsOff (coreState (swapping .exchange)) 0 (contextWords (swapping .exchange) tour0.index) = false
      ∧ groupsOff (coreState (swapping .exchange)) 0 (contextWords (swapping .exchange) 4) = false
      ∧ (chanOf (coreState (swapping .exchange)) (siteOfCore (coreState (swapping .exchange)) 0)).failed = false
      ∧ Memory.wf (coreState (swapping .exchange)) = true ∧ tour0.bad = []) := by decide +kernel

/-- Tour 4 has run, and the rows of its context's 136 words are all steered to row 0, which holds 0. -/
def ranBefore : State :=
  { coreState { swapping .swapIn with hasRun := [0, 4] } with
    shelf := wordWrite [] shelfCodec 0 0, rowMap := (List.range 136).map fun n => (544 + n, 0) }

theorem witness_CoreEventsAtTheirTime_context :
    swapBegins (coreOf ranBefore 0) 4000 = some ⟨.swapIn, 0, 0, 4000⟩ ∧ 4 ∈ (coreOf ranBefore 0).hasRun
      ∧ groupsOff ranBefore 0 (contextWords (coreOf ranBefore 0) 4) = false ∧ shelfCodec.check 0 0 = .clean 0 := by decide +kernel
theorem witness_CoreEventsAtTheirTime_words :
    ∀ n < 136, (shelfRead ranBefore 0 (contextAt (coreOf ranBefore 0) 4 + n)).data? = some 0 := by decide +kernel
theorem witness_CoreEventsAtTheirTime_rows :
    let s := coreState (swapping .exchange)
    ((List.range 136).map fun n => rowOf s 0 (contextAt (coreOf s 0) tour0.index + n)).Nodup := by decide +kernel

/-! ### Channels, the network -/

def xfer1 (k : XferKind) : Xfer := { kind := k, issue := 3990, words := [(5, BitVec.allOnes 16, 7)] }
def load1 : PendLoad := { id := 3, tour := 0, pc := 0, lanes := 1, reg := 4, size := 4, sx := false, addrs := [(0, 80)] }
def rmw1 : Rmw := { word := 5, mask := 1, data := 7, old := some 0, writeAt := 4000 }
def reading (k : XferKind) : Core := { coreWith [] with rdQueue := [xfer1 k], loads := [load1] }
def writing (k : XferKind) (l : List Rmw) : Core := { coreWith [] with wrQueue := [xfer1 k], rmws := l }
def channelReady (c : Core) (q : Xfer) : Bool :=
  !(coreState c).sup.inReset && Memory.wf (coreState c) && edgeOk (coreState c) (wingOfCore (coreId core0)) 0
    && find (coreState c).cores (coreId core0) = some c && !groupsOff (coreState c) (coreId core0) (q.words.map (·.1))
    && q.issue ≤ wtime (coreState c) (wingOfCore (coreId core0)) 0 && c.rdFree ≤ 4000 && c.wrFree ≤ 4000
    && !atomicAhead c q && !atomicJust c 4000 q && !behindSwap c q

theorem witness_ChannelTransfers :
    (channelReady (reading (.load 3)) (xfer1 (.load 3)) = true ∧ (reading (.load 3)).rdQueue = xfer1 (.load 3) :: [])
    ∧ channelReady (writing .store []) (xfer1 .store) = true ∧ atomicDue (writing .store []) 4000 (xfer1 .store) = false
    ∧ (let q := { xfer1 .store with words := [(5, BitVec.allOnes 16, 7), (6, BitVec.allOnes 16, 8)] };
      let c := { writing .store [] with wrQueue := [q, xfer1 .store] };
      channelReady c q = true ∧ atomicDue c 4000 q = false ∧ (q.words.map fun x => rowOf (coreState c) 0 x.1).Nodup)
    ∧ channelReady (reading .rmwRead) (xfer1 .rmwRead) = true
    ∧ (channelReady (writing .rmwWrite [rmw1]) (xfer1 .rmwWrite) = true ∧ rmw1.writeAt ≤ 4000 ∧ rmw1.old = some 0
      ∧ (xfer1 .rmwWrite).words.map (·.1) = [rmw1.word]) := by decide +kernel

/-- A read of device address 0 in partition 0's lane of class 0. -/
def req1 (st : ReqStage) : Req :=
  { origin := .core 0 0 none, part := 0, lane := none, cls := 0, kind := .store, addr := 0, mask := 1, data := 7, stage := st }
def flit1 : Flit := { source := 0, slot := 0, target := 1, offset := 64, data := 7, part := 0 }
/-- Core 0 with this at the head of its egress, at its GCLK of 96: beat 1,008, k = 4. -/
def leaving (e : Bool × Nat) : State :=
  { coreState { coreWith [] with egress := [e] } with
    beat := 1008, granules := [(0, granule0)], net := [(9, req1 (.egress 4000))], flits := [(9, flit1)] }
/-- A load of core 0 with its one request answered at PCLK 4,990. -/
def openLoad : PendLoad := { load1 with open_ := [9] }
def answered : State :=
  { coreState { coreWith [] with loads := [openLoad] } with net := [(9, req1 (.answered 4990))] }
def delivered : State := { coreState (coreWith []) with flits := [(9, { flit1 with writeAt := some (0, 4000) })] }

theorem witness_EgressAndReturns :
    ((leaving (false, 9)).sup.inReset = false ∧ Memory.wf (leaving (false, 9)) = true ∧ edgeOk (leaving (false, 9)) 0 0 = true
      ∧ gclk (leaving (false, 9)) 0 0 % 96 = coreInCab (coreId core0)
      ∧ (coreOf (leaving (false, 9)) 0).egressAt = none ∧ (coreOf (leaving (true, 9)) 0).egressAt = none ∧ find (leaving (false, 9)).net 9 = some (req1 (.egress 4000)))
    ∧ find (leaving (true, 9)).flits 9 = some flit1
    ∧ (answered.sup.inReset = false ∧ edgeOk answered 0 2 = true
      ∧ [openLoad].find? (fun l => l.open_ ≠ [] && returnedAt answered 0 l = some (wtime answered 0 2)) = some openLoad
      ∧ (gathered answered openLoad).poisoned = false ∧ returnTime answered 0 4990 = wtime answered 0 2)
    ∧ (delivered.sup.inReset = false ∧ find delivered.flits 9 = some { flit1 with writeAt := some (0, 4000) } ∧ wtime delivered 0 0 = 4000) := by
  decide +kernel

def gated : State :=
  { setCab (setWing on 0 runsAt4) 0 { gateQueue := [(9, 3990)], gateLast := 3999 } with
    net := [(9, req1 .gateway)], cabSites := [(0, ⟨.on, 0⟩)] }
def lateCheck : State := setChannel { gated with beat := 500000000 } 0 {}

theorem witness_GatewayAndIdleChecks :
    (gated.sup.inReset = false ∧ edgeOk gated 0 0 = true ∧ (cabOf gated 0).gateQueue = [(9, 3990)] ∧ find gated.net 9 = some (req1 .gateway)
      ∧ 3990 ≤ wtime gated 0 0 ∧ (cabOf gated 0).gateLast < wtime gated 0 0
      ∧ coreFirst gated (req1 .gateway) 0 = false)
    ∧ (domOn gated .cabinet 0 = true ∧ passFree gated 0 = true ∧ (chanOf gated 0).failed = false ∧ (chanOf (badChannel gated) 0).failed = true
      ∧ passFree (badChannel gated) 0 = true ∧ passApart (badChannel gated) 0 (chanOf (badChannel gated) 0) = true ∧ passApart gated 0 (chanOf gated 0) = true
      ∧ (chanOf gated 0).spareGa + 8 ≤ 8
      ∧ 8 < (chanOf gated 0).spareUl + 9)
    ∧ (lateCheck.sup.inReset = false ∧ domOn lateCheck .cabinet 0 = true ∧ (chanOf lateCheck 0).dueAt + 250000000 ≤ now lateCheck) := by
  decide +kernel

/-- A request of the class whose slot comes at PCLK 5,016, waiting at slice resource 0, and one that reclaims. -/
def rotating (cls : Nat) (reclaim : Bool) : Req :=
  { req1 (.route 5000) with cls := cls, reclaim := reclaim, route := [(1, 0), (1, 1)] }
def turning (r : Req) : State := { on with beat := 1003, net := [(9, r)] }

theorem witness_RotationSlots :
    (let r := rotating (classOfSlot 5016) false;
      (turning r).sup.inReset = false ∧ pclk (turning r) 1 = 5016 ∧ takes (turning r) 9 r 5016 = true
        ∧ edgeClosed (turning r) (1, 0) (1, 1) = false ∧ ownsSlot (turning r) r 1 0 5016 = true)
    ∧ (let r := rotating 3 true;
      takes (turning r) 9 r 5015 = true ∧ ownsSlot (turning r) r 1 0 5015 = false) := by decide +kernel

/-! ### Slices, vaults, conservators -/

/-- Granule 0, pinned at pseudo-channel 0, belongs to partition 0, which has all cache ways; slice 0 is in this state. -/
def sliced (d : Dom) (x : Slice) (r : Req) : State :=
  { withPart on { waysOn := 0xFFFF } with granules := [(0, granule0)], sliceDoms := [(0, d)], slices := [(0, x)], net := [(9, r)] }
/-- A request of kind k for sector 0 of the line at 0, at its turn at PCLK 5,000; whole or in part. -/
def turned (k : ReqKind) (mask : BitVec 64) : Req :=
  { origin := .engRead 0 0 0, part := 0, lane := some 0, cls := 0, kind := k, addr := 0, mask := mask, data := 7, stage := .slice 5000 }
def oneOp : ReqKind := .atomic 0 [(0, 0, 1, 0)]
def kinds : List ReqKind := [.load, .store, oneOp, .red 0 [(0, 1)], .prefetch, .flush, .invalidate, .dead]

theorem witness_SliceServesAtItsTurn :
    (∀ k ∈ kinds,
      let s := sliced ⟨.on, 0⟩ {} (turned k 0xFFFFFFFF);
      s.sup.inReset = false ∧ pclk s 0 = 5000 ∧ find s.net 9 = some (turned k 0xFFFFFFFF) ∧ spaceOf s 0 = .vault 0 ∧ (placeOf s 0).i = 0
        ∧ domOn s .slice 0 = true ∧ enteredBefore s 0 5000 (turned k 0xFFFFFFFF) = false)
    ∧ (domOf (sliced ⟨.off, 0⟩ {} (turned .load 1)) .slice 0).state = .off := by decide +kernel

/-- Slice 0 holds the line at 0 in way 0: its four sectors valid and 0. -/
def line0 : Line := { tag := 0, granule := 0, valid := 15 }
def holds : Slice := { frames := [(0, { half0 := some line0 })] }

theorem witness_SliceHits :
    ∀ x ∈ [(ReqKind.load, 0xFFFFFFFF#64), (.store, 1), (oneOp, 0), (.red 0 [(0, 1)], 0), (.prefetch, 0), (.flush, 0),
        (.invalidate, 0), (.dead, 0)],
      let r := turned x.1 x.2;
      let s := sliced ⟨.on, 0⟩ holds r;
      let q := placeOf s 0;
      s.sup.inReset = false ∧ find s.net 9 = some r ∧ r.stage = .slice (pclk s 0) ∧ spaceOf s r.addr = .vault 0 ∧ q.i = 0 ∧ domOn s .slice 0 = true
        ∧ isShared s q.granule = false ∧ (sliceOf s 0).fills = [] ∧ (sliceOf s 0).wb = []
        ∧ findLine (sliceOf s 0) q.set q.granule q.tag = some (0, false, line0) ∧ (applyReq line0 r).bad = []
        ∧ (∀ k ∈ touched r, line0.valid.getLsbD k = true) ∧ (∀ k ∈ needed r, line0.valid.getLsbD k = true) ∧ scheduledAt s q r = true
        ∧ r.skip = false ∧ enteredBefore s 0 (pclk s 0) r = false ∧ line0.dead = false ∧ line0.halfOnly = false ∧ line0.dirty = 0 := by
  decide +kernel

def entry0 : WbEntry := ⟨0, 0, 0, 0, 0, 15, 15, 0, 0, false, 0, some 5000, [], []⟩
/-- Partition 0 with this in lane 0, slice 0 in this state; the vault's line at 0 is written, as 0. -/
def absent (p : Part) (x : Slice) (r : Req) : State :=
  { withPart on { p with lanes := 1 } with
    granules := [(0, granule0)], sliceDoms := [(0, ⟨.on, 0⟩)], slices := [(0, x)], net := [(9, r)]
    dram := (List.range 4).flatMap fun k => (List.range 4).map fun b => (36 * k + 32 + b, 0) }
/-- The request is at its turn at slice 0, its line is absent, no fill is under way, and its service is this. -/
def misses (s : State) (r : Req) (scheduled : Bool) : Bool :=
  !s.sup.inReset && find s.net 9 = some r && r.stage = .slice (pclk s 0) && spaceOf s r.addr = .vault 0 && (placeOf s r.addr).i = 0
    && domOn s .slice 0 && !isShared s 0 && !enteredBefore s 0 (pclk s 0) r && (sliceOf s 0).fills = []
    && findLine (sliceOf s 0) (placeOf s r.addr).set (placeOf s r.addr).granule (placeOf s r.addr).tag = none && scheduledAt s (placeOf s r.addr) r = scheduled
/-- A line of another tag, dirty in sector 0, and a compressed one. -/
def dirtyLine : Line := { tag := 5, granule := 0, valid := 15, dirty := 1 }
def packed : Line := { tag := 5, granule := 0, halfOnly := true, valid := 15, codes := [0, 0, 0, 0] }
def oneWay (l : Line) : Slice := { frames := [(0, { half0 := some l })] }

theorem witness_SliceHits_misses :
    (∀ x ∈ [(ReqKind.load, 1#64), (.store, 1), (.store, 0xFFFFFFFF), (oneOp, 0), (.red 0 [(0, 1)], 0), (.prefetch, 0)],
      let r := turned x.1 x.2;
      let s := absent { waysOn := 1 } {} r;
      misses s r true = true ∧ victimWay s {} (placeOf s 0) = some 0 ∧ compressing s 0 = false ∧ (trainMiss s (placeOf s 0) 0).2 = false)
    ∧ (wholeSectors (turned .store 1) = false ∧ wholeSectors (turned .store 0xFFFFFFFF) = true)
    ∧ (let r := turned .load 1;
      let s := absent { waysOn := 1 } (oneWay dirtyLine) r;
      misses s r true = true ∧ victimWay s (oneWay dirtyLine) (placeOf s 0) = some 0 ∧ shareOf s 0 = [0, 1] ∧ waysOf s 0 ≠ []
        ∧ dirtyLine.dirty ≠ 0 ∧ ∀ k, k < 4 → dirtyLine.dirty.getLsbD k = true → (dirtyLine.sector k).cls.1 = 0)
    ∧ (∀ x ∈ [(oneWay packed, some (0, true)), ({}, none)],
      let r := turned .load 1;
      let s := absent { waysOn := 1, vcCtlOn := 1 } x.1 r;
      misses s r true = true ∧ compressing s 0 = true ∧ (lineFromVault (placeOf s 0) (vaultRaw s 0 0)).shrink.isSome = true
        ∧ pairHalf s x.1 (placeOf s 0) = x.2)
    ∧ (∀ x ∈ [(ReqKind.load, 1#64), (.store, 0xFFFFFFFF)],
      let r := { turned x.1 x.2 with lane := none };
      misses (absent { waysOn := 1 } {} r) r false = true)
    ∧ (∀ x ∈ [(ReqKind.load, 1#64), (.store, 1), (oneOp, 0)],
      let r := turned x.1 x.2;
      let s := absent { waysOn := 1 } { wb := [(0, { entry0 with ack := none })] } r;
      misses s r true = true ∧ entry0.lineAddr = (placeOf s 0).line ∧ (∀ k ∈ touched r, entry0.valid.getLsbD k = true)
        ∧ (applyReq { tag := 0, granule := 0, valid := entry0.valid, dirty := entry0.dirty } r).bad = []
        ∧ (x.1 ≠ .load → (applyReq { tag := 0, granule := 0, valid := entry0.valid, dirty := entry0.dirty } r).wrote = true))
    ∧ (({ tag := 0, granule := 0, valid := 1 } : Line).shrink = none ∧ halfOf (frameOf (oneWay packed) 0 0) false = some packed
      ∧ packed.dead = false ∧ packed.dirty = 0) := by decide +kernel

/-- A fill of the line at 0, from written words of 0, back at PCLK 5,000. -/
def fill0 (w : List Waiter) : Fill := { lineAddr := 0, part := 0, place := (0, false), waiters := w, raw := (0, 0), pch := 0, off := 0, back := some 5000 }
def filledWith (w : List Waiter) : State :=
  { withPart on {} with
    granules := [(0, granule0)], slices := [(0, { holds with fills := [fill0 w], wb := [(3, entry0)] })]
    net := [(9, { turned .load 0xF with stage := .inSlice })] }
/-- An entry acknowledged at PCLK 5,000, and a line of the same share waiting behind it. -/
def behind0 : WbEntry := { entry0 with lineAddr := 64, ack := none }
theorem witness_FillsWindowsAndRefresh_behind :
    let s := setSlice (withPart on { lanes := 1 }) 0 { wb := [(1, entry0), (17, behind0)] }
    (sliceOf s 0).wb.find? (fun e => e.2.ack = some (pclk s 0)) = some (1, entry0) ∧ 1 ∈ shareOf s behind0.part ∧ behind0.stalled = []
      ∧ (∀ k < 4, (getUnit { tag := 0, granule := entry0.granule, data := entry0.data, chk := entry0.chk } k).cls.1 = 0)
      ∧ (∀ b ∈ (sliceOf (filledWith []) 0).wb, b.1 < 16) := by decide +kernel
def fetch0 : CtrlReq := { slice := 0, kind := .fetch 0, arrive := 5000, scheduled := true, off := 0 }
/-- Pseudo-channel 0 with this queue. -/
def withQueue (q : List CtrlReq) : State := { setPch on 0 { queue := q } with granules := [(0, granule0)] }
def atBeat (s : State) (b : Nat) : State := { s with beat := BitVec.ofNat 64 b }

theorem witness_FillsWindowsAndRefresh_slice :
    (∀ w ∈ [[], [({ req := 9 } : Waiter)]],
      let s := filledWith w;
      s.sup.inReset = false ∧ (sliceOf s 0).fills = [fill0 w] ∧ (fill0 w).back = some (pclk s 0) ∧ (fill0 w).lost = false
        ∧ vaultWhy (fill0 w).pch (fill0 w).raw 15 = none ∧ (find s.net 9).isSome = true)
    ∧ (sliceOf (filledWith []) 0).wb.find? (fun e => e.2.ack = some (pclk (filledWith []) 0)) = some (3, entry0) ∧ entry0.waiters = [] := by
  decide +kernel
theorem witness_FillsWindowsAndRefresh_controller :
    (pchOf (withQueue [fetch0]) 0).queue.find? (fun c => !c.arrived && c.arrive = 5000) = some fetch0
    ∧ (let c := { fetch0 with arrived := true };
      let s := withQueue [c];
      openWindow s 0 (pclk s 3) = some false ∧ openWindow (atBeat s 1001) 0 (pclk (atBeat s 1001) 2) = some true
        ∧ (pchOf s 0).queue = [c] ∧ waitsFor true (pclk (atBeat s 1001) 2) c = true ∧ inDomainReset s 3 0 = false)
    ∧ (let c := { fetch0 with arrived := true, first := some 4912, window := some 4912 };
      (pchOf (withQueue [c]) 0).queue.find? (fun c => c.window.map (· + 88) = some 5000) = some c) := by decide +kernel
theorem witness_FillsWindowsAndRefresh_vault :
    (refreshStarts 6 (vaultOf on 0).mult (now on) = true ∧ now on = 24 + 976)
    ∧ (let s := setPch on 0 { inRefresh := true, refreshEnd := 1000, modeWrite := some true };
      (pchOf s 0).inRefresh = true ∧ (pchOf s 0).refreshEnd = now s ∧ (pchOf s 0).modeWrite = some true
        ∧ ∀ c ∈ (pchOf s 0).queue, c.arrived = true → c.window.isSome = true)
    ∧ (let s := atBeat (setVault on 0 { multNext := some 2, paceNext := some 1 }) 976;
      s.sup.inReset = false ∧ (vaultOf s 0).multNext = some 2 ∧ (vaultOf s 0).paceNext = some 1 ∧ now s % 976 = 0) := by decide +kernel

/-- Conservator 0, awake, with this state; pseudo-channel 0 in near-bank mode under a granule that it shares with ordinary traffic. -/
def tended (c : Csv) : State :=
  { setPch on 0 { nbMode := true } with granules := [(0, { granule0 with shared := true })], csvDoms := [(0, ⟨.on, 0⟩)], csvs := [(0, c)] }
def windowed (k : ReqKind) (t : Nat) (wake : Option Nat) : Req :=
  { turned k 0xF with addr := 2 * 2 ^ 44 + 0x10040, stage := .window t wake }
def meets (k : ReqKind) (t : Nat) (wake : Option Nat) : State := { tended {} with net := [(9, windowed k t wake)] }

theorem witness_ConservatorWindowAndControl_window :
    ∀ x ∈ [(ReqKind.load, 4960, none), (.store, 4980, none), (.load, 4960, some 990), (.store, 4980, some 990)],
      let s := meets x.1 x.2.1 x.2.2;
      s.sup.inReset = false ∧ find s.net 9 = some (windowed x.1 x.2.1 x.2.2) ∧ spaceOf s (windowed x.1 x.2.1 x.2.2).addr = .window 0 0x10040
        ∧ domOn s .conservator 0 = true ∧ (pchOf s 0).nbMode = true ∧ storeOk sramCodec (csvOf s 0).dsram = true
        ∧ (windowed x.1 x.2.1 x.2.2).skip = false ∧ pclk s 0 = x.2.1 + (if x.1 = .load then 40 else 20) := by decide +kernel
/-- A store of this to the window of conservator 0, which is so, at its time. -/
def storesAt (c : Csv) (nb : Bool) (off mask data : Nat) : State :=
  { setPch (tended c) 0 { nbMode := nb } with
    net := [(9, { turned .store (BitVec.ofNat 64 mask) with addr := 2 * 2 ^ 44 + off, data := BitVec.ofNat 512 data, stage := .window 4980 none })] }
/-- The conservator as the store at PCLK 4,980 meets it: CCLK 4,000. -/
def metAt (s : State) : Csv := csvOf (setCsvF (runUnit s 0 (cclkOfPclk 5000 - 1)) 0 fun c => settleHalt (landLines c (cclkOfPclk 5000)) (cclkOfPclk 5000)) 0

theorem witness_ConservatorWindowAndControl_stores :
    (∀ x ∈ [(0x21000, 15, 1), (0x21000, 15, 2), (0x21000, 15 * 2 ^ 4, 2 ^ 32), (0x21000, 15 * 2 ^ 8, 2 ^ 73), (0x21000, 15 * 2 ^ 12, 2 ^ 96),
        (0x21000, 15 * 2 ^ 20, 2 ^ 160), (0x21000, 15 * 2 ^ 20, 17 * 2 ^ 160), (0, 15, 7), (0x7FC0, 2 ^ 60, 7), (0x10000, 1, 7), (0x20000, 15, 7), (0x203C0, 2 ^ 63, 7)],
      let s := storesAt { isram := wordWrite [] sramCodec 8191 0, dsram := wordWrite [] sramCodec 0 0 } true x.1 x.2.1 x.2.2;
      s.sup.inReset = false ∧ inDomainReset s 3 0 = false ∧ (find s.net 9).map (fun r => (spaceOf s r.addr, r.skip, r.stage)) = some (.window 0 x.1, false, .window 4980 none)
        ∧ pclk s 0 = 4980 + 20 ∧ (pchOf s 0).nbMode = true ∧ (metAt s).haltAsked = false ∧ (metAt s).state = .halted
        ∧ storeOk sramCodec (csvOf s 0).isram = true ∧ storeOk sramCodec (csvOf s 0).dsram = true
        ∧ ((metAt s).cmds.Pairwise fun x y => x.1 < y.1)
        ∧ sramWord (metAt s) 0x7FFC = .clean 0 ∧ sramWord (metAt s) 0x10000 = .clean 0)
    ∧ (∀ x ∈ [(0x21000, 15, 2), (0, 15, 7)], (metAt (storesAt { state := .running } true x.1 x.2.1 x.2.2)).state = .running)
    ∧ (inISram 0x7FFC = true ∧ inDSram 0x10000 = true ∧ inCmds 0x20000 = true ∧ inCmds 0x203FC = true)
    ∧ (pchOf (storesAt {} false 0x10000 15 7) 0).nbMode = false := by decide +kernel
theorem witness_ConservatorWindowAndControl :
    (let s := tended {};
      s.sup.inReset = false ∧ domOn s .conservator 0 = true ∧ (pchOf s 0).nbMode = true ∧ (csvOf s 0).state = .halted
        ∧ (csvOf s 0).pending + (16 : BitVec 5).toNat ≤ 16 ∧ 16 < (csvOf s 0).pending + (17 : BitVec 5).toNat)
    ∧ ((csvOf (tended { state := .running }) 0).free ≤ cclk (tended {}) 0 ∧ cclk (tended {}) 0 < (csvOf (tended { state := .running, free := 4001 }) 0).free)
    ∧ ((csvOf (tended { switchOff := true }) 0).switchOff = true ∧ (csvOf (tended { switchOff := true }) 0).bursts = [])
    ∧ (let s := atBeat (tended { state := .running, pending := 1, headSince := 7 }) 2500007;
      (csvOf s 0).state = .running ∧ 0 < (csvOf s 0).pending ∧ (csvOf s 0).headSince + 2500000 ≤ now s ∧ inDomainReset s 3 0 = false ∧ nbDoneDue s 0 = false) := by
  decide +kernel

/-- The first n words of the D-SRAM are written, as 0: only their check bytes differ from the marker's. -/
def dZeros (n : Nat) : List Host.Cell := (List.range n).map fun k => (5 * k + 4, 0)
/-- A running hart with this word at PC 0. -/
def hartWith (w : Nat) (x : SMap Word) (n : Nat) : Csv := { state := .running, isram := wordWrite [] sramCodec 0 w, x := x, dsram := dZeros n }
def harting (w : Nat) (x : SMap Word) (n : Nat := 0) : State := tended (hartWith w x n)
/-- At CCLK 4,000 the hart of conservator 0 issues an instruction of this operation that has this. -/
def issuesRv (s : State) (op : RvOp) (ok : State → HartAt → Bool) : Bool :=
  match hartIssue s 0 (cclk s 0) with
  | some (o, t, h) => o = op && ok t h
  | none => false

theorem witness_HartInstructions :
    (∀ x ∈ [(0x00700093, RvOp.alu), (0x0000006F, .branch), (0x00008067, .branch), (0x00000063, .branch), (0x022080B3, .mul), (0x0220C0B3, .div),
        (0x0000000F, .fence), (0x00000073, .ecall), (0x00100073, .ebreak)],
      issuesRv (harting x.1 []) x.2 (fun _ _ => true) = true)
    ∧ issuesRv (harting 0x00012083 [(2, 0x10000)] 1) .load (fun t h =>
        (h.a + immI h.w).toNat % 4 = 0 && csvMapped (h.a + immI h.w).toNat && (windowWord t 0 0x10000).2.isSome) = true
    ∧ issuesRv (harting 0x00112023 [(2, 0x10000)] 1) .store (fun _ h =>
        (h.a + immS h.w).toNat = 0x10000 && inDSram 0x10000 && (wordMerge h.c.dsram sramCodec 0 h.b.toNat 15).2.cls.1 = 0) = true
    ∧ issuesRv (harting 0x00112023 [(2, 0x20400)]) .store (fun _ h => (h.a + immS h.w).toNat = 0x20400 && inResults 0x20400) = true
    ∧ issuesRv (harting 0x00112023 [(2, 0x10001)]) .store (fun _ h => (h.a + immS h.w).toNat % 4 = 1) = true
    ∧ issuesRv (harting 0x00112023 []) .store (fun _ h => (h.a + immS h.w).toNat = 0 && !inResults 0 && !inDSram 0) = true := by decide +kernel

/-- A near-bank instruction's word: funct7, rs2, rs1 and rd. -/
def nw (f7 rs2 rs1 rd : Nat) : Nat := rvR f7 rs2 rs1 0 rd 0x0B
def burstAt (w : Nat) : State := harting w [(1, 0x10000), (2, 0)]

theorem witness_NearBankInstructions_bursts :
    (∀ f ∈ [(0, 3), (1, 0)], issuesRv (burstAt (nw f.1 2 1 f.2)) (.nb f.1) (fun t h =>
      h.b.toNat = 0 && h.a.toNat = 0x10000 && (pchOf t 0).nbMode && pchShared t 0 && h.c.bursts.length < 8) = true)
    ∧ issuesRv (burstAt (nw 2 0 1 0)) (.nb 2) (fun _ h => h.c.bursts = []) = true
    ∧ issuesRv (burstAt (nw 3 0 0 3)) (.nb 3) (fun _ _ => true) = true
    ∧ issuesRv (burstAt (nw 4 0 2 0)) (.nb 4) (fun t h => !(t.beat.setWidth 32 - h.a).msb) = true
    ∧ issuesRv (burstAt (nw 16 0 0 3)) (.nb 16) (fun _ _ => true) = true
    ∧ issuesRv (tended { hartWith (nw 17 0 2 0) [] 0 with pending := 1 }) (.nb 17) (fun _ h => h.a = h.c.head.setWidth 32 && h.c.pending ≠ 0) = true
    ∧ issuesRv (burstAt (nw 18 0 0 3)) (.nb 18) (fun _ _ => true) = true := by decide +kernel

theorem witness_NearBankInstructions_attention :
    issuesRv (harting (nw 8 2 1 0) [(1, 0x05)]) (.nb 8) (fun t h =>
      h.a.toNat < 256 && 5 ≤ h.a.toNat % 16 && h.a.toNat % 16 ≤ 10 && !t.boot.legacy && h.c.unitFree ≤ h.g) = true
    ∧ issuesRv (harting (nw 9 0 1 0) [(1, 0x10000)] 128) (.nb 9) (fun t h =>
      h.c.g = 1 && h.c.unitFree ≤ h.g && spanOk h.a.toNat 512 && (dsramSpan t 0 h.a.toNat 512).2.isSome) = true
    ∧ issuesRv (harting (nw 10 2 1 0) [(1, 0x10000)] 64) (.nb 10) (fun t h =>
      h.b.toNat = 0 && rowBytes h.c.fmt.toNat h.c.blk16 ≤ 256 && spanOk 0x10000 (rowBytes h.c.fmt.toNat h.c.blk16)
        && h.c.unitFree ≤ h.g && (rowAt t 0 0x10000 0).2.isSome) = true
    ∧ issuesRv (harting (nw 11 2 1 0) [(1, 0x10000)] 64) (.nb 11) (fun t h =>
      h.b.toNat = 0 && spanOk h.a.toNat (rowBytes h.c.fmt.toNat h.c.blk16) && spanOk 0x10000 4 && h.c.unitFree ≤ h.g && (rowAt t 0 0x10000 0).2.isSome) = true
    ∧ issuesRv (harting (nw 12 0 1 0) [(1, 0x10000)]) (.nb 12) (fun _ h => h.c.final && h.c.unitFree ≤ h.g && spanOk h.a.toNat 520) = true := by decide +kernel

def burst0 (write : Bool) (done : Nat) : Burst :=
  { ticket := 1, write := write, dst := 0x10000, line := 0, n := 1, beta := 3900, pace := 16, slots := [4000 - 69 * done], done := done }
/-- Conservator 0 with this, which the executing step of its partition lists. -/
def bursting (c : Csv) : State :=
  { tended c with parts := (executing { live2 with step := { step0 false with wakes := [⟨SwKind.code .conservator, 0, 0⟩] } }).parts }

theorem witness_BurstsAndAttentionEnd :
    (∀ w ∈ [false, true],
      let s := bursting { bursts := [burst0 w 0] };
      s.sup.inReset = false ∧ (csvOf (catchUp s 0 (cclk s 0)) 0).bursts = [burst0 w 0] ∧ (burst0 w 0).slots[0]? = some (cclk s 0)
        ∧ windowDue s 0 = false ∧ (pchOf s 0).nbMode = true ∧ pchShared s 0 = true ∧ csvListed s 0 = true)
    ∧ (let s := bursting { bursts := [burst0 false 1] };
      (csvOf (catchUp s 0 (cclk s 0)) 0).bursts = [burst0 false 1] ∧ (burst0 false 1).slots.getLast? = some (cclk s 0 - 69)
        ∧ 69 ≤ cclk s 0)
    ∧ (let s := tended { final := false, finalAt := 4000 };
      (csvOf s 0).final = false ∧ (csvOf s 0).finalAt = cclk s 0 ∧ inDomainReset s 3 0 = false) := by decide +kernel

/-! ### Engines, ports, rings -/

/-- An engine descriptor of this OP with word 4, source and destination; further words as one number. -/
def desc (op w4 src dst more : Nat) : BitVec 384 := BitVec.ofNat 384 (op + 2 ^ 32 * w4 + 2 ^ 64 * src + 2 ^ 128 * dst + 2 ^ 192 * more)
def copy64 (src dst : Nat) : BitVec 384 := desc 1 64 src dst (2 ^ 64)
/-- Partition 0 owns granule 0 and reclaims free slots. -/
def tenant (s : State) : State := { withPart s { svc := 2 } with granules := [(0, granule0)] }
def engined (e : Nat) (g : Engine) : State := tenant { setEng on e g with engineDoms := [(e, ⟨.on, 0⟩)] }
def job0 (op : Nat) : EngJob := ⟨desc op 0 0 0 0, 0, none, 0, 5000, false⟩

theorem witness_EnginesTakeDescriptors :
    (∀ y ∈ [(1, 0), (2, 0), (3, 0), (4, 0), (0x10, 2), (0x20, 3), (0x30, 5)],
      let s := engined y.2 { queue := [(8, job0 y.1), (0, job0 y.1)] };
      s.sup.inReset = false ∧ inDomainReset s 2 0 = false ∧ (dueEntry s y.2 5000).granules = s.granules
        ∧ (∀ x ∈ [0, 8], ctxOf s y.2 x = none ∧ queued s y.2 x 5000 = some (job0 y.1) ∧ takeFrom s y.2 x (job0 y.1) ≤ 5000)
        ∧ domOn s .engine y.2 = true ∧ hasIntake s y.2 0 5000 = true ∧ dOp (job0 y.1).desc = y.1)
    ∧ (let s := dueEntry (engined 0 { queue := [(8, job0 1)] }) 0 5000;
      ctxOf s 0 8 = none ∧ queued s 0 8 5000 = some (job0 1) ∧ domOn s .engine 0 = true)
    ∧ domOn (dueEntry (setEng on 0 { queue := [(8, job0 1)] }) 0 5000) .engine 0 = false := by decide +kernel

/-- A context that works on this copy, taken so that its first address may go out at PCLK 5,000. -/
def ctx0 (src dst : Nat) : EngCtx := { job := ⟨copy64 src dst, 0, none, 0, 4990, false⟩, take := 4996, start := 5000 }
def working (c : EngCtx) (n : SMap Req) : State := { engined 0 { ctx := [(0, c), (8, c)] } with net := n }
def engReq (k : ReqKind) (o : Origin) (st : ReqStage) : Req := { turned k 0 with origin := o, stage := st }
def backed : EngCtx := { ctx0 0 128 with reads := 1, back := [(0, 7, 4999)] }
def entered (dst : Nat) : EngCtx := { ctx0 0 dst with reads := 1, flits := [(0, 7)], eTimes := [4998] }
def acked (ring : Option (Nat × BitVec 16 × BitVec 16)) : EngCtx :=
  { entered 128 with job := { (entered 128).job with ring := ring }, writes := 1, lastAck := 4999 }

theorem witness_EngineReadsFlitsAndWrites_reads :
    (let s := working (ctx0 0 128) [];
      s.sup.inReset = false ∧ ctxOf s 0 8 = some (ctx0 0 128) ∧ issuing (ctx0 0 128) = true ∧ readDue 8 (ctx0 0 128) = some (pclk s 0)
        ∧ (readAddrs (copy64 0 128))[0]? = some 0 ∧ readCause s (ctx0 0 128).job 0 = 0)
    ∧ (let c := ctx0 (2 ^ 30) 128;
      readDue 8 c = some 5000 ∧ (readAddrs c.job.desc)[0]? = some (2 ^ 30) ∧ readCause (working c []) c.job (2 ^ 30) ≠ 0)
    ∧ (let r := engReq .load (.engRead 0 8 0) (.answered 5000);
      readBack (working (ctx0 0 128) [(9, r)]) 0 8 false 5000 = some (9, r, 0))
    ∧ (let r := engReq .hostRead (.engRead 0 8 0) (.slice 4990);
      readBack (working (ctx0 0 128) [(9, r)]) 0 8 true 5000 = some (9, r, 0))
    ∧ (backed.back.find? (·.1 = backed.eTimes.length) = some (0, 7, 4999) ∧ backed.abandoned.isNone = true
      ∧ flitReady backed 5000 = true ∧ hasIntake (working backed []) 0 0 5000 = true) := by decide +kernel
theorem witness_EngineReadsFlitsAndWrites_writes :
    (∀ x ∈ [(128, 0), (2 ^ 30, 4)],
      (match (writesOf (entered x.1).job.desc)[(entered x.1).writes]? with
      | some w => issuing (entered x.1) && writeDue (entered x.1) 0 w = some 5000 && writeCause (working (entered x.1) []) (entered x.1).job w = x.2
      | none => false) = true)
    ∧ (let r := engReq .store (.engWrite 0 8 0) (.answered 5000);
      [((9 : Nat), r)].findSome? (fun r => match r.2.origin, r.2.stage with
        | .engWrite a b k, .answered t => if a = 0 && b = 8 && t = 5000 then some (r.1, k, r.2) else none
        | _, _ => none) = some (9, 0, r))
    ∧ (let r := engReq .hostWrite (.engWrite 0 8 0) (.answered 5000);
      r.kind = .hostWrite ∧ r.skip = false ∧ afterError (ctx0 0 128) 0 = false ∧ (ctx0 0 128).failedWrite = none)
    ∧ afterError { ctx0 0 128 with failedWrite := some 0 } 1 = true
    ∧ (doneAt (acked none) = some 5000 ∧ (acked none).job.ring = none ∧ (acked none).refused = none
      ∧ execOf { working (acked none) [] with parts := (executing live2).parts } 0 = some live2)
    ∧ (doneAt (acked (some (0, 1, 0))) = some 5000 ∧ (acked (some (0, 1, 0))).job.ring.isSome = true) := by decide +kernel

def left (f : Nat) : EngCtx := { entered 128 with abandoned := some f }

theorem witness_EngineTimeoutsAndStatus :
    (let s := atBeat (working (entered 128) []) 252000;
      s.sup.inReset = false ∧ ctxOf s 0 0 = some (entered 128) ∧ endsNow s (entered 128) = false ∧ s.boot.deaccessioned = false
        ∧ (entered 128).take / 5 + 250000 + 24 * requestsOf (entered 128).job.desc ≤ now s ∧ onHost s (entered 128) = false
        ∧ inDomainReset s 2 0 = false)
    ∧ (let s := working (left 999) [];
      ctxOf s 0 0 = some (left 999) ∧ (engOf s 0).done = [] ∧ 999 < now s ∧ settled s (left 999) = true)
    ∧ (let q := (0, { job0 1 with held := true });
      (engOf (engined 0 { queue := [q] }) 0).queue = [q] ∧ q.2.held = true)
    ∧ (((0 : Word) >>> 9).setWidth 6 &&& ~~~(setIn ({} : Engine).setAt 0 6 1000 : BitVec 6) = 0#6
      ∧ ((0x200 : Word) >>> 9).setWidth 6 &&& ~~~(setIn ({} : Engine).setAt 0 6 1000 : BitVec 6) = 1#6
      ∧ (1 : BitVec 6) &&& 0b110111 ≠ 0 ∧ (1 : BitVec 6) &&& ~~~(1 : BitVec 6) &&& 0b110111 = 0
      ∧ (3 : BitVec 6) &&& ~~~(1 : BitVec 6) &&& 0b110111 ≠ 0) := by decide +kernel

/-- Port 0 belongs to partition 0 and answers configuration requests. -/
def ported (x : Port) : State := { tenant on with ports := [(0, x)] }

theorem witness_ConfigurationAndBar2_writes : configReadOnly ((4 : BitVec 12).toNat / 4) = false := by
  rw [show (4 : BitVec 12).toNat / 4 = 1 from rfl, configReadOnly]
  simp only [List.any_cons, List.any_nil, capabilityAt, Bool.or_eq_false_iff, decide_eq_false_iff_not]
  grind

theorem witness_ConfigurationAndBar2 :
    (let s := ported { perstReleased := true, config := [(1, 5)] };
      s.sup.inReset = false ∧ inDomainReset s 1 0 = false ∧ (portOf s 0).perstReleased = true
        ∧ find (portOf s 0).config ((4 : BitVec 12).toNat / 4) = some 5
        ∧ configReadOnly ((0 : BitVec 12).toNat / 4) = true
        ∧ bar2Target s 0 64 1 = some (64, 0) ∧ bar2Target s 0 (2 ^ 30) 1 = none)
    ∧ (let r := { turned .load 0 with origin := .bar2 0 3, stage := .answered 5004 };
      let s := { ported {} with net := [(9, r)] };
      find s.net 9 = some r ∧ r.origin = .bar2 0 (3 : BitVec 10).toNat ∧ 5004 ≤ 5 * now s + 4 ∧ r.poison = false)
    ∧ (let r := { turned .load 0 with origin := .bar2 0 3, stage := .answered 5004, poison := true }; r.poison = true ∧ r.why.isNone = true) := by decide +kernel

def ring0 (type_ : BitVec 2) (head tail : BitVec 16) : Ring := ⟨type_, 4096, 4, 0, 0, 0, head, tail, false, [], false, 0, [], []⟩
def ringed (x : Port) (r : Ring) : State := { ported x with rings := [(0, r)] }
def fetch1 : Fetch := ⟨0, 0, 2, 2, 4990⟩

theorem witness_DoorbellsAndFetches_doorbells :
    (let s := ringed {} (ring0 0 2 3);
      s.sup.inReset = false ∧ inDomainReset s 1 0 = false ∧ (ownerOfPort s 0).isSome = true ∧ find s.rings 0 = some (ring0 0 2 3)
        ∧ ((18 : BitVec 16) - 2).toNat ≤ ringEntries (ring0 0 2 3) ∧ ringEntries (ring0 0 2 3) < ((19 : BitVec 16) - 2).toNat)
    ∧ (((3 : BitVec 16) - (ring0 1 2 3).head).toNat ≤ ((ring0 1 2 3).tail - (ring0 1 2 3).head).toNat
      ∧ ((ring0 1 2 3).tail - (ring0 1 2 3).head).toNat < ((4 : BitVec 16) - (ring0 1 2 3).head).toNat)
    ∧ (bits (0x20000 : Word).toNat 17 15 ≠ 0 ∧ ownerOfPort on 0 = none ∧ find (tenant on).rings 0 = none) := by decide +kernel
theorem witness_DoorbellsAndFetches_fetches :
    (let s := atBeat (ringed { fetchQueue := [0] } (ring0 0 2 3)) 1011;
      (portOf s 0).fetch = none ∧ (portOf s 0).fetchQueue = [0] ∧ mayFetch s 0 = true ∧ hostReadsOut s 0 < 256 ∧ fetchCount (ring0 0 2 3) ≠ 0
        ∧ (portOf s 0).nextFetch ≤ pclk s 1 ∧ 16 ≤ pclk s 1 % 20 ∧ classOfSlot (pclk s 1) = 0 ∧ look s.slotUse (5 * 65536) (pclk s 1 + 1) ≠ pclk s 1
        ∧ beforeFetch s 0 (pclk s 1) = false)
    ∧ (let s := ringed { fetch := some fetch1 } (ring0 0 0 2);
      (portOf s 0).fetch = some fetch1 ∧ find s.rings fetch1.ring = some (ring0 0 0 2) ∧ (ring0 0 0 2).head = fetch1.first
        ∧ mayFetch s 0 = true ∧ fetch1.count ≤ 16 ∧ fetch1.issue + 8 ≤ pclk s 0)
    ∧ fetch1.issue / 5 + 25000000 ≤ now (atBeat on 25001000)
    ∧ (let r := { ring0 1 2 3 with held := [7] };
      find (ringed {} r).rings 0 = some r ∧ r.held = 7 :: [] ∧ entryFree (ringed {} r) 0 r = true) := by decide +kernel

/-- A descriptor by its first words (R324). -/
def sd (w0 w1 w2 w3 : Nat) : BitVec 512 := BitVec.ofNat 512 (w0 + 2 ^ 32 * w1 + 2 ^ 64 * w2 + 2 ^ 96 * w3)
/-- Ring 0 with this descriptor fetched, its completion ring 1, and partition 0 in this run state. -/
def delivers (d : BitVec 512) (x : Part) : State :=
  { withPart on { x with bound := [(0, table0 false)] } with rings := [(0, { ring0 0 1 1 with cq := 1, fetched := [(d, 1000)] }), (1, ring0 1 0 0)] }

def fails (d : BitVec 512) : Bool := sdStatus (delivers d {}) 0 d ≠ 0
theorem witness_DescriptorsAreDelivered_failed :
    (delivers 0 {}).sup.inReset = false ∧ commandPart (delivers 0 {}) = none ∧ fails (sd 0x200 0 0 0) = true ∧ fails (sd 5 0 0 0) = true
    ∧ fails (sd 0x201 0 0 0) = true ∧ fails (sd 2 0 0 0) = true ∧ fails (sd 0x203 0 0 0) = true ∧ fails (sd 0x204 0 0 0) = true := by
  decide +kernel
theorem witness_DescriptorsAreDelivered_sound :
    (sdKind (sd 0 0 0 0) = 0 ∧ sdStatus (delivers (sd 0 0 0 0) {}) 0 (sd 0 0 0 0) = 0)
    ∧ (let d := sd 1 0 0 1; sdKind d = 1 ∧ sdStatus (delivers d { runState := .bound }) 0 d = 0 ∧ sdWord d 2 ≠ 0xFFFFFFFF)
    ∧ (let d := sd 2 3 1 0; sdKind d = 2 ∧ sdStatus (delivers d {}) 0 d = 0)
    ∧ (∀ c ∈ [execStep live2, planned (evalAt none 1000)],
      let s := delivers (sd 3 0 0 0) { runState := .gated, run := some c };
      sdStatus s 0 (sd 3 0 0 0) = 0 ∧ (partOf s 0).run = some c)
    ∧ ((execStep live2).exec.isSome = true ∧ (planned (evalAt none 1000)).exec = none ∧ (planned (evalAt none 1000)).next = none)
    ∧ (sdKind (sd 4 0 0 0) = 4 ∧ sdStatus (delivers (sd 4 0 0 0) {}) 0 (sd 4 0 0 0) = 0)
    ∧ ({ ring0 0 1 1 with accept := [(7, 1000)] } : Ring).accept = (7, 1000) :: []
    ∧ (on.boot.deaccessioned = false ∧ owned (partOf (withPart on { held := true }) 0) = true ∧ (partOf (withPart on { held := true }) 0).held = true) := by decide +kernel

/-! ### Mailboxes, registers, errors, power -/

/-- The command with this opcode and argument words, started on channel 0 at beat 900; it ends at beat 1,000, or at 900 + t ÷ 4. -/
def command (op : Nat) (args : SMap Word) (t : Nat := 400) : Running :=
  { chan := 0, start := 900, arrived := 900, t := t, block := (0, BitVec.ofNat 32 op) :: args, check := 0, status := 0 }
def commanded (s : State) (r : Running) : State := { s with curator := { s.curator with running := some r } }
def asked (s : State) (c : Chan) : State := setChan s 0 c
def nopBlock : SMap Word := [(0, 1)]

theorem witness_MailboxProtocol :
    (on.sup.inReset = false ∧ on.boot.valid = true ∧ (chanBlock on 0).state = .idle ∧ on.boot.legacy = false
      ∧ (chanBlock (asked on { state := .queued }) 0).state = .queued)
    ∧ (let s := asked on { state := .queued, captured := nopBlock, goAt := some 999 };
      arrives s 0 = true ∧ curatorFree s = true ∧ s.curator.queue = [] ∧ opcodeOf (chanBlock s 0).captured ≠ 0x103)
    ∧ (let r := command 1 [];
      now (commanded on r) = replyBeat r ∧ (commanded on r).curator.queue = [] ∧ lateStatus on r = none ∧ r.status = 0
        ∧ ({ r with status := 5 } : Running).status ≠ 0 ∧ effectMade on { r with applied := true } = true
        ∧ (cmdRow (opcodeOf r.block)).isSome = true ∧ lateStatus (trip on) (command 0x100 []) = some 1)
    ∧ (let r := { command 0x600 [] with applied := true, until_ := 1007 }; replyBeat r = 1007)
    ∧ (let r := command 1 []; now (atBeat on 250900) = r.start + (4 * 0 + 1000000) / 4 ∧ inDomainReset on 4 0 = false) := by decide +kernel

def due (s : State) (op : Nat) (args : SMap Word) : Bool := (dueCommand (commanded s (command op args)) op false).isSome

theorem witness_QueriesSettingsAndPartitionCommands :
    ∀ op ∈ [0x001, 0x002, 0x003, 0x004, 0x005, 0x010, 0x011, 0x012, 0x100, 0x101, 0x102, 0x103], due on op [] = true := by decide +kernel

def retired : BitVec 256 := mkRecord 0x15 0 0 0 0
def granule5 : State := { on with granules := [(5, granule0)] }

theorem witness_ResourceAndMaintenanceCommands :
    (∀ op ∈ [0x200, 0x201, 0x202, 0x300, 0x301, 0x400, 0x401, 0x500, 0x700, 0x701, 0x702], due on op [] = true)
    ∧ (bits (arg on [(0, 0x200), (4, 0x805)] 0) 10 2 = 2 ∧ bits (arg on [(0, 0x200), (4, 0x405)] 0) 10 2 = 1
      ∧ ({ command 0x200 [] with half := some false } : Running).half = some false ∧ freeRank on false = some 0)
    ∧ find granule5.granules (arg on [(4, 5)] 0 % 1024) = some granule0
    ∧ (∀ op ∈ [0x203, 0x600], (dueCommand (commanded (atBeat on 900) (command op [])) op true).isSome = true)
    ∧ (List.range 16).find? (fun h => (find (partOf on 0).bound h).isNone) = some 0
    ∧ (recordArg on [] ∉ on.flash.retire ∧ recordArg on [] ∈ ({ on.flash with retire := [0] } : Flash).retire)
    ∧ (resetKind (3 % 16) = some .vault ∧ inDomainReset on (domCode .vault) (bits 3 8 8) = false
      ∧ inDomainReset { on with resets := [(768, 1000)] } (domCode .vault) (bits 3 8 8) = true) := by decide +kernel

theorem witness_RegisterAccesses :
    (regAccess on .curator = true ∧ (pairValue on (reach on .curator 0x100000)).isSome = true)
    ∧ (let s := setHalves on .curator { heldLow := [(0x170028, 9)] };
      isHighHalf s .curator 0x17002C = true ∧ reach s .curator 0x17002C = (.errLog, 0x2C) ∧ find (halvesOf s .curator).heldLow (0x17002C - 4) = some 9)
    ∧ (let x := reach on .curator 0x104014;
      pairValue on x = none ∧ x = (.seq 3, 0x14) ∧ pairValue on (x.1, x.2 - 4) = none)
    ∧ (reach on .sideband 0x100000).1 = .none ∧ (reachRead on .sideband 0x100000).1 = .none ∧ on.boot.deaccessioned = false
    ∧ (pairValue on (reachRead on .curator 0x100000)).isSome = true
    ∧ (∀ w ∈ [Requester.curator, .sideband, .port 7], mayLand on w 0x104014 = true)
    ∧ (landRank .sideband = some 8 ∧ find on.boot.landed (landKey .sideband 0x104014) = none)
    ∧ mayLand { on with boot := { on.boot with landed := [(0x104014, (1000, 3, 8))] } } (.port 0) 0x104014 = false := by decide +kernel

/-- Partition 1 holds way 2 and lane 2. -/
def neighbour : State := setPart on 1 { state := .committed, lanes := 4, ways := 4 }

theorem witness_SettingRegisters :
    (locked (withPart on {}) 0 = true ∧ locked neighbour 0 = false)
    ∧ (clashes neighbour 0 0 ((3 : Word).setWidth 8) 0 0 0 = false ∧ clashes neighbour 0 0 ((4 : Word).setWidth 8) 0 0 0 = true
      ∧ clashes neighbour 0 0 0 ((3 : Word).setWidth 16) 0 0 = false ∧ clashes neighbour 0 0 0 ((4 : Word).setWidth 16) 0 0 = true)
    ∧ (regAccess on .curator = true ∧ mayLand on .curator 0x104008 = true ∧ mayLand on .curator 0x104014 = true ∧ on.boot.deaccessioned = false
      ∧ { on.boot with deaccessioned := true }.deaccessioned = true ∧ reach on .curator 0x104008 = (.seq 3, 0x008) ∧ reach on .curator 0x104014 = (.seq 3, 0x014))
    ∧ (((0 : Word) - on.errLog.head).toNat ≤ (on.errLog.tail - on.errLog.head).toNat
      ∧ (on.errLog.tail - on.errLog.head).toNat < ((1 : Word) - on.errLog.head).toNat) := by decide +kernel

def rawed (o : RawOp) : State := { { on with granules := [(0, granule0)] } with errLog := { on.errLog with rawOp := some o } }
def raw2 (write : Bool) : RawOp := ⟨write, 2, 1000, 0, [], 0⟩
/-- The vault's first word holds this in its first two bytes, with the check bits of 0. -/
def vaultWith (b0 b1 : Byte) : State :=
  { on with dram := (if b0 = 0 then [] else [(0, b0)]) ++ (if b1 = 0 then [] else [(1, b1)]) ++ [(32, 0), (33, 0), (34, 0), (35, 0)] }
/-- Beat 819, where the first free window of pseudo-channel 0 from PCLK 4,096 on opens at edge 4. -/
def later (s : State) : State := atBeat s 819
def pch0 : Scrubber := .pch 0
def found (s : State) : Checked := codeCheck (.word 0 0) (codeGet s (.word 0 0)).1 (codeGet s (.word 0 0)).2
/-- The scrubber of pseudo-channel 0 has found its first codeword to be mended. -/
def fixing (s : State) : State :=
  setScrub s pch0 { pos := 1, fix := some (0, [(0, (codeGet s (.word 0 0)).1, (codeGet s (.word 0 0)).2)]) }

theorem witness_RawAccessAndScrubbing_raw :
    (on.sup.inReset = false ∧ coldHeld on = false ∧ on.boot.deaccessioned = false ∧ coldHeld (trip on) = true ∧ on.errLog.rawOp = none
      ∧ rawRefused { on with granules := [(0, granule0)] } ⟨false, 2, 1000, 0, [], 0⟩ = false ∧ (9 : Word).getLsbD 0 = true ∧ bits (9 : Word).toNat 2 2 = 2 ∧ (9 : Word).getLsbD 1 = false
      ∧ (11 : Word).getLsbD 1 = true)
    ∧ (∀ w ∈ [false, true],
      (rawed (raw2 w)).errLog.rawOp = some (raw2 w) ∧ (raw2 w).end_ = now (rawed (raw2 w)) ∧ rawRef (raw2 w) = some (.word 0 0)
        ∧ (rawed (raw2 w)).errLog.rawHeld = [] ∧ rawRefused (rawed (raw2 w)) (raw2 w) = false)
    ∧ rawRefused (setPch (rawed (raw2 false)) 0 { nbMode := true }) (raw2 false) = true := by decide +kernel
theorem witness_RawAccessAndScrubbing_scrub :
    (let s := later on;
      scrubOn s (scrubUnit pch0) = true ∧ scrubTime s pch0 4 = some 4099 ∧ (scrubOf s pch0).fix = none ∧ (scrubOf s pch0).pos = 0
        ∧ 0 + 1 < lapLength (scrubPlace pch0).2 ∧ (codesAt s pch0 0)[0]? = some (.word 0 0) ∧ scrubbed s (.word 0 0) = true
        ∧ ∀ r ∈ codesAt s pch0 0, codeCheck r (codeGet s r).1 (codeGet s r).2 = .marker)
    ∧ (let s := atBeat (setLap on (.vault 0) { began := some 1000 }) (1000 + 86400 * 250000000);
      s.sup.inReset = false ∧ (lapNow s (.vault 0)).began = some 1000 ∧ now s = 1000 + 86400 * 250000000)
    ∧ (let s := setWing { on with beat := 1024, bankGroups := [(0, ⟨.on, 0⟩)] } 0 runsAt4;
      scrubTime s (.bank 0) 0 = some 4096)
    ∧ (let s := { on with beat := 1024, sliceDoms := [(0, ⟨.on, 0⟩)] }; scrubTime s (.slice 0) 0 = some 5120) := by decide +kernel
theorem witness_RawAccessAndScrubbing_sound : found on = .marker ∧ found (vaultWith 0 0) = .clean 0 := by decide +kernel
theorem witness_RawAccessAndScrubbing_single :
    (match found (vaultWith 1 0) with | .corrected d _ _ => d = 0 | _ => false) = true := by decide +kernel
theorem witness_RawAccessAndScrubbing_double :
    (match found (vaultWith 1 1) with | .bad _ _ => true | _ => false) = true := by decide +kernel
theorem witness_RawAccessAndScrubbing_fix :
    ∀ b ∈ [(0 : Byte), 1],
      let s := later (fixing (vaultWith 1 b));
      scrubOn s (scrubUnit pch0) = true ∧ (scrubTime s pch0 4).isSome = true ∧ scrubbed s (.word 0 0) = true
        ∧ (scrubOf s pch0).fix = some (0, [(0, (codeGet s (.word 0 0)).1, (codeGet s (.word 0 0)).2)]) := by decide +kernel

def rep0 : Report := ⟨0x3000, 9, 1, 0, 0, 0, false⟩
def heard0 : Heard := ⟨rep0, some 0⟩
def open0 (first : Nat) (closed : Bool) : ColEntry := ⟨rep0, 1, first, first, 7, none, 0, closed⟩
def collecting (e : List ColEntry) : State := setCol on 0 { entries := e }

theorem witness_ErrorCollection :
    (let s := setCol on 0 { entries := [open0 900 false], queue := [heard0] };
      nextReport (colOf s 0).queue = some heard0 ∧ matching s (colOf s 0) rep0 = some (open0 900 false))
    ∧ (on.sup.inReset = false ∧ matching (collecting [open0 900 false]) (colOf (collecting [open0 900 false]) 0) rep0 = some (open0 900 false))
    ∧ (matching on (colOf on 0) rep0 = none ∧ (colOf on 0).entries.length < 64 ∧ logFree on = true)
    ∧ (let s := collecting (List.replicate 64 (open0 2000 false));
      matching s (colOf s 0) rep0 = none ∧ 64 ≤ (colOf s 0).entries.length)
    ∧ logFree { on with errLog := { on.errLog with tail := 4096 } } = false
    ∧ (let s := atBeat (collecting [open0 900 false]) 250900;
      (colOf s 0).entries = [open0 900 false] ∧ (open0 900 false).first + 250000 = now s)
    ∧ (let s := atBeat (collecting [open0 900 true]) 253400;
      (open0 900 true).first + 252500 = now s ∧ entryRecord s 0 (open0 900 true).rep = none) := by decide +kernel

def curatorReset (s : State) : State := { s with resets := [(1024, 10000000)] }

theorem witness_PowerAndThermalCommands :
    ((List.replicate 210 (0 : BitVec 16)).length = 210 ∧ 252500 ≤ now (atBeat on 252500) ∧ now (atBeat on 252500) % 250000 = 2500 ∧ (atBeat on 252500).power.reportAt = none
      ∧ ([] : List (BitVec 16)).length ≠ 210 ∧ 96000000 < (48000 : BitVec 16).toNat * (2001 : BitVec 16).toNat)
    ∧ now (atBeat on 500000) % 250000 = 0
    ∧ (let s := atBeat { on with power := { on.power with forModel := true } } 262500;
      (List.replicate 528 (0 : BitVec 12)).length = 528 ∧ s.power.forModel = true ∧ inDomainReset s 4 0 = false ∧ now s % 250000 = 12500)
    ∧ (let s := atBeat { on with thermal := { on.thermal with lastSelfCheck := some 1000 } } 15000001000;
      [0, 527].any (528 ≤ ·) = false ∧ s.thermal.lastSelfCheck.map (· + 15000000000) = some (now s) ∧ [528].any (528 ≤ ·) = true)
    ∧ (let s := { on with thermal := { on.thermal with cycles := [(0, { unwritten := some 900 })] } };
      (look s.thermal.cycles 0 {}).unwritten = some 900 ∧ now s < 900 + 250000000)
    ∧ (let s := curatorReset (atBeat on 500000);
      inDomainReset s 4 0 = true ∧ now s % 250000 = 0 ∧ s.boot.tripped = false
        ∧ (List.range 528).find? (fun r => !(regionOf s r).broken && tripAt r ≤ toSigned 12 (((List.replicate 528 (900 : BitVec 12))[r]?).getD 0).toNat) = some 0) := by
  decide +kernel

/-! ### Sideband, JTAG, codes -/

theorem witness_SidebandAndJtag :
    (on.sup.inReset = false ∧ on.sideband.dynAddr = none
      ∧ { on with sideband := { on.sideband with dynAddr := some 9, events := 8 } }.sideband.dynAddr.isSome = true)
    ∧ ((2 : BitVec 32).toNat % 4 ≠ 0 ∧ (8 : BitVec 32).toNat % 4 = 0 ∧ ([1, 2, 3] : List Byte).length < 4)
    ∧ (powered State.reset = true ∧ State.reset.sup.inReset = true ∧ powered on = true ∧ powered low = false
      ∧ pinState (trip on) .thermTrip = .low ∧ pinState { on with boot := { on.boot with alertLow := true } } .alert = .low) := by decide

theorem witness_CodesAndCodedStores :
    ((32, 7) ∈ [(8, 5), (32, 7), (128, 9)] ∧ 2 ^ 32 - 1 < 2 ^ 32)
    ∧ storeOk sramCodec (wordWrite [] sramCodec 0 5) = true ∧ 5 < 2 ^ (8 * sramCodec.n) := by decide +kernel

/-! ### Commands that WellFormed refuses -/

theorem test_wf_refuses :
    (Instr.domainResetEnd .vault 16).wf = false ∧ (Instr.domainWakeStart 0 ⟨.engine, 48⟩).wf = false
    ∧ (Instr.domainWakeComplete ⟨.wing, 128⟩).wf = false ∧ (Instr.currentReport 0 0 (List.replicate 209 0)).wf = false
    ∧ (Instr.modelRun (List.replicate 527 0) 0 false).wf = false ∧ (Instr.alwaysOnTripCheck (List.replicate 529 0)).wf = false
    ∧ (Instr.sensorSelfCheck [0, 528]).wf = false ∧ (Instr.fetchDataReturn 0 0 (List.replicate 17 0)).wf = false := by decide +kernel
theorem test_wf_accepts :
    (Instr.domainResetEnd .vault 15).wf = true ∧ (Instr.domainWakeStart 0 ⟨.engine, 47⟩).wf = true
    ∧ (Instr.domainWakeComplete ⟨.wing, 127⟩).wf = true ∧ (Instr.currentReport 0 0 (List.replicate 210 0)).wf = true
    ∧ (Instr.modelRun (List.replicate 528 0) 0 false).wf = true ∧ (Instr.sensorSelfCheck [0, 527]).wf = true
    ∧ (Instr.fetchDataReturn 0 0 (List.replicate 16 0)).wf = true := by decide +kernel

/-! ### Results worked out from the spec -/

/-- R408: data bit 0 of a byte stands at position 3, and data bit 7 at position 12; the last check bit is the parity of the rest. R409: the
markers. -/
theorem test_codes :
    hammingCheck 8 5 1 = 0b10011 ∧ hammingCheck 8 5 0x80 = 0b11100 ∧ wordRead [] clmCodec 0 = .marker ∧ wordRead [] vaultCodec 9 = .marker
    ∧ wordRead (wordPoison [] sramCodec 3) sramCodec 3 = .poison := by decide +kernel
/-- R179: its own example; R178, R180 by hand: 1.0 and 6.0 in binary16, bfloat16, E2M1 and E4M3. -/
theorem test_formats :
    cvtWord 0x0C 0x40200000 0 = some 2 ∧ cvtWord 0x0C 0xC0600000 0 = some 0xFFFFFFFC ∧ cvtWord 0x0C 0x43960000 0 = some 127
    ∧ cvtWord 0x05 0x3F800000 0 = some 0x3C00 ∧ cvtWord 0x04 0x40C00000 0 = some 0x40C0 ∧ cvtWord 0x05 0x477FF000 0 = some 0x7C00
    ∧ encodeElt 9 0x40C00000 127 = 7 ∧ encodeElt 5 0x3F800000 127 = 0x38 ∧ decodeScaled 9 7 128 = 0x41400000 := by decide +kernel
/-- R118, R121, R183 by hand: 1 + 2 = 3, 1.5 × −2 = −3, 1 ÷ 2, 2³, log₂ 8, and a NaN that becomes the canonical one. -/
theorem test_float_results :
    enc32 ((dec32 0x3F800000).add (dec32 0x40000000)) = 0x40400000 ∧ enc32 ((dec32 0x3FC00000).mul (dec32 0xC0000000)) = 0xC0400000
    ∧ frcp32 0x40000000 = 0x3F000000 ∧ fexp232 0x40400000 = 0x41000000 ∧ flog232 0x41000000 = 0x40400000
    ∧ fmin32 0x7FC00001 0x3F800000 = 0x7FC00000 := by decide +kernel
/-- R107, R108: the word of add v31, v1, v2 under p7 by its fields: OP 2, D 31, A 1, B 2, M 0, X 0, G 7. Lane l holds l and 5 − l. -/
theorem test_add_word :
    (match issueAt (xil [0x05F08807]) 0 0 with
    | some i => i.x.op = 2 && i.x.d = 31 && i.on = List.range 16 && (List.range 16).all fun l => opA i.tour i.x l + opB i.tour i.x l = 5
    | none => false) = true := by decide +kernel
/-- The same word under G = 0xF writes in no lane (R109). -/
theorem test_never_guard :
    (match issueAt (xil [0x05F0880F]) 0 0 with | some i => i.on = [] | none => false) = true := by decide +kernel
/-- R161 by the decode-shaped example: run 1 enters at max(38, 25 + 16, 50) = 50. By the prefill-shaped one: max(90, 45 + 64, 57) = 109. -/
theorem test_array_entry :
    entryTime { coreWith [] with prevRun := some (⟨0, 1, false⟩, 25, 16), shadow := some (image1 50) } { waitingRun with ready := some 38 } = some 50
    ∧ entryTime { coreWith [] with prevRun := some (⟨2, 1, false⟩, 45, 64), shadow := some { image1 57 with shape := ⟨2, 1, false⟩ } }
        { waitingRun with shape := ⟨2, 1, false⟩, n := 64, ready := some 90 } = some 109 := by decide +kernel
/-- R162 by the same examples: the last words stand at 100 + 16 + 38 = 154, and at 45 + 64 + 38 = 147. -/
theorem test_array_end :
    ({ inArray with n := 16, entry := some 100, written := 15 } : MxRun).writes 154 = true
    ∧ ({ inArray with shape := ⟨2, 1, false⟩, n := 64, entry := some 45 } : MxRun).writes 147 = true := by decide +kernel
/-- R348, R353 by the example of two hosts: a bind of 1,048,576 bytes takes 36,384 MCLK, and fails check 3 where 41 is expected at epoch 42. -/
theorem test_bind_example :
    (cmdTime on [(0, 0x400), (6, 1048576)]).1 = 36384 ∧ (cmdRow 0x200).map (·.t) = some 3000
    ∧ (let s := { on with curator := { on.curator with epoch := 42 } };
      let v := (evaluate s 6 [(0, 0x400), (1, 0x80000001), (2, 41), (6, 1048576)]).1;
      v.check = 3 ∧ v.status = 1) := by decide +kernel
/-- R380 by the example of a rack limit of 7,000 W: 499,800 µJ in 25,000 beats, and 29,440,000 µJ at most. -/
theorem test_input_account :
    inputFill { on with power := { on.power with limitOn := 7000 } } { share := 1024 } * 4 * 25000 = 499800 * 1000000
    ∧ inputCap { share := 1024 } = 29440000 := by decide +kernel
/-- R263: c.addi x1, 1 (0x0085) is addi x1, x1, 1 (0x00108093). -/
theorem test_compressed : expandC 0x0085 = some 0x00108093 := by decide +kernel
/-- R264: −7 ÷ 2 leaves −1, a divisor of 0 gives all ones; the high word of −1 × −1 is 0 signed and 0xFFFFFFFE unsigned. -/
theorem test_rv_products :
    rvDivValue 6 0xFFFFFFF9 2 = 0xFFFFFFFF ∧ rvDivValue 5 9 0 = 0xFFFFFFFF ∧ rvMulValue 1 0xFFFFFFFF 0xFFFFFFFF = 0
    ∧ rvMulValue 3 0xFFFFFFFF 0xFFFFFFFF = 0xFFFFFFFE := by decide +kernel
/-- R32: the class of the slot at PCLK 5,016 is 5016 % 20 − 16 + 4 × (250 % 3) = 4. -/
theorem test_class_slot : classOfSlot 5016 = 4 ∧ classOfSlot 5059 = 3 := by decide
/-- R30: a tick counts one beat; nothing else does. -/
theorem test_tick :
    (match exec .beatTick on with | .next t => t.beat = 1001 | _ => false) = true
    ∧ (match exec .jtagTrst on with | .next t => t.beat = 1000 | _ => false) = true := by decide +kernel
/-- R341: a GO captures the block, and a second one is ignored. -/
theorem test_go :
    (match exec (.mailboxGo 0) on with
    | .next t => (chanBlock t 0).state = .queued && (match exec (.mailboxGo 0) t with | .next u => (chanBlock u 0).goIgnored | _ => false)
    | _ => false) = true := by decide +kernel
/-- R466: IDCODE shifts out 0x29160FFF. -/
theorem test_idcode :
    (match exec .idcode on with | .next t => t.out = [.jtag 0x29160FFF] | _ => false) = true := by decide +kernel
/-- An empty queue idles; a command at its front is taken. -/
theorem test_step :
    (match step on with | .next t => decide (t = on) | _ => false) = true ∧ (match step { on with pending := [.jtagTrst, .idcode] } with | .next t => t.pending = [.idcode] | _ => false) = true := by
  decide +kernel
/-- No row of the table gives its command bits. -/
theorem test_no_words : decodeTableWord 32 0 = none ∧ State.withFetchWord on 32 0 = on := by decide +kernel

end Sys2Proof.Machine.Tests
end

section
/-! PROOF. What a Xilon command does at an issue, and the results of the compare, predicate, uniform and lane instructions
(R111, R115, R116, R122, R123, R125). -/

namespace Sys2Proof.Machine

/-! ### The issue of a Xilon command -/

/-- None of the checks at issue applies to a clean issue of the commanded opcode, so the instruction acts. -/
theorem xilon_of_clean {s : State} {core : CoreRef} {j : Fin 7} {i : Issue} {op : Nat} {act : State → Issue → State}
    (hi : issueAt s (coreId core) j.val = some i) (hc : i.clean op) : xilon core j op act s = .next (act s i) := by
  obtain ⟨rfl, listed, legal, fits, sound, extSound, unpoisoned⟩ := hc
  have inCode : ¬ i.core.codeBytes ≤ 4 * i.pc := by
    have : 1 ≤ i.x.words := by unfold XInst.words; split <;> decide
    omega
  have noExtFault : ¬ (i.x.ext = true ∧ (badWord i.core.codeBad (i.pc + 1)).isSome = true) := by
    rintro ⟨he, hb⟩
    simp [extSound he] at hb
  simp [xilon, hi, inCode, sound, listed, legal, Nat.not_lt.mpr fits, noExtFault, unpoisoned]

/-- A readable word of the commanded opcode whose form is illegal faults (R111). -/
theorem xilon_of_illegal {s : State} {core : CoreRef} {j : Fin 7} {i : Issue} {op : Nat} {act : State → Issue → State}
    (hi : issueAt s (coreId core) j.val = some i) (inCode : 4 * i.pc < i.core.codeBytes)
    (sound : badWord i.core.codeBad i.pc = none) (hop : i.x.op = op) (listed : opListed op = true) (illegal : i.x.regs = none) :
    xilon core j op act s = .next (issueFault s i 0x10) := by
  subst hop
  simp [xilon, hi, Nat.not_le.mpr inCode, sound, listed, illegal]

/-! ### Legal forms -/

theorem joinRegs_of_none_mem {ls : List (Option (List XReg))} (h : none ∈ ls) : joinRegs ls = none := by
  induction ls with
  | nil => cases h
  | cons l ls ih =>
    cases l with
    | none => rfl
    | some l =>
      have hrest : joinRegs ls = none := ih (by simpa using h)
      simp [joinRegs, hrest]

/-- plog requires M[4:3] = 0 (R123). -/
theorem plog_regs_eq_none {x : XInst} (hop : x.op = 0x33) (hm : 8 ≤ x.m) : x.regs = none := by
  have field : when_ (decide (x.m < 8)) = none := by simp [when_, hm]
  have illegal : aluRegs x = none := by
    simp only [aluRegs, hop]
    exact joinRegs_of_none_mem (by simp [field])
  simp [XInst.regs, hop, illegal]

/-! ### Results put under way (R115) -/

theorem finishP_p7 {s : State} {i : Issue} (h : i.x.d = 7) (f : Nat → Bool) : finishP s i f = finish s i i.core :=
  if_pos h

theorem finishP_of_ne {s : State} {i : Issue} (h : i.x.d ≠ 7) (f : Nat → Bool) :
    finishP s i f = finish s i { i.core with
      results := i.core.results ++ [⟨i.tour.index, .pred i.x.d (i.on.map fun l => (l, f l)), i.g + 1⟩] } :=
  if_neg h

theorem finishU_eq {s : State} {i : Issue} {r : Nat} (v : Word) (hr : 1 ≤ r) :
    finishU s i r v = finish s i { i.core with
      results := i.core.results ++ [⟨i.tour.index, .uni i.x.d v, i.g + (r - 1)⟩] } := by
  simp only [finishU, addResult, Nat.add_sub_assoc hr]

/-- Where the condition code has a meaning in every lane, a compare writes it (R122). -/
theorem setpOp_eq_finishP {s : State} {i : Issue} {cond : Nat → Word → Word → Option Bool} {f : Nat → Bool}
    (hf : ∀ l, cond (i.x.m / 4) (opA i.tour i.x l) (opB i.tour i.x l) = some (f l)) : setpOp cond s i = finishP s i f := by
  simp only [setpOp, hf, Option.getD_some]

/-- A clean issue of a compare whose condition code has a meaning in every lane (R122). -/
theorem xilon_setpOp {s : State} {core : CoreRef} {j : Fin 7} {i : Issue} {op : Nat} {cond : Nat → Word → Word → Option Bool}
    {f : Nat → Bool} (hi : issueAt s (coreId core) j.val = some i)
    (hf : ∀ l, cond (i.x.m / 4) (opA i.tour i.x l) (opB i.tour i.x l) = some (f l)) (hc : i.clean op) :
    xilon core j op (setpOp cond) s = .next (finishP s i f) := by
  rw [xilon_of_clean hi hc, setpOp_eq_finishP hf]

/-- M[1:0] of plog selects AND, OR, XOR, or pA AND NOT pB, and M[2] inverts it (R123). -/
theorem predLogic_table (inv p q : Bool) :
    predLogic 0 inv p q = ((p && q) != inv) ∧ predLogic 1 inv p q = ((p || q) != inv)
      ∧ predLogic 2 inv p q = ((p != q) != inv) ∧ predLogic 3 inv p q = ((p && !q) != inv) :=
  ⟨rfl, rfl, rfl, rfl⟩

/-! ### The obligation -/

/-- Settles O22: a clean issue acts, an illegal plog faults, and the results go under way as R115 times them. Each command's clause
is stated of its own meaning, to which `exec` unfolds. -/
theorem xilonPredicateUniformAndLaneResults : Obligations.XilonPredicateUniformAndLaneResults := by
  intro s core j i hi
  refine ⟨?setpS, ?setpU, ?setpF, ?plog, predLogic_table, ?plogIllegal, fun f h => finishP_p7 h f, fun f h => finishP_of_ne h f,
    fun _ v hr => finishU_eq v hr, ?uadd, ?usub, ?umul, ?uand, ?uor, ?uxor, ?ushl, ?ushr, ?uaddi, ?umovi, ?uGet, ?vote, ?shfl⟩
  case setpS => exact fun _ hf hc => (xilon_setpOp hi hf hc : execSetpS core j s = _)
  case setpU => exact fun _ hf hc => (xilon_setpOp hi hf hc : execSetpU core j s = _)
  case setpF => exact fun _ hf hc => (xilon_setpOp hi hf hc : execSetpF core j s = _)
  case plogIllegal =>
    intro inCode sound hop hm
    exact (xilon_of_illegal hi inCode sound hop (by decide) (plog_regs_eq_none hop hm) : execPlog core j s = _)
  case plog => exact fun hc => (xilon_of_clean hi hc : execPlog core j s = _)
  case uadd => exact fun hc => (xilon_of_clean hi hc : execUadd core j s = _)
  case usub => exact fun hc => (xilon_of_clean hi hc : execUsub core j s = _)
  case umul => exact fun hc => (xilon_of_clean hi hc : execUmul core j s = _)
  case uand => exact fun hc => (xilon_of_clean hi hc : execUand core j s = _)
  case uor => exact fun hc => (xilon_of_clean hi hc : execUor core j s = _)
  case uxor => exact fun hc => (xilon_of_clean hi hc : execUxor core j s = _)
  case ushl => exact fun hc => (xilon_of_clean hi hc : execUshl core j s = _)
  case ushr => exact fun hc => (xilon_of_clean hi hc : execUshr core j s = _)
  case uaddi => exact fun hc => (xilon_of_clean hi hc : execUaddi core j s = _)
  case umovi => exact fun hc => (xilon_of_clean hi hc : execUmovi core j s = _)
  case uGet => exact fun hc => (xilon_of_clean hi hc : execUGet core j s = _)
  case vote => exact fun hc => (xilon_of_clean hi hc : execVote core j s = _)
  case shfl => exact fun hc => (xilon_of_clean hi hc : execShfl core j s = _)

end Sys2Proof.Machine
end

section
/-! PROOF. The sorter's order of keys (R300), and the ranking of a key array by insertion (R299). -/

namespace Sys2Proof.Machine

/-! ### The order of R300 -/

/-- R300 as one lexicographic order: NaNs last, then the direction's order of numbers, then the position. -/
def rankKey (ascend : Bool) (x : Word × Nat) : Bool ×ₗ Int ×ₗ Nat :=
  toLex (isNan32 x.1, toLex (if isNan32 x.1 then 0 else if ascend then totalKey x.1 else -totalKey x.1, x.2))

theorem ranksBefore_iff_rankKey_lt {ascend : Bool} {x y : Word × Nat} :
    ranksBefore ascend x y = true ↔ rankKey ascend x < rankKey ascend y := by
  simp only [ranksBefore, rankKey, Prod.Lex.toLex_lt_toLex]
  cases isNan32 x.1 <;> cases isNan32 y.1
  case false.false => cases ascend <;> grind
  all_goals simp

theorem ranksBefore_trans {ascend : Bool} {x y z : Word × Nat} (hxy : ranksBefore ascend x y = true)
    (hyz : ranksBefore ascend y z = true) : ranksBefore ascend x z = true := by
  rw [ranksBefore_iff_rankKey_lt] at *
  exact hxy.trans hyz

/-- Of two keys at different positions one ranks before the other. -/
theorem ranksBefore_of_not {ascend : Bool} {x y : Word × Nat} (hxy : ¬ ranksBefore ascend x y = true) (hpos : y.2 ≠ x.2) :
    ranksBefore ascend y x = true := by
  rw [ranksBefore_iff_rankKey_lt] at *
  exact lt_of_le_of_ne (not_lt.mp hxy) fun h => hpos (congrArg (fun k => (ofLex (ofLex k).2).2) h)

/-- Nothing but a later NaN ranks after a NaN (R300). -/
theorem ranksBefore_of_nan {ascend : Bool} {x y : Word × Nat} (h : ranksBefore ascend x y = true) (hx : isNan32 x.1 = true) :
    isNan32 y.1 = true ∧ x.2 < y.2 := by
  simp only [ranksBefore, hx] at h
  cases hy : isNan32 y.1 with
  | false => simp [hy] at h
  | true => exact ⟨rfl, by simpa [hy] using h⟩

/-- Two numbers rank in the direction's order, equal ones by position (R300). -/
theorem ranksBefore_of_numbers {ascend : Bool} {x y : Word × Nat} (h : ranksBefore ascend x y = true)
    (hx : isNan32 x.1 = false) (hy : isNan32 y.1 = false) :
    (totalKey x.1 = totalKey y.1 ∧ x.2 < y.2)
      ∨ (if ascend = true then totalKey x.1 < totalKey y.1 else totalKey y.1 < totalKey x.1) := by
  simp only [ranksBefore, hx, hy] at h
  by_cases heq : totalKey x.1 = totalKey y.1
  · exact .inl ⟨heq, by simpa [heq] using h⟩
  · right
    cases ascend <;> simpa [heq] using h

/-- The order of encodings refines the order of numbers: it differs from it only in the two zeros. -/
theorem totalKey_lt_of_numKey_lt {a b : Word} (h : numKey a < numKey b) : totalKey a < totalKey b := by
  unfold numKey at h
  unfold totalKey
  split_ifs at * <;> omega

/-! ### Ranking by insertion -/

theorem rankInsert_perm (ascend : Bool) (x : Word × Nat) (l : List (Word × Nat)) : (rankInsert ascend x l).Perm (x :: l) := by
  induction l with
  | nil => exact .refl _
  | cons y ys ih =>
    unfold rankInsert
    split
    · exact .refl _
    · exact (ih.cons y).trans (.swap x y ys)

/-- Inserting a key at a new position keeps a list ranked. -/
theorem rankInsert_pairwise {ascend : Bool} {x : Word × Nat} {l : List (Word × Nat)}
    (hl : l.Pairwise fun x y => ranksBefore ascend x y = true) (hx : ∀ y ∈ l, y.2 ≠ x.2) :
    (rankInsert ascend x l).Pairwise fun x y => ranksBefore ascend x y = true := by
  induction l with
  | nil => exact List.pairwise_singleton _ x
  | cons y ys ih =>
    obtain ⟨hy, hys⟩ := List.pairwise_cons.mp hl
    obtain ⟨hxy, hxs⟩ := List.forall_mem_cons.mp hx
    unfold rankInsert
    split
    case isTrue before =>
      exact hl.cons (List.forall_mem_cons.mpr ⟨before, fun z hz => ranksBefore_trans before (hy z hz)⟩)
    case isFalse after =>
      refine (ih hys hxs).cons fun z hz => ?_
      obtain rfl | hz := List.mem_cons.mp ((rankInsert_perm ascend x ys).mem_iff.mp hz)
      · exact ranksBefore_of_not after hxy
      · exact hy z hz

/-- The first n keys of an array, inserted one after another. -/
def rankFirst (ascend : Bool) (key : Nat → Word) (n : Nat) : List (Word × Nat) :=
  (List.range n).foldl (fun l i => rankInsert ascend (key i, i) l) []

theorem rankFirst_succ (ascend : Bool) (key : Nat → Word) (n : Nat) :
    rankFirst ascend key (n + 1) = rankInsert ascend (key n, n) (rankFirst ascend key n) := by
  simp [rankFirst, List.range_succ]

/-- Ranking loses no key and adds none. -/
theorem rankFirst_perm (ascend : Bool) (key : Nat → Word) (n : Nat) :
    (rankFirst ascend key n).Perm ((List.range n).map fun i => (key i, i)) := by
  induction n with
  | zero => exact .refl _
  | succ n ih =>
    rw [rankFirst_succ, List.range_succ, List.map_append]
    exact (rankInsert_perm ascend _ _).trans ((ih.cons _).trans (List.perm_append_singleton _ _).symm)

theorem rankFirst_pairwise (ascend : Bool) (key : Nat → Word) (n : Nat) :
    (rankFirst ascend key n).Pairwise fun x y => ranksBefore ascend x y = true := by
  induction n with
  | zero => exact .nil
  | succ n ih =>
    rw [rankFirst_succ]
    refine rankInsert_pairwise ih fun y hy => ?_
    obtain ⟨i, hi, rfl⟩ := List.mem_map.mp ((rankFirst_perm ascend key n).mem_iff.mp hy)
    exact (List.mem_range.mp hi).ne

/-- Key i of a TOPK descriptor's array: word i mod 16 of flit ⌊i ÷ 16⌋ (R299, R301). -/
def sorterKey (f : Flits) (i : Nat) : Word := BitVec.ofNat 32 (bits (flitOf f (i / 16)) (32 * (i % 16)) 32)

theorem ranked_eq_rankFirst (d : BitVec 384) (f : Flits) :
    ranked d f = rankFirst (dField d 0x20 13 1 = 1) (sorterKey f) (tkN d) := rfl

/-! ### The obligation -/

/-- Settles O47: insertion keeps the keys ranked, because the order of R300 is total on keys at different positions. -/
theorem sorterRanksTheKeys : Obligations.SorterRanksTheKeys := by
  intro d f up
  rw [ranked_eq_rankFirst]
  refine ⟨rankFirst_perm _ _ _, ?ranks, fun _ _ => totalKey_lt_of_numKey_lt, by decide⟩
  refine (rankFirst_pairwise _ _ _).imp fun h => ⟨ranksBefore_of_nan h, fun hx hy => ?_⟩
  simpa only [decide_eq_true_eq] using ranksBefore_of_numbers h hx hy

end Sys2Proof.Machine
end

section
/-! PROOF. Module reset (R428, R441): what its assertion keeps of the state and what starts afresh, for the reset that ends the
deaccessioned state and for the one that does not. -/

namespace Sys2Proof.Machine

/-! ### Maps whose values change together -/

theorem find_map_values {α β : Type} (f : α → β) (m : SMap α) (k : Nat) :
    find (m.map fun e => (e.1, f e.2)) k = (find m k).map f := by
  induction m with
  | nil => rfl
  | cons e m ih =>
    simp only [List.map_cons, find, ih]
    split_ifs <;> rfl

theorem look_map_values {α β : Type} (f : α → β) (m : SMap α) (k : Nat) (d : α) :
    look (m.map fun e => (e.1, f e.2)) k (f d) = f (look m k d) := by
  rw [look, look, find_map_values, Option.getD_map]

/-! ### The two resets -/

/-- What module reset leaves of a port: PERST's release, from which the configuration requests are due by 25,000,000 beats after
beat 0 (R430). -/
def Port.throughReset (x : Port) : Port :=
  { perstReleased := x.perstReleased, configBy := if x.perstReleased then 25000000 else 0 }

/-- What module reset leaves of a cycle counter: all but the beat of a count not yet written, which is now beat 0 (R406). -/
def CycleCounter.throughReset (c : CycleCounter) : CycleCounter := { c with unwritten := c.unwritten.map fun _ => 0 }

/-- This holds of an unlisted port too, as module reset leaves the default port as it is. -/
theorem enterReset_portOf (s : State) (p : Nat) : portOf (enterReset s) p = (portOf s p).throughReset :=
  look_map_values Port.throughReset s.ports p {}

theorem enterReset_cycleCounter (s : State) (i : Nat) :
    look (enterReset s).thermal.cycles i {} = (look s.thermal.cycles i {}).throughReset :=
  look_map_values CycleCounter.throughReset s.thermal.cycles i {}

theorem enterReset_cycleCount (s : State) (i : Nat) :
    (look (enterReset s).thermal.cycles i {}).count = (look s.thermal.cycles i {}).count := by
  rw [enterReset_cycleCounter]
  rfl

theorem enterReset_keptFrom (s : State) : (enterReset s).keptFrom s :=
  ⟨rfl, rfl, rfl, rfl, enterReset_cycleCount s, rfl, rfl, rfl, rfl⟩

theorem enterReset_startsAfresh (s : State) : (enterReset s).startsAfresh s :=
  ⟨rfl, rfl, rfl, rfl, enterReset_portOf s, rfl, rfl⟩

/-- The deaccessioned state is none of the kept fields. -/
theorem pllReset_keptFrom (s : State) : (pllReset s).keptFrom s := enterReset_keptFrom s

theorem pllReset_startsAfresh (s : State) : (pllReset s).startsAfresh s :=
  ⟨rfl, rfl, rfl, rfl, enterReset_portOf s, rfl, rfl⟩

/-! ### The obligation -/

/-- A source of module reset sets its own condition in the supervisor's state; the loss of the beat PLL alone leads to the reset that
keeps the deaccessioned state (R428, R451). -/
theorem exec_moduleResetAssert (src : ResetSource) (s : State) :
    ∃ u : Supervisor, exec (.moduleResetAssert src) s =
      .next (if src = .beatPll then pllReset { s with sup := u } else enterReset { s with sup := u }) :=
  ⟨_, rfl⟩

/-- Settles O5: each command first sets conditions of the supervisor, and a clock fault also CLK_LAST_CAUSE, which `keptFrom` and
`startsAfresh` do not read from the state before; what follows is one of the two resets. -/
theorem moduleResetKeeps : Obligations.ModuleResetKeeps := by
  intro s src pllLost
  refine ⟨?asserted, ?outOfRange, ?clockFault⟩
  case asserted =>
    obtain ⟨u, hexec⟩ := exec_moduleResetAssert src s
    by_cases hsrc : src = .beatPll
    · rw [if_pos hsrc] at hexec
      exact ⟨_, hexec, pllReset_keptFrom _, pllReset_startsAfresh _, rfl, by simp [hsrc, pllReset]⟩
    · rw [if_neg hsrc] at hexec
      exact ⟨_, hexec, enterReset_keptFrom _, enterReset_startsAfresh _, rfl, by simp [hsrc, enterReset]⟩
  case outOfRange =>
    exact ⟨_, rfl, enterReset_keptFrom _, enterReset_startsAfresh _, rfl, rfl, rfl⟩
  case clockFault =>
    intro hinput
    have hexec : exec (.clockMonitorTrip pllLost) s = .next (pllReset _) := onlyIf_on (by simp [hinput])
    exact ⟨_, hexec, pllReset_keptFrom _, pllReset_startsAfresh _, rfl, rfl⟩

end Sys2Proof.Machine
end

section
/-! PROOF. The results of the integer, floating-point, special-function and convert instructions, what an issue that writes D leaves as it
was, how results land, the control instructions and the faults at issue (R73 to R79, R109 to R121, R134 to R145). -/

namespace Sys2Proof.Machine

/-! ### What an issue is -/

/-- What the docent's choice at an edge says of the issue (R73, R74). -/
theorem issueAt_some {s : State} {id j : Nat} {i : Issue} (h : issueAt s id j = some i) :
    i.id = id ∧ find s.cores id = some i.core ∧ i.bad = none ∧ i.x = fetchInst i.core i.pc ∧ live s = true := by
  unfold issueAt at h
  cases hc : find s.cores id with
  | none => simp [hc] at h
  | some c =>
    simp only [hc, Option.ite_none_left_eq_some, Option.map_eq_some_iff, Bool.or_eq_true, not_or] at h
    obtain ⟨⟨⟨⟨⟨⟨⟨hlive, -⟩, -⟩, -⟩, -⟩, -⟩, -⟩, r, -, rfl⟩ := h
    exact ⟨rfl, rfl, rfl, rfl, by simpa using hlive⟩

/-! ### Threads -/

theorem threadOf_mapThread (t : Tour) (k l : Nat) (f : Thread → Thread) :
    threadOf (mapThread t k f) l = if l = k ∧ l < t.threads.length then f (threadOf t l) else threadOf t l := by
  simp only [threadOf, mapThread, List.getElem?_modify]
  by_cases hl : l < t.threads.length
  · by_cases hk : k = l <;> simp [hl, hk, eq_comm]
  · simp [hl]

@[simp] theorem mapThread_length (t : Tour) (k : Nat) (f : Thread → Thread) :
    (mapThread t k f).threads.length = t.threads.length := by simp [mapThread]

/-- A change of threads by an idempotent function reaches each named lane once. -/
theorem threadOf_foldl_mapThread {f : Thread → Thread} (hf : ∀ h, f (f h) = f h) (ls : List Nat) (t : Tour) (l : Nat) :
    threadOf (ls.foldl (fun t l => mapThread t l f) t) l
      = if l ∈ ls ∧ l < t.threads.length then f (threadOf t l) else threadOf t l := by
  induction ls generalizing t with
  | nil => simp
  | cons k ls ih =>
    rw [List.foldl_cons, ih, mapThread_length, threadOf_mapThread]
    by_cases hk : l = k
    · subst hk
      by_cases hl : l < t.threads.length <;> simp [hl, hf]
    · simp [hk]

/-- Threads are all that a change of threads changes. -/
theorem foldl_mapThread_eq (f : Thread → Thread) (ls : List Nat) (t : Tour) :
    ls.foldl (fun t l => mapThread t l f) t = { t with threads := (ls.foldl (fun t l => mapThread t l f) t).threads } := by
  induction ls generalizing t with
  | nil => rfl
  | cons k ls ih => rw [List.foldl_cons, ih]; rfl

theorem threadOf_advance (i : Issue) (t : Tour) (l : Nat) :
    threadOf (advance i t) l
      = if l ∈ i.lanes ∧ l < t.threads.length then { threadOf t l with pc := i.pc + i.x.words } else threadOf t l :=
  threadOf_foldl_mapThread (f := fun h => { h with pc := i.pc + i.x.words }) (fun _ => rfl) i.lanes t l

/-- No thread exits by advancing (R75). -/
theorem aliveLanes_advance (i : Issue) (t : Tour) : aliveLanes (advance i t) = aliveLanes t := by
  have hexited (l : Nat) : (threadOf (advance i t) l).exited = (threadOf t l).exited := by
    rw [threadOf_advance]
    split <;> rfl
  simp only [aliveLanes, hexited]

/-! ### The end of an issue -/

/-- An advance that leaves the parked threads at one PC changes the core's slot, docent and last issue, and nothing else (R73, R78). -/
theorem finish_eq_setCore {s : State} {i : Issue} {c : Core} (h : mismatch c (advance i i.tour) = false) :
    finish s i c = setCore s i.id
      { c with docent := i.slot, lastIssue := some i.g, active := put c.active i.slot (advance i i.tour) } := by
  have nobody : aliveLanes (advance i i.tour) = [] → ¬ aliveLanes i.tour = [] → False :=
    fun h1 h2 => h2 (aliveLanes_advance i i.tour ▸ h1)
  have alive : aliveLanes { advance i i.tour with stopped := (advance i i.tour).stopped } = aliveLanes (advance i i.tour) := rfl
  simp only [finish, settle, h, Bool.or_false, alive, Bool.false_eq_true, if_false]
  rw [if_neg]
  simp only [Bool.and_eq_true, decide_eq_true_eq, Bool.not_eq_true', decide_eq_false_iff_not, not_and]
  exact nobody

/-! ### Products and immediates -/

/-- The high word of a signed product (R117). -/
theorem mulhiS_eq (a b : Word) :
    BitVec.ofInt 32 (a.toInt * b.toInt / (2 ^ 32 : Nat)) = ((a.signExtend 64 * b.signExtend 64) >>> 32).setWidth 32 := by
  have product : a.signExtend 64 * b.signExtend 64 = BitVec.ofInt 64 (a.toInt * b.toInt) := by
    rw [BitVec.ofInt_mul]; rfl
  rw [product]
  generalize a.toInt * b.toInt = z
  apply BitVec.eq_of_toNat_eq
  simp only [BitVec.toNat_ofInt, BitVec.toNat_setWidth, BitVec.toNat_ushiftRight, Nat.shiftRight_eq_div_pow]
  omega

/-- The high word of an unsigned product (R117). -/
theorem mulhiU_eq (a b : Word) :
    BitVec.ofNat 32 (a.toNat * b.toNat / 2 ^ 32) = ((a.setWidth 64 * b.setWidth 64) >>> 32).setWidth 32 := by
  have fits : a.toNat * b.toNat < 2 ^ 64 := by
    calc a.toNat * b.toNat < 2 ^ 32 * 2 ^ 32 := Nat.mul_lt_mul'' a.isLt b.isLt
      _ = 2 ^ 64 := by norm_num
  apply BitVec.eq_of_toNat_eq
  simp only [BitVec.toNat_ofNat, BitVec.toNat_setWidth, BitVec.toNat_ushiftRight, Nat.shiftRight_eq_div_pow, BitVec.toNat_mul]
  rw [Nat.mod_eq_of_lt (a := a.toNat) (by omega), Nat.mod_eq_of_lt (a := b.toNat) (by omega), Nat.mod_eq_of_lt fits]

/-- The 10-bit field is sign-extended (R110). -/
theorem imm_eq (x : XInst) : x.imm = if x.ext then BitVec.ofNat 32 x.w1 else (BitVec.ofNat 10 x.imm10).signExtend 32 := by
  unfold XInst.imm
  split
  · rfl
  · apply BitVec.eq_of_toInt_eq
    rw [BitVec.toInt_signExtend_of_le (by decide), BitVec.toInt_ofInt, BitVec.toInt_eq_toNat_bmod, BitVec.toNat_ofNat]
    simp only [toSigned, Int.bmod]
    have : x.imm10 % 2 ^ 10 < 2 ^ 10 := Nat.mod_lt _ (by decide)
    split_ifs <;> omega

theorem minS_eq (a b : Word) : (if a.toInt ≤ b.toInt then a else b) = if b.slt a then b else a := by
  simp only [BitVec.slt, decide_eq_true_eq]
  split_ifs <;> first | rfl | omega

theorem maxS_eq (a b : Word) : (if a.toInt ≤ b.toInt then b else a) = if a.slt b then b else a := by
  simp only [BitVec.slt, decide_eq_true_eq]
  split_ifs
  · rfl
  · exact BitVec.eq_of_toInt_eq (by omega)
  · omega
  · rfl

theorem minU_eq (a b : Word) : (if a.toNat ≤ b.toNat then a else b) = if b.ult a then b else a := by
  simp only [BitVec.ult, decide_eq_true_eq]
  split_ifs <;> first | rfl | omega

theorem maxU_eq (a b : Word) : (if a.toNat ≤ b.toNat then b else a) = if a.ult b then b else a := by
  simp only [BitVec.ult, decide_eq_true_eq]
  split_ifs
  · rfl
  · exact BitVec.eq_of_toNat_eq (by omega)
  · omega
  · rfl

/-! ### The integer instructions -/

/-- Settles O20: a clean issue acts, and each instruction's function is the one that R117 and R119 give it. -/
theorem xilonIntegerResults : Obligations.XilonIntegerResults := by
  intro s core j i hi a b va n
  have hn : i.x.imm = n := imm_eq i.x
  refine ⟨?nop, ?add, ?sub, ?mul, ?mulhiS, ?mulhiU, ?and, ?or, ?xor, ?shl, ?shrU, ?shrS, ?minS, ?minU, ?maxS, ?maxU, ?sel, ?addi, ?andi, ?ori, ?xori, ?shli, ?shriU, ?shriS, ?movi⟩
  case nop => exact fun hc => (xilon_of_clean hi hc : execXilonNop core j s = _)
  case add => exact fun hc => (xilon_of_clean hi hc : execAdd core j s = _)
  case sub => exact fun hc => (xilon_of_clean hi hc : execSub core j s = _)
  case mul => exact fun hc => (xilon_of_clean hi hc : execMul core j s = _)
  case mulhiS =>
    intro hc
    simp only [a, b, ← mulhiS_eq]
    exact (xilon_of_clean hi hc : execMulhiS core j s = _)
  case mulhiU =>
    intro hc
    simp only [a, b, ← mulhiU_eq]
    exact (xilon_of_clean hi hc : execMulhiU core j s = _)
  case and => exact fun hc => (xilon_of_clean hi hc : execAnd core j s = _)
  case or => exact fun hc => (xilon_of_clean hi hc : execOr core j s = _)
  case xor => exact fun hc => (xilon_of_clean hi hc : execXor core j s = _)
  case shl => exact fun hc => (xilon_of_clean hi hc : execShl core j s = _)
  case shrU => exact fun hc => (xilon_of_clean hi hc : execShrU core j s = _)
  case shrS => exact fun hc => (xilon_of_clean hi hc : execShrS core j s = _)
  case minS =>
    intro hc
    simp only [a, b, ← minS_eq]
    exact (xilon_of_clean hi hc : execMinS core j s = _)
  case minU =>
    intro hc
    simp only [a, b, ← minU_eq]
    exact (xilon_of_clean hi hc : execMinU core j s = _)
  case maxS =>
    intro hc
    simp only [a, b, ← maxS_eq]
    exact (xilon_of_clean hi hc : execMaxS core j s = _)
  case maxU =>
    intro hc
    simp only [a, b, ← maxU_eq]
    exact (xilon_of_clean hi hc : execMaxU core j s = _)
  case sel => exact fun hc => (xilon_of_clean hi hc : execSel core j s = _)
  case addi => exact fun hc => hn ▸ (xilon_of_clean hi hc : execAddi core j s = _)
  case andi => exact fun hc => hn ▸ (xilon_of_clean hi hc : execAndi core j s = _)
  case ori => exact fun hc => hn ▸ (xilon_of_clean hi hc : execOri core j s = _)
  case xori => exact fun hc => hn ▸ (xilon_of_clean hi hc : execXori core j s = _)
  case shli => exact fun hc => hn ▸ (xilon_of_clean hi hc : execShli core j s = _)
  case shriU => exact fun hc => hn ▸ (xilon_of_clean hi hc : execShriU core j s = _)
  case shriS => exact fun hc => hn ▸ (xilon_of_clean hi hc : execShriS core j s = _)
  case movi => exact fun hc => hn ▸ (xilon_of_clean hi hc : execMovi core j s = _)

/-! ### The floating-point instructions -/

/-- Settles O21: a clean issue acts; the special-function unit is taken for 4 GCLK by the same issue (R118). -/
theorem xilonFloatResults : Obligations.XilonFloatResults := by
  intro s core j i hi a b va vb vc sfu
  refine ⟨?fadd, ?fsub, ?fmul, ?fmin, ?fmax, ?fabs, ?fneg, ?ffma, ?ffmaUb, ?ffmaUc, ?ffmaUbc, ?frcp, ?frsqrt, ?fexp2, ?flog2, ?cvt⟩
  case fadd => exact fun hc => (xilon_of_clean hi hc : execFadd core j s = _)
  case fsub => exact fun hc => (xilon_of_clean hi hc : execFsub core j s = _)
  case fmul => exact fun hc => (xilon_of_clean hi hc : execFmul core j s = _)
  case fmin => exact fun hc => (xilon_of_clean hi hc : execFmin core j s = _)
  case fmax => exact fun hc => (xilon_of_clean hi hc : execFmax core j s = _)
  case fabs => exact fun hc => (xilon_of_clean hi hc : execFabs core j s = _)
  case fneg => exact fun hc => (xilon_of_clean hi hc : execFneg core j s = _)
  case ffma => exact fun hc => (xilon_of_clean hi hc : execFfma core j s = _)
  case ffmaUb => exact fun hc => (xilon_of_clean hi hc : execFfmaUb core j s = _)
  case ffmaUc => exact fun hc => (xilon_of_clean hi hc : execFfmaUc core j s = _)
  case ffmaUbc => exact fun hc => (xilon_of_clean hi hc : execFfmaUbc core j s = _)
  case frcp => exact fun hc => (xilon_of_clean hi hc : execFrcp core j s = _)
  case frsqrt => exact fun hc => (xilon_of_clean hi hc : execFrsqrt core j s = _)
  case fexp2 => exact fun hc => (xilon_of_clean hi hc : execFexp2 core j s = _)
  case flog2 => exact fun hc => (xilon_of_clean hi hc : execFlog2 core j s = _)
  case cvt =>
    intro f hf hc
    have hact : (fun l => (cvtWord i.x.m (va l) (vb l)).getD 0) = f := funext fun l => by rw [hf l]; rfl
    exact hact ▸ (xilon_of_clean hi hc : execCvt core j s = _)

end Sys2Proof.Machine
end

section
/-! PROOF. What an issue that writes D leaves as it was, how a result lands, the control instructions and the faults at issue (R73 to R79,
R107 to R115, R134 to R145). -/

namespace Sys2Proof.Machine

/-! ### An issue that writes D -/

/-- Settles O23: where no parked threads come apart, the issue writes back its core alone, over the result that it puts under way. -/
theorem xilonRegisterFrame : Obligations.XilonRegisterFrame := by
  intro s core j i r f hi hm hr t c
  obtain ⟨hid, -⟩ := issueAt_some hi
  have ht : t = setCore s (coreId core)
      { addResult i.core i r (.vec i.x.d (i.on.map fun l => (l, f l))) with
        docent := i.slot, lastIssue := some i.g, active := put i.core.active i.slot (advance i i.tour) } := by
    rw [← hid]
    exact finish_eq_setCore hm
  have hc : c = { addResult i.core i r (.vec i.x.d (i.on.map fun l => (l, f l))) with
        docent := i.slot, lastIssue := some i.g, active := put i.core.active i.slot (advance i i.tour) } := by
    simp only [c, ht, setCore_self]
  refine ⟨?state, ?core, ?results, ?active, foldl_mapThread_eq _ _ _, ?lanes, ?others, rfl⟩
  case state => rw [hc]; exact ht
  case core => rw [hc]; rfl
  case results => rw [hc, ← Nat.add_sub_assoc hr]; rfl
  case active => rw [hc]
  case lanes => intro l hl hlen; rw [threadOf_advance, if_pos ⟨hl, hlen⟩]
  case others => intro l hl; rw [threadOf_advance, if_neg fun h => hl h.1]

/-! ### Results land -/

theorem getV_writeDest_vec (t : Tour) {d l l' r : Nat} (v : Word) (hr : r < 32) (hd : d < 32) :
    getV (writeDest t (.vec d [(l, v)])) l' r = if l' = l ∧ r = d then v else getV t l' r := by
  simp only [getV, writeDest, List.foldl_cons, List.foldl_nil]
  split_ifs with h
  · obtain ⟨rfl, rfl⟩ := h
    exact look_put_same _ _ _ _
  · exact look_put_ne _ _ _ _ _ (by omega)

theorem getU_writeDest_uni (t : Tour) (d r : Nat) (v : Word) :
    getU (writeDest t (.uni d v)) r = if r = d then v else getU t r := by
  simp only [getU, writeDest]
  split_ifs with h
  · subst h; exact look_put_same _ _ _ _
  · exact look_put_ne _ _ _ _ _ h

theorem getLsbD_putBit {w : Nat} (x : BitVec w) (i k : Nat) (b : Bool) (hi : i < w) :
    (putBit x i b).getLsbD k = if k = i then b else x.getLsbD k := by
  cases b <;> by_cases hk : k < w <;>
    simp only [putBit, setBit, clearBit, Bool.false_eq_true, if_true, if_false, BitVec.getLsbD_or, BitVec.getLsbD_and,
      BitVec.getLsbD_not, BitVec.getLsbD_ofNat, Nat.testBit_two_pow, hk] <;> grind

theorem getP_writeDest_pred (t : Tour) {d l l' d' : Nat} (b : Bool) (hl : (t.threads[l]?).isSome) (hd : d < 7) :
    getP (writeDest t (.pred d [(l, b)])) l' d' = if l' = l ∧ d' = d then b else getP t l' d' := by
  have hlen : l < t.threads.length := by simpa using hl
  simp only [getP, writeDest, List.foldl_cons, List.foldl_nil, threadOf_mapThread]
  by_cases hl' : l' = l
  · subst hl'
    rw [if_pos ⟨rfl, hlen⟩, getLsbD_putBit _ _ _ _ hd]
    by_cases hd' : d' = d
    · subst hd'; simp; omega
    · simp [hd']
  · simp [hl']

/-- Settles O24: with no issue and no load, the results due are the whole of the core's work at the end of the GCLK. -/
theorem xilonResultsLand : Obligations.XilonResultsLand := by
  intro s core j c slot t p hlive hedge hfind hissue hloads hactive htour hresults hat
  refine ⟨writeResult { c with results := [], wroteAt := some (wtime s (wingOfCore (coreId core)) j.val) } p, ?step, rfl, ?active, rfl,
    rfl, ?vec, ?uni, ?pred⟩
  case step =>
    have : exec (.instructionResultWrite core j) s = execInstructionResultWrite core j s := rfl
    simp [this, execInstructionResultWrite, atCore, hfind, live_of hlive, hedge, hissue, hloads, hresults, hat]
  case active => simp [writeResult, hactive, htour]
  case vec => intro d v l r hdest _ hr hd l' _; rw [hdest]; exact getV_writeDest_vec t v hr hd
  case uni => intro d v r hdest; rw [hdest]; exact getU_writeDest_uni t d r v
  case pred => intro d b l hdest hl hd l' d' _; rw [hdest]; exact getP_writeDest_pred t b hl hd

/-! ### Control -/

/-- A branch whose lanes all go to a word of the code moves their PCs (R134). -/
theorem branchTo_eq_settle {s : State} {i : Issue} {target : Nat → Int} {pc : Nat → Nat} (hbad : i.bad = none)
    (ht : ∀ l ∈ i.on, target l = pc l ∧ 4 * pc l < i.core.codeBytes) :
    branchTo target s i = settle s i i.core
      (i.on.foldl (fun t l => mapThread t l fun h => { h with pc := pc l }) (advance i i.tour)) := by
  have inCode : ¬ (i.on.any (fun l => target l < 0 || (i.core.codeBytes : Int) ≤ 4 * target l)) = true := by
    simp only [List.any_eq_true, not_exists, not_and, Bool.or_eq_true, decide_eq_true_eq, not_or]
    intro l hl
    obtain ⟨h1, h2⟩ := ht l hl
    omega
  have moved (t : Tour) : i.on.foldl (fun t l => mapThread t l fun h => { h with pc := (target l).toNat }) t
      = i.on.foldl (fun t l => mapThread t l fun h => { h with pc := pc l }) t :=
    List.foldl_ext _ _ _ fun t l hl => by rw [(ht l hl).1, Int.toNat_natCast]
  simp only [branchTo, inCode, if_false, hbad, Option.isSome_none, Bool.false_eq_true, moved]

/-- A branch with a lane that would leave the code faults (R134). -/
theorem branchTo_eq_fault {s : State} {i : Issue} {target : Nat → Int} {l : Nat} (hl : l ∈ i.on)
    (ht : target l < 0 ∨ (i.core.codeBytes : Int) ≤ 4 * target l) : branchTo target s i = issueFault s i 0x11 :=
  if_pos (List.any_eq_true.mpr ⟨l, hl, by simpa using ht⟩)

/-- The target of brx: a register whose upper bits are set names no word of the code (R134). -/
theorem brx_target_outside {i : Issue} {v : Word} (h : 4096 ≤ v.toNat ∨ i.core.codeBytes ≤ 4 * v.toNat) :
    (if v.toNat < 4096 then (v.toNat : Int) else -1) < 0
      ∨ (i.core.codeBytes : Int) ≤ 4 * (if v.toNat < 4096 then (v.toNat : Int) else -1) := by
  split_ifs <;> omega

theorem queueSwap_eq_self {c : Core} {r : SwapReq} (hr : r.kind ≠ .swapIn)
    (h : c.pendingSet = [] ∨ c.swapQueue.any (·.tour = r.tour) = true) : queueSwap c r = c.swapQueue := by
  unfold queueSwap
  split
  · simp [hr]
  · rw [if_pos (h.resolve_right (by assumption))]

theorem queueSwap_eq_append {c : Core} {r : SwapReq} (hp : c.pendingSet ≠ []) (hq : c.swapQueue.any (·.tour = r.tour) = false) :
    queueSwap c r = c.swapQueue ++ [r] := by
  simp only [queueSwap, hq, Bool.false_eq_true, if_false, if_neg hp]

/-- Settles O25: a clean issue acts, on the readings of a branch's targets and of the queue of swaps. -/
theorem xilonControl : Obligations.XilonControl := by
  intro s core j i hi toPc
  obtain ⟨-, -, hbad, -⟩ := issueAt_some hi
  refine ⟨?br, ?brFault, ?brx, ?brxFault, ?exit, ?trap, ?trapOff, ?sync, ?yieldOnly, ?yieldSwap, ?fence, ?beatRead, ?beatWait⟩
  case br =>
    intro target htarget hin hc
    exact (xilon_of_clean hi hc : execBr core j s = _).trans
      (congrArg _ (branchTo_eq_settle hbad fun _ _ => ⟨htarget, hin⟩))
  case brFault =>
    intro hon hout hc
    obtain ⟨l, hl⟩ := List.exists_mem_of_ne_nil _ hon
    exact (xilon_of_clean hi hc : execBr core j s = _).trans (congrArg _ (branchTo_eq_fault hl hout))
  case brx =>
    intro hin hc
    exact (xilon_of_clean hi hc : execBrx core j s = _).trans
      (congrArg _ (branchTo_eq_settle hbad fun l hl => ⟨if_pos (hin l hl).1, (hin l hl).2⟩))
  case brxFault =>
    rintro ⟨l, hl, hout⟩ hc
    exact (xilon_of_clean hi hc : execBrx core j s = _).trans (congrArg _ (branchTo_eq_fault hl (brx_target_outside hout)))
  case exit => exact fun hc => (xilon_of_clean hi hc : execExit core j s = _)
  case trap => exact fun hon hc => (xilon_of_clean hi hc : execTrap core j s = _).trans (congrArg _ (if_neg hon))
  case trapOff => exact fun hon hc => (xilon_of_clean hi hc : execTrap core j s = _).trans (congrArg _ (if_pos hon))
  case sync => exact fun hc => (xilon_of_clean hi hc : execTourSync core j s = _)
  case yieldOnly =>
    intro h hc
    rw [show exec (.tourYield core j) s = _ from (xilon_of_clean hi hc : execTourYield core j s = _),
      queueSwap_eq_self (fun h => by cases h) h]
  case yieldSwap =>
    intro hp hq hc
    rw [show exec (.tourYield core j) s = _ from (xilon_of_clean hi hc : execTourYield core j s = _), queueSwap_eq_append hp hq]
  case fence => exact fun hc => (xilon_of_clean hi hc : execFence core j s = _)
  case beatRead =>
    intro hc
    have low : s.beat.setWidth 32 = s.beat.extractLsb' 0 32 := by simp [BitVec.setWidth_eq_extractLsb']
    have high : (s.beat >>> 32).setWidth 32 = s.beat.extractLsb' 32 32 := by
      apply BitVec.eq_of_toNat_eq; simp [BitVec.extractLsb'_toNat]
    rw [← low, ← high, show exec (.beatRead core j) s = _ from (xilon_of_clean hi hc : execBeatRead core j s = _)]
    simp [addResult]
  case beatWait => exact fun hc => (xilon_of_clean hi hc : execBeatWait core j s = _)

/-! ### Faults at issue -/

theorem Mild.coreOf {t s : State} (h : Mild t s) (k : Nat) : coreOf t k = Machine.coreOf s k := by simp [Machine.coreOf, h.cores]

theorem Mild.cabOf {t s : State} (h : Mild t s) (k : Nat) : cabOf t k = Machine.cabOf s k := by simp [Machine.cabOf, h.cabinets]

/-- A PC outside the code faults whichever instruction is commanded (R134). -/
theorem xilon_of_outside {s : State} {core : CoreRef} {j : Fin 7} {i : Issue} {op : Nat} {act : State → Issue → State}
    (hi : issueAt s (coreId core) j.val = some i) (hout : i.core.codeBytes ≤ 4 * i.pc) :
    xilon core j op act s = .next (issueFault s i 0x11) := by
  simp [xilon, hi, hout]

/-- A readable word of a reserved opcode faults whichever instruction is commanded (R111). -/
theorem xilon_of_reserved {s : State} {core : CoreRef} {j : Fin 7} {i : Issue} {op : Nat} {act : State → Issue → State}
    (hi : issueAt s (coreId core) j.val = some i) (inCode : 4 * i.pc < i.core.codeBytes)
    (sound : badWord i.core.codeBad i.pc = none) (hop : opListed i.x.op = false) :
    xilon core j op act s = .next (issueFault s i 0x10) := by
  simp [xilon, hi, Nat.not_le.mpr inCode, sound, hop]

/-- The core of an issue that faults: its tour is stopped, and the docent has moved (R143, R145). -/
def Issue.faulted (i : Issue) : Core :=
  { i.core with docent := i.slot, lastIssue := some i.g, active := put i.core.active i.slot { i.tour with stopped := true } }

/-- A fault at issue stops the tour, records the fault in the cabinet, and raises the owner's job fault, which posts nothing else. -/
theorem issueFault_mild {s : State} {i : Issue} (hbad : i.bad = none) (code : Nat) :
    Mild (issueFault s i code) (recordKernelFault (setCore s i.id i.faulted) (cabOfCore i.id) (coreInCab i.id) i.tour.index code i.pc
      (laneMask i.lanes) i.g) := by
  simp only [issueFault, reportBad, hbad, kernelFault]
  exact raiseFaultO_mild _ _ _

/-- The first fault of a cabinet is kept (R105, R145). -/
theorem recordKernelFault_first {s : State} {cab : Nat} (h : (cabOf s cab).faultSet = false) (core tour code pc lanes g : Nat) :
    cabOf (recordKernelFault s cab core tour code pc lanes g) cab =
      { cabOf s cab with faultSet := true, faultAt := g, fault0 := BitVec.ofNat 32 (code + 256 * core + 32768 * tour)
                         fault1 := BitVec.ofNat 32 (4 * pc + 65536 * lanes) } := by
  simp [recordKernelFault, h]

/-- Settles O26: the checks before the commanded opcode's own are made of every command, and a fault writes the core, the cabinet's
fault registers and the owner's job fault alone. -/
theorem xilonIssueFaults : Obligations.XilonIssueFaults := by
  intro s core j i hi
  obtain ⟨hid, -, hbad, -⟩ := issueAt_some hi
  refine ⟨?outside, ?reserved, ?illegal, ?fault⟩
  case outside =>
    intro hout
    exact ⟨(xilon_of_outside hi hout : execAdd core j s = _), (xilon_of_outside hi hout : execLdG core j s = _),
      (xilon_of_outside hi hout : execMxRun core j s = _)⟩
  case reserved =>
    intro inCode sound hop
    exact ⟨(xilon_of_reserved hi inCode sound hop : execAdd core j s = _), (xilon_of_reserved hi inCode sound hop : execBr core j s = _)⟩
  case illegal =>
    intro inCode sound hop illegal
    exact (xilon_of_illegal hi inCode sound hop (by decide) illegal : execAdd core j s = _)
  case fault =>
    intro code t
    have mild : Mild t _ := issueFault_mild hbad code
    rw [hid] at mild
    have hcore : coreOf t (coreId core) = i.faulted := by
      simp only [mild.coreOf, recordKernelFault, setCab_coreOf, setCore_self]
    refine ⟨by rw [hcore]; rfl, by rw [hcore]; rfl, by simp [t], by simp [t], by simp [t], fun hfirst => ?_⟩
    rw [mild.cabOf, recordKernelFault_first (by exact hfirst)]
    exact ⟨rfl, rfl⟩

end Sys2Proof.Machine
end

section
/-! PROOF. Every well-formed command ends in a next state, and in module reset in the present one; every step keeps the memories in
canonical form (R8, R261, R407 to R411, R428). -/

namespace Sys2Proof.Machine

/-! ### Commands that end in a next state, and in module reset do nothing -/

/-- The command ends in a next state, which in module reset is the present one. -/
def Acts (s : State) (r : Result) : Prop := ∃ t, r = .next t ∧ (s.sup.inReset = true → t = s)

@[simp] theorem live_off {s : State} (h : s.sup.inReset = true) : live s = false := by simp [live, h]

@[simp] theorem acts_stay (s : State) : Acts s (.next s) := ⟨s, rfl, fun _ => rfl⟩

theorem acts_next {s t : State} (h : live s = true) : Acts s (.next t) :=
  ⟨t, rfl, fun hr => by simp [live_off hr] at h⟩

/-- An event whose condition asks that the module is out of reset. -/
theorem acts_onlyIf {c : Bool} {s t : State} (h : live s = false → c = false) : Acts s (onlyIf c s t) :=
  ⟨_, rfl, fun hr => by simp [h (live_off hr)]⟩

@[simp] theorem acts_event (s t : State) : Acts s (onlyIf (live s) s t) := acts_onlyIf id

@[simp] theorem acts_event_and (c : Bool) (s t : State) : Acts s (onlyIf (live s && c) s t) := acts_onlyIf fun h => by simp [h]

theorem acts_ite {c : Prop} [Decidable c] {s : State} {x y : Result} (hx : c → Acts s x) (hy : ¬ c → Acts s y) :
    Acts s (if c then x else y) := by
  split
  · exact hx (by assumption)
  · exact hy (by assumption)

theorem acts_option {α : Type} {s : State} {o : Option α} {f : α → Result} (hf : ∀ a, Acts s (f a)) :
    Acts s (match o with | some a => f a | none => .next s) := by
  cases o with
  | none => exact acts_stay s
  | some a => exact hf a

theorem acts_xilon (core : CoreRef) (j : Fin 7) (op : Nat) (act : State → Issue → State) (s : State) : Acts s (xilon core j op act s) := by
  unfold xilon
  cases hi : issueAt s (coreId core) j.val with
  | none => exact acts_stay s
  | some i =>
    have hlive : live s = true := (issueAt_some hi).2.2.2.2
    refine acts_ite (fun _ => acts_next hlive) fun _ => acts_ite (fun _ => acts_next hlive) fun _ => acts_ite (fun _ => acts_next hlive)
      fun _ => acts_ite (fun _ => acts_next hlive) fun _ => acts_ite (fun _ => acts_next hlive) fun _ =>
      acts_ite (fun _ => acts_next hlive) fun _ => acts_ite (fun _ => acts_next hlive) fun _ => ?_
    cases poisonRead i.tour i.x i.lanes with
    | none => exact acts_next hlive
    | some b => exact acts_next hlive

theorem acts_atCore (core : CoreRef) (j : Fin 7) (s : State) (f : Nat → Core → Nat → Option State) : Acts s (atCore core j s f) := by
  unfold atCore
  dsimp only
  split
  · exact acts_ite (fun h => acts_next (by simp_all)) fun _ => acts_stay s
  · exact acts_stay s

theorem acts_withRun (s : State) (p : Nat) (f : RunCtx → Option State) : Acts s (withRun s p f) := by
  unfold withRun
  split
  · split
    · exact acts_onlyIf id
    · exact acts_stay s
  · exact acts_stay s

theorem acts_execWith (s : State) (p : Nat) (f : LiveStep → Option State) : Acts s (execWith s p f) := by
  unfold execWith
  split
  · split
    · exact acts_onlyIf id
    · exact acts_stay s
  · exact acts_stay s

theorem acts_atCtx (eng : Fin 48) (ctx : Fin 9) (j : Fin 5) (s : State) (f : Nat → Nat → EngCtx → Nat → Option State) :
    Acts s (atCtx eng ctx j s f) := by
  unfold atCtx
  split
  · split
    · exact acts_onlyIf id
    · exact acts_stay s
  · exact acts_stay s

theorem live_of_dueCommand {s : State} {op : Nat} {atStart : Bool} {r : Running} (h : dueCommand s op atStart = some r) :
    live s = true := by
  unfold dueCommand at h
  split at h
  · simp only [Option.ite_none_right_eq_some, Bool.and_eq_true] at h
    exact h.1.1.1.1.1.1
  · cases h

theorem acts_applyWith (op : Nat) (atStart : Bool) (s : State) (f : State → Nat → Running → State × SMap Word) :
    Acts s (applyWith op atStart s f) := by
  unfold applyWith
  split
  · rename_i r hdue
    exact acts_next (live_of_dueCommand hdue)
  · exact acts_stay s

theorem acts_windowAt (s : State) (req : Nat) (f : Req → Nat → Nat → Nat → Option Nat → Result) (hf : ∀ r P b t w, Acts s (f r P b t w)) :
    Acts s (windowAt s req f) := by
  unfold windowAt
  split
  · exact acts_stay s
  · split
    · exact hf _ _ _ _ _
    · exact acts_stay s

theorem acts_atSlice (slice : Fin 512) (req : Nat) (j : Fin 5) (ok : ReqKind → Bool) (s : State) (f : Place → Req → State → State) :
    Acts s (atSlice slice req j ok s f) := by
  unfold atSlice
  split
  · exact acts_stay s
  · split
    · dsimp only
      refine acts_ite (fun _ => acts_stay s) fun hlive => ?_
      have hlive : live s = true := by simp at hlive; exact hlive.1.1.1.1
      exact acts_ite (fun _ => acts_next hlive) fun _ => acts_next hlive
    · exact acts_stay s

theorem acts_takeOp (op : Nat) (eng : Fin 48) (ctx : Fin 9) (j : Fin 5) (s : State) : Acts s (takeOp op eng ctx j s) := by
  unfold takeOp
  dsimp only
  split
  · refine acts_ite (fun _ => acts_stay s) fun hlive => ?_
    have hlive : live s = true := by simp at hlive; exact hlive.1.1
    exact acts_ite (fun _ => acts_next hlive) fun _ => acts_onlyIf fun h => by simp [hlive] at h
  · exact acts_stay s

theorem acts_hart (pch : Fin 1024) (j : Fin 4) (op : RvOp) (act : State → HartAt → State) (s : State) : Acts s (hart pch j op act s) := by
  unfold hart
  dsimp only
  refine acts_ite (fun _ => acts_stay s) fun hready => ?_
  have hlive : live s = true := by simp [hartReady] at hready; exact hready.1.1.1.1.1.1
  split
  · exact acts_next hlive
  · split
    · exact acts_next hlive
    · exact acts_onlyIf fun h => by simp [hlive] at h

theorem acts_deliver (ring : Fin 262144) (mine : Nat → Bool) (act : State → Nat → Ring → BitVec 512 → BitVec 16 → State) (s : State) :
    Acts s (deliver ring mine act s) := by
  unfold deliver
  dsimp only
  split
  · exact acts_stay s
  · split
    · exact acts_stay s
    · exact acts_onlyIf fun h => by simp [h]

theorem acts_beatTick {s : State} (h : live s = true → s.beat ≠ BitVec.allOnes 64) : Acts s (execBeatTick s) := by
  unfold execBeatTick
  refine acts_ite (fun hend => ?_) fun _ => acts_event_and _ _ _
  simp only [Bool.and_eq_true, decide_eq_true_eq] at hend
  exact absurd hend.2 (h hend.1)

/-- A list of the length that the command's row gives it is not refused (log entry 6). -/
theorem acts_unless_illFormed {c : Prop} [Decidable c] {s : State} {r : Result} (h : ¬ c) (hr : Acts s r) :
    Acts s (if c then .refused .illFormed else r) := by
  rwa [if_neg h]

theorem acts_domainReset (s : State) : Acts s (execDomainReset s) := by
  unfold execDomainReset
  split
  · exact acts_stay s
  · rename_i r hdue
    exact acts_next (live_of_dueCommand hdue)

/-! ### Commands whose event is looked up first -/

theorem execFetchDataReturn_acts (port : Fin 8) (j : Fin 5) {data : List (BitVec 512)} (s : State) (hdata : data.length ≤ 16) :
    Acts s (execFetchDataReturn port j data s) := by
  simp only [execFetchDataReturn, Nat.not_lt.mpr hdata, if_false]
  split
  · exact acts_stay s
  · exact acts_onlyIf fun h => by simp [h]

theorem execNbWindowAccessAfterWake_acts (req : Nat) (j : Fin 5) (s : State) : Acts s (execNbWindowAccessAfterWake req j s) := by
  refine acts_windowAt _ _ _ fun r P base t wake => ?_
  dsimp only
  split <;> simp [Bool.and_assoc]

theorem execScrubRead_acts (cycle : ScrubCycle) (s : State) : Acts s (execScrubRead cycle s) := by
  simp only [execScrubRead, scrubOn]
  split <;> simp [Bool.and_assoc]

theorem execScrubWriteBack_acts (cycle : ScrubCycle) (s : State) : Acts s (execScrubWriteBack cycle s) := by
  simp only [execScrubWriteBack, scrubOn]
  split <;> simp [Bool.and_assoc]

theorem execDomainWakeComplete_acts (dom : DomainRef) (s : State) : Acts s (execDomainWakeComplete dom s) := by
  simp only [execDomainWakeComplete]
  split <;> simp [Bool.and_assoc]

theorem execAbandonedDescriptorCompletion_acts (eng : Fin 48) (ctx : Fin 9) (s : State) :
    Acts s (execAbandonedDescriptorCompletion eng ctx s) := by
  simp only [execAbandonedDescriptorCompletion]
  split
  · exact acts_event _ _
  · split
    · exact acts_onlyIf fun h => by simp [h]
    · exact acts_stay s

theorem execRecoveryOperationDone_acts (s : State) : Acts s (execRecoveryOperationDone s) := by
  simp only [execRecoveryOperationDone]
  (repeat' split) <;> simp

theorem execDomainResetEnd_acts (kind : DomainKind) (index : Nat) (s : State) : Acts s (execDomainResetEnd kind index s) := by
  simp only [execDomainResetEnd]
  (repeat' split) <;> simp

theorem execAdvanceNoticeReceipt_acts (part : Fin 8) (s : State) : Acts s (execAdvanceNoticeReceipt part s) := by
  simp only [execAdvanceNoticeReceipt]
  (repeat' split) <;> simp

theorem execDelayedLaunchStart_acts (cab : CabRef) (s : State) : Acts s (execDelayedLaunchStart cab s) := by
  simp only [execDelayedLaunchStart]
  (repeat' split) <;> simp [Bool.and_assoc]

theorem execCabinetDoneReport_acts (cab : CabRef) (s : State) : Acts s (execCabinetDoneReport cab s) := by
  simp only [execCabinetDoneReport]
  (repeat' split) <;> simp

theorem execJobFaultDelivery_acts (part : Fin 8) (s : State) : Acts s (execJobFaultDelivery part s) := by
  simp only [execJobFaultDelivery]
  (repeat' split) <;> simp

theorem execRotationSlotTake_acts (req : Nat) (j : Fin 5) (s : State) : Acts s (execRotationSlotTake req j s) := by
  simp only [execRotationSlotTake]
  (repeat' split) <;> simp

theorem execPostedWriteAck_acts (req : Nat) (j : Fin 7) (s : State) : Acts s (execPostedWriteAck req j s) := by
  simp only [execPostedWriteAck]
  (repeat' split) <;> simp [Bool.and_assoc]

theorem execMeshPutDelivery_acts (flit : Nat) (j : Fin 7) (s : State) : Acts s (execMeshPutDelivery flit j s) := by
  simp only [execMeshPutDelivery]
  (repeat' split) <;> simp [Bool.and_assoc]

theorem execGatewayRequest_acts (cab : CabRef) (j : Fin 7) (s : State) : Acts s (execGatewayRequest cab j s) := by
  simp only [execGatewayRequest]
  (repeat' split) <;> simp [Bool.and_assoc]

theorem execSliceFillComplete_acts (slice : Fin 512) (j : Fin 5) (s : State) : Acts s (execSliceFillComplete slice j s) := by
  simp only [execSliceFillComplete]
  (repeat' split) <;> simp

theorem execWriteBackAck_acts (slice : Fin 512) (j : Fin 5) (s : State) : Acts s (execWriteBackAck slice j s) := by
  simp only [execWriteBackAck]
  (repeat' split) <;> simp

theorem execControllerRequestArrival_acts (pch : Fin 1024) (j : Fin 5) (s : State) : Acts s (execControllerRequestArrival pch j s) := by
  simp only [execControllerRequestArrival]
  (repeat' split) <;> simp

theorem execDramWindow_acts (pch : Fin 1024) (j : Fin 5) (s : State) : Acts s (execDramWindow pch j s) := by
  simp only [execDramWindow]
  (repeat' split) <;> simp

theorem execDramDataReturn_acts (pch : Fin 1024) (j : Fin 5) (s : State) : Acts s (execDramDataReturn pch j s) := by
  simp only [execDramDataReturn]
  (repeat' split) <;> simp

theorem execRefreshMultiplierChange_acts (vault : Fin 16) (s : State) : Acts s (execRefreshMultiplierChange vault s) := by
  simp only [execRefreshMultiplierChange]
  (repeat' split) <;> simp

theorem execNearBankModeSwitch_acts (pch : Fin 1024) (s : State) : Acts s (execNearBankModeSwitch pch s) := by
  simp only [execNearBankModeSwitch]
  (repeat' split) <;> simp

theorem execBurstLine_acts (pch : Fin 1024) (j : Fin 4) (s : State) : Acts s (execBurstLine pch j s) := by
  simp only [execBurstLine]
  (repeat' split) <;> simp

theorem execBurstComplete_acts (pch : Fin 1024) (j : Fin 4) (s : State) : Acts s (execBurstComplete pch j s) := by
  simp only [execBurstComplete]
  (repeat' split) <;> simp

theorem execPaceLevelChange_acts (vault : Fin 16) (s : State) : Acts s (execPaceLevelChange vault s) := by
  simp only [execPaceLevelChange]
  (repeat' split) <;> simp

theorem execEngineWriteAck_acts (eng : Fin 48) (ctx : Fin 9) (j : Fin 5) (hostError : Bool) (s : State) : Acts s (execEngineWriteAck eng ctx j hostError s) := by
  simp only [execEngineWriteAck]
  (repeat' split) <;> simp

theorem execEngineDescriptorTimeout_acts (eng : Fin 48) (ctx : Fin 9) (s : State) : Acts s (execEngineDescriptorTimeout eng ctx s) := by
  simp only [execEngineDescriptorTimeout]
  (repeat' split) <;> simp [Bool.and_assoc]

theorem execHeldDescriptorRelease_acts (eng : Fin 48) (s : State) : Acts s (execHeldDescriptorRelease eng s) := by
  simp only [execHeldDescriptorRelease]
  (repeat' split) <;> simp

theorem execBar2Read_acts (port : Fin 8) (offset : BitVec 36) (lanes : BitVec 64) (tag : BitVec 10) (s : State) : Acts s (execBar2Read port offset lanes tag s) := by
  simp only [execBar2Read]
  (repeat' split) <;> simp

theorem execBar2Write_acts (port : Fin 8) (offset : BitVec 36) (lanes : BitVec 64) (data : BitVec 512) (s : State) : Acts s (execBar2Write port offset lanes data s) := by
  simp only [execBar2Write]
  (repeat' split) <;> simp

theorem execBar2ReadCompletion_acts (req : Nat) (s : State) : Acts s (execBar2ReadCompletion req s) := by
  simp only [execBar2ReadCompletion]
  (repeat' split) <;> simp [Bool.and_assoc]

theorem execFetchReadIssue_acts (port : Fin 8) (j : Fin 5) (s : State) : Acts s (execFetchReadIssue port j s) := by
  simp only [execFetchReadIssue]
  (repeat' split) <;> simp [Bool.and_assoc]

theorem execFetchTimeout_acts (port : Fin 8) (s : State) : Acts s (execFetchTimeout port s) := by
  simp only [execFetchTimeout]
  (repeat' split) <;> simp

theorem execAcceptanceCompletionPost_acts (ring : Fin 262144) (s : State) : Acts s (execAcceptanceCompletionPost ring s) := by
  simp only [execAcceptanceCompletionPost]
  (repeat' split) <;> simp

theorem execHeldEntryWrite_acts (ring : Fin 262144) (s : State) : Acts s (execHeldEntryWrite ring s) := by
  simp only [execHeldEntryWrite]
  (repeat' split) <;> simp

theorem execCommandEnd_acts (s : State) : Acts s (execCommandEnd s) := by
  simp only [execCommandEnd]
  (repeat' split) <;> simp [Bool.and_assoc]

theorem execMailboxCommandTimeout_acts (s : State) : Acts s (execMailboxCommandTimeout s) := by
  simp only [execMailboxCommandTimeout]
  (repeat' split) <;> simp

theorem execRawOperationDone_acts (s : State) : Acts s (execRawOperationDone s) := by
  simp only [execRawOperationDone]
  (repeat' split) <;> simp

theorem execCycleCountFlashWrite_acts (stack : Fin 8) (s : State) : Acts s (execCycleCountFlashWrite stack s) := by
  simp only [execCycleCountFlashWrite]
  (repeat' split) <;> simp

theorem execRailFault_acts (rail : Fin 210) (s : State) : Acts s (execRailFault rail s) := by
  simp only [execRailFault]
  (repeat' split) <;> simp

theorem execCollectorReport_acts (stack : Fin 8) (soft : Option Report) (s : State) : Acts s (execCollectorReport stack soft s) := by
  simp only [execCollectorReport]
  (repeat' split) <;> simp

theorem execLogEntryWrite_acts (stack : Fin 8) (s : State) : Acts s (execLogEntryWrite stack s) := by
  simp only [execLogEntryWrite]
  (repeat' split) <;> simp

/-! ### The obligations -/

/-- Every well-formed command but those of the power input, the reset pins and the JTAG port acts at most where the module is out of
reset, and is neither refused nor a fault, but for a tick after the counter's last value. -/
theorem exec_acts (s : State) (c : Instr) (hwf : c.wf = true) (hbeat : live s = true → c = .beatTick → s.beat ≠ BitVec.allOnes 64)
    (hout : c.outsideReset = false) : Acts s (exec c s) := by
  cases c with
  | moduleResetAssert => cases hout
  | moduleResetDeassert => cases hout
  | inputOutOfRange => cases hout
  | inputBackInRange => cases hout
  | clockMonitorTrip => cases hout
  | tripLatchClear => cases hout
  | perstRelease => cases hout
  | pcieFunctionLevelReset port => exact (acts_onlyIf fun h => by simp [h] : Acts s (execPcieFunctionLevelReset port s))
  | pcieHotReset port => exact (acts_onlyIf fun h => by simp [h] : Acts s (execPcieHotReset port s))
  | pcieLinkDown port => exact (acts_onlyIf fun h => by simp [h] : Acts s (execPcieLinkDown port s))
  | beatTick => exact (acts_beatTick fun h => hbeat h rfl : Acts s (execBeatTick s))
  | stageRails => exact (acts_onlyIf fun h => by simp [stageIs, h] : Acts s (execStageRails s))
  | stageTrain report => exact (acts_onlyIf fun h => by simp [stageIs, h] : Acts s (execStageTrain report s))
  | stageTest fails => exact (acts_onlyIf fun h => by simp [stageIs, h] : Acts s (execStageTest fails s))
  | stageRepair => exact (acts_onlyIf fun h => by simp [stageIs, h] : Acts s (execStageRepair s))
  | stageFill => exact (acts_onlyIf fun h => by simp [stageIs, h] : Acts s (execStageFill s))
  | stageCsv => exact (acts_onlyIf fun h => by simp [stageIs, h] : Acts s (execStageCsv s))
  | stageDone => exact (acts_onlyIf fun h => by simp [stageIs, h] : Acts s (execStageDone s))
  | recoveryErase => exact (acts_onlyIf fun h => by simp [h] : Acts s (execRecoveryErase s))
  | recoveryDataWrite data => exact (acts_onlyIf fun h => by simp [h] : Acts s (execRecoveryDataWrite data s))
  | recoveryCommit => exact (acts_onlyIf fun h => by simp [h] : Acts s (execRecoveryCommit s))
  | recoveryOperationDone => exact (execRecoveryOperationDone_acts s : Acts s (execRecoveryOperationDone s))
  | hostPortReset port cause => exact (acts_onlyIf fun h => by simp [h] : Acts s (execHostPortReset port cause s))
  | stackReset stack cause => exact (acts_onlyIf fun h => by simp [h] : Acts s (execStackReset stack cause s))
  | vaultReset vault cause => exact (acts_onlyIf fun h => by simp [h] : Acts s (execVaultReset vault cause s))
  | curatorReset cause => exact (acts_onlyIf fun h => by simp [h] : Acts s (execCuratorReset cause s))
  | domainResetEnd kind index => exact (execDomainResetEnd_acts _ _ s : Acts s (execDomainResetEnd kind index s))
  | deaccessionRailShutdown => exact (acts_onlyIf fun h => by simp [h] : Acts s (execDeaccessionRailShutdown s))
  | evaluateStep part => exact (acts_withRun _ _ _ : Acts s (execEvaluateStep part s))
  | gateMet part => exact (acts_withRun _ _ _ : Acts s (execGateMet part s))
  | budgetRetry part => exact (acts_withRun _ _ _ : Acts s (execBudgetRetry part s))
  | commitArrival part => exact (acts_withRun _ _ _ : Acts s (execCommitArrival part s))
  | advanceNoticeReceipt part => exact (execAdvanceNoticeReceipt_acts _ s : Acts s (execAdvanceNoticeReceipt part s))
  | domainWakeStart part dom => exact (acts_withRun _ _ _ : Acts s (execDomainWakeStart part dom s))
  | domainWakeComplete dom => exact (execDomainWakeComplete_acts _ s : Acts s (execDomainWakeComplete dom s))
  | stepStart part => exact (acts_withRun _ _ _ : Acts s (execStepStart part s))
  | slotPlanEntryStart part entry => exact (acts_execWith _ _ _ : Acts s (execSlotPlanEntryStart part entry s))
  | stackSequencerRecordRead part isEngine entry => exact (acts_withRun _ _ _ : Acts s (execStackSequencerRecordRead part isEngine entry s))
  | kernelLaunch part cab => exact (acts_execWith _ _ _ : Acts s (execKernelLaunch part cab s))
  | delayedLaunchStart cab => exact (execDelayedLaunchStart_acts _ s : Acts s (execDelayedLaunchStart cab s))
  | cabinetDoneReport cab => exact (execCabinetDoneReport_acts _ s : Acts s (execCabinetDoneReport cab s))
  | stepPlannedEnd part => exact (acts_execWith _ _ _ : Acts s (execStepPlannedEnd part s))
  | stepEnd part => exact (acts_withRun _ _ _ : Acts s (execStepEnd part s))
  | stepTimeout part => exact (acts_execWith _ _ _ : Acts s (execStepTimeout part s))
  | kernelTimeout cab => exact (acts_onlyIf fun h => by simp [h] : Acts s (execKernelTimeout cab s))
  | stepDelayed part => exact (acts_withRun _ _ _ : Acts s (execStepDelayed part s))
  | jobFaultDelivery part => exact (execJobFaultDelivery_acts _ s : Acts s (execJobFaultDelivery part s))
  | abandonedDescriptorCompletion eng ctx => exact (execAbandonedDescriptorCompletion_acts _ _ s : Acts s (execAbandonedDescriptorCompletion eng ctx s))
  | rotationSlotTake req j => exact (execRotationSlotTake_acts _ _ s : Acts s (execRotationSlotTake req j s))
  | xilonNop core j => exact (acts_xilon _ _ _ _ _ : Acts s (execXilonNop core j s))
  | add core j => exact (acts_xilon _ _ _ _ _ : Acts s (execAdd core j s))
  | sub core j => exact (acts_xilon _ _ _ _ _ : Acts s (execSub core j s))
  | mul core j => exact (acts_xilon _ _ _ _ _ : Acts s (execMul core j s))
  | mulhiS core j => exact (acts_xilon _ _ _ _ _ : Acts s (execMulhiS core j s))
  | mulhiU core j => exact (acts_xilon _ _ _ _ _ : Acts s (execMulhiU core j s))
  | and core j => exact (acts_xilon _ _ _ _ _ : Acts s (execAnd core j s))
  | or core j => exact (acts_xilon _ _ _ _ _ : Acts s (execOr core j s))
  | xor core j => exact (acts_xilon _ _ _ _ _ : Acts s (execXor core j s))
  | shl core j => exact (acts_xilon _ _ _ _ _ : Acts s (execShl core j s))
  | shrU core j => exact (acts_xilon _ _ _ _ _ : Acts s (execShrU core j s))
  | shrS core j => exact (acts_xilon _ _ _ _ _ : Acts s (execShrS core j s))
  | minS core j => exact (acts_xilon _ _ _ _ _ : Acts s (execMinS core j s))
  | minU core j => exact (acts_xilon _ _ _ _ _ : Acts s (execMinU core j s))
  | maxS core j => exact (acts_xilon _ _ _ _ _ : Acts s (execMaxS core j s))
  | maxU core j => exact (acts_xilon _ _ _ _ _ : Acts s (execMaxU core j s))
  | sel core j => exact (acts_xilon _ _ _ _ _ : Acts s (execSel core j s))
  | addi core j => exact (acts_xilon _ _ _ _ _ : Acts s (execAddi core j s))
  | andi core j => exact (acts_xilon _ _ _ _ _ : Acts s (execAndi core j s))
  | ori core j => exact (acts_xilon _ _ _ _ _ : Acts s (execOri core j s))
  | xori core j => exact (acts_xilon _ _ _ _ _ : Acts s (execXori core j s))
  | shli core j => exact (acts_xilon _ _ _ _ _ : Acts s (execShli core j s))
  | shriU core j => exact (acts_xilon _ _ _ _ _ : Acts s (execShriU core j s))
  | shriS core j => exact (acts_xilon _ _ _ _ _ : Acts s (execShriS core j s))
  | movi core j => exact (acts_xilon _ _ _ _ _ : Acts s (execMovi core j s))
  | fadd core j => exact (acts_xilon _ _ _ _ _ : Acts s (execFadd core j s))
  | fsub core j => exact (acts_xilon _ _ _ _ _ : Acts s (execFsub core j s))
  | fmul core j => exact (acts_xilon _ _ _ _ _ : Acts s (execFmul core j s))
  | fmin core j => exact (acts_xilon _ _ _ _ _ : Acts s (execFmin core j s))
  | fmax core j => exact (acts_xilon _ _ _ _ _ : Acts s (execFmax core j s))
  | fabs core j => exact (acts_xilon _ _ _ _ _ : Acts s (execFabs core j s))
  | fneg core j => exact (acts_xilon _ _ _ _ _ : Acts s (execFneg core j s))
  | ffma core j => exact (acts_xilon _ _ _ _ _ : Acts s (execFfma core j s))
  | ffmaUb core j => exact (acts_xilon _ _ _ _ _ : Acts s (execFfmaUb core j s))
  | ffmaUc core j => exact (acts_xilon _ _ _ _ _ : Acts s (execFfmaUc core j s))
  | ffmaUbc core j => exact (acts_xilon _ _ _ _ _ : Acts s (execFfmaUbc core j s))
  | frcp core j => exact (acts_xilon _ _ _ _ _ : Acts s (execFrcp core j s))
  | frsqrt core j => exact (acts_xilon _ _ _ _ _ : Acts s (execFrsqrt core j s))
  | fexp2 core j => exact (acts_xilon _ _ _ _ _ : Acts s (execFexp2 core j s))
  | flog2 core j => exact (acts_xilon _ _ _ _ _ : Acts s (execFlog2 core j s))
  | setpS core j => exact (acts_xilon _ _ _ _ _ : Acts s (execSetpS core j s))
  | setpU core j => exact (acts_xilon _ _ _ _ _ : Acts s (execSetpU core j s))
  | setpF core j => exact (acts_xilon _ _ _ _ _ : Acts s (execSetpF core j s))
  | plog core j => exact (acts_xilon _ _ _ _ _ : Acts s (execPlog core j s))
  | cvt core j => exact (acts_xilon _ _ _ _ _ : Acts s (execCvt core j s))
  | uadd core j => exact (acts_xilon _ _ _ _ _ : Acts s (execUadd core j s))
  | usub core j => exact (acts_xilon _ _ _ _ _ : Acts s (execUsub core j s))
  | umul core j => exact (acts_xilon _ _ _ _ _ : Acts s (execUmul core j s))
  | uand core j => exact (acts_xilon _ _ _ _ _ : Acts s (execUand core j s))
  | uor core j => exact (acts_xilon _ _ _ _ _ : Acts s (execUor core j s))
  | uxor core j => exact (acts_xilon _ _ _ _ _ : Acts s (execUxor core j s))
  | ushl core j => exact (acts_xilon _ _ _ _ _ : Acts s (execUshl core j s))
  | ushr core j => exact (acts_xilon _ _ _ _ _ : Acts s (execUshr core j s))
  | uaddi core j => exact (acts_xilon _ _ _ _ _ : Acts s (execUaddi core j s))
  | umovi core j => exact (acts_xilon _ _ _ _ _ : Acts s (execUmovi core j s))
  | uGet core j => exact (acts_xilon _ _ _ _ _ : Acts s (execUGet core j s))
  | vote core j => exact (acts_xilon _ _ _ _ _ : Acts s (execVote core j s))
  | shfl core j => exact (acts_xilon _ _ _ _ _ : Acts s (execShfl core j s))
  | ldL core j => exact (acts_xilon _ _ _ _ _ : Acts s (execLdL core j s))
  | stL core j => exact (acts_xilon _ _ _ _ _ : Acts s (execStL core j s))
  | ldS core j => exact (acts_xilon _ _ _ _ _ : Acts s (execLdS core j s))
  | stS core j => exact (acts_xilon _ _ _ _ _ : Acts s (execStS core j s))
  | ldG core j => exact (acts_xilon _ _ _ _ _ : Acts s (execLdG core j s))
  | stG core j => exact (acts_xilon _ _ _ _ _ : Acts s (execStG core j s))
  | atomL core j => exact (acts_xilon _ _ _ _ _ : Acts s (execAtomL core j s))
  | atomS core j => exact (acts_xilon _ _ _ _ _ : Acts s (execAtomS core j s))
  | atomG core j => exact (acts_xilon _ _ _ _ _ : Acts s (execAtomG core j s))
  | redG core j => exact (acts_xilon _ _ _ _ _ : Acts s (execRedG core j s))
  | meshPut core j => exact (acts_xilon _ _ _ _ _ : Acts s (execMeshPut core j s))
  | br core j => exact (acts_xilon _ _ _ _ _ : Acts s (execBr core j s))
  | brx core j => exact (acts_xilon _ _ _ _ _ : Acts s (execBrx core j s))
  | exit core j => exact (acts_xilon _ _ _ _ _ : Acts s (execExit core j s))
  | trap core j => exact (acts_xilon _ _ _ _ _ : Acts s (execTrap core j s))
  | tourSync core j => exact (acts_xilon _ _ _ _ _ : Acts s (execTourSync core j s))
  | tourYield core j => exact (acts_xilon _ _ _ _ _ : Acts s (execTourYield core j s))
  | fence core j => exact (acts_xilon _ _ _ _ _ : Acts s (execFence core j s))
  | beatRead core j => exact (acts_xilon _ _ _ _ _ : Acts s (execBeatRead core j s))
  | beatWait core j => exact (acts_xilon _ _ _ _ _ : Acts s (execBeatWait core j s))
  | mxTile core j => exact (acts_xilon _ _ _ _ _ : Acts s (execMxTile core j s))
  | mxRun core j => exact (acts_xilon _ _ _ _ _ : Acts s (execMxRun core j s))
  | mxAccClear core j => exact (acts_xilon _ _ _ _ _ : Acts s (execMxAccClear core j s))
  | mxAccStore core j => exact (acts_xilon _ _ _ _ _ : Acts s (execMxAccStore core j s))
  | mxAccLoad core j => exact (acts_xilon _ _ _ _ _ : Acts s (execMxAccLoad core j s))
  | mxEnc core j => exact (acts_xilon _ _ _ _ _ : Acts s (execMxEnc core j s))
  | mxDec core j => exact (acts_xilon _ _ _ _ _ : Acts s (execMxDec core j s))
  | instructionResultWrite core j => exact (acts_atCore _ _ _ _ : Acts s (execInstructionResultWrite core j s))
  | tourSwapStart core j crcRead crcWrite => exact (acts_atCore _ _ _ _ : Acts s (execTourSwapStart core j crcRead crcWrite s))
  | tourSwapComplete core j => exact (acts_atCore _ _ _ _ : Acts s (execTourSwapComplete core j s))
  | channelTransferStart core j write crcBad => exact (acts_atCore _ _ _ _ : Acts s (execChannelTransferStart core j write crcBad s))
  | mergeBufferTimeout core j => exact (acts_atCore _ _ _ _ : Acts s (execMergeBufferTimeout core j s))
  | shelfRmwRead core j crcBad => exact (acts_atCore _ _ _ _ : Acts s (execShelfRmwRead core j crcBad s))
  | shelfRmwWrite core j crcBad => exact (acts_atCore _ _ _ _ : Acts s (execShelfRmwWrite core j crcBad s))
  | egressTake core j => exact (acts_atCore _ _ _ _ : Acts s (execEgressTake core j s))
  | globalLoadReturn core j => exact (acts_atCore _ _ _ _ : Acts s (execGlobalLoadReturn core j s))
  | postedWriteAck req j => exact (execPostedWriteAck_acts _ _ s : Acts s (execPostedWriteAck req j s))
  | meshPutDelivery flit j => exact (execMeshPutDelivery_acts _ _ s : Acts s (execMeshPutDelivery flit j s))
  | shadowArmed core j => exact (acts_atCore _ _ _ _ : Acts s (execShadowArmed core j s))
  | arrayRunEntry core j => exact (acts_atCore _ _ _ _ : Acts s (execArrayRunEntry core j s))
  | arrayTileWrite core j => exact (acts_atCore _ _ _ _ : Acts s (execArrayTileWrite core j s))
  | accLoadComplete core j => exact (acts_atCore _ _ _ _ : Acts s (execAccLoadComplete core j s))
  | gatewayRequest cab j => exact (execGatewayRequest_acts _ _ s : Acts s (execGatewayRequest cab j s))
  | idleCheckPass site failGa failUl => exact (acts_onlyIf fun h => by simp [h] : Acts s (execIdleCheckPass site failGa failUl s))
  | idleCheckLate site => exact (acts_onlyIf fun h => by simp [h] : Acts s (execIdleCheckLate site s))
  | sliceLoad slice req j => exact (acts_atSlice _ _ _ _ _ _ : Acts s (execSliceLoad slice req j s))
  | sliceStore slice req j => exact (acts_atSlice _ _ _ _ _ _ : Acts s (execSliceStore slice req j s))
  | sliceAtomic slice req j => exact (acts_atSlice _ _ _ _ _ _ : Acts s (execSliceAtomic slice req j s))
  | sliceReduction slice req j => exact (acts_atSlice _ _ _ _ _ _ : Acts s (execSliceReduction slice req j s))
  | sliceFillComplete slice j => exact (execSliceFillComplete_acts _ _ s : Acts s (execSliceFillComplete slice j s))
  | writeBackAck slice j => exact (execWriteBackAck_acts _ _ s : Acts s (execWriteBackAck slice j s))
  | rangePrefetch slice req j => exact (acts_atSlice _ _ _ _ _ _ : Acts s (execRangePrefetch slice req j s))
  | rangeFlush slice req j => exact (acts_atSlice _ _ _ _ _ _ : Acts s (execRangeFlush slice req j s))
  | rangeInvalidate slice req j => exact (acts_atSlice _ _ _ _ _ _ : Acts s (execRangeInvalidate slice req j s))
  | rangeDead slice req j => exact (acts_atSlice _ _ _ _ _ _ : Acts s (execRangeDead slice req j s))
  | controllerRequestArrival pch j => exact (execControllerRequestArrival_acts _ _ s : Acts s (execControllerRequestArrival pch j s))
  | dramWindow pch j => exact (execDramWindow_acts _ _ s : Acts s (execDramWindow pch j s))
  | dramDataReturn pch j => exact (execDramDataReturn_acts _ _ s : Acts s (execDramDataReturn pch j s))
  | refreshWindowStart pch => exact (acts_onlyIf fun h => by simp [h] : Acts s (execRefreshWindowStart pch s))
  | refreshWindowEnd pch => exact (acts_onlyIf fun h => by simp [h] : Acts s (execRefreshWindowEnd pch s))
  | refreshMultiplierChange vault => exact (execRefreshMultiplierChange_acts _ s : Acts s (execRefreshMultiplierChange vault s))
  | nearBankModeSwitch pch => exact (execNearBankModeSwitch_acts _ s : Acts s (execNearBankModeSwitch pch s))
  | nbWindowRead req j => exact (acts_windowAt _ _ _ fun _ _ _ _ _ => by simp [Bool.and_assoc] : Acts s (execNbWindowRead req j s))
  | nbWindowWrite req j => exact (acts_windowAt _ _ _ fun _ _ _ _ _ => by simp [Bool.and_assoc] : Acts s (execNbWindowWrite req j s))
  | nbWindowAccessAfterWake req j => exact (execNbWindowAccessAfterWake_acts _ _ s : Acts s (execNbWindowAccessAfterWake req j s))
  | csvStart pch => exact (acts_onlyIf fun h => by simp [csvReached, h] : Acts s (execCsvStart pch s))
  | csvHalt pch => exact (acts_onlyIf fun h => by simp [csvReached, h] : Acts s (execCsvHalt pch s))
  | csvDoorbell pch count => exact (acts_onlyIf fun h => by simp [csvReached, h] : Acts s (execCsvDoorbell pch count s))
  | conservatorSwitchOff pch => exact (acts_onlyIf fun h => by simp [h] : Acts s (execConservatorSwitchOff pch s))
  | rvIntegerAlu pch j => exact (acts_hart _ _ _ _ _ : Acts s (execRvIntegerAlu pch j s))
  | rvBranchJump pch j => exact (acts_hart _ _ _ _ _ : Acts s (execRvBranchJump pch j s))
  | rvLoad pch j => exact (acts_hart _ _ _ _ _ : Acts s (execRvLoad pch j s))
  | rvStore pch j => exact (acts_hart _ _ _ _ _ : Acts s (execRvStore pch j s))
  | rvMul pch j => exact (acts_hart _ _ _ _ _ : Acts s (execRvMul pch j s))
  | rvDiv pch j => exact (acts_hart _ _ _ _ _ : Acts s (execRvDiv pch j s))
  | rvFence pch j => exact (acts_hart _ _ _ _ _ : Acts s (execRvFence pch j s))
  | ecall pch j => exact (acts_hart _ _ _ _ _ : Acts s (execEcall pch j s))
  | ebreak pch j => exact (acts_hart _ _ _ _ _ : Acts s (execEbreak pch j s))
  | nbRd pch j => exact (acts_hart _ _ _ _ _ : Acts s (execNbRd pch j s))
  | nbWr pch j => exact (acts_hart _ _ _ _ _ : Acts s (execNbWr pch j s))
  | nbWait pch j => exact (acts_hart _ _ _ _ _ : Acts s (execNbWait pch j s))
  | nbBeat pch j => exact (acts_hart _ _ _ _ _ : Acts s (execNbBeat pch j s))
  | nbUntil pch j => exact (acts_hart _ _ _ _ _ : Acts s (execNbUntil pch j s))
  | nbAcfg pch j => exact (acts_hart _ _ _ _ _ : Acts s (execNbAcfg pch j s))
  | nbQld pch j => exact (acts_hart _ _ _ _ _ : Acts s (execNbQld pch j s))
  | nbAttn pch j => exact (acts_hart _ _ _ _ _ : Acts s (execNbAttn pch j s))
  | nbScore pch j => exact (acts_hart _ _ _ _ _ : Acts s (execNbScore pch j s))
  | nbOst pch j => exact (acts_hart _ _ _ _ _ : Acts s (execNbOst pch j s))
  | nbCmd pch j => exact (acts_hart _ _ _ _ _ : Acts s (execNbCmd pch j s))
  | nbDone pch j => exact (acts_hart _ _ _ _ _ : Acts s (execNbDone pch j s))
  | nbFlt pch j => exact (acts_hart _ _ _ _ _ : Acts s (execNbFlt pch j s))
  | burstLine pch j => exact (execBurstLine_acts _ _ s : Acts s (execBurstLine pch j s))
  | burstComplete pch j => exact (execBurstComplete_acts _ _ s : Acts s (execBurstComplete pch j s))
  | attentionStateFinal pch j => exact (acts_onlyIf fun h => by simp [h] : Acts s (execAttentionStateFinal pch j s))
  | paceLevelChange vault => exact (execPaceLevelChange_acts _ s : Acts s (execPaceLevelChange vault s))
  | copy eng ctx j => exact (acts_takeOp _ _ _ _ _ : Acts s (execCopy eng ctx j s))
  | fill eng ctx j => exact (acts_takeOp _ _ _ _ _ : Acts s (execFill eng ctx j s))
  | range eng ctx j => exact (acts_takeOp _ _ _ _ _ : Acts s (execRange eng ctx j s))
  | window eng ctx j => exact (acts_takeOp _ _ _ _ _ : Acts s (execWindow eng ctx j s))
  | transpose eng ctx j => exact (acts_takeOp _ _ _ _ _ : Acts s (execTranspose eng ctx j s))
  | frame eng ctx j => exact (acts_takeOp _ _ _ _ _ : Acts s (execFrame eng ctx j s))
  | topk eng ctx j => exact (acts_takeOp _ _ _ _ _ : Acts s (execTopk eng ctx j s))
  | engineReadIssue eng ctx j => exact (acts_atCtx _ _ _ _ _ : Acts s (execEngineReadIssue eng ctx j s))
  | engineReadReturn eng ctx j host => exact (acts_atCtx _ _ _ _ _ : Acts s (execEngineReadReturn eng ctx j host s))
  | flitEntry eng ctx j => exact (acts_atCtx _ _ _ _ _ : Acts s (execFlitEntry eng ctx j s))
  | engineWriteIssue eng ctx j => exact (acts_atCtx _ _ _ _ _ : Acts s (execEngineWriteIssue eng ctx j s))
  | engineWriteAck eng ctx j hostError => exact (execEngineWriteAck_acts _ _ _ _ s : Acts s (execEngineWriteAck eng ctx j hostError s))
  | descriptorDone eng ctx j => exact (acts_atCtx _ _ _ _ _ : Acts s (execDescriptorDone eng ctx j s))
  | engineDescriptorTimeout eng ctx => exact (execEngineDescriptorTimeout_acts _ _ s : Acts s (execEngineDescriptorTimeout eng ctx s))
  | heldDescriptorRelease eng => exact (execHeldDescriptorRelease_acts _ s : Acts s (execHeldDescriptorRelease eng s))
  | engineStatusWrite eng value => exact (acts_onlyIf fun h => by simp [regsOpen, h] : Acts s (execEngineStatusWrite eng value s))
  | configRequest port write offset value => exact (acts_onlyIf fun h => by simp [h] : Acts s (execConfigRequest port write offset value s))
  | bar2Read port offset lanes tag => exact (execBar2Read_acts _ _ _ _ s : Acts s (execBar2Read port offset lanes tag s))
  | bar2Write port offset lanes data => exact (execBar2Write_acts _ _ _ _ s : Acts s (execBar2Write port offset lanes data s))
  | bar2ReadCompletion req => exact (execBar2ReadCompletion_acts _ s : Acts s (execBar2ReadCompletion req s))
  | hpBar2BaseWrite who port high value => exact (acts_onlyIf fun h => by simp [h] : Acts s (execHpBar2BaseWrite who port high value s))
  | sqDoorbell port ring be value => exact (acts_onlyIf fun h => by simp [h] : Acts s (execSqDoorbell port ring be value s))
  | cqDoorbell port ring be value => exact (acts_onlyIf fun h => by simp [h] : Acts s (execCqDoorbell port ring be value s))
  | ringArm port ring be value => exact (acts_onlyIf fun h => by simp [h] : Acts s (execRingArm port ring be value s))
  | fetchReadIssue port j => exact (execFetchReadIssue_acts _ _ s : Acts s (execFetchReadIssue port j s))
  | fetchDataReturn port j data => exact (execFetchDataReturn_acts port j s (by simpa [Instr.wf] using hwf) : Acts s (execFetchDataReturn port j data s))
  | fetchTimeout port => exact (execFetchTimeout_acts _ s : Acts s (execFetchTimeout port s))
  | submissionNop ring => exact (acts_deliver _ _ _ _ : Acts s (execSubmissionNop ring s))
  | run ring => exact (acts_deliver _ _ _ _ : Acts s (execRun ring s))
  | gate ring => exact (acts_deliver _ _ _ _ : Acts s (execGate ring s))
  | stop ring => exact (acts_deliver _ _ _ _ : Acts s (execStop ring s))
  | engine ring => exact (acts_deliver _ _ _ _ : Acts s (execEngine ring s))
  | acceptanceCompletionPost ring => exact (execAcceptanceCompletionPost_acts _ s : Acts s (execAcceptanceCompletionPost ring s))
  | heldEntryWrite ring => exact (execHeldEntryWrite_acts _ s : Acts s (execHeldEntryWrite ring s))
  | rgsJobHeldClear part => exact (acts_onlyIf fun h => by simp [regsOpen, h] : Acts s (execRgsJobHeldClear part s))
  | mailboxGo chan => exact (acts_onlyIf fun h => by simp [h] : Acts s (execMailboxGo chan s))
  | commandArrival chan => exact (acts_onlyIf fun h => by simp [h] : Acts s (execCommandArrival chan s))
  | commandEnd => exact (execCommandEnd_acts s : Acts s (execCommandEnd s))
  | mailboxCommandTimeout => exact (execMailboxCommandTimeout_acts s : Acts s (execMailboxCommandTimeout s))
  | nop => exact (acts_applyWith _ _ _ _ : Acts s (execNop s))
  | moduleQuery => exact (acts_applyWith _ _ _ _ : Acts s (execModuleQuery s))
  | capsRead => exact (acts_applyWith _ _ _ _ : Acts s (execCapsRead s))
  | partitionQuery => exact (acts_applyWith _ _ _ _ : Acts s (execPartitionQuery s))
  | logRead => exact (acts_applyWith _ _ _ _ : Acts s (execLogRead s))
  | thermalGraceSet => exact (acts_applyWith _ _ _ _ : Acts s (execThermalGraceSet s))
  | escalationSet => exact (acts_applyWith _ _ _ _ : Acts s (execEscalationSet s))
  | accountSet => exact (acts_applyWith _ _ _ _ : Acts s (execAccountSet s))
  | partitionCreate => exact (acts_applyWith _ _ _ _ : Acts s (execPartitionCreate s))
  | partitionCommit => exact (acts_applyWith _ _ _ _ : Acts s (execPartitionCommit s))
  | partitionRenew => exact (acts_applyWith _ _ _ _ : Acts s (execPartitionRenew s))
  | partitionDestroy => exact (acts_applyWith _ _ _ _ : Acts s (execPartitionDestroy s))
  | granuleAssign => exact (acts_applyWith _ _ _ _ : Acts s (execGranuleAssign s))
  | granuleRelease => exact (acts_applyWith _ _ _ _ : Acts s (execGranuleRelease s))
  | granuleShare => exact (acts_applyWith _ _ _ _ : Acts s (execGranuleShare s))
  | nbMode => exact (acts_applyWith _ _ _ _ : Acts s (execNbMode s))
  | ringCreate => exact (acts_applyWith _ _ _ _ : Acts s (execRingCreate s))
  | ringDelete => exact (acts_applyWith _ _ _ _ : Acts s (execRingDelete s))
  | timetableBind => exact (acts_applyWith _ _ _ _ : Acts s (execTimetableBind s))
  | timetableUnbind => exact (acts_applyWith _ _ _ _ : Acts s (execTimetableUnbind s))
  | retire => exact (acts_applyWith _ _ _ _ : Acts s (execRetire s))
  | domainReset => exact (acts_domainReset s : Acts s (execDomainReset s))
  | fwChunk => exact (acts_applyWith _ _ _ _ : Acts s (execFwChunk s))
  | fwUpdate => exact (acts_applyWith _ _ _ _ : Acts s (execFwUpdate s))
  | fwSecurityRaise => exact (acts_applyWith _ _ _ _ : Acts s (execFwSecurityRaise s))
  | registerWrite who offset be value => exact (acts_onlyIf fun h => by simp [regAccess, h] : Acts s (execRegisterWrite who offset be value s))
  | registerLowHalfRead who offset => exact (acts_onlyIf fun h => by simp [regAccess, h] : Acts s (execRegisterLowHalfRead who offset s))
  | registerLowHalfWrite who offset value => exact (acts_onlyIf fun h => by simp [regAccess, h] : Acts s (execRegisterLowHalfWrite who offset value s))
  | registerHighHalfWrite who offset value => exact (acts_onlyIf fun h => by simp [regAccess, h] : Acts s (execRegisterHighHalfWrite who offset value s))
  | seqLanesWrite part value => exact (acts_onlyIf fun h => by simp [regsOpen, h] : Acts s (execSeqLanesWrite part value s))
  | vcWaysWrite part value => exact (acts_onlyIf fun h => by simp [regsOpen, h] : Acts s (execVcWaysWrite part value s))
  | seqSvcWrite part value => exact (acts_onlyIf fun h => by simp [regsOpen, h] : Acts s (execSeqSvcWrite part value s))
  | epochRegisterWrite who offset value => exact (acts_onlyIf fun h => by simp [regAccess, h] : Acts s (execEpochRegisterWrite who offset value s))
  | pwrInputLimitWrite value => exact (acts_onlyIf fun h => by simp [regsOpen, h] : Acts s (execPwrInputLimitWrite value s))
  | errLogHeadWrite value => exact (acts_onlyIf fun h => by simp [h] : Acts s (execErrLogHeadWrite value s))
  | errSrcSelWrite stack value => exact (acts_onlyIf fun h => by simp [h] : Acts s (execErrSrcSelWrite stack value s))
  | errSrcClr stack value => exact (acts_onlyIf fun h => by simp [h] : Acts s (execErrSrcClr stack value s))
  | rawRead value => exact (acts_onlyIf fun h => by simp [h] : Acts s (execRawRead value s))
  | rawWrite value => exact (acts_onlyIf fun h => by simp [h] : Acts s (execRawWrite value s))
  | rawModeEnable value => exact (acts_onlyIf fun h => by simp [h] : Acts s (execRawModeEnable value s))
  | rawOperationDone => exact (execRawOperationDone_acts s : Acts s (execRawOperationDone s))
  | currentReport volts amps rails => exact (acts_unless_illFormed (by simpa [Instr.wf] using hwf) (by simp [Bool.and_assoc]) : Acts s (execCurrentReport volts amps rails s))
  | modelRun sensors coolant coolantBroken => exact (acts_unless_illFormed (by simpa [Instr.wf] using hwf) (by simp [Bool.and_assoc]) : Acts s (execModelRun sensors coolant coolantBroken s))
  | tripRailShutdown => exact (acts_onlyIf fun h => by simp [h] : Acts s (execTripRailShutdown s))
  | cycleCountFlashWrite stack => exact (execCycleCountFlashWrite_acts _ s : Acts s (execCycleCountFlashWrite stack s))
  | sensorSelfCheck failed => exact (acts_unless_illFormed (by simpa [Instr.wf] using hwf) (by simp) : Acts s (execSensorSelfCheck failed s))
  | allowedPowerEffect => exact (acts_onlyIf fun h => by simp [h] : Acts s (execAllowedPowerEffect s))
  | alwaysOnTripCheck sensors => exact (acts_unless_illFormed (by simpa [Instr.wf] using hwf) (by simp [Bool.and_assoc]) : Acts s (execAlwaysOnTripCheck sensors s))
  | railFault rail => exact (execRailFault_acts _ s : Acts s (execRailFault rail s))
  | collectorReport stack soft => exact (execCollectorReport_acts _ _ s : Acts s (execCollectorReport stack soft s))
  | collectorEntryClose stack => exact (acts_onlyIf fun h => by simp [h] : Acts s (execCollectorEntryClose stack s))
  | logEntryWrite stack => exact (execLogEntryWrite_acts _ s : Acts s (execLogEntryWrite stack s))
  | scrubRead cycle => exact (execScrubRead_acts _ s : Acts s (execScrubRead cycle s))
  | scrubWriteBack cycle => exact (execScrubWriteBack_acts _ s : Acts s (execScrubWriteBack cycle s))
  | scrubLapLate unit => exact (acts_onlyIf fun h => by simp [h] : Acts s (execScrubLapLate unit s))
  | sidebandWrite offset bytes => exact (acts_onlyIf fun h => by simp [h] : Acts s (execSidebandWrite offset bytes s))
  | sidebandSetPointer offset => exact (acts_onlyIf fun h => by simp [h] : Acts s (execSidebandSetPointer offset s))
  | sidebandRead words => exact (acts_onlyIf fun h => by simp [h] : Acts s (execSidebandRead words s))
  | hotJoin => exact (acts_onlyIf fun h => by simp [h] : Acts s (execHotJoin s))
  | enec events => exact (acts_onlyIf fun h => by simp [h] : Acts s (execEnec events s))
  | disec events => exact (acts_onlyIf fun h => by simp [h] : Acts s (execDisec events s))
  | rstdaa => exact (acts_onlyIf fun h => by simp [h] : Acts s (execRstdaa s))
  | entdaa addr => exact (acts_onlyIf fun h => by simp [h] : Acts s (execEntdaa addr s))
  | setdasa staticAddr addr => exact (acts_onlyIf fun h => by simp [h] : Acts s (execSetdasa staticAddr addr s))
  | setnewda addr => exact (acts_onlyIf fun h => by simp [h] : Acts s (execSetnewda addr s))
  | getpid => exact (acts_onlyIf fun h => by simp [addressed, h] : Acts s (execGetpid s))
  | getbcr => exact (acts_onlyIf fun h => by simp [addressed, h] : Acts s (execGetbcr s))
  | getdcr => exact (acts_onlyIf fun h => by simp [addressed, h] : Acts s (execGetdcr s))
  | getstatus => exact (acts_onlyIf fun h => by simp [addressed, h] : Acts s (execGetstatus s))
  | getmxds => exact (acts_onlyIf fun h => by simp [addressed, h] : Acts s (execGetmxds s))
  | jtagTrst => cases hout
  | idcode => cases hout
  | extest => cases hout
  | clamp => cases hout
  | highz => cases hout
  | jtagBypass => cases hout
  | conservatorCommandTimeout pch => exact (acts_onlyIf fun h => by simp [h] : Acts s (execConservatorCommandTimeout pch s))
  | pcieLinkUp port rate width flit => exact (acts_onlyIf fun h => by simp [h] : Acts s (execPcieLinkUp port rate width flit s))
  | inputBelow20V => cases hout
  | inputRisesAbove20V => cases hout

theorem exec_next_of_outsideReset (s : State) (c : Instr) (hout : c.outsideReset = true) : ∃ t, exec c s = .next t := by
  cases c <;> simp only [Instr.outsideReset, Bool.false_eq_true] at hout <;> exact ⟨_, rfl⟩

/-- Settles O4: every command named acts at most where the module is out of reset. -/
theorem nothingHappensInModuleReset : Obligations.NothingHappensInModuleReset := by
  intro s c hreset hwf hout
  obtain ⟨t, hexec, hstay⟩ := exec_acts s c hwf (fun h => by simp [live_off hreset] at h) hout
  rw [hexec, hstay hreset]

/-! ### Canonical form -/

/-- Every command keeps the canonical form of the memories wherever it ends in a next state. -/
theorem exec_sound (s : State) (c : Instr) (hs : s.sound) : after State.sound (exec c s) := by
  cases c with
  | moduleResetAssert src => exact execModuleResetAssert_sound src s hs
  | moduleResetDeassert legacySel addrSel => exact execModuleResetDeassert_sound legacySel addrSel s hs
  | inputOutOfRange => exact execInputOutOfRange_sound s hs
  | inputBackInRange => exact execInputBackInRange_sound s hs
  | clockMonitorTrip pllLost => exact execClockMonitorTrip_sound pllLost s hs
  | tripLatchClear => exact execTripLatchClear_sound s hs
  | perstRelease port => exact execPerstRelease_sound port s hs
  | pcieFunctionLevelReset port => exact execPcieFunctionLevelReset_sound port s hs
  | pcieHotReset port => exact execPcieHotReset_sound port s hs
  | pcieLinkDown port => exact execPcieLinkDown_sound port s hs
  | beatTick => exact execBeatTick_sound s hs
  | stageRails => exact execStageRails_sound s hs
  | stageTrain report => exact execStageTrain_sound report s hs
  | stageTest fails => exact execStageTest_sound fails s hs
  | stageRepair => exact execStageRepair_sound s hs
  | stageFill => exact execStageFill_sound s hs
  | stageCsv => exact execStageCsv_sound s hs
  | stageDone => exact execStageDone_sound s hs
  | recoveryErase => exact execRecoveryErase_sound s hs
  | recoveryDataWrite data => exact execRecoveryDataWrite_sound data s hs
  | recoveryCommit => exact execRecoveryCommit_sound s hs
  | recoveryOperationDone => exact execRecoveryOperationDone_sound s hs
  | hostPortReset port cause => exact execHostPortReset_sound port cause s hs
  | stackReset stack cause => exact execStackReset_sound stack cause s hs
  | vaultReset vault cause => exact execVaultReset_sound vault cause s hs
  | curatorReset cause => exact execCuratorReset_sound cause s hs
  | domainResetEnd kind index => exact execDomainResetEnd_sound kind index s hs
  | deaccessionRailShutdown => exact execDeaccessionRailShutdown_sound s hs
  | evaluateStep part => exact execEvaluateStep_sound part s hs
  | gateMet part => exact execGateMet_sound part s hs
  | budgetRetry part => exact execBudgetRetry_sound part s hs
  | commitArrival part => exact execCommitArrival_sound part s hs
  | advanceNoticeReceipt part => exact execAdvanceNoticeReceipt_sound part s hs
  | domainWakeStart part dom => exact execDomainWakeStart_sound part dom s hs
  | domainWakeComplete dom => exact execDomainWakeComplete_sound dom s hs
  | stepStart part => exact execStepStart_sound part s hs
  | slotPlanEntryStart part entry => exact execSlotPlanEntryStart_sound part entry s hs
  | stackSequencerRecordRead part isEngine entry => exact execStackSequencerRecordRead_sound part isEngine entry s hs
  | kernelLaunch part cab => exact execKernelLaunch_sound part cab s hs
  | delayedLaunchStart cab => exact execDelayedLaunchStart_sound cab s hs
  | cabinetDoneReport cab => exact execCabinetDoneReport_sound cab s hs
  | stepPlannedEnd part => exact execStepPlannedEnd_sound part s hs
  | stepEnd part => exact execStepEnd_sound part s hs
  | stepTimeout part => exact execStepTimeout_sound part s hs
  | kernelTimeout cab => exact execKernelTimeout_sound cab s hs
  | stepDelayed part => exact execStepDelayed_sound part s hs
  | jobFaultDelivery part => exact execJobFaultDelivery_sound part s hs
  | abandonedDescriptorCompletion eng ctx => exact execAbandonedDescriptorCompletion_sound eng ctx s hs
  | rotationSlotTake req j => exact execRotationSlotTake_sound req j s hs
  | xilonNop core j => exact execXilonNop_sound core j s hs
  | add core j => exact execAdd_sound core j s hs
  | sub core j => exact execSub_sound core j s hs
  | mul core j => exact execMul_sound core j s hs
  | mulhiS core j => exact execMulhiS_sound core j s hs
  | mulhiU core j => exact execMulhiU_sound core j s hs
  | and core j => exact execAnd_sound core j s hs
  | or core j => exact execOr_sound core j s hs
  | xor core j => exact execXor_sound core j s hs
  | shl core j => exact execShl_sound core j s hs
  | shrU core j => exact execShrU_sound core j s hs
  | shrS core j => exact execShrS_sound core j s hs
  | minS core j => exact execMinS_sound core j s hs
  | minU core j => exact execMinU_sound core j s hs
  | maxS core j => exact execMaxS_sound core j s hs
  | maxU core j => exact execMaxU_sound core j s hs
  | sel core j => exact execSel_sound core j s hs
  | addi core j => exact execAddi_sound core j s hs
  | andi core j => exact execAndi_sound core j s hs
  | ori core j => exact execOri_sound core j s hs
  | xori core j => exact execXori_sound core j s hs
  | shli core j => exact execShli_sound core j s hs
  | shriU core j => exact execShriU_sound core j s hs
  | shriS core j => exact execShriS_sound core j s hs
  | movi core j => exact execMovi_sound core j s hs
  | fadd core j => exact execFadd_sound core j s hs
  | fsub core j => exact execFsub_sound core j s hs
  | fmul core j => exact execFmul_sound core j s hs
  | fmin core j => exact execFmin_sound core j s hs
  | fmax core j => exact execFmax_sound core j s hs
  | fabs core j => exact execFabs_sound core j s hs
  | fneg core j => exact execFneg_sound core j s hs
  | ffma core j => exact execFfma_sound core j s hs
  | ffmaUb core j => exact execFfmaUb_sound core j s hs
  | ffmaUc core j => exact execFfmaUc_sound core j s hs
  | ffmaUbc core j => exact execFfmaUbc_sound core j s hs
  | frcp core j => exact execFrcp_sound core j s hs
  | frsqrt core j => exact execFrsqrt_sound core j s hs
  | fexp2 core j => exact execFexp2_sound core j s hs
  | flog2 core j => exact execFlog2_sound core j s hs
  | setpS core j => exact execSetpS_sound core j s hs
  | setpU core j => exact execSetpU_sound core j s hs
  | setpF core j => exact execSetpF_sound core j s hs
  | plog core j => exact execPlog_sound core j s hs
  | cvt core j => exact execCvt_sound core j s hs
  | uadd core j => exact execUadd_sound core j s hs
  | usub core j => exact execUsub_sound core j s hs
  | umul core j => exact execUmul_sound core j s hs
  | uand core j => exact execUand_sound core j s hs
  | uor core j => exact execUor_sound core j s hs
  | uxor core j => exact execUxor_sound core j s hs
  | ushl core j => exact execUshl_sound core j s hs
  | ushr core j => exact execUshr_sound core j s hs
  | uaddi core j => exact execUaddi_sound core j s hs
  | umovi core j => exact execUmovi_sound core j s hs
  | uGet core j => exact execUGet_sound core j s hs
  | vote core j => exact execVote_sound core j s hs
  | shfl core j => exact execShfl_sound core j s hs
  | ldL core j => exact execLdL_sound core j s hs
  | stL core j => exact execStL_sound core j s hs
  | ldS core j => exact execLdS_sound core j s hs
  | stS core j => exact execStS_sound core j s hs
  | ldG core j => exact execLdG_sound core j s hs
  | stG core j => exact execStG_sound core j s hs
  | atomL core j => exact execAtomL_sound core j s hs
  | atomS core j => exact execAtomS_sound core j s hs
  | atomG core j => exact execAtomG_sound core j s hs
  | redG core j => exact execRedG_sound core j s hs
  | meshPut core j => exact execMeshPut_sound core j s hs
  | br core j => exact execBr_sound core j s hs
  | brx core j => exact execBrx_sound core j s hs
  | exit core j => exact execExit_sound core j s hs
  | trap core j => exact execTrap_sound core j s hs
  | tourSync core j => exact execTourSync_sound core j s hs
  | tourYield core j => exact execTourYield_sound core j s hs
  | fence core j => exact execFence_sound core j s hs
  | beatRead core j => exact execBeatRead_sound core j s hs
  | beatWait core j => exact execBeatWait_sound core j s hs
  | mxTile core j => exact execMxTile_sound core j s hs
  | mxRun core j => exact execMxRun_sound core j s hs
  | mxAccClear core j => exact execMxAccClear_sound core j s hs
  | mxAccStore core j => exact execMxAccStore_sound core j s hs
  | mxAccLoad core j => exact execMxAccLoad_sound core j s hs
  | mxEnc core j => exact execMxEnc_sound core j s hs
  | mxDec core j => exact execMxDec_sound core j s hs
  | instructionResultWrite core j => exact execInstructionResultWrite_sound core j s hs
  | tourSwapStart core j crcRead crcWrite => exact execTourSwapStart_sound core j crcRead crcWrite s hs
  | tourSwapComplete core j => exact execTourSwapComplete_sound core j s hs
  | channelTransferStart core j write crcBad => exact execChannelTransferStart_sound core j write crcBad s hs
  | mergeBufferTimeout core j => exact execMergeBufferTimeout_sound core j s hs
  | shelfRmwRead core j crcBad => exact execShelfRmwRead_sound core j crcBad s hs
  | shelfRmwWrite core j crcBad => exact execShelfRmwWrite_sound core j crcBad s hs
  | egressTake core j => exact execEgressTake_sound core j s hs
  | globalLoadReturn core j => exact execGlobalLoadReturn_sound core j s hs
  | postedWriteAck req j => exact execPostedWriteAck_sound req j s hs
  | meshPutDelivery flit j => exact execMeshPutDelivery_sound flit j s hs
  | shadowArmed core j => exact execShadowArmed_sound core j s hs
  | arrayRunEntry core j => exact execArrayRunEntry_sound core j s hs
  | arrayTileWrite core j => exact execArrayTileWrite_sound core j s hs
  | accLoadComplete core j => exact execAccLoadComplete_sound core j s hs
  | gatewayRequest cab j => exact execGatewayRequest_sound cab j s hs
  | idleCheckPass site failGa failUl => exact execIdleCheckPass_sound site failGa failUl s hs
  | idleCheckLate site => exact execIdleCheckLate_sound site s hs
  | sliceLoad slice req j => exact execSliceLoad_sound slice req j s hs
  | sliceStore slice req j => exact execSliceStore_sound slice req j s hs
  | sliceAtomic slice req j => exact execSliceAtomic_sound slice req j s hs
  | sliceReduction slice req j => exact execSliceReduction_sound slice req j s hs
  | sliceFillComplete slice j => exact execSliceFillComplete_sound slice j s hs
  | writeBackAck slice j => exact execWriteBackAck_sound slice j s hs
  | rangePrefetch slice req j => exact execRangePrefetch_sound slice req j s hs
  | rangeFlush slice req j => exact execRangeFlush_sound slice req j s hs
  | rangeInvalidate slice req j => exact execRangeInvalidate_sound slice req j s hs
  | rangeDead slice req j => exact execRangeDead_sound slice req j s hs
  | controllerRequestArrival pch j => exact execControllerRequestArrival_sound pch j s hs
  | dramWindow pch j => exact execDramWindow_sound pch j s hs
  | dramDataReturn pch j => exact execDramDataReturn_sound pch j s hs
  | refreshWindowStart pch => exact execRefreshWindowStart_sound pch s hs
  | refreshWindowEnd pch => exact execRefreshWindowEnd_sound pch s hs
  | refreshMultiplierChange vault => exact execRefreshMultiplierChange_sound vault s hs
  | nearBankModeSwitch pch => exact execNearBankModeSwitch_sound pch s hs
  | nbWindowRead req j => exact execNbWindowRead_sound req j s hs
  | nbWindowWrite req j => exact execNbWindowWrite_sound req j s hs
  | nbWindowAccessAfterWake req j => exact execNbWindowAccessAfterWake_sound req j s hs
  | csvStart pch => exact execCsvStart_sound pch s hs
  | csvHalt pch => exact execCsvHalt_sound pch s hs
  | csvDoorbell pch count => exact execCsvDoorbell_sound pch count s hs
  | conservatorSwitchOff pch => exact execConservatorSwitchOff_sound pch s hs
  | rvIntegerAlu pch j => exact execRvIntegerAlu_sound pch j s hs
  | rvBranchJump pch j => exact execRvBranchJump_sound pch j s hs
  | rvLoad pch j => exact execRvLoad_sound pch j s hs
  | rvStore pch j => exact execRvStore_sound pch j s hs
  | rvMul pch j => exact execRvMul_sound pch j s hs
  | rvDiv pch j => exact execRvDiv_sound pch j s hs
  | rvFence pch j => exact execRvFence_sound pch j s hs
  | ecall pch j => exact execEcall_sound pch j s hs
  | ebreak pch j => exact execEbreak_sound pch j s hs
  | nbRd pch j => exact execNbRd_sound pch j s hs
  | nbWr pch j => exact execNbWr_sound pch j s hs
  | nbWait pch j => exact execNbWait_sound pch j s hs
  | nbBeat pch j => exact execNbBeat_sound pch j s hs
  | nbUntil pch j => exact execNbUntil_sound pch j s hs
  | nbAcfg pch j => exact execNbAcfg_sound pch j s hs
  | nbQld pch j => exact execNbQld_sound pch j s hs
  | nbAttn pch j => exact execNbAttn_sound pch j s hs
  | nbScore pch j => exact execNbScore_sound pch j s hs
  | nbOst pch j => exact execNbOst_sound pch j s hs
  | nbCmd pch j => exact execNbCmd_sound pch j s hs
  | nbDone pch j => exact execNbDone_sound pch j s hs
  | nbFlt pch j => exact execNbFlt_sound pch j s hs
  | burstLine pch j => exact execBurstLine_sound pch j s hs
  | burstComplete pch j => exact execBurstComplete_sound pch j s hs
  | attentionStateFinal pch j => exact execAttentionStateFinal_sound pch j s hs
  | paceLevelChange vault => exact execPaceLevelChange_sound vault s hs
  | copy eng ctx j => exact execCopy_sound eng ctx j s hs
  | fill eng ctx j => exact execFill_sound eng ctx j s hs
  | range eng ctx j => exact execRange_sound eng ctx j s hs
  | window eng ctx j => exact execWindow_sound eng ctx j s hs
  | transpose eng ctx j => exact execTranspose_sound eng ctx j s hs
  | frame eng ctx j => exact execFrame_sound eng ctx j s hs
  | topk eng ctx j => exact execTopk_sound eng ctx j s hs
  | engineReadIssue eng ctx j => exact execEngineReadIssue_sound eng ctx j s hs
  | engineReadReturn eng ctx j host => exact execEngineReadReturn_sound eng ctx j host s hs
  | flitEntry eng ctx j => exact execFlitEntry_sound eng ctx j s hs
  | engineWriteIssue eng ctx j => exact execEngineWriteIssue_sound eng ctx j s hs
  | engineWriteAck eng ctx j hostError => exact execEngineWriteAck_sound eng ctx j hostError s hs
  | descriptorDone eng ctx j => exact execDescriptorDone_sound eng ctx j s hs
  | engineDescriptorTimeout eng ctx => exact execEngineDescriptorTimeout_sound eng ctx s hs
  | heldDescriptorRelease eng => exact execHeldDescriptorRelease_sound eng s hs
  | engineStatusWrite eng value => exact execEngineStatusWrite_sound eng value s hs
  | configRequest port write offset value => exact execConfigRequest_sound port write offset value s hs
  | bar2Read port offset lanes tag => exact execBar2Read_sound port offset lanes tag s hs
  | bar2Write port offset lanes data => exact execBar2Write_sound port offset lanes data s hs
  | bar2ReadCompletion req => exact execBar2ReadCompletion_sound req s hs
  | hpBar2BaseWrite who port high value => exact execHpBar2BaseWrite_sound who port high value s hs
  | sqDoorbell port ring be value => exact execSqDoorbell_sound port ring be value s hs
  | cqDoorbell port ring be value => exact execCqDoorbell_sound port ring be value s hs
  | ringArm port ring be value => exact execRingArm_sound port ring be value s hs
  | fetchReadIssue port j => exact execFetchReadIssue_sound port j s hs
  | fetchDataReturn port j data => exact execFetchDataReturn_sound port j data s hs
  | fetchTimeout port => exact execFetchTimeout_sound port s hs
  | submissionNop ring => exact execSubmissionNop_sound ring s hs
  | run ring => exact execRun_sound ring s hs
  | gate ring => exact execGate_sound ring s hs
  | stop ring => exact execStop_sound ring s hs
  | engine ring => exact execEngine_sound ring s hs
  | acceptanceCompletionPost ring => exact execAcceptanceCompletionPost_sound ring s hs
  | heldEntryWrite ring => exact execHeldEntryWrite_sound ring s hs
  | rgsJobHeldClear part => exact execRgsJobHeldClear_sound part s hs
  | mailboxGo chan => exact execMailboxGo_sound chan s hs
  | commandArrival chan => exact execCommandArrival_sound chan s hs
  | commandEnd => exact execCommandEnd_sound s hs
  | mailboxCommandTimeout => exact execMailboxCommandTimeout_sound s hs
  | nop => exact execNop_sound s hs
  | moduleQuery => exact execModuleQuery_sound s hs
  | capsRead => exact execCapsRead_sound s hs
  | partitionQuery => exact execPartitionQuery_sound s hs
  | logRead => exact execLogRead_sound s hs
  | thermalGraceSet => exact execThermalGraceSet_sound s hs
  | escalationSet => exact execEscalationSet_sound s hs
  | accountSet => exact execAccountSet_sound s hs
  | partitionCreate => exact execPartitionCreate_sound s hs
  | partitionCommit => exact execPartitionCommit_sound s hs
  | partitionRenew => exact execPartitionRenew_sound s hs
  | partitionDestroy => exact execPartitionDestroy_sound s hs
  | granuleAssign => exact execGranuleAssign_sound s hs
  | granuleRelease => exact execGranuleRelease_sound s hs
  | granuleShare => exact execGranuleShare_sound s hs
  | nbMode => exact execNbMode_sound s hs
  | ringCreate => exact execRingCreate_sound s hs
  | ringDelete => exact execRingDelete_sound s hs
  | timetableBind => exact execTimetableBind_sound s hs
  | timetableUnbind => exact execTimetableUnbind_sound s hs
  | retire => exact execRetire_sound s hs
  | domainReset => exact execDomainReset_sound s hs
  | fwChunk => exact execFwChunk_sound s hs
  | fwUpdate => exact execFwUpdate_sound s hs
  | fwSecurityRaise => exact execFwSecurityRaise_sound s hs
  | registerWrite who offset be value => exact execRegisterWrite_sound who offset be value s hs
  | registerLowHalfRead who offset => exact execRegisterLowHalfRead_sound who offset s hs
  | registerLowHalfWrite who offset value => exact execRegisterLowHalfWrite_sound who offset value s hs
  | registerHighHalfWrite who offset value => exact execRegisterHighHalfWrite_sound who offset value s hs
  | seqLanesWrite part value => exact execSeqLanesWrite_sound part value s hs
  | vcWaysWrite part value => exact execVcWaysWrite_sound part value s hs
  | seqSvcWrite part value => exact execSeqSvcWrite_sound part value s hs
  | epochRegisterWrite who offset value => exact execEpochRegisterWrite_sound who offset value s hs
  | pwrInputLimitWrite value => exact execPwrInputLimitWrite_sound value s hs
  | errLogHeadWrite value => exact execErrLogHeadWrite_sound value s hs
  | errSrcSelWrite stack value => exact execErrSrcSelWrite_sound stack value s hs
  | errSrcClr stack value => exact execErrSrcClr_sound stack value s hs
  | rawRead value => exact execRawRead_sound value s hs
  | rawWrite value => exact execRawWrite_sound value s hs
  | rawModeEnable value => exact execRawModeEnable_sound value s hs
  | rawOperationDone => exact execRawOperationDone_sound s hs
  | currentReport volts amps rails => exact execCurrentReport_sound volts amps rails s hs
  | modelRun sensors coolant coolantBroken => exact execModelRun_sound sensors coolant coolantBroken s hs
  | tripRailShutdown => exact execTripRailShutdown_sound s hs
  | cycleCountFlashWrite stack => exact execCycleCountFlashWrite_sound stack s hs
  | sensorSelfCheck failed => exact execSensorSelfCheck_sound failed s hs
  | allowedPowerEffect => exact execAllowedPowerEffect_sound s hs
  | alwaysOnTripCheck sensors => exact execAlwaysOnTripCheck_sound sensors s hs
  | railFault rail => exact execRailFault_sound rail s hs
  | collectorReport stack soft => exact execCollectorReport_sound stack soft s hs
  | collectorEntryClose stack => exact execCollectorEntryClose_sound stack s hs
  | logEntryWrite stack => exact execLogEntryWrite_sound stack s hs
  | scrubRead cycle => exact execScrubRead_sound cycle s hs
  | scrubWriteBack cycle => exact execScrubWriteBack_sound cycle s hs
  | scrubLapLate unit => exact execScrubLapLate_sound unit s hs
  | sidebandWrite offset bytes => exact execSidebandWrite_sound offset bytes s hs
  | sidebandSetPointer offset => exact execSidebandSetPointer_sound offset s hs
  | sidebandRead words => exact execSidebandRead_sound words s hs
  | hotJoin => exact execHotJoin_sound s hs
  | enec events => exact execEnec_sound events s hs
  | disec events => exact execDisec_sound events s hs
  | rstdaa => exact execRstdaa_sound s hs
  | entdaa addr => exact execEntdaa_sound addr s hs
  | setdasa staticAddr addr => exact execSetdasa_sound staticAddr addr s hs
  | setnewda addr => exact execSetnewda_sound addr s hs
  | getpid => exact execGetpid_sound s hs
  | getbcr => exact execGetbcr_sound s hs
  | getdcr => exact execGetdcr_sound s hs
  | getstatus => exact execGetstatus_sound s hs
  | getmxds => exact execGetmxds_sound s hs
  | jtagTrst => exact execJtagTrst_sound s hs
  | idcode => exact execIdcode_sound s hs
  | extest => exact execExtest_sound s hs
  | clamp => exact execClamp_sound s hs
  | highz => exact execHighz_sound s hs
  | jtagBypass => exact execJtagBypass_sound s hs
  | conservatorCommandTimeout pch => exact execConservatorCommandTimeout_sound pch s hs
  | pcieLinkUp port rate width flit => exact execPcieLinkUp_sound port rate width flit s hs
  | inputBelow20V => exact execInputBelow20V_sound s hs
  | inputRisesAbove20V => exact execInputRisesAbove20V_sound s hs

theorem step_sound {s t : State} (hs : s.sound) (h : step s = .next t) : t.sound := by
  unfold step at h
  split at h
  · cases h; exact hs
  · refine exec_sound _ _ ?_ t h
    exact hs

/-- Settles O3: each command keeps the canonical form, and each well-formed one ends in a next state. -/
theorem stepKeepsMemoriesCanonical : Obligations.StepKeepsMemoriesCanonical := by
  refine ⟨fun s t hs h => ?_, fun s c hwf hbeat => ?_⟩
  · rw [← sound_iff_canonical] at *
    exact step_sound hs h
  · cases hout : c.outsideReset with
    | true => exact exec_next_of_outsideReset s c hout
    | false =>
      obtain ⟨t, h, -⟩ := exec_acts s c hwf (fun _ => hbeat) hout
      exact ⟨t, h⟩

end Sys2Proof.Machine
end

section
/-! PROOF. The SEC-DED codes of the word sizes in use, and what a coded store reads after a write (R8, R407 to R409). -/

namespace Sys2Proof.Machine

/-! ### Bytes of a number (R8) -/

theorem leNat_lt (l : List Byte) : leNat l < 2 ^ (8 * l.length) := by
  induction l with
  | nil => simp [leNat]
  | cons b l ih =>
    have hb : b.toNat < 256 := b.isLt
    rw [leNat, List.length_cons, Nat.mul_add, Nat.pow_add, Nat.mul_comm (2 ^ _)]
    omega

theorem byteOf_toNat (x i : Nat) : (byteOf x i).toNat = x / 2 ^ (8 * i) % 256 := by
  simp [byteOf, Nat.shiftRight_eq_div_pow]

theorem leBytes_succ (x n : Nat) : leBytes x (n + 1) = byteOf x 0 :: leBytes (x / 256) n := by
  simp only [leBytes, List.range_succ_eq_map, List.map_cons, List.map_map, List.cons.injEq, true_and]
  refine List.map_congr_left fun i _ => BitVec.eq_of_toNat_eq ?_
  simp only [Function.comp, byteOf_toNat, Nat.div_div_eq_div_mul, Nat.mul_add, Nat.pow_add, Nat.succ_eq_add_one]
  rw [Nat.mul_comm (2 ^ _)]

@[simp] theorem leBytes_length (x n : Nat) : (leBytes x n).length = n := by simp [leBytes]

@[simp] theorem leNat_leBytes (x n : Nat) : leNat (leBytes x n) = x % 2 ^ (8 * n) := by
  induction n generalizing x with
  | zero => simp [leBytes, leNat, Nat.mod_one]
  | succ n ih =>
    rw [leBytes_succ, leNat, ih, byteOf_toNat, Nat.mul_add, Nat.pow_add, Nat.mul_comm (2 ^ _), Nat.mod_mul]
    simp

/-! ### Positions and parities (R408) -/

theorem positionXor_xor (a b : Nat) (ps : List Nat) (i : Nat) :
    positionXor (a ^^^ b) ps i = positionXor a ps i ^^^ positionXor b ps i := by
  induction ps generalizing i with
  | nil => simp [positionXor]
  | cons p ps ih =>
    simp only [positionXor, ih, Nat.testBit_xor]
    cases a.testBit i <;> cases b.testBit i <;> simp [Nat.xor_assoc, Nat.xor_left_comm]

theorem positionXor_two_pow_of_lt (ps : List Nat) {k i : Nat} (h : k < i) : positionXor (2 ^ k) ps i = 0 := by
  induction ps generalizing i with
  | nil => rfl
  | cons p ps ih => simp [positionXor, ih (Nat.lt_succ_of_lt h), Nat.ne_of_lt h]

/-- A single data bit counts with its own position. -/
theorem positionXor_two_pow (ps : List Nat) (i j : Nat) (h : j < ps.length) : positionXor (2 ^ (i + j)) ps i = ps[j] := by
  induction ps generalizing i j with
  | nil => simp at h
  | cons p ps ih =>
    cases j with
    | zero => simp [positionXor, positionXor_two_pow_of_lt]
    | succ j =>
      have hstep : i + (j + 1) = (i + 1) + j := by omega
      rw [positionXor, hstep, ih (i + 1) j (by simpa using h), Nat.testBit_two_pow]
      simp; omega

theorem popCount_succ (x n : Nat) : popCount x (n + 1) = popCount x n + (x.testBit n).toNat := by
  simp [popCount, Nat.testBit_eq_decide_div_mod_eq, Nat.shiftRight_eq_div_pow]
  have := Nat.mod_two_eq_zero_or_one (x / 2 ^ n)
  rcases this with h | h <;> simp [h]

theorem popCount_xor (a b n : Nat) : popCount (a ^^^ b) n % 2 = (popCount a n + popCount b n) % 2 := by
  induction n with
  | zero => rfl
  | succ n ih =>
    simp only [popCount_succ, Nat.testBit_xor]
    cases a.testBit n <;> cases b.testBit n <;> simp <;> omega

theorem popCount_two_pow (i n : Nat) : popCount (2 ^ i) n = if i < n then 1 else 0 := by
  induction n with
  | zero => rfl
  | succ n ih =>
    rw [popCount_succ, ih, Nat.testBit_two_pow]
    by_cases h : i = n
    · subst h; simp
    · have : i < n ↔ i < n + 1 := by omega
      simp [h, this]

theorem popCount_congr {a b n : Nat} (h : ∀ i, i < n → a.testBit i = b.testBit i) : popCount a n = popCount b n := by
  induction n with
  | zero => rfl
  | succ n ih => rw [popCount_succ, popCount_succ, ih fun i hi => h i (by omega), h n (by omega)]

/-! ### One codeword (R408) -/

/-- The syndrome and the overall parity that the checker works out. -/
def hammingSyndrome (m r d c : Nat) : Nat := (positionXor d (dataPositions m) 0 ^^^ c) % 2 ^ (r - 1)
def hammingParity (m r d c : Nat) : Nat := (popCount d m + popCount c r) % 2

/-- What R408 and R409 need of a word size: a position for each data bit, below the marker's syndrome, and a poison codeword that is no
valid one. -/
structure SecDed (m r : Nat) : Prop where
  positions : (dataPositions m).length = m
  below : ∀ p ∈ dataPositions m, p < 2 ^ (r - 1) - 1
  even : m % 2 = 0
  wide : 3 ≤ r
  poison : hammingSyndrome m r (2 ^ m - 1) 0 ≠ 0

theorem secDed_of_mem {m r : Nat} (h : (m, r) ∈ [(8, 5), (32, 7), (128, 9)]) : SecDed m r := by
  simp only [List.mem_cons, Prod.mk.injEq, List.not_mem_nil, or_false] at h
  obtain ⟨rfl, rfl⟩ | ⟨rfl, rfl⟩ | ⟨rfl, rfl⟩ := h
  · exact ⟨by decide, by decide, by decide, by decide, by decide⟩
  · exact ⟨by decide, by decide, by decide, by decide, by decide⟩
  · exact ⟨by decide +kernel, by decide +kernel, by decide, by decide, by decide +kernel⟩

section
variable {m r d c i : Nat}

theorem hammingSyndrome_check (m r d : Nat) : hammingSyndrome m r d (hammingCheck m r d) = 0 := by
  simp only [hammingSyndrome, hammingCheck, Nat.xor_mod_two_pow, Nat.add_mul_mod_self_left, Nat.mod_mod, Nat.xor_self]

theorem hammingCheck_testBit_last (m r d : Nat) (hr : 3 ≤ r) :
    popCount (hammingCheck m r d) r = popCount (positionXor d (dataPositions m) 0 % 2 ^ (r - 1)) (r - 1)
      + (popCount d m + popCount (positionXor d (dataPositions m) 0 % 2 ^ (r - 1)) (r - 1)) % 2 := by
  obtain ⟨k, rfl⟩ : ∃ k, r = k + 1 := ⟨r - 1, by omega⟩
  simp only [hammingCheck, Nat.add_sub_cancel]
  generalize hh : positionXor d (dataPositions m) 0 % 2 ^ k = h
  have hlt : h < 2 ^ k := hh ▸ Nat.mod_lt _ (Nat.two_pow_pos k)
  generalize hb : (popCount d m + popCount h k) % 2 = b
  have hb2 : b < 2 := hb ▸ Nat.mod_lt _ (by decide)
  rw [popCount_succ, Nat.add_comm h]
  congr 1
  · exact popCount_congr fun i hi => by rw [Nat.testBit_two_pow_mul_add _ hlt, if_pos hi]
  · rw [Nat.testBit_two_pow_mul_add _ hlt, if_neg (lt_irrefl k), Nat.sub_self]
    interval_cases b <;> rfl

theorem hammingParity_check (hs : SecDed m r) (d : Nat) : hammingParity m r d (hammingCheck m r d) = 0 := by
  rw [hammingParity, hammingCheck_testBit_last m r d hs.wide]
  omega

/-- An error in data bit i shows its position, and turns the parity. -/
theorem hammingSyndrome_data (hs : SecDed m r) (hi : i < m) : hammingSyndrome m r (d ^^^ 2 ^ i) c
    = hammingSyndrome m r d c ^^^ (dataPositions m)[i]'(hs.positions.symm ▸ hi) := by
  have hlen : i < (dataPositions m).length := hs.positions.symm ▸ hi
  have hpos := positionXor_two_pow (dataPositions m) 0 i hlen
  have hbelow := hs.below _ (List.getElem_mem hlen)
  rw [Nat.zero_add] at hpos
  simp only [hammingSyndrome, positionXor_xor, hpos, Nat.xor_mod_two_pow]
  rw [Nat.mod_eq_of_lt (a := (dataPositions m)[i]) (by omega)]
  simp only [Nat.xor_assoc, Nat.xor_comm]

theorem hammingParity_data (hi : i < m) : hammingParity m r (d ^^^ 2 ^ i) c = (hammingParity m r d c + 1) % 2 := by
  have := popCount_xor d (2 ^ i) m
  rw [popCount_two_pow, if_pos hi] at this
  simp only [hammingParity]
  omega

/-- An error in check bit i shows that bit, but for the parity bit's, which shows nothing; it turns the parity. -/
theorem hammingSyndrome_checkBit : hammingSyndrome m r d (c ^^^ 2 ^ i) = hammingSyndrome m r d c ^^^ (2 ^ i % 2 ^ (r - 1)) := by
  simp only [hammingSyndrome, Nat.xor_mod_two_pow, Nat.xor_assoc]

theorem hammingParity_checkBit (hi : i < r) : hammingParity m r d (c ^^^ 2 ^ i) = (hammingParity m r d c + 1) % 2 := by
  have := popCount_xor c (2 ^ i) r
  rw [popCount_two_pow, if_pos hi] at this
  simp only [hammingParity]
  omega

theorem popCount_zero (n : Nat) : popCount 0 n = 0 := by
  induction n with
  | zero => rfl
  | succ n ih => simp [popCount_succ, ih]

theorem popCount_allOnes (n k : Nat) (h : k ≤ n) : popCount (2 ^ n - 1) k = k := by
  induction k with
  | zero => rfl
  | succ k ih => rw [popCount_succ, ih (by omega), Nat.testBit_two_pow_sub_one]; simp; omega

theorem positionXor_zero (ps : List Nat) (i : Nat) : positionXor 0 ps i = 0 := by
  induction ps generalizing i with
  | nil => rfl
  | cons p ps ih => simp [positionXor, ih]

/-- The marker shows a syndrome that no single-bit error shows. -/
theorem hammingSyndrome_marker (m : Nat) (hr : 3 ≤ r) : hammingSyndrome m r 0 (2 ^ r - 1) = 2 ^ (r - 1) - 1 := by
  obtain ⟨k, rfl⟩ : ∃ k, r = k + 1 := ⟨r - 1, by omega⟩
  have := Nat.two_pow_pos k
  simp only [hammingSyndrome, positionXor_zero, Nat.zero_xor, Nat.add_sub_cancel, Nat.pow_succ]
  rw [show 2 ^ k * 2 - 1 = 2 ^ k - 1 + 2 ^ k by omega, Nat.add_mod_right, Nat.mod_eq_of_lt (by omega)]

/-- The poison codeword's parity is even, like that of no single-bit error. -/
theorem hammingParity_poison (hs : SecDed m r) : hammingParity m r (2 ^ m - 1) 0 = 0 := by
  simp [hammingParity, popCount_zero, popCount_allOnes m m (le_refl m), hs.even]

theorem two_pow_mod_ne (hr : 3 ≤ r) (hi : i < r) : 2 ^ i % 2 ^ (r - 1) ≠ 2 ^ (r - 1) - 1 := by
  obtain ⟨k, rfl⟩ : ∃ k, r = k + 3 := ⟨r - 3, by omega⟩
  have hk := Nat.two_pow_pos k
  rw [show k + 3 - 1 = k + 2 from rfl]
  intro h
  have hodd : 2 ^ i % 2 ^ (k + 2) % 2 = 1 := by rw [h, Nat.pow_succ]; omega
  rw [Nat.mod_mod_of_dvd _ (show 2 ∣ 2 ^ (k + 2) from Dvd.intro_left (2 ^ (k + 1)) rfl)] at hodd
  cases i with
  | zero => rw [Nat.mod_eq_of_lt (by rw [Nat.pow_add]; omega)] at h; rw [Nat.pow_add] at h; omega
  | succ i => rw [Nat.pow_succ] at hodd; omega

/-- A codeword that is neither marker nor poison reads by its syndrome and parity. -/
theorem hammingRead_eq (hmarker : ¬ (d = 0 ∧ c = 2 ^ r - 1)) (hpoison : ¬ (d = 2 ^ m - 1 ∧ c = 0)) :
    hammingRead m r d c =
      let s := hammingSyndrome m r d c
      let odd := hammingParity m r d c
      let raw := s + 2 ^ (r - 1) * odd
      if odd = 0 then (if s = 0 then .clean d else .bad 0 raw)
      else if s = 0 ∨ s = 2 ^ Nat.log2 s then .corrected d 1 raw
      else match (dataPositions m).findIdx? (· = s) with
        | some i => .corrected (d ^^^ 2 ^ i) 0 raw
        | none => .bad 1 raw := by
  simp only [hammingRead, hmarker, hpoison, if_false]
  rfl

theorem hammingRead_of_valid (hs : SecDed m r) (hsyn : hammingSyndrome m r d c = 0) (hpar : hammingParity m r d c = 0) :
    hammingRead m r d c = .clean d := by
  rw [hammingRead_eq, hsyn, hpar]
  · rfl
  · rintro ⟨rfl, rfl⟩
    rw [hammingSyndrome_marker m hs.wide] at hsyn
    have := Nat.pow_le_pow_right (n := 2) (by decide) (show 2 ≤ r - 1 by have := hs.wide; omega)
    omega
  · rintro ⟨rfl, rfl⟩
    exact hs.poison hsyn

/-- A codeword of odd parity whose syndrome is not the marker's is corrected. -/
theorem hammingRead_odd (hs : SecDed m r) (hsyn : hammingSyndrome m r d c ≠ 2 ^ (r - 1) - 1) (hpar : hammingParity m r d c = 1) :
    hammingRead m r d c =
      let s := hammingSyndrome m r d c
      let raw := s + 2 ^ (r - 1)
      if s = 0 ∨ s = 2 ^ Nat.log2 s then .corrected d 1 raw
      else match (dataPositions m).findIdx? (· = s) with
        | some i => .corrected (d ^^^ 2 ^ i) 0 raw
        | none => .bad 1 raw := by
  rw [hammingRead_eq, hpar]
  · simp only [Nat.mul_one]
    rfl
  · rintro ⟨rfl, rfl⟩
    exact hsyn (hammingSyndrome_marker m hs.wide)
  · rintro ⟨rfl, rfl⟩
    rw [hammingParity_poison hs] at hpar
    cases hpar

theorem dataPositions_nodup (m : Nat) : (dataPositions m).Nodup :=
  (List.nodup_range.filter _).sublist (List.take_sublist _ _)

theorem of_mem_dataPositions {p : Nat} (h : p ∈ dataPositions m) : p ≠ 0 ∧ p ≠ 2 ^ Nat.log2 p := by
  have := (List.mem_filter.mp (List.mem_of_mem_take h)).2
  simpa using this

theorem findIdx?_dataPositions (h : i < (dataPositions m).length) :
    (dataPositions m).findIdx? (· = (dataPositions m)[i]) = some i := by
  rw [List.findIdx?_eq_some_iff_getElem]
  refine ⟨h, by simp, fun j hj => ?_⟩
  simpa using fun heq => (Nat.ne_of_lt hj) ((dataPositions_nodup m).getElem_inj_iff.mp heq)

/-- The code corrects a single-bit error in the data (R408). -/
theorem hammingRead_dataError (hs : SecDed m r) (hi : i < m) :
    ∃ raw, hammingRead m r (d ^^^ 2 ^ i) (hammingCheck m r d) = .corrected d 0 raw := by
  have hlen : i < (dataPositions m).length := hs.positions.symm ▸ hi
  have hmem := List.getElem_mem hlen
  have hsyn : hammingSyndrome m r (d ^^^ 2 ^ i) (hammingCheck m r d) = (dataPositions m)[i] := by
    rw [hammingSyndrome_data hs hi, hammingSyndrome_check, Nat.zero_xor]
  have hpar : hammingParity m r (d ^^^ 2 ^ i) (hammingCheck m r d) = 1 := by
    rw [hammingParity_data hi, hammingParity_check hs]
  rw [hammingRead_odd hs (hsyn ▸ Nat.ne_of_lt (hs.below _ hmem)) hpar, hsyn]
  simp only [(of_mem_dataPositions hmem).1, (of_mem_dataPositions hmem).2, or_false, if_false, findIdx?_dataPositions hlen,
    Nat.xor_assoc, Nat.xor_self, Nat.xor_zero]
  exact ⟨_, rfl⟩

/-- The code finds a single-bit error in the check bits (R408). -/
theorem hammingRead_checkError (hs : SecDed m r) (hi : i < r) :
    ∃ raw, hammingRead m r d (hammingCheck m r d ^^^ 2 ^ i) = .corrected d 1 raw := by
  have hsyn : hammingSyndrome m r d (hammingCheck m r d ^^^ 2 ^ i) = 2 ^ i % 2 ^ (r - 1) := by
    rw [hammingSyndrome_checkBit, hammingSyndrome_check, Nat.zero_xor]
  have hpar : hammingParity m r d (hammingCheck m r d ^^^ 2 ^ i) = 1 := by
    rw [hammingParity_checkBit hi, hammingParity_check hs]
  have hone : 2 ^ i % 2 ^ (r - 1) = 0 ∨ 2 ^ i % 2 ^ (r - 1) = 2 ^ Nat.log2 (2 ^ i % 2 ^ (r - 1)) := by
    by_cases hlast : i < r - 1
    · right; rw [Nat.mod_eq_of_lt (Nat.pow_lt_pow_right (by decide) hlast), Nat.log2_two_pow]
    · left; rw [show i = r - 1 by omega, Nat.mod_self]
  rw [hammingRead_odd hs (hsyn ▸ two_pow_mod_ne hs.wide hi) hpar, hsyn]
  simp only [if_pos hone]
  exact ⟨_, rfl⟩

end

/-! ### Codewords of a store -/

theorem rawPut_length (c : Codec) (d chk : Nat) : (leBytes d c.n ++ leBytes chk c.k).length = c.n + c.k := by simp

/-- What a write of a codeword stores reads back. -/
theorem rawGet_rawPut_same {c : Codec} {m : List Host.Cell} (h : storeOk c m = true) (hc : c.r ≤ 8 * c.k) (i d chk : Nat) :
    rawGet (rawPut m c i d chk) c i = (d % 2 ^ (8 * c.n), chk % 2 ^ c.r) := by
  have hbytes (b : Nat) (hb : b < c.n + c.k) : cellRead (rawPut m c i d chk) c ((c.n + c.k) * i + b)
      = (leBytes d c.n ++ leBytes (chk % 2 ^ c.r) c.k)[b]'(by simpa using hb) :=
    cellRead_cellsWrite_inside c _ m _ b h (by simpa using hb)
  have hdata : (List.range c.n).map (fun b => cellRead (rawPut m c i d chk) c ((c.n + c.k) * i + b)) = leBytes d c.n := by
    refine List.ext_getElem (by simp) fun b h1 h2 => ?_
    have hb : b < c.n := by simpa using h1
    rw [List.getElem_map, List.getElem_range, hbytes b (by omega), List.getElem_append_left (by simpa using hb)]
  have hcheck : (List.range c.k).map (fun b => cellRead (rawPut m c i d chk) c ((c.n + c.k) * i + c.n + b))
      = leBytes (chk % 2 ^ c.r) c.k := by
    refine List.ext_getElem (by simp) fun b h1 h2 => ?_
    have hb : b < c.k := by simpa using h1
    rw [List.getElem_map, List.getElem_range, Nat.add_assoc, hbytes (c.n + b) (by omega), List.getElem_append_right (by simp)]
    simp
  have hfit : chk % 2 ^ c.r < 2 ^ (8 * c.k) :=
    Nat.lt_of_lt_of_le (Nat.mod_lt _ (Nat.two_pow_pos _)) (Nat.pow_le_pow_right (by decide) hc)
  simp only [rawGet, hdata, hcheck, leNat_leBytes, Nat.mod_eq_of_lt hfit]

/-- Every other codeword is as before. -/
theorem rawGet_rawPut_ne {c : Codec} {m : List Host.Cell} (h : storeOk c m = true) {i j : Nat} (hij : j ≠ i) (d chk : Nat) :
    rawGet (rawPut m c i d chk) c j = rawGet m c j := by
  have hbytes (b : Nat) (hb : b < c.n + c.k) :
      cellRead (rawPut m c i d chk) c ((c.n + c.k) * j + b) = cellRead m c ((c.n + c.k) * j + b) := by
    refine cellRead_cellsWrite_outside c _ m _ _ h ?_
    rw [List.length_append, leBytes_length, leBytes_length]
    rcases Nat.lt_or_gt_of_ne hij with hlt | hlt
    · left
      calc (c.n + c.k) * j + b < (c.n + c.k) * (j + 1) := by rw [Nat.mul_succ]; omega
        _ ≤ (c.n + c.k) * i := Nat.mul_le_mul_left _ hlt
    · right
      calc (c.n + c.k) * i + (c.n + c.k) = (c.n + c.k) * (i + 1) := by rw [Nat.mul_succ]
        _ ≤ (c.n + c.k) * j := Nat.mul_le_mul_left _ hlt
        _ ≤ _ := Nat.le_add_right _ _
  simp only [rawGet]
  congr 2
  · exact List.map_congr_left fun b hb => hbytes b (by have := List.mem_range.mp hb; omega)
  · refine List.map_congr_left fun b hb => ?_
    rw [Nat.add_assoc]
    exact hbytes _ (by have := List.mem_range.mp hb; omega)

/-- Every other word of the store reads as before (R8). -/
theorem wordRead_wordWrite_ne {c : Codec} {m : List Host.Cell} (h : storeOk c m = true) {i j : Nat} (hij : j ≠ i) (d : Nat) :
    wordRead (wordWrite m c i d) c j = wordRead m c j := by
  simp only [wordRead, wordWrite, rawGet_rawPut_ne h hij]

theorem hammingCheck_lt (m r d : Nat) (hr : 3 ≤ r) : hammingCheck m r d < 2 ^ r := by
  obtain ⟨k, rfl⟩ : ∃ k, r = k + 1 := ⟨r - 1, by omega⟩
  simp only [hammingCheck, Nat.add_sub_cancel]
  generalize hx : positionXor d (dataPositions m) 0 % 2 ^ k = x
  have hlt : x < 2 ^ k := hx ▸ Nat.mod_lt _ (Nat.two_pow_pos k)
  have hb := Nat.mod_lt (popCount d m + popCount x k) (show 2 > 0 by decide)
  generalize (popCount d m + popCount x k) % 2 = b at hb ⊢
  rw [Nat.pow_succ]
  interval_cases b <;> omega

/-- A word written through a SEC-DED encoder reads back (R8, R408). -/
theorem wordRead_wordWrite_same {c : Codec} {m : List Host.Cell} (h : storeOk c m = true) (hc : c ∈ [shelfCodec, clmCodec, sramCodec])
    {i d : Nat} (hd : d < 2 ^ (8 * c.n)) : wordRead (wordWrite m c i d) c i = .clean d := by
  have hsec : SecDed (8 * c.n) c.r := by
    simp only [List.mem_cons, List.not_mem_nil, or_false] at hc
    obtain rfl | rfl | rfl := hc <;> exact secDed_of_mem (by decide)
  have hsize : c.r ≤ 8 * c.k ∧ c.r ≠ 32 := by
    simp only [List.mem_cons, List.not_mem_nil, or_false] at hc
    obtain rfl | rfl | rfl := hc <;> decide
  rw [wordRead, wordWrite, rawGet_rawPut_same h hsize.1]
  simp only [Codec.check, Codec.encode, hsize.2, if_false, Nat.mod_eq_of_lt hd, Nat.mod_eq_of_lt (hammingCheck_lt _ _ _ hsec.wide)]
  exact hammingRead_of_valid hsec (hammingSyndrome_check _ _ _) (hammingParity_check hsec d)

/-- Settles O60: the syndrome of a valid codeword is 0, a single-bit error shows its own position and turns the parity, and neither
the marker nor poison shows what a single-bit error shows. -/
theorem codesAndCodedStores : Obligations.CodesAndCodedStores := by
  refine ⟨fun d i m r hmr _ => ?_, fun m k k' d c _ hok => ⟨fun hc hd => wordRead_wordWrite_same hok hc hd,
    fun hk => wordRead_wordWrite_ne hok hk d⟩⟩
  have hs := secDed_of_mem hmr
  exact ⟨hammingRead_of_valid hs (hammingSyndrome_check m r d) (hammingParity_check hs d), hammingRead_dataError hs,
    hammingRead_checkError hs⟩

end Sys2Proof.Machine
end

section
/-! PROOF. Reset, bring-up and recovery (R365, R411, R428 to R440): O1, O2, O6, O8 and O9. -/

namespace Sys2Proof.Machine

/-- Settles O1: the two branches of `step`. -/
theorem stepTakesTheFrontCommand : Obligations.StepTakesTheFrontCommand := fun _ _ _ => ⟨rfl, rfl⟩

/-- What an empty store reads as does not depend on the codeword. -/
theorem rawGet_nil (c : Codec) (i : Nat) : rawGet [] c i = rawGet [] c 0 := by
  simp [rawGet, cellRead, look, find, Codec.unlisted, Nat.add_assoc]

/-- Codewords whose data bits are 0 and whose check bits are all ones are the marker under either code. -/
theorem Codec.check_marker (c : Codec) : c.check 0 (2 ^ c.r - 1) = .marker := by
  unfold Codec.check
  split
  · next h => rw [h]; rfl
  · exact if_pos ⟨rfl, rfl⟩

theorem wordRead_nil {c : Codec} (h : rawGet [] c 0 = (0, 2 ^ c.r - 1)) (a : Nat) : wordRead [] c a = .marker := by
  unfold wordRead
  rw [rawGet_nil, h]
  exact c.check_marker

/-- Settles O2: the reset state's fields. -/
theorem resetLeaves : Obligations.ResetLeaves := by
  refine ⟨rfl, rfl, fun _ => rfl, rfl, rfl, rfl, rfl, fun _ => rfl, rfl, ?shelf, ?dram, ?canonical⟩
  case shelf => exact wordRead_nil (c := shelfCodec) (by decide)
  case dram => exact wordRead_nil (c := vaultCodec) (by decide)
  case canonical => exact ⟨rfl, fun _ => ⟨rfl, rfl⟩⟩

/-! ### Module reset ends (R428, R458) -/

theorem imageCheck_congr {s t : State} (h : t.fuses = s.fuses) (img : List Byte) (n : Nat) : imageCheck t img n = imageCheck s img n := by
  unfold imageCheck; simp only [h]

theorem slotCheck_congr {s t : State} (hf : t.flash = s.flash) (hu : t.fuses = s.fuses) (b : Bool) : slotCheck t b = slotCheck s b := by
  unfold slotCheck slotOf; simp only [hf, imageCheck_congr hu]

/-- The ROM stage runs the preferred slot where it passes, else the other; with neither it is in RECOVERY. -/
theorem romStage_boot (s : State) :
    (romStage s).beat = s.beat ∧ (romStage s).sup = s.sup ∧ (romStage s).flash = s.flash
      ∧ (romStage s).boot.legacy = s.boot.legacy ∧ (romStage s).boot.addrSel = s.boot.addrSel
      ∧ (romStage s).boot.recBusy = s.boot.recBusy ∧ (romStage s).boot.recPassed = s.boot.recPassed
      ∧ (romStage s).boot.stageAt = now s
      ∧ (romStage s).boot.stage = (if slotCheck s s.flash.preferredB = 0 ∨ slotCheck s (!s.flash.preferredB) = 0 then 1 else 0xE)
      ∧ (slotCheck s s.flash.preferredB = 0 → (romStage s).boot.slotRun = if s.flash.preferredB then 2 else 1) := by
  have hc (b : Boot) (x : Bool) : slotCheck { s with boot := b } x = slotCheck s x := slotCheck_congr rfl rfl x
  simp only [romStage, noteFail, hc]
  by_cases hp : slotCheck s s.flash.preferredB = 0
  · simp [hp]
  · by_cases hq : slotCheck s (!s.flash.preferredB) = 0 <;> simp [hp, hq]

/-- Settles O6: the end of module reset through `romStage_boot`; the power input's events by their definitions. -/
theorem moduleResetEndsAndInputPower : Obligations.ModuleResetEndsAndInputPower := by
  intro s legacy addr
  refine ⟨fun hr ho hb => ?deassert, ⟨_, rfl, rfl, rfl, rfl, rfl, rfl, rfl⟩, fun h => onlyIf_on h, fun h => onlyIf_off h,
    fun h => onlyIf_on h, fun h => onlyIf_on (by simp [h])⟩
  case deassert =>
    refine ⟨_, onlyIf_on (by simp [hr, ho, hb]), ?_⟩
    generalize hu : loadCycles _ = u
    obtain ⟨h1, h2, -, h4, h5, -, -, -, h9, -⟩ := romStage_boot u
    have hfl : u.flash = s.flash := by subst hu; rfl
    have hc (x : Bool) : slotCheck u x = slotCheck s x := slotCheck_congr hfl (by subst hu; rfl) x
    simp only [hc, hfl] at h9
    refine ⟨by rw [h1]; subst hu; rfl, by rw [h2]; subst hu; rfl, by rw [h4]; subst hu; rfl, by rw [h5]; subst hu; rfl, ?_, ?_⟩
    · rw [h9]; split <;> simp
    · rw [h9]; split <;> simp_all

/-! ### Firmware recovery (R440) -/

theorem ofNat24_add_four (o : BitVec 24) : BitVec.ofNat 24 (o.toNat + 4) = o + 4 := by bv_omega

/-- A slot whose recorded length is n is checked as its first n bytes. -/
theorem slotCheck_some {s : State} {b : Bool} {n : Nat} (h : (slotOf s b).len = some n) :
    slotCheck s b = imageCheck s ((slotOf s b).image n) n := by
  unfold slotCheck; simp only [h]

/-- A check that passes marks slot A preferred and restarts the ROM stage, which runs it. -/
theorem recoveryCheck_passed {s : State}
    (h : imageCheck s ((slotOf s false).image s.boot.recBytes.toNat) s.boot.recBytes.toNat = 0) :
    let t := recoveryCheck s
    t.boot.recBusy = s.boot.recBusy ∧ t.boot.recPassed = true ∧ t.flash.preferredB = false ∧ t.boot.stage = 1 ∧ t.boot.slotRun = 1
      ∧ t.boot.stageAt = now s ∧ t.beat = s.beat := by
  intro t
  have ht : t = recoveryCheck s := rfl
  unfold recoveryCheck at ht
  rw [if_pos h] at ht
  dsimp only [] at ht
  generalize hu : ({ beat := _, sup := _, boot := _, flash := _, fuses := _, .. } : State) = u at ht
  have hp : u.flash.preferredB = false := by subst hu; rfl
  have hc : slotCheck u u.flash.preferredB = 0 := by
    rw [hp, slotCheck_some (n := s.boot.recBytes.toNat) (by subst hu; rfl), imageCheck_congr (s := s) (by subst hu; rfl), ← h]
    subst hu; rfl
  obtain ⟨h1, -, h3, -, -, h6, h7, h8, h9, h10⟩ := romStage_boot u
  rw [ht]
  refine ⟨h6.trans (by subst hu; rfl), h7.trans (by subst hu; rfl), h3 ▸ hp, by rw [h9, if_pos (.inl hc)], by rw [h10 hc, hp]; rfl,
    h8.trans (by subst hu; rfl), h1.trans (by subst hu; rfl)⟩

theorem recoveryCheck_failed {s : State}
    (h : imageCheck s ((slotOf s false).image s.boot.recBytes.toNat) s.boot.recBytes.toNat ≠ 0) :
    recoveryCheck s = { s with boot := { s.boot with
      recFailed := true
      recCheck := BitVec.ofNat 8 (imageCheck s ((slotOf s false).image s.boot.recBytes.toNat) s.boot.recBytes.toNat) } } := if_neg h

theorem recoveryOperationDone_check {s : State} (hl : live s = true) (h : s.boot.recBusy = some .check) :
    exec .recoveryOperationDone s = .next (recoveryCheck { s with boot := { s.boot with recBusy := none } }) := by
  change execRecoveryOperationDone s = _
  unfold execRecoveryOperationDone
  rw [h]
  exact onlyIf_on hl

/-- Settles O9: each operation by its definition; the check of slot A through `recoveryCheck_passed` and `recoveryCheck_failed`. -/
theorem firmwareRecovery : Obligations.FirmwareRecovery := by
  intro s data hr hs
  have hl : live s = true := live_of hr
  refine ⟨fun hb => ?idle, fun hb => ?erased, fun hb => ⟨fun hc => ?passed, fun hc => ?failed⟩⟩
  case idle =>
    have hi : (live s && recoveryIdle s) = true := by simp [hl, recoveryIdle, hs, hb]
    exact ⟨⟨_, onlyIf_on hi, rfl, rfl, rfl⟩, ⟨_, onlyIf_on hi, ofNat24_add_four _, rfl⟩, onlyIf_on hi⟩
  case erased =>
    change execRecoveryOperationDone s = _
    unfold execRecoveryOperationDone
    rw [hb]
    exact onlyIf_on hl
  case passed =>
    refine ⟨_, recoveryOperationDone_check hl hb, ?_⟩
    exact recoveryCheck_passed ((imageCheck_congr (s := s) rfl _ _).trans hc)
  case failed =>
    have hi := imageCheck_congr (s := s) (t := { s with boot := { s.boot with recBusy := none } }) rfl
      ((slotOf s false).image s.boot.recBytes.toNat) s.boot.recBytes.toNat
    have h := recoveryCheck_failed (s := { s with boot := { s.boot with recBusy := none } }) (hi.trans_ne hc)
    refine ⟨_, recoveryOperationDone_check hl hb, ?_⟩
    rw [h]
    exact ⟨rfl, rfl, congrArg (BitVec.ofNat 8) hi, rfl⟩

end Sys2Proof.Machine
end

section
/-! PROOF. The stages of bring-up (R429 to R438): O8. -/

namespace Sys2Proof.Machine

/-! ### Training (R432 to R435) -/

theorem autoRecord_training (s : State) (r : BitVec 256) :
    (autoRecord s r).boot.trainFull = s.boot.trainFull ∧ (autoRecord s r).flash.savedTraining = s.flash.savedTraining := by
  unfold autoRecord
  split
  · exact ⟨rfl, rfl⟩
  split
  · exact ⟨rfl, rfl⟩
  · dsimp only [curatorLog]
    split <;> exact ⟨rfl, rfl⟩

theorem autoRetire_training (s : State) (r : BitVec 256) :
    (autoRetire s r).boot.trainFull = s.boot.trainFull ∧ (autoRetire s r).flash.savedTraining = s.flash.savedTraining := by
  obtain ⟨h1, h2⟩ := autoRecord_training s r
  have h (x : BitVec 256) := autoRecord_training (autoRecord s r) x
  dsimp only [autoRetire, afterRecord]
  split
  · exact ⟨(h _).1.trans h1, (h _).2.trans h2⟩
  split
  · exact ⟨(h _).1.trans h1, (h _).2.trans h2⟩
  · exact ⟨h1, h2⟩

/-- The vaults whose settings the report or the flash says are to be trained in full. -/
theorem trainVaults_training (s : State) (r : TrainReport) (h : r.deadVaults = 0) :
    (trainVaults s r).boot.trainFull = (r.fullVaults ||| ~~~ s.flash.savedTraining)
      ∧ (trainVaults s r).flash.savedTraining = s.flash.savedTraining ||| (r.fullVaults ||| ~~~ s.flash.savedTraining) := by
  have hk (s : State) (b : BitVec 10 × BitVec 6) :
      (if pagesOfBank s b.1.toNat b.2.toNat = 0 then s else autoRetire s (vaultBankRecord b.1.toNat b.2.toNat)).boot.trainFull
          = s.boot.trainFull
        ∧ (if pagesOfBank s b.1.toNat b.2.toNat = 0 then s
            else autoRetire s (vaultBankRecord b.1.toNat b.2.toNat)).flash.savedTraining = s.flash.savedTraining := by
    split
    · exact ⟨rfl, rfl⟩
    · exact autoRetire_training _ _
  have hz (x : BitVec 16) : x &&& ~~~ (0 : BitVec 16) = x := BitVec.and_allOnes
  unfold trainVaults
  rw [h]
  dsimp only
  simp only [hz]
  exact ⟨foldl_field (·.boot.trainFull) _ (fun s b => (hk s b).1) _ _, foldl_field (·.flash.savedTraining) _ (fun s b => (hk s b).2) _ _⟩

theorem badLanes_congr {s t : State} (h : t.fuses = s.fuses) (r : TrainReport) : badLanes t r = badLanes s r := by
  unfold badLanes; rw [h]

/-- The marking of the mesh links changes wings alone. -/
theorem trainLinks_keeps (s : State) (r : TrainReport) :
    (trainLinks s r).boot = { s.boot with laneSpares := (badLanes s r).filter fun b => b.2.2.length ≤ 4
                                          wireSpares := (badWires s r).filter fun l => l.2.2.length ≤ 2 }
      ∧ (trainLinks s r).flash = s.flash := by
  dsimp only [trainLinks]
  exact ⟨foldl_field State.boot _ (by intros; rfl) _ _, foldl_field State.flash _ (by intros; rfl) _ _⟩

/-- No bridge has more failing lanes than its spares: all are steered. -/
theorem badLanes_steered {s : State} {r : TrainReport} (h : badBridge s r = none) :
    ((badLanes s r).filter fun b => b.2.2.length ≤ 4) = badLanes s r := by
  unfold badBridge at h
  rw [Option.map_eq_none_iff, List.find?_eq_none] at h
  refine List.filter_eq_self.mpr fun b hb => ?_
  have := h b hb
  simp only [decide_eq_true_eq, not_lt] at this ⊢
  exact this

/-! ### The stages -/

theorem stageIs_valid {s : State} {a b : Nat} (h : stageIs s a b = true) : s.boot.valid = false := by
  simp only [stageIs, Bool.and_eq_true, Bool.not_eq_true'] at h
  exact h.1.2

/-- The first element with a result is the one whose result the search finds. -/
theorem findSome_of_find {α β : Type} {g : α → Option β} {l : List α} {a : α} {b : β}
    (h : l.find? (fun x => (g x).isSome) = some a) (hb : g a = some b) : l.findSome? g = some b := by
  induction l with
  | nil => cases h
  | cons x l ih =>
    rw [List.find?_cons] at h
    cases hx : g x with
    | none => rw [hx] at h; rw [List.findSome?_cons, hx]; exact ih h
    | some y =>
      rw [hx] at h
      cases h
      rw [List.findSome?_cons, hb]

theorem range16_find_zero : (List.range 16).find? (fun v => (0 : BitVec 16).getLsbD v) = none := by decide

/-- The state after TRAIN, before a dead bridge or vault ends bring-up. -/
def trained (s : State) (r : TrainReport) : State :=
  trainLinks (trainVaults { enterStage s 3 with
    boot := { (enterStage s 3).boot with training := some (now s + 12500, r.channels) } } r) r

/-- STAGE_TRAIN where every bridge and vault trains. -/
theorem trained_eq {s : State} {r : TrainReport} (hb : badBridge s r = none) (hd : r.deadVaults = 0) :
    let t := trained s r
    t.boot.stage = 3 ∧ t.boot.valid = s.boot.valid ∧ t.boot.laneSpares = badLanes s r
      ∧ t.boot.trainFull = (r.fullVaults ||| ~~~ s.flash.savedTraining) ∧ t.flash.savedTraining = s.flash.savedTraining ||| t.boot.trainFull := by
  intro t
  have ht : t = trained s r := rfl
  unfold trained at ht
  generalize hu : ({ enterStage s 3 with boot := _ } : State) = u at ht
  have hv := trainVaults_keepsParts u r
  obtain ⟨hf, hs⟩ := trainVaults_training u r hd
  have hl : badLanes (trainVaults u r) r = badLanes s r :=
    (badLanes_congr (trainVaults_calm u r).2.2.1 r).trans (badLanes_congr (by subst hu; rfl) r)
  obtain ⟨k1, k2⟩ := trainLinks_keeps (trainVaults u r) r
  have hus : u.flash = s.flash := by subst hu; rfl
  rw [ht, k1, k2]
  refine ⟨hv.1.trans (by subst hu; rfl), hv.2.trans (by subst hu; rfl), ?_, ?_, ?_⟩
  · exact (congrArg (List.filter _) hl).trans (badLanes_steered hb)
  · exact hf.trans (by rw [hus])
  · exact hs.trans (by rw [hus]; exact congrArg _ (hf.trans (by rw [hus])).symm)

theorem stageTrain_ends (s : State) (r : TrainReport) (h : stageIs s 2 60000 = true) (hc : coldHeld s = false) :
    exec (.stageTrain r) s = .next (match badBridge s r with
      | some i => endBringup (trained s r) 1 i
      | none => match (List.range 16).find? fun v => r.deadVaults.getLsbD v with
        | some v => endBringup (trained s r) 2 v
        | none => trained s r) := onlyIf_on (by simp [h, hc])

/-- STAGE_RAILS: every wing runs at k = 4, unless only the plinth rails come up. -/
theorem stageRails_eq (s : State) (h : stageIs s 1 125000000 = true) (hs : s.boot.slotRun ≠ 0) :
    ∃ t, exec .stageRails s = .next t ∧ t.boot.stage = 2
      ∧ (coldHeld s = false → ∀ w, w < 128 → (wingOf t w).k = 4 ∧ (wingOf t w).railOn = true)
      ∧ (coldHeld s = true → t.wings = s.wings) := by
  refine ⟨_, onlyIf_on (by simpa [h] using hs), ?_⟩
  by_cases hc : coldHeld s = true
  · rw [if_pos hc]
    exact ⟨rfl, fun h => absurd hc (by rw [h]; decide), fun _ => rfl⟩
  · rw [if_neg hc]
    refine ⟨foldl_field (·.boot.stage) _ (by intros; rfl) _ _, fun _ w hw => ?_, fun h => absurd h hc⟩
    rw [wings_on _ _ _ (List.mem_range.mpr hw)]
    exact ⟨rfl, rfl⟩

/-- STAGE_TRAIN: all bridges and vaults train, or the first dead one ends bring-up. -/
theorem stageTrain_eq (s : State) (r : TrainReport) (h : stageIs s 2 60000 = true) (hc : coldHeld s = false) :
    ∃ t, exec (.stageTrain r) s = .next t
      ∧ (badBridge s r = none → r.deadVaults = 0 → t.boot.stage = 3 ∧ t.boot.valid = false ∧ t.boot.laneSpares = badLanes s r
          ∧ t.boot.trainFull = (r.fullVaults ||| ~~~ s.flash.savedTraining)
          ∧ t.flash.savedTraining = s.flash.savedTraining ||| t.boot.trainFull)
      ∧ (∀ i, badBridge s r = some i → t.endedBringup 1 i)
      ∧ (∀ v, badBridge s r = none → (List.range 16).find? (fun v => r.deadVaults.getLsbD v) = some v → t.endedBringup 2 v) := by
  refine ⟨_, stageTrain_ends s r h hc, fun hb hd => ?good, fun i hb => ?bridge, fun v hb hv => ?vault⟩
  case good =>
    rw [hb, hd, range16_find_zero]
    obtain ⟨h1, h2, h3⟩ := trained_eq hb hd
    exact ⟨h1, h2.trans (stageIs_valid h), h3⟩
  case bridge => rw [hb]; exact endBringup_ended _ _ _
  case vault => rw [hb, hv]; exact endBringup_ended _ _ _

/-- STAGE_TEST: the first failing unit that bring-up needs ends it. -/
theorem stageTest_eq (s : State) (fails : List SelfTestFail) (h : stageIs s 3 125000000 = true) (ht : s.boot.training = none) :
    ∃ t, exec (.stageTest fails) s = .next t
      ∧ ((∀ f ∈ fails, f.ends = none) → t.boot.stage = 4 ∧ t.boot.valid = false)
      ∧ (∀ f i, fails.find? (fun f => f.ends.isSome) = some f → f.ends = some i → t.endedBringup 5 i) := by
  refine ⟨_, onlyIf_on (by simp [h, ht]), ?_⟩
  obtain ⟨k, e⟩ := testFold fails (enterStage s 4, none)
  generalize List.foldl _ (enterStage s 4, none) fails = x at k e
  rw [if_neg (by simp)] at e
  refine ⟨fun hn => ?_, fun f i hf hi => ?_⟩
  · rw [e.trans (List.findSome?_eq_none_iff.mpr hn)]
    exact ⟨k.1, k.2.trans (stageIs_valid h : s.boot.valid = false)⟩
  · rw [e.trans (findSome_of_find hf hi)]
    exact endBringup_ended _ _ _

theorem retireOverfull_fuses (s : State) : (retireOverfull s).fuses = s.fuses :=
  foldl_field State.fuses _ (fun s r => by
    split
    · exact (afterRecord_calm s r).2.2.1
    · rfl) _ _

/-- STAGE_REPAIR: the sites of every vault and the ways of every slice suffice, or the first that do not end bring-up. -/
theorem stageRepair_eq (s : State) (h : stageIs s 4 250000 = true) :
    ∃ t, exec .stageRepair s = .next t
      ∧ ((∀ v, v < 16 → (badCsvSites s v).length ≤ 4) → (∀ i ∈ recordedSlices s, (badWays s i).length ≤ 2) →
          t.boot.stage = 5 ∧ t.boot.valid = false)
      ∧ (∀ v, (List.range 16).find? (fun v => 4 < (badCsvSites s v).length) = some v → t.endedBringup 3 v)
      ∧ (∀ i, (∀ v, v < 16 → (badCsvSites s v).length ≤ 4) →
          (recordedSlices s).find? (fun i => 2 < (badWays s i).length) = some i → t.endedBringup 4 i) := by
  refine ⟨_, onlyIf_on h, ?_⟩
  obtain ⟨w1, w2, w3, w4, w5⟩ := retireOverfull_keepsWays (enterStage s 5)
  have wf := retireOverfull_fuses (enterStage s 5)
  generalize retireOverfull (enterStage s 5) = r at w1 w2 w3 w4 w5 wf
  obtain ⟨a1, -, a3, a4, a5, a6⟩ := assignAll r
  have hc (v : Nat) : badCsvSites r v = badCsvSites s v := by
    unfold badCsvSites vaultOf; rw [wf, w1]; rfl
  simp only [hc] at a6
  generalize assignAllSites r = x at a1 a3 a4 a5 a6
  obtain ⟨r1, r2⟩ := recorded_congr a3 a4 (congrArg Boot.marks a5)
  have hw : (assignWays x.1).1 = (recordedSlices s).find? fun i => 2 < (badWays s i).length := by
    have hs : recordedSlices (enterStage s 5) = recordedSlices s := rfl
    have hb (i : Nat) : badWays (enterStage s 5) i = badWays s i := rfl
    show (recordedSlices x.1).find? (fun i => 2 < (badWays x.1 i).length) = _
    rw [r1, w4, hs]
    simp only [r2, w5, hb]
  have k : KeepsParts (assignWays x.1).2 r := (assignWays_keepsParts x.1).trans a1
  generalize assignWays x.1 = y at hw k
  unfold endRepair
  have hn (h4 : ∀ v, v < 16 → (badCsvSites s v).length ≤ 4) : x.2 = none := by
    rw [a6, List.find?_eq_none]
    intro v hv
    simpa using h4 v (List.mem_range.mp hv)
  refine ⟨fun h4 h2 => ?good, fun v hv => ?site, fun i h4 hi => ?way⟩
  case good =>
    have hy : y.1 = none := by
      rw [hw, List.find?_eq_none]
      intro i hi
      simpa using h2 i hi
    rw [hn h4, hy]
    have kb := (buildAll_keepsParts y.2).trans k
    exact ⟨kb.1.trans w2, (kb.2.trans w3).trans (stageIs_valid h : s.boot.valid = false)⟩
  case site => rw [a6.trans hv]; exact endBringup_ended _ _ _
  case way => rw [hn h4, hw.trans hi]; exact endBringup_ended _ _ _

theorem domOn_of_listed {t : State} {l : List Nat} {P : Nat} (h : t.csvDoms = l.map fun P => (P, ⟨.on, 0⟩)) (hP : P ∈ l)
    (hl : l.Pairwise (· < ·)) : domOn t .conservator P = true :=
  (domOn_csv t t.csvDoms P).trans (by rw [h, look_map_on l P hP hl]; rfl)

/-- STAGE_CSV: every conservator domain is on. -/
theorem stageCsv_eq (s : State) (h : stageIs s 6 2900000 = true) (hf : fillDone s = true) :
    ∃ t, exec .stageCsv s = .next t ∧ t.boot.stage = 7 ∧ ∀ P, P < 1024 → domOn t .conservator P = true := by
  obtain ⟨l, hl⟩ : ∃ l, l = List.range 1024 := ⟨_, rfl⟩
  have he : exec .stageCsv s = .next { enterStage s 7 with
      csvDoms := l.map fun P => (P, ⟨.on, 0⟩)
      vaults := (enterStage s 7).vaults.map fun v => (v.1, { v.2 with fillSpans := [] }) } :=
    hl ▸ onlyIf_on (by simp [h, hf])
  exact ⟨_, he, rfl, fun P hP => domOn_of_listed rfl (hl ▸ List.mem_range.mpr hP) (hl ▸ List.pairwise_lt_range)⟩

theorem legacyPart_off {s : State} (h : s.boot.legacy = false) : legacyPart s = s := if_neg (by simp [h])

/-- With LEGACY_SEL high partition 0 is committed with every port and wing. -/
theorem legacyPart_on {s : State} (h : s.boot.legacy = true) :
    (legacyPart s).boot.stage = s.boot.stage ∧ (legacyPart s).boot.valid = s.boot.valid
      ∧ (partOf (legacyPart s) 0).state = .committed ∧ (partOf (legacyPart s) 0).ports = 255
      ∧ (partOf (legacyPart s) 0).wings = BitVec.allOnes 128 := by
  unfold legacyPart
  rw [if_pos h]
  obtain ⟨h1, h2, h3⟩ := createPart_part s 0 255 255 0xFFFF 0xFFFF 1024 (BitVec.allOnes 128)
  have h0 := h3 0
  rw [if_pos rfl] at h0
  have hc (t : State) : partOf (commitPart t 0) 0
      = { partOf t 0 with state := .committed, vcCtlOn := (partOf t 0).vcCtl, waysOn := (partOf t 0).ways } := by
    simp only [commitPart, partOf_mapPart, if_true]
  rw [hc]
  exact ⟨h1, h2, rfl, by rw [h0]; rfl, by rw [h0]; rfl⟩

/-- STAGE_DONE: VALID is set, and the legacy partition is there unless the module is held cold. -/
theorem stageDone_eq (s : State) (h : stageIs s 7 250000 = true) :
    ∃ t, exec .stageDone s = .next t ∧ t.boot.stage = 8 ∧ t.boot.valid = true
      ∧ (s.boot.legacy = false → t.parts = s.parts)
      ∧ (s.boot.legacy = true → coldHeld s = false → (partOf t 0).state = .committed ∧ (partOf t 0).ports = 255
          ∧ (partOf t 0).wings = BitVec.allOnes 128) := by
  refine ⟨_, onlyIf_on (by simp [h]), ?_⟩
  split
  · next hc => exact ⟨rfl, rfl, fun _ => rfl, fun _ hn => absurd hc (by simp [hn])⟩
  dsimp only
  generalize hu : ({ beat := (allOff (enterStage s 8)).beat, .. } : State) = u
  have hl : u.boot.legacy = s.boot.legacy := by subst hu; rfl
  cases h : s.boot.legacy with
  | false =>
    rw [legacyPart_off (hl.trans h)]
    subst hu
    exact ⟨rfl, rfl, fun _ => rfl, fun h => by cases h⟩
  | true =>
    obtain ⟨h1, h2, h3⟩ := legacyPart_on (hl.trans h)
    exact ⟨h1.trans (by subst hu; rfl), h2.trans (by subst hu; rfl), by simp, fun _ _ => h3⟩

theorem stageDone_cold (s : State) (h : stageIs s 2 60000 = true) (hc : coldHeld s = true) :
    ∃ t, exec .stageDone s = .next t ∧ t.boot.stage = 8 ∧ t.boot.valid = true ∧ t.parts = s.parts := by
  refine ⟨_, onlyIf_on (by simp [h, hc]), ?_⟩
  rw [if_pos hc]
  exact ⟨rfl, rfl, rfl⟩

/-- Settles O8: a lemma for each stage. -/
theorem bringupStages : Obligations.BringupStages := fun s fails report =>
  ⟨stageRails_eq s, stageTrain_eq s report, stageTest_eq s fails, stageRepair_eq s, fun h => ⟨_, onlyIf_on h, rfl, rfl, rfl, rfl⟩,
    stageCsv_eq s, stageDone_eq s, stageDone_cold s⟩

end Sys2Proof.Machine
end

section
/-! PROOF. The beat (R30) and the reset domains (R311, R369, R403, R430, R442 to R449): O7, O10, O11 and O12. -/

namespace Sys2Proof.Machine

/-- The work of a beat after the counter has moved leaves the counter, the stores and the fuses; channel training alone may write the
flash. -/
theorem beatWork_keeps (s : State) :
    let t := evaluateAlert (startNext (dropWrites (settleHalts (meterCsvs (pauseScrubs (fillAll (endTraining s)))))))
    t.beat = s.beat ∧ t.shelf = s.shelf ∧ t.clm = s.clm ∧ t.dram = s.dram ∧ t.fuses = s.fuses
      ∧ (s.boot.training = none → t.flash = s.flash) := by
  intro t
  have h : calmC t (endTraining s) := by
    have a := calmC_trans (settleHalts_calm _) (calmC_of (calm_trans (meterCsvs_calm _) (calm_trans (pauseScrubs_calm _) (fillAll_calm (endTraining s)))))
    exact calmC_trans (calmC_of (calm_trans (evaluateAlert_calm _) (calm_trans (startNext_calm _) (dropWrites_calm _)))) a
  obtain ⟨h1, -, h3, h4, h5, h6, h7, -, -⟩ := h
  obtain ⟨e1, -, e4, e5, e6, e7, -⟩ := endTraining_calm s
  refine ⟨h1.trans e1, h5.trans e5, h6.trans e6, h7.trans e7, h4.trans e4, fun hn => h3.trans ?_⟩
  unfold endTraining
  rw [hn]

theorem epochEvent_boot (s : State) : (epochEvent s).boot = s.boot := by
  unfold epochEvent
  split
  · rfl
  · dsimp only
    rw [(postEventAll_mild _ _ _ _).boot]

theorem meterCsv_boot (s : State) (P : Nat) : (meterCsv s P).boot = s.boot := by
  unfold meterCsv charge
  split
  · dsimp only
    split <;> rfl
  · rfl

theorem meterLate_boot (s : State) : (meterLate s).boot = s.boot := by
  refine foldl_field State.boot _ (fun t d => ?_) _ _
  split
  · exact meterCsv_boot _ _
  · rfl

/-- Settles O7: the tick through the lemmas that each of its parts keeps the stores. -/
theorem beatTickCounts : Obligations.BeatTickCounts := by
  intro s hr
  have hl : live s = true := live_of hr
  have he (h : s.beat ≠ BitVec.allOnes 64) : exec .beatTick s = onlyIf (live s && !beatOpen s) s
      (evaluateAlert (startNext (dropWrites (settleHalts (meterCsvs (pauseScrubs (fillAll (endTraining
        { meterLate (epochEvent s) with beat := (meterLate (epochEvent s)).beat + 1 }))))))) ) :=
    if_neg (by simpa using fun _ => h)
  refine ⟨fun ho hb => ?ticks, fun ho hb => ?open_, fun hb => ?last⟩
  case ticks =>
    refine ⟨_, (he hb).trans (onlyIf_on (by simp [hl, ho])), ?_⟩
    obtain ⟨a1, a2, a3, a4, a5, a6⟩ := beatWork_keeps { meterLate (epochEvent s) with beat := (meterLate (epochEvent s)).beat + 1 }
    obtain ⟨b1, -, b3, b4, b5, b6, b7, -⟩ := calm_trans (meterLate_calm _) (epochEvent_calm s)
    have hboot := congrArg Boot.training ((meterLate_boot _).trans (epochEvent_boot s))
    exact ⟨a1.trans (congrArg (· + 1) b1), a2.trans b5, a3.trans b6, a4.trans b7, a5.trans b4,
      fun hn => (a6 (hboot.trans hn)).trans b3⟩
  case open_ => exact (he hb).trans (onlyIf_off (by simp [ho]))
  case last => exact if_pos (by simp [hl, hb])

/-! ### Domain resets (R442, R443) -/

/-- A completion ring whose one entry is taken. -/
def fullRing : Ring := { type_ := 1, base := 0, log2 := 0, part := 0, cq := 0, vector := 0, tail := 1 }

/-- A state whose ring map lists key 0 twice: the full completion ring, and behind it an event ring of the same partition. -/
def doubledRing : State := { State.reset with
  sup := { State.reset.sup with inReset := false }
  parts := [(0, { state := .committed, ports := 1 })]
  rings := [(0, fullRing), (0, { fullRing with type_ := 2 })] }

theorem doubledRing_held : (find (resetFor doubledRing .hostPort 0 0).rings 0).map (·.held.length) = some 1 := by rfl

/-- Refutes O10: the statement ranges over every state, also one whose ring map lists a key twice. In `doubledRing` the event ring,
found by its type, makes port 0's reset post its DOMAIN_RESET event at key 0, which names the completion ring: that ring, which is
full, then holds the entry, where the statement says that it holds none. -/
theorem not_domainResets : ¬ Obligations.DomainResets := by
  intro h
  obtain ⟨hp, -⟩ := h doubledRing 0 0 0 0 rfl
  obtain ⟨t, ht, -, hl, -⟩ := hp (by decide)
  obtain ⟨-, -, -, -, -, -, -, -, -, -, hr, -⟩ := hl
  have hx : exec (.hostPortReset 0 0) doubledRing = .next (resetFor doubledRing .hostPort 0 0) := onlyIf_on rfl
  rw [hx] at ht
  injection ht with he
  have hc := doubledRing_held
  rw [he, hr 0 fullRing rfl rfl (by decide)] at hc
  exact absurd hc (by simp)

/-! ### Links and the end of a reset (R311, R369, R430, R442) -/

theorem resetFor_uncounted {s : State} {k : DomainKind} {i : Nat} (h : inDomainReset s (domCode k) i = false) :
    (resetFor s k i 9).resetBegan s k i 9 ∧ (resetFor s k i 9).esc.total = s.esc.total :=
  ⟨resetFor_began s k i 9 h, (resetFor_began s k i 9 h).2.2.2.2.1.1⟩

theorem railIsOn_switchRail (s : State) (r : Nat) (on : Bool) (q : Nat) :
    railIsOn (switchRail s r on) q = if q = r then on else railIsOn s q := by
  unfold railIsOn switchRail
  by_cases hq : q = r
  · subst hq
    by_cases h : q < 128 <;> simp [h]
  · by_cases h : r < 128
    · simp only [if_pos h, if_neg hq, wingOf_setWing]
      rfl
    · simp only [if_neg h, if_neg hq, look_put_ne _ _ _ _ _ hq]
      rfl

theorem railIsOn_switchAll (l : List Nat) (s : State) (q : Nat) :
    railIsOn (l.foldl (fun s r => switchRail s r true) s) q = if q ∈ l then true else railIsOn s q := by
  induction l generalizing s with
  | nil => simp
  | cons a l ih =>
    rw [List.foldl_cons, ih, railIsOn_switchRail]
    by_cases h1 : q ∈ l <;> by_cases h2 : q = a <;> simp [h1, h2]

/-- A reset's end switches on the rails that faults switched off in its domain, and no others. -/
theorem railIsOn_railsBack (s : State) (k : DomainKind) (i q : Nat) :
    railIsOn (railsBack s k i) q = if q ∈ s.sup.railsDown ∧ railDomain q = some (k, i) then true else railIsOn s q :=
  (railIsOn_switchAll _ _ _).trans (by simp only [List.mem_filter, decide_eq_true_eq])

theorem switchRail_keeps (s : State) (r : Nat) (on : Bool) :
    (switchRail s r on).resets = s.resets ∧ (switchRail s r on).sup.railsDown = s.sup.railsDown
      ∧ (switchRail s r on).beat = s.beat ∧ (switchRail s r on).power = s.power ∧ (switchRail s r on).boot = s.boot := by
  unfold switchRail
  split <;> exact ⟨rfl, rfl, rfl, rfl, rfl⟩

/-- The faulted rail is off and noted. -/
theorem dropRail_keeps (s : State) (r : Nat) :
    railIsOn (dropRail s r) r = false ∧ r ∈ (dropRail s r).sup.railsDown ∧ (dropRail s r).resets = s.resets
      ∧ now (dropRail s r) = now s ∧ (dropRail s r).power = s.power ∧ (dropRail s r).boot = s.boot := by
  obtain ⟨h1, -, h3, h4, h5⟩ := switchRail_keeps s r false
  exact ⟨(railIsOn_switchRail s r false r).trans (if_pos rfl), List.mem_append_right _ (List.mem_singleton.mpr rfl), h1,
    congrArg BitVec.toNat h3, h4, h5⟩

theorem railsBack_keeps (s : State) (k : DomainKind) (i : Nat) :
    (railsBack s k i).resets = s.resets
      ∧ (railsBack s k i).sup.railsDown = s.sup.railsDown.filter fun r => decide (railDomain r ≠ some (k, i)) := by
  have h (φ : State → List Nat × SMap Nat) (hφ : ∀ s r, φ (switchRail s r true) = φ s) (l : List Nat) (s : State) :
      φ (l.foldl (fun s r => switchRail s r true) s) = φ s := foldl_field φ _ hφ l s
  have hl := h (fun s => (s.sup.railsDown, s.resets)) (fun s r => by rw [(switchRail_keeps s r true).1, (switchRail_keeps s r true).2.1])
    (s.sup.railsDown.filter fun r => decide (railDomain r = some (k, i))) s
  rw [Prod.mk.injEq] at hl
  refine ⟨hl.2, ?_⟩
  simp only [railsBack, hl.1, decide_not]

/-- Settles O11: the resets by `resetFor_began`, the rails by `railIsOn_railsBack`. -/
theorem pcieResetsAndLinks : Obligations.PcieResetsAndLinks := by
  intro s port rate width flit kind index e hr
  have hl : live s = true := live_of hr
  refine ⟨fun hp => ⟨⟨_, onlyIf_on hl, resetFor_uncounted hp⟩, ⟨_, onlyIf_on hl, resetFor_uncounted hp⟩,
    ⟨_, onlyIf_on hl, resetFor_uncounted hp⟩, onlyIf_on (by simp [hl, hp])⟩, ⟨_, rfl, ?_, ?_⟩, fun hf he => ?ends⟩
  · simp
  · simp [hr]
  case ends =>
    have hx : exec (.domainResetEnd kind index) s
        = .next (railsBack { s with resets := drop s.resets (256 * domCode kind + index) } kind index) := by
      change execDomainResetEnd kind index s = _
      unfold execDomainResetEnd
      rw [hf]
      exact onlyIf_on (by simp [hl, he])
    obtain ⟨k1, k2⟩ := railsBack_keeps { s with resets := drop s.resets (256 * domCode kind + index) } kind index
    refine ⟨_, hx, k1, fun r hd hk => ?_, fun r hd => ?_, k2⟩
    · rw [railIsOn_railsBack, if_pos ⟨hd, hk⟩]
    · rw [railIsOn_railsBack, if_neg (by tauto)]
      rfl

/-! ### Rail shutdowns and faults (R369, R403, R449) -/

theorem look_putFalse (l : List Nat) (m : SMap Bool) (q : Nat) :
    look (l.foldl (fun m r => put m r false) m) q false = if q ∈ l then false else look m q false := by
  induction l generalizing m with
  | nil => simp
  | cons a l ih =>
    rw [List.foldl_cons, ih]
    by_cases h1 : q ∈ l
    · simp [h1]
    · by_cases h2 : q = a
      · simp [h2]
      · simp [h1, h2, look_put_ne _ _ _ _ _ h2]

theorem mem_coldRails (r : Nat) : r ∈ coldRails ↔ r < 144 ∨ (152 ≤ r ∧ r < 200) := by
  simp only [coldRails, List.mem_append, List.mem_range, List.mem_map]
  constructor
  · rintro (h | ⟨a, ha, rfl⟩)
    · exact .inl h
    · right; omega
  · rintro (h | ⟨h1, h2⟩)
    · exact .inl h
    · exact .inr ⟨r - 152, by omega, by omega⟩

/-- A cold shutdown switches off the wing, archive and vault rails, and empties the shelves and the vaults. -/
theorem coldShutdown_cold (s : State) : (coldShutdown s).railsCold s := by
  have hm := mem_coldRails
  unfold coldShutdown
  generalize coldRails = l at hm
  refine ⟨fun r _ => ?rails, rfl, rfl, rfl, fun w hw => ?wings⟩
  case rails =>
    refine (look_putFalse l s.sup.rails r).trans ?_
    simp only [hm]
  case wings =>
    obtain ⟨a, -, rfl⟩ := List.mem_map.mp hw
    rfl

/-- The curator's lost command leaves the wings and the power registers. -/
theorem respondWith_power (s : State) (r : Running) (a b : Nat) (l : SMap Word) :
    (respondWith s r a b l).wings = s.wings ∧ (respondWith s r a b l).power = s.power := by
  unfold respondWith
  dsimp only
  split
  · exact ⟨rfl, rfl⟩
  split
  · exact ⟨(raiseIbi_mild _ _).wings, (raiseIbi_mild _ _).power⟩
  · exact ⟨(sendVector_mild _ _ _).wings, (sendVector_mild _ _ _).power⟩

theorem loseCommand_power (s : State) : (loseCommand s).wings = s.wings ∧ (loseCommand s).power = s.power := by
  unfold loseCommand
  split
  · next r _ =>
    split
    · unfold endCommand
      refine ⟨(respondWith_power _ _ _ _ _).1.trans ?_, (respondWith_power _ _ _ _ _).2.trans ?_⟩ <;> (split <;> split <;> rfl)
    · obtain ⟨h1, h2⟩ := respondWith_power (undoCommand s r) r 5 0 []
      refine ⟨h1.trans ?_, h2.trans ?_⟩ <;> (unfold undoCommand; split <;> rfl)
  · exact ⟨rfl, rfl⟩

theorem loseStack_power (s : State) (i : Nat) : (loseStack s i).wings = s.wings ∧ (loseStack s i).power = s.power := by
  dsimp only [loseStack]
  exact ⟨foldl_field State.wings (fun s e => resetEngine s (6 * i + e)) (fun _ _ => rfl) _ _,
    foldl_field State.power (fun s e => resetEngine s (6 * i + e)) (fun _ _ => rfl) _ _⟩

theorem losePort_power (s : State) (i : Nat) : (losePort s i).wings = s.wings ∧ (losePort s i).power = s.power := by
  dsimp only [losePort]
  exact ⟨foldl_field State.wings (fun s (x : Nat × Nat) => mapPart s x.1 fun q => { q with rgsLost := satAdd q.rgsLost x.2 })
      (fun _ _ => rfl) _ _,
    foldl_field State.power (fun s (x : Nat × Nat) => mapPart s x.1 fun q => { q with rgsLost := satAdd q.rgsLost x.2 })
      (fun _ _ => rfl) _ _⟩

theorem loseDomain_power (s : State) (k : DomainKind) (i : Nat) :
    (loseDomain s k i).wings = s.wings ∧ (loseDomain s k i).power.railFaultFlag = s.power.railFaultFlag
      ∧ (loseDomain s k i).power.railFault = s.power.railFault := by
  have of {t : State} (h : t.wings = s.wings ∧ t.power = s.power) :
      t.wings = s.wings ∧ t.power.railFaultFlag = s.power.railFaultFlag ∧ t.power.railFault = s.power.railFault :=
    ⟨h.1, by rw [h.2], by rw [h.2]⟩
  cases k with
  | hostPort => exact of (losePort_power s i)
  | stack => exact of (loseStack_power s i)
  | vault => exact ⟨rfl, rfl, rfl⟩
  | curator =>
    obtain ⟨h1, h2⟩ := loseCommand_power s
    refine ⟨h1, ?_, ?_⟩
    · show (loseCommand s).power.railFaultFlag = _
      rw [h2]
    · show (loseCommand s).power.railFault = _
      rw [h2]

/-- A domain's reset leaves every rail, the rail fault bits and the alert bit of the rails. -/
theorem resetFor_rails {s : State} {k : DomainKind} {i : Nat} (cause : Nat) (h : inDomainReset s (domCode k) i = false) :
    let t := resetFor s k i cause
    (∀ r, railIsOn t r = railIsOn s r) ∧ t.sup = s.sup ∧ t.power.railFaultFlag = s.power.railFaultFlag
      ∧ t.power.railFault = s.power.railFault ∧ t.boot.alertRail = s.boot.alertRail := by
  intro t
  have hs : t.sup = s.sup := (resetFor_calm s k i cause).2.1
  obtain ⟨l1, l2, l3⟩ := loseDomain_power s k i
  have lb := (loseDomain_keeps s k i).2.2.1
  obtain ⟨e, b, hm, -⟩ := resetDomain_cases s k i cause (resetFault k i cause) h
  have hk : t.wings = (loseDomain s k i).wings ∧ t.power = (loseDomain s k i).power ∧ t.boot.alertRail = (loseDomain s k i).boot.alertRail := by
    rcases hm with ⟨-, m⟩ | ⟨-, rfl, m⟩
    · exact ⟨m.wings, m.power, (congrArg Boot.alertRail m.boot :)⟩
    · exact ⟨m.wings, m.power, (congrArg Boot.alertRail m.boot :)⟩
  obtain ⟨k1, k2, k3⟩ := hk
  refine ⟨fun r => ?_, hs, by rw [k2, l2], by rw [k2, l3], by rw [k3, lb]⟩
  unfold railIsOn wingOf
  rw [k1, l1, hs]

/-- Settles O12: the shutdowns by `coldShutdown_cold`, a rail's fault by `resetFor_began` and `resetFor_rails`. -/
theorem railShutdownsAndFaults : Obligations.RailShutdownsAndFaults := by
  intro s rail hr
  have hl : live s = true := live_of hr
  have hf : exec (.railFault rail) s = onlyIf (live s && railIsOn s rail.val) s (_ : State) := rfl
  refine ⟨fun h => ⟨_, onlyIf_on (by simp [hl, h]), coldShutdown_cold _, rfl⟩,
    fun h => ⟨_, onlyIf_on (by simp [hl, h]), coldShutdown_cold _, rfl⟩, fun k i ho hd hn => ?reset, fun ho hd => ?alwaysOn⟩
  case reset =>
    refine ⟨_, hf.trans (onlyIf_on (by simp [hl, ho])), ?_⟩
    rw [hd]
    dsimp only
    generalize hv : ({ s with power := _, boot := _ } : State) = v
    have hvk : v.resets = s.resets ∧ now v = now s ∧ v.power.railFaultFlag = true ∧ v.power.railFault = setBit s.power.railFault rail.val
        ∧ v.boot.alertRail = true := by
      subst hv
      exact ⟨rfl, rfl, rfl, rfl, by simp [Boot.alert]⟩
    obtain ⟨v1, v2, v3, v4, v5⟩ := hvk
    obtain ⟨d1, d2, d3, d4, d5, d6⟩ := dropRail_keeps v rail.val
    have hn' : inDomainReset (dropRail v rail.val) (domCode k) i = false := by
      unfold inDomainReset at hn ⊢
      rw [d3, v1, hn]
    obtain ⟨b1, -, -, b4, -⟩ := resetFor_began (dropRail v rail.val) k i 7 hn'
    obtain ⟨a1, a2, a3, a4, a5⟩ := resetFor_rails 7 hn'
    exact ⟨b1.trans (by rw [d4, v2]), (a1 _).trans d1, a2 ▸ d2, b4, a3.trans (by rw [d5, v3]), a4.trans (by rw [d5, v4]),
      a5.trans (by rw [d6, v5])⟩
  case alwaysOn =>
    refine ⟨_, hf.trans (onlyIf_on (by simp [hl, ho])), ?_⟩
    rw [hd]
    exact ⟨rfl, rfl, rfl, rfl⟩

end Sys2Proof.Machine
end

section
/-! PROOF. The sequencer's evaluation, commits and wakes (R29, R52 to R58, R371, R372, R382, R383): O13, O14 and O15. -/

namespace Sys2Proof.Machine

/-! ### Commands about a run -/

theorem withRun_some {s : State} {p : Nat} {r : RunCtx} {f : RunCtx → Option State} {t : State} (hl : live s = true)
    (h : (partOf s p).run = some r) (hf : f r = some t) : withRun s p f = .next t := by
  unfold withRun
  simp only [h, hf, onlyIf_on hl]

theorem withRun_none {s : State} {p : Nat} {r : RunCtx} {f : RunCtx → Option State} (h : (partOf s p).run = some r)
    (hf : f r = none) : withRun s p f = .next s := by
  unfold withRun
  simp only [h, hf]

theorem when'_on {c : Bool} (t : State) (h : c = true) : when' c t = some t := if_pos h

theorem when'_off {c : Bool} (t : State) (h : c = false) : when' c t = none := if_neg (by simp [h])

@[simp] theorem now_mapPart (s : State) (p : Nat) (f : Part → Part) : now (mapPart s p f) = now s := rfl

@[simp] theorem partOf_mapPart_same (s : State) (p : Nat) (f : Part → Part) : partOf (mapPart s p f) p = f (partOf s p) := by
  simp [mapPart]

@[simp] theorem partOf_withPower (s : State) (x : Power) (p : Nat) : partOf { s with power := x } p = partOf s p := rfl

/-! ### Commits (R53, R57, R383) -/

theorem le_roundUp (x : Nat) {m : Nat} (h : 0 < m) : x ≤ roundUp x m := by
  have := Nat.lt_div_mul_add (a := x + (m - 1)) h
  unfold roundUp
  omega

theorem roundUp_lt (x : Nat) {m : Nat} (h : 0 < m) : roundUp x m < x + m := by
  have := Nat.div_mul_le_self (x + (m - 1)) m
  unfold roundUp
  omega

theorem roundUp_mod (x m : Nat) : roundUp x m % m = 0 := Nat.mul_mod_left _ _

theorem le_foldl_max {l : List Nat} {a x : Nat} (h : x ∈ l ∨ x ≤ a) : x ≤ l.foldl max a := by
  induction l generalizing a with
  | nil => simpa using h
  | cons b l ih =>
    rw [List.foldl_cons]
    apply ih
    rcases h with h | h
    · rcases List.mem_cons.mp h with rfl | h
      · exact .inr (le_max_right _ _)
      · exact .inl h
    · exact .inr (le_trans h (le_max_left _ _))

/-- The beat at which a step committed at the present beat starts. -/
def startOf (s : State) (p : Nat) (e : EvalStep) (st : StepRec) (t : Nat) : Nat :=
  roundUp (max e.planned (now s + max 500 (64 + (st.wakes.map (entryWake s p t)).foldl max 0))) 4

/-- The live step of a commit at the present beat. -/
def liveOf (s : State) (p : Nat) (e : EvalStep) (st : StepRec) (t : Nat) (b : Tier) : LiveStep :=
  { index := e.index, tier := t, commit := now s, start := startOf s p e st t, planned := e.planned
    budgetWait := now s - e.gate.getD (now s), body := b, step := st }

theorem commitStep_run (s : State) (p : Nat) (r : RunCtx) (e : EvalStep) (st : StepRec) (t : Nat) (b : Tier) :
    (partOf (commitStep s p r e st t b) p).run = some { r with eval := none, next := some (liveOf s p e st t b) }
      ∧ (partOf (commitStep s p r e st t b) p).balances = (debit (partOf s p) b).balances
      ∧ (partOf (commitStep s p r e st t b) p).inBalance = (partOf s p).inBalance - uj b.total
      ∧ (partOf (commitStep s p r e st t b) p).gates = (partOf s p).gates := by
  unfold commitStep
  rw [partOf_withPower, partOf_mapPart_same]
  exact ⟨rfl, rfl, rfl, rfl⟩

theorem startOf_bounds (s : State) (p : Nat) (e : EvalStep) (st : StepRec) (t : Nat) :
    startOf s p e st t % 4 = 0 ∧ e.planned ≤ startOf s p e st t ∧ now s + 500 ≤ startOf s p e st t
      ∧ (∀ w ∈ st.wakes, now s + 64 + entryWake s p t w ≤ startOf s p e st t)
      ∧ startOf s p e st t < max e.planned (now s + max 500 (64 + (st.wakes.map (entryWake s p t)).foldl max 0)) + 4 := by
  have hw (w : WakeEntry) (h : w ∈ st.wakes) : entryWake s p t w ≤ (st.wakes.map (entryWake s p t)).foldl max 0 :=
    le_foldl_max (.inl (List.mem_map_of_mem h))
  have h1 := le_roundUp (max e.planned (now s + max 500 (64 + (st.wakes.map (entryWake s p t)).foldl max 0))) (m := 4) (by omega)
  refine ⟨roundUp_mod _ 4, ?_, ?_, fun w h => ?_, roundUp_lt _ (by omega)⟩
  · unfold startOf; omega
  · unfold startOf; omega
  · have := hw w h
    unfold startOf; omega

/-- Settles O14: the live step of a commit is `liveOf`. -/
theorem commitSetsTheStart : Obligations.CommitSetsTheStart := by
  intro s p g t r e st b hg
  obtain ⟨h1, h2, h3, -⟩ := commitStep_run s p r e st t b
  obtain ⟨b1, b2, b3, b4, b5⟩ := startOf_bounds s p e st t
  exact ⟨liveOf s p e st t b, h1, b1, b2, b3, b4, b5, rfl, rfl, rfl, rfl, by simp [liveOf, hg], h3, h2, rfl⟩

/-- A commit, after changes of the partition that leave its balances, commits as the obligations' shared form says. -/
theorem commitStep_commits {s u : State} {p : Nat} (r : RunCtx) (e : EvalStep) (st : StepRec) (t : Nat) (b : Tier) (hb : now u = now s)
    (hp : (partOf u p).balances = (partOf s p).balances) : (commitStep u p r e st t b).commits s p r e st t b := by
  obtain ⟨h1, h2, -, -⟩ := commitStep_run u p r e st t b
  obtain ⟨b1, b2, b3, -⟩ := startOf_bounds u p e st t
  rw [hb] at b3
  refine ⟨_, h1, rfl, rfl, rfl, rfl, hb, rfl, by simp only [liveOf, hb], b1, b2, b3, ?_⟩
  rw [h2]
  simp only [debit, hp]

/-! ### Evaluation (R52 to R56, R382) -/

/-- Taking the gate's count leaves what the governor reads but the gate counters. -/
theorem chosenTier_gates (x : Part) (g : SMap Nat) (b : Nat) (st : StepRec) :
    chosenTier (seenInputs { x with gates := g } b) st = chosenTier (seenInputs x b) st := by
  unfold seenInputs
  split <;> rfl

/-- The governor finds a tier that fits: the step is committed. -/
theorem tryBudget_commits {s : State} {p : Nat} (r : RunCtx) (e : EvalStep) {st : StepRec} {t : Nat} {b : Tier}
    (h : chosenTier (seenInputs (partOf s p) (now s)) st = some (t, b)) :
    (tryBudget s p r e st).commits s p r e st t b ∧ (partOf (tryBudget s p r e st) p).gates = (partOf s p).gates := by
  unfold tryBudget
  simp only [h]
  generalize hu : mapPart s p _ = u
  have hb : (partOf u p).balances = (partOf s p).balances ∧ (partOf u p).gates = (partOf s p).gates ∧ now u = now s := by
    subst hu
    rw [partOf_mapPart_same]
    exact ⟨rfl, rfl, rfl⟩
  exact ⟨commitStep_commits r e st t b hb.2.2 hb.1, (commitStep_run u p r e st t b).2.2.2.trans hb.2.1⟩

/-- No tier fits: the step is looked at again 256 beats later. -/
theorem tryBudget_waits {s : State} {p : Nat} (r : RunCtx) (e : EvalStep) {st : StepRec}
    (h : chosenTier (seenInputs (partOf s p) (now s)) st = none) :
    (partOf (tryBudget s p r e st) p).run = some { r with eval := some { e with at_ := now s + 256 } }
      ∧ (partOf (tryBudget s p r e st) p).balances = (partOf s p).balances
      ∧ (partOf (tryBudget s p r e st) p).gates = (partOf s p).gates
      ∧ (partOf (tryBudget s p r e st) p).seqStatus = (if capAllows (seenInputs (partOf s p) (now s)) st then (partOf s p).seqStatus
          else setBit (partOf s p).seqStatus 2) := by
  unfold tryBudget
  simp only [h]
  rw [partOf_mapPart_same]
  cases capAllows (seenInputs (partOf s p) (now s)) st <;> exact ⟨rfl, rfl, rfl, rfl⟩

/-- The gate counters after an evaluation with an open gate. -/
def gatesTaken (x : Part) (st : StepRec) : SMap Nat :=
  if st.gateEn then put x.gates st.gateId (look x.gates st.gateId 0 - 1) else x.gates

/-- An open gate's count is taken, and the governor looks at the tiers. -/
theorem tryGate_open {s : State} {p : Nat} (r : RunCtx) (e : EvalStep) {st : StepRec} (h : st.gateEn = false ∨ gateCount s p st ≠ 0) :
    tryGate s p r e st = tryBudget (setPart s p { partOf s p with gates := gatesTaken (partOf s p) st }) p r
      { e with gate := some (now s) } st := by
  unfold tryGate gatesTaken
  rw [if_neg (by simp only [not_and_or]; rcases h with h | h <;> simp [h])]
  cases st.gateEn <;> rfl

theorem tryGate_closed {s : State} {p : Nat} (r : RunCtx) (e : EvalStep) {st : StepRec} (h1 : st.gateEn = true) (h2 : gateCount s p st = 0) :
    tryGate s p r e st = setRun s p { r with eval := some { e with at_ := now s + 4 } } := if_pos ⟨h1, h2⟩

theorem State.commits.of_setPart {u s : State} {p : Nat} {g : SMap Nat} {r : RunCtx} {e : EvalStep} {st : StepRec} {t : Nat} {b : Tier}
    (h : u.commits (setPart s p { partOf s p with gates := g }) p r e st t b) : u.commits s p r e st t b := by
  obtain ⟨l, h1, h2, h3, h4, h5, h6, h7, h8, h9, h10, h11, h12⟩ := h
  exact ⟨l, h1, h2, h3, h4, h5, h6, h7, h8, h9, h10, h11, h12.trans (by simp [debit])⟩

/-- A gate that is open, and a tier that fits. -/
theorem tryGate_commits {s : State} {p : Nat} (r : RunCtx) (e : EvalStep) {st : StepRec} {t : Nat} {b : Tier}
    (h : st.gateEn = false ∨ gateCount s p st ≠ 0) (hc : chosenTier (seenInputs (partOf s p) (now s)) st = some (t, b)) :
    (tryGate s p r e st).commits s p r { e with gate := some (now s) } st t b
      ∧ (partOf (tryGate s p r e st) p).gates = gatesTaken (partOf s p) st := by
  rw [tryGate_open r e h]
  have hs := chosenTier_gates (partOf s p) (gatesTaken (partOf s p) st) (now s) st
  obtain ⟨h1, h2⟩ := tryBudget_commits (s := setPart s p { partOf s p with gates := gatesTaken (partOf s p) st }) (p := p) r
    { e with gate := some (now s) } (st := st) (t := t) (b := b) (by rw [setPart_self]; exact hs.trans hc)
  exact ⟨h1.of_setPart, h2.trans (by simp)⟩

/-- A gate that is open, and no tier that fits. -/
theorem tryGate_waits {s : State} {p : Nat} (r : RunCtx) (e : EvalStep) {st : StepRec}
    (h : st.gateEn = false ∨ gateCount s p st ≠ 0) (hc : chosenTier (seenInputs (partOf s p) (now s)) st = none) :
    (partOf (tryGate s p r e st) p).gates = gatesTaken (partOf s p) st
      ∧ (partOf (tryGate s p r e st) p).balances = (partOf s p).balances
      ∧ (partOf (tryGate s p r e st) p).run = some { r with eval := some { e with gate := some (now s), at_ := now s + 256 } } := by
  rw [tryGate_open r e h]
  have hs := chosenTier_gates (partOf s p) (gatesTaken (partOf s p) st) (now s) st
  obtain ⟨h1, h2, h3, -⟩ := tryBudget_waits (s := setPart s p { partOf s p with gates := gatesTaken (partOf s p) st }) (p := p) r
    { e with gate := some (now s) } (st := st) (by rw [setPart_self]; exact hs.trans hc)
  exact ⟨h3.trans (by simp), h2.trans (by simp), h1⟩

/-- The three commands that look at a step under evaluation, where each is due. -/
theorem exec_evaluateStep {s : State} {part : Fin 8} {r : RunCtx} {e : EvalStep} {st : StepRec} (hl : live s = true)
    (hrun : (partOf s part.val).run = some r) (heval : r.eval = some e) (hst : stepOf s part.val r e.index = some st)
    (hch : chargesDue s part.val = false) (hn : r.next = none) (hg : e.gate = none) (ha : e.at_ = now s) :
    exec (.evaluateStep part) s = .next (tryGate s part.val r e st) := by
  refine withRun_some hl hrun ?_
  simp only [heval, hst, Option.bind_some]
  exact when'_on _ (by simp [hch, hg, ha, hn])

theorem exec_gateMet {s : State} {part : Fin 8} {r : RunCtx} {e : EvalStep} {st : StepRec} (hl : live s = true)
    (hrun : (partOf s part.val).run = some r) (heval : r.eval = some e) (hst : stepOf s part.val r e.index = some st)
    (hch : chargesDue s part.val = false) (hn : r.next = none) (hg : e.gate = none) (ha : e.at_ ≤ now s) (hb : now s % 4 = 0)
    (h1 : st.gateEn = true) (h2 : gateCount s part.val st ≠ 0) :
    exec (.gateMet part) s = .next (tryGate s part.val r e st) := by
  refine withRun_some hl hrun ?_
  simp only [heval, hst, Option.bind_some]
  exact when'_on _ (by simp [hch, hg, ha, hn, hb, h1, h2])

theorem exec_budgetRetry {s : State} {part : Fin 8} {r : RunCtx} {e : EvalStep} {st : StepRec} (hl : live s = true)
    (hrun : (partOf s part.val).run = some r) (heval : r.eval = some e) (hst : stepOf s part.val r e.index = some st)
    (hch : chargesDue s part.val = false) (hn : r.next = none) (hg : e.gate.isSome = true) (ha : e.at_ = now s) :
    exec (.budgetRetry part) s = .next (tryBudget s part.val r e st) := by
  refine withRun_some hl hrun ?_
  simp only [heval, hst, Option.bind_some]
  exact when'_on _ (by simp [hch, hg, ha, hn])

/-- STEP_DELAYED is posted once, when the budget wait has reached SEQ_WAIT_EVT, which is not 0 (R65). -/
theorem exec_stepDelayed {s : State} {part : Fin 8} {r : RunCtx} {e : EvalStep} {g : Nat} (hl : live s = true)
    (hrun : (partOf s part.val).run = some r) (heval : r.eval = some e) (hg : e.gate = some g) :
    let w := (partOf s part.val).waitEvt.toNat
    (e.eventPosted = false → w ≠ 0 → g + w ≤ now s →
      exec (.stepDelayed part) s = .next (setRun (postEvent s part.val 1 [e.index, now s - g]) part.val
        { r with eval := some { e with eventPosted := true } }))
      ∧ ((e.eventPosted = true ∨ w = 0 ∨ now s < g + w) → exec (.stepDelayed part) s = .next s) := by
  intro w
  refine ⟨fun h1 h2 h3 => withRun_some hl hrun ?_, fun h => withRun_none hrun ?_⟩ <;> simp only [heval, hg]
  · exact when'_on _ (by simpa [h1] using ⟨h2, h3⟩)
  · refine when'_off _ ?_
    simp only [Bool.and_eq_false_iff, Bool.not_eq_false', decide_eq_false_iff_not, not_not, not_le]
    tauto

/-- Settles O13: the three commands come to `tryGate` or `tryBudget`, STEP_DELAYED to its own condition. -/
theorem stepEvaluation : Obligations.StepEvaluation := by
  intro s part r e st t b p x v n w taken hr hrun heval
  have hl : live s = true := live_of hr
  refine ⟨fun hnext hch hst => ?_, fun g hg => exec_stepDelayed hl hrun heval hg⟩
  have he := exec_evaluateStep hl hrun heval hst hch hnext
  have hm := exec_gateMet hl hrun heval hst hch hnext
  have hb := exec_budgetRetry hl hrun heval hst hch hnext
  refine ⟨fun hg ha h1 h2 => (he hg ha).trans (congrArg _ (tryGate_closed r e h1 h2)), fun hg ha ho hc => ⟨_, he hg ha, tryGate_commits r e ho hc⟩,
    fun hg ha ho hc => ?waits, fun hg ha h4 h1 h2 hc => ⟨_, hm hg ha h4 h1 h2, tryGate_commits r e (.inr h2) hc⟩,
    fun hg ha hc => ⟨_, hb hg ha, tryBudget_commits r e hc⟩, fun hg ha hc => ?again⟩
  case waits => exact ⟨_, he hg ha, tryGate_waits r e ho hc⟩
  case again =>
    obtain ⟨h1, h2, h3, h4⟩ := tryBudget_waits r e hc
    exact ⟨_, hb hg ha, h1, h2, h3, h4⟩

/-! ### Arrival, notices and wakes (R29, R57, R58, R371, R372) -/

/-- A wing that runs at k from the present beat. -/
theorem wingOf_runWing (s : State) (w k : Nat) :
    (wingOf (runWing s w k) w).clock = .running ∧ (wingOf (runWing s w k) w).k = k ∧ (wingOf (runWing s w k) w).railOn = true := by
  unfold runWing
  simp only [setWing_self]
  exact ⟨by simp [setRatio], by simp [setRatio], trivial⟩

theorem domOf_setDom (s : State) {k : SwKind} (hk : k ≠ .wing) (i : Nat) (d : Dom) : domOf (setDom s k i d) k i = d := by
  cases k with
  | wing => exact absurd rfl hk
  | _ => exact look_put_same _ _ _ _

/-- The charge of an unlisted conservator leaves the domains and the wings. -/
theorem meterCsv_doms (s : State) (P : Nat) : (meterCsv s P).csvDoms = s.csvDoms ∧ (meterCsv s P).wings = s.wings := by
  unfold meterCsv charge
  split
  · dsimp only
    split <;> exact ⟨rfl, rfl⟩
  · exact ⟨rfl, rfl⟩

theorem setDom_wings (s : State) (k : SwKind) (i : Nat) (d : Dom) : (setDom s k i d).wings = s.wings := by
  cases k <;> rfl

/-- DOMAIN_WAKE_COMPLETE of a domain that is no wing. -/
theorem domainWakeComplete_dom {s : State} {dom : DomainRef} (hl : live s = true) (hk : dom.kind ≠ .wing)
    (hw : (domOf s dom.kind (physDom s dom.kind dom.index)).state = .waking)
    (hu : (domOf s dom.kind (physDom s dom.kind dom.index)).until_ = now s) :
    ∃ t, exec (.domainWakeComplete dom) s = .next t ∧ domOn t dom.kind (physDom s dom.kind dom.index) = true ∧ t.wings = s.wings := by
  change ∃ t, execDomainWakeComplete dom s = .next t ∧ _
  unfold execDomainWakeComplete
  split
  · next h => exact absurd h hk
  · refine ⟨_, onlyIf_on (by simp [hl, hw, hu]), ?_⟩
    generalize hi : physDom s dom.kind dom.index = i
    generalize hd : ({ domOf s dom.kind i with state := .on } : Dom) = d
    have hon {t : State} (h : domOf t dom.kind i = d) : domOn t dom.kind i = true := by
      unfold domOn
      rw [h, ← hd]
      rfl
    split
    · next hc =>
      have hd' : (setDom s dom.kind i d).csvDoms = put s.csvDoms i d := by rw [hc]; rfl
      have ho {t : State} (h : t.csvDoms = put s.csvDoms i d) : domOf t dom.kind i = d := by
        rw [hc]
        exact (congrArg (fun m => look m i {}) h).trans (look_put_same _ _ _ _)
      dsimp only
      split
      · exact ⟨hon (ho ((meterCsv_doms _ _).1.trans hd')), (meterCsv_doms _ _).2.trans (setDom_wings s dom.kind i d)⟩
      · exact ⟨hon (ho hd'), setDom_wings s dom.kind i d⟩
    · exact ⟨hon (domOf_setDom s hk i d), setDom_wings s dom.kind i d⟩

/-- Settles O15: each command by its definition. -/
theorem commitsArriveAndDomainsWake : Obligations.CommitsArriveAndDomainsWake := by
  intro s part dom r l hr p
  have hl : live s = true := live_of hr
  refine ⟨fun n hn => ?notice, fun hrun hnext => ⟨fun h1 h2 => ?arrives, fun hh => ?deaf, fun e n ha hh hf => ⟨fun hm hd hs => ?begins,
    fun hm => ?skipped⟩⟩, fun hk hc hu hw => ?wing, fun hk => ?dom⟩
  case notice =>
    have he : exec (.advanceNoticeReceipt part) s = .next { s with power := { s.power with
        noticeAt := s.power.noticeAt.erase n
        notices := (s.power.notices.filter fun x => now s < x.2.1) ++ n.2.2 } } := by
      change execAdvanceNoticeReceipt part s = _
      unfold execAdvanceNoticeReceipt
      rw [hn]
      exact onlyIf_on hl
    exact ⟨_, he, fun m hm => List.mem_append_right _ hm, rfl, rfl, rfl⟩
  case arrives =>
    refine withRun_some hl hrun ?_
    simp only [hnext]
    exact when'_on _ (by simp [h1, h2])
  case deaf =>
    refine withRun_none hrun ?_
    simp only [hnext, hh]
    split <;> rfl
  case begins =>
    simp only [p] at hm
    refine withRun_some hl hrun ?_
    simp only [hnext, hf, hh, hm, Bool.not_true, Bool.false_eq_true, if_false]
    exact when'_on _ (by simpa [ha] using ⟨hd, hs⟩)
  case skipped =>
    simp only [p] at hm
    refine withRun_some hl hrun ?_
    simp only [hnext, hf, hh, hm, Bool.not_true, Bool.not_false, Bool.false_eq_true,
      if_false, if_true]
    exact when'_on _ ha
  case wing =>
    refine ⟨_, ?_, wingOf_runWing s dom.index _⟩
    change execDomainWakeComplete dom s = _
    unfold execDomainWakeComplete
    rw [hk]
    exact onlyIf_on (by simp [hl, hc, hu, hw])
  case dom => exact fun h1 h2 => domainWakeComplete_dom hl hk h1 h2

end Sys2Proof.Machine
end

section
/-! PROOF. Steps that start, and launches (R60, R99, R100, R102, R104, R105, R410, R475): O16 and O17. -/

namespace Sys2Proof.Machine

/-! ### What the wings' clocks and the demand for a domain leave -/

theorem runWing_parts (s : State) (w k : Nat) : (runWing s w k).parts = s.parts := by
  unfold runWing
  dsimp only
  split <;> rfl

theorem startWings_parts (s : State) (p : Nat) (l : LiveStep) : (startWings s p l).parts = s.parts := by
  refine foldl_field State.parts _ (fun t e => ?_) _ _
  split
  · split
    · exact runWing_parts _ _ _
    · rfl
  · split <;> rfl
  · rfl

theorem partOf_congr {s t : State} (h : t.parts = s.parts) (p : Nat) : partOf t p = partOf s p := by
  unfold partOf; rw [h]

@[simp] theorem partOf_setRun (s : State) (p : Nat) (r : RunCtx) : partOf (setRun s p r) p = { partOf s p with run := some r } :=
  partOf_mapPart_same s p _

theorem setExec_eq {s : State} {p : Nat} {r : RunCtx} (l : LiveStep) (h : (partOf s p).run = some r) :
    setExec s p l = setRun s p { r with exec := some l } := by
  unfold setExec
  simp only [h]

theorem run_of_execOf {s : State} {p : Nat} {l : LiveStep} (h : execOf s p = some l) :
    ∃ r, (partOf s p).run = some r ∧ r.exec = some l := by
  unfold execOf at h
  exact Option.bind_eq_some_iff.mp h

theorem execOf_of_run {s : State} {p : Nat} {r : RunCtx} (h : (partOf s p).run = some r) : execOf s p = r.exec := by
  unfold execOf
  rw [h]
  rfl

theorem execOf_setExec {s : State} {p : Nat} {l : LiveStep} (l' : LiveStep) (h : execOf s p = some l) :
    execOf (setExec s p l') p = some l' := by
  obtain ⟨r, hr, -⟩ := run_of_execOf h
  rw [setExec_eq l' hr]
  exact execOf_of_run (r := { r with exec := some l' }) (by rw [partOf_setRun])

theorem execWith_some {s : State} {p : Nat} {l : LiveStep} {f : LiveStep → Option State} {t : State} (hl : live s = true)
    (h : execOf s p = some l) (hf : f l = some t) : execWith s p f = .next t := by
  unfold execWith
  simp only [h, hf, onlyIf_on hl]

theorem execWith_none {s : State} {p : Nat} {l : LiveStep} {f : LiveStep → Option State}
    (h : execOf s p = some l) (hf : f l = none) : execWith s p f = .next s := by
  unfold execWith
  simp only [h, hf]

/-! ### The start of a step (R60, R410) -/

/-- A step whose record the stack sequencer cannot read faults the partition. -/
theorem refuseStep_fault {s : State} {p : Nat} (w : Nat × Nat × Checked) (h : owned (partOf s p) = true) :
    (partOf (refuseStep s p w) p).run = (partOf s p).run
      ∧ ∃ f ∈ (partOf (refuseStep s p w) p).faults, f.kind = 7 ∧ f.code = w.2.2.cls.1 ∧ f.stack = w.1 := by
  unfold refuseStep
  dsimp only
  split
  · next hf => exact ⟨rfl, _, hf, rfl, rfl, rfl⟩
  · have m := reportOwned_mild s w.1 (mkReport 7 0 10 w.2.2 w.2.1 false) (some p)
    refine ⟨?_, _, raiseFault_mem _ p _ (by rw [m.owned]; exact h), rfl, rfl, rfl⟩
    have hm := ((raiseFault_mild _ p ⟨7, w.2.2.cls.1, w.1, 0, some (7 * 4096, w.2.2.cls.1, w.2.2.cls.2.1, w.1)⟩).trans m).part p
    rw [hm]

/-- The executing step of a start, every done report of it awaited. -/
def started (s : State) (l : LiveStep) : LiveStep :=
  { l with launchOpen := List.range l.body.launches.length, engineOpen := List.range l.body.engines.length, lastDone := now s }

/-- The state at the start of a sound step. -/
def stepStarted (s : State) (p : Nat) (r : RunCtx) (l : LiveStep) : State :=
  setRun (mapPart (startWings s p l) p fun x =>
    { x with stepIndex := BitVec.ofNat 32 l.index, slip := satAdd x.slip (l.start - l.planned)
             runState := match x.runState with | .stopping => .stopping | _ => .stepping }) p
    { r with next := none, exec := some (started s l), eval := successor s p r l }

/-- STEP_START of an arrived step whose records are read. -/
theorem exec_stepStart {s : State} {part : Fin 8} {r : RunCtx} {l : LiveStep} (hl : live s = true)
    (hrun : (partOf s part.val).run = some r) (hx : r.exec = none) (hn : r.next = some l) (ha : l.arrived = true)
    (hs : l.start = now s) (hr : recordsIn s l = true) :
    exec (.stepStart part) s = .next (match (find (partOf s part.val).bound r.handle).bind fun t => badStepWord t l.step with
      | some w => refuseStep s part.val w
      | none => stepStarted s part.val r l) := by
  refine withRun_some hl hrun ?_
  simp only [hx, hn]
  exact when'_on _ (by simp [ha, hs, hr])

theorem partOf_stepStarted (s : State) (p : Nat) (r : RunCtx) (l : LiveStep) :
    (partOf (stepStarted s p r l) p).run = some { r with next := none, exec := some (started s l), eval := successor s p r l }
      ∧ (partOf (stepStarted s p r l) p).stepIndex = BitVec.ofNat 32 l.index
      ∧ (partOf (stepStarted s p r l) p).slip = satAdd (partOf s p).slip (l.start - l.planned) := by
  unfold stepStarted
  rw [partOf_setRun, partOf_mapPart_same, partOf_congr (startWings_parts s p l)]
  exact ⟨rfl, rfl, rfl⟩

/-- STACK_SEQUENCER_RECORD_READ of a record that has not been read. -/
theorem exec_recordRead {s : State} {part : Fin 8} {r : RunCtx} {l : LiveStep} {isEngine : Bool} {entry a n st : Nat} (hl : live s = true)
    (hrun : (partOf s part.val).run = some r) (hn : r.next = some l) (ha : l.arrived = true) (hs : now s < l.start)
    (hr : recordAddr l isEngine entry = some (a, n, st)) (hh : hears s l st = true) :
    exec (.stackSequencerRecordRead part isEngine entry) s = .next (match (peekBytes s a n).2.1 with
      | some d => setRun (peekBytes s a n).1 part.val { r with next := some (putRecord l isEngine entry d) }
      | none => raiseFault (peekBytes s a n).1 part.val ⟨7, 2, st, 0, (peekBytes s a n).2.2⟩) := by
  refine withRun_some hl hrun ?_
  simp only [hn, hr, Option.bind_some]
  exact when'_on _ (by simp [ha, hs, hh])

/-- Settles O16: a lemma for each command. -/
theorem stepsStartAndActAtTheirBeats : Obligations.StepsStartAndActAtTheirBeats := by
  intro s part r l hr hrun p
  have hl : live s = true := live_of hr
  refine ⟨fun hx hn ha hs hrec => ?start, fun entry e hx hslot hnew hb hh => ?slot, fun cab n d hx hd hf hh => ?launch,
    fun isEngine entry a n st hn ha hs hrec hh => ?read⟩
  case start =>
    have he := exec_stepStart hl hrun hx hn ha hs hrec
    refine ⟨fun w hw ho => ?_, fun hb => ?_⟩
    · rw [hw] at he
      obtain ⟨h1, f, hf⟩ := refuseStep_fault w ho
      exact ⟨_, f, he, h1.trans hrun, hf⟩
    · rw [hb] at he
      obtain ⟨h1, h2, h3⟩ := partOf_stepStarted s p r l
      exact ⟨_, started s l, he, h1, rfl, rfl, rfl, rfl, rfl, h2, h3⟩
  case slot =>
    have hxl : execOf s p = some l := (execOf_of_run hrun).trans hx
    have he : exec (.slotPlanEntryStart part entry) s = .next (let t := setExec s p { l with slotsOn := l.slotsOn ++ [entry] }
        { t with plan := t.plan ++ [(p, e, now t)] }) := by
      refine execWith_some hl hxl ?_
      simp only [hslot]
      refine (when'_on _ (by simp [hnew, hb, hh])).trans ?_
      rw [setExec_eq _ hrun]
      rfl
    refine ⟨_, he, ?_, execOf_setExec _ hxl⟩
    rw [setExec_eq _ hrun]
    rfl
  case launch =>
    have hxl : execOf s p = some l := (execOf_of_run hrun).trans hx
    refine execWith_some hl hxl ?_
    simp only [hd, hf, Option.bind_some]
    exact when'_on _ hh
  case read =>
    have he := exec_recordRead hl hrun hn ha hs hrec hh
    exact ⟨fun d hd => he.trans (by rw [hd]), fun hd => he.trans (by rw [hd])⟩

/-! ### Launches (R99, R100, R102, R104) -/

/-- A cabinet but for its status and its count of waits. -/
def Cabinet.staysAs (x y : Cabinet) : Prop := x = { y with status := x.status, setAt := x.setAt, retainWait := x.retainWait }

theorem Cabinet.staysAs.trans {x y z : Cabinet} (a : x.staysAs y) (b : y.staysAs z) : x.staysAs z := by
  unfold Cabinet.staysAs at *
  rw [b] at a
  exact a

/-- What the demand for bank groups leaves: the channels, the wings, and each cabinet but for its status and its count of waits. -/
structure Meets (t s : State) : Prop where
  channels : t.channels = s.channels
  wings : t.wings = s.wings
  cab : ∀ c, (cabOf t c).staysAs (cabOf s c)

theorem Meets.refl (s : State) : Meets s s := ⟨rfl, rfl, fun _ => rfl⟩

theorem Meets.trans {t u s : State} (a : Meets t u) (b : Meets u s) : Meets t s :=
  ⟨a.channels.trans b.channels, a.wings.trans b.wings, fun c => (a.cab c).trans (b.cab c)⟩

theorem siteOfCore_congr {t s : State} (hm : ∀ c, (cabOf t c).map = (cabOf s c).map) (hw : t.wings = s.wings) (c : Nat) :
    siteOfCore t c = siteOfCore s c := by
  unfold siteOfCore cabSiteOf wingOf
  rw [hm, hw]

theorem Meets.siteOfCore {t s : State} (h : Meets t s) (c : Nat) : siteOfCore t c = siteOfCore s c :=
  siteOfCore_congr (fun c => by rw [h.cab]) h.wings c

theorem demandWake_keeps (s : State) (k : SwKind) (i : Nat) :
    (demandWake s k i).cores = s.cores ∧ (demandWake s k i).channels = s.channels ∧ (demandWake s k i).wings = s.wings
      ∧ (demandWake s k i).cabinets = s.cabinets := by
  unfold demandWake
  dsimp only
  split
  · cases k <;> exact ⟨rfl, rfl, rfl, rfl⟩
  · exact ⟨rfl, rfl, rfl, rfl⟩

theorem meetGroups_meets (s : State) (core : Nat) (ws : List Nat) :
    Meets (meetGroups s core ws) s ∧ (meetGroups s core ws).cores = s.cores := by
  unfold meetGroups
  dsimp only
  split
  · exact ⟨.refl s, rfl⟩
  · generalize List.filter _ _ = off
    have h := foldl_field (fun s : State => (s.cores, s.channels, s.wings, s.cabinets)) (fun s g => demandWake s .bankGroup g) (fun s g => by
      obtain ⟨h1, h2, h3, h4⟩ := demandWake_keeps s .bankGroup g
      simp only [h1, h2, h3, h4]) off s
    generalize List.foldl (fun s g => demandWake s .bankGroup g) s off = u at h
    simp only [Prod.mk.injEq] at h
    obtain ⟨h1, h2, h3, h4⟩ := h
    have hc (c : Nat) : cabOf u c = cabOf s c := by unfold cabOf; rw [h4]
    refine ⟨⟨h2, h3, fun c => ?_⟩, h1⟩
    rw [cabOf_mapCab, ← hc c]
    split
    · next h => subst h; rfl
    · rfl

/-- One core of a launch with a sound record and a working channel. -/
def launchStep (cab : Nat) (d : BitVec 512) (g : Nat) (s : State) (k : Nat) : State :=
  if !(BitVec.ofNat 96 (lrField d 16 0 96)).getLsbD k then s
  else meetGroups (setCore s (96 * cab + k) (launchCore d (96 * cab + k) g (coreOf s (96 * cab + k)))) (96 * cab + k) (codeWords d)

/-- The channels of a cabinet's cores work. -/
def Works (s : State) (cab : Nat) : Prop := ∀ k, k < 96 → (chanOf s (siteOfCore s (96 * cab + k))).failed = false

theorem Works.of_meets {t s : State} {cab : Nat} (m : Meets t s) (h : Works s cab) : Works t cab := by
  intro k hk
  have hc : chanOf t (siteOfCore s (96 * cab + k)) = chanOf s (siteOfCore s (96 * cab + k)) := by
    unfold chanOf; rw [m.channels]
  rw [m.siteOfCore, hc]
  exact h k hk

theorem Works.setCab {s : State} {cab : Nat} {x : Cabinet} (hx : x.map = (cabOf s cab).map) (h : Works s cab) :
    Works (setCab s cab x) cab := by
  intro k hk
  have hm : siteOfCore (Machine.setCab s cab x) (96 * cab + k) = siteOfCore s (96 * cab + k) := by
    refine siteOfCore_congr (t := Machine.setCab s cab x) (s := s) (fun c => ?_) rfl _
    rw [cabOf_setCab]
    split
    · next hc => rw [hc, hx]
    · rfl
  exact (congrArg (fun n => (chanOf s n).failed) hm).trans (h k hk)

theorem launchStep_meets (cab : Nat) (d : BitVec 512) (g : Nat) (s : State) (k : Nat) : Meets (launchStep cab d g s k) s := by
  unfold launchStep
  split
  · exact .refl s
  · exact (meetGroups_meets _ _ _).1.trans ⟨rfl, rfl, fun _ => rfl⟩

theorem launchAll_meets (cab : Nat) (d : BitVec 512) (g : Nat) (l : List Nat) (s : State) : Meets (l.foldl (launchStep cab d g) s) s := by
  induction l generalizing s with
  | nil => exact .refl s
  | cons a l ih => exact (ih _).trans (launchStep_meets cab d g s a)

theorem coreOf_launchStep (cab : Nat) (d : BitVec 512) (g : Nat) (s : State) (k c : Nat) :
    coreOf (launchStep cab d g s k) c = if (BitVec.ofNat 96 (lrField d 16 0 96)).getLsbD k = true ∧ c = 96 * cab + k
      then launchCore d c g (coreOf s c) else coreOf s c := by
  unfold launchStep
  cases h : (BitVec.ofNat 96 (lrField d 16 0 96)).getLsbD k with
  | false => simp
  | true =>
    have hm := (meetGroups_meets (setCore s (96 * cab + k) (launchCore d (96 * cab + k) g (coreOf s (96 * cab + k)))) (96 * cab + k)
      (codeWords d)).2
    simp only [Bool.not_true, Bool.false_eq_true, if_false, true_and]
    unfold coreOf at hm ⊢
    rw [hm]
    show coreOf (setCore _ _ _) c = _
    rw [coreOf_setCore]
    split
    · next hc => subst hc; rfl
    · rfl

/-- The cores of a launch, each started once. -/
theorem coreOf_launchAll {cab : Nat} {d : BitVec 512} {g : Nat} (l : List Nat) (hl : l.Nodup) (s : State) (k : Nat) :
    coreOf (l.foldl (launchStep cab d g) s) (96 * cab + k)
      = if (BitVec.ofNat 96 (lrField d 16 0 96)).getLsbD k = true ∧ k ∈ l then launchCore d (96 * cab + k) g (coreOf s (96 * cab + k))
        else coreOf s (96 * cab + k) := by
  induction l generalizing s with
  | nil => simp
  | cons a l ih =>
    obtain ⟨ha, hl⟩ := List.nodup_cons.mp hl
    rw [List.foldl_cons, ih hl, coreOf_launchStep]
    have he : 96 * cab + k = 96 * cab + a ↔ k = a := by omega
    simp only [he]
    by_cases hk : k = a
    · subst hk
      simp [ha]
    · simp [hk]

/-- The cabinet of a launch that has started. -/
def launchedCab (s : State) (cab entry : Nat) (d : BitVec 512) (c : Cabinet) : Cabinet :=
  { c with busy := true, part := (ownerOfWing s (cab / 9)).getD 0, entry := entry, started := now s
           timeout := if lrField d 0x28 0 32 = 0 then 2500000 else lrField d 0x28 0 32
           mask := BitVec.ofNat 96 (lrField d 16 0 96), doneFrom := now s }

/-- Two folds whose steps agree wherever an invariant holds. -/
theorem foldl_congr_of_inv {α : Type} {P : State → Prop} {f g : State → α → State} {l : List α} (hg : ∀ s a, P s → P (g s a))
    (h : ∀ s, ∀ a ∈ l, P s → f s a = g s a) {s : State} (hs : P s) : l.foldl f s = l.foldl g s := by
  induction l generalizing s with
  | nil => rfl
  | cons a l ih =>
    rw [List.foldl_cons, List.foldl_cons, h s a List.mem_cons_self hs]
    exact ih (fun s b hb => h s b (List.mem_cons_of_mem _ hb)) (hg s a hs)

/-- A launch with a sound record on working channels starts each masked core. -/
theorem startLaunch_eq {s : State} {cab entry : Nat} {d : BitVec 512} (hd : launchOk d = true) (hw : Works s cab) :
    startLaunch s cab entry d
      = (List.range 96).foldl (launchStep cab d (wtime s (cab / 9) 0)) (mapCab s cab (launchedCab s cab entry d)) := by
  unfold startLaunch
  rw [if_neg (by simp [hd])]
  refine foldl_congr_of_inv (P := fun u => Works u cab) (fun u k hu => hu.of_meets (launchStep_meets _ _ _ _ _)) (fun u k hk hu => ?_) ?_
  · unfold launchStep
    split
    · rfl
    · exact if_neg (by simp [hu k (List.mem_range.mp hk)])
  · exact hw.setCab rfl

/-- The cabinet and the cores of a launch that has started. -/
theorem startLaunch_started {s : State} {cab entry : Nat} {d : BitVec 512} (hd : launchOk d = true) (hw : Works s cab) :
    (cabOf (startLaunch s cab entry d) cab).staysAs (launchedCab s cab entry d (cabOf s cab))
      ∧ ∀ k, k < 96 → (BitVec.ofNat 96 (lrField d 16 0 96)).getLsbD k = true →
        coreOf (startLaunch s cab entry d) (96 * cab + k) = launchCore d (96 * cab + k) (wtime s (cab / 9) 0) (coreOf s (96 * cab + k)) := by
  rw [startLaunch_eq hd hw]
  refine ⟨?_, fun k hk hm => ?_⟩
  · have h := (launchAll_meets cab d (wtime s (cab / 9) 0) (List.range 96) (mapCab s cab (launchedCab s cab entry d))).cab cab
    rwa [cabOf_mapCab, if_pos rfl] at h
  · rw [coreOf_launchAll _ List.nodup_range, if_pos ⟨hm, List.mem_range.mpr hk⟩]
    rfl

/-- Settles O17: both commands through `startLaunch_started`. -/
theorem launchStarts : Obligations.LaunchStarts := by
  intro s cab d n b hd id t hw
  refine ⟨?now, fun hr rest hwait hb hdone => ?delayed⟩
  case now =>
    obtain ⟨h1, h2⟩ := startLaunch_started (entry := n) hd hw
    obtain ⟨-, -, -, -, c1, c2, c3, -⟩ := startLaunch_calm s id n d
    exact ⟨by rw [h1]; rfl, by rw [h1]; rfl, by rw [h1]; rfl, by rw [h1]; rfl, by rw [h1]; rfl, h2, c1, c3, c2⟩
  case delayed =>
    have hl : live s = true := live_of hr
    have hw' : Works (setCab s id { cabOf s id with waiting := rest, launchWait := satAdd (cabOf s id).launchWait (now s - b) }) id :=
      Works.setCab rfl hw
    obtain ⟨h1, -⟩ := startLaunch_started (entry := n) hd hw'
    rw [setCab_self] at h1
    refine ⟨startLaunch (setCab s id { cabOf s id with waiting := rest, launchWait := satAdd (cabOf s id).launchWait (now s - b) }) id n d, ?_,
      by rw [h1]; rfl, by rw [h1]; rfl, by rw [h1]; rfl, by rw [h1]; rfl⟩
    change execDelayedLaunchStart cab s = _
    unfold execDelayedLaunchStart
    simp only [id] at hwait hb hdone
    simp only [hwait]
    exact onlyIf_on (by simp [hl, hb, hdone])

end Sys2Proof.Machine
end

section
/-! PROOF. Done reports and the end of a step (R49, R61, R64, R103): O18. -/

namespace Sys2Proof.Machine

/-- What a partition's registers say of its run and of the steps that it has ended. -/
def Part.runView (x : Part) : Option RunCtx × RunState × BitVec 64 × BitVec 64 × BitVec 4 :=
  (x.run, x.runState, x.steps, x.overrun, x.seqStatus)

theorem charge_runView (s : State) (p rail pj q : Nat) : (partOf (charge s p rail pj) q).runView = (partOf s q).runView := by
  unfold charge
  dsimp only
  split
  · rfl
  · rw [partOf_setPart]
    split
    · next h => subst h; split <;> rfl
    · rfl

theorem Mild.runView {t s : State} (m : Mild t s) (q : Nat) : (partOf t q).runView = (partOf s q).runView := by
  rw [m.part]
  rfl

theorem stepCompletion_mild (s : State) (p : Nat) (r : RunCtx) (l : LiveStep) (status : Nat) : Mild (stepCompletion s p r l status) s := by
  unfold stepCompletion
  split
  · exact postEntry_mild _ _ _
  · exact .refl s

theorem runCompletion_mild (s : State) (p : Nat) (r : RunCtx) (status : Nat) : Mild (runCompletion s p r status) s := postEntry_mild _ _ _

/-! ### What switching domains and wings off leaves of the partitions -/

theorem offDom_parts (s : State) (k : SwKind) (i : Nat) : (offDom s k i).parts = s.parts := by
  unfold offDom
  split
  · rfl
  · cases k <;> rfl

theorem switchOffIdle_parts (s : State) : (switchOffIdle s).parts = s.parts :=
  foldl_field State.parts _ (fun t k => foldl_field State.parts _ (fun u d => by
    split
    · exact offDom_parts _ _ _
    · rfl) _ _) _ _

theorem stopWings_parts (s : State) (p : Nat) : (stopWings s p).parts = s.parts :=
  foldl_field State.parts _ (fun u w => by
    split
    · unfold stopWing
      split <;> rfl
    · rfl) _ _

theorem offWings_parts (s : State) (p : Nat) : (offWings s p).parts = s.parts :=
  foldl_field State.parts _ (fun u w => by split <;> rfl) _ _

theorem meterEnded_runView (s : State) (p : Nat) (l : LiveStep) (q : Nat) :
    (partOf (meterEnded s p l) q).runView = (partOf s q).runView :=
  foldl_field (fun s => (partOf s q).runView) _ (fun u d => by
    refine (apply_ite (fun s => (partOf s q).runView) _ _ _).trans ?_
    rw [charge_runView, ite_self]) _ _

/-- What is switched off and metered at the end of a step leaves the partitions' runs. -/
theorem switchedOff_runView (s : State) (p : Nat) (l : LiveStep) (q : Nat) :
    (partOf (switchOffIdle (stopWings (meterEnded s p l) p)) q).runView = (partOf s q).runView := by
  rw [partOf_congr (switchOffIdle_parts _), partOf_congr (stopWings_parts _ _), meterEnded_runView]

/-! ### The end of a step (R61, R64) -/

/-- A committed successor starts at the actual end, where that is later. -/
theorem postpone_start (s : State) (p : Nat) (l : LiveStep) :
    (postpone s p l).1.parts = s.parts ∧ (postpone s p l).2.start = max l.start (roundUp (now s) 4) := by
  unfold postpone
  dsimp only
  split
  · next h => exact ⟨rfl, h.symm⟩
  · refine ⟨foldl_field State.parts _ (fun u e => ?_) _ _, rfl⟩
    split <;> rfl

/-- The completion of the step that ends has gone out, and its slot-plan entries end. -/
def completed (s : State) (p : Nat) (r : RunCtx) (l : LiveStep) : State :=
  { stepCompletion s p r l 0 with
    plan := (stepCompletion s p r l 0).plan.filter fun e => e.1 ≠ p || now s < e.2.2 + 4 * e.2.1.rotations }

/-- The state with a committed successor postponed, and the successor. -/
def succeeded (s : State) (p : Nat) (r : RunCtx) (l : LiveStep) : State × Option LiveStep :=
  match r.next with
  | some n => ((postpone (completed s p r l) p n).1, some (postpone (completed s p r l) p n).2)
  | none => (completed s p r l, none)

/-- The run after the end of its executing step. -/
def endedRun (s : State) (p : Nat) (r : RunCtx) (l : LiveStep) : RunCtx :=
  { r with exec := none, next := (succeeded s p r l).2, lastEnded := some l.index }

/-- The run state after the end of the executing step. -/
def endedState (s : State) (p : Nat) (r : RunCtx) : RunState :=
  match (partOf s p).runState, r.next, r.eval with
  | .stopping, _, _ => .stopping
  | _, some _, _ => .stepping
  | _, none, some e => if e.gate.isSome then .budget else .gated
  | t, none, none => t

/-- The state after the end of the executing step, before a run with no successor ends. -/
def stepEnded (s : State) (p : Nat) (r : RunCtx) (l : LiveStep) : State :=
  switchOffIdle (stopWings (meterEnded (mapPart (succeeded s p r l).1 p fun y =>
    { endStep y (now s - (l.start + l.body.length)) (now s) with run := some (endedRun s p r l), runState := endedState s p r }) p l) p)

/-- STEP_END with every report in, at the later of the planned end and the last report. -/
theorem exec_stepEnd {s : State} {part : Fin 8} {r : RunCtx} {l : LiveStep} (hl : live s = true)
    (hrun : (partOf s part.val).run = some r) (hx : r.exec = some l) (hr : reportsIn l = true)
    (hn : now s = max (l.start + l.body.length) l.lastDone) :
    exec (.stepEnd part) s = .next (if r.next.isNone && (l.step.next = 0xFFFFFFFF || (partOf s part.val).runState = .stopping)
      then runCompletion (endRun (stepEnded s part.val r l) part.val) part.val (endedRun s part.val r l) 0
      else stepEnded s part.val r l) := by
  refine withRun_some hl hrun ?_
  rw [hx]
  have hc : (reportsIn l && decide (now s = max (l.start + l.body.length) l.lastDone)) = true := by simp [hr, ← hn]
  exact when'_on _ hc

theorem succeeded_runView (s : State) (p : Nat) (r : RunCtx) (l : LiveStep) (q : Nat) :
    (partOf (succeeded s p r l).1 q).runView = (partOf s q).runView := by
  have hc : (partOf (completed s p r l) q).runView = (partOf s q).runView := (stepCompletion_mild s p r l 0).runView q
  unfold succeeded
  cases r.next with
  | none => exact hc
  | some n => exact (congrArg Part.runView (partOf_congr (postpone_start _ _ _).1 q)).trans hc

theorem stepEnded_runView (s : State) (p : Nat) (r : RunCtx) (l : LiveStep) :
    (partOf (stepEnded s p r l) p).runView = { endStep (partOf s p) (now s - (l.start + l.body.length)) (now s) with
      run := some (endedRun s p r l), runState := endedState s p r }.runView := by
  unfold stepEnded
  rw [switchedOff_runView, partOf_mapPart_same]
  have h := succeeded_runView s p r l p
  simp only [Part.runView, Prod.mk.injEq] at h
  obtain ⟨-, -, h3, h4, h5⟩ := h
  unfold endStep
  split <;> simp only [Part.runView, Part.flag, h3, h4, h5]

/-- A run with no successor returns to BOUND. -/
theorem endRun_part (s : State) (p : Nat) : partOf (endRun s p) p = { partOf s p with run := none, runState := .bound } := by
  unfold endRun
  rw [partOf_congr (offWings_parts _ _), partOf_mapPart_same]
  rfl

theorem stepEnd_eq {s : State} {part : Fin 8} {r : RunCtx} {l : LiveStep} (hl : live s = true)
    (hrun : (partOf s part.val).run = some r) (hx : r.exec = some l) (hr : reportsIn l = true)
    (hn : now s = max (l.start + l.body.length) l.lastDone) :
    ∃ t, exec (.stepEnd part) s = .next t
      ∧ (partOf t part.val).steps = satAdd (partOf s part.val).steps 1
      ∧ (partOf t part.val).overrun = satAdd (partOf s part.val).overrun (now s - (l.start + l.body.length))
      ∧ (partOf t part.val).seqStatus = (endStep (partOf s part.val) (now s - (l.start + l.body.length)) (now s)).seqStatus
      ∧ (r.next = none → l.step.next = 0xFFFFFFFF → (partOf t part.val).run = none ∧ (partOf t part.val).runState = .bound)
      ∧ (∀ n, r.next = some n → ∃ n' r', (partOf t part.val).run = some r' ∧ r'.exec = none ∧ r'.next = some n'
          ∧ n'.start = max n.start (roundUp (now s) 4) ∧ r'.lastEnded = some l.index) := by
  refine ⟨_, exec_stepEnd hl hrun hx hr hn, ?_⟩
  have h := stepEnded_runView s part.val r l
  generalize stepEnded s part.val r l = u at h
  have he : (endStep (partOf s part.val) (now s - (l.start + l.body.length)) (now s)).steps = satAdd (partOf s part.val).steps 1
      ∧ (endStep (partOf s part.val) (now s - (l.start + l.body.length)) (now s)).overrun
        = satAdd (partOf s part.val).overrun (now s - (l.start + l.body.length)) := by
    unfold endStep
    split <;> exact ⟨rfl, rfl⟩
  simp only [Part.runView, Prod.mk.injEq] at h
  obtain ⟨h1, h2, h3, h4, h5⟩ := h
  cases hnext : r.next with
  | none =>
    simp only [Option.isNone_none, Bool.true_and]
    split
    · have hm := runCompletion_mild (endRun u part.val) part.val (endedRun s part.val r l) 0
      rw [hm.part, endRun_part]
      exact ⟨h3.trans he.1, h4.trans he.2, h5, fun _ _ => ⟨rfl, rfl⟩, by simp⟩
    · next hf => exact ⟨h3.trans he.1, h4.trans he.2, h5, fun _ h => absurd h (by simp at hf; exact hf.1), by simp⟩
  | some n =>
    rw [if_neg (by simp)]
    refine ⟨h3.trans he.1, h4.trans he.2, h5, (by simp), fun m hm => ?_⟩
    obtain rfl := Option.some.inj hm
    refine ⟨(postpone (completed s part.val r l) part.val n).2, _, h1, rfl, by simp only [endedRun, succeeded, hnext],
      (postpone_start _ _ _).2.trans ?_, rfl⟩
    rw [show now (completed s part.val r l) = now s from congrArg BitVec.toNat (stepCompletion_mild s part.val r l 0).beat]

/-- The cabinet is free and its cores' work has ended. -/
def cabReported (s : State) (id : Nat) : State :=
  { setCab s id { cabOf s id with busy := false, mask := 0, doneFrom := now s } with
    cores := s.cores.map fun x => if cabOfCore x.1 = id then (x.1, { x.2 with done := true }) else x }

theorem cabReported_keeps (s : State) (id : Nat) :
    (cabReported s id).parts = s.parts ∧ (cabOf (cabReported s id) id).busy = false
      ∧ ∀ x ∈ (cabReported s id).cores, cabOfCore x.1 = id → x.2.done = true := by
  refine ⟨rfl, congrArg Cabinet.busy (setCab_self s id _), fun x hx hc => ?_⟩
  obtain ⟨a, -, rfl⟩ := List.mem_map.mp hx
  split at hc
  · next h => rw [if_pos h]
  · next h => exact absurd hc h

theorem setExec_keeps (s : State) (p : Nat) (l : LiveStep) :
    (setExec s p l).cores = s.cores ∧ (setExec s p l).cabinets = s.cabinets ∧ (setExec s p l).resets = s.resets
      ∧ (setExec s p l).esc = s.esc ∧ (setExec s p l).boot = s.boot := by
  unfold setExec
  split <;> exact ⟨rfl, rfl, rfl, rfl, rfl⟩

/-- A cabinet whose cores are done reports. -/
theorem cabinetDoneReport_eq {s : State} {cab : CabRef} (hl : live s = true) (hb : (cabOf s (cabId cab)).busy = true)
    (hd : (cabOf s (cabId cab)).doneFrom ≤ now s)
    (hk : ∀ k, k < 96 → (cabOf s (cabId cab)).mask.getLsbD k = true → coreDone s (96 * cabId cab + k) = true) :
    ∃ t, exec (.cabinetDoneReport cab) s = .next t ∧ (cabOf t (cabId cab)).busy = false
      ∧ (∀ x ∈ t.cores, cabOfCore x.1 = cabId cab → x.2.done = true)
      ∧ (∀ l, execOf s (cabOf s (cabId cab)).part = some l → execOf t (cabOf s (cabId cab)).part
          = some { l with launchOpen := l.launchOpen.erase (cabOf s (cabId cab)).entry, lastDone := now s }) := by
  have hends : kernelEnds s (cabId cab) = true := by
    simp only [kernelEnds, hb, decide_eq_true hd, Bool.true_and, List.all_eq_true, List.mem_filter, List.mem_range, and_imp]
    exact hk
  have he : exec (.cabinetDoneReport cab) s = .next (match execOf (cabReported s (cabId cab)) (cabOf s (cabId cab)).part with
      | some l => setExec (cabReported s (cabId cab)) (cabOf s (cabId cab)).part
          { l with launchOpen := l.launchOpen.erase (cabOf s (cabId cab)).entry, lastDone := now s }
      | none => cabReported s (cabId cab)) := onlyIf_on (by simp [hl, hends])
  obtain ⟨k1, k2, k3⟩ := cabReported_keeps s (cabId cab)
  have hx : execOf (cabReported s (cabId cab)) (cabOf s (cabId cab)).part = execOf s (cabOf s (cabId cab)).part := by
    unfold execOf
    rw [partOf_congr k1]
  generalize cabReported s (cabId cab) = u at he k2 k3 hx
  rw [← hx]
  cases h : execOf u (cabOf s (cabId cab)).part with
  | none =>
    rw [h] at he
    exact ⟨u, he, k2, k3, by simp⟩
  | some l =>
    rw [h] at he
    obtain ⟨e1, e2, -⟩ := setExec_keeps u (cabOf s (cabId cab)).part
      { l with launchOpen := l.launchOpen.erase (cabOf s (cabId cab)).entry, lastDone := now s }
    refine ⟨_, he, (congrArg (fun m => (look m (cabId cab) {} : Cabinet).busy) e2).trans k2, fun x hx => k3 x (e1 ▸ hx), fun l' hl' => ?_⟩
    · obtain rfl := Option.some.inj hl'
      exact execOf_setExec _ h

/-- Settles O18: a lemma for each command. -/
theorem reportsAndStepEnds : Obligations.ReportsAndStepEnds := by
  intro s cab part r l hr id c p
  have hl : live s = true := live_of hr
  refine ⟨fun hb hd hk => ?_, fun hx ho hn hi => ?_, fun hrun hx hi hn => stepEnd_eq hl hrun hx hi hn⟩
  · obtain ⟨t, h1, h2, h3, h4⟩ := cabinetDoneReport_eq hl hb hd hk
    exact ⟨t, h1, h2, h3, h4 l⟩
  · exact execWith_some hl hx (when'_on _ (by simp [ho, hn, hi]))

end Sys2Proof.Machine
end

section
/-! PROOF. Timeouts of steps and kernels, and the delivery of a job fault (R62, R63, R104, R337, R447): O19. -/

namespace Sys2Proof.Machine

/-! ### Resets for a timeout -/

/-- A reset puts its own domain in reset, and takes none out. -/
theorem inDomainReset_resetDomain (s : State) (k : DomainKind) (i cause : Nat) (f : FaultRec) (c j : Nat) :
    inDomainReset (resetDomain s k i cause f) c j
      = (inDomainReset s c j || decide (256 * c + j = 256 * domCode k + i)) := by
  cases h : inDomainReset s (domCode k) i with
  | true =>
    rw [show resetDomain s k i cause f = s from if_pos h]
    by_cases hk : 256 * c + j = 256 * domCode k + i
    · unfold inDomainReset at h ⊢
      rw [hk, h]
      rfl
    · simp [hk]
  | false =>
    obtain ⟨e, b, hm, -⟩ := resetDomain_cases s k i cause f h
    have hr : (resetDomain s k i cause f).resets = put s.resets (256 * domCode k + i) (now (loseDomain s k i) + domBeats k) := by
      rw [← (loseDomain_keeps s k i).1]
      rcases hm with ⟨-, m⟩ | ⟨-, -, m⟩ <;> exact m.resets
    unfold inDomainReset
    rw [hr]
    by_cases hk : 256 * c + j = 256 * domCode k + i
    · rw [hk, find_put_same]
      simp
    · rw [find_put_ne _ _ _ _ hk]
      simp [hk]

theorem resetDomain_owned (s : State) (k : DomainKind) (i cause : Nat) (f : FaultRec) (p : Nat) :
    owned (partOf (resetDomain s k i cause f) p) = owned (partOf s p) := by
  cases h : inDomainReset s (domCode k) i with
  | true => rw [show resetDomain s k i cause f = s from if_pos h]
  | false =>
    obtain ⟨e, b, hm, -⟩ := resetDomain_cases s k i cause f h
    rw [← loseDomain_owned s k i p]
    rcases hm with ⟨-, m⟩ | ⟨-, -, m⟩ <;> exact m.owned p

/-- A fault raised unless it waits already. -/
def raiseOnce (s : State) (p : Nat) (f : FaultRec) : State := if f ∈ (partOf s p).faults then s else raiseFault s p f

theorem raiseOnce_mild (s : State) (p : Nat) (f : FaultRec) : Mild (raiseOnce s p f) s := by
  unfold raiseOnce
  split
  · exact .refl s
  · exact raiseFault_mild s p f

theorem raiseOnce_mem {s : State} {p : Nat} (f : FaultRec) (h : owned (partOf s p) = true) : f ∈ (partOf (raiseOnce s p f) p).faults := by
  unfold raiseOnce
  split
  · assumption
  · exact raiseFault_mem s p f h

theorem Mild.inDomainReset {t s : State} (m : Mild t s) (c i : Nat) : inDomainReset t c i = inDomainReset s c i := by
  unfold Machine.inDomainReset
  rw [m.resets]

/-- What follows a reset at the same beat, if it only posts and raises faults, leaves it begun. -/
theorem State.resetBeganWith.of_mild {t u s : State} {k : DomainKind} {i cause : Nat} {f : FaultRec} (h : u.resetBeganWith s k i cause f)
    (m : Mild t u) : t.resetBeganWith s k i cause f := by
  obtain ⟨h1, h2, h3, h4, h5, h6⟩ := h
  unfold State.resetBeganWith
  rw [m.resets, m.esc, m.boot]
  exact ⟨h1, h2, h3, h4, h5, fun p hp hf => m.faults p f (h6 p hp hf)⟩

/-- A reset from a state that differs in what no reset reads has begun as one from the state itself. -/
theorem State.resetBeganWith.of_eq {t s s' : State} {k : DomainKind} {i cause : Nat} {f : FaultRec} (h : t.resetBeganWith s' k i cause f)
    (hb : s'.beat = s.beat) (he : s'.esc = s.esc) (hbo : s'.boot = s.boot) (hf : ∀ p, resetFaults s' k i p = resetFaults s k i p) :
    t.resetBeganWith s k i cause f := by
  obtain ⟨h1, h2, h3, h4, h5, h6⟩ := h
  have hn : now s' = now s := congrArg BitVec.toNat hb
  refine ⟨hn ▸ h1, h2, h3, h4, ?_, fun p hp hq => h6 p hp ((hf p).trans hq)⟩
  have hw : s'.resetsWithNow = s.resetsWithNow := by
    unfold State.resetsWithNow
    rw [hn, he]
  rw [he, hbo, hw] at h5
  exact h5

/-! ### The timeout of a step (R62) -/

theorem resetAll_inReset (l : List Nat) (f : FaultRec) (s : State) {st : Nat} (h : st ∈ l ∨ inDomainReset s 2 st = true) :
    inDomainReset (l.foldl (fun s st => resetDomain s .stack st 1 f) s) 2 st = true := by
  induction l generalizing s with
  | nil => exact h.resolve_left List.not_mem_nil
  | cons a l ih =>
    rw [List.foldl_cons]
    refine ih _ ?_
    rw [inDomainReset_resetDomain]
    rcases h with h | h
    · rcases List.mem_cons.mp h with rfl | h
      · exact .inr (by simp [domCode])
      · exact .inl h
    · exact .inr (by simp [h])

theorem resetAll_owned (l : List Nat) (f : FaultRec) (s : State) (p : Nat) :
    owned (partOf (l.foldl (fun s st => resetDomain s .stack st 1 f) s) p) = owned (partOf s p) :=
  foldl_field (fun s => owned (partOf s p)) _ (fun _ _ => resetDomain_owned _ _ _ _ _ _) _ _

theorem setExec_faults (s : State) (p : Nat) (l : LiveStep) (q : Nat) :
    (partOf (setExec s p l) q).faults = (partOf s q).faults := by
  unfold setExec
  split
  · unfold setRun
    rw [partOf_mapPart]
    split
    · next h => rw [h]
    · rfl
  · rfl

/-- The state in which a step's timeout has reset the stacks and raised the fault. -/
def timedOut (s : State) (p : Nat) (l : LiveStep) : State :=
  raiseOnce ((lateStacks l).foldl (fun s st => resetDomain s .stack st 1 ⟨7, 1, (lateStacks l).headD 0, 0, none⟩)
    (mapPart s p fun x => x.flag 1 (now s))) p ⟨7, 1, (lateStacks l).headD 0, 0, none⟩

theorem resetFaults_flag (s : State) (p i b : Nat) (k : DomainKind) (j q : Nat) :
    resetFaults (mapPart s p fun x => x.flag i b) k j q = resetFaults s k j q := by
  unfold resetFaults
  rw [partOf_mapPart]
  split
  · next h => subst h; rfl
  · rfl

/-- STEP_TIMEOUT of a step that lacks reports. -/
theorem stepTimeout_eq {s : State} {part : Fin 8} {l : LiveStep} (hl : live s = true) (hx : execOf s part.val = some l)
    (hn : l.start + 2 * l.body.length = now s) (hr : reportsNow s part.val l = false) (ho : owned (partOf s part.val) = true) :
    ∃ t, exec (.stepTimeout part) s = .next t ∧ (∀ st ∈ lateStacks l, inDomainReset t 2 st = true)
      ∧ ⟨7, 1, (lateStacks l).headD 0, 0, none⟩ ∈ (partOf t part.val).faults
      ∧ (∀ st, lateStacks l = [st] → inDomainReset s 2 st = false → t.resetBeganWith s .stack st 1 ⟨7, 1, st, 0, none⟩) := by
  have he : exec (.stepTimeout part) s = .next (setExec (timedOut s part.val l) part.val { l with timedOut := true }) :=
    execWith_some hl hx (when'_on _ (by simp [hn, hr]))
  obtain ⟨-, -, k1, k2, k3⟩ := setExec_keeps (timedOut s part.val l) part.val { l with timedOut := true }
  have kf := setExec_faults (timedOut s part.val l) part.val { l with timedOut := true }
  refine ⟨_, he, fun st hst => ?_, ?_, fun st hst hd => ?_⟩
  · have h : inDomainReset (timedOut s part.val l) 2 st = true :=
      ((raiseOnce_mild _ _ _).inDomainReset 2 st).trans (resetAll_inReset _ _ _ (.inl hst))
    unfold inDomainReset at h ⊢
    rw [k1]
    exact h
  · rw [kf]
    refine raiseOnce_mem _ ?_
    rw [resetAll_owned, partOf_mapPart_same]
    exact ho
  · have hb : (timedOut s part.val l).resetBeganWith s .stack st 1 ⟨7, 1, st, 0, none⟩ := by
      unfold timedOut
      rw [hst]
      have h0 := resetDomain_began (mapPart s part.val fun x => x.flag 1 (now s)) .stack st 1 ⟨7, 1, st, 0, none⟩ hd
      exact State.resetBeganWith.of_mild (State.resetBeganWith.of_eq h0 rfl rfl rfl fun p => resetFaults_flag _ _ _ _ _ _ _) (raiseOnce_mild _ _ _)
    obtain ⟨b1, b2, b3, b4, b5, b6⟩ := hb
    unfold State.resetBeganWith
    rw [k1, k2, k3]
    exact ⟨b1, b2, b3, b4, b5, fun p hp hf => (kf p).symm ▸ b6 p hp hf⟩

/-! ### The timeout of a kernel (R104) -/

/-- A map whose values change as their keys say. -/
theorem find_map_keyed {α β : Type} (g : Nat → α → β) (m : SMap α) (k : Nat) :
    find (m.map fun e => (e.1, g e.1 e.2)) k = (find m k).map (g k) := by
  induction m with
  | nil => rfl
  | cons e m ih =>
    simp only [List.map_cons, find, ih]
    split_ifs with h1
    · rw [h1]; rfl
    · rfl
    · rfl

/-- A map whose values change where the key passes a test. -/
theorem find_map_where {α : Type} (c : Nat → Prop) [DecidablePred c] (f : α → α) (m : SMap α) (k : Nat) :
    find (m.map fun e => if c e.1 then (e.1, f e.2) else e) k = (find m k).map fun v => if c k then f v else v := by
  rw [← find_map_keyed (fun k v => if c k then f v else v)]
  refine congrArg (fun m => find m k) (List.map_congr_left fun e _ => ?_)
  split <;> rfl

/-- A stack's reset leaves a cabinet's fault registers. -/
theorem loseStack_cab (s : State) (st c : Nat) :
    (cabOf (loseStack s st) c).faultSet = (cabOf s c).faultSet ∧ (cabOf (loseStack s st) c).fault0 = (cabOf s c).fault0
      ∧ (cabOf (loseStack s st) c).fault1 = (cabOf s c).fault1 := by
  have hk : ((List.range 6).foldl (fun s e => resetEngine s (6 * st + e)) (dropRequests s st)).cabinets = s.cabinets :=
    foldl_field State.cabinets (fun s e => resetEngine s (6 * st + e)) (fun _ _ => rfl) _ _
  have hf := find_map_where (fun c => c / 144 = st) (fun x : Cabinet => { x with busy := false, waiting := [], window := none, gateQueue := [] })
    s.cabinets c
  have hc : cabOf (loseStack s st) c = look (s.cabinets.map fun c => if c.1 / 144 = st
      then (c.1, { c.2 with busy := false, waiting := [], window := none, gateQueue := [] }) else c) c {} := by
    rw [← hk]
    rfl
  rw [hc]
  unfold cabOf look
  rw [hf]
  cases find s.cabinets c with
  | none => exact ⟨rfl, rfl, rfl⟩
  | some x => dsimp only [Option.map, Option.getD]; split <;> exact ⟨rfl, rfl, rfl⟩

theorem cabOf_congr {s t : State} (h : t.cabinets = s.cabinets) (c : Nat) : cabOf t c = cabOf s c := by
  unfold cabOf
  rw [h]

theorem resetStack_cab (s : State) (st cause : Nat) (f : FaultRec) (c : Nat) :
    (cabOf (resetDomain s .stack st cause f) c).faultSet = (cabOf s c).faultSet
      ∧ (cabOf (resetDomain s .stack st cause f) c).fault0 = (cabOf s c).fault0
      ∧ (cabOf (resetDomain s .stack st cause f) c).fault1 = (cabOf s c).fault1 := by
  cases h : inDomainReset s (domCode .stack) st with
  | true => rw [show resetDomain s .stack st cause f = s from if_pos h]; exact ⟨rfl, rfl, rfl⟩
  | false =>
    obtain ⟨e, b, hm, -⟩ := resetDomain_cases s .stack st cause f h
    have hc : (resetDomain s .stack st cause f).cabinets = (loseStack s st).cabinets := by
      rcases hm with ⟨-, m⟩ | ⟨-, -, m⟩ <;> exact m.cabinets
    have hc' : cabOf (resetDomain s .stack st cause f) c = cabOf (loseStack s st) c := cabOf_congr hc c
    rw [hc']
    exact loseStack_cab s st c

/-- The state in which a kernel's timeout has stood in its cabinet's registers and reset the stack. -/
def kernelTimedOut (s : State) (id : Nat) : State :=
  resetDomain (recordKernelFault s id 0 0 7 0 0 (wtime s (id / 9) 0)) .stack (id / 144) 2 ⟨1, 7, id / 144, cabUnit s id, none⟩

/-- KERNEL_TIMEOUT of a kernel that does not end in the same beat. -/
theorem kernelTimeout_eq {s : State} {cab : CabRef} (hl : live s = true) (hb : (cabOf s (cabId cab)).busy = true)
    (hn : (cabOf s (cabId cab)).started + (cabOf s (cabId cab)).timeout = now s) (hk : kernelEnds s (cabId cab) = false) :
    let st := cabId cab / 144
    let f : FaultRec := ⟨1, 7, st, cabUnit s (cabId cab), none⟩
    ∃ t, exec (.kernelTimeout cab) s = .next t ∧ inDomainReset t 2 st = true
      ∧ (inDomainReset s 2 st = false → t.resetBeganWith s .stack st 2 f)
      ∧ (owned (partOf s (cabOf s (cabId cab)).part) = true → f ∈ (partOf t (cabOf s (cabId cab)).part).faults)
      ∧ ((cabOf s (cabId cab)).faultSet = false → (cabOf t (cabId cab)).faultSet = true ∧ (cabOf t (cabId cab)).fault0 = 7
          ∧ (cabOf t (cabId cab)).fault1 = 0) := by
  intro st f
  have he : exec (.kernelTimeout cab) s = .next (raiseOnce (kernelTimedOut s (cabId cab)) (cabOf s (cabId cab)).part f) :=
    onlyIf_on (by simp [hl, hb, hn, hk])
  have m := raiseOnce_mild (kernelTimedOut s (cabId cab)) (cabOf s (cabId cab)).part f
  refine ⟨_, he, ?_, fun hd => ?_, fun ho => ?_, fun hf => ?_⟩
  · rw [m.inDomainReset]
    unfold kernelTimedOut
    rw [inDomainReset_resetDomain]
    simp [domCode, st]
  · have h0 := resetDomain_began (recordKernelFault s (cabId cab) 0 0 7 0 0 (wtime s (cabId cab / 9) 0)) .stack st 2 f hd
    exact State.resetBeganWith.of_mild (State.resetBeganWith.of_eq h0 rfl rfl rfl fun _ => rfl) m
  · refine raiseOnce_mem _ ?_
    unfold kernelTimedOut
    rw [resetDomain_owned]
    exact ho
  · have hc : cabOf (raiseOnce (kernelTimedOut s (cabId cab)) (cabOf s (cabId cab)).part f) (cabId cab)
        = cabOf (kernelTimedOut s (cabId cab)) (cabId cab) := cabOf_congr m.cabinets _
    obtain ⟨k1, k2, k3⟩ := resetStack_cab (recordKernelFault s (cabId cab) 0 0 7 0 0 (wtime s (cabId cab / 9) 0)) st 2 f (cabId cab)
    have hr := recordKernelFault_first hf 0 0 7 0 0 (wtime s (cabId cab / 9) 0)
    rw [hr] at k1 k2 k3
    rw [hc]
    exact ⟨k1, k2, k3⟩

/-! ### The delivery of a job fault (R63, R337) -/

/-- What a delivered fault leaves of a partition's job, and of its wings. -/
def Part.jobView (x : Part) : Bool × List FaultRec × BitVec 16 × BitVec 128 × Option RunCtx := (x.held, x.faults, x.job, x.wings, x.run)

theorem postEntryAt_jobView (s : State) (id : Nat) (e : BitVec 512) (pc q : Nat) :
    (partOf (postEntryAt s id e pc) q).jobView = (partOf s q).jobView := by
  unfold postEntryAt
  split
  · rfl
  split
  · rfl
  split
  · rfl
  · dsimp only
    rw [partOf_mapPart]
    split
    · next h => subst h; rfl
    · rfl

theorem postEvent_jobView (s : State) (p c : Nat) (l : List Nat) (q : Nat) : (partOf (postEvent s p c l) q).jobView = (partOf s q).jobView :=
  foldl_field (fun s => (partOf s q).jobView) _ (fun _ _ => postEntryAt_jobView _ _ _ _ _) _ _

theorem stepCompletion_jobView (s : State) (p : Nat) (r : RunCtx) (l : LiveStep) (status q : Nat) :
    (partOf (stepCompletion s p r l status) q).jobView = (partOf s q).jobView := by
  unfold stepCompletion
  split
  · exact postEntryAt_jobView _ _ _ _ _
  · rfl

theorem faultCredit_jobView (s : State) (p : Nat) (r : RunCtx) : (partOf (faultCredit s p r) p).jobView = (partOf s p).jobView := by
  unfold faultCredit
  rw [partOf_mapPart_same]
  have hk (x : Part) (b : Tier) (n d : Nat) : (credit x b n d).jobView = x.jobView := rfl
  have hn : (match r.next with | some l => credit (partOf s p) l.body 1 1 | none => partOf s p).jobView = (partOf s p).jobView := by
    cases r.next with
    | none => rfl
    | some l => exact hk _ _ _ _
  cases r.exec with
  | none => exact hn
  | some l =>
    refine Eq.trans ?_ hn
    dsimp only
    split
    · exact hk _ _ _ _
    · rfl

/-- The run of a partition with a job fault ends; the fault and the job stay as they are. -/
theorem faultRun_jobView (s : State) (p : Nat) : (partOf (faultRun s p) p).jobView = { partOf s p with run := none }.jobView := by
  unfold faultRun
  cases h : (partOf s p).run with
  | none => simp only [Part.jobView, h]
  | some r =>
    have hc := faultCredit_jobView s p r
    refine (postEntryAt_jobView _ _ _ _ _).trans ?_
    generalize faultCredit s p r = u at hc
    have hm : (partOf (mapPart u p fun x => { x with run := none, runState := if x.bound = [] then .unbound else .bound }) p).jobView
        = { partOf s p with run := none }.jobView := by
      rw [partOf_mapPart_same]
      simp only [Part.jobView, Prod.mk.injEq] at hc ⊢
      exact ⟨hc.1, hc.2.1, hc.2.2.1, hc.2.2.2.1, trivial⟩
    cases r.exec with
    | none => exact hm
    | some l =>
      refine (stepCompletion_jobView _ _ _ _ _ _).trans ?_
      rw [partOf_mapPart_same]
      refine Eq.trans ?_ hm
      unfold endStep
      split <;> rfl

theorem queueRing_parts (s : State) (id b : Nat) : (queueRing s id b).parts = s.parts := by
  unfold queueRing
  split <;> rfl

theorem faultRings_jobView (s : State) (p q : Nat) : (partOf (faultRings s p) q).jobView = (partOf s q).jobView := by
  unfold faultRings
  refine foldl_field (fun s => (partOf s q).jobView) _ (fun u x => ?_) _ _
  refine (foldl_field (fun s => (partOf s q).jobView) _ (fun _ _ => postEntryAt_jobView _ _ _ _ _) _ _).trans ?_
  rw [partOf_congr (queueRing_parts _ _ _)]
  rfl

theorem faultRings_cores (s : State) (p : Nat) : (faultRings s p).cores = s.cores := by
  unfold faultRings
  refine foldl_field State.cores _ (fun u x => ?_) _ _
  refine (foldl_field State.cores _ (fun _ _ => (postEntry_mild _ _ _).cores) _ _).trans ?_
  unfold queueRing
  split <;> rfl

theorem offDom_cores (s : State) (k : SwKind) (i : Nat) : (offDom s k i).cores = s.cores := by
  unfold offDom
  split
  · rfl
  · cases k <;> rfl

theorem faultDomains_keeps (s : State) (p : Nat) (ended : List LiveStep) :
    (faultDomains s p ended).parts = s.parts ∧ (faultDomains s p ended).cores = s.cores := by
  have h (φ : State → SMap Part × SMap Core) (ho : ∀ s k i, φ (offDom s k i) = φ s) (hw : ∀ s w, φ (offWing s w) = φ s) :
      φ (faultDomains s p ended) = φ s := by
    refine (foldl_field φ _ (fun u w => ?_) _ _).trans (foldl_field φ _ (fun u k => foldl_field φ _ (fun u d => ?_) _ _) _ _)
    · split
      · exact hw _ _
      · rfl
    · split
      · exact ho _ _ _
      · rfl
  have := h (fun s => (s.parts, s.cores)) (fun s k i => by rw [offDom_parts, offDom_cores]) (fun _ _ => rfl)
  exact Prod.mk.inj this

theorem haltCsvs_keeps (s : State) (p : Nat) : (haltCsvs s p).parts = s.parts ∧ (haltCsvs s p).cores = s.cores :=
  ⟨foldl_field State.parts _ (fun t d => by split <;> rfl) _ _, foldl_field State.cores _ (fun t d => by split <;> rfl) _ _⟩

/-- The state after a fault's delivery has been noted, before what it ends. -/
def faultNoted (s : State) (p : Nat) (rest : List FaultRec) : State :=
  setPart s p { partOf s p with
    faults := rest, job := if (partOf s p).held then (partOf s p).job else (partOf s p).job + 1, held := true
    setAt := put (partOf s p).setAt 32 (now s), heldClearedAt := none
    runState := if (partOf s p).bound = [] then .unbound else .bound }

/-- The run, the units, the conservators, the engines' descriptors, the domains and the rings after a fault. -/
def faultEnds (s u : State) (p : Nat) : State :=
  faultRings (faultDomains (abandonAll (haltCsvs (faultUnits (faultRun u p) p) p) p) p (liveSteps s p)) p

theorem faultEnds_jobView (s u : State) (p : Nat) : (partOf (faultEnds s u p) p).jobView = { partOf u p with run := none }.jobView := by
  unfold faultEnds
  rw [faultRings_jobView, partOf_congr (faultDomains_keeps _ _ _).1]
  refine (congrArg Part.jobView (partOf_congr (haltCsvs_keeps _ _).1 p)).trans ?_
  exact faultRun_jobView u p

/-- Each core of the partition's wings holds no tour after a fault. -/
theorem faultEnds_cores (s u : State) (p : Nat) :
    ∀ x ∈ (faultEnds s u p).cores, (partOf u p).wings.getLsbD (wingOfCore x.1) = true → x.2.active = [] ∧ x.2.pendingSet = [] := by
  have hw : (partOf (endWindows (faultRun u p) p) p).wings = (partOf u p).wings := by
    have h := faultRun_jobView u p
    simp only [Part.jobView, Prod.mk.injEq] at h
    exact h.2.2.2.1
  unfold faultEnds
  rw [faultRings_cores, (faultDomains_keeps _ _ _).2]
  show ∀ x ∈ (haltCsvs _ p).cores, _
  rw [(haltCsvs_keeps _ _).2]
  intro x hx hm
  unfold faultUnits at hx
  obtain ⟨a, -, rfl⟩ := List.mem_map.mp hx
  rw [hw] at hm ⊢
  split at hm
  · next h => rw [if_pos h]; exact ⟨rfl, rfl⟩
  · next h => exact absurd hm h

theorem faultEnds_plan (s u : State) (p : Nat) : (faultEnds s u p).plan = u.plan := by
  obtain ⟨-, -, -, -, -, -, -, -, h1, -⟩ := calm_trans (faultRings_calm (faultDomains (abandonAll (haltCsvs (faultUnits (faultRun u p) p) p) p) p
    (liveSteps s p)) p) (calm_trans (faultDomains_calm _ _ _) (calm_trans (abandonAll_calm _ _) (haltCsvs_calm _ _)))
  obtain ⟨-, -, -, -, -, -, -, -, h2, -⟩ := faultRun_calm u p
  exact h1.trans h2

/-- JOB_FAULT_DELIVERY of a fault whose report has been collected. -/
theorem jobFaultDelivery_eq {s : State} {part : Fin 8} {f : FaultRec} {rest : List FaultRec} (hl : live s = true)
    (hf : (partOf s part.val).faults = f :: rest) (hc : faultCollected s f = true) :
    ∃ t, exec (.jobFaultDelivery part) s = .next t ∧ (partOf t part.val).held = true
      ∧ (partOf t part.val).faults = rest ∧ (partOf t part.val).run = none
      ∧ (partOf t part.val).job = (if (partOf s part.val).held then (partOf s part.val).job else (partOf s part.val).job + 1)
      ∧ (∀ x ∈ t.cores, (partOf s part.val).wings.getLsbD (wingOfCore x.1) = true → x.2.active = [] ∧ x.2.pendingSet = [])
      ∧ t.plan = s.plan := by
  have he : exec (.jobFaultDelivery part) s = .next (postEvent (faultEnds s (faultNoted s part.val rest) part.val) part.val 4
      [(partOf (faultEnds s (faultNoted s part.val rest) part.val) part.val).job.toNat, f.kind, f.code, f.stack, f.unit, faultLogIndex s f]) := by
    change execJobFaultDelivery part s = _
    unfold execJobFaultDelivery
    dsimp only
    rw [hf]
    exact onlyIf_on (by simp [hl, hc])
  have hv := faultEnds_jobView s (faultNoted s part.val rest) part.val
  have hcores := faultEnds_cores s (faultNoted s part.val rest) part.val
  have hplan := faultEnds_plan s (faultNoted s part.val rest) part.val
  rw [show partOf (faultNoted s part.val rest) part.val = _ from setPart_self s part.val _] at hv hcores
  generalize faultEnds s (faultNoted s part.val rest) part.val = u at he hv hcores hplan
  refine ⟨_, he, ?_⟩
  have hp := (postEvent_jobView u part.val 4
    [(partOf u part.val).job.toNat, f.kind, f.code, f.stack, f.unit, faultLogIndex s f] part.val).trans hv
  have m := postEvent_mild u part.val 4 [(partOf u part.val).job.toNat, f.kind, f.code, f.stack, f.unit, faultLogIndex s f]
  simp only [Part.jobView, Prod.mk.injEq] at hp
  obtain ⟨p1, p2, p3, -, p5⟩ := hp
  exact ⟨p1, p2, p5, p3, by rw [m.cores]; exact hcores, m.plan.trans hplan⟩

/-- Settles O19: a lemma for each command, and none of the timeouts where the work completes. -/
theorem timeoutsAndJobFaults : Obligations.TimeoutsAndJobFaults := by
  intro s part l cab hr p
  have hl : live s = true := live_of hr
  refine ⟨stepTimeout_eq hl, kernelTimeout_eq hl, ⟨fun hx hn => ?_, fun hk => onlyIf_off (by simp [hk])⟩,
    fun f rest hf hc => jobFaultDelivery_eq hl hf hc⟩
  exact execWith_none hx (when'_off _ (by simp only [p] at hn; simp [hn]))

end Sys2Proof.Machine
end

section
/-! PROOF. The sideband and JTAG (R460, R463 to R467) and the accesses of register space (R9 to R13, R462): O59 and O54. -/

namespace Sys2Proof.Machine

/-- A command that acts, whose next state is known under another name. -/
theorem onlyIf_next {c : Bool} {s t u : State} (h : c = true) (e : t = u) : onlyIf c s t = .next u := e ▸ onlyIf_on h

/-! ### Reads through the latch of a 64-bit register (R9) -/

theorem regRead_keeps (s : State) (who : Requester) (o : Nat) : (regRead s who o).2 = { s with halves := (regRead s who o).2.halves } := by
  unfold regRead
  dsimp only
  split
  · rfl
  · split <;> rfl

/-! ### The sideband (R463, R464) -/

/-- The state after one word of a sideband read. -/
def afterWord (s : State) : State :=
  setSideband (regRead s .sideband s.sideband.pointer.toNat).2
    { (regRead s .sideband s.sideband.pointer.toNat).2.sideband with
      pointer := (regRead s .sideband s.sideband.pointer.toNat).2.sideband.pointer + 4 }

theorem sidebandWords_succ (n : Nat) (s : State) : sidebandWords (n + 1) s =
    (BitVec.ofNat 32 (regRead s .sideband s.sideband.pointer.toNat).1 :: (sidebandWords n (afterWord s)).1,
      (sidebandWords n (afterWord s)).2) := rfl

theorem afterWord_pointer (s : State) : (afterWord s).sideband.pointer = s.sideband.pointer + 4 := by
  unfold afterWord
  rw [setSideband_sideband, regRead_keeps]

theorem afterWord_keeps (s : State) :
    afterWord s = { s with sideband := (afterWord s).sideband, halves := (afterWord s).halves } := by
  unfold afterWord
  rw [regRead_keeps]
  rfl

theorem sidebandWords_length (n : Nat) (s : State) : (sidebandWords n s).1.length = n := by
  induction n generalizing s with
  | zero => rfl
  | succ n ih => rw [sidebandWords_succ, List.length_cons, ih]

theorem sidebandWords_pointer (n : Nat) (s : State) :
    (sidebandWords n s).2.sideband.pointer = s.sideband.pointer + BitVec.ofNat 32 (4 * n) := by
  induction n generalizing s with
  | zero => simp [sidebandWords]
  | succ n ih =>
    rw [sidebandWords_succ]
    dsimp only
    rw [ih, afterWord_pointer]
    bv_omega

theorem sidebandWords_keeps (n : Nat) (s : State) : (sidebandWords n s).2 =
    { s with sideband := (sidebandWords n s).2.sideband, halves := (sidebandWords n s).2.halves } := by
  induction n generalizing s with
  | zero => rfl
  | succ n ih =>
    rw [sidebandWords_succ]
    refine (ih (afterWord s)).trans ?_
    generalize (sidebandWords n (afterWord s)).2 = x
    rw [afterWord_keeps]

theorem answerAddress_of_some {s : State} {y : BitVec 7} (h : s.sideband.dynAddr = some y) : answerAddress s = y := by
  simp [answerAddress, h]

theorem answerAddress_of_none {s : State} (h : s.sideband.dynAddr = none) : answerAddress s = 0x2C + s.boot.addrSel.setWidth 7 := by
  simp [answerAddress, h, staticAddress]

theorem wordsOf_short {bytes : List (BitVec 8)} (h : bytes.length < 4) : wordsOf bytes = [] := by
  match bytes with
  | [] | [_] | [_, _] | [_, _, _] => rfl
  | _ :: _ :: _ :: _ :: _ => simp only [List.length_cons] at h; omega

/-! ### The pins (R460, R461) -/

theorem thermTrip_low_iff (s : State) : pinState s .thermTrip = .low ↔ powered s = true ∧ s.boot.tripped = true := by
  simp [pinState, thermTripLow]

theorem alert_low_iff (s : State) : pinState s .alert = .low ↔ live s = true ∧ s.boot.alertLow = true := by
  simp [pinState]

/-- The I3C target's commands, where no dynamic address is held and where one is. -/
theorem i3cAddress (s : State) (addr : BitVec 7) (hr : s.sup.inReset = false) :
    let x := s.sideband
    let own : BitVec 7 := 0x2C + s.boot.addrSel.setWidth 7
    let given := { s with sideband := { x with dynAddr := some addr, hotJoin := false } }
    (x.dynAddr = none →
        exec (.entdaa addr) s = .next given ∧ exec (.setdasa own addr) s = .next given ∧ exec (.setnewda addr) s = .next s
        ∧ (x.events.getLsbD 3 = true → exec .hotJoin s = .next (emit { s with sideband := { x with hotJoin := true } } .hotJoin))
        ∧ (∀ other, other ≠ own → exec (.setdasa other addr) s = .next s)
        ∧ exec .getpid s = .next s)
    ∧ (x.dynAddr.isSome = true →
        exec (.entdaa addr) s = .next s ∧ exec (.setdasa own addr) s = .next s
        ∧ exec (.setnewda addr) s = .next { s with sideband := { x with dynAddr := some addr } }
        ∧ exec .getpid s = .next (emit s (.ccc (BitVec.ofNat 64
            (2 ^ 32 + 0x9160 * 2 ^ 16 + 2 ^ 14 * s.boot.addrSel.toNat + Config.serial.toNat))))
        ∧ exec .getbcr s = .next (emit s (.ccc 0x06)) ∧ exec .getdcr s = .next (emit s (.ccc 0x00))
        ∧ (∃ t v, exec .getstatus s = .next (emit t (.ccc v)) ∧ t = { s with free := s.free + 1 })
        ∧ (∃ t v, exec .getmxds s = .next (emit t (.ccc v)) ∧ t = { s with free := s.free + 1 })) := by
  have hl : live s = true := live_of hr
  refine ⟨fun hn => ⟨?_, ?_, ?_, fun he => ?_, fun other ho => ?_, ?_⟩, fun hs => ?_⟩
  · exact onlyIf_on (by simp [hl, hn])
  · exact onlyIf_on (by simp [hl, hn, staticAddress])
  · exact onlyIf_off (by simp [hn])
  · exact onlyIf_on (by simp [hl, hn, he])
  · exact onlyIf_off (by rw [staticAddress, decide_eq_false ho, Bool.and_false])
  · exact onlyIf_off (by simp [addressed, hn])
  · have ha : addressed s = true := by simp [addressed, hl, hs]
    have hn : s.sideband.dynAddr.isNone = false := by simpa using hs
    exact ⟨onlyIf_off (by simp [hn]), onlyIf_off (by simp [hn]), onlyIf_on (by simp [hl, hs]), onlyIf_on ha, onlyIf_on ha,
      onlyIf_on ha, ⟨_, _, onlyIf_on ha, rfl⟩, ⟨_, _, onlyIf_on ha, rfl⟩⟩

/-- Settles O59: each command is `onlyIf` of its guard; a sideband read's words are counted by induction. -/
theorem sidebandAndJtag : Obligations.SidebandAndJtag := by
  refine ⟨fun s addr events hr => ?i3c, fun s offset bytes a b c d hr => ?transfers, fun s => ?jtag⟩
  case i3c =>
    have hl : live s = true := live_of hr
    obtain ⟨hnone, hsome⟩ := i3cAddress s addr hr
    exact ⟨hnone, hsome, onlyIf_on hl, onlyIf_on hl, onlyIf_on hl⟩
  case transfers =>
    have hl : live s = true := live_of hr
    refine ⟨fun h => ⟨onlyIf_off (by simp [h]), onlyIf_off (by simp [h])⟩, fun h => ⟨onlyIf_on (by simp [hl, h]), ?_, fun hlen => ?_⟩,
      onlyIf_on hl, fun n => ?_, ⟨_, onlyIf_on hl⟩, fun y => answerAddress_of_some, answerAddress_of_none⟩
    · exact onlyIf_on (by simp [hl, h])
    · refine (onlyIf_on (by simp [hl, h])).trans ?_
      rw [wordsOf_short hlen]
      rfl
    · exact ⟨_, _, onlyIf_on hl, sidebandWords_length n s, sidebandWords_pointer n s, sidebandWords_keeps n s⟩
  case jtag =>
    refine ⟨fun hp => ⟨onlyIf_on hp, onlyIf_on hp, onlyIf_on hp, fun hr => ⟨⟨shiftScan s, _, ?_, rfl⟩, ?_, ?_⟩, fun hr => ⟨?_, ?_, ?_⟩⟩,
      fun hp => ⟨onlyIf_off hp, onlyIf_off hp⟩, fun i => rfl, thermTrip_low_iff s, alert_low_iff s⟩
    · refine (onlyIf_on hp).trans ?_
      rw [if_pos hr, selectInReset, if_pos (show (shiftScan s).sup.inReset = true from hr)]
      rfl
    · exact (onlyIf_on hp).trans (by rw [selectInReset, if_pos hr])
    · exact (onlyIf_on hp).trans (by rw [selectInReset, if_pos hr])
    · exact (onlyIf_on hp).trans (by simp [selectInReset, hr])
    · exact (onlyIf_on hp).trans (by simp [selectInReset, hr])
    · exact (onlyIf_on hp).trans (by simp [selectInReset, hr])

/-! ### Register accesses (R9 to R13, R462) -/

@[simp] theorem rwField_allOnes (old value : Word) : rwField old 0 (BitVec.allOnes 32) value = value := by
  rw [rwField, BitVec.ushiftRight_zero, BitVec.ushiftRight_zero, BitVec.setWidth_eq, BitVec.setWidth_eq, BitVec.not_allOnes,
    BitVec.and_zero, BitVec.and_allOnes, BitVec.zero_or]

theorem landWrite_eq (s : State) (who : Requester) (o : Nat) :
    landWrite s who o = { s with boot := { s.boot with landed := (landWrite s who o).boot.landed } } := by
  unfold landWrite
  split <;> rfl

@[simp] theorem reach_landWrite (s : State) (who : Requester) (o o' : Nat) : reach (landWrite s who o) who o' = reach s who o' := by
  rw [landWrite_eq]
  cases who <;> rfl

@[simp] theorem pairValue_landWrite (s : State) (who : Requester) (o : Nat) (r : RegRef) :
    pairValue (landWrite s who o) r = pairValue s r := by
  rw [landWrite_eq]
  rfl

@[simp] theorem halvesOf_landWrite (s : State) (who w : Requester) (o : Nat) : halvesOf (landWrite s who o) w = halvesOf s w := by
  rw [landWrite_eq]
  rfl

@[simp] theorem halvesOf_setHalves (s : State) (who : Requester) (h : Halves) : halvesOf (setHalves s who h) who = h :=
  look_put_same ..

theorem reachRead_of_accessioned {s : State} (h : s.boot.deaccessioned = false) (who : Requester) (o : Nat) :
    reachRead s who o = reach s who o := by
  cases who <;> simp [reachRead, h]

theorem pairValue_none_block (s : State) (x : RegRef) (h : x.1 = .none) : pairValue s x = none := by
  obtain ⟨b, o⟩ := x
  obtain rfl : b = .none := h
  rfl

/-- A write of a word that is no half of a 64-bit register. -/
theorem regWrite_word {s : State} {who : Requester} {o : Nat} {mask value : Word} (ho : o % 4 = 0)
    (hp : pairValue s (reach s who o) = none)
    (hlow : 4 ≤ (reach s who o).2 → pairValue s ((reach s who o).1, (reach s who o).2 - 4) = none) :
    regWrite s who o mask value = writeReg (landWrite s who o) (reach s who o) mask value := by
  have hif : (if 4 ≤ o ∧ 4 ≤ (reach s who o).2 then pairValue s ((reach s who o).1, (reach s who o).2 - 4) else none) = none := by
    split
    case isTrue h => exact hlow h.2
    case isFalse => rfl
  simp [regWrite, ho, hp, hif]

/-- A write of the low half of a 64-bit register is held until the high half's. -/
theorem regWrite_low {s : State} {who : Requester} {o v : Nat} {mask value : Word} (ho : o % 4 = 0)
    (hp : pairValue s (reach s who o) = some v) :
    regWrite s who o mask value = setHalves (landWrite s who o) who { halvesOf s who with
      heldLow := put (halvesOf s who).heldLow o
        (rwField ((find (halvesOf s who).heldLow o).getD (BitVec.ofNat 32 v)) 0 mask value) } := by
  simp [regWrite, ho, hp]

/-- A write of the high half commits it with the low half that is held. -/
theorem regWrite_high {s : State} {who : Requester} {o : Nat} {mask value low : Word} (ho : o % 4 = 0) (hh : isHighHalf s who o = true)
    (hl : find (halvesOf s who).heldLow (o - 4) = some low) :
    ∃ old : Word, regWrite s who o mask value =
      writePair (setHalves (landWrite s who o) who { halvesOf s who with heldLow := drop (halvesOf s who).heldLow (o - 4) })
        ((reach s who o).1, (reach s who o).2 - 4) ((rwField old 0 mask value).toNat * 2 ^ 32 + low.toNat) := by
  simp only [isHighHalf, Bool.and_eq_true, Option.isNone_iff_eq_none, decide_eq_true_eq] at hh
  obtain ⟨⟨hp, hge⟩, hs⟩ := hh
  obtain ⟨v, hv⟩ := Option.isSome_iff_exists.1 hs
  exact ⟨BitVec.ofNat 32 (v / 2 ^ 32), by simp [regWrite, ho, hp, hge, hv, hl]⟩

theorem writePair_rawLoc (s : State) (v : Nat) :
    writePair s (.errLog, 0x2C - 4) v = setErrLog s { s.errLog with rawLoc := BitVec.ofNat 64 v } := rfl

theorem halvesOf_setErrLog (s : State) (l : ErrLog) (who : Requester) : halvesOf (setErrLog s l) who = halvesOf s who := rfl

/-- What the commit of ERR_RAW_LOC's halves leaves. -/
theorem regWrite_rawLoc {s : State} {who : Requester} {o : Nat} {value low : Word} (ho : o % 4 = 0) (hh : isHighHalf s who o = true)
    (hr : reach s who o = (.errLog, 0x2C)) (hl : find (halvesOf s who).heldLow (o - 4) = some low) :
    (regWrite s who o (BitVec.allOnes 32) value).errLog =
        { s.errLog with rawLoc := BitVec.ofNat 64 (value.toNat * 2 ^ 32 + low.toNat) }
      ∧ (halvesOf (regWrite s who o (BitVec.allOnes 32) value) who).heldLow = drop (halvesOf s who).heldLow (o - 4) := by
  obtain ⟨old, hw⟩ := regWrite_high (mask := BitVec.allOnes 32) (value := value) ho hh hl
  rw [hr, rwField_allOnes] at hw
  generalize value.toNat * 2 ^ 32 + low.toNat = v at hw ⊢
  rw [writePair_rawLoc] at hw
  rw [hw, halvesOf_setErrLog, halvesOf_setHalves, landWrite_eq]
  exact ⟨rfl, rfl⟩

theorem regRead_pair {s : State} {who : Requester} {o v : Nat} (h : pairValue s (reachRead s who o) = some v) :
    regRead s who o = (v % 2 ^ 32,
      setHalves s who { halvesOf s who with latched := put (halvesOf s who).latched o (BitVec.ofNat 32 (v / 2 ^ 32)) }) := by
  simp [regRead, h]

theorem regPresent_none (s : State) (x : RegRef) (h : x.1 = .none) : regPresent s x = 0 := by
  obtain ⟨b, o⟩ := x
  obtain rfl : b = .none := h
  simp [regPresent, pairValue_none_block]

theorem regRead_none {s : State} {who : Requester} {o : Nat} (h : (reachRead s who o).1 = .none) : regRead s who o = (0, s) := by
  have h1 := pairValue_none_block s _ h
  have h2 : regValue s (reachRead s who o) = 0 := regPresent_none _ _ h
  have h3 : pairValue s ((reachRead s who o).1, (reachRead s who o).2 - 4) = none := pairValue_none_block _ _ h
  simp [regRead, h1, h2, h3]

theorem mayLand_of_fresh {s : State} {who : Requester} {o : Nat} (h : find s.boot.landed (landKey who o) = none) :
    mayLand s who o = true := by
  unfold mayLand landMclk
  rw [h]
  split <;> rfl

theorem ofNat_mod_word (v : Nat) : (BitVec.ofNat 32 (v % 2 ^ 32) : Word) = BitVec.ofNat 32 v := by
  apply BitVec.eq_of_toNat_eq
  simp

theorem enabledBits_getLsbD (be : BitVec 4) (i : Nat) (h : i < 32) : (enabledBits be).getLsbD i = be.getLsbD (i / 8) := by
  revert be i
  decide

/-- Settles O54: the lemmas about reads and writes of a word, of a low half and of a high half. -/
theorem registerAccesses : Obligations.RegisterAccesses := by
  intro s who offset be value hacc
  refine ⟨fun h => reachRead_of_accessioned h _ _, fun v hv => ?lowRead, fun v hv hm ho => ?lowWrite,
    fun ho hm hh hb hx low hlow => ?highWrite, fun ho hm hp hlow => ?word, fun ho hn hm => ?nowhere, fun ho hn => ?readNowhere,
    landWrite_eq _ _ _, fun k hk hf => mayLand_of_fresh hf, fun i hi => ⟨enabledBits_getLsbD be i hi, fun old => ⟨?rw, fun fresh => ?w1c⟩⟩⟩
  case lowRead =>
    let h := halvesOf s who
    refine ⟨setHalves s who { h with latched := put h.latched offset.toNat (BitVec.ofNat 32 (v / 2 ^ 32)) }, onlyIf_next hacc ?_, rfl, ?_⟩
    · rw [regRead_pair hv, ofNat_mod_word]
    · rw [halvesOf_setHalves]
      exact find_put_same ..
  case lowWrite =>
    have hw := regWrite_low (mask := BitVec.allOnes 32) (value := value) ho hv
    rw [rwField_allOnes] at hw
    let h := halvesOf s who
    refine ⟨setHalves (landWrite s who offset.toNat) who { h with heldLow := put h.heldLow offset.toNat value }, onlyIf_next (by simp [hacc, hm, hv]) hw, rfl, ?_⟩
    rw [halvesOf_setHalves]
    exact find_put_same ..
  case highWrite =>
    exact ⟨_, onlyIf_on (by simp [hacc, hm, hh]), regWrite_rawLoc ho hh (Prod.ext hb hx) hlow⟩
  case word => exact onlyIf_next (by simp [hacc, hm]) (regWrite_word ho hp hlow)
  case nowhere =>
    refine onlyIf_next (by simp [hacc, hm]) ((regWrite_word ho (pairValue_none_block _ _ hn)
      (fun _ => pairValue_none_block _ _ hn)).trans ?_)
    unfold writeReg
    rw [hn]
  case readNowhere => exact onlyIf_next hacc (by rw [regRead_none hn]; rfl)
  case rw =>
    simp only [rwField, BitVec.ushiftRight_zero, BitVec.setWidth_eq, BitVec.getLsbD_or, BitVec.getLsbD_and, BitVec.getLsbD_not, hi,
      enabledBits_getLsbD be i hi]
    cases be.getLsbD (i / 8) <;> simp
  case w1c =>
    simp only [w1c, BitVec.ushiftRight_zero, BitVec.setWidth_eq, BitVec.getLsbD_and, BitVec.getLsbD_not, hi,
      enabledBits_getLsbD be i hi, decide_true, Bool.true_and]

end Sys2Proof.Machine
end

section
/-! PROOF. The error collectors (R420 to R424) and the power and thermal commands (R374 to R406, R445): O57 and O58. -/

namespace Sys2Proof.Machine

/-! ### Collectors (R420, R421) -/

@[simp] theorem noteSource_queue (s : State) (c : Collector) (r : Report) (b : Bool) : (noteSource s c r b).queue = c.queue := rfl
@[simp] theorem noteSource_entries (s : State) (c : Collector) (r : Report) (b : Bool) : (noteSource s c r b).entries = c.entries := rfl

/-- The state once a collector has taken a report from its queue. -/
def taken (s : State) (k : Nat) (h : Heard) : State := setCol s k { colOf s k with queue := (colOf s k).queue.erase h }

@[simp] theorem colOf_taken (s : State) (k : Nat) (h : Heard) :
    colOf (taken s k h) k = { colOf s k with queue := (colOf s k).queue.erase h } := by
  simp [taken]

/-- The matching looks at the entries and the beat alone. -/
theorem matching_taken (s : State) (k : Nat) (h : Heard) (r : Report) :
    matching (taken s k h) (colOf (taken s k h) k) r = matching s (colOf s k) r := by
  rw [colOf_taken]
  rfl

/-- The entry that a report opens. -/
def openedEntry (s : State) (h : Heard) : ColEntry :=
  ⟨h.rep, 1, now s, now s, logTail s, h.part, (h.part.map fun p => (partOf s p).job).getD 0, false⟩

section Collect
variable {s : State} {k : Nat} {h : Heard}

theorem collect_matched {e : ColEntry} (hm : matching s (colOf s k) h.rep = some e) :
    collect s k h = setCol s k { noteSource s (colOf s k) h.rep false with
      entries := (colOf s k).entries.map fun x => if x.index = e.index then { x with count := x.count + 1, last := now s } else x } := by
  simp only [collect, hm]

theorem collect_full (hm : matching s (colOf s k) h.rep = none) (hl : 64 ≤ (colOf s k).entries.length) :
    collect s k h = alertOverflow (setCol s k { noteSource s (colOf s k) h.rep true with
      overflow := true, setAt := put (colOf s k).setAt 0 (now s) }) := by
  simp only [collect, hm, hl, if_true]

theorem collect_lost (hm : matching s (colOf s k) h.rep = none) (hl : (colOf s k).entries.length < 64) (hf : logFree s = false) :
    collect s k h = setCol (logOverflow s) k (noteSource s (colOf s k) h.rep true) := by
  simp [collect, hm, hl, hf]

theorem collect_opened (hm : matching s (colOf s k) h.rep = none) (hl : (colOf s k).entries.length < 64) (hf : logFree s = true) :
    collect s k h = setCol (reserveLog s) k { noteSource s (colOf s k) h.rep false with
      entries := (colOf s k).entries ++ [openedEntry s h] } := by
  simp [collect, openedEntry, hm, hl, hf]

end Collect

@[simp] theorem alert_logFlag (b : Boot) (t : Nat) : (b.alert 5 t).alertLog = true := by
  simp [Boot.alert]

/-- Settles O57: the four ends of a report, each an equation for `collect`. -/
theorem errorCollection : Obligations.ErrorCollection := by
  intro s stack h e hr
  have hl : live s = true := live_of hr
  refine ⟨?direct, fun hn ht => ?queued, fun he hc hd => ?close, fun he hc hd hno => ?write⟩
  case direct => exact onlyIf_on hl
  case queued =>
    have hx : exec (.collectorReport stack none) s = .next (collect (taken s stack.val h) stack.val h) := by
      change execCollectorReport stack none s = _
      simp only [execCollectorReport, hn]
      exact onlyIf_on (by simp [hl, ht])
    have hm := matching_taken s stack.val h h.rep
    refine ⟨hx, fun hs => ⟨_, hx, ?matched⟩, fun hs hlen hf => ⟨_, openedEntry (taken s stack.val h) h, hx, ?opened⟩,
      fun hs hlen => ⟨_, hx, ?full⟩, fun hs hlen hf => ⟨_, hx, ?lost⟩⟩
    case matched =>
      rw [collect_matched (hm.trans hs)]
      simp [taken]
    case opened =>
      rw [collect_opened (hm.trans hs) (by simpa using hlen) hf]
      refine ⟨by simp, rfl, rfl, rfl, rfl, rfl, ?_, rfl⟩
      rfl
    case full =>
      rw [collect_full (hm.trans hs) (by simpa using hlen)]
      simp [alertOverflow, colOf, setCol, taken]
    case lost =>
      rw [collect_lost (hm.trans hs) (by simpa using hlen) hf]
      simp [logOverflow, alertOverflow]
  case close =>
    exact (onlyIf_on (by simp [hl, he, hc, hd])).trans (by simp [he, hc, hd])
  case write =>
    have hfind : (colOf s stack.val).entries.find? (fun e => e.closed && e.first + 252500 = now s) = some e := by simp [he, hc, hd]
    refine ⟨putLog (setCol s stack.val { colOf s stack.val with entries := [] }) e.index
      (logBlock stack.val e.rep e.count e.first e.last e.index e.part e.job), ?_, ?_, ?_, rfl⟩
    · change execLogEntryWrite stack s = _
      simp only [execLogEntryWrite, hfind, hno]
      refine onlyIf_next hl ?_
      simp [he]
    · simp [putLog, colOf, setCol]
    · exact look_put_same ..

/-! ### Numbered lists -/

theorem find_zipIdx {α : Type} (l : List α) (k i : Nat) : find ((l.zipIdx k).map fun x => (x.2, x.1)) (k + i) = l[i]? := by
  induction l generalizing k i with
  | nil => rfl
  | cons a l ih =>
    simp only [List.zipIdx_cons, List.map_cons, find]
    cases i with
    | zero => simp
    | succ i =>
      rw [if_neg (by omega), if_neg (by omega), show k + (i + 1) = k + 1 + i by omega, ih]
      rfl

theorem find_range' {α : Type} (f : Nat → α) (n k i : Nat) (h : i < n) :
    find ((List.range' k n).map fun r => (r, f r)) (k + i) = some (f (k + i)) := by
  induction n generalizing k i with
  | zero => omega
  | succ n ih =>
    simp only [List.range'_succ, List.map_cons, find]
    cases i with
    | zero => simp
    | succ i =>
      rw [if_neg (by omega), if_neg (by omega), show k + (i + 1) = k + 1 + i by omega]
      exact ih _ _ (by omega)

theorem look_range {α : Type} (f : Nat → α) (n i : Nat) (d : α) (h : i < n) :
    look ((List.range n).map fun r => (r, f r)) i d = f i := by
  have hf := find_range' f n 0 i h
  rw [Nat.zero_add, ← List.range_eq_range'] at hf
  simp [look, hf]

/-! ### Regions (R393, R403) -/

@[simp] theorem regionOf_setRegion (s : State) (r i : Nat) (x : Region) :
    regionOf (setRegion s r x) i = if i = r then x else regionOf s i := by
  unfold regionOf setRegion
  split
  case isTrue h => rw [h, look_put_same]
  case isFalse h => rw [look_put_ne _ _ _ _ _ h]

/-- The states agree in what a model run has read: the run's number and coolant, each region's reading and effective temperature and
the allowed powers; a trip stays. -/
structure SameReadings (t s : State) : Prop where
  runs : t.thermal.runs = s.thermal.runs
  coolant : t.thermal.coolant = s.thermal.coolant
  sensor : ∀ r, (regionOf t r).sensor = (regionOf s r).sensor
  eff : ∀ r, (regionOf t r).eff = (regionOf s r).eff
  allow : t.power.allowNext = s.power.allowNext
  tripped : s.boot.tripped = true → t.boot.tripped = true

theorem SameReadings.refl (s : State) : SameReadings s s := ⟨rfl, rfl, fun _ => rfl, fun _ => rfl, rfl, id⟩

theorem SameReadings.trans {t u s : State} (a : SameReadings t u) (b : SameReadings u s) : SameReadings t s :=
  ⟨a.runs.trans b.runs, a.coolant.trans b.coolant, fun r => (a.sensor r).trans (b.sensor r), fun r => (a.eff r).trans (b.eff r),
    a.allow.trans b.allow, fun h => a.tripped (b.tripped h)⟩

theorem SameReadings.foldl {α : Type} {g : State → α → State} (h : ∀ s x, SameReadings (g s x) s) (l : List α) (s : State) :
    SameReadings (l.foldl g s) s := foldl_inv (fun t => SameReadings t s) (fun _ x ht => (h _ x).trans ht) l s (.refl s)

theorem SameReadings.of_mild {t s : State} (m : Mild t s) : SameReadings t s :=
  ⟨by rw [m.thermal], by rw [m.thermal], fun r => by rw [regionOf, m.thermal]; rfl, fun r => by rw [regionOf, m.thermal]; rfl,
    by rw [m.power], fun h => by rw [m.boot]; exact h⟩

theorem episodeStep_readings (x : Region) (r g b : Nat) :
    (episodeStep x r g b).sensor = x.sensor ∧ (episodeStep x r g b).eff = x.eff := by
  unfold episodeStep
  dsimp only
  split
  · split <;> exact ⟨rfl, rfl⟩
  · split
    · exact ⟨rfl, rfl⟩
    · split <;> exact ⟨rfl, rfl⟩
  · split
    · exact ⟨rfl, rfl⟩
    · split <;> exact ⟨rfl, rfl⟩

theorem setRegion_readings (s : State) (r : Nat) (x : Region) (h1 : x.sensor = (regionOf s r).sensor) (h2 : x.eff = (regionOf s r).eff) :
    SameReadings (setRegion s r x) s := by
  refine ⟨rfl, rfl, fun i => ?_, fun i => ?_, rfl, id⟩ <;> rw [regionOf_setRegion] <;> split
  case refine_1.isTrue h => rw [h1, h]
  case refine_2.isTrue h => rw [h2, h]
  all_goals rfl

theorem runEpisode_readings (s : State) (r : Nat) : SameReadings (runEpisode s r) s := by
  obtain ⟨h1, h2⟩ := episodeStep_readings (regionOf s r) r s.thermal.grace.toNat (now s)
  have h := setRegion_readings s r _ h1 h2
  unfold runEpisode
  dsimp only
  split
  · refine .trans (.of_mild (Mild.foldl (fun t p => ?_) _ _)) h
    split
    · exact postEvent_mild _ _ _ _
    · exact .refl _
  · exact h

theorem writeCap_readings (s : State) (p : Nat) : SameReadings (writeCap s p) s := by
  unfold writeCap
  dsimp only
  split
  · exact .trans (.of_mild (postEvent_mild _ _ _ _)) ⟨rfl, rfl, fun _ => rfl, fun _ => rfl, rfl, id⟩
  · exact ⟨rfl, rfl, fun _ => rfl, fun _ => rfl, rfl, id⟩

theorem paceVault_readings (s : State) (v : Nat) : SameReadings (paceVault s v) s := ⟨rfl, rfl, fun _ => rfl, fun _ => rfl, rfl, id⟩

theorem runCycles_readings (s : State) (k : Nat) : SameReadings (runCycles s k) s := ⟨rfl, rfl, fun _ => rfl, fun _ => rfl, rfl, id⟩

/-- The latch that a trip sets (R403). -/
def latchTrip (s : State) (r : Nat) : State :=
  { s with boot := { s.boot with tripped := true, tripRegion := BitVec.ofNat 10 r, tripOffAt := some (now s + 2500) } }

/-- A trip is the latch, and what posting and raising faults may change. -/
theorem tripModule_mild {s : State} (r : Nat) (h : s.boot.tripped = false) : Mild (tripModule s r) (latchTrip s r) := by
  unfold tripModule
  rw [if_neg (by simp [h])]
  exact (raiseIbi_mild _ _).trans ((postEventAll_mild _ _ _ _).trans (Mild.foldl (fun t p => raiseFault_mild _ _ _) _ _))

theorem tripModule_tripped (s : State) (r : Nat) : (tripModule s r).boot.tripped = true := by
  by_cases h : s.boot.tripped = true
  · rw [tripModule, if_pos h, h]
  · rw [(tripModule_mild r (by simpa using h)).boot]
    rfl

theorem tripModule_readings (s : State) (r : Nat) : SameReadings (tripModule s r) s := by
  by_cases h : s.boot.tripped = true
  · rw [tripModule, if_pos h]
    exact .refl s
  · exact .trans (.of_mild (tripModule_mild r (by simpa using h))) ⟨rfl, rfl, fun _ => rfl, fun _ => rfl, rfl, fun _ => rfl⟩

theorem tripOver_readings (s : State) : SameReadings (tripOver s) s := by
  unfold tripOver
  split
  · exact tripModule_readings _ _
  · exact .refl s

theorem tripOver_tripped {s : State} {r : Nat} (hr : r < 528) (ht : tripAt r ≤ (regionOf s r).eff) :
    (tripOver s).boot.tripped = true := by
  unfold tripOver
  split
  · exact tripModule_tripped _ _
  case h_2 h => exact absurd ht (by simpa using List.find?_eq_none.1 h r (List.mem_range.2 hr))

/-- What a run does once it has read: episodes, caps, paces, the trip and the cycles. -/
def actOnRun (s : State) : State := runAllCycles (tripOver (paceVaults (writeCaps (runEpisodes s))))

theorem beforeTrip_readings (s : State) : SameReadings (paceVaults (writeCaps (runEpisodes s))) s := by
  refine .trans (.foldl paceVault_readings _ _) (.trans (.foldl (fun t p => ?_) _ _) (.foldl runEpisode_readings _ _))
  split
  · exact writeCap_readings _ _
  · exact .refl _

theorem actOnRun_readings (s : State) : SameReadings (actOnRun s) s :=
  .trans (.foldl runCycles_readings _ _) (.trans (tripOver_readings _) (beforeTrip_readings s))

theorem actOnRun_tripped {s : State} {r : Nat} (hr : r < 528) (ht : tripAt r ≤ (regionOf (actOnRun s) r).eff) :
    (actOnRun s).boot.tripped = true := by
  rw [(actOnRun_readings s).eff, ← (beforeTrip_readings s).eff] at ht
  exact (SameReadings.foldl runCycles_readings _ _).tripped (tripOver_tripped hr ht)

theorem actOnRun_calm (s : State) : calm (actOnRun s) s :=
  calm_trans (runAllCycles_calm _) (calm_trans (tripOver_calm _) (calm_trans (paceVaults_calm _) (calm_trans (writeCaps_calm _)
    (runEpisodes_calm s))))

/-! ### The reading of a run (R393 to R396) -/

theorem curatorLog_thermal (s : State) (a b c d : Nat) : (curatorLog s a b c d).thermal = s.thermal := by
  unfold curatorLog
  dsimp only
  split <;> rfl

/-- The states agree in the run's number and in every region. -/
def SameRegions (t s : State) : Prop := t.thermal.runs = s.thermal.runs ∧ ∀ i, regionOf t i = regionOf s i

theorem SameRegions.trans {t u s : State} (a : SameRegions t u) (b : SameRegions u s) : SameRegions t s :=
  ⟨a.1.trans b.1, fun i => (a.2 i).trans (b.2 i)⟩

theorem SameRegions.ite {c : Prop} [Decidable c] {t s : State} (a : SameRegions t s) : SameRegions (if c then t else s) s := by
  split
  · exact a
  · exact ⟨rfl, fun _ => rfl⟩

theorem logMark_regions (s : State) (r k : Nat) : SameRegions (logMark s r k) s := by
  unfold SameRegions logMark regionOf
  dsimp only
  rw [curatorLog_thermal]
  exact ⟨rfl, fun _ => rfl⟩

/-- The marks and the flag that a region's part of a run may set. -/
def markRun (broken suspect : Bool) (high r : Nat) (s : State) : State :=
  let s := if broken then logMark s r 0 else s
  let s := if suspect then logMark s r 1 else s
  if 1000 ≤ high then { s with thermal := { s.thermal with modelLowFlag := true, setAt := put s.thermal.setAt 2 (now s) } } else s

theorem markRun_regions (broken suspect : Bool) (high r : Nat) (s : State) : SameRegions (markRun broken suspect high r s) s := by
  refine .trans (u := if suspect then logMark (if broken then logMark s r 0 else s) r 1 else if broken then logMark s r 0 else s)
    (.ite ⟨rfl, fun _ => rfl⟩) (.trans (.ite (logMark_regions _ _ _)) (.ite (logMark_regions _ _ _)))

/-- A region's part of a run sets the region, its reading in it, and then marks and flags. -/
theorem runRegion_eq (s : State) (first : Bool) (r : Nat) (b : BitVec 12) (m : Int) :
    ∃ x broken suspect high, runRegion s first r b m = markRun broken suspect high r (setRegion s r x) ∧ x.sensor = b :=
  ⟨_, _, _, _, rfl, rfl⟩

theorem runRegion_reads (s : State) (first : Bool) (r : Nat) (b : BitVec 12) (m : Int) :
    (runRegion s first r b m).thermal.runs = s.thermal.runs
      ∧ ∀ i, (regionOf (runRegion s first r b m) i).sensor = if i = r then b else (regionOf s i).sensor := by
  obtain ⟨x, broken, suspect, high, he, hx⟩ := runRegion_eq s first r b m
  obtain ⟨h1, h2⟩ := markRun_regions broken suspect high r (setRegion s r x)
  rw [he]
  refine ⟨h1, fun i => ?_⟩
  rw [h2, regionOf_setRegion]
  split
  · exact hx
  · rfl

/-- After the run's part for every region, each region that has one holds its reading. -/
theorem runRegions_reads (first : Bool) (l : List (Int × BitVec 12)) (k : Nat) (s : State) :
    (runRegions s first (l.zipIdx k)).thermal.runs = s.thermal.runs
      ∧ ∀ i x, (l[i]?).map (·.2) = some x → (regionOf (runRegions s first (l.zipIdx k)) (k + i)).sensor = x := by
  have hbelow : ∀ (l : List (Int × BitVec 12)) (k : Nat) (s : State), (runRegions s first (l.zipIdx k)).thermal.runs = s.thermal.runs
      ∧ ∀ i, i < k → (regionOf (runRegions s first (l.zipIdx k)) i).sensor = (regionOf s i).sensor := by
    intro l
    induction l with
    | nil => exact fun _ _ => ⟨rfl, fun _ _ => rfl⟩
    | cons a l ih =>
      intro k s
      obtain ⟨h1, h2⟩ := runRegion_reads s first k a.2 a.1
      obtain ⟨g1, g2⟩ := ih (k + 1) (runRegion s first k a.2 a.1)
      exact ⟨g1.trans h1, fun i hi => (g2 i (by omega)).trans ((h2 i).trans (if_neg (by omega)))⟩
  refine ⟨(hbelow l k s).1, ?_⟩
  induction l generalizing k s with
  | nil => simp
  | cons a l ih =>
    intro i x hx
    cases i with
    | zero =>
      obtain ⟨-, h2⟩ := runRegion_reads s first k a.2 a.1
      obtain ⟨-, g2⟩ := hbelow l (k + 1) (runRegion s first k a.2 a.1)
      refine (g2 k (by omega)).trans ((h2 k).trans ((if_pos rfl).trans ?_))
      simpa using hx
    | succ i =>
      have h := ih (k + 1) (runRegion s first k a.2 a.1) i x (by simpa using hx)
      rwa [show k + 1 + i = k + (i + 1) by omega] at h

theorem modelTemps_length (s : State) (sensors : List (BitVec 12)) (boundary : Int) :
    (modelTemps s sensors boundary).length = 528 := by
  unfold modelTemps
  generalize hn : 528 = n
  dsimp only
  split <;> rw [List.length_map, List.length_range]

theorem marginOf_congr {s t : State} (h : ∀ r, (regionOf t r).eff = (regionOf s r).eff) (rail : Nat) : marginOf t rail = marginOf s rail := by
  simp only [marginOf, h]

/-- The state in which a run has read its sensors, and noted itself. -/
def readRun (s : State) (sensors : List (BitVec 12)) (coolant : BitVec 12) (broken : Bool) : State :=
  noteRun (runRegions s (decide (s.thermal.runs = 0))
    ((modelTemps s sensors (if broken then 400 else toSigned 12 coolant.toNat)).zip sensors).zipIdx) coolant broken

section Run
variable {s : State} {sensors : List (BitVec 12)} {coolant : BitVec 12} {broken : Bool}

theorem readRun_runs : (readRun s sensors coolant broken).thermal.runs = s.thermal.runs + 1 :=
  congrArg (· + 1) (runRegions_reads _ _ 0 s).1

theorem readRun_sensor (hlen : sensors.length = 528) {r : Nat} {x : BitVec 12} (hx : sensors[r]? = some x) :
    (regionOf (readRun s sensors coolant broken) r).sensor = x := by
  obtain ⟨hr, -⟩ := List.getElem?_eq_some_iff.1 hx
  have h := (runRegions_reads (decide (s.thermal.runs = 0))
    ((modelTemps s sensors (if broken then 400 else toSigned 12 coolant.toNat)).zip sensors) 0 s).2 r x
  rw [Nat.zero_add] at h
  refine h ?_
  have hm := modelTemps_length s sensors (if broken then 400 else toSigned 12 coolant.toNat)
  rw [(List.getElem?_zip_eq_some (z := (_, x))).2 ⟨List.getElem?_eq_getElem (by omega), hx⟩]
  rfl

/-- A run: it reads, sets the allowed powers and acts. -/
theorem modelRun_reads (hr : s.sup.inReset = false) (hlen : sensors.length = 528) (hf : s.power.forModel = true)
    (hd : inDomainReset s 4 0 = false) (hb : now s % 250000 = 12500) :
    ∃ t, exec (.modelRun sensors coolant broken) s = .next t ∧ t.thermal.runs = s.thermal.runs + 1 ∧ t.thermal.coolant = coolant
      ∧ (∀ r x, sensors[r]? = some x → (regionOf t r).sensor = x)
      ∧ (∀ rail, rail < 208 → look t.power.allowNext rail (ratedMw rail) = allowedFor rail (marginOf t rail))
      ∧ (∀ r, r < 528 → tripAt r ≤ (regionOf t r).eff → t.boot.tripped = true)
      ∧ t.shelf = s.shelf ∧ t.clm = s.clm ∧ t.dram = s.dram := by
  have h := actOnRun_readings (setAllowed (readRun s sensors coolant broken))
  obtain ⟨-, -, -, -, e1, e2, e3, -⟩ := calm_trans (actOnRun_calm _) (calm_trans (setAllowed_calm _) (calm_trans (noteRun_calm _ coolant broken)
    (runRegions_calm s (decide (s.thermal.runs = 0))
      ((modelTemps s sensors (if broken then 400 else toSigned 12 coolant.toNat)).zip sensors).zipIdx)))
  refine ⟨actOnRun (setAllowed (readRun s sensors coolant broken)), ?_, h.runs.trans readRun_runs, h.coolant, fun r x hx => ?_,
    fun rail hlt => ?_, fun r => actOnRun_tripped, e1, e2, e3⟩
  · exact (if_neg (by simp [hlen])).trans (onlyIf_on (by simp [live_of hr, hf, hd, hb]))
  · exact (h.sensor r).trans (readRun_sensor hlen hx)
  · rw [h.allow, marginOf_congr h.eff]
    exact look_range _ 210 rail _ (by omega)

end Run

/-! ### Self-checks (R393) -/

theorem selfFails_regions (failed : List Nat) (s : State) (r : Nat) :
    (regionOf (failed.foldl (fun s r => setRegion s r { regionOf s r with selfFail := true }) s) r).selfFail =
      (decide (r ∈ failed) || (regionOf s r).selfFail) := by
  induction failed generalizing s with
  | nil => simp
  | cons a l ih =>
    rw [List.foldl_cons, ih, regionOf_setRegion]
    split
    case isTrue h => simp [h]
    case isFalse h => simp [h]

theorem selfFails_keeps (failed : List Nat) (s : State) :
    failed.foldl (fun s r => setRegion s r { regionOf s r with selfFail := true }) s =
      { s with thermal := (failed.foldl (fun s r => setRegion s r { regionOf s r with selfFail := true }) s).thermal } :=
  foldl_inv (fun t => t = { s with thermal := t.thermal }) (fun t r h => by rw [h]; rfl) failed s rfl

/-! ### The current report and the guard (R374, R386) -/

theorem guardMet_of_above {p : Nat} {l : List Nat} (h : 96000000 < p) : guardMet ((p :: l).take 1000) = true := by
  simp [guardMet, h]

/-- Settles O58: each command's guard holds, and the run's parts are followed by what they read. -/
theorem powerAndThermalCommands : Obligations.PowerAndThermalCommands := by
  intro s coolant v a rails sensors broken failed stack hr
  have hl : live s = true := live_of hr
  refine ⟨fun hlen h1 h2 h3 => ?report, fun h => if_pos h, fun h => onlyIf_on (by simp [hl, h]),
    fun hlen hf hd hb => modelRun_reads hr hlen hf hd hb, fun h => ⟨if_pos h, if_pos h⟩, fun hf hd => ?check, fun h => if_pos h,
    fun b hu hb => ?flash, fun r hlen hd hb ht hfind => ?trip⟩
  case report =>
    refine ⟨_, (if_neg (by simp [hlen])).trans (onlyIf_on (by simp [hl, h1, h2, h3])), rfl, rfl, rfl, rfl, fun i x hx => ?_,
      fun hp => ⟨?_, fun hg => ?_⟩, rfl⟩
    · have hz := find_zipIdx rails 0 i
      rw [Nat.zero_add, hx] at hz
      exact congrArg (Option.getD · 0) hz
    · exact Bool.or_eq_true_iff.2 (.inl (guardMet_of_above hp))
    · exact Bool.or_eq_true_iff.2 (.inr (by rw [guardMet_of_above hp, hg]; rfl))
  case check =>
    refine ⟨_, (if_neg (by simp [hf])).trans (onlyIf_on ?_), selfFails_regions failed s, rfl, ?_⟩
    · rcases hd with h | ⟨h, hv⟩
      · obtain ⟨b, hb, he⟩ := Option.map_eq_some_iff.1 h
        simp [hl, hb, he]
      · simp [hl, h, hv]
    · rw [selfFails_keeps failed s]
  case flash =>
    let c := look s.thermal.cycles stack.val {}
    refine ⟨{ s with
      flash := { s.flash with cycles := put s.flash.cycles stack.val c.count }
      thermal := { s.thermal with cycles := put s.thermal.cycles stack.val { c with unwritten := none } } }, ?_, ?_, ?_, rfl⟩
    · change execCycleCountFlashWrite stack s = _
      simp only [execCycleCountFlashWrite, hu]
      exact onlyIf_on (by simp [hl, hb])
    · exact look_put_same ..
    · exact congrArg CycleCounter.unwritten (look_put_same ..)
  case trip =>
    have hm := tripModule_mild r ht
    refine ⟨tripModule s r, (if_neg (by simp [hlen])).trans ?_, by rw [hm.boot]; rfl, by rw [hm.boot]; rfl, by rw [hm.boot]; rfl, hm.flash⟩
    rw [hfind]
    exact onlyIf_on (by simp [hl, hd, hb])

end Sys2Proof.Machine
end

section
/-! PROOF. The rotations (R35 to R39, R91) and the gateway's intake and idle checks (R200, R206, R208): O35 and O34. -/

namespace Sys2Proof.Machine

/-! ### Rotations (R35 to R39) -/

theorem waits_of {r : Req} {k i c : Nat} {rest : List (Nat × Nat)} (hs : r.stage = .route c) (hr : r.route = (k, i) :: rest) :
    r.waits = some (k, i, c) := by
  simp [Req.waits, hs, hr]

/-- A request that is taken is due a slot of its own, or an idle one under reclaim. -/
theorem slot_of_takes {s : State} {n k i c pc : Nat} {r : Req} (hw : r.waits = some (k, i, c)) (ht : takes s n r pc = true) :
    ownsSlot s r k i pc = true ∨ (r.reclaim = true ∧ idleSlot s k i pc = true) := by
  simp only [takes, hw, Bool.and_eq_true, Bool.or_eq_true, reclaims] at ht
  obtain ⟨-, h | ⟨⟨⟨h1, -⟩, h2⟩, -⟩⟩ := ht
  · exact .inl h
  · exact .inr ⟨h1, h2⟩

theorem countSlot_keeps (s : State) (r : Req) (k i c pc : Nat) :
    countSlot s r k i c pc = { s with ports := (countSlot s r k i c pc).ports } := by
  unfold countSlot
  split <;> rfl

/-- Settles O35: the slot's use, then the request at its next resource. -/
theorem rotationSlots : Obligations.RotationSlots := by
  intro s n j r k i c next rest pc hr hf hs hro ht he
  have hw := waits_of hs hro
  have hk := countSlot_keeps s r k i c pc
  refine ⟨setReq (useSlot (countSlot s r k i c pc) k i pc) n
    { r with route := next :: rest, stage := .route (if k = 2 then pc + 24 else pc) }, _, ?_, find_put_same .., rfl, rfl, rfl, rfl, rfl,
    look_put_same .., ?_, ?_, ?_, ?_, slot_of_takes hw ht⟩
  · change execRotationSlotTake n j s = _
    simp only [execRotationSlotTake, hf, hw, hro]
    exact onlyIf_next (by simp [live_of hr, ht, pc]) (if_neg (by simp [he]))
  all_goals
    simp only [setReq, useSlot]
    rw [hk]

/-! ### The gateway and the idle checks (R200, R206, R208) -/

theorem curatorLog_channels (s : State) (a b c d : Nat) : (curatorLog s a b c d).channels = s.channels := by
  unfold curatorLog
  dsimp only
  split <;> rfl

theorem autoRecord_channels (s : State) (r : BitVec 256) : (autoRecord s r).channels = s.channels := by
  unfold autoRecord
  split
  · rfl
  · split
    · rfl
    · exact curatorLog_channels _ _ _ _ _

theorem autoRetire_channels (s : State) (r : BitVec 256) : (autoRetire s r).channels = s.channels := by
  refine Eq.trans ?_ (autoRecord_channels s r)
  unfold autoRetire afterRecord
  dsimp only
  split
  · exact autoRecord_channels _ _
  · split
    · exact autoRecord_channels _ _
    · rfl

theorem setCabStatus_channels (s : State) (cab : Option Nat) (bit : Nat) : (setCabStatus s cab bit).channels = s.channels := by
  unfold setCabStatus
  split <;> rfl

theorem kernelFault_channels (s : State) (a b c d e f g : Nat) (why : Option (Nat × Nat × Nat × Nat)) :
    (kernelFault s a b c d e f g why).channels = s.channels :=
  (raiseFaultO_mild _ _ _).channels.trans rfl

/-- A channel is marked failed and its site retired (R208). -/
theorem markFailed_chan (s : State) (site : Nat) :
    (chanOf (markFailed s site) site).failed = true ∧ (chanOf (markFailed s site) site).retired = true := by
  have h : (markFailed s site).channels = (setChannel s site { chanOf s site with failed := true, retired := true }).channels := by
    unfold markFailed
    dsimp only
    split
    · rw [kernelFault_channels, (postEvent_mild _ _ _ _).channels, autoRetire_channels, setCabStatus_channels]
    · rw [autoRetire_channels, setCabStatus_channels]
  unfold chanOf
  rw [h]
  simp [setChannel]

/-- Settles O34: the guards hold; a pass that leaves too few spares marks the channel failed. -/
theorem gatewayAndIdleChecks : Obligations.GatewayAndIdleChecks := by
  intro s cab j site n at_ failGa failUl rest r hr
  have hl : live s = true := live_of hr
  refine ⟨fun he hq hf ha hg hc => ?intake, fun he hd hp hpa => ⟨fun h1 h2 => ?spares, fun hfail => ?again, fun hfail h => ?fails⟩,
    fun hd hb => onlyIf_on (by simp [hl, hd, hb])⟩
  case intake =>
    change execGatewayRequest cab j s = _
    simp only [execGatewayRequest, hq, hf]
    exact onlyIf_on (by simp [hl, he, ha, hg, hc])
  case spares =>
    refine (onlyIf_on (by simp [hl, he, hd, hp, hpa])).trans ?_
    rw [if_neg (by simp; omega), if_pos h1, if_pos h2]
  case again =>
    refine ⟨_, (onlyIf_on (by simp [hl, he, hd, hp, hpa])).trans (congrArg _ (if_neg (by simp [hfail]))), ?_⟩
    simp [hfail]
  case fails =>
    refine ⟨_, (onlyIf_on (by simp [hl, he, hd, hp, hpa])).trans (congrArg _ (if_pos (by simp [hfail, h]))), ?_⟩
    exact markFailed_chan _ _

end Sys2Proof.Machine
end

section
/-! PROOF. Writes of CLM bytes, the egress and the returns (R89, R91, R92, R103): O33. -/

namespace Sys2Proof.Machine

theorem wf_clm {s : State} (h : Memory.wf s = true) : storeOk clmCodec s.clm = true := by
  simp only [Memory.wf, Bool.and_eq_true] at h
  exact h.1.2

theorem wf_shelf {s : State} (h : Memory.wf s = true) : storeOk shelfCodec s.shelf = true := by
  simp only [Memory.wf, Bool.and_eq_true] at h
  exact h.1.1

theorem coreOf_of_find {s : State} {id : Nat} {c : Core} (h : find s.cores id = some c) : coreOf s id = c := by
  simp [coreOf, look, h]

/-! ### Bytes written into the CLM (R87) -/

/-- A CLM byte written reads back, and every other byte reads as before. -/
theorem clmWrite_read {s : State} (h : storeOk clmCodec s.clm = true) (k : Nat) (b : Byte) (j : Nat) :
    wordRead (wordWrite s.clm clmCodec k b.toNat) clmCodec j = if j = k then .clean b.toNat else wordRead s.clm clmCodec j := by
  split
  case isTrue hj =>
    rw [hj]
    exact wordRead_wordWrite_same h (by simp) (by simpa [clmCodec] using b.isLt)
  case isFalse hj => exact wordRead_wordWrite_ne h hj _

theorem clmPut_cores (s : State) (core a : Nat) (bs : List Byte) : (clmPut s core a bs) = { s with clm := (clmPut s core a bs).clm } := by
  induction bs generalizing s a with
  | nil => rfl
  | cons b bs ih =>
    rw [clmPut, ih]

/-- Bytes put into a core's CLM read back, and every other byte reads as before. -/
theorem clmPut_read {s : State} (h : storeOk clmCodec s.clm = true) (core a : Nat) (bs : List Byte) :
    (∀ i b, bs[i]? = some b → wordRead (clmPut s core a bs).clm clmCodec (clmKey s core (a + i)) = .clean b.toNat)
      ∧ ∀ k, (∀ i, i < bs.length → k ≠ clmKey s core (a + i)) →
        wordRead (clmPut s core a bs).clm clmCodec k = wordRead s.clm clmCodec k := by
  induction bs generalizing s a with
  | nil => exact ⟨fun i b hb => by simp at hb, fun k _ => rfl⟩
  | cons x bs ih =>
    obtain ⟨ih1, ih2⟩ := ih (s := { s with clm := wordWrite s.clm clmCodec (clmKey s core a) x.toNat }) (wordWrite_ok _ _ _ _ h) (a + 1)
    have hkey (n : Nat) : clmKey { s with clm := wordWrite s.clm clmCodec (clmKey s core a) x.toNat } core n = clmKey s core n := rfl
    simp only [hkey] at ih1 ih2
    refine ⟨fun i b hb => ?_, fun k hk => ?_⟩
    · cases i with
      | zero =>
        obtain rfl : x = b := by simpa using hb
        rw [clmPut, ih2 _ fun i _ => by unfold clmKey; omega, clmWrite_read h, Nat.add_zero, if_pos rfl]
      | succ i =>
        have := ih1 i b (by simpa using hb)
        rwa [show a + 1 + i = a + (i + 1) by omega] at this
    · rw [clmPut, ih2 k fun i hi => ?_, clmWrite_read h, if_neg (by simpa using hk 0 (by simp))]
      rw [show a + 1 + i = a + (i + 1) by omega]
      exact hk (i + 1) (by simpa using hi)

/-! ### Returns (R91, R103) -/

theorem writeResults_active (l : List PendResult) {c d : Core} (h : c.active = d.active) :
    (l.foldl writeResult c).active = (l.foldl writeResult d).active := by
  induction l generalizing c d with
  | nil => exact h
  | cons p l ih => exact ih (by simp only [writeResult, h])

theorem writeResults_loads (l : List PendResult) (c : Core) : (l.foldl writeResult c).loads = c.loads := by
  induction l generalizing c with
  | nil => rfl
  | cons p l ih => exact ih _

/-- A command of a core at an edge of its clock. -/
theorem atCore_some {core : CoreRef} {j : Fin 7} {s t : State} {c : Core} {f : Nat → Core → Nat → Option State}
    (hr : s.sup.inReset = false) (he : edgeOk s (wingOfCore (coreId core)) j.val = true) (hc : find s.cores (coreId core) = some c)
    (hf : f (coreId core) c (wtime s (wingOfCore (coreId core)) j.val) = some t) : atCore core j s f = .next t := by
  simp [atCore, hc, live_of hr, he, hf]

theorem sendFlit_find (s : State) (n : Nat) (f : Flit) (e : Nat) :
    ∃ g, find (sendFlit s n f e).flits n = some g ∧ g.path.isSome = true ∧ g.data = f.data ∧ g.target = f.target ∧ g.offset = f.offset := by
  unfold sendFlit
  dsimp only
  generalize meshStops _ _ = stops
  generalize hf : ({ f with path := _, writeAt := _ } : Flit) = f'
  have hfind := find_map_keyed (fun k (x : Flit) => { x with lostAt := (find stops k).bind (stopPlace
    { s with flits := put s.flits n f' } x) }) (put s.flits n f') n
  rw [find_put_same] at hfind
  exact ⟨_, hfind, by rw [← hf]; exact ⟨rfl, rfl, rfl, rfl⟩⟩

theorem sendFlit_cores (s : State) (n : Nat) (f : Flit) (e : Nat) : (sendFlit s n f e).cores = s.cores := rfl

/-- Settles O33: each command's function at the core's edge. -/
theorem egressAndReturns : Obligations.EgressAndReturns := by
  intro s core j c n rest r f hr hwf id w g he hc
  have hl : live s = true := live_of hr
  have hco := coreOf_of_find hc
  refine ⟨fun hq hg ha hf => ?request, fun hq hg ha hf => ?flit, fun l hld hp => ?load, fun p tour hf ho hs ht => ?ack,
    fun hf hlost hw => ?put⟩
  case request =>
    refine ⟨sendRequest (setCore s id { c with egress := rest, egressAt := some (wtime s w j.val) }) id n g r, _,
      (atCore_some hr he hc ?_ : execEgressTake core j s = _), ?_, find_put_same .., rfl, rfl, rfl, rfl, rfl⟩
    · simp only [hq, hf]
      exact if_neg (by simp [hg, ha, g, w, id])
    · exact congrArg Core.egress (setCore_self ..)
  case flit =>
    obtain ⟨f', h1, h2⟩ := sendFlit_find (setCore s id { c with egress := rest, egressAt := some (wtime s w j.val) }) n f j.val
    refine ⟨_, f', (atCore_some hr he hc ?_ : execEgressTake core j s = _), ?_, h1, h2⟩
    · simp only [hq, hf]
      exact if_neg (by simp [hg, ha, g, w, id])
    · exact congrArg Core.egress (setCore_self ..)
  case load =>
    let net' := l.open_.foldl drop s.net
    let c' : Core := { c with unacked := c.unacked.filter fun u => u.2.1 || u.2.2 ∉ l.open_ }
    let c'' : Core := { c' with loads := c'.loads.filter (·.id ≠ (gathered s l).id) }
    refine ⟨setCore { s with net := net', cores := put s.cores id c' } id ((loadResults (gathered s l)).foldl writeResult c''),
      (atCore_some hr he hc ?_ : execGlobalLoadReturn core j s = _), rfl, ?_, fun x hx => ?_, fun k hk => ?_⟩
    · have hdue : c.loads.find? (fun l => l.open_ ≠ []
          && returnedAt s (coreId core) l = some (wtime s (wingOfCore (coreId core)) j.val)) = some l := hld
      simp only [hdue]
      refine congrArg some ?_
      rw [endLoad, setCore_self, if_neg (by simp [hp])]
      rfl
    · rw [setCore_self]
      exact writeResults_active _ rfl
    · rw [setCore_self, writeResults_loads] at hx
      simpa using (List.mem_filter.1 hx).2
    · rw [coreOf_setCore, if_neg hk]
      exact look_put_ne _ _ _ _ _ hk
  case ack =>
    refine ⟨setCore (mapCab { s with net := drop s.net n } (cabOfCore id) fun x => { x with doneFrom := now s + 1 }) id
      { c with unacked := c.unacked.filter fun u => u.2.1 || u.2.2 ≠ n }, ?_, ?_, ?_, rfl, rfl, rfl⟩
    · change execPostedWriteAck n j s = _
      simp only [execPostedWriteAck, hf, ho, hs]
      rw [hco]
      exact onlyIf_on (by simp [hl, he, w, ht])
    · rw [setCore_self]
    · rw [setCore_cabOf, cabOf_mapCab, if_pos rfl]
  case put =>
    let s' := setCore { s with flits := drop s.flits n } f.source
      { coreOf s f.source with unacked := (coreOf s f.source).unacked.filter fun u => !u.2.1 || u.2.2 ≠ n }
    obtain ⟨h1, h2⟩ := clmPut_read (s := s') (wf_clm hwf) f.target f.offset (leBytes f.data.toNat 64)
    have hk := clmPut_cores s' f.target f.offset (leBytes f.data.toNat 64)
    refine ⟨clmPut s' f.target f.offset (leBytes f.data.toNat 64), ?_, ?_, ?_, fun b hb => ?_, fun k hne => ?_⟩
    · change execMeshPutDelivery n j s = _
      simp only [execMeshPutDelivery, hf, hlost, hw]
      exact onlyIf_on (by simp [hl, he])
    · rw [hk]
      rfl
    · rw [hk]
      rfl
    · exact h1 b _ (by simp [leBytes, hb])
    · exact h2 k fun i hi => hne i (by simpa using hi)

end Sys2Proof.Machine
end

section
/-! PROOF. What an issue leaves of its core, and the accesses of the core local memory (R73 to R79, R87, R94, R95): O27. -/

namespace Sys2Proof.Machine

/-! ### The end of an issue -/

/-- An issue's end changes nothing of the core over which it ends but the tours, the docent, the last issue and the swaps (R73, R78,
R83). -/
theorem finish_cores (s : State) (i : Issue) (c : Core) : ∃ active swaps, (finish s i c).cores = put s.cores i.id
    { c with docent := i.slot, lastIssue := some i.g, active := active, swapQueue := swaps } := by
  unfold finish settle
  dsimp only
  split
  · exact ⟨_, _, (raiseFaultO_mild _ _ _).cores⟩
  · exact ⟨_, _, rfl⟩

theorem finish_core (s : State) (i : Issue) (c : Core) : ∃ active swaps, coreOf (finish s i c) i.id =
    { c with docent := i.slot, lastIssue := some i.g, active := active, swapQueue := swaps } := by
  obtain ⟨active, swaps, h⟩ := finish_cores s i c
  exact ⟨active, swaps, by rw [coreOf, h]; exact look_put_same ..⟩

@[simp] theorem finish_results (s : State) (i : Issue) (c : Core) : (coreOf (finish s i c) i.id).results = c.results := by
  obtain ⟨_, _, h⟩ := finish_core s i c
  rw [h]

@[simp] theorem finish_clmFree (s : State) (i : Issue) (c : Core) : (coreOf (finish s i c) i.id).clmFree = c.clmFree := by
  obtain ⟨_, _, h⟩ := finish_core s i c
  rw [h]

@[simp] theorem finish_loads (s : State) (i : Issue) (c : Core) : (coreOf (finish s i c) i.id).loads = c.loads := by
  obtain ⟨_, _, h⟩ := finish_core s i c
  rw [h]

@[simp] theorem finish_rdQueue (s : State) (i : Issue) (c : Core) : (coreOf (finish s i c) i.id).rdQueue = c.rdQueue := by
  obtain ⟨_, _, h⟩ := finish_core s i c
  rw [h]

@[simp] theorem finish_wrQueue (s : State) (i : Issue) (c : Core) : (coreOf (finish s i c) i.id).wrQueue = c.wrQueue := by
  obtain ⟨_, _, h⟩ := finish_core s i c
  rw [h]

@[simp] theorem finish_merge (s : State) (i : Issue) (c : Core) : (coreOf (finish s i c) i.id).merge = c.merge := by
  obtain ⟨_, _, h⟩ := finish_core s i c
  rw [h]

@[simp] theorem finish_egress (s : State) (i : Issue) (c : Core) : (coreOf (finish s i c) i.id).egress = c.egress := by
  obtain ⟨_, _, h⟩ := finish_core s i c
  rw [h]

@[simp] theorem finish_unacked (s : State) (i : Issue) (c : Core) : (coreOf (finish s i c) i.id).unacked = c.unacked := by
  obtain ⟨_, _, h⟩ := finish_core s i c
  rw [h]

theorem finish_stores (s : State) (i : Issue) (c : Core) :
    (finish s i c).clm = s.clm ∧ (finish s i c).shelf = s.shelf ∧ (finish s i c).dram = s.dram := by
  obtain ⟨-, -, -, -, h1, h2, h3, -⟩ := finish_calm s i c
  exact ⟨h2, h1, h3⟩

/-- A kernel fault moves no core to another site. -/
theorem kernelFault_siteOfCore (s : State) (cab core tour code pc lanes g : Nat) (why : Option (Nat × Nat × Nat × Nat)) (k : Nat) :
    siteOfCore (kernelFault s cab core tour code pc lanes g why) k = siteOfCore s k := by
  have hm : Mild (kernelFault s cab core tour code pc lanes g why) (recordKernelFault s cab core tour code pc lanes g) :=
    raiseFaultO_mild _ _ _
  refine siteOfCore_congr (s := s) (fun n => ?_) (hm.wings.trans rfl) k
  rw [hm.cabOf, recordKernelFault, cabOf_setCab]
  split
  case isTrue h => split <;> rw [h]
  case isFalse => rfl

/-- An issue's end moves no core to another site. -/
theorem finish_siteOfCore (s : State) (i : Issue) (c : Core) (k : Nat) : siteOfCore (finish s i c) k = siteOfCore s k := by
  unfold finish settle
  dsimp only
  split
  · exact kernelFault_siteOfCore ..
  · rfl

/-! ### The lanes of an issue -/

theorem aliveLanes_sorted (t : Tour) : (aliveLanes t).Pairwise (· < ·) := List.Pairwise.filter _ List.pairwise_lt_range

theorem tourChoice_sorted {c : Core} {t : Tour} {g b pc : Nat} {lanes : List Nat} (h : tourChoice c t g b = some (pc, lanes)) :
    lanes.Pairwise (· < ·) := by
  unfold tourChoice at h
  dsimp only at h
  split at h
  · simp at h
  · split at h
    · split at h
      · simp only [Option.some.injEq, Prod.mk.injEq] at h
        rw [← h.2]
        exact aliveLanes_sorted t
      · simp at h
    · split at h
      · simp at h
      case h_2 hr =>
        simp only [Option.some.injEq, Prod.mk.injEq] at h
        rw [← h.2]
        exact ((aliveLanes_sorted t).filter _).filter _

/-- The lanes of an issue ascend, and so do those whose guard is true. -/
theorem issueAt_sorted {s : State} {id j : Nat} {i : Issue} (h : issueAt s id j = some i) : i.on.Pairwise (· < ·) := by
  unfold issueAt at h
  cases hc : find s.cores id with
  | none => simp [hc] at h
  | some c =>
    simp only [hc, Option.ite_none_left_eq_some, Option.map_eq_some_iff] at h
    obtain ⟨-, r, hr, rfl⟩ := h
    obtain ⟨k, -, hk⟩ := List.exists_of_findSome?_eq_some hr
    dsimp only at hk
    split at hk
    · split at hk
      · obtain ⟨⟨pc, ls⟩, hch, rfl⟩ := Option.map_eq_some_iff.1 hk
        exact (tourChoice_sorted hch).filter _
      · simp at hk
    · simp at hk

/-! ### The checks of an issue (R143, R145) -/

theorem checked_sound {s t : State} {i : Issue} {faults : Nat → List Nat} (hb : i.bad = none) (h : ∀ l ∈ i.on, faults l = []) :
    checked s i faults [] t = t := by
  have hf : i.on.flatMap faults = [] := List.flatMap_eq_nil_iff.2 h
  simp [checked, hb, hf, lowest]

theorem checked_fault {s t : State} {i : Issue} {faults : Nat → List Nat} {code : Nat} (hb : i.bad = none)
    (h : lowest (i.on.flatMap faults) = some code) : checked s i faults [] t = issueFault s i code := by
  simp [checked, hb, h]

theorem localFaults_sound {m r bound size a : Nat} (h1 : a % size = 0) (h2 : a + size ≤ bound) : localFaults m r bound size a = [] := by
  simp [localFaults, h1, h2]

theorem Mild.siteOfCore {t s : State} (m : Mild t s) (k : Nat) : siteOfCore t k = siteOfCore s k :=
  siteOfCore_congr (fun n => by rw [m.cabOf]) m.wings k

theorem clmReport_mild (s : State) (core : Nat) (addrs : List Nat) : Mild (clmReport s core addrs) s :=
  Mild.foldl (fun _ _ => reportFinding_mild _ _ _ _ _ _ _) _ _

/-! ### Values in the CLM (R87) -/

theorem clmValue_congr {t s : State} {core a n : Nat}
    (h : ∀ b, b < n → wordRead t.clm clmCodec (clmKey t core (a + b)) = wordRead s.clm clmCodec (clmKey s core (a + b))) :
    clmValue t core a n = clmValue s core a n := by
  induction n generalizing a with
  | zero => rfl
  | succ n ih =>
    have h0 : clmCheck t core a = clmCheck s core a := h 0 (by omega)
    have hn := ih (a := a + 1) fun b hb => by
      have := h (b + 1) (by omega)
      rwa [show a + (b + 1) = a + 1 + b by omega] at this
    simp only [clmValue, h0, hn]

/-- Bytes that stand in the CLM have the value of their number. -/
theorem clmValue_of_bytes {t : State} {core a : Nat} {bs : List Byte}
    (h : ∀ i b, bs[i]? = some b → wordRead t.clm clmCodec (clmKey t core (a + i)) = .clean b.toNat) :
    clmValue t core a bs.length = some (leNat bs) := by
  induction bs generalizing a with
  | nil => rfl
  | cons x bs ih =>
    have h0 : clmCheck t core a = .clean x.toNat := h 0 x rfl
    have hn := ih (a := a + 1) fun i b hb => by
      have := h (i + 1) b hb
      rwa [show a + (i + 1) = a + 1 + i by omega] at this
    simp [clmValue, h0, hn, Checked.data?, leNat]

/-- A byte of an aligned block names its block. -/
theorem aligned_inj {a a' b b' n : Nat} (h : a % n = 0) (h' : a' % n = 0) (hb : b < n) (hb' : b' < n) (he : a + b = a' + b') : a = a' := by
  have e : (a + b) % n = b := by rw [Nat.add_mod, h, Nat.zero_add, Nat.mod_mod, Nat.mod_eq_of_lt hb]
  have e' : (a' + b') % n = b' := by rw [Nat.add_mod, h', Nat.zero_add, Nat.mod_mod, Nat.mod_eq_of_lt hb']
  rw [he, e'] at e
  omega

theorem clmKey_inj {s : State} {core a b : Nat} (h : clmKey s core a = clmKey s core b) : a = b := by
  unfold clmKey at h
  omega

theorem clmPut_key (s : State) (core a : Nat) (bs : List Byte) (k b : Nat) : clmKey (clmPut s core a bs) k b = clmKey s k b := by
  rw [clmPut_cores]
  rfl

theorem clmPut_ok {s : State} (h : storeOk clmCodec s.clm = true) (core a : Nat) (bs : List Byte) :
    storeOk clmCodec (clmPut s core a bs).clm = true := by
  induction bs generalizing s a with
  | nil => exact h
  | cons b bs ih => exact ih (s := { s with clm := wordWrite s.clm clmCodec (clmKey s core a) b.toNat }) (wordWrite_ok _ _ _ _ h) _

section Stores
variable (core size : Nat) (A V : Nat → Nat)

/-- The stores of an issue group, lane after lane (R129). -/
def putLanes (s : State) (ls : List Nat) : State := ls.foldl (fun s l => clmPut s core (A l) (leBytes (V l) size)) s

theorem putLanes_keeps (ls : List Nat) (s : State) : putLanes core size A V s ls = { s with clm := (putLanes core size A V s ls).clm } :=
  foldl_inv (fun t => t = { s with clm := t.clm }) (fun t l h => by rw [h, clmPut_cores]) ls s rfl

theorem putLanes_outside (ls : List Nat) {s : State} (h : storeOk clmCodec s.clm = true) {k : Nat}
    (hk : ∀ l ∈ ls, ∀ b, b < size → k ≠ clmKey s core (A l + b)) :
    wordRead (putLanes core size A V s ls).clm clmCodec k = wordRead s.clm clmCodec k := by
  induction ls generalizing s with
  | nil => rfl
  | cons l ls ih =>
    refine (ih (clmPut_ok h _ _ _) fun l' hl' b hb => ?_).trans ((clmPut_read h _ _ _).2 k fun i hi => ?_)
    · rw [clmPut_key]
      exact hk l' (List.mem_cons_of_mem _ hl') b hb
    · exact hk l (List.mem_cons_self ..) i (by simpa using hi)

/-- A lane's bytes stand where no later lane stores (R129). -/
theorem putLanes_inside {ls : List Nat} (hs : ls.Pairwise (· < ·)) (ha : ∀ l ∈ ls, A l % size = 0) {s : State}
    (h : storeOk clmCodec s.clm = true) {l b : Nat} (hl : l ∈ ls) (hb : b < size) (hlast : ∀ l' ∈ ls, l < l' → A l' ≠ A l) :
    wordRead (putLanes core size A V s ls).clm clmCodec (clmKey s core (A l + b)) = .clean (byteOf (V l) b).toNat := by
  induction ls generalizing s with
  | nil => cases hl
  | cons x ls ih =>
    obtain ⟨hx, hs⟩ := List.pairwise_cons.1 hs
    rcases List.mem_cons.1 hl with rfl | hl
    · refine (putLanes_outside core size A V ls (clmPut_ok h _ _ _) fun l' hl' b' hb' hk => ?_).trans
        ((clmPut_read h _ _ _).1 b _ (by simp [leBytes, hb]))
      rw [clmPut_key] at hk
      refine hlast l' (List.mem_cons_of_mem _ hl') (hx l' hl') ?_
      exact (aligned_inj (ha l (List.mem_cons_self ..)) (ha l' (List.mem_cons_of_mem _ hl')) hb hb' (clmKey_inj hk)).symm
    · have := ih hs (fun l' hl' => ha l' (List.mem_cons_of_mem _ hl')) (clmPut_ok h core (A x) (leBytes (V x) size)) hl
        fun l' hl' => hlast l' (List.mem_cons_of_mem _ hl')
      rwa [clmPut_key] at this

end Stores

theorem clmTime_pos (size : Nat) (addrs : List Nat) : 1 ≤ clmTime size addrs := by
  unfold clmTime
  generalize List.range 16 = l
  dsimp only
  generalize distinct _ = words
  refine List.foldlRecOn (motive := fun m : Nat => 1 ≤ m) l _ (Nat.le_refl 1) fun m h a _ => ?_
  omega

/-! ### Atomics of the CLM (R94, R95) -/

theorem mem_distinct {x : Nat} {l : List Nat} : x ∈ distinct l ↔ x ∈ l := by
  induction l with
  | nil => simp [distinct]
  | cons a l ih => simp only [distinct, List.mem_cons, List.mem_filter, ih]; by_cases h : x = a <;> simp [h]

theorem distinct_nodup (l : List Nat) : (distinct l).Nodup := by
  induction l with
  | nil => simp [distinct]
  | cons a l ih => exact List.nodup_cons.2 ⟨by simp, ih.filter _⟩

theorem sum_eq_count (x : Nat) (as : List Nat) : (as.map fun a => if x = a then 1 else 0).sum = as.count x := by
  induction as with
  | nil => rfl
  | cons a as ih =>
    simp only [List.map_cons, List.sum_cons, ih, List.count_cons, beq_iff_eq, eq_comm (a := a)]
    omega

/-- The lists by value of a list's elements hold each element once (R94). -/
theorem classes_length (f : Nat → Nat) {as : List Nat} (hd : as.Nodup) (ls : List Nat) (h : ∀ l ∈ ls, f l ∈ as) :
    (as.flatMap fun a => ls.filter fun l => f l = a).length = ls.length := by
  induction ls with
  | nil => simp
  | cons x ls ih =>
    have one : (as.map fun a => if f x = a then 1 else 0).sum = 1 :=
      (sum_eq_count _ _).trans (List.count_eq_one_of_mem hd (h x (List.mem_cons_self ..)))
    have step (a : Nat) : ((x :: ls).filter fun l => f l = a).length = (if f x = a then 1 else 0) + (ls.filter fun l => f l = a).length := by
      rw [List.filter_cons]
      split <;> simp_all [Nat.add_comm]
    have hls := ih fun l hl => h l (List.mem_cons_of_mem _ hl)
    rw [List.length_flatMap] at hls ⊢
    simp only [step, List.sum_map_add, one, hls, List.length_cons]
    omega

/-- Some number of a list of positive ones is above 1 where the sum is above the length. -/
theorem any_two_iff {ns : List Nat} (h : ∀ n ∈ ns, 1 ≤ n) : ns.any (2 ≤ ·) = decide (ns.length < ns.sum) ∧ ns.length ≤ ns.sum := by
  induction ns with
  | nil => simp
  | cons n ns ih =>
    obtain ⟨h1, h2⟩ := ih fun m hm => h m (List.mem_cons_of_mem _ hm)
    have hn := h n (List.mem_cons_self ..)
    simp only [List.any_cons, h1, List.length_cons, List.sum_cons]
    refine ⟨?_, by omega⟩
    rw [← Bool.decide_or]
    exact decide_eq_decide.2 (by omega)

theorem atomicFold_fst (fn : Nat) (old : DWord) (ops : List (Nat × DWord × DWord)) :
    (atomicFold fn old ops).1 = ops.foldl (fun v o => atomicNew fn v o.2.1 o.2.2) old := by
  induction ops generalizing old with
  | nil => rfl
  | cons o ops ih => exact ih _

theorem atomicFold_length (fn : Nat) (old : DWord) (ops : List (Nat × DWord × DWord)) : (atomicFold fn old ops).2.length = ops.length := by
  induction ops generalizing old with
  | nil => rfl
  | cons o ops ih => exact congrArg (· + 1) (ih _)

/-- Each lane takes the value that the lanes before it have left (R95). -/
theorem atomicFold_mem (fn : Nat) (old : DWord) (pre post : List (Nat × DWord × DWord)) (o : Nat × DWord × DWord) :
    (o.1, (atomicFold fn old pre).1) ∈ (atomicFold fn old (pre ++ o :: post)).2 := by
  induction pre generalizing old with
  | nil => exact List.mem_cons_self ..
  | cons p pre ih => exact List.mem_cons_of_mem _ (ih _)

section Atomics
variable (core fn n : Nat) (ops : Nat → List (Nat × DWord × DWord)) (old : Nat → Nat)

/-- The updates of the locations named, one after another. -/
def updateAt (acc : State × List (Nat × DWord)) (as : List Nat) : State × List (Nat × DWord) :=
  (as.map fun a => (a, ops a)).foldl (clmAtomic core fn n) acc

theorem clmAtomic_some {acc : State × List (Nat × DWord)} {a v : Nat} (h : clmValue acc.1 core a n = some v)
    (l : List (Nat × DWord × DWord)) : clmAtomic core fn n acc (a, l) =
      (clmPut acc.1 core a (leBytes (atomicFold fn (BitVec.ofNat 64 v) l).1.toNat n),
        acc.2 ++ (atomicFold fn (BitVec.ofNat 64 v) l).2) := by
  simp only [clmAtomic, h]

/-- A location's updates leave another aligned location's value. -/
theorem clmPut_value_ne {s : State} (h : storeOk clmCodec s.clm = true) {a a' : Nat} (ha : a % n = 0) (ha' : a' % n = 0) (hne : a' ≠ a)
    (v : Nat) : clmValue (clmPut s core a (leBytes v n)) core a' n = clmValue s core a' n := by
  refine clmValue_congr fun b hb => ?_
  rw [clmPut_key]
  refine (clmPut_read h _ _ _).2 _ fun i hi hk => hne ?_
  exact aligned_inj ha' ha hb (by simpa using hi) (clmKey_inj hk)

theorem clmPut_value_same {s : State} (h : storeOk clmCodec s.clm = true) (a v : Nat) :
    clmValue (clmPut s core a (leBytes v n)) core a n = some (v % 2 ^ (8 * n)) := by
  have hv := clmValue_of_bytes (t := clmPut s core a (leBytes v n)) (core := core) (a := a) (bs := leBytes v n) fun i b hb => by
    rw [clmPut_key]
    exact (clmPut_read h _ _ _).1 i b hb
  rwa [leBytes_length, leNat_leBytes] at hv

/-- The updates of distinct aligned locations: each has its new value, the lanes their old ones, and every other byte stays. -/
theorem updateAt_read {as : List Nat} (hd : as.Nodup) (ha : ∀ a ∈ as, a % n = 0) {acc : State × List (Nat × DWord)}
    (h : storeOk clmCodec acc.1.clm = true) (hv : ∀ a ∈ as, clmValue acc.1 core a n = some (old a)) :
    let r := updateAt core fn n ops acc as
    let new := fun a => atomicFold fn (BitVec.ofNat 64 (old a)) (ops a)
    r.1 = { acc.1 with clm := r.1.clm } ∧ r.2 = acc.2 ++ as.flatMap (fun a => (new a).2)
      ∧ (∀ a, a % n = 0 → a ∉ as → clmValue r.1 core a n = clmValue acc.1 core a n)
      ∧ (∀ a ∈ as, clmValue r.1 core a n = some ((new a).1.toNat % 2 ^ (8 * n)))
      ∧ (∀ k, (∀ a ∈ as, ∀ b, b < n → k ≠ clmKey acc.1 core (a + b)) →
          wordRead r.1.clm clmCodec k = wordRead acc.1.clm clmCodec k) := by
  induction as generalizing acc with
  | nil => exact ⟨rfl, by simp [updateAt], fun _ _ _ => rfl, by simp, fun _ _ => rfl⟩
  | cons x as ih =>
    obtain ⟨hx, hd⟩ := List.nodup_cons.1 hd
    have hxa := ha x (List.mem_cons_self ..)
    have hstep := clmAtomic_some core fn n (hv x (List.mem_cons_self ..)) (ops x)
    have hne (a : Nat) (hm : a ∈ as) : a ≠ x := fun h => hx (h ▸ hm)
    obtain ⟨i1, i2, i3, i4, i5⟩ := ih hd (fun a hm => ha a (List.mem_cons_of_mem _ hm))
      (acc := clmAtomic core fn n acc (x, ops x)) (by rw [hstep]; exact clmPut_ok h _ _ _)
      (fun a hm => by
        rw [hstep, clmPut_value_ne core n h hxa (ha a (List.mem_cons_of_mem _ hm)) (hne a hm)]
        exact hv a (List.mem_cons_of_mem _ hm))
    have hcons : updateAt core fn n ops acc (x :: as) = updateAt core fn n ops (clmAtomic core fn n acc (x, ops x)) as := rfl
    dsimp only
    rw [hcons]
    generalize updateAt core fn n ops (clmAtomic core fn n acc (x, ops x)) as = r at i1 i2 i3 i4 i5
    rw [hstep] at i1 i2 i3 i5
    refine ⟨?_, ?_, fun a hal hm => ?_, fun a hm => ?_, fun k hk => ?_⟩
    · rw [i1, clmPut_cores]
    · rw [i2, List.flatMap_cons, List.append_assoc]
    · obtain ⟨hax, hm⟩ := not_or.1 (mt List.mem_cons.2 hm)
      rw [i3 a hal hm, clmPut_value_ne core n h hxa hal hax]
    · rcases List.mem_cons.1 hm with rfl | hm
      · rw [i3 a hxa hx, clmPut_value_same core n h]
      · exact i4 a hm
    · refine (i5 k fun a hm b hb => ?_).trans ((clmPut_read h _ _ _).2 k fun i hi => ?_)
      · rw [clmPut_key]
        exact hk a (List.mem_cons_of_mem _ hm) b hb
      · exact hk x (List.mem_cons_self ..) i (by simpa using hi)

end Atomics

/-- The combining of lanes costs its GCLK where the locations are fewer than the lanes (R95). -/
theorem atomExtra_eq (i : Issue) (addr : Nat → Nat) : atomExtra (atomGroups i addr) =
    ((distinct (i.on.map addr)).length - 1) + (if (distinct (i.on.map addr)).length < i.on.length then 3 else 0) := by
  have hsum := classes_length addr (distinct_nodup (i.on.map addr)) i.on fun l hl => mem_distinct.2 (List.mem_map_of_mem hl)
  have hpos : ∀ n ∈ (distinct (i.on.map addr)).map fun a => (i.on.filter fun l => addr l = a).length, 1 ≤ n := by
    intro n hn
    obtain ⟨a, ha, rfl⟩ := List.mem_map.1 hn
    obtain ⟨l, hl, rfl⟩ := List.mem_map.1 (mem_distinct.1 ha)
    exact List.length_pos_of_mem (List.mem_filter.2 ⟨hl, by simp⟩)
  obtain ⟨h, -⟩ := any_two_iff hpos
  rw [List.length_flatMap] at hsum
  rw [hsum, List.length_map] at h
  unfold atomExtra atomGroups
  rw [List.length_map]
  congr 1
  rw [List.any_map] at h ⊢
  simp only [Function.comp_def, List.length_map] at h ⊢
  rw [h]
  simp

/-! ### The instructions -/

theorem occupied_time {m g : Nat} (h : 1 ≤ m) : g + 3 + (m - 1) - 1 = g + m + 1 := by omega

/-- The state after a sound load of the CLM. -/
def loadedClm (s : State) (i : Issue) : State :=
  let m := clmTime i.x.size (i.on.map (memAddr i))
  let vals := i.on.map fun l => (l, clmValue s i.id (memAddr i l) i.x.size)
  finish (clmReport s i.id (bytesOf i.x.size (i.on.map (memAddr i)))) (occupyClm i m) { (occupyClm i m).core with
    results := i.core.results ++ dataResults i.tour.index i.x.d i.x.size (i.g + 3 + (m - 1) - 1)
      (vals.map fun v => (v.1, extend i.x.size i.x.sx (v.2.getD 0))) }

theorem loadClm_sound {s : State} {i : Issue} (hb : i.bad = none)
    (hs : ∀ l ∈ i.on, memAddr i l % i.x.size = 0 ∧ memAddr i l + i.x.size ≤ 32768)
    (hv : ∀ l ∈ i.on, (clmValue s i.id (memAddr i l) i.x.size).isSome = true) : loadClm s i = loadedClm s i := by
  have hf : ∀ l ∈ i.on, localFaults 0x12 0x13 32768 i.x.size (memAddr i l) = [] := fun l hl => localFaults_sound (hs l hl).1 (hs l hl).2
  have hall : (i.on.map fun l => (l, clmValue s i.id (memAddr i l) i.x.size)).all (·.2.isSome) = true := by
    simpa [List.all_eq_true] using hv
  unfold loadClm loadedClm
  dsimp only
  rw [checked_sound hb hf]
  generalize clmTime i.x.size (i.on.map (memAddr i)) = m
  exact if_pos hall

/-- An occupied issue's end leaves the stores, and the core with the CLM taken. -/
theorem finish_occupied (s : State) (i : Issue) (m : Nat) (res : List PendResult) :
    let t := finish s (occupyClm i m) { (occupyClm i m).core with results := res }
    t.clm = s.clm ∧ t.shelf = s.shelf ∧ t.dram = s.dram ∧ (coreOf t i.id).clmFree = i.g + m ∧ (coreOf t i.id).results = res
      ∧ ∀ k, siteOfCore t k = siteOfCore s k := by
  obtain ⟨h1, h2, h3⟩ := finish_stores s (occupyClm i m) { (occupyClm i m).core with results := res }
  exact ⟨h1, h2, h3, finish_clmFree s (occupyClm i m) _, finish_results s (occupyClm i m) _, finish_siteOfCore _ _ _⟩

theorem loadedClm_facts (s : State) (i : Issue) :
    (loadedClm s i).clm = s.clm ∧ (loadedClm s i).shelf = s.shelf ∧ (loadedClm s i).dram = s.dram
      ∧ (coreOf (loadedClm s i) i.id).clmFree = i.g + clmTime i.x.size (i.on.map (memAddr i))
      ∧ (coreOf (loadedClm s i) i.id).results = i.core.results ++ dataResults i.tour.index i.x.d i.x.size
          (i.g + clmTime i.x.size (i.on.map (memAddr i)) + 1)
          (i.on.map fun l => (l, extend i.x.size i.x.sx ((clmValue s i.id (memAddr i l) i.x.size).getD 0))) := by
  have hm := clmTime_pos i.x.size (i.on.map (memAddr i))
  have hr := clmReport_mild s i.id (bytesOf i.x.size (i.on.map (memAddr i)))
  unfold loadedClm
  dsimp only
  generalize clmTime i.x.size (i.on.map (memAddr i)) = m at hm ⊢
  rw [occupied_time hm, List.map_map]
  obtain ⟨h1, h2, h3, h4, h5, -⟩ := finish_occupied (clmReport s i.id (bytesOf i.x.size (i.on.map (memAddr i)))) i m
    (i.core.results ++ dataResults i.tour.index i.x.d i.x.size (i.g + m + 1)
      (i.on.map ((fun v : Nat × Option Nat => (v.1, extend i.x.size i.x.sx (v.2.getD 0)))
        ∘ fun l => (l, clmValue s i.id (memAddr i l) i.x.size))))
  exact ⟨h1.trans hr.clm, h2.trans hr.shelf, h3.trans hr.dram, h4, h5⟩

/-- The state after a sound store of the CLM. -/
def storedClm (s : State) (i : Issue) : State :=
  let o := occupyClm i (clmTime i.x.size (i.on.map (memAddr i)))
  finish (putLanes i.id i.x.size (memAddr i) (storeValue i.tour i.x.d i.x.size) s i.on) o o.core

theorem storedClm_facts (s : State) (i : Issue) :
    (storedClm s i).clm = (putLanes i.id i.x.size (memAddr i) (storeValue i.tour i.x.d i.x.size) s i.on).clm
      ∧ (storedClm s i).shelf = s.shelf ∧ (storedClm s i).dram = s.dram
      ∧ (coreOf (storedClm s i) i.id).clmFree = i.g + clmTime i.x.size (i.on.map (memAddr i))
      ∧ (coreOf (storedClm s i) i.id).results = i.core.results := by
  have hk := putLanes_keeps i.id i.x.size (memAddr i) (storeValue i.tour i.x.d i.x.size) i.on s
  unfold storedClm
  dsimp only
  generalize clmTime i.x.size (i.on.map (memAddr i)) = m
  generalize putLanes i.id i.x.size (memAddr i) (storeValue i.tour i.x.d i.x.size) s i.on = u at hk ⊢
  obtain ⟨h1, h2, h3, h4, h5, -⟩ := finish_occupied u i m i.core.results
  exact ⟨h1, h2.trans (by rw [hk]), h3.trans (by rw [hk]), h4, h5⟩

theorem storeClm_sound {s : State} {i : Issue} (hb : i.bad = none)
    (hs : ∀ l ∈ i.on, memAddr i l % i.x.size = 0 ∧ memAddr i l + i.x.size ≤ 32768) : storeClm s i = storedClm s i := by
  have hf : ∀ l ∈ i.on, localFaults 0x12 0x13 32768 i.x.size (memAddr i l) = [] := fun l hl => localFaults_sound (hs l hl).1 (hs l hl).2
  unfold storeClm storedClm
  dsimp only
  rw [checked_sound hb hf]
  rfl

/-- The lanes of a location with their operands (R94). -/
def opsAt (i : Issue) (addr : Nat → Nat) (a : Nat) : List (Nat × DWord × DWord) :=
  (i.on.filter fun l => addr l = a).map fun l => (l, (atomOperand i l).1, (atomOperand i l).2)

/-- The locations of an atomic after its reports, each updated (R95). -/
def updatedClm (s : State) (i : Issue) (n : Nat) : State × List (Nat × DWord) :=
  updateAt i.id i.x.m n (opsAt i (atomAddr i)) (clmReport s i.id (bytesOf n (distinct (i.on.map (atomAddr i)))), [])
    (distinct (i.on.map (atomAddr i)))

/-- The state after a sound atomic of the CLM. -/
def atomedClm (s : State) (i : Issue) (n : Nat) : State :=
  let o := occupyClm i (clmTime n (distinct (i.on.map (atomAddr i))))
  finish (updatedClm s i n).1 o { o.core with
    results := i.core.results ++ dataResults i.tour.index i.x.d n (i.g + 5 + atomExtra (atomGroups i (atomAddr i)) - 1)
      ((updatedClm s i n).2.map fun v => (v.1, v.2.toNat)) }

theorem atomGroups_fst (i : Issue) (addr : Nat → Nat) : (atomGroups i addr).map (·.1) = distinct (i.on.map addr) := by
  unfold atomGroups
  rw [List.map_map]
  exact List.map_id _

theorem atomicClm_sound {s : State} {i : Issue} {n : Nat} (hb : i.bad = none) (hn : atomicSize i.x.m = some n)
    (hs : ∀ l ∈ i.on, atomAddr i l % n = 0 ∧ atomAddr i l + n ≤ 32768)
    (hv : ∀ l ∈ i.on, (clmValue s i.id (atomAddr i l) n).isSome = true) : atomicClm s i = atomedClm s i n := by
  unfold atomicClm atomedClm
  rw [hn]
  dsimp only [Option.getD_some]
  rw [atomGroups_fst]
  have hall : (distinct (i.on.map (atomAddr i))).all (fun a => (clmValue s i.id a n).isSome) = true := by
    refine List.all_eq_true.2 fun a ha => ?_
    obtain ⟨l, hl, rfl⟩ := List.mem_map.1 (mem_distinct.1 ha)
    exact hv l hl
  have hf : ∀ l ∈ i.on, localFaults 0x12 0x13 32768 n (atomAddr i l) = [] := fun l hl => localFaults_sound (hs l hl).1 (hs l hl).2
  rw [checked_sound hb hf]
  generalize clmTime n (distinct (i.on.map (atomAddr i))) = m
  generalize atomExtra (atomGroups i (atomAddr i)) = e
  exact if_pos hall

/-- What the updates of an atomic's locations read and leave. -/
theorem updatedClm_read {s : State} {i : Issue} {n : Nat} {old : Nat → Nat} (hok : storeOk clmCodec s.clm = true)
    (hs : ∀ l ∈ i.on, atomAddr i l % n = 0) (hv : ∀ l ∈ i.on, clmValue s i.id (atomAddr i l) n = some (old (atomAddr i l))) :
    let r := updatedClm s i n
    let new := fun a => atomicFold i.x.m (BitVec.ofNat 64 (old a)) (opsAt i (atomAddr i) a)
    r.1.shelf = s.shelf ∧ r.1.dram = s.dram ∧ (∀ k, siteOfCore r.1 k = siteOfCore s k)
      ∧ r.2 = (distinct (i.on.map (atomAddr i))).flatMap (fun a => (new a).2)
      ∧ (∀ l ∈ i.on, clmValue r.1 i.id (atomAddr i l) n = some ((new (atomAddr i l)).1.toNat % 2 ^ (8 * n)))
      ∧ (∀ k, (∀ l ∈ i.on, ∀ b, b < n → k ≠ clmKey s i.id (atomAddr i l + b)) →
          wordRead r.1.clm clmCodec k = wordRead s.clm clmCodec k) := by
  have hr := clmReport_mild s i.id (bytesOf n (distinct (i.on.map (atomAddr i))))
  have hlane {a : Nat} (ha : a ∈ distinct (i.on.map (atomAddr i))) : ∃ l ∈ i.on, atomAddr i l = a := by
    simpa using mem_distinct.1 ha
  have hkey (a : Nat) : clmKey (clmReport s i.id (bytesOf n (distinct (i.on.map (atomAddr i))))) i.id a = clmKey s i.id a := by
    unfold clmKey
    rw [hr.siteOfCore]
  obtain ⟨h1, h2, -, h4, h5⟩ := updateAt_read i.id i.x.m n (opsAt i (atomAddr i)) old (distinct_nodup (i.on.map (atomAddr i)))
    (fun a ha => by obtain ⟨l, hl, rfl⟩ := hlane ha; exact hs l hl)
    (acc := (clmReport s i.id (bytesOf n (distinct (i.on.map (atomAddr i)))), [])) (by rw [hr.clm]; exact hok)
    (fun a ha => by
      obtain ⟨l, hl, rfl⟩ := hlane ha
      refine (clmValue_congr fun b _ => ?_).trans (hv l hl)
      rw [hkey, hr.clm])
  refine ⟨?_, ?_, fun k => ?_, h2.trans (List.nil_append _), fun l hl => h4 _ (mem_distinct.2 (List.mem_map_of_mem hl)),
    fun k hk => (h5 k fun a ha b hb => ?_).trans (by rw [hr.clm])⟩
  · exact (congrArg State.shelf h1).trans hr.shelf
  · exact (congrArg State.dram h1).trans hr.dram
  · refine Eq.trans ?_ (hr.siteOfCore k)
    refine Eq.trans (congrArg (siteOfCore · k) h1) rfl
  · obtain ⟨l, hl, rfl⟩ := hlane ha
    rw [hkey]
    exact hk l hl b hb

theorem atomedClm_facts (s : State) (i : Issue) (n : Nat) :
    (atomedClm s i n).clm = (updatedClm s i n).1.clm ∧ (atomedClm s i n).shelf = (updatedClm s i n).1.shelf
      ∧ (atomedClm s i n).dram = (updatedClm s i n).1.dram
      ∧ (coreOf (atomedClm s i n) i.id).clmFree = i.g + clmTime n (distinct (i.on.map (atomAddr i)))
      ∧ (coreOf (atomedClm s i n) i.id).results = i.core.results ++ dataResults i.tour.index i.x.d n
          (i.g + 5 + atomExtra (atomGroups i (atomAddr i)) - 1) ((updatedClm s i n).2.map fun v => (v.1, v.2.toNat))
      ∧ ∀ k, siteOfCore (atomedClm s i n) k = siteOfCore (updatedClm s i n).1 k := by
  unfold atomedClm
  dsimp only
  generalize clmTime n (distinct (i.on.map (atomAddr i))) = m
  generalize updatedClm s i n = u
  generalize i.core.results ++ _ = res
  exact finish_occupied u.1 i m res

/-- In an ascending list, the elements below one of its own stand before it. -/
theorem sorted_split {ls : List Nat} (hs : ls.Pairwise (· < ·)) {l : Nat} (hl : l ∈ ls) :
    ∃ post, ls = ls.filter (· < l) ++ l :: post := by
  induction ls with
  | nil => cases hl
  | cons x ls ih =>
    obtain ⟨hx, hs⟩ := List.pairwise_cons.1 hs
    rcases List.mem_cons.1 hl with rfl | hl
    · refine ⟨ls, ?_⟩
      have h : (l :: ls).filter (· < l) = [] := by
        refine List.filter_eq_nil_iff.2 fun y hy => ?_
        rcases List.mem_cons.1 hy with rfl | hy
        · simp
        · have := hx y hy
          simp only [decide_eq_true_eq]
          omega
      rw [h, List.nil_append]
    · obtain ⟨post, hp⟩ := ih hs hl
      refine ⟨post, ?_⟩
      rw [List.filter_cons, if_pos (by simpa using hx l hl), List.cons_append, ← hp]

/-- Settles O27: the load's values, the stores lane after lane, and the atomics location after location. -/
theorem xilonClmAccesses : Obligations.XilonClmAccesses := by
  intro s core j i hi hwf
  obtain ⟨hid, hcore, hbad, hx, hlive⟩ := issueAt_some hi
  have hok := wf_clm hwf
  refine ⟨fun hs hc hv => ?load, fun hs hc => ?store, fun code hf => ⟨fun hc => ?loadFault, fun hc => ?storeFault⟩,
    fun n old hn hc hv => ?atomic⟩
  case loadFault => exact (xilon_of_clean hi hc : execLdL core j s = _).trans (congrArg _ (checked_fault hbad hf))
  case storeFault => exact (xilon_of_clean hi hc : execStL core j s = _).trans (congrArg _ (checked_fault hbad hf))
  case load =>
    rw [← hid] at hv ⊢
    obtain ⟨h1, h2, h3, h4, h5⟩ := loadedClm_facts s i
    exact ⟨loadedClm s i, (xilon_of_clean hi hc : execLdL core j s = _).trans (congrArg _ (loadClm_sound hbad hs hv)), h1, h2, h3, h4, h5⟩
  case store =>
    rw [← hid]
    obtain ⟨h1, h2, h3, h4, h5⟩ := storedClm_facts s i
    refine ⟨storedClm s i, (xilon_of_clean hi hc : execStL core j s = _).trans (congrArg _ (storeClm_sound hbad hs)),
      h2, h3, h5, h4, fun k hout => ?_, fun l hl b hb hlast => ?_⟩
    · exact (congrArg (wordRead · clmCodec k) h1).trans (putLanes_outside _ _ _ _ _ hok hout)
    · exact (congrArg (wordRead · clmCodec _) h1).trans
        (putLanes_inside _ _ _ _ (issueAt_sorted hi) (fun l hl => (hs l hl).1) hok hl hb hlast)
  case atomic =>
    rw [← hid] at hv ⊢
    intro at_ update after
    obtain ⟨h1, h2, h3, h4, h5, h6⟩ := atomedClm_facts s i n
    obtain ⟨g1, g2, g3, g4, g5, g6⟩ := updatedClm_read hok (fun l hl => (hv l hl).1) (fun l hl => (hv l hl).2.2)
    have hfold (ls : List Nat) (a : Nat) : (atomicFold i.x.m (BitVec.ofNat 64 (old a))
        ((ls.filter fun l => atomAddr i l = a).map fun l => (l, (atomOperand i l).1, (atomOperand i l).2))).1.toNat = after ls a := by
      rw [atomicFold_fst, List.foldl_map]
    refine ⟨atomedClm s i n, (updatedClm s i n).2.map fun v => (v.1, v.2.toNat),
      (xilon_of_clean hi hc : execAtomL core j s = _).trans (congrArg _ (atomicClm_sound hbad hn (fun l hl => ⟨(hv l hl).1, (hv l hl).2.1⟩)
        fun l hl => by rw [(hv l hl).2.2]; rfl)),
      h2.trans g1, h3.trans g2, h4, fun l hl => ?value, ?results, ?length, fun l hl => ?mem, fun k hk => ?outside⟩
    case value =>
      refine (clmValue_congr (s := (updatedClm s i n).1) fun b _ => by unfold clmKey; rw [h6, h1]).trans ((g5 l hl).trans ?_)
      exact congrArg (fun x => some (x % 2 ^ (8 * n))) (hfold i.on _)
    case results =>
      rw [h5, atomExtra_eq, show i.g + 5 + ((distinct (i.on.map (atomAddr i))).length - 1
        + (if (distinct (i.on.map (atomAddr i))).length < i.on.length then 3 else 0)) - 1 = i.g + 4 + (at_.length - 1)
        + (if at_.length < i.on.length then 3 else 0) by simp only [at_]; omega]
    case length =>
      rw [List.length_map, g4, List.length_flatMap]
      simp only [atomicFold_length, opsAt, List.length_map]
      rw [← List.length_flatMap]
      exact classes_length _ (distinct_nodup _) _ fun l hl => mem_distinct.2 (List.mem_map_of_mem hl)
    case mem =>
      refine List.mem_map.2 ⟨(l, (atomicFold i.x.m (BitVec.ofNat 64 (old (atomAddr i l)))
        (((i.on.filter (· < l)).filter fun k => atomAddr i k = atomAddr i l).map
          fun l => (l, (atomOperand i l).1, (atomOperand i l).2))).1), ?_, Prod.ext rfl (hfold _ _)⟩
      rw [g4]
      refine List.mem_flatMap.2 ⟨atomAddr i l, mem_distinct.2 (List.mem_map_of_mem hl), ?_⟩
      obtain ⟨post, hp⟩ := sorted_split (issueAt_sorted hi) hl
      have hops : opsAt i (atomAddr i) (atomAddr i l) = ((i.on.filter (· < l)).filter fun k => atomAddr i k = atomAddr i l).map
          (fun l => (l, (atomOperand i l).1, (atomOperand i l).2)) ++ (l, (atomOperand i l).1, (atomOperand i l).2)
            :: (post.filter fun k => atomAddr i k = atomAddr i l).map (fun l => (l, (atomOperand i l).1, (atomOperand i l).2)) := by
        unfold opsAt
        conv_lhs => rw [hp]
        simp
      beta_reduce
      rw [hops]
      exact atomicFold_mem _ _ _ _ (l, _, _)
    case outside =>
      exact (congrArg (wordRead · clmCodec k) h1).trans (g6 k hk)

end Sys2Proof.Machine
end

section
/-! PROOF. The own-shelf accesses, the global accesses and the mesh put at their issue (R86 to R94, R130, R132, R133, R192 to R196):
O28 and O29. -/

namespace Sys2Proof.Machine

/-! ### The merge buffer (R194, R195) -/

section StoreWord
variable {c : Core} {g tour w m d : Nat}

theorem merge_filter_word (c : Core) (w : Nat) :
    (match c.merge with | some e => if e.word = w then { c with merge := none } else c | none => c) =
      { c with merge := c.merge.filter fun e => decide (e.word ≠ w) } := by
  cases h : c.merge with
  | none => exact show c = { c with merge := none } by rw [← h]
  | some e =>
    by_cases he : e.word = w
    · simp [he, Option.filter]
    · have hf : (some e).filter (fun e => decide (e.word ≠ w)) = some e := by simp [he, Option.filter]
      simp only [he, if_false]
      rw [hf, ← h]

theorem storeWord_whole : storeWord g tour c (w, 2 ^ 16 - 1, d) =
    addWhole { c with merge := c.merge.filter fun e => decide (e.word ≠ w) } g tour w d := by
  rw [← merge_filter_word]
  rfl

theorem addWhole_joins {qs : List Xfer} {q : Xfer} (h : c.wrQueue = qs ++ [q]) (hk : q.kind = .store) (hi : q.issue = g)
    (ht : q.tour = tour) : addWhole c g tour w d =
      { c with wrQueue := qs ++ [{ q with words := q.words ++ [(w, BitVec.allOnes 16, BitVec.ofNat 128 d)] }] } := by
  simp [addWhole, h, hk, hi, ht]

theorem addWhole_opens (h : ∀ q, c.wrQueue.getLast? = some q → ¬(q.kind = .store ∧ q.issue = g ∧ q.tour = tour)) :
    addWhole c g tour w d =
      { c with wrQueue := c.wrQueue ++ [⟨.store, g, [(w, BitVec.allOnes 16, BitVec.ofNat 128 d)], [], [], tour, [], []⟩] } := by
  unfold addWhole
  dsimp only
  cases hq : c.wrQueue.getLast? with
  | none => rw [List.getLast?_eq_none_iff.1 hq]; rfl
  | some q =>
    refine if_neg ?_
    simpa [and_assoc] using h q hq

theorem storeWord_fresh (hm : m ≠ 2 ^ 16 - 1) (h : c.merge = none) :
    storeWord g tour c (w, m, d) = { c with merge := some ⟨w, BitVec.ofNat 16 m, BitVec.ofNat 128 d, g, [tour]⟩ } := by
  simp only [storeWord, if_neg hm, h]

theorem storeWord_other {e : MergeEntry} (hm : m ≠ 2 ^ 16 - 1) (h : c.merge = some e) (he : e.word ≠ w) :
    storeWord g tour c (w, m, d) =
      { leaveRmw c g e with merge := some ⟨w, BitVec.ofNat 16 m, BitVec.ofNat 128 d, g, [tour]⟩ } := by
  simp only [storeWord, if_neg hm, h, if_neg he]

theorem storeWord_joins {e : MergeEntry} (hm : m ≠ 2 ^ 16 - 1) (h : c.merge = some e) (he : e.word = w) :
    storeWord g tour c (w, m, d) =
      if e.mask.toNat ||| m = 2 ^ 16 - 1 then
        leaveFull c g w (mergeBytes 16 e.data.toNat d m) (if tour ∈ e.tours then e.tours else e.tours ++ [tour])
      else { c with merge := some { e with
        mask := BitVec.ofNat 16 (e.mask.toNat ||| m), data := BitVec.ofNat 128 (mergeBytes 16 e.data.toNat d m)
        tours := if tour ∈ e.tours then e.tours else e.tours ++ [tour] } } := by
  simp only [storeWord, if_neg hm, h, if_pos he]

end StoreWord

/-! ### Transfers that are presented (R192) -/

theorem meetGroups_coreOf (s : State) (core : Nat) (ws : List Nat) (k : Nat) : coreOf (meetGroups s core ws) k = coreOf s k := by
  rw [coreOf, (meetGroups_meets s core ws).2]
  rfl

theorem presentWrites_coreOf (s : State) (core : Nat) (c : Core) (k : Nat) : coreOf (presentWrites s core c) k = coreOf s k :=
  foldl_field (fun t => coreOf t k) _ (fun _ _ => meetGroups_coreOf _ _ _ _) _ _

theorem meetGroups_stores (s : State) (core : Nat) (ws : List Nat) : (meetGroups s core ws).shelf = s.shelf
    ∧ (meetGroups s core ws).clm = s.clm ∧ (meetGroups s core ws).dram = s.dram := by
  obtain ⟨-, -, -, -, h1, h2, h3, -⟩ := meetGroups_calm s core ws
  exact ⟨h1, h2, h3⟩

theorem presentWrites_stores (s : State) (core : Nat) (c : Core) : (presentWrites s core c).shelf = s.shelf
    ∧ (presentWrites s core c).clm = s.clm ∧ (presentWrites s core c).dram = s.dram := by
  obtain ⟨-, -, -, -, h1, h2, h3, -⟩ := presentWrites_calm s core c
  exact ⟨h1, h2, h3⟩

/-! ### The checks of a shelf access (R86, R208) -/

theorem unreachableBy_none {s : State} {i : Issue} (h : i.on = [] ∨ (chanOf s (siteOfCore s i.id)).failed = false) :
    unreachableBy s i = [] := by
  unfold unreachableBy unreachable
  rcases h with h | h <;> simp [h]

theorem unreachableBy_failed {s : State} {i : Issue} (h : i.on ≠ []) (hf : (chanOf s (siteOfCore s i.id)).failed = true) :
    unreachableBy s i = [0x06] := by
  simp [unreachableBy, unreachable, h, hf]

theorem foldl_min_eq {c : Nat} {l : List Nat} (h : ∀ x ∈ l, c ≤ x) : l.foldl min c = c := by
  induction l with
  | nil => rfl
  | cons x l ih =>
    rw [List.foldl_cons, Nat.min_eq_left (h x (List.mem_cons_self ..))]
    exact ih fun y hy => h y (List.mem_cons_of_mem _ hy)

/-- A code below the codes of the lanes' faults prevails (R145). -/
theorem checked_first {s t : State} {i : Issue} {faults : Nat → List Nat} {code : Nat} (hb : i.bad = none)
    (h : ∀ l ∈ i.on, ∀ x ∈ faults l, code ≤ x) : checked s i faults [code] t = issueFault s i code := by
  have hl : lowest ([code] ++ i.on.flatMap faults ++ if i.bad.isSome then [0x1A] else []) = some code := by
    rw [show [code] ++ i.on.flatMap faults ++ (if i.bad.isSome then [0x1A] else []) = code :: i.on.flatMap faults by simp [hb]]
    refine congrArg some (foldl_min_eq fun x hx => ?_)
    obtain ⟨l, hl, hx⟩ := List.mem_flatMap.1 hx
    exact h l hl x hx
  simp only [checked, hl]

theorem localFaults_ge {m r bound size a c : Nat} (hm : c ≤ m) (hr : c ≤ r) : ∀ x ∈ localFaults m r bound size a, c ≤ x := by
  intro x hx
  simp only [localFaults, List.mem_append, List.mem_ite_nil_right, List.mem_singleton] at hx
  rcases hx with ⟨-, rfl⟩ | ⟨-, rfl⟩ <;> assumption

theorem checked_idle {s t : State} {i : Issue} {faults : Nat → List Nat} (hb : i.bad = none) (h : i.on = []) :
    checked s i faults [] t = t :=
  checked_sound hb (by simp [h])

/-! ### The shelf instructions -/

/-- The load that a shelf load leaves under way. -/
def shelfLoadOf (i : Issue) : PendLoad :=
  { id := i.core.nextLoad, tour := i.tour.index, pc := i.pc, lanes := BitVec.ofNat 16 (laneMask i.on),
    issued := BitVec.ofNat 16 (laneMask i.lanes), reg := i.x.d, size := i.x.size, sx := i.x.sx, addrs := i.on.map fun l => (l, memAddr i l) }

/-- The transfer of an issue's words, before the read direction. -/
def readOf (i : Issue) (c : Core) (k : XferKind) (ws : List Nat) : Xfer :=
  { kind := k, issue := i.g, words := readWords ws, fwd := forwardWords c ws, tour := i.tour.index }

theorem readOf_words (i : Issue) (c : Core) (k : XferKind) (ws : List Nat) : (readOf i c k ws).words.map (·.1) = ws := by
  simp [readOf, readWords, Function.comp_def]

/-- The load that a shelf atomic leaves under way. -/
def shelfAtomOf (i : Issue) (n : Nat) : PendLoad :=
  { id := i.core.nextLoad, tour := i.tour.index, pc := i.pc, lanes := BitVec.ofNat 16 (laneMask i.on),
    issued := BitVec.ofNat 16 (laneMask i.lanes), reg := i.x.d, size := n, sx := false, addrs := [],
    extra := atomExtra (atomGroups i (atomAddr i)) }

section Shelf
variable {s : State} {i : Issue}

theorem distinct_ne_nil {l : List Nat} (h : l ≠ []) : distinct l ≠ [] := by
  cases l with
  | nil => exact absurd rfl h
  | cons a l => simp [distinct]

theorem loadShelf_sound (hb : i.bad = none) (hon : i.on ≠ []) (hw : (chanOf s (siteOfCore s i.id)).failed = false)
    (hs : ∀ l ∈ i.on, memAddr i l % i.x.size = 0 ∧ memAddr i l + i.x.size ≤ shelfBytes) :
    let ws := distinct (i.on.map fun l => memAddr i l / 16)
    let c := { i.core with nextLoad := i.core.nextLoad + 1, loads := i.core.loads ++ [shelfLoadOf i] }
    loadShelf s i = meetGroups (finish s i (addRead c (readOf i c (.load i.core.nextLoad) ws))) i.id ws := by
  have hf : ∀ l ∈ i.on, localFaults 0x14 0x15 shelfBytes i.x.size (memAddr i l) = [] :=
    fun l hl => localFaults_sound (hs l hl).1 (hs l hl).2
  have hne : distinct (i.on.map fun l => memAddr i l / 16) ≠ [] := distinct_ne_nil (by simpa using hon)
  intro ws c
  unfold loadShelf
  dsimp only
  rw [unreachableBy_none (.inr hw), checked_sound hb hf, List.map_map]
  exact if_neg hne

theorem storeShelf_sound (hb : i.bad = none) (hw : i.on = [] ∨ (chanOf s (siteOfCore s i.id)).failed = false)
    (hs : ∀ l ∈ i.on, memAddr i l % i.x.size = 0 ∧ memAddr i l + i.x.size ≤ shelfBytes) :
    storeShelf s i = presentWrites (finish s i ((gather 16 i.x.size (i.on.map fun l =>
      (memAddr i l, storeValue i.tour i.x.d i.x.size l))).foldl (storeWord i.g i.tour.index) i.core)) i.id i.core := by
  have hf : ∀ l ∈ i.on, localFaults 0x14 0x15 shelfBytes i.x.size (memAddr i l) = [] :=
    fun l hl => localFaults_sound (hs l hl).1 (hs l hl).2
  unfold storeShelf
  dsimp only
  rw [unreachableBy_none hw, checked_sound hb hf]

theorem atomicShelf_sound {n : Nat} (hb : i.bad = none) (hon : i.on ≠ []) (hw : (chanOf s (siteOfCore s i.id)).failed = false)
    (hn : atomicSize i.x.m = some n) (hs : ∀ l ∈ i.on, atomAddr i l % n = 0 ∧ atomAddr i l + n ≤ shelfBytes) :
    let ws := (atomGroups i (atomAddr i)).map (·.1 / 16)
    let c := { i.core with nextLoad := i.core.nextLoad + 1, loads := i.core.loads ++ [shelfAtomOf i n] }
    atomicShelf s i = meetGroups (finish s i
      (addRead c (readOf i c (.atomic i.core.nextLoad i.x.m (atomGroups i (atomAddr i))) ws))) i.id ws := by
  have hf : ∀ l ∈ i.on, localFaults 0x14 0x15 shelfBytes n (atomAddr i l) = [] :=
    fun l hl => localFaults_sound (hs l hl).1 (hs l hl).2
  have hne : (atomGroups i (atomAddr i)).map (·.1 / 16) ≠ [] := by
    simpa [atomGroups] using distinct_ne_nil (l := i.on.map (atomAddr i)) (by simpa using hon)
  intro ws c
  unfold atomicShelf
  rw [hn]
  dsimp only [Option.getD_some]
  rw [unreachableBy_none (.inr hw), checked_sound hb hf]
  exact if_neg hne

end Shelf

/-- A read that an issue puts before its channel, over a changed core: it waits behind the earlier ones, and no store changes. -/
theorem meetRead (s : State) (i : Issue) (c : Core) (q : Xfer) (ws : List Nat) :
    let t := meetGroups (finish s i (addRead c q)) i.id ws
    (coreOf t i.id).rdQueue = c.rdQueue ++ [q] ∧ (coreOf t i.id).loads = c.loads ∧ t.shelf = s.shelf ∧ t.clm = s.clm ∧ t.dram = s.dram := by
  obtain ⟨h1, h2, h3⟩ := meetGroups_stores (finish s i (addRead c q)) i.id ws
  obtain ⟨g1, g2, g3⟩ := finish_stores s i (addRead c q)
  dsimp only
  rw [meetGroups_coreOf, finish_rdQueue, finish_loads]
  exact ⟨rfl, rfl, h1.trans g2, h2.trans g1, h3.trans g3⟩

/-- A word of a store, whole or through the merge buffer (R194 to R196). -/
theorem storeWord_cases (c : Core) (g tour w m d : Nat) :
    let x : Nat × BitVec 16 × BitVec 128 := (w, BitVec.allOnes 16, BitVec.ofNat 128 d)
    let merge := c.merge.filter fun e => decide (e.word ≠ w)
    let fresh : MergeEntry := ⟨w, BitVec.ofNat 16 m, BitVec.ofNat 128 d, g, [tour]⟩
    (∀ qs q, c.wrQueue = qs ++ [q] → q.kind = .store → q.issue = g → q.tour = tour →
      storeWord g tour c (w, 2 ^ 16 - 1, d) = { c with merge := merge, wrQueue := qs ++ [{ q with words := q.words ++ [x] }] })
    ∧ ((∀ q, c.wrQueue.getLast? = some q → ¬(q.kind = .store ∧ q.issue = g ∧ q.tour = tour)) →
      storeWord g tour c (w, 2 ^ 16 - 1, d) =
        { c with merge := merge, wrQueue := c.wrQueue ++ [⟨.store, g, [x], [], [], tour, [], []⟩] })
    ∧ (m ≠ 2 ^ 16 - 1 →
      (c.merge = none → storeWord g tour c (w, m, d) = { c with merge := some fresh })
      ∧ (∀ e, c.merge = some e → e.word = w →
        let full := e.mask.toNat ||| m
        let both := mergeBytes 16 e.data.toNat d m
        let tours := if tour ∈ e.tours then e.tours else e.tours ++ [tour]
        (full ≠ 2 ^ 16 - 1 → storeWord g tour c (w, m, d) =
          { c with merge := some ⟨e.word, BitVec.ofNat 16 full, BitVec.ofNat 128 both, e.opened, tours⟩ })
        ∧ (full = 2 ^ 16 - 1 → storeWord g tour c (w, m, d) =
          { c with merge := none, wrQueue := c.wrQueue ++
              [⟨.merged, g, [(w, BitVec.allOnes 16, BitVec.ofNat 128 both)], [], [], tours.headD 0, tours.tail, []⟩] }))
      ∧ (∀ e, c.merge = some e → e.word ≠ w →
        let leg := fun k fwd => ⟨k, g, [(e.word, e.mask, e.data)], fwd, [], e.tours.headD 0, e.tours.tail, []⟩
        storeWord g tour c (w, m, d) = { c with
          merge := some fresh
          rdQueue := c.rdQueue ++ [leg .rmwRead (forwardWords { c with merge := none } [e.word])]
          wrQueue := c.wrQueue ++ [leg .rmwWrite []] })) :=
  ⟨fun _ _ hq hk hg ht => storeWord_whole.trans (addWhole_joins (c := { c with merge := c.merge.filter fun e => decide (e.word ≠ w) }) hq hk hg ht),
    fun hq => storeWord_whole.trans (addWhole_opens (c := { c with merge := c.merge.filter fun e => decide (e.word ≠ w) }) hq),
    fun hm => ⟨fun h => storeWord_fresh hm h, fun _ h he => ⟨fun hf => (storeWord_joins hm h he).trans (if_neg hf),
      fun hf => (storeWord_joins hm h he).trans (if_pos hf)⟩, fun _ h he => storeWord_other hm h he⟩⟩

theorem loadShelf_idle {s : State} {i : Issue} (hb : i.bad = none) (h : i.on = []) : loadShelf s i = finish s i i.core := by
  unfold loadShelf
  dsimp only
  rw [unreachableBy_none (.inl h), checked_idle hb h, if_pos (by simp [h, distinct])]

theorem atomicShelf_idle {s : State} {i : Issue} (hb : i.bad = none) (h : i.on = []) : atomicShelf s i = finish s i i.core := by
  unfold atomicShelf
  dsimp only
  rw [unreachableBy_none (.inl h), checked_idle hb h, if_pos (by simp [atomGroups, h, distinct])]

theorem storeShelf_idle {s : State} {i : Issue} (hb : i.bad = none) (h : i.on = []) : storeShelf s i = finish s i i.core := by
  rw [storeShelf_sound hb (.inl h) (by simp [h])]
  simp [h, gather, presentWrites]

/-- On a failed channel an access that addresses a word raises SHELF_UNREACHABLE, the lowest code it can raise (R145, R208). -/
theorem shelf_unreachable {s : State} {i : Issue} (hb : i.bad = none) (hon : i.on ≠ [])
    (hf : (chanOf s (siteOfCore s i.id)).failed = true) :
    loadShelf s i = issueFault s i 0x06 ∧ storeShelf s i = issueFault s i 0x06 ∧ atomicShelf s i = issueFault s i 0x06 := by
  have h (size : Nat) (addr : Nat → Nat) (t : State) : checked s i (fun l => localFaults 0x14 0x15 shelfBytes size (addr l)) [0x06] t =
      issueFault s i 0x06 := checked_first hb fun l _ => localFaults_ge (by decide) (by decide)
  unfold loadShelf storeShelf atomicShelf
  dsimp only
  rw [unreachableBy_failed hon hf]
  exact ⟨h _ _ _, h _ _ _, h _ _ _⟩

/-- Settles O28: what each instruction leaves before its direction of the channel, and the merge buffer's cases one by one. -/
theorem xilonShelfAccesses : Obligations.XilonShelfAccesses := by
  intro s core j i hi
  obtain ⟨hid, -, hbad, -, -⟩ := issueAt_some hi
  intro id size sound active ws works
  refine ⟨fun hon => ⟨fun hc => ?loadIdle, fun hc => ?storeIdle, fun hc => ?atomIdle⟩, fun hon hw => ?failed,
    fun hon hw _ => ⟨fun hs hc => ?load, fun hs hc => ?store, fun n hn hs hc => ?atomic⟩, storeWord_cases⟩
  case loadIdle => exact (xilon_of_clean hi hc : execLdS core j s = _).trans (congrArg _ (loadShelf_idle hbad hon))
  case storeIdle => exact (xilon_of_clean hi hc : execStS core j s = _).trans (congrArg _ (storeShelf_idle hbad hon))
  case atomIdle => exact (xilon_of_clean hi hc : execAtomS core j s = _).trans (congrArg _ (atomicShelf_idle hbad hon))
  case failed =>
    have hf : (chanOf s (siteOfCore s i.id)).failed = true := by
      rw [hid]
      simpa [works] using hw
    obtain ⟨h1, h2, h3⟩ := shelf_unreachable hbad hon hf
    exact ⟨fun hc => (xilon_of_clean hi hc : execLdS core j s = _).trans (congrArg _ h1),
      fun hc => (xilon_of_clean hi hc : execStS core j s = _).trans (congrArg _ h2),
      fun hc => (xilon_of_clean hi hc : execAtomS core j s = _).trans (congrArg _ h3)⟩
  case load =>
    have hw' : (chanOf s (siteOfCore s i.id)).failed = false := by rw [hid]; exact hw
    obtain ⟨h1, h2, h3⟩ := meetRead s i { i.core with nextLoad := i.core.nextLoad + 1, loads := i.core.loads ++ [shelfLoadOf i] } (readOf i _ _ ws) ws
    rw [show id = i.id from hid.symm]
    exact ⟨_, _, (xilon_of_clean hi hc : execLdS core j s = _).trans (congrArg _ (loadShelf_sound hbad hon hw' hs)), h1, rfl, rfl,
      readOf_words .., h3.1, h3.2.1, h3.2.2, shelfLoadOf i, h2, rfl, rfl, rfl, rfl, rfl⟩
  case store =>
    have hw' : (chanOf s (siteOfCore s i.id)).failed = false := by rw [hid]; exact hw
    let v := (gather 16 i.x.size (i.on.map fun l => (memAddr i l, storeValue i.tour i.x.d i.x.size l))).foldl
      (storeWord i.g i.tour.index) i.core
    obtain ⟨h1, h2, h3⟩ := presentWrites_stores (finish s i v) i.id i.core
    obtain ⟨g1, g2, g3⟩ := finish_stores s i v
    refine ⟨presentWrites (finish s i v) i.id i.core,
      (xilon_of_clean hi hc : execStS core j s = _).trans (congrArg _ (storeShelf_sound hbad (.inr hw') hs)),
      h1.trans g2, h2.trans g1, h3.trans g3, ?_⟩
    rw [presentWrites_coreOf, show id = i.id from hid.symm]
    exact ⟨finish_merge .., finish_wrQueue .., finish_rdQueue ..⟩
  case atomic =>
    have hw' : (chanOf s (siteOfCore s i.id)).failed = false := by rw [hid]; exact hw
    obtain ⟨h1, -, h3⟩ := meetRead s i { i.core with nextLoad := i.core.nextLoad + 1, loads := i.core.loads ++ [shelfAtomOf i n] } (readOf i _ _ _) _
    rw [show id = i.id from hid.symm]
    exact ⟨_, _, (xilon_of_clean hi hc : execAtomS core j s = _).trans (congrArg _ (atomicShelf_sound hbad hon hw' hn hs)), h1, rfl, rfl,
      h3.1, h3.2.1, h3.2.2⟩

end Sys2Proof.Machine
end

section
/-! PROOF. The global accesses and the mesh put at their issue (R89, R90, R94, R126, R132, R133): O29. -/

namespace Sys2Proof.Machine

/-! ### Requests before the egress (R89, R90) -/

theorem raiseFaultO_nextReq (s : State) (p : Option Nat) (f : FaultRec) : (raiseFaultO s p f).nextReq = s.nextReq := by
  unfold raiseFaultO raiseFault
  split
  · split <;> rfl
  · rfl

theorem finish_nextReq (s : State) (i : Issue) (c : Core) : (finish s i c).nextReq = s.nextReq := by
  unfold finish settle
  dsimp only
  split
  · exact raiseFaultO_nextReq ..
  · rfl

section Send
variable {s : State} {i : Issue} {load : Option Nat} {kind : ReqKind} {block mask d : Nat}

theorem sendGlobal_core : (coreOf (sendGlobal s i load kind block mask d) i.id).egress = (coreOf s i.id).egress ++ [(false, s.nextReq)] := by
  unfold sendGlobal
  dsimp only
  rw [setCore_self]
  rfl

theorem sendGlobal_find (n : Nat) (h : n ≠ s.nextReq) : find (sendGlobal s i load kind block mask d).net n = find s.net n :=
  find_put_ne _ _ _ _ h

theorem sendGlobal_new : ∃ r, find (sendGlobal s i load kind block mask d).net s.nextReq = some r ∧ r.addr = 64 * block
    ∧ r.stage = .egress i.g := ⟨_, find_put_same .., rfl, rfl⟩

end Send

/-- What an issue's requests, one for each block, leave before the egress: they follow one another. -/
theorem sendBlocks (i : Issue) (load : Option Nat) (kind : Nat → ReqKind) (mask d : Nat → Nat) (bs : List Nat) (s : State) :
    let t := bs.foldl (fun s b => sendGlobal s i load (kind b) b (mask b) (d b)) s
    t.nextReq = s.nextReq + bs.length
      ∧ (coreOf t i.id).egress = (coreOf s i.id).egress ++ (List.range bs.length).map (fun k => (false, s.nextReq + k))
      ∧ (∀ n, n < s.nextReq → find t.net n = find s.net n)
      ∧ (∀ k a, bs[k]? = some a → ∃ r, find t.net (s.nextReq + k) = some r ∧ r.addr = 64 * a ∧ r.stage = .egress i.g)
      ∧ t.shelf = s.shelf ∧ t.clm = s.clm ∧ t.dram = s.dram := by
  induction bs generalizing s with
  | nil => exact ⟨rfl, by simp, fun _ _ => rfl, by simp, rfl, rfl, rfl⟩
  | cons b bs ih =>
    obtain ⟨h1, h2, h3, h4, h5, h6, h7⟩ := ih (sendGlobal s i load (kind b) b (mask b) (d b))
    have hn : (sendGlobal s i load (kind b) b (mask b) (d b)).nextReq = s.nextReq + 1 := rfl
    rw [hn] at h1 h2 h3 h4
    refine ⟨h1.trans (by rw [List.length_cons]; omega), h2.trans ?_, fun n hlt => (h3 n (by omega)).trans (sendGlobal_find _ (by omega)),
      fun k a hk => ?_, h5.trans rfl, h6.trans rfl, h7.trans rfl⟩
    · rw [sendGlobal_core, List.length_cons, List.range_succ_eq_map, List.map_cons, List.map_map, List.append_assoc]
      simp [Function.comp_def, Nat.add_assoc, Nat.add_comm 1]
    · cases k with
      | zero =>
        obtain rfl : b = a := by simpa using hk
        obtain ⟨r, hr, ha⟩ := sendGlobal_new (s := s) (i := i) (load := load) (kind := kind b) (block := b) (mask := mask b) (d := d b)
        exact ⟨r, (h3 _ (by omega)).trans hr, ha⟩
      | succ k =>
        have := h4 k a (by simpa using hk)
        rwa [show s.nextReq + 1 + k = s.nextReq + (k + 1) by omega] at this

/-- The requests of an issue that has ended over a changed core. -/
theorem sendBlocks_finish (s : State) (i : Issue) (c : Core) (load : Option Nat) (kind : Nat → ReqKind) (mask d : Nat → Nat) (bs : List Nat)
    (h : c.egress = i.core.egress) :
    let t := bs.foldl (fun s b => sendGlobal s i load (kind b) b (mask b) (d b)) (finish s i c)
    t.nextReq = s.nextReq + bs.length
      ∧ (coreOf t i.id).egress = i.core.egress ++ (List.range bs.length).map (fun k => (false, s.nextReq + k))
      ∧ (∀ k a, bs[k]? = some a → ∃ r, find t.net (s.nextReq + k) = some r ∧ r.addr = 64 * a ∧ r.stage = .egress i.g)
      ∧ t.shelf = s.shelf ∧ t.clm = s.clm ∧ t.dram = s.dram := by
  obtain ⟨h1, h2, -, h4, h5, h6, h7⟩ := sendBlocks i load kind mask d bs (finish s i c)
  obtain ⟨g1, g2, g3⟩ := finish_stores s i c
  rw [finish_nextReq] at h1 h2 h4
  rw [finish_egress, h] at h2
  exact ⟨h1, h2, h4, h5.trans g2, h6.trans g1, h7.trans g3⟩

/-! ### The payload of a put (R92) -/

theorem packWords_lt (ws : List Nat) : packWords ws < 2 ^ (32 * ws.length) := by
  induction ws with
  | nil => simp [packWords]
  | cons w ws ih =>
    have hw : w % 2 ^ 32 < 2 ^ 32 := Nat.mod_lt _ (by decide)
    rw [packWords, List.length_cons, Nat.mul_add, Nat.pow_add, Nat.mul_comm (2 ^ (32 * ws.length))]
    omega

theorem packWords_get {ws : List Nat} {l w : Nat} (h : ws[l]? = some w) : packWords ws / 2 ^ (32 * l) % 2 ^ 32 = w % 2 ^ 32 := by
  induction ws generalizing l with
  | nil => simp at h
  | cons x ws ih =>
    rw [packWords]
    cases l with
    | zero =>
      obtain rfl : x = w := by simpa using h
      omega
    | succ l =>
      have hx : (x % 2 ^ 32 + 2 ^ 32 * packWords ws) / 2 ^ 32 = packWords ws := by omega
      rw [show 32 * (l + 1) = 32 + 32 * l by omega, Nat.pow_add, ← Nat.div_div_eq_div_mul, hx]
      exact ih (by simpa using h)

/-- A word of a packed block. -/
theorem packWords_extract (f : Nat → Word) {n l : Nat} (h : l < n) :
    (BitVec.ofNat (32 * n) (packWords ((List.range n).map fun k => (f k).toNat))).extractLsb' (32 * l) 32 = f l := by
  apply BitVec.eq_of_toNat_eq
  have hlt := packWords_lt ((List.range n).map fun k => (f k).toNat)
  rw [List.length_map, List.length_range] at hlt
  have hg := packWords_get (ws := (List.range n).map fun k => (f k).toNat) (l := l) (w := (f l).toNat) (by simp [h])
  rw [BitVec.extractLsb'_toNat, BitVec.toNat_ofNat, Nat.mod_eq_of_lt hlt, Nat.shiftRight_eq_div_pow, hg]
  exact Nat.mod_eq_of_lt (f l).isLt

/-! ### The instructions -/

/-- The masks that the lanes of an issue need of a block. -/
def globalMask (i : Issue) (b : Nat) : Nat :=
  (((gather 64 i.x.size (i.on.map fun l => (globalAddr i l, 0))).find? (·.1 = b)).map (·.2.1)).getD 0

theorem globalBlocks_idle {i : Issue} (h : i.on = []) : globalBlocks i = [] := by
  simp [globalBlocks, h, distinct]

/-- The load that a global load leaves under way. -/
def globalLoadOf (i : Issue) : PendLoad :=
  { id := i.core.nextLoad, tour := i.tour.index, pc := i.pc, lanes := BitVec.ofNat 16 (laneMask i.on),
    issued := BitVec.ofNat 16 (laneMask i.lanes), reg := i.x.d, size := i.x.size, sx := i.x.sx, unit := 64,
    addrs := i.on.map fun l => (l, globalAddr i l) }

/-- The load that a global atomic leaves under way. -/
def globalAtomOf (i : Issue) : PendLoad :=
  { id := i.core.nextLoad, tour := i.tour.index, pc := i.pc, lanes := BitVec.ofNat 16 (laneMask i.on),
    issued := BitVec.ofNat 16 (laneMask i.lanes), reg := i.x.d, size := (atomicSize i.x.m).getD 4, sx := false, unit := 64,
    addrs := [], extra := atomExtra (atomGroups i (globalAddr i)) }

/-- The operations of an atomic in a block. -/
def blockAtoms (i : Issue) (b : Nat) : List (Nat × Nat × DWord × DWord) :=
  ((atomGroups i (globalAddr i)).filter fun g => g.1 / 64 = b).flatMap fun g => g.2.map fun o => (o.1, g.1, o.2.1, o.2.2)

/-- The combined operands of a reduction in a block. -/
def blockReds (i : Issue) (b : Nat) : List (Nat × DWord) :=
  ((distinct (i.on.map (globalAddr i))).map fun a => (a, combine i.x.m ((i.on.filter fun l => globalAddr i l = a).map fun l =>
    BitVec.ofNat 64 (if i.x.m = 3 then pairV i.tour l i.x.b else (getV i.tour l i.x.b).toNat)))).filter fun o => o.1 / 64 = b

/-- The blocks that the stores of an issue write. -/
def globalStores (i : Issue) : SMap (Nat × Nat) :=
  gather 64 i.x.size (i.on.map fun l => (globalAddr i l, storeValue i.tour i.x.d i.x.size l))

section Global
variable {s : State} {i : Issue}

theorem loadGlobal_sound (hb : i.bad = none)
    (hs : ∀ l ∈ i.on, globalFaults s (ownPart s i) 0 i.x.size (globalBase i l) (globalAddr i l) = []) :
    loadGlobal s i = if i.on = [] then finish s i i.core else
      (globalBlocks i).foldl (fun s b => sendGlobal s i (some i.core.nextLoad) .load b (globalMask i b) 0)
        (finish s i { i.core with nextLoad := i.core.nextLoad + 1, loads := i.core.loads ++ [globalLoadOf i] }) := by
  unfold loadGlobal
  dsimp only
  rw [checked_sound hb hs]
  rfl

theorem storeGlobal_sound (hb : i.bad = none)
    (hs : ∀ l ∈ i.on, globalFaults s (ownPart s i) 0 i.x.size (globalBase i l) (globalAddr i l) = []) :
    storeGlobal s i = (globalBlocks i).foldl (fun s b => sendGlobal s i none .store b (look (globalStores i) b (0, 0)).1
      (look (globalStores i) b (0, 0)).2) (finish s i i.core) := by
  unfold storeGlobal
  dsimp only
  rw [checked_sound hb hs]
  rfl

theorem atomicGlobal_sound (hb : i.bad = none)
    (hs : ∀ l ∈ i.on, globalFaults s (ownPart s i) 1 ((atomicSize i.x.m).getD 4) (globalBase i l) (globalAddr i l) = []) :
    atomicGlobal s i = if i.on = [] then finish s i i.core else
      (globalBlocks i).foldl (fun s b => sendGlobal s i (some i.core.nextLoad) (.atomic i.x.m (blockAtoms i b)) b 0 0)
        (finish s i { i.core with nextLoad := i.core.nextLoad + 1, loads := i.core.loads ++ [globalAtomOf i] }) := by
  unfold atomicGlobal
  dsimp only
  rw [checked_sound hb hs]
  rfl

theorem reduceGlobal_sound (hb : i.bad = none)
    (hs : ∀ l ∈ i.on, globalFaults s (ownPart s i) 2 ((redSize i.x.m).getD 4) (globalBase i l) (globalAddr i l) = []) :
    reduceGlobal s i = (globalBlocks i).foldl (fun s b => sendGlobal s i none (.red i.x.m (blockReds i b)) b 0 0) (finish s i i.core) := by
  unfold reduceGlobal
  dsimp only
  rw [checked_sound hb hs]
  rfl

/-- A global access with no enabled lane only advances. -/
theorem global_idle (hb : i.bad = none) (h : i.on = []) : loadGlobal s i = finish s i i.core ∧ storeGlobal s i = finish s i i.core
    ∧ atomicGlobal s i = finish s i i.core ∧ reduceGlobal s i = finish s i i.core := by
  rw [loadGlobal_sound hb (by simp [h]), storeGlobal_sound hb (by simp [h]), atomicGlobal_sound hb (by simp [h]),
    reduceGlobal_sound hb (by simp [h]), if_pos h, if_pos h, globalBlocks_idle h]
  exact ⟨rfl, rfl, rfl, rfl⟩

end Global

/-! ### The mesh put (R92, R133) -/

/-- The flit of a put. -/
def putFlitOf (s : State) (i : Issue) : Flit :=
  let u := (getU i.tour i.x.a).toNat
  { source := i.id, slot := i.tour.index, target := (16 * stackOfCore i.id + bits u 11 4) * 864 + bits u 7 4 * 96 + bits u 0 7
    offset := (getU i.tour i.x.b).toNat
    data := BitVec.ofNat 512 (packWords ((List.range 16).map fun l => (getV i.tour l i.x.d).toNat))
    part := (ownPart s i).getD 8, presented := i.g }

theorem putFlitOf_word (s : State) (i : Issue) {l : Nat} (h : l < 16) :
    (putFlitOf s i).data.extractLsb' (32 * l) 32 = getV i.tour l i.x.d :=
  packWords_extract (n := 16) (fun l => getV i.tour l i.x.d) h

/-- The state in which an issue has put its flit before the egress. -/
def putFlit (s : State) (i : Issue) : State :=
  let t := finish s i { i.core with egress := i.core.egress ++ [(true, s.nextFlit)]
                                    unacked := i.core.unacked ++ [(i.tour.index, true, s.nextFlit)] }
  { t with flits := put t.flits s.nextFlit (putFlitOf s i), nextFlit := s.nextFlit + 1 }

theorem meshPut_sound {s : State} {i : Issue} (hb : i.bad = none)
    (h1 : bits (getU i.tour i.x.a).toNat 15 3 = stackOfCore i.id) (h2 : bits (getU i.tour i.x.a).toNat 0 7 < 96)
    (h3 : bits (getU i.tour i.x.a).toNat 7 4 < logicalCabs s (16 * stackOfCore i.id + bits (getU i.tour i.x.a).toNat 11 4))
    (h4 : (getU i.tour i.x.b).toNat % 64 = 0) (h5 : (getU i.tour i.x.b).toNat < 32768)
    (h6 : ∀ w ∈ meshWings (wingOfCore i.id) (16 * stackOfCore i.id + bits (getU i.tour i.x.a).toNat 11 4), ownerOfWing s w = ownPart s i) :
    meshPut s i = putFlit s i := by
  have hforeign : ((meshWings (wingOfCore i.id) (16 * stackOfCore i.id + bits (getU i.tour i.x.a).toNat 11 4)).any
      fun w => decide (ownerOfWing s w ≠ ownPart s i)) = false := by
    simpa [List.any_eq_false] using h6
  unfold meshPut
  dsimp only
  rw [hforeign, if_neg (by simp [h1, h2, h3, h4, h5]), if_neg Bool.false_ne_true, checked_sound hb (by simp)]
  rfl

/-- Settles O29: the blocks' requests one after another, and the put's flit. -/
theorem xilonGlobalAccesses : Obligations.XilonGlobalAccesses := by
  intro s core j i hi
  obtain ⟨hid, -, hbad, -, -⟩ := issueAt_some hi
  intro id sound n sent
  refine ⟨fun hon => ?idle, fun hon => ⟨fun hs hc => ?load, fun hs hc => ?store, fun z hz hs hc => ?atomic, fun z hz hs hc => ?reduce⟩, ?put⟩
  case idle =>
    obtain ⟨h1, h2, h3, h4⟩ := global_idle (s := s) hbad hon
    exact ⟨fun hc => (xilon_of_clean hi hc : execLdG core j s = _).trans (congrArg _ h1),
      fun hc => (xilon_of_clean hi hc : execStG core j s = _).trans (congrArg _ h2),
      fun hc => (xilon_of_clean hi hc : execAtomG core j s = _).trans (congrArg _ h3),
      fun hc => (xilon_of_clean hi hc : execRedG core j s = _).trans (congrArg _ h4)⟩
  all_goals
    have hsent : ∀ (c : Core) (load : Option Nat) (kind : Nat → ReqKind) (mask d : Nat → Nat), c.egress = i.core.egress →
        sent ((globalBlocks i).foldl (fun s b => sendGlobal s i load (kind b) b (mask b) (d b)) (finish s i c)) := by
      intro c load kind mask d h
      simp only [sent, show id = i.id from hid.symm]
      exact sendBlocks_finish s i c load kind mask d (globalBlocks i) h
  case load =>
    refine ⟨_, (xilon_of_clean hi hc : execLdG core j s = _).trans (congrArg _ ((loadGlobal_sound hbad hs).trans (if_neg hon))), ?_⟩
    exact hsent _ _ (fun _ => .load) (globalMask i) (fun _ => 0) rfl
  case store =>
    refine ⟨_, (xilon_of_clean hi hc : execStG core j s = _).trans (congrArg _ (storeGlobal_sound hbad hs)), ?_⟩
    exact hsent _ _ (fun _ => .store) (fun b => (look (globalStores i) b (0, 0)).1) (fun b => (look (globalStores i) b (0, 0)).2) rfl
  case atomic =>
    have hs' : ∀ l ∈ i.on, globalFaults s (ownPart s i) 1 ((atomicSize i.x.m).getD 4) (globalBase i l) (globalAddr i l) = [] := by
      rw [hz]
      exact hs
    refine ⟨_, (xilon_of_clean hi hc : execAtomG core j s = _).trans (congrArg _ ((atomicGlobal_sound hbad hs').trans (if_neg hon))), ?_⟩
    exact hsent _ _ (fun b => .atomic i.x.m (blockAtoms i b)) (fun _ => 0) (fun _ => 0) rfl
  case reduce =>
    have hs' : ∀ l ∈ i.on, globalFaults s (ownPart s i) 2 ((redSize i.x.m).getD 4) (globalBase i l) (globalAddr i l) = [] := by
      rw [hz]
      exact hs
    refine ⟨_, (xilon_of_clean hi hc : execRedG core j s = _).trans (congrArg _ (reduceGlobal_sound hbad hs')), ?_⟩
    exact hsent _ _ (fun b => .red i.x.m (blockReds i b)) (fun _ => 0) (fun _ => 0) rfl
  case put =>
    simp only [id, ← hid]
    intro h1 h2 h3 h4 h5 h6 hc
    obtain ⟨g1, g2, g3⟩ := finish_stores s i { i.core with egress := i.core.egress ++ [(true, s.nextFlit)]
                                                           unacked := i.core.unacked ++ [(i.tour.index, true, s.nextFlit)] }
    refine ⟨putFlit s i, putFlitOf s i, (xilon_of_clean hi hc : execMeshPut core j s = _).trans
      (congrArg _ (meshPut_sound hbad h1 h2 h3 h4 h5 h6)), find_put_same .., rfl, rfl, fun l hl => putFlitOf_word s i hl, ?_, g1, g2, g3⟩
    exact finish_egress ..

end Sys2Proof.Machine
end

section
/-! PROOF. The matrix and block instructions at their issue (R140 to R142, R157 to R165, R180): O30. -/

namespace Sys2Proof.Machine

@[simp] theorem finish_shadow (s : State) (i : Issue) (c : Core) : (coreOf (finish s i c) i.id).shadow = c.shadow := by
  obtain ⟨_, _, h⟩ := finish_core s i c
  rw [h]

@[simp] theorem finish_runs (s : State) (i : Issue) (c : Core) : (coreOf (finish s i c) i.id).runs = c.runs := by
  obtain ⟨_, _, h⟩ := finish_core s i c
  rw [h]

@[simp] theorem finish_tiles (s : State) (i : Issue) (c : Core) : (coreOf (finish s i c) i.id).tiles = c.tiles := by
  obtain ⟨_, _, h⟩ := finish_core s i c
  rw [h]

@[simp] theorem finish_accLoads (s : State) (i : Issue) (c : Core) : (coreOf (finish s i c) i.id).accLoads = c.accLoads := by
  obtain ⟨_, _, h⟩ := finish_core s i c
  rw [h]

/-- An issue that reads the CLM and ends changes no store. -/
theorem finish_report (s : State) (i : Issue) (c : Core) (core : Nat) (addrs : List Nat) :
    let t := finish (clmReport s core addrs) i c
    t.clm = s.clm ∧ t.shelf = s.shelf ∧ t.dram = s.dram := by
  obtain ⟨h1, h2, h3⟩ := finish_stores (clmReport s core addrs) i c
  have hr := clmReport_mild s core addrs
  exact ⟨h1.trans hr.clm, h2.trans hr.shelf, h3.trans hr.dram⟩

/-! ### The checks of an image (R140) -/

theorem imageFaults_clm {s : State} {i : Issue} {a bytes : Nat} (hx : i.x.shelf = false) (h : a % 16 = 0 ∧ a + bytes ≤ 32768) :
    imageFaults s i a bytes = [] := by
  simp [imageFaults, hx, h.1, h.2]

theorem imageFaults_shelf {s : State} {i : Issue} {a bytes : Nat} (hx : i.x.shelf = true)
    (hw : (chanOf s (siteOfCore s i.id)).failed = false) (h : a % 16 = 0 ∧ a + bytes ≤ shelfBytes) :
    imageFaults s i a bytes = [] := by
  simp [imageFaults, hx, h.1, h.2, unreachable, hw]

theorem ownFaults_own {i : Issue} (h : (tileOf i.core (i.x.d % 8)).owner = some i.tour.index) : ownFaults i = [] := if_pos h

/-- An issue that raises none of its faults has its meaning. -/
theorem checked_none {s t : State} {i : Issue} {extra : List Nat} (hb : i.bad = none) (h : extra = []) :
    checked s i (fun _ => []) extra t = t := by
  rw [h]
  exact checked_sound hb (by simp)

/-- A tile that can be read leaves an issue as sound as it was. -/
theorem withBad_eq {i : Issue} {b : Option BadRead} (hb : i.bad = none) (h : b = none) :
    { i with bad := i.bad.orElse fun _ => b } = i := by
  rw [hb, h]
  exact show { i with bad := none } = i by rw [← hb]

/-! ### mx.tile (R158, R159) -/

/-- The tile image that an mx.tile leaves in the shadow. -/
def shadowOf (i : Issue) (bytes : List Byte) (ready : Option Nat) : TileImage :=
  { shape := shapeOf i.x, bytes := bytes, tour := i.tour.index, pc := i.pc, lanes := BitVec.ofNat 16 (laneMask i.lanes), ready := ready }

/-- The GCLK in which a CLM image of so many bytes has been read (R159). -/
def imageReady (i : Issue) (bytes : Nat) : Nat := i.g + ceilDiv bytes 64 + 3

section Image
variable {s : State} {i : Issue} (hb : i.bad = none)
include hb

theorem loadTile_clm {img : List Byte} (hx : i.x.shelf = false) (hs : shapeFaults s i.x = [])
    (hf : (getU i.tour i.x.a).toNat % 16 = 0 ∧ (getU i.tour i.x.a).toNat + (shapeOf i.x).heldBytes ≤ 32768)
    (hi : clmImage s i.id (getU i.tour i.x.a).toNat (shapeOf i.x).heldBytes = some img) :
    let o := occupyClm i (ceilDiv (shapeOf i.x).heldBytes 64)
    loadTile s i = finish (clmReport s i.id (bytesOf (shapeOf i.x).heldBytes [(getU i.tour i.x.a).toNat])) o
      { o.core with shadow := some (shadowOf i img (some (imageReady i (shapeOf i.x).heldBytes))) } := by
  unfold loadTile
  dsimp only
  rw [hs, imageFaults_clm hx hf, checked_none hb (extra := [] ++ []) rfl, if_neg (by simp [hx]), show (occupyClm i (ceilDiv (shapeOf i.x).heldBytes 64)).id = i.id from rfl, hi]
  rfl

theorem loadTile_shelf (hx : i.x.shelf = true) (hw : (chanOf s (siteOfCore s i.id)).failed = false) (hs : shapeFaults s i.x = [])
    (hf : (getU i.tour i.x.a).toNat % 16 = 0 ∧ (getU i.tour i.x.a).toNat + (shapeOf i.x).heldBytes ≤ shelfBytes) :
    let ws := imageWords (getU i.tour i.x.a).toNat (shapeOf i.x).heldBytes
    loadTile s i = meetGroups (finish s i (addRead { i.core with shadow := some (shadowOf i [] none) } (readOf i i.core .tile ws))) i.id ws := by
  unfold loadTile
  dsimp only
  rw [hs, imageFaults_shelf hx hw hf, checked_none hb (extra := [] ++ []) rfl, if_pos hx]
  rfl

/-! ### mx.run (R148, R158, R160) -/

omit hb in
/-- The run that an mx.run leaves in the array's queue. -/
def runOf (i : Issue) (stream : List Byte) (ready : Option Nat) : MxRun :=
  { id := i.core.nextRun, shape := shapeOf i.x, n := i.x.count + 1, tile := i.x.d % 8, acc := i.x.acc, claims := claims i.core,
    tour := i.tour.index, pc := i.pc, lanes := BitVec.ofNat 16 (laneMask i.lanes), stream := stream, ready := ready }

omit hb in
/-- The core whose shadow a run has claimed. -/
def claimed (c : Core) : Core := { c with nextRun := c.nextRun + 1, shadow := c.shadow.map fun t => { t with claimed := true } }

omit hb in
/-- The state after a sound mx.run. -/
def ranClm (s : State) (i : Issue) (img : List Byte) : State :=
  let bytes := (shapeOf i.x).streamBytes (i.x.count + 1)
  let o := occupyClm { i with core := claimed i.core } (ceilDiv bytes 64)
  finish (clmReport s i.id (bytesOf bytes [(getU i.tour i.x.a).toNat])) o
    { o.core with runs := i.core.runs ++ [runOf i img (some (imageReady i bytes))] }

omit hb in
def ranShelf (s : State) (i : Issue) : State :=
  let ws := imageWords (getU i.tour i.x.a).toNat ((shapeOf i.x).streamBytes (i.x.count + 1))
  meetGroups (finish s i (addRead { claimed i.core with runs := i.core.runs ++ [runOf i [] none] }
    (readOf i i.core (.run i.core.nextRun) ws))) i.id ws

omit hb in
/-- The faults that an mx.run checks. -/
def runChecks (s : State) (i : Issue) : List Nat :=
  ownFaults i ++ runFaults s i ++ imageFaults s i (getU i.tour i.x.a).toNat ((shapeOf i.x).streamBytes (i.x.count + 1))

omit hb in
/-- The issue of an mx.run with what the check of its tile found (R410). -/
def runIssue (i : Issue) : Issue :=
  { i with bad := i.bad.orElse fun _ => if i.x.acc then tileBad i.core (i.x.d % 8) (runWords (shapeOf i.x) (i.x.count + 1)) else none }

omit hb in
theorem startRun_eq_clm {img : List Byte} (hx : i.x.shelf = false)
    (hi : clmImage s i.id (getU i.tour i.x.a).toNat ((shapeOf i.x).streamBytes (i.x.count + 1)) = some img) :
    startRun s i = checked s (runIssue i) (fun _ => []) (runChecks s (runIssue i)) (ranClm s (runIssue i) img) := by
  have hid (i : Issue) (k : Nat) : (occupyClm i k).id = i.id := rfl
  unfold startRun
  refine congrArg (checked s (runIssue i) _ _) ((if_neg (by simp [hx])).trans ?_)
  simp only [hid, hi]
  rfl

omit hb in
theorem startRun_eq_shelf (hx : i.x.shelf = true) :
    startRun s i = checked s (runIssue i) (fun _ => []) (runChecks s (runIssue i)) (ranShelf s (runIssue i)) := by
  unfold startRun
  exact congrArg (checked s (runIssue i) _ _) (if_pos hx)

theorem runIssue_sound (hr : i.x.acc = true → tileBad i.core (i.x.d % 8) (runWords (shapeOf i.x) (i.x.count + 1)) = none) : runIssue i = i := by
  refine withBad_eq hb ?_
  split
  case isTrue h => exact hr h
  case isFalse => rfl

theorem startRun_clm {img : List Byte} (hx : i.x.shelf = false) (hown : (tileOf i.core (i.x.d % 8)).owner = some i.tour.index)
    (hr : i.x.acc = true → tileBad i.core (i.x.d % 8) (runWords (shapeOf i.x) (i.x.count + 1)) = none) (hs : runFaults s i = [])
    (hf : (getU i.tour i.x.a).toNat % 16 = 0 ∧ (getU i.tour i.x.a).toNat + (shapeOf i.x).streamBytes (i.x.count + 1) ≤ 32768)
    (hi : clmImage s i.id (getU i.tour i.x.a).toNat ((shapeOf i.x).streamBytes (i.x.count + 1)) = some img) :
    startRun s i = ranClm s i img := by
  rw [startRun_eq_clm hx hi, runIssue_sound hb hr]
  refine checked_none hb ?_
  rw [runChecks, ownFaults_own hown, hs, imageFaults_clm hx hf]
  rfl

theorem startRun_shelf (hx : i.x.shelf = true) (hw : (chanOf s (siteOfCore s i.id)).failed = false)
    (hown : (tileOf i.core (i.x.d % 8)).owner = some i.tour.index)
    (hr : i.x.acc = true → tileBad i.core (i.x.d % 8) (runWords (shapeOf i.x) (i.x.count + 1)) = none) (hs : runFaults s i = [])
    (hf : (getU i.tour i.x.a).toNat % 16 = 0 ∧ (getU i.tour i.x.a).toNat + (shapeOf i.x).streamBytes (i.x.count + 1) ≤ shelfBytes) :
    startRun s i = ranShelf s i := by
  rw [startRun_eq_shelf hx, runIssue_sound hb hr]
  refine checked_none hb ?_
  rw [runChecks, ownFaults_own hown, hs, imageFaults_shelf hx hw hf]
  rfl

/-! ### mx.acc (R157, R163, R164) -/

omit hb in
theorem accAction_same {f : State → Issue → State} {act : Nat} (h3 : act ≠ 3) (h : i.x.mode = act) : accAction act f s i = f s i := by
  simp [accAction, h, h3]

theorem accClear_own (hown : (tileOf i.core (i.x.d % 8)).owner = some i.tour.index) :
    let n := i.x.d % 8
    accClear s i = finish s i
      { i.core with tiles := put i.core.tiles n { tileOf i.core n with int := i.x.fmt = 4, words := [], bad := [] } } :=
  checked_none hb (ownFaults_own hown)

omit hb in
/-- The transfer of a tile's image to the shelf (R164). -/
def tileXfer (i : Issue) : Xfer :=
  { kind := .accStore, issue := i.g, tour := i.tour.index,
    words := (List.range 64).map fun n => ((getU i.tour i.x.a).toNat / 16 + n, BitVec.allOnes 16,
      BitVec.ofNat 128 (leNat (tileBytes (tileOf i.core (i.x.d % 8))) >>> (128 * n))) }

omit hb in
/-- The core that has put a tile's image before its write direction. -/
def tileSent (i : Issue) : Core :=
  { i.core with
    merge := match i.core.merge with
      | some e => if e.word ∈ imageWords (getU i.tour i.x.a).toNat 1024 then none else some e
      | none => none
    wrQueue := i.core.wrQueue ++ [tileXfer i] }

omit hb in
/-- The issue of an mx.acc store with what the check of its tile found (R410). -/
def storeIssue (i : Issue) : Issue := { i with bad := i.bad.orElse fun _ => tileBad i.core (i.x.d % 8) (List.range 256) }

omit hb in
/-- The faults that an mx.acc store checks. -/
def storeChecks (s : State) (i : Issue) : List Nat :=
  ownFaults i ++ (if (tileOf i.core (i.x.d % 8)).int ≠ (i.x.fmt = 4) then [0x20] else [])
    ++ imageFaults s i (getU i.tour i.x.a).toNat 1024

omit hb in
theorem storeChecks_own (hown : (tileOf i.core (i.x.d % 8)).owner = some i.tour.index)
    (ht : (tileOf i.core (i.x.d % 8)).int ↔ i.x.fmt = 4) (hf : imageFaults s i (getU i.tour i.x.a).toNat 1024 = []) :
    storeChecks s i = [] := by
  rw [storeChecks, ownFaults_own hown, if_neg (by simpa using propext ht), hf]
  rfl

theorem accStore_clm (hx : i.x.shelf = false) (hown : (tileOf i.core (i.x.d % 8)).owner = some i.tour.index)
    (hr : tileBad i.core (i.x.d % 8) (List.range 256) = none) (ht : (tileOf i.core (i.x.d % 8)).int ↔ i.x.fmt = 4)
    (hf : (getU i.tour i.x.a).toNat % 16 = 0 ∧ (getU i.tour i.x.a).toNat + 1024 ≤ 32768) :
    accStore s i = finish (clmPut s i.id (getU i.tour i.x.a).toNat (tileBytes (tileOf i.core (i.x.d % 8)))) (occupyClm i 16)
      (occupyClm i 16).core := by
  have he : accStore s i = checked s (storeIssue i) (fun _ => []) (storeChecks s (storeIssue i))
      (finish (clmPut s i.id (getU i.tour i.x.a).toNat (tileBytes (tileOf i.core (i.x.d % 8)))) (occupyClm (storeIssue i) 16)
        (occupyClm (storeIssue i) 16).core) := by
    unfold accStore
    exact congrArg (checked s (storeIssue i) _ _) (if_neg (by simp [hx]))
  rw [he, show storeIssue i = i from withBad_eq hb hr]
  exact checked_none hb (storeChecks_own hown ht (imageFaults_clm hx hf))

theorem accStore_shelf (hx : i.x.shelf = true) (hw : (chanOf s (siteOfCore s i.id)).failed = false)
    (hown : (tileOf i.core (i.x.d % 8)).owner = some i.tour.index)
    (hr : tileBad i.core (i.x.d % 8) (List.range 256) = none) (ht : (tileOf i.core (i.x.d % 8)).int ↔ i.x.fmt = 4)
    (hf : (getU i.tour i.x.a).toNat % 16 = 0 ∧ (getU i.tour i.x.a).toNat + 1024 ≤ shelfBytes) :
    accStore s i = meetGroups (finish s i (tileSent i)) i.id (imageWords (getU i.tour i.x.a).toNat 1024) := by
  have he : accStore s i = checked s (storeIssue i) (fun _ => []) (storeChecks s (storeIssue i))
      (meetGroups (finish s (storeIssue i) (tileSent i)) i.id (imageWords (getU i.tour i.x.a).toNat 1024)) := by
    unfold accStore
    exact congrArg (checked s (storeIssue i) _ _) (if_pos hx)
  rw [he, show storeIssue i = i from withBad_eq hb hr]
  exact checked_none hb (storeChecks_own hown ht (imageFaults_shelf hx hw hf))

omit hb in
/-- The load that fills a tile. -/
def accLoadOf (i : Issue) (words : List Word) (ready : Option Nat) : AccLoad :=
  { tile := i.x.d % 8, int := i.x.fmt = 4, words := words, tour := i.tour.index, pc := i.pc,
    lanes := BitVec.ofNat 16 (laneMask i.lanes), ready := ready }

theorem accLoad_clm {img : List Byte} (hx : i.x.shelf = false) (hown : (tileOf i.core (i.x.d % 8)).owner = some i.tour.index)
    (hf : (getU i.tour i.x.a).toNat % 16 = 0 ∧ (getU i.tour i.x.a).toNat + 1024 ≤ 32768)
    (hi : clmImage s i.id (getU i.tour i.x.a).toNat 1024 = some img) :
    let o := occupyClm i 16
    accLoad s i = finish (clmReport s i.id (bytesOf 1024 [(getU i.tour i.x.a).toNat])) o
      { o.core with accLoads := i.core.accLoads ++ [accLoadOf i (tileWords img) (some (i.g + 19))]
                    accReady := accDue i.core (i.x.d % 8) (i.g + 19) } := by
  unfold accLoad
  dsimp only
  rw [ownFaults_own hown, imageFaults_clm hx hf, checked_none hb (extra := [] ++ []) rfl, if_neg (by simp [hx]), show (occupyClm i 16).id = i.id from rfl, hi]
  rfl

theorem accLoad_shelf (hx : i.x.shelf = true) (hw : (chanOf s (siteOfCore s i.id)).failed = false)
    (hown : (tileOf i.core (i.x.d % 8)).owner = some i.tour.index)
    (hf : (getU i.tour i.x.a).toNat % 16 = 0 ∧ (getU i.tour i.x.a).toNat + 1024 ≤ shelfBytes) :
    let ws := imageWords (getU i.tour i.x.a).toNat 1024
    accLoad s i = meetGroups (finish s i (addRead { i.core with accLoads := i.core.accLoads ++ [accLoadOf i [] none] }
      (readOf i i.core (.accLoad (i.x.d % 8)) ws))) i.id ws := by
  unfold accLoad
  dsimp only
  rw [ownFaults_own hown, imageFaults_shelf hx hw hf, checked_none hb (extra := [] ++ []) rfl, if_pos hx]
  rfl

/-! ### mx.enc and mx.dec (R141, R142) -/

omit hb in
/-- The scale of a block instruction. -/
def blockScale (i : Issue) : Nat := (getU i.tour i.x.b).toNat % 256

omit hb in
/-- The elements of a block. -/
def blockInputs (i : Issue) : List Word := (blockLanes i).map fun l => getV i.tour l.1 l.2

theorem encodeBlock_sound (hf : blockFaults s i (getU i.tour i.x.a).toNat (blockBytes i) = []) :
    let o := occupyClm i 1
    encodeBlock s i = finish (clmPut s i.id (getU i.tour i.x.a).toNat (leBytes (packElts (eltBits i.x.fmt)
        ((blockInputs i).map fun x => encodeElt i.x.fmt x (blockScale i))) (blockBytes i))) o
      (addResult o.core o 4 (.uni i.x.m (runningMax (getU i.tour i.x.m) (blockInputs i)))) :=
  checked_none hb hf

omit hb in
/-- The values of the first 16 elements of a decoded block. -/
def decodedLow (i : Issue) (area : Nat) : List (Nat × Word) :=
  (List.range 16).map fun l => (l, decodeScaled i.x.fmt (unpackElt i.x.fmt area l) (blockScale i))

omit hb in
/-- The values of the other 16. -/
def decodedHigh (i : Issue) (area : Nat) : List (Nat × Word) :=
  (List.range 16).map fun l => (l, decodeScaled i.x.fmt (unpackElt i.x.fmt area (16 + l)) (blockScale i))

omit hb in
/-- The core in which a decoded block is under way. -/
def decodedCore (i : Issue) (area : Nat) : Core :=
  let o := occupyClm i 1
  let c := addResult o.core o 6 (.vec i.x.d (decodedLow i area))
  if i.x.blk16 then c else addResult c o 6 (.vec (i.x.d + 1) (decodedHigh i area))

theorem decodeBlock_sound {area : Nat} (hf : blockFaults s i (getU i.tour i.x.a).toNat (blockBytes i) = [])
    (hv : clmValue s i.id (getU i.tour i.x.a).toNat (blockBytes i) = some area) :
    decodeBlock s i = finish (clmReport s i.id (bytesOf (blockBytes i) [(getU i.tour i.x.a).toNat])) (occupyClm i 1) (decodedCore i area) := by
  unfold decodeBlock
  dsimp only
  rw [hf, checked_none hb rfl, show blockBytes (occupyClm i 1) = blockBytes i from rfl, show (occupyClm i 1).id = i.id from rfl, hv]
  rfl

end Image

end Sys2Proof.Machine
end

section
/-! PROOF. The words of a tile's image, and what the matrix and block instructions leave (R141, R142, R157, R163, R164): O30. -/

namespace Sys2Proof.Machine

/-! ### Images -/

theorem flatMap_getElem? {α β : Type} (f : α → List β) (n : Nat) (h : ∀ a, (f a).length = n) (as : List α) {k b : Nat} (hb : b < n) :
    (as.flatMap f)[n * k + b]? = (as[k]?).bind fun a => (f a)[b]? := by
  induction as generalizing k with
  | nil => simp
  | cons a as ih =>
    rw [List.flatMap_cons]
    cases k with
    | zero =>
      rw [List.getElem?_append_left (by rw [h]; omega)]
      simp
    | succ k =>
      have e : n * (k + 1) + b = (f a).length + (n * k + b) := by rw [h, Nat.mul_succ]; omega
      rw [e, List.getElem?_append_right (Nat.le_add_right ..), Nat.add_sub_cancel_left, ih]
      simp

theorem leBytes_get (x : Nat) {b n : Nat} (hb : b < n) : (leBytes x n)[b]? = some (byteOf x b) := by simp [leBytes, hb]

theorem tileBytes_get (t : AccTile) {w b : Nat} (hw : w < 256) (hb : b < 4) :
    (tileBytes t)[4 * w + b]? = some (byteOf (look t.words w 0).toNat b) := by
  rw [tileBytes, flatMap_getElem? _ 4 (fun _ => leBytes_length _ _) _ hb, List.getElem?_range hw]
  simp [leBytes, hb]

theorem leNat_append (as bs : List Byte) : leNat (as ++ bs) = leNat as + 2 ^ (8 * as.length) * leNat bs := by
  induction as with
  | nil => simp [leNat]
  | cons a as ih =>
    rw [List.cons_append, leNat, ih, leNat, List.length_cons, Nat.mul_succ, Nat.pow_add, Nat.mul_add, Nat.mul_comm (2 ^ _) (2 ^ 8),
      Nat.mul_assoc, Nat.add_assoc]

theorem tileBytes_length (t : AccTile) : (tileBytes t).length = 1024 := by
  rw [tileBytes, List.length_flatMap]
  simp only [leBytes_length, List.map_const', List.length_range, List.sum_replicate]
  rfl

theorem leNat_tileBytes (t : AccTile) : leNat (tileBytes t) = packWords ((List.range 256).map fun w => (look t.words w 0).toNat) := by
  rw [tileBytes]
  generalize List.range 256 = ws
  induction ws with
  | nil => rfl
  | cons w ws ih =>
    have hlt : (look t.words w 0).toNat < 2 ^ 32 := (look t.words w 0).isLt
    rw [List.flatMap_cons, leNat_append, leBytes_length, leNat_leBytes, ih, List.map_cons, packWords]

/-- The 32-bit words of a number's 128-bit words. -/
theorem div_mod_word (v w : Nat) : v / 2 ^ (128 * (w / 4)) % 2 ^ 128 / 2 ^ (32 * (w % 4)) % 2 ^ 32 = v / 2 ^ (32 * w) % 2 ^ 32 := by
  have hr : w % 4 < 4 := Nat.mod_lt _ (by decide)
  rw [show 32 * w = 128 * (w / 4) + 32 * (w % 4) by omega, Nat.pow_add, ← Nat.div_div_eq_div_mul]
  generalize v / 2 ^ (128 * (w / 4)) = y
  generalize w % 4 = r at hr ⊢
  match r, hr with
  | 0, _ => omega
  | 1, _ => omega
  | 2, _ => omega
  | 3, _ => omega

/-- A word of the transfer that takes a tile's image to the shelf. -/
theorem tileXfer_word (i : Issue) {w : Nat} (hw : w < 256) {x : Nat × BitVec 16 × BitVec 128} (hx : (tileXfer i).words[w / 4]? = some x) :
    x.2.2.extractLsb' (32 * (w % 4)) 32 = look (tileOf i.core (i.x.d % 8)).words w 0 := by
  have hi := packWords_get (ws := (List.range 256).map fun w => (look (tileOf i.core (i.x.d % 8)).words w 0).toNat) (l := w)
    (w := (look (tileOf i.core (i.x.d % 8)).words w 0).toNat) (by simp [hw])
  have hx' : x.2.2 = BitVec.ofNat 128 (leNat (tileBytes (tileOf i.core (i.x.d % 8))) >>> (128 * (w / 4))) := by
    simp only [tileXfer, List.getElem?_map, List.getElem?_range (show w / 4 < 64 by omega), Option.map_some, Option.some.injEq] at hx
    rw [← hx]
  apply BitVec.eq_of_toNat_eq
  rw [hx', BitVec.extractLsb'_toNat, BitVec.toNat_ofNat, leNat_tileBytes, Nat.shiftRight_eq_div_pow, Nat.shiftRight_eq_div_pow]
  exact (div_mod_word _ w).trans (hi.trans (Nat.mod_eq_of_lt (BitVec.isLt _)))


/-! ### The instructions -/

/-- An issue that writes the CLM and ends leaves its bytes there, and every other byte and store as it was. -/
theorem finish_put {s : State} (hok : storeOk clmCodec s.clm = true) (i : Issue) (c : Core) (core a : Nat) (bs : List Byte) :
    let t := finish (clmPut s core a bs) i c
    t.shelf = s.shelf ∧ t.dram = s.dram
      ∧ (∀ b x, bs[b]? = some x → wordRead t.clm clmCodec (clmKey s core (a + b)) = .clean x.toNat)
      ∧ ∀ k, (∀ b, b < bs.length → k ≠ clmKey s core (a + b)) → wordRead t.clm clmCodec k = wordRead s.clm clmCodec k := by
  obtain ⟨h1, h2, h3⟩ := finish_stores (clmPut s core a bs) i c
  obtain ⟨r1, r2⟩ := clmPut_read hok core a bs
  have hk := clmPut_cores s core a bs
  refine ⟨h2.trans (by rw [hk]), h3.trans (by rw [hk]), fun b x hb => ?_, fun k hk => ?_⟩
  · rw [h1]
    exact r1 b x hb
  · rw [h1]
    exact r2 k hk

/-- A write that an issue puts before its channel, over a changed core. -/
theorem meetWrite (s : State) (i : Issue) (c : Core) (ws : List Nat) :
    let t := meetGroups (finish s i c) i.id ws
    (coreOf t i.id).wrQueue = c.wrQueue ∧ t.clm = s.clm ∧ t.shelf = s.shelf ∧ t.dram = s.dram := by
  obtain ⟨h1, h2, h3⟩ := meetGroups_stores (finish s i c) i.id ws
  obtain ⟨g1, g2, g3⟩ := finish_stores s i c
  dsimp only
  rw [meetGroups_coreOf, finish_wrQueue]
  exact ⟨rfl, h2.trans g1, h1.trans g2, h3.trans g3⟩

/-- The first result of a decoded block stands 5 GCLK after the issue. -/
theorem decodedCore_mem (i : Issue) (area : Nat) :
    (⟨i.tour.index, .vec i.x.d (decodedLow i area), i.g + 5⟩ : PendResult) ∈ (decodedCore i area).results := by
  unfold decodedCore
  dsimp only
  split <;> simp [addResult, occupyClm]

/-- Settles O30: each instruction's end over its core, with the image's words before the CLM or the channel. -/
theorem xilonMatrixInstructions : Obligations.XilonMatrixInstructions := by
  intro s core j i hi hwf
  obtain ⟨hid, -, hb, -, -⟩ := issueAt_some hi
  have hok := wf_clm hwf
  intro id
  have hid' : id = i.id := hid.symm
  clear_value id
  subst hid'
  intro a n m own fits readable word still reads
  refine ⟨fun hx => ⟨fun img hs hf hc hcl => ?tile, fun img ho hr hs hf hc hcl => ?run, fun hm ho hr ht hf hcl => ?store,
    fun img hm ho hf hc hcl => ?load⟩, fun hm ho hcl => ?clear, fun hf hcl => ?enc, fun area hf hv hcl => ?dec,
    fun hx hw _ _ => ⟨fun hs hf hcl => ?tileShelf, fun ho hr hs hf hcl => ?runShelf, fun hm ho hr ht hf hcl => ?storeShelf,
      fun hm ho hf hcl => ?loadShelf⟩⟩
  case tile =>
    exact ⟨_, shadowOf i img _, (xilon_of_clean hi hcl : execMxTile core j s = _).trans (congrArg _ (loadTile_clm hb hx hs hf hc)),
      finish_report .., finish_shadow _ (occupyClm i _) _, rfl, rfl, rfl, rfl, rfl, rfl⟩
  case run =>
    exact ⟨_, runOf i img _, (xilon_of_clean hi hcl : execMxRun core j s = _).trans (congrArg _ (startRun_clm hb hx ho hr hs hf hc)),
      finish_report .., finish_runs _ (occupyClm _ _) _, rfl, rfl, rfl, rfl, rfl, finish_tiles _ (occupyClm _ _) _⟩
  case store =>
    obtain ⟨h1, h2, h3, h4⟩ := finish_put hok (occupyClm i 16) (occupyClm i 16).core i.id a (tileBytes (tileOf i.core n))
    refine ⟨_, (xilon_of_clean hi hcl : execMxAccStore core j s = _).trans
      (congrArg _ ((accAction_same (by decide) hm).trans (accStore_clm hb hx ho hr ht hf))),
      finish_tiles _ (occupyClm i 16) _, h1, h2, fun w b hw hb => ?_, fun k hk => h4 k (by rw [tileBytes_length]; exact hk)⟩
    rw [Nat.add_assoc]
    exact h3 _ _ (tileBytes_get _ hw hb)
  case load =>
    exact ⟨_, accLoadOf i (tileWords img) _, (xilon_of_clean hi hcl : execMxAccLoad core j s = _).trans
      (congrArg _ ((accAction_same (by decide) hm).trans (accLoad_clm hb hx ho hf hc))),
      finish_report .., finish_accLoads _ (occupyClm i 16) _, rfl, rfl, rfl, rfl, rfl⟩
  case clear =>
    exact ⟨_, (xilon_of_clean hi hcl : execMxAccClear core j s = _).trans
      (congrArg _ ((accAction_same (by decide) hm).trans (accClear_own hb ho))), finish_stores .., finish_tiles ..⟩
  case enc =>
    obtain ⟨h1, h2, h3, h4⟩ := finish_put hok (occupyClm i 1) (addResult (occupyClm i 1).core (occupyClm i 1) 4
      (.uni i.x.m (runningMax (getU i.tour i.x.m) (blockInputs i)))) i.id a (leBytes (packElts (eltBits i.x.fmt)
        ((blockInputs i).map fun x => encodeElt i.x.fmt x (blockScale i))) (blockBytes i))
    refine ⟨_, (xilon_of_clean hi hcl : execMxEnc core j s = _).trans (congrArg _ (encodeBlock_sound hb hf)), h1, h2,
      finish_results _ (occupyClm i 1) _, fun b hb => ?_, fun k hk => h4 k (by rw [leBytes_length]; exact hk)⟩
    refine (h3 b _ (leBytes_get _ hb)).trans ?_
    rw [blockInputs, List.map_map]
    rfl
  case dec =>
    refine ⟨_, _, (xilon_of_clean hi hcl : execMxDec core j s = _).trans (congrArg _ (decodeBlock_sound hb hf hv)),
      finish_report .., (finish_results _ (occupyClm i 1) _).symm ▸ decodedCore_mem i area, rfl, rfl⟩
  case tileShelf =>
    obtain ⟨h1, -, h2, h3, h4⟩ := meetRead s i { i.core with shadow := some (shadowOf i [] none) }
      (readOf i i.core .tile (imageWords a m.heldBytes)) (imageWords a m.heldBytes)
    exact ⟨_, (xilon_of_clean hi hcl : execMxTile core j s = _).trans (congrArg _ (loadTile_shelf hb hx hw hs hf)), ⟨h3, h2, h4⟩,
      _, h1, rfl, rfl, readOf_words ..⟩
  case runShelf =>
    obtain ⟨h1, -, h2, h3, h4⟩ := meetRead s i { claimed i.core with runs := i.core.runs ++ [runOf i [] none] }
      (readOf i i.core (.run i.core.nextRun) (imageWords a (m.streamBytes (i.x.count + 1)))) (imageWords a (m.streamBytes (i.x.count + 1)))
    exact ⟨_, (xilon_of_clean hi hcl : execMxRun core j s = _).trans (congrArg _ (startRun_shelf hb hx hw ho hr hs hf)), ⟨h3, h2, h4⟩,
      _, h1, rfl, rfl, readOf_words ..⟩
  case storeShelf =>
    obtain ⟨h1, h2, h3, h4⟩ := meetWrite s i (tileSent i) (imageWords a 1024)
    refine ⟨_, tileXfer i, (xilon_of_clean hi hcl : execMxAccStore core j s = _).trans
      (congrArg _ ((accAction_same (by decide) hm).trans (accStore_shelf hb hx hw ho hr ht hf))), ⟨h2, h3, h4⟩, h1, rfl, ?_,
      fun w hw x hx => tileXfer_word i hw hx⟩
    rw [tileXfer, List.map_map]
    rfl
  case loadShelf =>
    obtain ⟨h1, -, h2, h3, h4⟩ := meetRead s i { i.core with accLoads := i.core.accLoads ++ [accLoadOf i [] none] }
      (readOf i i.core (.accLoad n) (imageWords a 1024)) (imageWords a 1024)
    exact ⟨_, (xilon_of_clean hi hcl : execMxAccLoad core j s = _).trans
      (congrArg _ ((accAction_same (by decide) hm).trans (accLoad_shelf hb hx hw ho hf))), ⟨h3, h2, h4⟩, _, h1, rfl, rfl, readOf_words ..⟩

end Sys2Proof.Machine
end

section
/-! PROOF. The words of a core's channel: reads with their findings, and writes (R86, R88, R130, R205). -/

namespace Sys2Proof.Machine

/-! ### What a transfer leaves of the module -/

/-- A transfer of words has changed nothing of the core but what earlier reads still have to see, and neither the CLM nor a vault. -/
structure Moves (core : Nat) (t s : State) : Prop where
  rest : ∃ rq, coreOf t core = { coreOf s core with rdQueue := rq }
  clm : t.clm = s.clm
  dram : t.dram = s.dram

theorem Moves.of_eq {core : Nat} {t s : State} (h : coreOf t core = coreOf s core) (h1 : t.clm = s.clm) (h2 : t.dram = s.dram) :
    Moves core t s := ⟨⟨(coreOf s core).rdQueue, h⟩, h1, h2⟩

theorem Moves.refl (core : Nat) (s : State) : Moves core s s := .of_eq rfl rfl rfl

theorem Moves.trans {core : Nat} {t u s : State} (a : Moves core t u) (b : Moves core u s) : Moves core t s := by
  obtain ⟨⟨rq, h⟩, h1, h2⟩ := a
  obtain ⟨⟨rq', h'⟩, h1', h2'⟩ := b
  exact ⟨⟨rq, by rw [h, h']⟩, h1.trans h1', h2.trans h2'⟩

theorem Moves.foldl {α : Type} {core : Nat} {g : State → α → State} (h : ∀ s x, Moves core (g s x) s) (l : List α) (s : State) :
    Moves core (l.foldl g s) s := by
  induction l generalizing s with
  | nil => exact .refl _ s
  | cons a l ih => exact (ih _).trans (h s a)

/-- A CRC failure is counted and reported, and changes no memory and no core (R205). -/
theorem crcFault_cores (s : State) (core w dir : Nat) : (crcFault s core w dir).cores = s.cores ∧ (crcFault s core w dir).shelf = s.shelf
    ∧ (crcFault s core w dir).clm = s.clm ∧ (crcFault s core w dir).dram = s.dram := by
  unfold crcFault
  dsimp only
  refine ⟨(raiseFaultO_mild _ _ _).cores.trans ?_, (raiseFaultO_mild _ _ _).shelf.trans ?_, (raiseFaultO_mild _ _ _).clm.trans ?_,
    (raiseFaultO_mild _ _ _).dram.trans ?_⟩
  all_goals rfl

theorem crcFault_moves (s : State) (core w dir k : Nat) : Moves k (crcFault s core w dir) s := by
  obtain ⟨h1, -, h2, h3⟩ := crcFault_cores s core w dir
  exact .of_eq (by rw [coreOf, h1]; rfl) h2 h3

theorem Mild.moves {t s : State} (h : Mild t s) (core : Nat) : Moves core t s := .of_eq (h.coreOf core) h.clm h.dram

/-- What earlier reads have to see is put aside (R130, R164). -/
theorem protect_moves (s : State) (core : Nat) (x : Xfer) (w : Nat) :
    Moves core (setCore s core (protectReads s core (coreOf s core) x w)) s := by
  refine ⟨⟨_, setCore_self ..⟩, rfl, rfl⟩

theorem shelf_moves (core : Nat) (s : State) (m : List Host.Cell) : Moves core { s with shelf := m } s := .of_eq rfl rfl rfl

theorem writeWord_moves (s : State) (core : Nat) (x : Xfer) (w d : Nat) (bad : Bool) : Moves core (writeWord s core x w d bad) s := by
  have hp := protect_moves s core x w
  cases bad with
  | true => exact (crcFault_moves _ _ _ _ _).trans ((shelf_moves ..).trans hp)
  | false => exact (shelf_moves core (setCore s core (protectReads s core (coreOf s core) x w)) _).trans hp

theorem writePoison_moves (s : State) (core : Nat) (x : Xfer) (w : Nat) : Moves core (writePoison s core x w) s :=
  (shelf_moves core (setCore s core (protectReads s core (coreOf s core) x w)) _).trans (protect_moves s core x w)

/-! ### Reads -/

/-- A word that a transfer reads, and its bytes of earlier-issued stores (R86). -/
def wordOf (s : State) (core : Nat) (q : Xfer) (w : Nat) : Option Nat :=
  if (fwdOf q w).1 = 2 ^ 16 - 1 then some (fwdOf q w).2
  else (readFinding s core q w).data?.map fun d => mergeBytes 16 d (fwdOf q w).2 (fwdOf q w).1

theorem Mild.readFinding {t s : State} (h : Mild t s) (core : Nat) (q : Xfer) (w : Nat) :
    readFinding t core q w = readFinding s core q w := by
  unfold Machine.readFinding shelfRead shelfRow
  rw [h.siteOfCore, h.shelf, h.rowMap]

theorem shelfReport_mild (s : State) (core w : Nat) (f : Checked) : Mild (shelfReport s core w f) s := reportFinding_mild _ _ _ _ _ _ _

/-- What one word of a read adds to what has been found. -/
def xferStep (core : Nat) (q : Xfer) (crcBad : List Nat) (acc : State × Words) (x : (Nat × BitVec 16 × BitVec 128) × Nat) : State × Words :=
  let w := x.1.1
  let fwd := fwdOf q w
  let f := readFinding acc.1 core q w
  let none_ (s : State) (why : Option (Nat × Nat × Nat × Nat)) : State × Words :=
    (s, ⟨acc.2.data ++ [(w, none)], acc.2.why.orElse fun _ => why⟩)
  if x.2 ∈ crcBad then none_ (crcFault acc.1 core w 0) (crcWhy acc.1 core 0)
  else if fwd.1 = 2 ^ 16 - 1 then (acc.1, ⟨acc.2.data ++ [(w, some fwd.2)], acc.2.why⟩)
  else
    let s := shelfReport acc.1 core w f
    match f.data? with
    | some d => (s, ⟨acc.2.data ++ [(w, some (mergeBytes 16 d fwd.2 fwd.1))], acc.2.why⟩)
    | none => none_ s (whyOf s core f)

theorem readXfer_eq (s : State) (core : Nat) (q : Xfer) (crcBad : List Nat) :
    readXfer s core q crcBad = q.words.zipIdx.foldl (xferStep core q crcBad) (s, ⟨[], none⟩) := rfl

theorem xferStep_moves (core : Nat) (q : Xfer) (crcBad : List Nat) (acc : State × Words) (x : (Nat × BitVec 16 × BitVec 128) × Nat) :
    Moves core (xferStep core q crcBad acc x).1 acc.1 ∧ (xferStep core q crcBad acc x).1.shelf = acc.1.shelf := by
  unfold xferStep
  dsimp only
  split
  · exact ⟨crcFault_moves .., (crcFault_cores ..).2.1⟩
  · split
    · exact ⟨.refl .., rfl⟩
    · split
      · exact ⟨(shelfReport_mild ..).moves _, (shelfReport_mild ..).shelf⟩
      · exact ⟨(shelfReport_mild ..).moves _, (shelfReport_mild ..).shelf⟩

theorem readXfer_moves (s : State) (core : Nat) (q : Xfer) (crcBad : List Nat) :
    Moves core (readXfer s core q crcBad).1 s ∧ (readXfer s core q crcBad).1.shelf = s.shelf := by
  exact List.foldlRecOn (motive := fun a => Moves core a.1 s ∧ a.1.shelf = s.shelf) q.words.zipIdx (xferStep core q crcBad)
    (b := (s, ⟨[], none⟩)) ⟨.refl .., rfl⟩ fun a h x _ =>
      ⟨(xferStep_moves core q crcBad a x).1.trans h.1, (xferStep_moves core q crcBad a x).2.trans h.2⟩

/-- A word that does not fail its CRC. -/
theorem xferStep_sound (core : Nat) (q : Xfer) (acc : State × Words) (x : (Nat × BitVec 16 × BitVec 128) × Nat) :
    Mild (xferStep core q [] acc x).1 acc.1
      ∧ (xferStep core q [] acc x).2.data = acc.2.data ++ [(x.1.1, wordOf acc.1 core q x.1.1)] := by
  unfold xferStep wordOf
  dsimp only
  rw [if_neg (List.not_mem_nil)]
  by_cases hf : (fwdOf q x.1.1).1 = 2 ^ 16 - 1
  · simp only [if_pos hf]
    exact ⟨.refl _, trivial⟩
  · simp only [if_neg hf]
    split
    case h_1 d hd => exact ⟨shelfReport_mild .., by rw [hd]; rfl⟩
    case h_2 hd => exact ⟨shelfReport_mild .., by rw [hd]; rfl⟩

/-- The words of a read that do not fail their CRC (R86, R205). -/
theorem readXfer_sound (s : State) (core : Nat) (q : Xfer) :
    Mild (readXfer s core q []).1 s ∧ (readXfer s core q []).2.data = q.words.map fun x => (x.1, wordOf s core q x.1) := by
  have fold (l : List ((Nat × BitVec 16 × BitVec 128) × Nat)) (a : State × Words) (h : Mild a.1 s) :
      Mild (l.foldl (xferStep core q []) a).1 s
        ∧ (l.foldl (xferStep core q []) a).2.data = a.2.data ++ l.map fun x => (x.1.1, wordOf s core q x.1.1) := by
    induction l generalizing a with
    | nil => exact ⟨h, (List.append_nil _).symm⟩
    | cons x l ih =>
      obtain ⟨h1, h2⟩ := xferStep_sound core q a x
      obtain ⟨g1, g2⟩ := ih (xferStep core q [] a x) (h1.trans h)
      refine ⟨g1, g2.trans ?_⟩
      rw [h2, List.append_assoc, wordOf, h.readFinding]
      rfl
  rw [readXfer_eq]
  obtain ⟨h1, h2⟩ := fold q.words.zipIdx (s, ⟨[], none⟩) (.refl s)
  refine ⟨h1, h2.trans ?_⟩
  rw [List.nil_append]
  conv_rhs => rw [← List.zipIdx_map_fst 0 q.words]
  rw [List.map_map]
  rfl

/-! ### Writes -/

/-- What the sound writes of a transfer have left: the words' rows where they were. -/
structure Writes (core : Nat) (t s : State) : Prop extends Moves core t s where
  row : ∀ w, rowOf t core w = rowOf s core w
  ok : storeOk shelfCodec s.shelf = true → storeOk shelfCodec t.shelf = true

theorem Writes.refl (core : Nat) (s : State) : Writes core s s := ⟨.refl .., fun _ => rfl, id⟩

theorem writeWord_sound (s : State) (core : Nat) (x : Xfer) (w d : Nat) :
    Writes core (writeWord s core x w d false) s
      ∧ (writeWord s core x w d false).shelf = wordWrite s.shelf shelfCodec (rowOf s core w) d :=
  ⟨⟨writeWord_moves .., fun _ => rfl, wordWrite_ok _ _ _ _⟩, rfl⟩

/-- The words of a transfer are written one after another (R86). -/
theorem writeWords_sound {α : Type} (core : Nat) (x : Xfer) (w d : α → Nat) (as : List α) (s : State)
    (hok : storeOk shelfCodec s.shelf = true) (hd : ∀ a ∈ as, d a < 2 ^ 128) (hn : (as.map fun a => rowOf s core (w a)).Nodup) :
    let t := as.foldl (fun s a => writeWord s core x (w a) (d a) false) s
    Writes core t s ∧ (∀ a ∈ as, wordRead t.shelf shelfCodec (rowOf s core (w a)) = .clean (d a))
      ∧ ∀ k, k ∉ as.map (fun a => rowOf s core (w a)) → wordRead t.shelf shelfCodec k = wordRead s.shelf shelfCodec k := by
  induction as generalizing s with
  | nil => exact ⟨.refl .., by simp, fun _ _ => rfl⟩
  | cons a as ih =>
    obtain ⟨hw, hsh⟩ := writeWord_sound s core x (w a) (d a)
    rw [List.map_cons, List.nodup_cons] at hn
    obtain ⟨h1, h2, h3⟩ := ih (writeWord s core x (w a) (d a) false) (hw.ok hok) (fun b hb => hd b (List.mem_cons_of_mem _ hb))
      (by simpa only [hw.row] using hn.2)
    simp only [hw.row] at h2 h3
    refine ⟨⟨h1.toMoves.trans hw.toMoves, fun k => (h1.row k).trans (hw.row k), fun h => h1.ok (hw.ok h)⟩, fun b hb => ?_, fun k hk => ?_⟩
    · rcases List.mem_cons.1 hb with rfl | hb
      · refine (h3 _ hn.1).trans ?_
        rw [hsh]
        exact wordRead_wordWrite_same hok (by simp) (hd b (List.mem_cons_self ..))
      · exact h2 b hb
    · rw [List.map_cons, List.mem_cons, not_or] at hk
      refine (h3 k hk.2).trans ?_
      rw [hsh]
      exact wordRead_wordWrite_ne hok hk.1 _

end Sys2Proof.Machine
end

section
/-! PROOF. The transfers of a core's channel (R86, R88, R196, R205): O32. -/

namespace Sys2Proof.Machine

/-- A transfer whose bank groups are ACTIVE goes on (R192). -/
theorem withGroups_on {s : State} {core : Nat} {ws : List Nat} (h : groupsOff s core ws = false) (f : Option State) :
    withGroups s core ws f = f := by
  have hon : ∀ g ∈ groupsOf core ws, domOn s .bankGroup g = true := by simpa [groupsOff] using h
  have hoff : (groupsOf core ws).any (fun g => decide ((domOf s .bankGroup g).state = .off)) = false := by
    refine List.any_eq_false.2 fun g hg => ?_
    have : (domOf s .bankGroup g).state = .on := by simpa [domOn] using hon g hg
    simp [this]
  rw [withGroups, hoff, if_neg Bool.false_ne_true, h, if_neg Bool.false_ne_true]

section Start
variable {s : State} {core : CoreRef} {j : Fin 7} {c : Core} {q : Xfer} {rest : List Xfer} (hr : s.sup.inReset = false)
  (he : edgeOk s (wingOfCore (coreId core)) j.val = true) (hc : find s.cores (coreId core) = some c)
  (hg : groupsOff s (coreId core) (q.words.map (·.1)) = false) (hi : q.issue ≤ wtime s (wingOfCore (coreId core)) j.val)
  (ha : atomicAhead c q = false) (hj : atomicJust c (wtime s (wingOfCore (coreId core)) j.val) q = false) (hb : behindSwap c q = false)
include hr he hc hg hi ha hj hb

theorem channelTransferStart_read (hq : c.rdQueue = q :: rest) (hf : c.rdFree ≤ wtime s (wingOfCore (coreId core)) j.val)
    (hk : q.kind ≠ .rmwRead ∧ q.kind ≠ .rmwWrite) (crcBad : List Nat) :
    exec (.channelTransferStart core j false crcBad) s =
      .next (startRead s (coreId core) (wtime s (wingOfCore (coreId core)) j.val) q rest crcBad) := by
  refine (atCore_some hr he hc ?_ : execChannelTransferStart core j false crcBad s = _)
  simp [hq, hf, hk, ha, hj, hb, Nat.not_lt.2 hi, withGroups_on hg]

theorem channelTransferStart_write (hq : c.wrQueue = q :: rest) (hf : c.wrFree ≤ wtime s (wingOfCore (coreId core)) j.val)
    (hd : atomicDue c (wtime s (wingOfCore (coreId core)) j.val) q = false) (hk : q.kind ≠ .rmwRead ∧ q.kind ≠ .rmwWrite)
    (crcBad : List Nat) :
    exec (.channelTransferStart core j true crcBad) s =
      .next (startWrite s (coreId core) (wtime s (wingOfCore (coreId core)) j.val) q rest crcBad) := by
  refine (atCore_some hr he hc ?_ : execChannelTransferStart core j true crcBad s = _)
  simp [hq, hf, hd, hk, ha, hj, hb, Nat.not_lt.2 hi, withGroups_on hg]

theorem shelfRmwRead_start (hq : c.rdQueue = q :: rest) (hf : c.rdFree ≤ wtime s (wingOfCore (coreId core)) j.val)
    (hk : q.kind = .rmwRead) (crcBad : Bool) :
    exec (.shelfRmwRead core j crcBad) s =
      .next (rmwRead s (coreId core) (wtime s (wingOfCore (coreId core)) j.val) q rest crcBad) := by
  refine (atCore_some hr he hc ?_ : execShelfRmwRead core j crcBad s = _)
  simp [hq, Nat.not_lt.2 hf, hk, ha, hj, hb, Nat.not_lt.2 hi, withGroups_on hg]

omit hi ha hj hb in
theorem shelfRmwWrite_start {m : Rmw} (hq : c.wrQueue = q :: rest) (hf : c.wrFree ≤ wtime s (wingOfCore (coreId core)) j.val)
    (hk : q.kind = .rmwWrite) (hw : q.words.map (·.1) = [m.word]) (hm : c.rmws = [m]) (hn : m.atomic = none)
    (hwr : m.writeAt ≤ wtime s (wingOfCore (coreId core)) j.val) (crcBad : Bool) :
    exec (.shelfRmwWrite core j crcBad) s =
      .next (rmwWrite s (coreId core) (wtime s (wingOfCore (coreId core)) j.val) m q rest crcBad) := by
  rw [hw] at hg
  refine (atCore_some hr he hc ?_ : execShelfRmwWrite core j crcBad s = _)
  simp [hq, Nat.not_lt.2 hf, hk, hm, hn, Nat.not_lt.2 hwr, withGroups_on hg]

end Start

/-! ### Loads (R88) -/

/-- The state in which a read has taken its direction. -/
def readTaken (s : State) (core g : Nat) (q : Xfer) (rest : List Xfer) : State :=
  setCore s core { coreOf s core with rdQueue := rest, rdFree := g + q.words.length, rdWords := q.words.map (·.1) }

theorem startRead_load {s : State} {core g n : Nat} {q : Xfer} (rest : List Xfer) (hk : q.kind = .load n) :
    startRead s core g q rest [] =
      readLoad (readXfer (readTaken s core g q rest) core q []).1 core n g q (readXfer (readTaken s core g q rest) core q []).2 := by
  unfold startRead
  dsimp only
  rw [hk]
  rfl

theorem startRead_load_facts (s : State) (core g n : Nat) (q : Xfer) (rest : List Xfer) :
    let t := readLoad (readXfer (readTaken s core g q rest) core q []).1 core n g q (readXfer (readTaken s core g q rest) core q []).2
    (coreOf t core).rdQueue = rest ∧ (coreOf t core).rdFree = g + q.words.length ∧ t.shelf = s.shelf ∧ t.clm = s.clm ∧ t.dram = s.dram
      ∧ ∀ l ∈ (coreOf t core).loads, l.id = n → l.at_ = some (g + latencyOf (q.words.map (·.1)) + (q.words.length - 1) - 1) := by
  obtain ⟨h, -⟩ := readXfer_sound (readTaken s core g q rest) core q
  generalize readXfer (readTaken s core g q rest) core q [] = r at h ⊢
  have hc : coreOf r.1 core = coreOf (readTaken s core g q rest) core := h.coreOf core
  rw [readTaken, setCore_self] at hc
  intro t
  have ht : coreOf t core = mapLoad (coreOf r.1 core) n _ := setCore_self ..
  rw [hc] at ht
  refine ⟨by rw [ht]; rfl, by rw [ht]; rfl, h.shelf, h.clm, h.dram, fun l hl hn => ?_⟩
  rw [ht] at hl
  obtain ⟨x, -, rfl⟩ := List.mem_map.1 hl
  dsimp only at hn ⊢
  split at hn
  · rw [if_pos ‹_›]
  · exact absurd hn ‹_›

/-! ### Stores (R86) -/

/-- The state in which a write has taken its direction. -/
def writeTaken (s : State) (core g : Nat) (q : Xfer) (rest : List Xfer) : State :=
  setCore s core (settleShelf { coreOf s core with wrQueue := rest, wrFree := g + q.words.length, wrWords := q.words.map (·.1) }
    (q.tour :: q.also) (g + q.words.length))

theorem startWrite_whole {s : State} {core g : Nat} {q : Xfer} (rest : List Xfer) (hr : q.reqs = [])
    (hm : ∀ x ∈ q.words, x.2.1 = BitVec.allOnes 16) :
    startWrite s core g q rest [] =
      q.words.foldl (fun s x => writeWord s core q x.1 x.2.2.toNat false) (writeTaken s core g q rest) := by
  unfold startWrite
  dsimp only
  rw [hr]
  change q.words.zipIdx.foldl _ (writeTaken s core g q rest) = _
  conv_rhs => rw [← List.zipIdx_map_fst 0 q.words, List.foldl_map]
  refine List.foldl_ext _ _ _ fun t x hx => ?_
  have hx' : x.1 ∈ q.words := by
    rw [← List.zipIdx_map_fst 0 q.words]
    exact List.mem_map_of_mem hx
  rw [if_neg (by rw [hm _ hx']; decide)]
  simp

theorem writeTaken_row (s : State) (core g : Nat) (q : Xfer) (rest : List Xfer) (w : Nat) :
    rowOf (writeTaken s core g q rest) core w = rowOf s core w := rfl

theorem startWrite_whole_facts {s : State} {core g : Nat} {q : Xfer} (rest : List Xfer) (hok : storeOk shelfCodec s.shelf = true)
    (hn : (q.words.map fun x => rowOf s core x.1).Nodup) :
    let t := q.words.foldl (fun s x => writeWord s core q x.1 x.2.2.toNat false) (writeTaken s core g q rest)
    (coreOf t core).wrQueue = rest ∧ (coreOf t core).wrFree = g + q.words.length ∧ t.clm = s.clm ∧ t.dram = s.dram
      ∧ (∀ x ∈ q.words, shelfRead t core x.1 = .clean x.2.2.toNat)
      ∧ ∀ k, k ∉ q.words.map (fun x => rowOf s core x.1) → wordRead t.shelf shelfCodec k = wordRead s.shelf shelfCodec k := by
  have hrow := writeTaken_row s core g q rest
  have hcore : coreOf (writeTaken s core g q rest) core = settleShelf _ _ _ := setCore_self ..
  have h0 : (writeTaken s core g q rest).shelf = s.shelf ∧ (writeTaken s core g q rest).clm = s.clm
    ∧ (writeTaken s core g q rest).dram = s.dram := ⟨rfl, rfl, rfl⟩
  generalize writeTaken s core g q rest = v at hrow hcore h0 ⊢
  obtain ⟨v1, v2, v3⟩ := h0
  obtain ⟨h1, h2, h3⟩ := writeWords_sound core q (fun x : Nat × BitVec 16 × BitVec 128 => x.1) (fun x => x.2.2.toNat) q.words v
    (by rw [v1]; exact hok) (fun x _ => x.2.2.isLt) (by simp only [hrow]; exact hn)
  simp only [hrow, v1] at h2 h3
  obtain ⟨rq, h⟩ := h1.rest
  rw [hcore] at h
  refine ⟨congrArg Core.wrQueue h, congrArg Core.wrFree h, h1.clm.trans v2, h1.dram.trans v3, fun x hx => ?_, h3⟩
  refine Eq.trans (congrArg (wordRead _ shelfCodec) ((h1.row x.1).trans (hrow _))) (h2 x hx)

/-! ### Read-modify-writes (R196) -/

/-- The state in which a read leg has taken its direction and is counted. -/
def legTaken (s : State) (core g : Nat) (q : Xfer) (rest : List Xfer) : State :=
  mapCab (setCore s core { coreOf s core with rdQueue := rest, rdFree := g + 1, rdWords := q.words.map (·.1) }) (cabOfCore core)
    fun x => { x with rmwCount := satAdd x.rmwCount 1 }

/-- What a sound read leg puts before the write direction. -/
def legOf (s : State) (core g w : Nat) (q : Xfer) (m : BitVec 16) (d : BitVec 128) : Rmw :=
  { word := w, mask := m, data := d, old := (wordOf s core q w).map (BitVec.ofNat 128), writeAt := g + 12,
    tour := q.tour, also := q.also, reqs := q.reqs }

/-- The report of what a sound read leg has found (R196, R424). -/
def legFound (s : State) (core w : Nat) (q : Xfer) : State :=
  if (fwdOf q w).1 = 2 ^ 16 - 1 then s
  else faultFinding s (ownerOfWing s (wingOfCore core)) (stackOfCore core) 1 (coreUnit s core) 5 (readFinding s core q w)
    (shelfLoc (rowOf s core w))

theorem legFound_mild (s : State) (core w : Nat) (q : Xfer) : Mild (legFound s core w q) s := by
  unfold legFound
  split
  · exact .refl _
  · exact faultFinding_mild ..

theorem legTaken_finding (s : State) (core g : Nat) (q : Xfer) (rest : List Xfer) (w : Nat) :
    readFinding (legTaken s core g q rest) core q w = readFinding s core q w := by
  have hsite : siteOfCore (legTaken s core g q rest) core = siteOfCore s core := by
    refine siteOfCore_congr (t := legTaken s core g q rest) (s := s) (fun n => ?_) rfl core
    rw [legTaken, cabOf_mapCab]
    split
    · subst_vars; rfl
    · rfl
  unfold readFinding shelfRead shelfRow
  rw [hsite]
  rfl

theorem rmwRead_eq {s : State} {core g w : Nat} {q : Xfer} {m : BitVec 16} {d : BitVec 128} (rest : List Xfer)
    (hw : q.words = [(w, m, d)]) (hm : m ≠ 0) :
    let u := legFound (legTaken s core g q rest) core w q
    rmwRead s core g q rest false =
      setCore u core { coreOf u core with rmws := (coreOf u core).rmws ++ [legOf (legTaken s core g q rest) core g w q m d] } := by
  unfold rmwRead legFound legOf wordOf
  simp only [hw, hm, Bool.false_eq_true, if_false, decide_false, Bool.or_false, decide_eq_true_eq]
  by_cases hf : (fwdOf q w).1 = 2 ^ 16 - 1
  · simp only [if_pos hf, legTaken, hw]
  · simp only [if_neg hf, legTaken, hw]

theorem rmwRead_facts {s : State} {core g w : Nat} {q : Xfer} {m : BitVec 16} {d : BitVec 128} (rest : List Xfer)
    (hw : q.words = [(w, m, d)]) (hm : m ≠ 0) :
    let t := rmwRead s core g q rest false
    ∃ r, (coreOf t core).rmws = (coreOf s core).rmws ++ [r] ∧ r.word = w ∧ r.mask = m ∧ r.data = d
      ∧ (∀ d₀, (fwdOf q w).1 ≠ 2 ^ 16 - 1 → (readFinding s core q w).data? = some d₀ →
          r.old = some (BitVec.ofNat 128 (mergeBytes 16 d₀ (fwdOf q w).2 (fwdOf q w).1)))
      ∧ r.writeAt = g + 12 ∧ (coreOf t core).rdFree = g + 1 ∧ t.shelf = s.shelf
      ∧ (cabOf t (cabOfCore core)).rmwCount = satAdd (cabOf s (cabOfCore core)).rmwCount 1 := by
  intro t
  have ht : t = _ := rmwRead_eq rest hw hm
  have hu := legFound_mild (legTaken s core g q rest) core w q
  have hc : coreOf (legTaken s core g q rest) core = { coreOf s core with rdQueue := rest, rdFree := g + 1, rdWords := q.words.map (·.1) } :=
    setCore_self ..
  have ho := legTaken_finding s core g q rest w
  have hcab : cabOf (legTaken s core g q rest) (cabOfCore core) = { cabOf s (cabOfCore core) with
      rmwCount := satAdd (cabOf s (cabOfCore core)).rmwCount 1 } := (cabOf_mapCab ..).trans (if_pos rfl)
  have hsh : (legTaken s core g q rest).shelf = s.shelf := rfl
  generalize legTaken s core g q rest = v at hu hc ho ht hcab hsh
  generalize legFound v core w q = u at hu ht
  have hcu : coreOf t core = { coreOf u core with rmws := (coreOf u core).rmws ++ [legOf v core g w q m d] } := by rw [ht, setCore_self]
  rw [hu.coreOf, hc] at hcu
  refine ⟨legOf v core g w q m d, congrArg Core.rmws hcu, rfl, rfl, rfl, fun d₀ hf hd => ?_, rfl, congrArg Core.rdFree hcu, ?_, ?_⟩
  · change (wordOf v core q w).map _ = _
    rw [wordOf, if_neg hf, ho, hd]
    rfl
  · rw [ht]
    exact hu.shelf.trans hsh
  · rw [ht]
    change (cabOf u _).rmwCount = _
    rw [hu.cabOf, hcab]

/-- The state in which a write leg has taken its direction. -/
def legWriting (s : State) (core g : Nat) (m : Rmw) (rest : List Xfer) : State :=
  setCore s core (settleShelf { coreOf s core with wrQueue := rest, rmws := (coreOf s core).rmws.erase m, wrFree := g + 1, wrWords := [m.word] }
    (m.tour :: m.also) (g + 1))

theorem rmwWrite_eq {s : State} {core g : Nat} {m : Rmw} {old : BitVec 128} (x : Xfer) (rest : List Xfer)
    (hn : m.atomic = none) (hr : m.reqs = []) (hk : m.mask ≠ 0) (ho : m.old = some old) :
    rmwWrite s core g m x rest false =
      writeWord (legWriting s core g m rest) core x m.word (mergeBytes 16 old.toNat m.data.toNat m.mask.toNat) false := by
  unfold rmwWrite
  simp only [hn, hr, ho, if_neg hk, Option.isSome_none, Bool.false_eq_true, if_false]
  rfl

theorem mergeBytes_lt (n old new mask : Nat) : mergeBytes n old new mask < 2 ^ (8 * n) := by
  have := leNat_lt ((List.range n).map fun i => if mask.testBit i then byteOf new i else byteOf old i)
  rwa [List.length_map, List.length_range] at this

theorem rmwWrite_facts {s : State} {core g : Nat} {m : Rmw} {old : BitVec 128} (x : Xfer) (rest : List Xfer) (hok : storeOk shelfCodec s.shelf = true)
    (hm : (coreOf s core).rmws = [m]) (hn : m.atomic = none) (hr : m.reqs = []) (hk : m.mask ≠ 0) (ho : m.old = some old) :
    let t := rmwWrite s core g m x rest false
    (coreOf t core).rmws = [] ∧ (coreOf t core).wrQueue = rest
      ∧ shelfRead t core m.word = .clean (mergeBytes 16 old.toNat m.data.toNat m.mask.toNat)
      ∧ ∀ k, k ≠ shelfRow s (siteOfCore s core) m.word → wordRead t.shelf shelfCodec k = wordRead s.shelf shelfCodec k := by
  intro t
  obtain ⟨hw, hs⟩ := writeWord_sound (legWriting s core g m rest) core x m.word (mergeBytes 16 old.toNat m.data.toNat m.mask.toNat)
  have ht : t = writeWord (legWriting s core g m rest) core x m.word (mergeBytes 16 old.toNat m.data.toNat m.mask.toNat) false :=
    rmwWrite_eq x rest hn hr hk ho
  rw [← ht] at hw hs
  obtain ⟨rq, hc⟩ := hw.rest
  rw [legWriting, setCore_self] at hc
  refine ⟨by rw [hc]; simp [settleShelf, hm], by rw [hc]; rfl, ?_, fun k hk => ?_⟩
  · refine (congrArg (wordRead t.shelf shelfCodec) (hw.row m.word)).trans ?_
    rw [hs]
    exact wordRead_wordWrite_same hok (by simp) (mergeBytes_lt ..)
  · rw [hs]
    exact wordRead_wordWrite_ne hok hk _

/-- Settles O32: each transfer's start, and what its words leave. -/
theorem channelTransfers : Obligations.ChannelTransfers := by
  intro s core j c q rest hr hwf id g quiet ⟨he, hc, hg, hi, ha, hj, hb⟩
  have hcore := coreOf_of_find hc
  have hok := wf_shelf hwf
  refine ⟨fun n hq hf hk => ?load, fun hq hf hd hk hreq hm hn => ?store, fun w m d hq hf hk hw hm => ?rmwRead,
    fun m old hq hf hk hw hm hn hreq hmask hwr ho => ?rmwWrite⟩
  case load =>
    exact ⟨_, (channelTransferStart_read hr he hc hg hi ha hj hb hq hf (by simp [hk]) []).trans (congrArg _ (startRead_load rest hk)),
      startRead_load_facts s id g n q rest⟩
  case store =>
    exact ⟨_, (channelTransferStart_write hr he hc hg hi ha hj hb hq hf hd (by simp [hk]) []).trans
      (congrArg _ (startWrite_whole rest hreq hm)), startWrite_whole_facts rest hok hn⟩
  case rmwRead =>
    obtain ⟨r, h1, h⟩ := rmwRead_facts (s := s) (core := id) (g := g) rest hw hm
    rw [hcore] at h1
    exact ⟨_, r, shelfRmwRead_start hr he hc hg hi ha hj hb hq hf hk false, h1, h⟩
  case rmwWrite =>
    exact ⟨_, shelfRmwWrite_start hr he hc hg hq hf hk hw hm hn hwr false,
      rmwWrite_facts q rest hok (by rw [hcore]; exact hm) hn hreq hmask ho⟩

end Sys2Proof.Machine
end

section
/-! PROOF. What happens in a core after the issue (R71, R83 to R85, R158 to R164, R195): O31. -/

namespace Sys2Proof.Machine

/-! ### The matrix array (R158 to R163) -/

/-- The run that enters the array, with its stationary image (R158, R161). -/
def enteredRun (c : Core) (r : MxRun) (g : Nat) : MxRun :=
  let cur := if r.image.isSome then r.image else if r.claims then c.shadow else c.current
  { r with entry := some g, held := (cur.map (·.bytes)).getD [], poisoned := r.poisoned || ((cur.map (·.poisoned)).getD false) }

/-- The core whose run has entered the array. -/
def afterEntry (c : Core) (r : MxRun) (g : Nat) : Core :=
  let cur := if r.image.isSome then r.image else if r.claims then c.shadow else c.current
  { c with runs := c.runs.map fun x => if x.id = r.id then enteredRun c r g else x,
           current := if r.image.isSome then c.current else cur,
           shadow := if r.claims && !r.image.isSome then none else c.shadow,
           prevRun := some (r.shape, g, r.n),
           lastWrite := put c.lastWrite r.tile (g + r.n + 39) }

/-- A run of its own launch takes the claimed image; one of an earlier launch leaves the buffers as they are (R158, R164). -/
theorem afterEntry_facts {c : Core} {r : MxRun} (g : Nat) (hr : r ∈ c.runs) :
    enteredRun c r g ∈ (afterEntry c r g).runs
      ∧ (r.image = none → r.claims = true → (afterEntry c r g).current = c.shadow ∧ (afterEntry c r g).shadow = none)
      ∧ ∀ b, r.image = some b → (afterEntry c r g).current = c.current ∧ (afterEntry c r g).shadow = c.shadow
        ∧ (enteredRun c r g).held = b.bytes := by
  refine ⟨List.mem_map.2 ⟨r, hr, if_pos rfl⟩, fun hi hc => ?_, fun b hb => ?_⟩
  · simp [afterEntry, hi, hc]
  · simp [afterEntry, enteredRun, hb]

/-- The core whose run has written its words. -/
def afterTileWrite (c : Core) (r : MxRun) : Core :=
  let c := if r.poisoned then c else writeTile c r.tile (r.outputs (tileOf c r.tile) r.written)
  let last := r.shape.mode = 2 || r.written + 1 = r.n
  let on := c.runs.map fun x => if x.id = r.id then { r with written := r.written + 1 } else x
  { c with runs := if last then c.runs.filter (·.id ≠ r.id) else on }

/-- The words of a loaded tile. -/
def loadedWords (l : AccLoad) : SMap Word := (List.range 256).foldl (fun m w => put m w ((l.words[w]?).getD 0)) []

theorem look_foldl_put {α : Type} [Inhabited α] (f : Nat → α) (d : α) (n w : Nat) (hw : w < n) :
    look ((List.range n).foldl (fun m w => put m w (f w)) []) w d = f w := by
  induction n with
  | zero => omega
  | succ n ih =>
    rw [List.range_succ, List.foldl_concat]
    by_cases h : w = n
    · rw [h]
      exact look_put_same ..
    · rw [look_put_ne _ _ _ _ _ h]
      exact ih (by omega)

theorem loadedWords_look (l : AccLoad) {w : Nat} (hw : w < 256) : look (loadedWords l) w 0 = (l.words[w]?).getD 0 := by
  rw [loadedWords, look_foldl_put (fun w => (l.words[w]?).getD 0) 0 256 w hw]

/-- The core whose tile has been loaded (R163). -/
def afterAccLoad (c : Core) (l : AccLoad) : Core :=
  { c with tiles := put c.tiles l.tile { tileOf c l.tile with int := l.int, words := loadedWords l, bad := [] },
           accLoads := c.accLoads.filter (· ≠ l) }

theorem afterAccLoad_tile (c : Core) (l : AccLoad) :
    tileOf (afterAccLoad c l) l.tile = { tileOf c l.tile with int := l.int, words := loadedWords l, bad := [] } := look_put_same ..

/-! ### The merge buffer (R195) -/

/-- A transfer whose bank groups are ACTIVE is not kept waiting (R192). -/
theorem meetGroups_on {s : State} {core : Nat} {ws : List Nat} (h : groupsOff s core ws = false) : meetGroups s core ws = s := by
  have hoff : (groupsOf core ws).filter (fun g => !domOn s .bankGroup g) = [] := by
    rw [List.filter_eq_nil_iff]
    simpa [groupsOff] using h
  rw [meetGroups]
  dsimp only
  rw [if_pos hoff]

theorem presentWrites_leave {s : State} {core g : Nat} {c : Core} {e : MergeEntry} (h : groupsOff s core [e.word] = false) :
    presentWrites (setCore s core (leaveRmw c g e)) core c = setCore s core (leaveRmw c g e) := by
  have hd : (leaveRmw c g e).wrQueue.drop c.wrQueue.length =
      [⟨.rmwWrite, g, [(e.word, e.mask, e.data)], [], [], e.tours.headD 0, e.tours.tail, []⟩] := by
    simp [leaveRmw]
  rw [presentWrites, setCore_self, hd]
  exact meetGroups_on h

end Sys2Proof.Machine
end

section
/-! PROOF. Context images and swaps (R71, R83 to R85): O31. -/

namespace Sys2Proof.Machine

/-! ### A context that is read (R71, R84) -/

theorem bits_mod_word (v r : Nat) (hr : r < 4) : bits (v % 2 ^ 128) (32 * r) 32 = bits v (32 * r) 32 := by
  unfold bits
  rw [Nat.shiftRight_eq_div_pow, Nat.shiftRight_eq_div_pow]
  match r, hr with
  | 0, _ => omega
  | 1, _ => omega
  | 2, _ => omega
  | 3, _ => omega

theorem mergeBytes_none (n d f : Nat) : mergeBytes n d f 0 = d % 2 ^ (8 * n) := by
  rw [← leNat_leBytes]
  simp [mergeBytes, leBytes]

/-- The transfer that reads a tour's context. -/
def contextRead (c : Core) (tour g : Nat) : Xfer :=
  { kind := .swapIn, issue := g, words := readWords (contextWords c tour), tour := tour }

theorem contextRead_word {s : State} {core : Nat} {c : Core} {tour g w v : Nat} (h : (shelfRead s core w).data? = some v) :
    wordOf s core (contextRead c tour g) w = some (v % 2 ^ 128) := by
  have hf : fwdOf (contextRead c tour g) w = (0, 0) := rfl
  have hr : readFinding s core (contextRead c tour g) w = shelfRead s core w := rfl
  rw [wordOf, hf, if_neg (by decide), hr, h, Option.map_some, mergeBytes_none]

theorem contextRead_data {s : State} {core : Nat} {c : Core} {tour g : Nat} {W : Nat → Nat}
    (h : ∀ n, n < 136 → (shelfRead s core (contextAt c tour + n)).data? = some (W n)) :
    (readXfer s core (contextRead c tour g) []).2.data = (List.range 136).map fun n => (contextAt c tour + n, some (W n % 2 ^ 128)) := by
  have hw : (contextRead c tour g).words = readWords (contextWords c tour) := rfl
  rw [(readXfer_sound ..).2, hw, readWords, contextWords, List.map_map, List.map_map]
  refine List.map_congr_left fun n hn => ?_
  simp only [Function.comp_apply]
  rw [contextRead_word (h n (List.mem_range.1 hn))]

/-- The words of a context that has been read. -/
def contextImage (data : List (Nat × Option Nat)) : List Nat :=
  data.flatMap fun x => (List.range 4).map fun i => bits (x.2.getD 0) (32 * i) 32

theorem contextImage_getD (at_ : Nat → Nat) (W : Nat → Nat) {k : Nat} (hk : k < 544) :
    (contextImage ((List.range 136).map fun n => (at_ n, some (W n % 2 ^ 128)))).getD k 0 = bits (W (k / 4)) (32 * (k % 4)) 32 := by
  have h4 : k % 4 < 4 := Nat.mod_lt _ (by decide)
  have hget := flatMap_getElem? (fun x : Nat × Option Nat => (List.range 4).map fun i => bits (x.2.getD 0) (32 * i) 32) 4
    (fun _ => by simp) ((List.range 136).map fun n => (at_ n, some (W n % 2 ^ 128))) (k := k / 4) h4
  rw [show 4 * (k / 4) + k % 4 = k by omega, List.getElem?_map, List.getElem?_range (show k / 4 < 136 by omega)] at hget
  rw [contextImage, List.getD_eq_getElem?_getD, hget]
  simp only [Option.map_some, Option.bind_some, List.getElem?_map, List.getElem?_range h4, Option.getD_some]
  exact bits_mod_word _ _ h4

theorem contextBad_nil (at_ : Nat → Nat) (W : Nat → Nat) :
    ((List.range 136).map fun n => (at_ n, some (W n))).zipIdx.flatMap
      (fun x => if x.1.2.isNone then (List.range 4).map (4 * x.2 + ·) else []) = [] := by
  refine List.flatMap_eq_nil_iff.2 fun x hx => if_neg ?_
  have : x.1 ∈ (List.range 136).map fun n => (at_ n, some (W n)) := by
    rw [← List.zipIdx_map_fst 0 ((List.range 136).map fun n => (at_ n, some (W n)))]
    exact List.mem_map_of_mem hx
  obtain ⟨n, -, hn⟩ := List.mem_map.1 this
  rw [← hn]
  simp

/-- The registers and threads of a context whose words have been read. -/
theorem contextTour_spells (index : Nat) (ws : List Nat) :
    let y := contextTour index ws []
    y.bad = [] ∧ (∀ l r, l < 16 → r < 32 → getV y l r = BitVec.ofNat 32 (ws.getD (32 * l + r) 0))
      ∧ (∀ r, r < 16 → getU y r = BitVec.ofNat 32 (ws.getD (512 + r) 0))
      ∧ ∀ l, l < 16 → threadOf y l = { pc := bits (ws.getD (528 + l) 0) 0 12, pred := BitVec.ofNat 7 (bits (ws.getD (528 + l) 0) 12 7)
                                       exited := (ws.getD (528 + l) 0).testBit 19 } := by
  have hv : (contextTour index ws []).v = (List.range 512).map fun n => (n, BitVec.ofNat 32 (ws.getD n 0)) := by simp only [contextTour]
  have hu : (contextTour index ws []).u = (List.range 16).map fun n => (n, BitVec.ofNat 32 (ws.getD (512 + n) 0)) := by simp only [contextTour]
  refine ⟨rfl, fun l r hl hr => ?_, fun r hr => ?_, fun l hl => ?_⟩
  · rw [getV, hv, look_range (fun n => BitVec.ofNat 32 (ws.getD n 0)) _ _ _ (by omega)]
  · rw [getU, hu, look_range (fun n => BitVec.ofNat 32 (ws.getD (512 + n) 0)) _ _ _ hr]
  · unfold threadOf contextTour
    dsimp only
    rw [List.getElem?_map, List.getElem?_range hl]
    rfl

theorem takeContext_ran {s : State} {core : Nat} {c : Core} {tour : Nat} (h : tour ∈ c.hasRun) (g : Nat) (crcBad : List Nat) :
    takeContext s core c tour g crcBad =
      let r := readXfer s core (contextRead c tour g) crcBad
      (r.1, contextTour tour (contextImage r.2.data)
        (r.2.data.zipIdx.flatMap fun x => if x.1.2.isNone then (List.range 4).map (4 * x.2 + ·) else [])) := if_pos h

theorem takeContext_fresh {s : State} {core : Nat} {c : Core} {tour : Nat} (h : tour ∉ c.hasRun) (g : Nat) (crcBad : List Nat) :
    takeContext s core c tour g crcBad = (s, freshTour core tour c.args c.entryPc) := if_neg h

theorem takeContext_keeps (s : State) (core : Nat) (c : Core) (tour g : Nat) (crcBad : List Nat) :
    let r := takeContext s core c tour g crcBad
    Moves core r.1 s ∧ r.1.shelf = s.shelf ∧ r.2.index = tour := by
  by_cases h : tour ∈ c.hasRun
  · rw [takeContext_ran h]
    obtain ⟨h1, h2⟩ := readXfer_moves s core (contextRead c tour g) crcBad
    exact ⟨h1, h2, rfl⟩
  · rw [takeContext_fresh h]
    exact ⟨.refl .., rfl, rfl⟩

theorem takeContext_spells {s : State} {core : Nat} {c : Core} {tour : Nat} (hr : tour ∈ c.hasRun) (g : Nat) {W : Nat → Nat}
    (h : ∀ n, n < 136 → (shelfRead s core (contextAt c tour + n)).data? = some (W n)) :
    let y := (takeContext s core c tour g []).2
    let w := fun k => bits (W (k / 4)) (32 * (k % 4)) 32
    y.bad = [] ∧ (∀ l r, l < 16 → r < 32 → getV y l r = BitVec.ofNat 32 (w (32 * l + r)))
      ∧ (∀ r, r < 16 → getU y r = BitVec.ofNat 32 (w (512 + r)))
      ∧ ∀ l, l < 16 → threadOf y l = { pc := bits (w (528 + l)) 0 12, pred := BitVec.ofNat 7 (bits (w (528 + l)) 12 7)
                                       exited := (w (528 + l)).testBit 19 } := by
  have hw {k : Nat} (hk : k < 544) := contextImage_getD (contextAt c tour + ·) W hk
  rw [takeContext_ran hr]
  dsimp only
  rw [contextRead_data h, contextBad_nil]
  obtain ⟨h1, h2, h3, h4⟩ := contextTour_spells tour (contextImage ((List.range 136).map fun n => (contextAt c tour + n, some (W n % 2 ^ 128))))
  refine ⟨h1, fun l r hl hr => ?_, fun r hr => ?_, fun l hl => ?_⟩
  · rw [h2 l r hl hr, hw (by omega)]
  · rw [h3 r hr, hw (by omega)]
  · rw [h4 l hl, hw (by omega)]

/-! ### A context that is written (R71, R84) -/

/-- The transfer that writes a tour's context. -/
def contextWrite (tour g : Nat) : Xfer := { kind := .swapOut, issue := g, words := [], tour := tour }

theorem putContext_moves (s : State) (core : Nat) (x : Xfer) (c : Core) (t : Tour) (crcBad : List Nat) :
    Moves core (putContext s core x c t crcBad) s := by
  refine Moves.foldl (fun s n => ?_) _ _
  dsimp only
  split
  · exact writePoison_moves ..
  · exact writeWord_moves ..

/-- Word n of a context as it is written. -/
def contextData (t : Tour) (n : Nat) : Nat := packWords ((List.range 4).map fun i => contextWord t (4 * n + i))

theorem contextData_lt (t : Tour) (n : Nat) : contextData t n < 2 ^ 128 := by
  have := packWords_lt ((List.range 4).map fun i => contextWord t (4 * n + i))
  rwa [List.length_map, List.length_range] at this

theorem contextData_word (t : Tour) (k : Nat) : bits (contextData t (k / 4)) (32 * (k % 4)) 32 = contextWord t k % 2 ^ 32 := by
  have h4 : k % 4 < 4 := Nat.mod_lt _ (by decide)
  have := packWords_get (ws := (List.range 4).map fun i => contextWord t (4 * (k / 4) + i)) (l := k % 4) (w := contextWord t k)
    (by simp [h4, show 4 * (k / 4) + k % 4 = k by omega])
  rw [bits, Nat.shiftRight_eq_div_pow, contextData, this]

theorem contextWord_lt (t : Tour) (k : Nat) : contextWord t k < 2 ^ 32 := by
  unfold contextWord
  split
  · exact BitVec.isLt _
  · split
    · exact BitVec.isLt _
    · have h1 := (threadOf t (k - 528)).pred.isLt
      have h2 : b2n (threadOf t (k - 528)).exited ≤ 1 := by cases (threadOf t (k - 528)).exited <;> decide
      dsimp only
      omega

theorem contextWord_image (t : Tour) {k : Nat} : contextWord t k =
    if k < 512 then (getV t (k / 32) (k % 32)).toNat else if k < 528 then (getU t (k - 512)).toNat
    else (threadOf t (k - 528)).pc % 4096 + 2 ^ 12 * (threadOf t (k - 528)).pred.toNat + 2 ^ 19 * b2n (threadOf t (k - 528)).exited := by
  rw [getV, Nat.div_add_mod]
  rfl

/-- A sound context is written word after word. -/
theorem putContext_sound {s : State} {core : Nat} (x : Xfer) {c : Core} {t : Tour} (hb : t.bad = [])
    (hok : storeOk shelfCodec s.shelf = true)
    (hn : ∀ n m, n < 136 → m < 136 → n ≠ m → rowOf s core (contextAt c t.index + n) ≠ rowOf s core (contextAt c t.index + m)) :
    let u := putContext s core x c t []
    Writes core u s ∧ (∀ n, n < 136 → wordRead u.shelf shelfCodec (rowOf s core (contextAt c t.index + n)) = .clean (contextData t n))
      ∧ ∀ row, (∀ n, n < 136 → row ≠ rowOf s core (contextAt c t.index + n)) →
        wordRead u.shelf shelfCodec row = wordRead s.shelf shelfCodec row := by
  have he : putContext s core x c t [] =
      (List.range 136).foldl (fun s n => writeWord s core x (contextAt c t.index + n) (contextData t n) false) s := by
    have hbad (k : Nat) : badWord t.bad k = none := by rw [hb]; rfl
    unfold putContext
    refine List.foldl_ext _ _ _ fun u n _ => ?_
    simp only [hbad]
    rfl
  have hnodup : ((List.range 136).map fun n => rowOf s core (contextAt c t.index + n)).Nodup := by
    refine List.Nodup.map_on (fun n hn' m hm' h => ?_) List.nodup_range
    by_contra hne
    exact hn n m (List.mem_range.1 hn') (List.mem_range.1 hm') hne h
  obtain ⟨h1, h2, h3⟩ := writeWords_sound core x (contextAt c t.index + ·) (contextData t) (List.range 136) s hok
    (fun n _ => contextData_lt t n) hnodup
  rw [he]
  refine ⟨h1, fun n hn => h2 n (List.mem_range.2 hn), fun row hrow => h3 row fun hm => ?_⟩
  obtain ⟨n, hn, rfl⟩ := List.mem_map.1 hm
  exact hrow n (List.mem_range.1 hn) rfl

end Sys2Proof.Machine
end

section
/-! PROOF. The start of a swap, and the events of a core at their time: O31. -/

namespace Sys2Proof.Machine

theorem groupsOff_nil (s : State) (core : Nat) : groupsOff s core [] = false := rfl

theorem groupsOff_eq (s : State) (core : Nat) (ws : List Nat) : groupsOff s core ws =
    ((ws.any (· < 14336) && !domOn s .bankGroup (bankGroupOf (wingOfCore core) 0))
      || (ws.any (14336 ≤ ·) && !domOn s .bankGroup (bankGroupOf (wingOfCore core) 1))) := by
  simp only [groupsOff, groupsOf, List.any_append]
  congr 1
  · cases ws.any (· < 14336) <;> simp
  · cases ws.any (14336 ≤ ·) <;> simp

theorem groupsOff_append {s : State} {core : Nat} {a b : List Nat} (ha : groupsOff s core a = false) (hb : groupsOff s core b = false) :
    groupsOff s core (a ++ b) = false := by
  simp only [groupsOff_eq, List.any_append, Bool.and_or_distrib_right, Bool.or_eq_false_iff] at ha hb ⊢
  exact ⟨⟨ha.1, hb.1⟩, ha.2, hb.2⟩

/-- The state in which an exchange has written the outgoing tour's context. -/
def swapSaved (s : State) (core g : Nat) (c : Core) (q : SwapReq) (out : Tour) (crcW : List Nat) : State :=
  if q.kind = .exchange then putContext s core (contextWrite out.index g) c out crcW else s

theorem swapSaved_moves (s : State) (core g : Nat) (c : Core) (q : SwapReq) (out : Tour) (crcW : List Nat) :
    Moves core (swapSaved s core g c q out crcW) s := by
  unfold swapSaved
  split
  · exact putContext_moves ..
  · exact .refl ..

/-- The state in which a swap has begun, over the one in which its words have moved. -/
def swapBegun (core g : Nat) (c : Core) (q : SwapReq) (rest : List SwapReq) (inc : Nat) (more : List Nat) (out : Tour) (r : State × Tour) : State :=
  let exch := q.kind = .exchange
  let ran := decide (inc ∈ c.hasRun)
  let c1 := coreOf r.1 core
  setCore r.1 core { c1 with
    swapQueue := rest
    swapMet := none
    pendingSet := if exch then more ++ [out.index] else more
    hasRun := (c1.hasRun.filter (· ≠ inc)) ++ (if exch then [out.index] else [])
    active := put c1.active q.slot r.2
    rdFree := if ran then g + 136 else c1.rdFree
    wrFree := if exch then g + 136 else c1.wrFree
    rdWords := if ran then contextWords c inc else c1.rdWords
    wrWords := if exch then contextWords c out.index else c1.wrWords
    swap := some ⟨q.slot, inc, ran, if ran then g + 136 + latencyOf (contextWords c inc) else g + 4⟩ }

theorem swapBegun_row (core g : Nat) (c : Core) (q : SwapReq) (rest : List SwapReq) (inc : Nat) (more : List Nat) (out : Tour)
    (r : State × Tour) (k w : Nat) : rowOf (swapBegun core g c q rest inc more out r) k w = rowOf r.1 k w := rfl

section Start
variable {s : State} {core : CoreRef} {j : Fin 7} {c : Core} {q : SwapReq} {rest : List SwapReq} {inc : Nat} {more : List Nat} {out : Tour}

/-- A swap whose words can be reached begins (R83, R85). -/
theorem tourSwapStart_begins (hr : s.sup.inReset = false) (he : edgeOk s (wingOfCore (coreId core)) j.val = true)
    (hc : find s.cores (coreId core) = some c) (hq : c.swapQueue = q :: rest)
    (hb : swapBegins c (wtime s (wingOfCore (coreId core)) j.val) = some q) (hp : c.pendingSet = inc :: more)
    (ho : find c.active q.slot = some out)
    (hw : inc ∈ c.hasRun ∨ q.kind = .exchange → (chanOf s (siteOfCore s (coreId core))).failed = false)
    (hx : q.kind = .exchange → groupsOff s (coreId core) (contextWords c out.index) = false)
    (hi : inc ∈ c.hasRun → groupsOff s (coreId core) (contextWords c inc) = false) (crcR crcW : List Nat) :
    let g := wtime s (wingOfCore (coreId core)) j.val
    exec (.tourSwapStart core j crcR crcW) s = .next (swapBegun (coreId core) g c q rest inc more out
      (takeContext (swapSaved s (coreId core) g c q out crcW) (coreId core) c inc g crcR)) := by
  intro g
  have hgroups : groupsOff s (coreId core) ((if q.kind = .exchange then contextWords c out.index else [])
      ++ (if decide (inc ∈ c.hasRun) = true then contextWords c inc else [])) = false := by
    refine groupsOff_append ?_ ?_
    · split
      · exact hx ‹_›
      · exact groupsOff_nil ..
    · split
      · exact hi (of_decide_eq_true ‹_›)
      · exact groupsOff_nil ..
  have hreach : (decide (((if q.kind = .exchange then contextWords c out.index else [])
      ++ (if decide (inc ∈ c.hasRun) = true then contextWords c inc else [])) ≠ [])
      && (chanOf s (siteOfCore s (coreId core))).failed) = false := by
    by_cases hreach : inc ∈ c.hasRun ∨ q.kind = .exchange
    · rw [hw hreach, Bool.and_false]
    · obtain ⟨h1, h2⟩ := not_or.1 hreach
      simp [h1, h2]
  refine (atCore_some hr he hc ?_ : execTourSwapStart core j crcR crcW s = _)
  simp only [hb, hq, hp, ho]
  rw [hreach, hgroups]
  rfl

/-- What a swap that has begun leaves of its core. -/
theorem swapBegun_facts {id g : Nat} (hc : coreOf s id = c) (crcR crcW : List Nat) :
    let r := takeContext (swapSaved s id g c q out crcW) id c inc g crcR
    let t := swapBegun id g c q rest inc more out r
    t.clm = s.clm ∧ t.dram = s.dram ∧ t.shelf = (swapSaved s id g c q out crcW).shelf
      ∧ (coreOf t id).swapQueue = rest
      ∧ (coreOf t id).pendingSet = (if q.kind = .exchange then more ++ [out.index] else more)
      ∧ (coreOf t id).hasRun = (c.hasRun.filter (· ≠ inc)) ++ (if q.kind = .exchange then [out.index] else [])
      ∧ (coreOf t id).swap = some ⟨q.slot, inc, decide (inc ∈ c.hasRun),
          if inc ∈ c.hasRun then g + 136 + latencyOf (contextWords c inc) else g + 4⟩
      ∧ (coreOf t id).rdFree = (if inc ∈ c.hasRun then g + 136 else c.rdFree)
      ∧ (coreOf t id).wrFree = (if q.kind = .exchange then g + 136 else c.wrFree)
      ∧ find (coreOf t id).active q.slot = some r.2 ∧ r.2.index = inc := by
  intro r t
  obtain ⟨h1, h2, h3⟩ := takeContext_keeps (swapSaved s id g c q out crcW) id c inc g crcR
  have hm := h1.trans (swapSaved_moves s id g c q out crcW)
  obtain ⟨rq, hcore⟩ := hm.rest
  rw [hc] at hcore
  have ht : t = swapBegun id g c q rest inc more out r := rfl
  change coreOf r.1 id = _ at hcore
  have hclm : r.1.clm = s.clm := hm.clm
  have hdram : r.1.dram = s.dram := hm.dram
  have hshelf : r.1.shelf = (swapSaved s id g c q out crcW).shelf := h2
  have hidx : r.2.index = inc := h3
  clear_value r
  rw [ht]
  unfold swapBegun
  dsimp only
  rw [setCore_self, hcore]
  simp only [decide_eq_true_eq]
  exact ⟨hclm, hdram, hshelf, trivial, trivial, trivial, trivial, trivial, trivial, find_put_same .., hidx⟩

end Start

/-- What an exchange has written of the outgoing tour's context (R71, R84). -/
theorem swapSaved_reads {s : State} {id g : Nat} {c : Core} {q : SwapReq} {out : Tour} (hx : q.kind = .exchange) (hb : out.bad = [])
    (hok : storeOk shelfCodec s.shelf = true)
    (hn : ∀ n m, n < 136 → m < 136 → n ≠ m → rowOf s id (contextAt c out.index + n) ≠ rowOf s id (contextAt c out.index + m)) :
    let u := swapSaved s id g c q out []
    (∀ w, rowOf u id w = rowOf s id w)
      ∧ (∀ k, k < 544 → wordRead u.shelf shelfCodec (rowOf s id (contextAt c out.index + k / 4)) = .clean (contextData out (k / 4)))
      ∧ ∀ row, (∀ n, n < 136 → row ≠ rowOf s id (contextAt c out.index + n)) →
        wordRead u.shelf shelfCodec row = wordRead s.shelf shelfCodec row := by
  rw [swapSaved, if_pos hx]
  obtain ⟨h1, h2, h3⟩ := putContext_sound (contextWrite out.index g) hb hok hn
  exact ⟨h1.row, fun k hk => h2 _ (by omega), h3⟩

section Events
variable {s : State} {core : CoreRef} {j : Fin 7} {c : Core} (hr : s.sup.inReset = false)
  (he : edgeOk s (wingOfCore (coreId core)) j.val = true) (hc : find s.cores (coreId core) = some c)
include hr he hc

theorem shadowArmed_due {t : TileImage} (ht : c.shadow = some t) (hrdy : t.ready = some (wtime s (wingOfCore (coreId core)) j.val))
    (ha : t.armed = false) :
    exec (.shadowArmed core j) s = .next (setCore s (coreId core) { c with shadow := some { t with armed := true } }) := by
  refine (atCore_some hr he hc ?_ : execShadowArmed core j s = _)
  simp [ht, hrdy, ha]

theorem arrayRunEntry_due {r : MxRun} (h : c.runs.find? (·.entry.isNone) = some r)
    (ht : entryTime c r = some (wtime s (wingOfCore (coreId core)) j.val)) :
    exec (.arrayRunEntry core j) s = .next (setCore s (coreId core) (afterEntry c r (wtime s (wingOfCore (coreId core)) j.val))) := by
  refine (atCore_some hr he hc ?_ : execArrayRunEntry core j s = _)
  simp only [h, ht]
  exact if_neg (by simp)

theorem arrayTileWrite_due {r : MxRun} (h : c.runs.find? (·.writes (wtime s (wingOfCore (coreId core)) j.val)) = some r) :
    exec (.arrayTileWrite core j) s = .next (setCore s (coreId core) (afterTileWrite c r)) := by
  refine (atCore_some hr he hc ?_ : execArrayTileWrite core j s = _)
  simp only [h]
  rfl

theorem accLoadComplete_due {l : AccLoad} (h : c.accLoads.find? (·.ready = some (wtime s (wingOfCore (coreId core)) j.val)) = some l) :
    exec (.accLoadComplete core j) s = .next (setCore s (coreId core) (afterAccLoad c l)) := by
  refine (atCore_some hr he hc ?_ : execAccLoadComplete core j s = _)
  simp only [h]
  rfl

theorem tourSwapComplete_due {w : Swap} (h : c.swap = some w) (hd : w.doneAt = wtime s (wingOfCore (coreId core)) j.val) :
    exec (.tourSwapComplete core j) s = .next (endSwap s (coreId core) (wtime s (wingOfCore (coreId core)) j.val) c w) := by
  refine (atCore_some hr he hc ?_ : execTourSwapComplete core j s = _)
  simp [h, hd]

theorem mergeBufferTimeout_due {e : MergeEntry} (h : c.merge = some e) (hd : e.opened + 4 ≤ wtime s (wingOfCore (coreId core)) j.val)
    (hg : groupsOff s (coreId core) [e.word] = false) :
    exec (.mergeBufferTimeout core j) s = .next (setCore s (coreId core) (leaveRmw c (e.opened + 4) e)) := by
  refine (atCore_some hr he hc ?_ : execMergeBufferTimeout core j s = _)
  simp [h, mergeDue, hd, presentWrites_leave hg]

end Events

theorem endSwap_matching {s : State} {id g : Nat} {c : Core} {w : Swap}
    (h : ∀ x, find c.active w.slot = some x → mismatch c x = false ∨ x.stopped = true) :
    endSwap s id g c w = setCore s id { c with swap := none } := by
  unfold endSwap
  cases hx : find c.active w.slot with
  | none => rfl
  | some x => rcases h x hx with h | h <;> simp [h]

theorem endSwap_mismatch {s : State} {id g : Nat} {c : Core} {w : Swap} {x : Tour} (hx : find c.active w.slot = some x)
    (h1 : mismatch c x = true) (h2 : x.stopped = false) :
    coreOf (endSwap s id g c w) id = { c with swap := none, active := put c.active w.slot { x with stopped := true } } := by
  have he : endSwap s id g c w = kernelFault (setCore s id { c with swap := none, active := put c.active w.slot { x with stopped := true } })
      (cabOfCore id) (coreInCab id) x.index 0x01 0 0 g := by
    simp [endSwap, hx, h1, h2]
  rw [he, kernelFault, (raiseFaultO_mild _ _ _).coreOf, recordKernelFault, setCab_coreOf, setCore_self]

/-- Settles O31: each event at the GCLK it is due, and the words of a swap's contexts. -/
theorem coreEventsAtTheirTime : Obligations.CoreEventsAtTheirTime := by
  intro s core j c hr id g he hc
  have hcore : coreOf s id = c := coreOf_of_find hc
  refine ⟨fun t ht hrdy ha => shadowArmed_due hr he hc ht hrdy ha, fun r h ht => ?entry, fun r h hp => ?write, fun l h => ?accLoad,
    fun w h hd hm => (tourSwapComplete_due hr he hc h hd).trans (congrArg _ (endSwap_matching hm)), fun w x h hd hx h1 h2 => ?mismatch,
    fun e h hd hg => mergeBufferTimeout_due hr he hc h hd hg, fun q inc more out crcR crcW hq hb hp ho => ?swap⟩
  case entry =>
    obtain ⟨h1, h2, h3⟩ := afterEntry_facts g (List.mem_of_find?_eq_some h)
    exact ⟨afterEntry c r g, enteredRun c r g, arrayRunEntry_due hr he hc h ht, rfl, h1, rfl, rfl, rfl, h2, h3⟩
  case write =>
    have hf : (afterTileWrite c r).tiles = (writeTile c r.tile (r.outputs (tileOf c r.tile) r.written)).tiles
        ∧ (afterTileWrite c r).active = c.active ∧ (afterTileWrite c r).results = c.results := by
      unfold afterTileWrite
      rw [hp]
      exact ⟨rfl, rfl, rfl⟩
    exact ⟨afterTileWrite c r, arrayTileWrite_due hr he hc h, hf⟩
  case accLoad =>
    refine ⟨afterAccLoad c l, accLoadComplete_due hr he hc h, ?_⟩
    rw [afterAccLoad_tile]
    refine ⟨rfl, rfl, ?_, fun n hn => find_put_ne _ _ _ _ hn⟩
    dsimp only
    intro w hw
    rw [loadedWords_look l hw]
  case mismatch =>
    have he' := endSwap_mismatch (s := s) (id := id) (g := g) hx h1 h2
    exact ⟨_, tourSwapComplete_due hr he hc h hd, congrArg Core.swap he', congrArg Core.active he'⟩
  case swap =>
    intro ran exch hw hx hi way th image
    have hstart := tourSwapStart_begins hr he hc hq hb hp ho (by simpa [ran, exch] using hw) (by simpa [exch] using hx)
      (by simpa [ran] using hi) crcR crcW
    obtain ⟨h1, h2, h3, h4, h5, h6, h7, h8, h9, h10, h11⟩ :=
      swapBegun_facts (s := s) (c := c) (q := q) (rest := []) (inc := inc) (more := more) (out := out) (id := id) (g := g) hcore crcR crcW
    refine ⟨_, _, hstart, h1, h2, h4, ?_, ?_, ?_, ?_, ?_, h10, h11, fun hf => ?fresh, fun hx' => ?shelf, fun hr' hx' hcr W hW => ?read,
      fun hr' hx' hcw hbad hwf hn => ?written⟩
    case fresh =>
      have : inc ∉ c.hasRun := by simpa [ran] using hf
      rw [takeContext_fresh this]
    case shelf =>
      have : q.kind ≠ .exchange := by simpa [exch] using hx'
      rw [h3, swapSaved, if_neg this]
    case read =>
      have hran : inc ∈ c.hasRun := by simpa [ran] using hr'
      have hex : q.kind ≠ .exchange := by simpa [exch] using hx'
      rw [hcr, swapSaved, if_neg hex]
      exact takeContext_spells hran g hW
    case written =>
      have hran : inc ∉ c.hasRun := by simpa [ran] using hr'
      have hex : q.kind = .exchange := by simpa [exch] using hx'
      rw [hcw] at h3 ⊢
      rw [takeContext_fresh hran] at h3 ⊢
      obtain ⟨r1, r2, r3⟩ := swapSaved_reads (g := g) hex hbad (wf_shelf hwf) hn
      have hrow (w : Nat) := (swapBegun_row id g c q [] inc more out (swapSaved s id g c q out [], freshTour id inc c.args c.entryPc) id w).trans
        (r1 w)
      refine ⟨fun k hk => ⟨contextData out (k / 4), ?_, ?_⟩, fun row hrow' => ?_⟩
      · refine congrArg Checked.data? (Eq.trans ?_ (r2 k hk))
        exact congrArg₂ (wordRead · shelfCodec) h3 (hrow _)
      · rw [contextData_word, Nat.mod_eq_of_lt (contextWord_lt ..)]
        exact contextWord_image out
      · exact (congrArg (wordRead · shelfCodec row) h3).trans (r3 row hrow')
    case refine_1 => exact h5.trans (by simp only [exch, decide_eq_true_eq])
    case refine_2 => exact h6.trans (by simp only [exch, decide_eq_true_eq])
    case refine_3 => exact h7.trans (by simp only [ran, decide_eq_true_eq])
    case refine_4 => exact h8.trans (by simp only [ran, decide_eq_true_eq])
    case refine_5 => exact h9.trans (by simp only [exch, decide_eq_true_eq])

end Sys2Proof.Machine
end

section
/-! PROOF. The harts of the conservators: RV32IM and the near-bank instructions (R263, R264, R267 to R275): O40, O41 and O42. -/

namespace Sys2Proof.Machine

/-! ### An issue -/

/-- What `hartIssue` finds. -/
theorem hartIssue_some {s t : State} {P g : Nat} {op : RvOp} {h : HartAt} (hi : hartIssue s P g = some (op, t, h)) :
    hartReady s P g = true ∧ hartReady (catchUp s P g) P g = true ∧ (fetchRv (catchUp s P g) P) = (t, .inr (h.w, h.len))
      ∧ rvDecode h.w = some op ∧ ((rvSources op h.w).all fun r => r = 0 || look h.c.xReady r 0 ≤ g) = true
      ∧ h = ⟨P, h.w, h.len, g, csvOf t P⟩ := by
  unfold hartIssue at hi
  split at hi
  · cases hi
  case isFalse hr =>
    obtain ⟨h1, h2⟩ : hartReady s P g = true ∧ hartReady (catchUp s P g) P g = true := by simpa using hr
    split at hi
    · cases hi
    case h_2 s2 w len hf =>
      split at hi
      · cases hi
      case h_2 o ho =>
        dsimp only at hi
        split at hi
        case isFalse => cases hi
        case isTrue hs =>
          obtain ⟨rfl, rfl, rfl⟩ : o = op ∧ s2 = t ∧ (⟨P, w, len, g, csvOf s2 P⟩ : HartAt) = h := by simpa using hi
          exact ⟨h1, h2, hf, ho, hs, rfl⟩

/-- A command of the instruction at issue acts. -/
theorem hart_issues {s t : State} {pch : Fin 1024} {j : Fin 4} {op : RvOp} {h : HartAt}
    (hi : hartIssue s pch.val (cclk s j.val) = some (op, t, h)) (act : State → HartAt → State) :
    hart pch j op act s = .next (act t h) := by
  obtain ⟨h1, h2, hf, hd, hs, he⟩ := hartIssue_some hi
  have hc : csvOf t pch.val = h.c := by rw [he]
  unfold hart
  simp only [h1, h2, hf, hd, hc, hs]
  refine onlyIf_next (by simp) ?_
  conv_rhs => rw [he]
  rw [hc]

theorem hartIssue_csv {s t : State} {P g : Nat} {op : RvOp} {h : HartAt} (hi : hartIssue s P g = some (op, t, h)) :
    h.c = csvOf t P ∧ h.P = P ∧ h.g = g := by
  obtain ⟨-, -, -, -, -, he⟩ := hartIssue_some hi
  rw [he]
  exact ⟨rfl, rfl, rfl⟩

/-! ### Products and quotients (R264) -/

theorem signExtend_mul (a b : Word) : ((a.signExtend 64 * b.signExtend 64) >>> 32).setWidth 32 =
    BitVec.ofInt 32 (a.toInt * b.toInt / (2 ^ 32 : Nat)) := by
  rw [BitVec.signExtend, BitVec.signExtend, ← BitVec.ofInt_mul]
  generalize a.toInt * b.toInt = x
  apply BitVec.eq_of_toNat_eq
  rw [BitVec.toNat_setWidth, BitVec.toNat_ushiftRight, BitVec.toNat_ofInt, BitVec.toNat_ofInt, Nat.shiftRight_eq_div_pow]
  omega

theorem setWidth_ofInt (b : Word) : b.setWidth 64 = BitVec.ofInt 64 (b.toNat : Int) := by
  rw [BitVec.ofInt_natCast, BitVec.ofNat_toNat]

theorem signExtend_mul_setWidth (a b : Word) : ((a.signExtend 64 * b.setWidth 64) >>> 32).setWidth 32 =
    BitVec.ofInt 32 (a.toInt * (b.toNat : Int) / (2 ^ 32 : Nat)) := by
  rw [BitVec.signExtend, setWidth_ofInt, ← BitVec.ofInt_mul]
  generalize a.toInt * (b.toNat : Int) = x
  apply BitVec.eq_of_toNat_eq
  rw [BitVec.toNat_setWidth, BitVec.toNat_ushiftRight, BitVec.toNat_ofInt, BitVec.toNat_ofInt, Nat.shiftRight_eq_div_pow]
  omega

theorem setWidth_mul (a b : Word) : ((a.setWidth 64 * b.setWidth 64) >>> 32).setWidth 32 = BitVec.ofNat 32 (a.toNat * b.toNat / 2 ^ 32) := by
  have hlt : a.toNat * b.toNat < 2 ^ 32 * 2 ^ 32 := Nat.mul_lt_mul'' a.isLt b.isLt
  have ha := a.isLt
  have hb := b.isLt
  apply BitVec.eq_of_toNat_eq
  rw [BitVec.toNat_setWidth, BitVec.toNat_ushiftRight, BitVec.toNat_mul, BitVec.toNat_setWidth, BitVec.toNat_setWidth,
    Nat.mod_eq_of_lt (show a.toNat < 2 ^ 64 by omega), Nat.mod_eq_of_lt (show b.toNat < 2 ^ 64 by omega), BitVec.toNat_ofNat,
    Nat.shiftRight_eq_div_pow, Nat.mod_eq_of_lt (show a.toNat * b.toNat < 2 ^ 64 by omega)]

theorem sdiv_eq (a b : Word) : BitVec.ofInt 32 (a.toInt.tdiv b.toInt) = a.sdiv b := by
  apply BitVec.eq_of_toInt_eq
  rw [BitVec.toInt_ofInt, BitVec.toInt_sdiv]

theorem srem_eq (a b : Word) : BitVec.ofInt 32 (a.toInt.tmod b.toInt) = a.srem b := by
  rw [← BitVec.toInt_srem, BitVec.ofInt_toInt]

/-! ### The state after an instruction -/

theorem getX_setX (c : Csv) (g rd lat : Nat) (v : Word) (r : Nat) : getX (setX c g rd v lat) r = if r = rd ∧ r ≠ 0 then v else getX c r := by
  unfold getX setX
  by_cases h0 : r = 0
  · simp [h0]
  · by_cases hr : rd = 0
    · have : r ≠ rd := by omega
      simp [hr, h0]
    · simp only [if_neg hr, if_neg h0]
      by_cases h : r = rd
      · rw [if_pos ⟨h, h0⟩, h]
        exact look_put_same ..
      · rw [if_neg (fun x => h x.1)]
        exact look_put_ne _ _ _ _ _ h

theorem setX_keeps (c : Csv) (g rd lat : Nat) (v : Word) :
    setX c g rd v lat = { c with x := (setX c g rd v lat).x, xReady := (setX c g rd v lat).xReady } := by
  unfold setX
  split <;> rfl

theorem retire_csv (t : State) (h : HartAt) (c : Csv) (n : Nat) :
    csvOf (retire t h c n) h.P = { c with pc := c.pc + BitVec.ofNat 32 h.len, free := h.g + n } := setCsv_self ..

/-- Settles O41: a register write leaves every other field of the conservator. -/
theorem hartRegisterFrame : Obligations.HartRegisterFrame := by
  intro t h rd lat n v u c
  have hc : c = _ := retire_csv t h (setX h.c h.g rd v lat) n
  have hu : u = { t with csvs := put t.csvs h.P c } := by
    rw [hc]
    rfl
  have hk := setX_keeps h.c h.g rd lat v
  have hx := getX_setX h.c h.g rd lat v
  generalize setX h.c h.g rd v lat = w at hc hk hx
  refine ⟨hu, fun r _ => ?_, ?_⟩
  · rw [hc]
    exact hx r
  · rw [hc, hk]
    exact ⟨rfl, rfl, rfl, rfl, rfl, rfl, rfl, rfl, rfl, rfl⟩

end Sys2Proof.Machine
end

section
/-! PROOF. What each instruction of a hart does at its issue (R263, R264, R268 to R275): O40 and O42. -/

namespace Sys2Proof.Machine

/-! ### RV32IM -/

theorem rvLoad_sound {t : State} {h : HartAt} {d : Nat} (ha : (h.a + immI h.w).toNat % 2 ^ (rvF3 h.w % 4) = 0)
    (hm : csvMapped (h.a + immI h.w).toNat = true) (hd : (windowWord t h.P ((h.a + immI h.w).toNat / 4 * 4)).2 = some d) :
    rvLoad t h = retire (windowWord t h.P ((h.a + immI h.w).toNat / 4 * 4)).1 h (setX h.c h.g (rvRd h.w)
      (loadBits (rvF3 h.w) (h.a + immI h.w).toNat d) (if inISram (h.a + immI h.w).toNat || inDSram (h.a + immI h.w).toNat then 2 else 4)) 1 := by
  unfold rvLoad
  dsimp only
  rw [if_neg (not_not.2 ha), if_neg (by rw [hm]; decide)]
  cases hw : windowWord t h.P ((h.a + immI h.w).toNat / 4 * 4) with
  | mk s' o =>
    rw [hw] at hd
    obtain rfl : o = some d := hd
    rfl

theorem inDSram_not_inResults {a : Nat} (h : inDSram a = true) : inResults a = false := by
  simp only [inDSram, inResults, Bool.and_eq_true, decide_eq_true_eq, Bool.and_eq_false_iff, decide_eq_false_iff_not] at h ⊢
  omega

theorem Checked.data_of_clean {f : Checked} (h : f.cls.1 = 0) : f.data?.isNone = false := by
  cases f <;> simp_all [Checked.cls, Checked.data?]

theorem faultFinding_clean {s : State} {p : Option Nat} {stack kind unit mem loc : Nat} {f : Checked} (h : f.cls.1 = 0) :
    faultFinding s p stack kind unit mem f loc = s := by
  simp [faultFinding, h]

theorem rvStore_dsram {t : State} {h : HartAt} (ha : (h.a + immS h.w).toNat % 2 ^ rvF3 h.w = 0)
    (hd : inDSram (h.a + immS h.w).toNat = true) :
    let a := (h.a + immS h.w).toNat
    let mask := (2 ^ 2 ^ rvF3 h.w - 1) * 2 ^ (a % 4) &&& (15 - windowMask h.c (a / 4 * 4) h.g)
    let w := wordMerge h.c.dsram sramCodec ((a / 4 * 4 - 0x10000) / 4) (h.b.toNat * 2 ^ (8 * (a % 4))) mask
    w.2.cls.1 = 0 → rvStore t h = retire t h { h.c with dsram := w.1 } 1 := by
  intro a mask w hw
  unfold rvStore
  dsimp only
  rw [if_neg (not_not.2 ha), if_neg (ne_true_of_eq_false (inDSram_not_inResults hd)), if_pos hd,
    if_neg (by rw [Checked.data_of_clean hw]; exact Bool.false_ne_true), sramFault, faultFinding_clean hw]

/-- Settles O40: the commands of an issue, and the arithmetic of products and quotients. -/
theorem hartInstructions : Obligations.HartInstructions := by
  refine ⟨fun s t pch j op h hi => ?_, fun a b => ?_⟩
  · intro rd f3
    have act {op' : RvOp} (ho : op = op') (f : State → HartAt → State) : hart pch j op' f s = .next (f t h) := ho ▸ hart_issues (ho ▸ hi) f
    refine ⟨fun ho => (act ho _ : execRvIntegerAlu pch j s = _), fun ho hw => ?jal, fun ho hw => ?jalr, fun ho hw => ?branch,
      fun d ho => ?load, fun ho => ?dsram, fun ho => ?results, fun ho => ?trap, fun ho => (act ho _ : execRvMul pch j s = _),
      fun ho => (act ho _ : execRvDiv pch j s = _), fun ho => (act ho _ : execRvFence pch j s = _),
      fun ho => (act ho _ : execEcall pch j s = _), fun ho => (act ho _ : execEbreak pch j s = _)⟩
    case jal => exact (act ho rvBranch).trans (congrArg _ (by simp [rvBranch, hw, rd]))
    case jalr => exact (act ho rvBranch).trans (congrArg _ (by simp [rvBranch, hw, rd]))
    case branch => exact (act ho rvBranch).trans (congrArg _ (by simp [rvBranch, hw, f3]))
    case load =>
      intro a ha hm hd
      exact (act ho rvLoad).trans (congrArg _ (rvLoad_sound ha hm hd))
    case dsram =>
      intro a mask w ha hd hw
      exact (act ho rvStore).trans (congrArg _ (rvStore_dsram ha hd hw))
    case results =>
      intro a slots ha hr
      refine (act ho rvStore).trans (congrArg _ ?_)
      unfold rvStore
      exact (if_neg (not_not.2 ha)).trans (if_pos hr)
    case trap =>
      refine ⟨fun ha => ?_, fun ha hr hd => ?_⟩
      · refine (act ho rvStore).trans (congrArg _ ?_)
        unfold rvStore
        exact if_pos ha
      · refine (act ho rvStore).trans (congrArg _ ?_)
        unfold rvStore
        exact (if_neg (not_not.2 ha)).trans ((if_neg (ne_true_of_eq_false hr)).trans (if_neg (ne_true_of_eq_false hd)))
  · refine ⟨rfl, (signExtend_mul a b).symm, (signExtend_mul_setWidth a b).symm, (setWidth_mul a b).symm,
      fun hb => ⟨if_pos hb, if_pos hb, if_pos hb, if_pos hb⟩,
      fun hb => ⟨(if_neg hb).trans (sdiv_eq a b), if_neg hb, (if_neg hb).trans (srem_eq a b), if_neg hb⟩, by decide, by decide⟩

/-! ### Near-bank instructions -/

theorem Mild.csvOf {t s : State} (h : Mild t s) (P : Nat) : csvOf t P = csvOf s P := by
  rw [Machine.csvOf, h.csvs]
  rfl

/-- Reading the D-SRAM changes no conservator, no request's place and no vault. -/
theorem dsramSpan_mild (s : State) (P a n : Nat) : Mild (dsramSpan s P a n).1 s := by
  unfold dsramSpan
  exact List.foldlRecOn (motive := fun r : State × Option Nat => Mild r.1 s) _ _ (.refl s) fun r h i _ => (faultFinding_mild ..).trans h

theorem waitUntil_ok {ok : HartAt → Bool} {act : State → HartAt → State} {s : State} {h : HartAt} (hk : ok h = true) :
    waitUntil ok act s h = act s h := if_pos hk

/-- The burst that an nb.rd or nb.wr puts under way (R269, R270). -/
def burstOf (write : Bool) (s : State) (h : HartAt) : Burst :=
  assignSlots s h.P { ticket := h.c.nextTicket, write := write, dst := h.a.toNat, line := bits h.b.toNat 0 23, n := bits h.b.toNat 23 6 + 1,
                      beta := ceilDiv h.g 4 * 4, pace := 2 ^ (vaultOf s (h.P / 64)).pace.toNat, slots := [] } 0 h.c.lastSlot

/-- The conservator whose burst is under way. -/
def burstCsv (write : Bool) (s : State) (h : HartAt) : Csv :=
  let u := burstOf write s h
  let pace := 2 ^ (vaultOf s (h.P / 64)).pace.toNat
  { h.c with
    bursts := h.c.bursts ++ [u], nextTicket := h.c.nextTicket + 1, lastSlot := u.slots.getLastD 0
    paceWait := satAdd h.c.paceWait ((bits h.b.toNat 23 6 + 1) * (pace - 1)), refreshWait := satAdd h.c.refreshWait (262 * u.moved.length) }

section Bursts
variable {s : State} {h : HartAt} (hb : h.b.toNat < 2 ^ 29) (hm : (pchOf s h.P).nbMode = true) (hs : pchShared s h.P = true)
  (ha : h.a.toNat % 128 = 0) (hlo : 0x10000 ≤ h.a.toNat) (hhi : h.a.toNat + 128 * (bits h.b.toNat 23 6 + 1) ≤ 0x20000)
  (hl : bits h.b.toNat 0 23 + (bits h.b.toNat 23 6 + 1) ≤ 2 ^ 23)
include hb hm hs ha hlo hhi hl

theorem nbBurst_accepts (write : Bool) : nbBurst write s h =
    retire s h (setX (burstCsv write s h) h.g (rvRd h.w) h.c.nextTicket 1) 1 := by
  have hz : bits h.b.toNat 29 3 = 0 := by
    rw [bits, Nat.shiftRight_eq_div_pow, Nat.div_eq_of_lt hb, Nat.zero_mod]
  unfold nbBurst
  dsimp only
  rw [if_neg (not_not.2 hz), if_neg (by simp [hm, hs]), if_neg (by omega)]
  rfl

theorem nbBurst_facts (write : Bool) : (csvOf (nbBurst write s h) h.P).bursts = h.c.bursts ++ [burstOf write s h]
    ∧ (nbBurst write s h).dram = s.dram := by
  rw [nbBurst_accepts hb hm hs ha hlo hhi hl, retire_csv, setX_keeps]
  exact ⟨rfl, rfl⟩

end Bursts

/-- A step of the attention unit whose rows can be read (R273, R274). -/
theorem unitStep_reads {t s2 : State} {P i k : Nat} {w : UnitWork}
    (hr : rowAt (setCsvF t P fun c => landLines c (w.issue + 1 + i)) P w.rows i = (s2, some k)) :
    let c := csvOf s2 P
    (w.score = true → (csvOf (unitStep t P w i) P).scores = c.scores ++ [(w.issue + i + 11, w.second + 4 * i, bestScore c k)])
      ∧ (∀ s3 v, w.score = false → rowAt s2 P w.second i = (s3, some v) →
        (csvOf (unitStep t P w i) P).attn = (attnStates (csvOf s3 P)).zipIdx.map fun y =>
          tokenStep y.1 (scoreOf (csvOf s3 P) y.2 k) (rowElt c.fmt.toNat (if c.blk16 then 16 else 32) v)) := by
  refine ⟨fun hw => ?_, fun s3 v hw hv => ?_⟩
  · unfold unitStep
    simp only [hr, hw, if_true]
    rw [setCsvF, setCsv_self]
    rfl
  · have hm : csvOf s3 P = csvOf s2 P := by
      have hd := dsramSpan_mild s2 P (w.second + rowBytes (csvOf s2 P).fmt.toNat (csvOf s2 P).blk16 * i)
        (rowBytes (csvOf s2 P).fmt.toNat (csvOf s2 P).blk16)
      rw [rowAt] at hv
      rw [hv] at hd
      exact hd.csvOf P
    unfold unitStep
    simp only [hr, hw, hv, Bool.false_eq_true, if_false]
    rw [setCsvF, setCsv_self, ← hm]
    rfl

/-- The conservator whose head command has retired (R268). -/
def doneCsv (s : State) (h : HartAt) : Csv :=
  { h.c with head := h.c.head + 1, pending := h.c.pending - 1, doneCount := satAdd h.c.doneCount 1, headSince := now s }

theorem retire_done (s : State) (h : HartAt) :
    let c := csvOf (retire s h (doneCsv s h) 1) h.P
    c.head = h.c.head + 1 ∧ c.pending = h.c.pending - 1 ∧ c.doneCount = satAdd h.c.doneCount 1 ∧ c.x = h.c.x := by
  rw [retire_csv]
  exact ⟨rfl, rfl, rfl, rfl⟩

/-- Settles O42: each instruction's checks pass, and its issue retires over a changed conservator. -/
theorem nearBankInstructions : Obligations.NearBankInstructions := by
  intro s t pch j f7 h hi rd a b n burst
  have act {f : Nat} (hf : f7 = f) (g : State → HartAt → State) : hart pch j (.nb f) g s = .next (g t h) := hf ▸ hart_issues (hf ▸ hi) g
  refine ⟨fun hf hb => ?rd, fun hf hb => ?wr, fun hf hw => ?wait, fun hf => (act hf _ : execNbBeat pch j s = _), fun hf hu => ?untilBeat,
    fun hf hu h1 h2 h3 h4 => ?acfg, fun t' d hf hu hs hd => ?qld, fun hf hu hb h1 h2 => ?attn, fun hf hu hb h1 h2 => ?score,
    fun P i k w s2 hr => unitStep_reads hr, fun hf hu hfin hs => ?ost, fun hf => (act hf _ : execNbCmd pch j s = _),
    fun hf ha hp => ?done, fun hf => (act hf _ : execNbFlt pch j s = _)⟩
  case rd =>
    obtain ⟨h1, h2, h3, h4, h5, h6, h7, h8⟩ := hb
    obtain ⟨g1, g2⟩ := nbBurst_facts h1 h2 h3 h4 h5 h6 h7 false
    exact ⟨_, burstOf false t h, (act hf _ : execNbRd pch j s = _).trans (congrArg _ (waitUntil_ok (decide_eq_true h8))), g1,
      rfl, rfl, rfl, rfl, rfl, g2⟩
  case wr =>
    obtain ⟨h1, h2, h3, h4, h5, h6, h7, h8⟩ := hb
    obtain ⟨g1, g2⟩ := nbBurst_facts h1 h2 h3 h4 h5 h6 h7 true
    exact ⟨_, burstOf true t h, (act hf _ : execNbWr pch j s = _).trans (congrArg _ (waitUntil_ok (decide_eq_true h8))), g1,
      rfl, rfl, rfl, rfl, rfl, g2⟩
  case wait =>
    exact (act hf _ : execNbWait pch j s = _).trans (congrArg _ (waitUntil_ok (List.all_eq_true.2 hw)))
  case untilBeat =>
    exact (act hf _ : execNbUntil pch j s = _).trans (congrArg _ (waitUntil_ok (by rw [hu]; rfl)))
  case acfg =>
    refine (act hf _ : execNbAcfg pch j s = _).trans (congrArg _ ((waitUntil_ok (decide_eq_true hu)).trans (if_neg ?_)))
    have hl : (t.boot.legacy && a.testBit 4) = false := by
      cases hb : t.boot.legacy with
      | false => rfl
      | true => rw [h4 hb]; rfl
    simp only [Bool.or_eq_true, decide_eq_true_eq, not_or, ← Bool.not_eq_true] at hl ⊢
    exact ⟨⟨⟨by omega, by omega⟩, by omega⟩, hl⟩
  case qld =>
    refine ⟨_, (act hf _ : execNbQld pch j s = _).trans (congrArg _ ((waitUntil_ok (decide_eq_true hu)).trans (if_neg (by rw [hs]; decide)))), ?_⟩
    rw [hd]
    dsimp only
    rw [retire_csv]
    exact ⟨rfl, rfl, rfl⟩
  case attn =>
    refine ⟨_, (act hf _ : execNbAttn pch j s = _).trans (congrArg _ ((waitUntil_ok (decide_eq_true hu)).trans
      ((if_neg (not_not.2 (Nat.div_eq_of_lt hb))).trans (if_neg ?_)))), ?_⟩
    · rw [h1, h2]
      decide
    · rw [startUnit, retire_csv]
      exact ⟨rfl, rfl, rfl, rfl, rfl, rfl, rfl⟩
  case score =>
    refine ⟨_, (act hf _ : execNbScore pch j s = _).trans (congrArg _ ((waitUntil_ok (decide_eq_true hu)).trans
      ((if_neg (not_not.2 (Nat.div_eq_of_lt hb))).trans (if_neg ?_)))), ?_⟩
    · rw [h1, h2]
      decide
    · rw [startUnit, retire_csv]
      exact ⟨rfl, rfl, rfl, rfl, rfl⟩
  case ost =>
    refine ⟨_, (act hf _ : execNbOst pch j s = _).trans (congrArg _ ((waitUntil_ok (by simp [hu, hfin])).trans (if_neg (by rw [hs]; decide)))), ?_⟩
    rw [retire_csv]
    exact ⟨rfl, rfl, rfl⟩
  case done =>
    refine ⟨_, (act hf _ : execNbDone pch j s = _).trans (congrArg _ ((if_neg (not_not.2 ha)).trans (if_neg hp))), ?_⟩
    split
    · rw [(postEvent_mild ..).csvOf]
      exact retire_done t h
    · exact retire_done t h

end Sys2Proof.Machine
end

section
/-! PROOF. Words written through a conservator's window (R261, R262). -/

namespace Sys2Proof.Machine

/-! ### Merged words -/

theorem mergeBytes_whole (n old new : Nat) : mergeBytes n old new (2 ^ n - 1) = new % 2 ^ (8 * n) := by
  rw [← leNat_leBytes]
  unfold mergeBytes leBytes
  congr 1
  refine List.map_congr_left fun i hi => ?_
  rw [Nat.testBit_two_pow_sub_one, decide_eq_true (List.mem_range.1 hi), if_pos rfl]

theorem wordMerge_whole {m : List Host.Cell} {i d mask : Nat} (h : mask = 15) : wordMerge m sramCodec i d mask = (wordWrite m sramCodec i d, .clean d) := by
  rw [h]
  rfl

theorem wordMerge_part {m : List Host.Cell} {i old d mask : Nat} (hm : mask < 16) (h : mask ≠ 15) (ho : wordRead m sramCodec i = .clean old) :
    wordMerge m sramCodec i d mask = (wordWrite m sramCodec i (mergeBytes 4 old d mask), .clean old) := by
  unfold wordMerge
  rw [if_neg (by rw [show (2 : Nat) ^ sramCodec.n = 16 from rfl, Nat.mod_eq_of_lt hm]; exact h), ho]
  rfl

theorem wordMerge_ne {m : List Host.Cell} (h : storeOk sramCodec m = true) {i j : Nat} (hij : j ≠ i) (d mask : Nat) :
    wordRead (wordMerge m sramCodec i d mask).1 sramCodec j = wordRead m sramCodec j := by
  unfold wordMerge
  split
  · exact wordRead_wordWrite_ne h hij _
  · dsimp only
    split
    · exact wordRead_wordWrite_ne h hij _
    · rfl

/-- What a merge leaves of its word: the whole word, or the sound old one's other bytes. -/
theorem wordMerge_same {m : List Host.Cell} (h : storeOk sramCodec m = true) {i d mask : Nat} (hm : mask < 16) (hd : d < 2 ^ 32) :
    (mask = 15 → wordRead (wordMerge m sramCodec i d mask).1 sramCodec i = .clean d)
      ∧ ∀ old, mask ≠ 15 → wordRead m sramCodec i = .clean old →
        wordRead (wordMerge m sramCodec i d mask).1 sramCodec i = .clean (mergeBytes 4 old d mask) := by
  refine ⟨fun hw => ?_, fun old hw ho => ?_⟩
  · rw [wordMerge_whole hw]
    exact wordRead_wordWrite_same h (by simp) hd
  · rw [wordMerge_part hm hw ho]
    exact wordRead_wordWrite_same h (by simp) (mergeBytes_lt ..)

section Fold
variable {S : Type} (step : S → Nat → S) (mem : S → List Host.Cell) (inv : S → Prop) (idx val msk : Nat → Nat)

/-- Words of a store merged one after another, each at its own index. -/
theorem foldMerge (hinj : ∀ i j, i < 16 → j < 16 → idx i = idx j → i = j) (hval : ∀ i, val i < 2 ^ 32) (hmsk : ∀ i, msk i < 16)
    (hstep : ∀ v i, i < 16 → inv v →
      inv (step v i) ∧ mem (step v i) = if msk i = 0 then mem v else (wordMerge (mem v) sramCodec (idx i) (val i) (msk i)).1)
    (l : List Nat) (hl : l.Nodup) (h16 : ∀ i ∈ l, i < 16) (v : S) (hv : inv v) (hok : storeOk sramCodec (mem v) = true) :
    let u := l.foldl step v
    (∀ j, j < 16 → j ∉ l → wordRead (mem u) sramCodec (idx j) = wordRead (mem v) sramCodec (idx j))
      ∧ ∀ i ∈ l, msk i ≠ 0 → (msk i = 15 → wordRead (mem u) sramCodec (idx i) = .clean (val i))
        ∧ ∀ old, msk i ≠ 15 → wordRead (mem v) sramCodec (idx i) = .clean old →
          wordRead (mem u) sramCodec (idx i) = .clean (mergeBytes 4 old (val i) (msk i)) := by
  induction l generalizing v with
  | nil => exact ⟨fun _ _ _ => rfl, by simp⟩
  | cons a l ih =>
    rw [List.nodup_cons] at hl
    have ha := h16 a (List.mem_cons_self ..)
    obtain ⟨h1, h2⟩ := hstep v a ha hv
    have hok' : storeOk sramCodec (mem (step v a)) = true := by
      rw [h2]
      split
      · exact hok
      · exact wordMerge_ok _ _ _ _ _ hok
    have other (j : Nat) (hj : j < 16) (hne : j ≠ a) :
        wordRead (mem (step v a)) sramCodec (idx j) = wordRead (mem v) sramCodec (idx j) := by
      rw [h2]
      split
      · rfl
      · exact wordMerge_ne hok (fun h => hne (hinj _ _ hj ha h)) _ _
    obtain ⟨g1, g2⟩ := ih hl.2 (fun i hi => h16 i (List.mem_cons_of_mem _ hi)) (step v a) h1 hok'
    refine ⟨fun j hj hn => ?_, fun i hi hm => ?_⟩
    · rw [List.mem_cons, not_or] at hn
      exact (g1 j hj hn.2).trans (other j hj hn.1)
    · rcases List.mem_cons.1 hi with rfl | hi
      · obtain ⟨w1, w2⟩ := wordMerge_same (i := idx i) hok (hmsk i) (hval i)
        have hu := g1 i ha hl.1
        rw [List.foldl_cons, hu, h2, if_neg hm]
        exact ⟨w1, w2⟩
      · have hne : i ≠ a := fun h => hl.1 (h ▸ hi)
        obtain ⟨w1, w2⟩ := g2 i hi hm
        exact ⟨w1, fun old ho hold => w2 old ho ((other i (h16 i (List.mem_cons_of_mem _ hi)) hne).trans hold)⟩

end Fold

/-! ### Command slots (R261) -/

theorem slotPut_rising {m : List Host.Cell} (h : rising m) (i : Nat) (b : Byte) : rising (slotPut m i b) := by
  unfold slotPut
  split
  · exact rising_drop _ _ h
  · exact rising_put _ _ _ h

theorem slotByte_slotPut {m : List Host.Cell} (h : rising m) (i j : Nat) (b : Byte) :
    slotByte (slotPut m i b) j = if j = i then b else slotByte m j := by
  unfold slotByte slotPut
  by_cases hj : j = i
  · subst hj
    rw [if_pos rfl]
    split
    · rename_i hb
      rw [look, find_drop_same _ _ h, hb]
      rfl
    · exact look_put_same ..
  · rw [if_neg hj]
    split
    · rw [look, find_drop_ne _ _ _ h hj]
      rfl
    · exact look_put_ne _ _ _ _ _ hj

/-- The bytes of a slot write stand where its mask names them. -/
theorem slotWrite_bytes {m : List Host.Cell} (h : rising m) (off d mask : Nat) :
    rising (slotWrite m off d mask) ∧ ∀ j, slotByte (slotWrite m off d mask) j =
      if off ≤ j ∧ j < off + 4 ∧ mask.testBit (j - off) = true then byteOf d (j - off) else slotByte m j := by
  have fold (n : Nat) : rising ((List.range n).foldl (fun m i => if mask.testBit i then slotPut m (off + i) (byteOf d i) else m) m)
      ∧ ∀ j, slotByte ((List.range n).foldl (fun m i => if mask.testBit i then slotPut m (off + i) (byteOf d i) else m) m) j =
        if off ≤ j ∧ j < off + n ∧ mask.testBit (j - off) = true then byteOf d (j - off) else slotByte m j := by
    induction n with
    | zero => exact ⟨h, fun j => (if_neg (by omega)).symm⟩
    | succ n ih =>
      obtain ⟨h1, h2⟩ := ih
      rw [List.range_succ, List.foldl_concat]
      by_cases hb : mask.testBit n = true
      · rw [if_pos hb]
        refine ⟨slotPut_rising h1 _ _, fun j => ?_⟩
        rw [slotByte_slotPut h1, h2]
        by_cases hj : j = off + n
        · subst hj
          rw [if_pos rfl, Nat.add_sub_cancel_left, if_pos ⟨Nat.le_add_right .., by omega, hb⟩]
        · rw [if_neg hj]
          exact if_congr ⟨fun ⟨a, b, c⟩ => ⟨a, by omega, c⟩, fun ⟨a, b, c⟩ => ⟨a, by omega, c⟩⟩ rfl rfl
      · rw [if_neg hb]
        refine ⟨h1, fun j => (h2 j).trans (if_congr ⟨fun ⟨a, b, c⟩ => ⟨a, by omega, c⟩, fun ⟨a, b, c⟩ => ⟨a, ?_, c⟩⟩ rfl rfl)⟩
        by_contra hj
        have : j - off = n := by omega
        rw [this] at c
        exact hb c
  exact fold 4

theorem slotWord_congr {m m' : List Host.Cell} {off : Nat} (h : ∀ k, k < 4 → slotByte m (off + k) = slotByte m' (off + k)) :
    slotWord m off = slotWord m' off := by
  unfold slotWord
  congr 1
  exact List.map_congr_left fun k hk => h k (List.mem_range.1 hk)

theorem slotWord_byte (m : List Host.Cell) (off : Nat) {k : Nat} (hk : k < 4) : byteOf (slotWord m off) k = slotByte m (off + k) := by
  have e : slotWord m off = (slotByte m off).toNat + 256 * ((slotByte m (off + 1)).toNat
      + 256 * ((slotByte m (off + 2)).toNat + 256 * (slotByte m (off + 3)).toNat)) := by
    simp [slotWord, leNat, List.range_succ]
  have h0 := (slotByte m off).isLt
  have h1 := (slotByte m (off + 1)).isLt
  have h2 := (slotByte m (off + 2)).isLt
  have h3 := (slotByte m (off + 3)).isLt
  apply BitVec.eq_of_toNat_eq
  rw [byteOf_toNat, e]
  match k, hk with
  | 0, _ => simp only [Nat.add_zero]; omega
  | 1, _ => omega
  | 2, _ => omega
  | 3, _ => omega

theorem slotWord_slotWrite {m : List Host.Cell} (h : rising m) (off d mask : Nat) :
    slotWord (slotWrite m off d mask) off = mergeBytes 4 (slotWord m off) d mask := by
  unfold mergeBytes
  conv_lhs => unfold slotWord
  congr 1
  refine List.map_congr_left fun k hk => ?_
  have hk' := List.mem_range.1 hk
  rw [(slotWrite_bytes h off d mask).2, Nat.add_sub_cancel_left, slotWord_byte _ _ hk']
  by_cases hb : mask.testBit k = true
  · rw [if_pos ⟨Nat.le_add_right .., by omega, hb⟩, if_pos hb]
  · rw [if_neg (fun x => hb x.2.2), if_neg hb]

end Sys2Proof.Machine
end

section
/-! PROOF. The window, the control and the timeouts of a conservator (R260 to R268, R447): O39. -/

namespace Sys2Proof.Machine

/-! ### What a conservator's own work leaves -/

/-- Work of a conservator's units: its I-SRAM stays, its D-SRAM stays canonical, and no pseudo-channel changes. -/
structure CsvWorks (P : Nat) (t s : State) : Prop where
  beat : t.beat = s.beat
  pchs : t.pchs = s.pchs
  isram : (csvOf t P).isram = (csvOf s P).isram
  dsram : storeOk sramCodec (csvOf s P).dsram = true → storeOk sramCodec (csvOf t P).dsram = true

theorem CsvWorks.refl (P : Nat) (s : State) : CsvWorks P s s := ⟨rfl, rfl, rfl, id⟩

theorem CsvWorks.trans {P : Nat} {t u s : State} (a : CsvWorks P t u) (b : CsvWorks P u s) : CsvWorks P t s :=
  ⟨a.beat.trans b.beat, a.pchs.trans b.pchs, a.isram.trans b.isram, fun h => a.dsram (b.dsram h)⟩

theorem Mild.csvWorks {t s : State} (h : Mild t s) (P : Nat) : CsvWorks P t s := by
  have hc := h.csvOf P
  exact ⟨h.beat, h.pchs, by rw [hc], by rw [hc]; exact id⟩

/-- A conservator's words after lines or scores have landed. -/
def Lands (c' c : Csv) : Prop := c'.isram = c.isram ∧ (storeOk sramCodec c.dsram = true → storeOk sramCodec c'.dsram = true)

theorem Lands.refl (c : Csv) : Lands c c := ⟨rfl, id⟩

theorem Lands.trans {a b c : Csv} (h : Lands a b) (k : Lands b c) : Lands a c := ⟨h.1.trans k.1, fun x => h.2 (k.2 x)⟩

theorem Lands.foldl {α : Type} {f : Csv → α → Csv} (h : ∀ c x, Lands (f c x) c) (l : List α) (c : Csv) : Lands (l.foldl f c) c := by
  induction l generalizing c with
  | nil => exact .refl c
  | cons a l ih => exact (ih _).trans (h c a)

theorem dWrite_lands (c : Csv) (off d : Nat) : Lands (dWrite c off d) c := by
  unfold dWrite
  generalize (off - 0x10000) / 4 = i
  exact ⟨rfl, fun h => wordWrite_ok _ _ _ _ h⟩

theorem landLines_lands (c : Csv) (cc : Nat) : Lands (landLines c cc) c := by
  unfold landLines
  generalize List.range 8 = m
  dsimp only
  refine Lands.trans (b := _) ⟨rfl, id⟩ ((Lands.foldl (fun c x => ?_) _ _).trans (Lands.foldl (fun c x => dWrite_lands _ _ _) _ _))
  refine Lands.foldl (fun c x => ?_) _ _
  split
  · exact Lands.foldl (fun c x => dWrite_lands _ _ _) _ _
  · exact .refl _

theorem settleHalt_lands (c : Csv) (cc : Nat) : Lands (settleHalt c cc) c := by
  unfold settleHalt
  split
  · exact ⟨rfl, id⟩
  · exact .refl _

theorem setCsvF_csvWorks {P : Nat} (s : State) (f : Csv → Csv) (h : Lands (f (csvOf s P)) (csvOf s P)) : CsvWorks P (setCsvF s P f) s := by
  have hc : csvOf (setCsvF s P f) P = f (csvOf s P) := setCsv_self ..
  exact ⟨rfl, rfl, by rw [hc]; exact h.1, by rw [hc]; exact h.2⟩

theorem unitTrap_csvWorks (s : State) (P : Nat) (u : UnitWork) : CsvWorks P (unitTrap s P u) s := by
  refine setCsvF_csvWorks s _ ?_
  split <;> exact ⟨rfl, id⟩

theorem rowAt_mild (s : State) (P a t : Nat) : Mild (rowAt s P a t).1 s := dsramSpan_mild ..

theorem unitStep_csvWorks (s : State) (P : Nat) (u : UnitWork) (t : Nat) : CsvWorks P (unitStep s P u t) s := by
  have h0 := setCsvF_csvWorks (P := P) s (fun c => landLines c (u.issue + 1 + t)) (landLines_lands ..)
  unfold unitStep
  generalize setCsvF s P _ = v at h0 ⊢
  dsimp only
  have h1 := ((rowAt_mild v P u.rows t).csvWorks P).trans h0
  split
  case h_1 heq =>
    rw [heq] at h1
    exact (unitTrap_csvWorks ..).trans h1
  case h_2 v' k heq =>
    rw [heq] at h1
    split
    · exact (setCsvF_csvWorks _ _ ⟨rfl, id⟩).trans h1
    · have h2 := (rowAt_mild v' P u.second t).csvWorks P
      split
      case h_1 heq2 =>
        rw [heq2] at h2
        exact (unitTrap_csvWorks ..).trans (h2.trans h1)
      case h_2 heq2 =>
        rw [heq2] at h2
        exact (setCsvF_csvWorks _ _ ⟨rfl, id⟩).trans (h2.trans h1)

theorem runUnit_csvWorks (s : State) (P cc : Nat) : CsvWorks P (runUnit s P cc) s := by
  unfold runUnit
  split
  · exact .refl ..
  · refine foldl_inv (fun t => CsvWorks P t s) (fun t i h => ?_) _ _ (.refl ..)
    split
    · split
      · exact (unitStep_csvWorks ..).trans h
      · exact h
    · exact h

/-- The conservator at a window write's edge (R262). -/
def atEdge (s : State) (P E : Nat) : State := setCsvF (runUnit s P (E - 1)) P fun c => settleHalt (landLines c E) E

theorem atEdge_csvWorks (s : State) (P E : Nat) : CsvWorks P (atEdge s P E) s :=
  (setCsvF_csvWorks _ (fun c => settleHalt (landLines c E) E) ((settleHalt_lands ..).trans (landLines_lands ..))).trans (runUnit_csvWorks ..)

/-! ### One word of a window write (R261, R262) -/

section Word
variable {s : State} {P E off d mask : Nat}

theorem windowWriteWord_dsram (h : inDSram off = true) : ∃ held, csvOf (windowWriteWord s P E off d mask) P =
    { csvOf s P with dsram := (wordMerge (csvOf s P).dsram sramCodec ((off - 0x10000) / 4) d mask).1, windowBytes := held } := by
  have hi : inISram off = false := by
    simp only [inDSram, inISram, Bool.and_eq_true, decide_eq_true_eq, decide_eq_false_iff_not] at h ⊢
    omega
  unfold windowWriteWord
  dsimp only
  rw [if_neg (ne_true_of_eq_false hi), if_pos h]
  exact ⟨_, ((faultFinding_mild ..).csvOf P).trans (setCsv_self ..)⟩

theorem windowWriteWord_isram (h : inISram off = true) (hs : (csvOf s P).state ≠ .running) : csvOf (windowWriteWord s P E off d mask) P =
    { csvOf s P with isram := (wordMerge (csvOf s P).isram sramCodec (off / 4) d mask).1 } := by
  unfold windowWriteWord
  dsimp only
  rw [if_pos h]
  split
  case h_1 hr => exact absurd hr hs
  case h_2 => exact ((faultFinding_mild ..).csvOf P).trans (setCsv_self ..)

theorem windowWriteWord_held (h : inISram off = true) (hs : (csvOf s P).state = .running) :
    csvOf (windowWriteWord s P E off d mask) P = (csvOf s P).flag 0 E := by
  unfold windowWriteWord
  dsimp only
  rw [if_pos h, hs]
  exact setCsv_self ..

theorem windowWriteWord_cmds (h : inCmds off = true) : csvOf (windowWriteWord s P E off d mask) P =
    { csvOf s P with cmds := slotWrite (csvOf s P).cmds (off - 0x20000) d mask } := by
  have hi : inISram off = false ∧ inDSram off = false := by
    simp only [inDSram, inISram, inCmds, Bool.and_eq_true, Bool.and_eq_false_iff, decide_eq_true_eq, decide_eq_false_iff_not] at h ⊢
    omega
  unfold windowWriteWord
  dsimp only
  rw [if_neg (ne_true_of_eq_false hi.1), if_neg (ne_true_of_eq_false hi.2), if_pos h]
  exact setCsv_self ..

/-- A whole word written to a register. -/
theorem windowWriteWord_reg (h : inRegs off = true) (hd : d < 2 ^ 32) : windowWriteWord s P E off d 15 = csvRegWrite s P off d E := by
  have hi : inISram off = false ∧ inDSram off = false ∧ inCmds off = false := by
    simp only [inDSram, inISram, inCmds, inRegs, Bool.and_eq_true, Bool.and_eq_false_iff, decide_eq_true_eq, decide_eq_false_iff_not] at h ⊢
    omega
  unfold windowWriteWord
  dsimp only
  rw [if_neg (ne_true_of_eq_false hi.1), if_neg (ne_true_of_eq_false hi.2.1), if_neg (ne_true_of_eq_false hi.2.2), if_pos h]
  rw [show (15 : Nat) = 2 ^ 4 - 1 from rfl, mergeBytes_whole, Nat.mod_eq_of_lt hd]

end Word

/-! ### The words of a window write -/

/-- Word i of a window write, where its mask names a byte. -/
def writeStep (P E base : Nat) (val msk : Nat → Nat) (s : State) (i : Nat) : State :=
  if msk i = 0 then s else windowWriteWord s P E (base + 4 * i) (val i) (msk i)

/-- The words of a window write, one after another. -/
def writeWords (P E base : Nat) (val msk : Nat → Nat) (s : State) : State := (List.range 16).foldl (writeStep P E base val msk) s

section Words
variable {P E base : Nat} {val msk : Nat → Nat} {s : State}

theorem writeWords_single {k : Nat} (hk : k < 16) (hm : ∀ i, i < 16 → i ≠ k → msk i = 0) :
    writeWords P E base val msk s = writeStep P E base val msk s k := by
  have fold (n : Nat) (hn : n ≤ 16) :
      (List.range n).foldl (writeStep P E base val msk) s = if k < n then writeStep P E base val msk s k else s := by
    induction n with
    | zero => rfl
    | succ n ih =>
      rw [List.range_succ, List.foldl_concat, ih (by omega)]
      by_cases h : n = k
      · rw [if_neg (by omega), if_pos (by omega), h]
      · rw [writeStep, if_pos (hm n (by omega) h)]
        exact if_congr (by omega) rfl rfl
  rw [writeWords, fold 16 (Nat.le_refl _), if_pos hk]

variable (hval : ∀ i, val i < 2 ^ 32) (hmsk : ∀ i, msk i < 16)
include hval hmsk

theorem writeWords_dsram (hb : ∀ i, i < 16 → inDSram (base + 4 * i) = true) (hok : storeOk sramCodec (csvOf s P).dsram = true)
    {i : Nat} (hi : i < 16) (hn : msk i ≠ 0) :
    (msk i = 15 → sramWord (csvOf (writeWords P E base val msk s) P) (base + 4 * i) = .clean (val i))
      ∧ ∀ old, msk i ≠ 15 → sramWord (csvOf s P) (base + 4 * i) = .clean old →
        sramWord (csvOf (writeWords P E base val msk s) P) (base + 4 * i) = .clean (mergeBytes 4 old (val i) (msk i)) := by
  have hlo (i : Nat) (hi : i < 16) : 0x10000 ≤ base + 4 * i := by
    have := hb i hi
    simp only [inDSram, Bool.and_eq_true, decide_eq_true_eq] at this
    exact this.1
  have hword (c : Csv) : sramWord c (base + 4 * i) = wordRead c.dsram sramCodec ((base + 4 * i - 0x10000) / 4) := by
    rw [sramWord, if_neg]
    have := hlo i hi
    simp only [inISram, decide_eq_true_eq]
    omega
  obtain ⟨-, h⟩ := foldMerge (writeStep P E base val msk) (fun s => (csvOf s P).dsram) (fun _ => True) (fun i => (base + 4 * i - 0x10000) / 4)
    val msk (fun i j h1 h2 h => by have := hlo i h1; have := hlo j h2; omega) hval hmsk (fun v j hj _ => by
      refine ⟨trivial, ?_⟩
      unfold writeStep
      split
      · rfl
      · obtain ⟨held, he⟩ := windowWriteWord_dsram (s := v) (P := P) (E := E) (d := val j) (mask := msk j) (hb j hj)
        rw [he])
    (List.range 16) List.nodup_range (fun i hi => List.mem_range.1 hi) s trivial hok
  obtain ⟨h1, h2⟩ := h i (List.mem_range.2 hi) hn
  rw [hword, hword]
  exact ⟨h1, h2⟩

theorem writeWords_isram (hb : ∀ i, i < 16 → inISram (base + 4 * i) = true) (hs : (csvOf s P).state ≠ .running)
    (hok : storeOk sramCodec (csvOf s P).isram = true) {i : Nat} (hi : i < 16) (hn : msk i ≠ 0) (h4 : base % 4 = 0) :
    (msk i = 15 → sramWord (csvOf (writeWords P E base val msk s) P) (base + 4 * i) = .clean (val i))
      ∧ ∀ old, msk i ≠ 15 → sramWord (csvOf s P) (base + 4 * i) = .clean old →
        sramWord (csvOf (writeWords P E base val msk s) P) (base + 4 * i) = .clean (mergeBytes 4 old (val i) (msk i)) := by
  have hword (c : Csv) : sramWord c (base + 4 * i) = wordRead c.isram sramCodec ((base + 4 * i) / 4) := by
    rw [sramWord, if_pos (hb i hi)]
  obtain ⟨-, h⟩ := foldMerge (writeStep P E base val msk) (fun s => (csvOf s P).isram) (fun v => (csvOf v P).state ≠ .running)
    (fun i => (base + 4 * i) / 4) val msk (fun i j h1 h2 h => by omega) hval hmsk (fun v j hj hv => by
      unfold writeStep
      split
      · exact ⟨hv, rfl⟩
      · rw [windowWriteWord_isram (hb j hj) hv]
        exact ⟨hv, rfl⟩)
    (List.range 16) List.nodup_range (fun i hi => List.mem_range.1 hi) s hs hok
  obtain ⟨h1, h2⟩ := h i (List.mem_range.2 hi) hn
  rw [hword, hword]
  exact ⟨h1, h2⟩

omit hval hmsk

/-- The I-SRAM of a running hart stays, and the refusal is flagged (R262). -/
theorem writeWords_held (hb : ∀ i, i < 16 → inISram (base + 4 * i) = true) (hs : (csvOf s P).state = .running) {i : Nat} (hi : i < 16)
    (hn : msk i ≠ 0) : (csvOf (writeWords P E base val msk s) P).isram = (csvOf s P).isram
      ∧ (csvOf (writeWords P E base val msk s) P).status.getLsbD 0 = true := by
  have fold (l : List Nat) (h16 : ∀ i ∈ l, i < 16) (v : State) (hv : (csvOf v P).state = .running) :
      (csvOf (l.foldl (writeStep P E base val msk) v) P).isram = (csvOf v P).isram
        ∧ ((csvOf v P).status.getLsbD 0 = true ∨ i ∈ l → (csvOf (l.foldl (writeStep P E base val msk) v) P).status.getLsbD 0 = true) := by
    induction l generalizing v with
    | nil => exact ⟨rfl, fun h => h.resolve_right (by simp)⟩
    | cons a l ih =>
      have hstep : csvOf (writeStep P E base val msk v a) P = if msk a = 0 then csvOf v P else (csvOf v P).flag 0 E := by
        unfold writeStep
        split
        · rfl
        · exact windowWriteWord_held (hb a (h16 a (List.mem_cons_self ..))) hv
      have hflag : ((csvOf v P).flag 0 E).status.getLsbD 0 = true := by simp [Csv.flag, setBit]
      obtain ⟨g1, g2⟩ := ih (fun i hi => h16 i (List.mem_cons_of_mem _ hi)) (writeStep P E base val msk v a) (by
        rw [hstep]
        split <;> exact hv)
      refine ⟨g1.trans (by rw [hstep]; split <;> rfl), fun h => ?_⟩
      by_cases ha : i = a
      · exact g2 (.inl (by rw [hstep, if_neg (ha ▸ hn)]; exact hflag))
      · rcases h with h | h
        · refine g2 (.inl ?_)
          rw [hstep]
          split
          · exact h
          · exact hflag
        · exact g2 (.inr ((List.mem_cons.1 h).resolve_left ha))
  obtain ⟨h1, h2⟩ := fold (List.range 16) (fun i hi => List.mem_range.1 hi) s hs
  exact ⟨h1, h2 (.inr (List.mem_range.2 hi))⟩

theorem writeWords_cmds (hb : ∀ i, i < 16 → inCmds (base + 4 * i) = true) (hr : rising (csvOf s P).cmds) {i : Nat} (hi : i < 16)
    (hn : msk i ≠ 0) : slotWord (csvOf (writeWords P E base val msk s) P).cmds (base + 4 * i - 0x20000) =
      mergeBytes 4 (slotWord (csvOf s P).cmds (base + 4 * i - 0x20000)) (val i) (msk i) := by
  have hlo (i : Nat) (hi : i < 16) : 0x20000 ≤ base + 4 * i := by
    have := hb i hi
    simp only [inCmds, Bool.and_eq_true, decide_eq_true_eq] at this
    exact this.1
  have fold (l : List Nat) (hl : l.Nodup) (h16 : ∀ i ∈ l, i < 16) (v : State) (hv : rising (csvOf v P).cmds) :
      slotWord (csvOf (l.foldl (writeStep P E base val msk) v) P).cmds (base + 4 * i - 0x20000) =
        if i ∈ l then mergeBytes 4 (slotWord (csvOf v P).cmds (base + 4 * i - 0x20000)) (val i) (msk i)
        else slotWord (csvOf v P).cmds (base + 4 * i - 0x20000) := by
    induction l generalizing v with
    | nil => simp
    | cons a l ih =>
      rw [List.nodup_cons] at hl
      have ha := h16 a (List.mem_cons_self ..)
      have hstep : (csvOf (writeStep P E base val msk v a) P).cmds =
          if msk a = 0 then (csvOf v P).cmds else slotWrite (csvOf v P).cmds (base + 4 * a - 0x20000) (val a) (msk a) := by
        unfold writeStep
        split
        · rfl
        · rw [windowWriteWord_cmds (hb a ha)]
      have hv' : rising (csvOf (writeStep P E base val msk v a) P).cmds := by
        rw [hstep]
        split
        · exact hv
        · exact (slotWrite_bytes hv _ _ _).1
      rw [List.foldl_cons, ih hl.2 (fun i hi => h16 i (List.mem_cons_of_mem _ hi)) _ hv', hstep]
      by_cases hia : i = a
      · subst hia
        rw [if_neg hl.1, if_pos (List.mem_cons_self ..), if_neg hn, slotWord_slotWrite hv]
      · have hsame : slotWord (if msk a = 0 then (csvOf v P).cmds else slotWrite (csvOf v P).cmds (base + 4 * a - 0x20000) (val a) (msk a))
            (base + 4 * i - 0x20000) = slotWord (csvOf v P).cmds (base + 4 * i - 0x20000) := by
          split
          · rfl
          · refine slotWord_congr fun k hk => ?_
            have := hlo i hi
            have := hlo a ha
            rw [(slotWrite_bytes hv _ _ _).2, if_neg (by omega)]
        rw [hsame]
        simp [hia]
  rw [writeWords, fold (List.range 16) List.nodup_range (fun i hi => List.mem_range.1 hi) s hr, if_pos (List.mem_range.2 hi)]

end Words

end Sys2Proof.Machine
end

section
/-! PROOF. The registers of a conservator, its control and its timeouts (R261, R265, R266, R447): O39. -/

namespace Sys2Proof.Machine

/-! ### Registers (R265, R266) -/

section Registers
variable {s : State} {P E v : Nat}

theorem settleHalt_off {c : Csv} (h : c.haltAsked = false) (cc : Nat) : settleHalt c cc = c := by
  simp [settleHalt, h]

theorem csvStart_csv (ha : (csvOf s P).haltAsked = false) (hs : (csvOf s P).state ≠ .running) : csvStart s P =
    setCsv s P { csvOf s P with state := .running, cause := 0, headSince := now s,
                                pc := BitVec.ofNat 32 ((csvOf s P).pc.toNat % 2 ^ 15) } := by
  unfold csvStart setCsvF
  dsimp only
  rw [settleHalt_off ha]
  split
  case h_1 h => exact absurd h hs
  case h_2 => rfl

theorem csvHalt_csv (hs : (csvOf s P).state = .running) : csvHalt s P =
    setCsv s P (if (csvOf s P).free ≤ cclk s 0 then { csvOf s P with state := .halted, haltAsked := false }
      else { csvOf s P with haltAsked := true }) := by
  unfold csvHalt setCsvF
  dsimp only
  rw [hs]

theorem csvDoorbell_rings {n t : Nat} (hp : (csvOf s P).pending + n ≤ 16) : ∃ since, csvDoorbell s P n t = setCsv s P
    { csvOf s P with tail := (csvOf s P).tail + BitVec.ofNat 4 n, pending := (csvOf s P).pending + n, headSince := since } := by
  unfold csvDoorbell setCsvF
  dsimp only
  by_cases hn : n = 0
  · refine ⟨(csvOf s P).headSince, ?_⟩
    rw [if_pos hn, hn]
    simp
  · rw [if_neg hn, if_neg (by omega)]
    exact ⟨_, rfl⟩

theorem csvDoorbell_full {n t : Nat} (hn : n ≠ 0) (hp : 16 < (csvOf s P).pending + n) :
    csvDoorbell s P n t = setCsv s P ((csvOf s P).flag 1 t) := by
  unfold csvDoorbell setCsvF
  dsimp only
  rw [if_neg hn, if_pos (.inr hp)]

end Registers

/-! ### A window's access (R262) -/

/-- Word i of a request's data, and the bytes that its mask names. -/
def Req.word (r : Req) (i : Nat) : Nat := bits r.data.toNat (32 * i) 32
def Req.named (r : Req) (i : Nat) : Nat := bits r.mask.toNat (4 * i) 4

theorem Req.word_lt (r : Req) (i : Nat) : r.word i < 2 ^ 32 := Nat.mod_lt _ (by decide)
theorem Req.named_lt (r : Req) (i : Nat) : r.named i < 16 := Nat.mod_lt _ (by decide)

theorem named_whole {r : Req} {k : Nat} (hk : k < 16) (h : r.mask.toNat = 15 * 2 ^ (4 * k)) :
    r.named k = 15 ∧ ∀ i, i < 16 → i ≠ k → r.named i = 0 := by
  have key : ∀ k, k < 16 → bits (15 * 2 ^ (4 * k)) (4 * k) 4 = 15 ∧ ∀ i, i < 16 → i ≠ k → bits (15 * 2 ^ (4 * k)) (4 * i) 4 = 0 := by
    decide
  unfold Req.named
  rw [h]
  exact key k hk

theorem answer_find (s : State) (n : Nat) (r : Req) (c : Nat) :
    ∃ r', find (answer s n r c).net n = some r' ∧ r'.stage = .answered (c + 24 * r.hops) := ⟨_, find_put_same .., rfl⟩

theorem readNow_answered (s : State) (P n : Nat) (r : Req) (base pc : Nat) :
    ∃ r', find (readNow s P n r base pc).net n = some r' ∧ r'.stage = .answered (pc + 24 * r.hops) := ⟨_, find_put_same .., rfl⟩

theorem writeNow_eq (s : State) (P n : Nat) (r : Req) (base t : Nat) :
    let E := cclkOfPclk (t + 20)
    let v := atEdge s P E
    writeNow s P n r base t = answer (if (r.skip || !(pchOf v P).nbMode) = true then v else writeWords P E base r.word r.named v) n r (t + 32) := rfl

theorem atEdge_pch (s : State) (P E : Nat) : pchOf (atEdge s P E) P = pchOf s P := by
  rw [pchOf, (atEdge_csvWorks s P E).pchs]
  rfl

theorem writeNow_csv (s : State) (P n : Nat) (r : Req) (base t : Nat) (hm : (pchOf s P).nbMode = true) (hs : r.skip = false) :
    csvOf (writeNow s P n r base t) P =
      csvOf (writeWords P (cclkOfPclk (t + 20)) base r.word r.named (atEdge s P (cclkOfPclk (t + 20)))) P := by
  rw [writeNow_eq]
  rw [atEdge_pch, hm, hs]
  rfl

theorem writeNow_outside (s : State) (P n : Nat) (r : Req) (base t : Nat) (hm : (pchOf s P).nbMode = false) :
    csvOf (writeNow s P n r base t) P = csvOf (atEdge s P (cclkOfPclk (t + 20))) P := by
  rw [writeNow_eq]
  rw [atEdge_pch, hm, Bool.not_false, Bool.or_true]
  rfl

/-- A whole register word of a window write. -/
theorem writeWords_reg {v : State} {P E k : Nat} {r : Req} (hk : k < 11) (h : r.mask.toNat = 15 * 2 ^ (4 * k)) :
    writeWords P E 0x21000 r.word r.named v = csvRegWrite v P (0x21000 + 4 * k) (r.word k) E := by
  obtain ⟨h1, h2⟩ := named_whole (by omega) h
  have hr : inRegs (0x21000 + 4 * k) = true := by
    simp only [inRegs, Bool.and_eq_true, decide_eq_true_eq]
    omega
  rw [writeWords_single (by omega) h2, writeStep, h1, if_neg (by decide), windowWriteWord_reg hr (r.word_lt k)]

/-- The registers that a window write of a whole word changes (R265, R266). -/
theorem writeWords_regs {s v : State} {P E : Nat} {r : Req} (hb : v.beat = s.beat) (ha : (csvOf v P).haltAsked = false) :
    let c0 := csvOf v P
    let c := csvOf (writeWords P E 0x21000 r.word r.named v) P
    let whole := fun i => r.mask.toNat = 15 * 2 ^ (4 * i)
    (whole 0 → r.word 0 % 4 = 1 → c0.state ≠ .running → c =
        { c0 with state := .running, cause := 0, headSince := now s, pc := BitVec.ofNat 32 (c0.pc.toNat % 2 ^ 15) })
    ∧ (whole 0 → r.word 0 % 4 = 2 → c0.state = .running → c =
        if c0.free ≤ cclk s 0 then { c0 with state := .halted } else { c0 with haltAsked := true })
    ∧ (whole 1 → c = if c0.state = .running then c0 else { c0 with pc := BitVec.ofNat 32 (r.word 1 % 2 ^ 15) })
    ∧ (whole 2 → c = { c0 with status := c0.status &&& ~~~(BitVec.ofNat 2 (bits (r.word 2) 9 2) &&& ~~~setIn c0.setAt 0 2 E) })
    ∧ (whole 3 → c = { c0 with faultBits := c0.faultBits &&& ~~~(BitVec.ofNat 3 (r.word 3) &&& ~~~setIn c0.setAt 16 3 E) })
    ∧ (whole 5 → r.word 5 % 32 ≠ 0 → c0.pending + r.word 5 % 32 ≤ 16 →
        c.pending = c0.pending + r.word 5 % 32 ∧ c.tail = c0.tail + BitVec.ofNat 4 (r.word 5 % 32) ∧ c.status = c0.status)
    ∧ (whole 5 → 16 < c0.pending + r.word 5 % 32 → r.word 5 % 32 ≠ 0 → c = c0.flag 1 E) := by
  intro c0 c whole
  have reg {k : Nat} (hk : k < 11) (h : whole k) : c = csvOf (csvRegWrite v P (0x21000 + 4 * k) (r.word k) E) P :=
    congrArg (csvOf · P) (writeWords_reg hk h)
  have hnow : now v = now s := by rw [now, hb]; rfl
  refine ⟨fun h hv hs => ?_, fun h hv hs => ?_, fun h => ?_, fun h => ?_, fun h => ?_, fun h hv hp => ?_, fun h hp hv => ?_⟩
  · rw [reg (by decide) h]
    change csvOf (if r.word 0 % 4 = 1 then csvStart v P else _) P = _
    rw [if_pos hv, csvStart_csv ha hs, setCsv_self, hnow]
  · rw [reg (by decide) h]
    change csvOf (if r.word 0 % 4 = 1 then _ else if r.word 0 % 4 = 2 then csvHalt v P else v) P = _
    rw [if_neg (by omega), if_pos hv, csvHalt_csv hs, setCsv_self, cclk, cclk, hnow]
    exact if_congr Iff.rfl (congrArg (fun b => { c0 with state := .halted, haltAsked := b }) ha.symm) rfl
  · rw [reg (by decide) h]
    change csvOf (setCsvF v P _) P = _
    rw [setCsvF, setCsv_self]
    split
    case h_1 hr => exact (if_pos hr).symm
    case h_2 hr => exact (if_neg hr).symm
  · rw [reg (by decide) h]
    exact setCsv_self ..
  · rw [reg (by decide) h]
    exact setCsv_self ..
  · rw [reg (by decide) h]
    change (csvOf (csvDoorbell v P (r.word 5 % 32) E) P).pending = _ ∧ (csvOf (csvDoorbell v P (r.word 5 % 32) E) P).tail = _
      ∧ (csvOf (csvDoorbell v P (r.word 5 % 32) E) P).status = _
    obtain ⟨since, he⟩ := csvDoorbell_rings (s := v) (P := P) (t := E) hp
    rw [he, setCsv_self]
    exact ⟨rfl, rfl, rfl⟩
  · rw [reg (by decide) h]
    change csvOf (csvDoorbell v P (r.word 5 % 32) E) P = _
    rw [csvDoorbell_full hv hp, setCsv_self]

section Region
variable {base i k : Nat} (hb : base % 64 = 0) (hi : i < 16) (hk : k < 16)
include hb hi hk

/-- The words of a 64 B block of the window lie in one of its regions (R261). -/
theorem inDSram_block (h : inDSram (base + 4 * i) = true) : inDSram (base + 4 * k) = true := by
  simp only [inDSram, Bool.and_eq_true, decide_eq_true_eq] at h ⊢
  omega

theorem inISram_block (h : inISram (base + 4 * i) = true) : inISram (base + 4 * k) = true := by
  simp only [inISram, decide_eq_true_eq] at h ⊢
  omega

theorem inCmds_block (h : inCmds (base + 4 * i) = true) : inCmds (base + 4 * k) = true := by
  simp only [inCmds, Bool.and_eq_true, decide_eq_true_eq] at h ⊢
  omega

end Region

/-- The words that a window write leaves in near-bank mode (R261, R262). -/
theorem writeNow_words {s : State} {P n base t : Nat} {r : Req} (hbase : base % 64 = 0) (hm : (pchOf s P).nbMode = true) (hs : r.skip = false)
    {i : Nat} (hi : i < 16) (hne : r.named i ≠ 0) :
    let c0 := csvOf (atEdge s P (cclkOfPclk (t + 20))) P
    let c := csvOf (writeNow s P n r base t) P
    let a := base + 4 * i
    let merged := (r.named i = 15 → sramWord c a = .clean (r.word i))
      ∧ ∀ old, r.named i ≠ 15 → sramWord c0 a = .clean old → sramWord c a = .clean (mergeBytes 4 old (r.word i) (r.named i))
    (inDSram a = true → storeOk sramCodec (csvOf s P).dsram = true → merged)
      ∧ (inISram a = true → c0.state ≠ .running → storeOk sramCodec (csvOf s P).isram = true → merged)
      ∧ (inISram a = true → c0.state = .running → c.isram = c0.isram ∧ c.status.getLsbD 0 = true)
      ∧ (inCmds a = true → rising c0.cmds →
          slotWord c.cmds (a - 0x20000) = mergeBytes 4 (slotWord c0.cmds (a - 0x20000)) (r.word i) (r.named i)) := by
  have hw := atEdge_csvWorks s P (cclkOfPclk (t + 20))
  rw [writeNow_csv _ _ _ _ _ _ hm hs]
  generalize atEdge s P (cclkOfPclk (t + 20)) = v at hw ⊢
  refine ⟨fun hin hok => ?_, fun hin hst hok => ?_, fun hin hst => ?_, fun hin hp => ?_⟩
  · exact writeWords_dsram r.word_lt r.named_lt (fun k hk => inDSram_block hbase hi hk hin) (hw.dsram hok) hi hne
  · exact writeWords_isram r.word_lt r.named_lt (fun k hk => inISram_block hbase hi hk hin) hst (by rw [hw.isram]; exact hok) hi hne (by omega)
  · exact writeWords_held (fun k hk => inISram_block hbase hi hk hin) hst hi hne
  · exact writeWords_cmds (fun k hk => inCmds_block hbase hi hk hin) hp hi hne

/-- The registers that a window write leaves (R265, R266). -/
theorem writeNow_regs {s : State} {P n t : Nat} {r : Req} (hm : (pchOf s P).nbMode = true) (hs : r.skip = false)
    (ha : (csvOf (atEdge s P (cclkOfPclk (t + 20))) P).haltAsked = false) :
    let E := cclkOfPclk (t + 20)
    let c0 := csvOf (atEdge s P E) P
    let c := csvOf (writeNow s P n r 0x21000 t) P
    let whole := fun i => r.mask.toNat = 15 * 2 ^ (4 * i)
    (whole 0 → r.word 0 % 4 = 1 → c0.state ≠ .running → c =
        { c0 with state := .running, cause := 0, headSince := now s, pc := BitVec.ofNat 32 (c0.pc.toNat % 2 ^ 15) })
    ∧ (whole 0 → r.word 0 % 4 = 2 → c0.state = .running → c =
        if c0.free ≤ cclk s 0 then { c0 with state := .halted } else { c0 with haltAsked := true })
    ∧ (whole 1 → c = if c0.state = .running then c0 else { c0 with pc := BitVec.ofNat 32 (r.word 1 % 2 ^ 15) })
    ∧ (whole 2 → c = { c0 with status := c0.status &&& ~~~(BitVec.ofNat 2 (bits (r.word 2) 9 2) &&& ~~~setIn c0.setAt 0 2 E) })
    ∧ (whole 3 → c = { c0 with faultBits := c0.faultBits &&& ~~~(BitVec.ofNat 3 (r.word 3) &&& ~~~setIn c0.setAt 16 3 E) })
    ∧ (whole 5 → r.word 5 % 32 ≠ 0 → c0.pending + r.word 5 % 32 ≤ 16 →
        c.pending = c0.pending + r.word 5 % 32 ∧ c.tail = c0.tail + BitVec.ofNat 4 (r.word 5 % 32) ∧ c.status = c0.status)
    ∧ (whole 5 → 16 < c0.pending + r.word 5 % 32 → r.word 5 % 32 ≠ 0 → c = c0.flag 1 E) := by
  rw [writeNow_csv _ _ _ _ _ _ hm hs]
  exact writeWords_regs (atEdge_csvWorks s P _).beat ha

section Window
variable {s : State} {n P off t : Nat} {j : Fin 5} {r : Req} (hr : s.sup.inReset = false) (hn : find s.net n = some r)
  (hsp : spaceOf s r.addr = .window P off) (hd : inDomainReset s 3 (P / 64) = false)
include hr hn hsp hd

omit hr hd in
theorem windowAt_found (f : Req → Nat → Nat → Nat → Option Nat → Result) {w : Option Nat} (hst : r.stage = .window t w) :
    windowAt s n f = f r P (off / 64 * 64) t w := by
  simp only [windowAt, hn, hst, hsp]

theorem nbWindowRead_acts (hst : r.stage = .window t none) (hk : r.kind = .load) (hp : pclk s j.val = t + 40) :
    exec (.nbWindowRead n j) s = .next (readNow s P n r (off / 64 * 64) (t + 40)) :=
  (windowAt_found hn hsp _ hst : execNbWindowRead n j s = _).trans (onlyIf_on (by simp [live_of hr, isLoad, hk, hd, hp]))

theorem nbWindowWrite_acts (hst : r.stage = .window t none) (hk : r.kind = .store) (hp : pclk s j.val = t + 20) :
    exec (.nbWindowWrite n j) s = .next (writeNow s P n r (off / 64 * 64) t) :=
  (windowAt_found hn hsp _ hst : execNbWindowWrite n j s = _).trans (onlyIf_on (by simp [live_of hr, isLoad, hk, hd, hp]))

theorem nbWindowAccessAfterWake_reads {b : Nat} (hst : r.stage = .window t (some b)) (hon : domOn s .conservator P = true) (hk : r.kind = .load)
    (hp : pclk s j.val = t + 40) : exec (.nbWindowAccessAfterWake n j) s = .next (readNow s P n r (off / 64 * 64) (t + 40)) :=
  (windowAt_found hn hsp _ hst : execNbWindowAccessAfterWake n j s = _).trans
    ((if_pos (by rw [isLoad, hk])).trans (onlyIf_on (by simp [live_of hr, hon, hd, hp])))

theorem nbWindowAccessAfterWake_writes {b : Nat} (hst : r.stage = .window t (some b)) (hon : domOn s .conservator P = true) (hk : r.kind = .store)
    (hp : pclk s j.val = t + 20) : exec (.nbWindowAccessAfterWake n j) s = .next (writeNow s P n r (off / 64 * 64) t) :=
  (windowAt_found hn hsp _ hst : execNbWindowAccessAfterWake n j s = _).trans
    ((if_neg (by simp [isLoad, hk])).trans (onlyIf_on (by simp [live_of hr, hon, hd, hp])))

end Window

/-- A conservator that switches off keeps its SRAMs (R265). -/
theorem switchOff_keeps (s : State) (P : Nat) :
    let t := setDom (setCsv s P { csvOf s P with switchOff := false }) .conservator P {}
    domOn t .conservator P = false ∧ (csvOf t P).dsram = (csvOf s P).dsram ∧ (csvOf t P).isram = (csvOf s P).isram ∧ t.dram = s.dram := by
  intro t
  have hc : csvOf t P = { csvOf s P with switchOff := false } := setCsv_self ..
  have hd : domOf t .conservator P = {} := domOf_setDom _ (by decide) _ _
  exact ⟨by rw [domOn, hd]; rfl, by rw [hc], by rw [hc], rfl⟩

/-- Settles O39: the window's words and registers, and each control command. -/
theorem conservatorWindowAndControl : Obligations.ConservatorWindowAndControl := by
  refine ⟨fun s n P off j r t hr hn hsp hd => ?window, fun s pch count hr => ?control⟩
  case window =>
    intro base E c0 named value whole reg read written
    have hbase : base % 64 = 0 := Nat.mul_mod_left ..
    have hread : read (readNow s P n r base (t + 40)) := ⟨rfl, readNow_answered ..⟩
    have hwritten : written (writeNow s P n r base t) := by
      refine ⟨rfl, answer_find .., fun hm => writeNow_outside _ _ _ _ _ _ hm, fun hm hs => ⟨fun ha => ?_, fun i hi hne => ?_⟩⟩
      · have hregs := writeNow_regs (n := n) hm hs ha
        by_cases hb : base = 0x21000
        · rw [hb]
          obtain ⟨h1, h2, h3, h4, h5, h6, h7⟩ := hregs
          exact ⟨fun _ => h1, fun _ => h2, fun _ => h3, fun _ => h4, fun _ => h5, fun _ => h6, fun _ => h7⟩
        · exact ⟨fun h => absurd h hb, fun h => absurd h hb, fun h => absurd h hb, fun h => absurd h hb, fun h => absurd h hb,
            fun h => absurd h hb, fun h => absurd h hb⟩
      · exact writeNow_words (n := n) hbase hm hs hi hne
    exact ⟨fun hst hk hp => ⟨_, nbWindowRead_acts hr hn hsp hd hst hk hp, hread⟩,
      fun hst hk hp => ⟨_, nbWindowWrite_acts hr hn hsp hd hst hk hp, hwritten⟩,
      fun b hst hon hk hp => ⟨_, nbWindowAccessAfterWake_reads hr hn hsp hd hst hon hk hp, hread⟩,
      fun b hst hon hk hp => ⟨_, nbWindowAccessAfterWake_writes hr hn hsp hd hst hon hk hp, hwritten⟩⟩
  case control =>
    intro P c hon hd
    have hl : live s = true := live_of hr
    have reached (hm : (pchOf s P).nbMode = true) : csvReached s P = true := by
      simp [csvReached, hl, hon, hm, hd]
    refine ⟨fun hm hs ha => ?start, fun hm hs => ⟨fun hf => ?halt, fun hf => ?haltAsked⟩, fun hm hp => ?rings, fun hm hp hc => ?full,
      fun ho hb => ?off, fun hs hp hh hn => ?timeout⟩
    case start => exact (onlyIf_on (reached hm) : execCsvStart pch s = _).trans (congrArg _ (csvStart_csv ha hs))
    case halt =>
      refine (onlyIf_on (reached hm) : execCsvHalt pch s = _).trans (congrArg _ ((csvHalt_csv hs).trans ?_))
      rw [if_pos hf]
    case haltAsked =>
      refine (onlyIf_on (reached hm) : execCsvHalt pch s = _).trans (congrArg _ ((csvHalt_csv hs).trans ?_))
      rw [if_neg (Nat.not_le.2 hf)]
    case rings =>
      obtain ⟨since, he⟩ := csvDoorbell_rings (s := s) (P := P) (t := cclk s 0) hp
      refine ⟨_, (onlyIf_on (reached hm) : execCsvDoorbell pch count s = _).trans (congrArg _ he), ?_⟩
      rw [setCsv_self, BitVec.ofNat_toNat]
      exact ⟨rfl, rfl, rfl, rfl, rfl⟩
    case full =>
      have hn : count.toNat ≠ 0 := fun h => hc (BitVec.eq_of_toNat_eq h)
      exact (onlyIf_on (reached hm) : execCsvDoorbell pch count s = _).trans (congrArg _ (csvDoorbell_full hn hp))
    case off =>
      exact ⟨_, (onlyIf_on (by simp [hl, hon, ho, hb, c, P]) : execConservatorSwitchOff pch s = _), switchOff_keeps s P⟩
    case timeout =>
      refine ⟨_, (onlyIf_on ?_ : execConservatorCommandTimeout pch s = _), resetFor_began _ _ _ _ hd⟩
      simp only [c, P] at hs hp hh hn hon
      simp [hl, hon, hs, hp, hh, hn]

end Sys2Proof.Machine
end

section
/-! PROOF. The engines of the stacks: descriptors, reads, writes and their ends (R278 to R306): O44, O45, O46. -/

namespace Sys2Proof.Machine

/-! ### An engine's contexts -/

section Rules
variable (s : State) (e x : Nat)

theorem engOf_setCtx (c : EngCtx) : engOf (setCtx s e x c) e = { engOf s e with ctx := put (engOf s e).ctx x c } := setEng_self ..

theorem ctxOf_setCtx (c : EngCtx) : ctxOf (setCtx s e x c) e x = some c := by
  rw [ctxOf, engOf_setCtx]
  exact find_put_same ..

/-- What names engines by their registers only leaves the contexts. -/
theorem ctxOf_setEng {g : Engine} (h : g.ctx = (engOf s e).ctx) : ctxOf (setEng s e g) e x = ctxOf s e x := by
  rw [ctxOf, setEng_self, h]
  rfl

theorem Mild.engOf {t s : State} (m : Mild t s) (e : Nat) : engOf t e = Machine.engOf s e := by
  rw [Machine.engOf, Machine.engOf, m.rest]

theorem Mild.ctxOf {t s : State} (m : Mild t s) (e x : Nat) : ctxOf t e x = Machine.ctxOf s e x := by
  rw [Machine.ctxOf, Machine.ctxOf, m.engOf]

theorem raiseFault_parts (p : Nat) (f : FaultRec) : raiseFault s p f = { s with parts := (raiseFault s p f).parts } := by
  unfold raiseFault
  split <;> rfl

theorem recordCause_keeps (g : Engine) (x cause : Nat) (tag : BitVec 16) (b : Nat) :
    (recordCause g x cause tag b).ctx = g.ctx ∧ (recordCause g x cause tag b).queue = g.queue
      ∧ (recordCause g x cause tag b).done = g.done := by
  unfold recordCause
  dsimp only
  generalize hf : g.flag _ b = h
  have hk : h.ctx = g.ctx ∧ h.queue = g.queue ∧ h.done = g.done := by rw [← hf]; exact ⟨rfl, rfl, rfl⟩
  split <;> exact hk

theorem engineComplete_mild (j : EngJob) (status cause beat pc : Nat) : Mild (engineComplete s j status cause beat pc) s := by
  unfold engineComplete
  split
  · exact .refl s
  · split
    · exact postEntryAt_mild ..
    · exact .refl s

/-- Which partitions a reset faults rests on no register of an engine (R447). -/
theorem resetFaults_registers (k : DomainKind) (i p : Nat) {g : Engine} (hc : g.ctx = (engOf s e).ctx) (hq : g.queue = (engOf s e).queue) :
    resetFaults (setEng s e g) k i p = resetFaults s k i p := by
  have hd : holdsDescriptor (setEng s e g) p i = holdsDescriptor s p i := by
    unfold holdsDescriptor
    congr 1
    funext n
    rw [engOf_setEng]
    split
    next h =>
      dsimp only
      rw [hc, hq, h]
    next => rfl
  unfold resetFaults
  rw [hd]
  rfl

/-- A descriptor's refusal records its cause in the context and changes no queue and no request (R281). -/
theorem refuse_keeps (cause pc : Nat) (c : EngCtx) :
    let t := refuse s e x cause pc c
    ctxOf t e x = some { c with refused := some cause, refusedAt := pc } ∧ (engOf t e).queue = (engOf s e).queue ∧ t.net = s.net := by
  have key : Mild (refuse s e x cause pc c) (setCtx (setEng s e (recordCause (engOf s e) x cause c.job.tag (now s))) e x
        { c with refused := some cause, refusedAt := pc }) ∧ (refuse s e x cause pc c).net = s.net := by
    unfold refuse
    dsimp only
    split
    · exact ⟨raiseFault_mild .., by rw [raiseFault_parts]; rfl⟩
    · exact ⟨.refl _, rfl⟩
  obtain ⟨m, hn⟩ := key
  refine ⟨(m.ctxOf e x).trans (ctxOf_setCtx ..), ?_, hn⟩
  rw [m.engOf, engOf_setCtx, setEng_self]
  exact (recordCause_keeps ..).2.1

end Rules

/-! ### The take of a descriptor (R278, R279) -/

section Take
variable {s : State} {e x pc : Nat} {job : EngJob}

/-- A taken descriptor stands in its context, its first address 4 PCLK later, with its refusal if it has one. -/
theorem takeDesc_takes :
    let t := takeDesc s e x pc job
    (∃ c, ctxOf t e x = some c ∧ c.job = job ∧ c.take = pc ∧ c.start = pc + 4 ∧ c.reads = 0 ∧ c.writes = 0
        ∧ c.refused = if descCause s e job = 0 then none else some (descCause s e job))
      ∧ (engOf t e).queue = (engOf s e).queue.erase (x, job) := by
  intro t
  have ht : t = takeDesc s e x pc job := rfl
  clear_value t
  unfold takeDesc at ht
  dsimp only at ht
  generalize hv : (if x = 8 then setEng s e _ else useSlot (setEng s e _) 4 e pc) = v at ht
  have hq : (engOf v e).queue = (engOf s e).queue.erase (x, job) := by
    rw [← hv]
    split
    · rw [setEng_self]
    · exact congrArg Engine.queue (setEng_self s e _)
  have hd : descCause (setCtx v e x { job := job, take := pc, start := pc + 4 }) e job = descCause s e job := by
    rw [← hv]
    split <;> rfl
  rw [hd] at ht
  by_cases hc : descCause s e job = 0
  · rw [if_pos hc] at ht
    rw [ht, engOf_setCtx, if_pos hc]
    exact ⟨⟨_, ctxOf_setCtx .., rfl, rfl, rfl, rfl, rfl, rfl⟩, hq⟩
  · rw [if_neg hc] at ht
    obtain ⟨h1, h2, -⟩ := refuse_keeps (setCtx v e x { job := job, take := pc, start := pc + 4 }) e x (descCause s e job) pc
      { job := job, take := pc, start := pc + 4 }
    rw [ht, h2, engOf_setCtx, if_neg hc]
    exact ⟨⟨_, h1, rfl, rfl, rfl, rfl, rfl, rfl⟩, hq⟩

/-- A domain that a request meets and that is not on is waking afterwards. -/
theorem demandWake_waking {k : SwKind} {i : Nat} (hk : k ≠ .wing) (h : domOn s k i = false) :
    (domOf (demandWake s k i) k i).state = .waking := by
  unfold demandWake
  dsimp only
  split
  next ho =>
    have : domOf (demandNotice (setDom s k i ⟨.waking, now s + wakeBeats k⟩) k i) k i =
        domOf (setDom s k i ⟨.waking, now s + wakeBeats k⟩) k i := by cases k <;> rfl
    rw [this, domOf_setDom s hk]
  next ho =>
    cases hs : (domOf s k i).state
    · exact absurd hs ho
    · rfl
    · simp [domOn, hs] at h

theorem demandWake_engines (s : State) (k : SwKind) (i : Nat) : (demandWake s k i).engines = s.engines := by
  unfold demandWake
  dsimp only
  split
  · cases k <;> rfl
  · rfl

theorem meetOff_waits (h : domOn s .engine e = false) (hc : ctxOf s e x = none) :
    (domOf (meetOff s e x job) .engine e).state = .waking ∧ ctxOf (meetOff s e x job) e x = none := by
  have he : engOf (demandWake s .engine e) e = engOf s e := by rw [engOf, demandWake_engines]; rfl
  refine ⟨demandWake_waking (by decide) h, (ctxOf_setEng _ e x (g := _) ?_).trans (Eq.trans ?_ hc)⟩
  · rfl
  · rw [ctxOf, he]; rfl

theorem takeOp_takes {op : Nat} {eng : Fin 48} {ctx : Fin 9} {j : Fin 5} (hr : s.sup.inReset = false)
    (hd : inDomainReset s 2 (eng.val / 6) = false) :
    let s1 := if ctx.val = 8 then dueEntry s eng.val (pclk s j.val) else s
    ctxOf s1 eng.val ctx.val = none → queued s1 eng.val ctx.val (pclk s j.val) = some job → dOp job.desc = op →
      (domOn s1 .engine eng.val = true → takeFrom s1 eng.val ctx.val job ≤ pclk s j.val →
        (ctx.val = 8 ∨ hasIntake s1 eng.val ctx.val (pclk s j.val) = true) →
          takeOp op eng ctx j s = .next (takeDesc s1 eng.val ctx.val (pclk s j.val) job))
      ∧ (domOn s1 .engine eng.val = false → takeOp op eng ctx j s = .next (meetOff s1 eng.val ctx.val job)) := by
  intro s1 hc hq ho
  have key : takeOp op eng ctx j s = if !domOn s1 .engine eng.val then .next (meetOff s1 eng.val ctx.val job)
      else onlyIf (takeFrom s1 eng.val ctx.val job ≤ pclk s j.val && (ctx.val = 8 || hasIntake s1 eng.val ctx.val (pclk s j.val))) s
        (takeDesc s1 eng.val ctx.val (pclk s j.val) job) := by
    change (match ctxOf s1 eng.val ctx.val, queued s1 eng.val ctx.val (pclk s j.val) with
      | none, some job => _
      | _, _ => _) = _
    rw [hc, hq]
    exact if_neg (by simp [live_of hr, ho, hd])
  rw [key]
  refine ⟨fun hon ht hi => ?_, fun hoff => by rw [hoff]; rfl⟩
  rw [hon]
  exact onlyIf_on (by simp [ht, hi])

end Take

/-- Settles O44: the seven op commands are one take; a refusal and a wake keep the descriptor's engine. -/
theorem enginesTakeDescriptors : Obligations.EnginesTakeDescriptors := by
  intro s eng ctx j job hr e x pc s1 hd hc hq
  have hs1 : s1.shelf = s.shelf ∧ s1.clm = s.clm ∧ s1.dram = s.dram := by
    obtain ⟨-, -, -, -, h1, h2, h3, -⟩ := dueEntry_calm s e pc
    simp only [s1]
    split
    · exact ⟨h1, h2, h3⟩
    · exact ⟨rfl, rfl, rfl⟩
  obtain ⟨k1, k2, k3⟩ := hs1
  refine ⟨fun hon ht hi => ?_, fun hoff ho => ?_⟩
  · have op {n : Nat} (h : dOp job.desc = n) : takeOp n eng ctx j s = .next (takeDesc s1 e x pc job) :=
      (takeOp_takes hr hd hc hq h).1 hon ht hi
    obtain ⟨-, -, -, -, h1, h2, h3, -⟩ := takeDesc_calm s1 e x pc job
    obtain ⟨hctx, hqueue⟩ := takeDesc_takes (s := s1) (e := e) (x := x) (pc := pc) (job := job)
    exact ⟨op, op, op, op, op, op, op, hctx, hqueue, h1.trans k1, h2.trans k2, h3.trans k3⟩
  · obtain ⟨-, -, -, -, h1, h2, h3, -⟩ := meetOff_calm s1 e x job
    obtain ⟨hw, hn⟩ := meetOff_waits (job := job) hoff hc
    exact ⟨_, (takeOp_takes hr hd hc hq ho).2 hoff, hw, hn, h1.trans k1, h2.trans k2, h3.trans k3⟩

/-! ### Timeouts and the status register (R281, R305, R306) -/

section Ends
variable {s : State} {eng : Fin 48} {ctx : Fin 9} {c : EngCtx} (hr : s.sup.inReset = false) (hc : ctxOf s eng.val ctx.val = some c)
include hr hc

/-- A descriptor past its time ends with cause 9, and its stack or host port resets (R306, R447). -/
theorem engineDescriptorTimeout_ends (hx : ctx.val ≠ 8) (hdue : c.take / 5 + 250000 + 24 * requestsOf c.job.desc ≤ now s)
    (he : endsNow s c = false) : ∃ t, exec (.engineDescriptorTimeout eng ctx) s = .next t
      ∧ (∃ d ∈ (engOf t eng.val).done, d.1 = c.job ∧ d.2.1 = 5 ∧ d.2.2.1 = 9)
      ∧ (onHost s c = false → inDomainReset s 2 (eng.val / 6) = false → t.resetBegan s .stack (eng.val / 6) 3)
      ∧ (onHost s c = true → inDomainReset s 1 ctx.val = false → t.resetBegan s .hostPort ctx.val 3) := by
  let v := setEng s eng.val (recordCause (engOf s eng.val) ctx.val 9 c.job.tag (now s))
  let u := if onHost s c then resetFor v .hostPort ctx.val 3 else resetFor v .stack (eng.val / 6) 3
  let h := engOf u eng.val
  let t := setEng u eng.val { h with ctx := drop h.ctx ctx.val, done := h.done ++ [(c.job, 5, 9, now s)] }
  have hx' : exec (.engineDescriptorTimeout eng ctx) s = .next t := by
    change execEngineDescriptorTimeout eng ctx s = _
    unfold execEngineDescriptorTimeout
    dsimp only
    rw [hc]
    exact onlyIf_on (by simp [live_of hr, hx, hdue, he])
  have hg := recordCause_keeps (engOf s eng.val) ctx.val 9 c.job.tag (now s)
  have began {k : DomainKind} {i : Nat} (hu : u.resetBegan v k i 3) : t.resetBegan s k i 3 :=
    State.resetBeganWith.of_eq (s' := v) hu rfl rfl rfl fun p => resetFaults_registers s eng.val k i p hg.1 hg.2.1
  refine ⟨t, hx', ⟨(c.job, 5, 9, now s), ?_, rfl, rfl, rfl⟩, fun ho hd => began ?_, fun ho hd => began ?_⟩
  · rw [setEng_self]
    exact List.mem_append_right _ (List.mem_singleton_self _)
  · simp only [u, ho]
    exact resetFor_began v .stack _ 3 hd
  · simp only [u, ho]
    exact resetFor_began v .hostPort _ 3 hd

theorem abandonedDescriptorCompletion_completes {f : Nat} (hd : (engOf s eng.val).done = []) (ha : c.abandoned = some f) (hf : f < now s)
    (hs : settled s c = true) : ∃ t, exec (.abandonedDescriptorCompletion eng ctx) s = .next t
      ∧ (engOf t eng.val).ctx = drop (engOf s eng.val).ctx ctx.val ∧ t.dram = s.dram ∧ t.shelf = s.shelf := by
  let u := setEng s eng.val
    { recordCause (engOf s eng.val) ctx.val 0x0A c.job.tag (now s) with ctx := drop (engOf s eng.val).ctx ctx.val }
  have m := engineComplete_mild u c.job 7 0x0A (now s) (max (c.lastAck + 1) (5 * now s))
  refine ⟨_, ?_, ?_, m.dram, m.shelf⟩
  · change execAbandonedDescriptorCompletion eng ctx s = .next (engineComplete u c.job 7 0x0A (now s) (max (c.lastAck + 1) (5 * now s)))
    unfold execAbandonedDescriptorCompletion
    dsimp only
    rw [hd, hc]
    exact onlyIf_on (by simp [live_of hr, hs, ha, hf])
  · rw [m.engOf, setEng_self]

end Ends

/-- The five bits of ENG_STATUS that set its cause (R281). -/
theorem clearBit_wake (b : BitVec 6) : clearBit b 3 = b &&& 0b110111 := rfl

/-- Settles O46. -/
theorem engineTimeoutsAndStatus : Obligations.EngineTimeoutsAndStatus := by
  intro s eng ctx c value hr e x g cleared
  refine ⟨fun hc hx hdue he => engineDescriptorTimeout_ends hr hc hx hdue he,
    fun f hc hd ha hf hs => abandonedDescriptorCompletion_completes hr hc hd ha hf hs, fun q hq hh hd => ?released, fun hd => ?status⟩
  case released =>
    change execHeldDescriptorRelease eng s = _
    unfold execHeldDescriptorRelease
    dsimp only
    have hf : g.queue.find? (·.2.held) = some q := by rw [hq, List.find?_cons, hh]
    rw [hf]
    refine onlyIf_next (by simp [live_of hr, e] at hd ⊢; exact hd) ?_
    have hm : g.queue.map (fun y => if y = q then (q.1, { q.2 with held := false, from_ := 5 * now s }) else y)
        = [(q.1, { q.2 with held := false, from_ := 5 * now s })] := by
      rw [hq, List.map_singleton, if_pos rfl]
    exact congrArg (fun l => setEng s e { g with queue := l }) hm
  case status =>
    let h := clearEngine g value (now s)
    have hst : h.status = g.status &&& ~~~cleared := by
      simp only [h, clearEngine]
      split <;> rfl
    have hcause : h.cause = if (g.status &&& ~~~cleared) &&& 0b110111 = 0 ∧ g.status &&& 0b110111 ≠ 0 then 0 else g.cause := by
      simp only [h, clearEngine]
      rw [clearBit_wake, clearBit_wake]
      split
      next hz => exact (if_pos hz).symm
      next hz => exact (if_neg hz).symm
    refine ⟨setEng s e h, onlyIf_on (by simp [regsOpen, live_of hr, hd]), ?_, ?_, ?_, ?_, rfl⟩ <;> rw [setEng_self]
    · exact hst
    · intro hz
      rw [hcause, if_neg]
      rintro ⟨h1, h2⟩
      rw [hz, show ~~~(0 : BitVec 6) = BitVec.allOnes 6 from rfl, BitVec.and_allOnes] at h1
      exact h2 h1
    · intro h1 h2
      rw [hcause, if_pos ⟨h2, h1⟩]
    · intro h1
      rw [hcause, if_neg fun h => h1 h.1]

end Sys2Proof.Machine
end

section
/-! PROOF. What an engine's descriptor does between its take and its end (R283 to R286, R302, R303): O45. -/

namespace Sys2Proof.Machine

section Context
variable {s : State} {eng : Fin 48} {ctx : Fin 9} {j : Fin 5} {c : EngCtx} (hr : s.sup.inReset = false)
  (hc : ctxOf s eng.val ctx.val = some c)

/-- A command on a context that stands takes place where its own conditions hold. -/
theorem atCtx_acts {f : Nat → Nat → EngCtx → Nat → Option State} {t : State} (hr : s.sup.inReset = false) (hc : ctxOf s eng.val ctx.val = some c)
    (hf : f eng.val ctx.val c (pclk s j.val) = some t) : atCtx eng ctx j s f = .next t := by
  unfold atCtx
  rw [hc]
  dsimp only
  rw [hf]
  exact onlyIf_on (live_of hr)

/-! ### Requests -/

/-- A request of an engine that its port's reset does not drop is the newest of the network. -/
theorem engRequest_sends (v : State) (e x : Nat) (c : EngCtx) (host : Bool) (origin : Origin) (kind : ReqKind) (a : Nat) (mask : BitVec 64)
    (d : BitVec 512) (skip : Bool) (pc : Nat) (hp : host = true → inDomainReset v 1 x = false) :
    let t := engRequest v e x c host origin kind a mask d skip pc
    (∃ r, find t.net v.nextReq = some r ∧ r.addr = a ∧ r.origin = origin ∧ r.kind = kind ∧ r.data = d ∧ r.mask = mask ∧ r.skip = skip
        ∧ r.stage = .route pc)
      ∧ t.engines = v.engines ∧ t.shelf = v.shelf ∧ t.clm = v.clm ∧ t.dram = v.dram := by
  intro t
  have ht : t = engRequest v e x c host origin kind a mask d skip pc := rfl
  have hk : (host && decide (e / 6 = x) && inDomainReset v 1 x) = false := by
    cases hh : host
    · rfl
    · rw [hp hh, Bool.and_false]
  clear_value t
  unfold engRequest at ht
  dsimp only at ht
  rw [hk, if_neg (by decide)] at ht
  rw [ht]
  exact ⟨⟨_, find_put_same .., rfl, rfl, rfl, rfl, rfl, rfl, rfl⟩, rfl, rfl, rfl, rfl⟩

/-- Of a request sent from a context just written. -/
theorem engRequest_ctx (v : State) (e x : Nat) (c c' : EngCtx) (host : Bool) (origin : Origin) (kind : ReqKind) (a : Nat) (mask : BitVec 64)
    (d : BitVec 512) (skip : Bool) (pc : Nat) (hp : host = true → inDomainReset v 1 x = false) :
    let t := engRequest (setCtx v e x c') e x c host origin kind a mask d skip pc
    (∃ r, find t.net v.nextReq = some r ∧ r.addr = a ∧ r.origin = origin ∧ r.kind = kind ∧ r.data = d ∧ r.mask = mask ∧ r.skip = skip
        ∧ r.stage = .route pc)
      ∧ ctxOf t e x = some c' ∧ t.shelf = v.shelf ∧ t.clm = v.clm ∧ t.dram = v.dram := by
  obtain ⟨hreq, he, h1, h2, h3⟩ := engRequest_sends (setCtx v e x c') e x c host origin kind a mask d skip pc hp
  refine ⟨hreq, ?_, h1, h2, h3⟩
  rw [ctxOf, engOf, he]
  exact ctxOf_setCtx ..

/-- The context after its read i has been sent, and after write m has. -/
def EngCtx.readSent (c : EngCtx) (n pc : Nat) : EngCtx := { c with reads := c.reads + 1, lastRead := pc, openReads := c.openReads ++ [n] }
def EngCtx.writeSent (c : EngCtx) (n pc : Nat) (ends : Bool) : EngCtx :=
  { c with writes := c.writes + 1, lastWrite := pc, openWrites := c.openWrites ++ [n], tileEnd := if ends then c.tileEnd ++ [pc] else c.tileEnd }

include hr hc

theorem engineReadIssue_sends {a : Nat} (hi : issuing c = true) (hd : readDue ctx.val c = some (pclk s j.val))
    (ha : (readAddrs c.job.desc)[c.reads]? = some a) (h0 : readCause s c.job a = 0) :
    exec (.engineReadIssue eng ctx j) s = .next (engRequest (setCtx s eng.val ctx.val (c.readSent s.nextReq (pclk s j.val))) eng.val ctx.val c
      (dSrcHost c.job.desc) (.engRead eng.val ctx.val c.reads) (if dSrcHost c.job.desc then .hostRead else .load) a (BitVec.allOnes 64) 0 false
      (pclk s j.val)) := by
  refine (atCtx_acts hr hc ?_ : execEngineReadIssue eng ctx j s = _)
  dsimp only
  rw [ha]
  dsimp only
  rw [if_neg (by simp [hi, hd]), if_neg (by simp [h0])]
  rfl

theorem engineReadIssue_refuses {a : Nat} (hi : issuing c = true) (hd : readDue ctx.val c = some (pclk s j.val))
    (ha : (readAddrs c.job.desc)[c.reads]? = some a) (h0 : readCause s c.job a ≠ 0) :
    exec (.engineReadIssue eng ctx j) s = .next (refuse s eng.val ctx.val (readCause s c.job a) (pclk s j.val) c) := by
  refine (atCtx_acts hr hc ?_ : execEngineReadIssue eng ctx j s = _)
  dsimp only
  rw [ha]
  dsimp only
  rw [if_neg (by simp [hi, hd]), if_pos h0]

theorem engineWriteIssue_sends {w : EngWrite} (hi : issuing c = true) (hd : writeDue c c.writes w = some (pclk s j.val))
    (ha : (writesOf c.job.desc)[c.writes]? = some w) (h0 : writeCause s c.job w = 0) : ∃ ends kind,
    exec (.engineWriteIssue eng ctx j) s = .next (engRequest (setCtx s eng.val ctx.val (c.writeSent s.nextReq (pclk s j.val) ends)) eng.val
      ctx.val c (dDstHost c.job.desc) (.engWrite eng.val ctx.val c.writes) kind w.addr (BitVec.ofNat 64 w.mask)
      (writeData c.job.desc c.flits c.writes w) (w.deps.any (flitBad c.bad)) (pclk s j.val)) := by
  change ∃ ends kind, execEngineWriteIssue eng ctx j s = _
  unfold execEngineWriteIssue atCtx
  rw [hc]
  dsimp only
  rw [ha]
  dsimp only
  rw [if_neg (by simp [hi, hd]), if_neg (by simp [h0])]
  exact ⟨_, _, onlyIf_on (live_of hr)⟩

theorem engineWriteIssue_refuses {w : EngWrite} (hi : issuing c = true) (hd : writeDue c c.writes w = some (pclk s j.val))
    (ha : (writesOf c.job.desc)[c.writes]? = some w) (h0 : writeCause s c.job w ≠ 0) :
    exec (.engineWriteIssue eng ctx j) s = .next (refuse s eng.val ctx.val (writeCause s c.job w) (pclk s j.val) c) := by
  refine (atCtx_acts hr hc ?_ : execEngineWriteIssue eng ctx j s = _)
  dsimp only
  rw [ha]
  dsimp only
  rw [if_neg (by simp [hi, hd]), if_pos h0]

end Context

/-! ### Data that comes back (R284, R302, R303) -/

section Data
variable (s : State) (e x : Nat)

theorem poisonRead_keeps (c : EngCtx) (why : Option (Nat × Nat × Nat × Nat)) :
    ctxOf (poisonRead' s e x c why) e x = ctxOf s e x ∧ (poisonRead' s e x c why).net = s.net := by
  have hg := recordCause_keeps (engOf s e) x 7 c.job.tag (now s)
  have hv : ctxOf (setEng s e (recordCause (engOf s e) x 7 c.job.tag (now s))) e x = ctxOf s e x := ctxOf_setEng _ _ _ hg.1
  unfold poisonRead'
  dsimp only
  repeat' split
  all_goals exact ⟨((raiseFault_mild ..).ctxOf e x).trans hv, by rw [raiseFault_parts]; rfl⟩

/-- The context after the data of read i has come back. -/
def EngCtx.came (c : EngCtx) (n i pc : Nat) (d : BitVec 512) (poison : Bool) : EngCtx :=
  { c with back := c.back ++ [(i, d, pc)], bad := if poison then poisonFlit c.bad i else c.bad, openReads := c.openReads.erase n
           poisoned := c.poisoned || poison, lastAck := max c.lastAck pc }

theorem acceptRead_accepts (n i pc : Nat) (c : EngCtx) (d : BitVec 512) (poison : Bool) (why : Option (Nat × Nat × Nat × Nat)) :
    let t := acceptRead s e x n i pc c d poison why
    t.net = drop s.net n ∧ ctxOf t e x = some (c.came n i pc d poison) := by
  have hv : ctxOf (setCtx { s with net := drop s.net n } e x (c.came n i pc d poison)) e x = some (c.came n i pc d poison) := ctxOf_setCtx ..
  intro t
  have ht : t = if poison && !c.poisoned && c.abandoned.isNone
      then poisonRead' (setCtx { s with net := drop s.net n } e x (c.came n i pc d poison)) e x (c.came n i pc d poison) why
      else setCtx { s with net := drop s.net n } e x (c.came n i pc d poison) := rfl
  clear_value t
  rw [ht]
  split
  · obtain ⟨h1, h2⟩ := poisonRead_keeps (setCtx { s with net := drop s.net n } e x (c.came n i pc d poison)) e x (c.came n i pc d poison) why
    exact ⟨h2, h1.trans hv⟩
  · exact ⟨rfl, hv⟩

end Data

theorem charge_parts (s : State) (p rail pj : Nat) : charge s p rail pj = { s with parts := (charge s p rail pj).parts } := by
  unfold charge
  dsimp only
  split <;> rfl

section Flit
variable {s : State} {eng : Fin 48} {ctx : Fin 9} {j : Fin 5} {c : EngCtx} (hr : s.sup.inReset = false)
  (hc : ctxOf s eng.val ctx.val = some c)
include hr hc

theorem engineReadReturn_inside {n i : Nat} {r : Req} (hb : readBack s eng.val ctx.val false (pclk s j.val) = some (n, r, i)) :
    exec (.engineReadReturn eng ctx j .inside) s =
      .next (acceptRead s eng.val ctx.val n i (pclk s j.val) c r.resp r.poison r.why) := by
  refine (atCtx_acts hr hc ?_ : execEngineReadReturn eng ctx j .inside s = _)
  dsimp only
  rw [hb]
  rfl

theorem engineReadReturn_data {n i : Nat} {r : Req} (d : BitVec 512) (hb : readBack s eng.val ctx.val true (pclk s j.val) = some (n, r, i)) :
    ∃ wait, exec (.engineReadReturn eng ctx j (.data d)) s = .next
      (acceptRead (setEng s eng.val { engOf s eng.val with hostWait := wait }) eng.val ctx.val n i (pclk s j.val) c d false none) := by
  change ∃ wait, execEngineReadReturn eng ctx j (.data d) s = _
  unfold execEngineReadReturn atCtx
  rw [hc]
  dsimp only
  rw [hb]
  exact ⟨_, onlyIf_on (live_of hr)⟩

theorem engineReadReturn_error {n i : Nat} {r : Req} (hb : readBack s eng.val ctx.val true (pclk s j.val) = some (n, r, i)) :
    ∃ t c', exec (.engineReadReturn eng ctx j .error) s = .next t ∧ t.net = drop s.net n ∧ ctxOf t eng.val ctx.val = some c'
      ∧ c'.hostError = true ∧ c'.back = c.back := by
  change ∃ t c', execEngineReadReturn eng ctx j .error s = _ ∧ _
  unfold execEngineReadReturn atCtx
  rw [hc]
  dsimp only
  rw [hb]
  exact ⟨_, _, onlyIf_on (live_of hr), rfl, ctxOf_setCtx .., rfl, rfl⟩

/-- A flit that has the slot enters the intake (R285). -/
theorem flitEntry_enters {b : Nat × BitVec 512 × Nat} (hb : c.back.find? (·.1 = c.eTimes.length) = some b) (ha : c.abandoned.isNone = true)
    (hf : flitReady c (pclk s j.val) = true) (hi : hasIntake s eng.val ctx.val (pclk s j.val) = true) :
    ∃ t c', exec (.flitEntry eng ctx j) s = .next t ∧ ctxOf t eng.val ctx.val = some c' ∧ c'.eTimes = c.eTimes ++ [pclk s j.val]
      ∧ find c'.flits c.eTimes.length = some b.2.1 ∧ c'.bad = c.bad ∧ (engOf t eng.val).flits = satAdd (engOf s eng.val).flits 1
      ∧ t.shelf = s.shelf ∧ t.dram = s.dram := by
  let c' := { c with back := c.back.erase b, flits := put c.flits c.eTimes.length b.2.1, eTimes := c.eTimes ++ [pclk s j.val] }
  let v := setCtx (useSlot s 4 eng.val (pclk s j.val)) eng.val ctx.val c'
  let u := setEng v eng.val { engOf v eng.val with flits := satAdd (engOf v eng.val).flits 1 }
  let t := if ctx.val = 8 then u else charge u c.job.part (144 + eng.val / 6) 6000
  have hx : exec (.flitEntry eng ctx j) s = .next t := by
    refine (atCtx_acts hr hc ?_ : execFlitEntry eng ctx j s = _)
    dsimp only
    rw [hb]
    dsimp only
    rw [if_neg (by simp [ha, hf, hi])]
  have ht : t = { u with parts := t.parts } := by
    simp only [t]
    split
    · rfl
    · exact charge_parts ..
  have he : engOf t eng.val = engOf u eng.val := by rw [engOf, ht]; rfl
  have hu : ctxOf u eng.val ctx.val = some c' := (ctxOf_setEng _ _ _ (by rfl)).trans (ctxOf_setCtx ..)
  have hv : (engOf v eng.val).flits = (engOf s eng.val).flits := by rw [engOf_setCtx]; rfl
  refine ⟨t, c', hx, ?_, rfl, find_put_same .., rfl, ?_, by rw [ht]; rfl, by rw [ht]; rfl⟩
  · rw [ctxOf, he]
    exact hu
  · rw [he, setEng_self, hv]

end Flit

/-! ### Acknowledgements (R286, R303) -/

/-- The write of a context that is answered at PCLK pc. -/
def answeredWrite (s : State) (e x pc : Nat) : Option (Nat × Nat × Req) :=
  s.net.findSome? fun r => match r.2.origin, r.2.stage with
    | .engWrite a b m, .answered t => if a = e && b = x && t = pc then some (r.1, m, r.2) else none
    | _, _ => none

/-- The host is sent the write at its acknowledgement. -/
def writeSends (c : EngCtx) (m : Nat) (r : Req) : Bool := r.kind = .hostWrite && !r.skip && !afterError c m

/-- A context after the acknowledgement of its write m, which the host ended with an error where err says so. -/
def EngCtx.acked (c : EngCtx) (n m pc : Nat) (err : Bool) : EngCtx :=
  { c with openWrites := c.openWrites.erase n, lastAck := max c.lastAck pc, hostError := c.hostError || err
           failedWrite := if err && c.failedWrite.isNone then some m else c.failedWrite }

theorem engineWriteAck_acts {s : State} {eng : Fin 48} {ctx : Fin 9} {j : Fin 5} {n m : Nat} {r : Req} (hr : s.sup.inReset = false)
    (h : answeredWrite s eng.val ctx.val (pclk s j.val) = some (n, m, r)) (hostError : Bool) :
    exec (.engineWriteAck eng ctx j hostError) s = .next (ackWrite s eng.val ctx.val n m (pclk s j.val) r hostError) := by
  change (match answeredWrite s eng.val ctx.val (pclk s j.val) with
    | some (n, m, r) => onlyIf (live s) s (ackWrite s eng.val ctx.val n m (pclk s j.val) r hostError)
    | none => .next s) = _
  rw [h]
  exact onlyIf_on (live_of hr)

theorem ackWrite_acks {s : State} {e x n m pc : Nat} {r : Req} {c : EngCtx} (hc : ctxOf s e x = some c) (hn : n ∈ c.openWrites)
    (hostError : Bool) :
    let t := ackWrite s e x n m pc r hostError
    t.net = drop s.net n ∧ ctxOf t e x = some (c.acked n m pc (hostError && writeSends c m r))
      ∧ t.out = if writeSends c m r then s.out ++ [.hostWrite r.cls r.addr r.mask r.data] else s.out := by
  have hf : (ctxOf s e x).filter (fun c => decide (n ∈ c.openWrites)) = some c := by simp [hc, hn]
  intro t
  have ht : t = ackWrite s e x n m pc r hostError := rfl
  clear_value t
  unfold ackWrite at ht
  dsimp only at ht
  rw [hf] at ht
  dsimp only at ht
  change t = setCtx (if hostError && writeSends c m r then setEng (if writeSends c m r then _ else _) e _
    else if writeSends c m r then _ else _) e x (c.acked n m pc (hostError && writeSends c m r)) at ht
  refine ⟨?_, by rw [ht]; exact ctxOf_setCtx .., ?_⟩ <;> rw [ht] <;> cases hostError <;> cases writeSends c m r <;> rfl

/-! ### The end of a descriptor (R286, R305) -/

section Done
variable {s : State} {eng : Fin 48} {ctx : Fin 9} {j : Fin 5} {c : EngCtx}

/-- The state once a descriptor has left its context, and is counted. -/
def descLeft (s : State) (e x pc : Nat) : State :=
  let u := dropCtx s e x
  setEng u e { engOf u e with descs := satAdd (engOf u e).descs 1, schedDone := if x = 8 then pc else (engOf u e).schedDone }

theorem descLeft_eng (s : State) (e x pc : Nat) :
    (engOf (descLeft s e x pc) e).ctx = drop (engOf s e).ctx x ∧ (engOf (descLeft s e x pc) e).descs = satAdd (engOf s e).descs 1 := by
  unfold descLeft dropCtx
  dsimp only
  rw [setEng_self, setEng_self]
  exact ⟨rfl, rfl⟩

variable (hr : s.sup.inReset = false) (hc : ctxOf s eng.val ctx.val = some c) (hd : doneAt c = some (pclk s j.val))
include hr hc hd

/-- A scheduled descriptor reports at the next beat boundary. -/
theorem descriptorDone_reports {l : LiveStep} (hn : c.job.ring = none) (h0 : c.refused = none) (hl : execOf s c.job.part = some l) :
    exec (.descriptorDone eng ctx j) s = .next (setExec (descLeft s eng.val ctx.val (pclk s j.val)) c.job.part
      { l with engineOpen := l.engineOpen.erase c.job.entry, lastDone := now s + 1 }) := by
  have hl' : execOf (descLeft s eng.val ctx.val (pclk s j.val)) c.job.part = some l := hl
  refine (atCtx_acts hr hc ?_ : execDescriptorDone eng ctx j s = _)
  dsimp only
  rw [if_neg (by simp [hd])]
  refine congrArg some ?_
  rw [if_neg (by simp [hn])]
  change (match execOf (descLeft s eng.val ctx.val (pclk s j.val)) c.job.part with
    | some l => if c.refused.isSome then _ else _
    | none => _) = _
  rw [hl']
  exact if_neg (by simp [h0])

/-- A ring-driven one posts its completion. -/
theorem descriptorDone_completes (hn : c.job.ring.isSome = true) :
    exec (.descriptorDone eng ctx j) s = .next (engineComplete (descLeft s eng.val ctx.val (pclk s j.val)) c.job (endStatus c).1 (endStatus c).2
      (now s) (if c.refused.isSome && c.refusedAt = c.take then pclk s j.val else pclk s j.val + 1)) := by
  refine (atCtx_acts hr hc ?_ : execDescriptorDone eng ctx j s = _)
  dsimp only
  rw [if_neg (by simp [hd])]
  exact congrArg some (if_pos hn)

end Done

/-- Settles O45. -/
theorem engineReadsFlitsAndWrites : Obligations.EngineReadsFlitsAndWrites := by
  intro s eng ctx j c hr e x pc hc
  refine ⟨fun a hi hd ha => ⟨fun h0 hp => ?read, fun h0 => ?readRefused⟩, fun n r i hb => ?inside, fun n r i d hb => ⟨?data, ?hostError⟩,
    fun b hb ha hf hi => flitEntry_enters hr hc hb ha hf hi, fun w hi ha hd => ⟨fun h0 hp => ?write, fun h0 => ?writeRefused⟩,
    fun n m r hb hn => ?ack, fun l hd hn h0 hl => ?reports, fun hd hn => ?completes⟩
  case read =>
    obtain ⟨⟨r, h1, h2, h3, h4, -, -, -, h5⟩, h6, h7, h8, h9⟩ := engRequest_ctx s e x c (c.readSent s.nextReq pc) (dSrcHost c.job.desc)
      (.engRead e x c.reads) (if dSrcHost c.job.desc then .hostRead else .load) a (BitVec.allOnes 64) 0 false pc hp
    exact ⟨_, r, _, engineReadIssue_sends hr hc hi hd ha h0, h1, h2, h3, h4, h5, h6, rfl, rfl, rfl, h7, h8, h9⟩
  case readRefused =>
    obtain ⟨h1, -, h2⟩ := refuse_keeps s e x (readCause s c.job a) pc c
    exact ⟨_, engineReadIssue_refuses hr hc hi hd ha h0, h1, h2⟩
  case inside =>
    obtain ⟨h1, h2⟩ := acceptRead_accepts s e x n i pc c r.resp r.poison r.why
    obtain ⟨-, -, -, -, h3, -, h4, -⟩ := acceptRead_calm s e x n i pc c r.resp r.poison r.why
    exact ⟨_, _, engineReadReturn_inside hr hc hb, h1, h2, rfl, rfl, rfl, h4, h3⟩
  case data =>
    obtain ⟨wait, hx⟩ := engineReadReturn_data hr hc d hb
    obtain ⟨h1, h2⟩ := acceptRead_accepts (setEng s e { engOf s e with hostWait := wait }) e x n i pc c d false none
    exact ⟨_, _, hx, h1, h2, rfl, rfl, rfl⟩
  case hostError => exact engineReadReturn_error hr hc hb
  case write =>
    intro bad
    obtain ⟨ends, kind, hx⟩ := engineWriteIssue_sends hr hc hi hd ha h0
    obtain ⟨⟨r, h1, h2, h3, -, h4, h5, h6, h7⟩, h8, h9, h10, h11⟩ := engRequest_ctx s e x c (c.writeSent s.nextReq pc ends)
      (dDstHost c.job.desc) (.engWrite e x c.writes) kind w.addr (BitVec.ofNat 64 w.mask) (writeData c.job.desc c.flits c.writes w) bad pc hp
    exact ⟨_, r, _, hx, h1, h2, h3, h4, h5, h6, h7, h8, rfl, rfl, rfl, h9, h10, h11⟩
  case writeRefused =>
    obtain ⟨h1, -, h2⟩ := refuse_keeps s e x (writeCause s c.job w) pc c
    exact ⟨_, engineWriteIssue_refuses hr hc hi hd ha h0, h1, h2⟩
  case ack =>
    intro sent
    have hx := engineWriteAck_acts (j := j) hr hb
    have hs : writeSends c m r = true ↔ sent := by simp [writeSends, sent, and_assoc]
    refine ⟨?_, fun hsent h0 => ?_⟩
    · obtain ⟨h1, h2, h3⟩ := ackWrite_acks (m := m) (pc := pc) (r := r) hc hn false
      refine ⟨_, _, hx false, h1, h2, rfl, rfl, ?_, fun h => h3.trans (if_pos (hs.2 h)), fun h => h3.trans (if_neg fun w => h (hs.1 w))⟩
      simp [EngCtx.acked]
    · obtain ⟨h1, h2, h3⟩ := ackWrite_acks (m := m) (pc := pc) (r := r) hc hn true
      refine ⟨_, _, hx true, h2, ?_, ?_⟩ <;> simp [EngCtx.acked, hs.2 hsent, h0]
  case reports =>
    obtain ⟨h1, h2⟩ := descLeft_eng s e x pc
    have he : engOf (setExec (descLeft s e x pc) c.job.part { l with engineOpen := l.engineOpen.erase c.job.entry, lastDone := now s + 1 }) e
        = engOf (descLeft s e x pc) e := by
      unfold setExec
      split <;> rfl
    refine ⟨_, descriptorDone_reports hr hc hd hn h0 hl, ?_, ?_, execOf_setExec _ (s := descLeft s e x pc) hl⟩ <;> rw [he]
    · exact h1
    · exact h2
  case completes =>
    have m := engineComplete_mild (descLeft s e x pc) c.job (endStatus c).1 (endStatus c).2 (now s)
      (if c.refused.isSome && c.refusedAt = c.take then pc else pc + 1)
    refine ⟨_, descLeft s e x pc, descriptorDone_completes hr hc hd hn, ?_, m.shelf, m.dram, m.clm, rfl, rfl⟩
    rw [m.engOf]
    exact (descLeft_eng s e x pc).1

end Sys2Proof.Machine
end

section
/-! PROOF. A slice's command at its turn, and the wake of a slice that is off (R225, R240): O36. -/

namespace Sys2Proof.Machine

/-- Request n has its turn in the slice at the present PCLK, and none that entered before it waits there (R225). -/
structure AtTurn (s : State) (slice : Fin 512) (n : Nat) (j : Fin 5) (r : Req) : Prop where
  runs : live s = true
  found : find s.net n = some r
  stage : r.stage = .slice (pclk s j.val)
  space : ∃ g, spaceOf s r.addr = .vault g
  place : (placeOf s r.addr).i = slice.val
  first : enteredBefore s slice.val (pclk s j.val) r = false

section Turn
variable {s : State} {slice : Fin 512} {n : Nat} {j : Fin 5} {r : Req} {ok : ReqKind → Bool} {f : Place → Req → State → State}

/-- A slice that is off when a request meets it: it wakes, and counts the request's wait (R240). -/
def sliceMet (s : State) (i n : Nat) (r : Req) (shared : Bool) : State :=
  let at_ := usableAt s .slice i
  let s' := setSliceStatus (demandWake s .slice i) i 5
  let s' := if shared then s' else mapSlice s' i fun x => { x with wakeWait := satAdd x.wakeWait (at_ - now s) }
  setReq s' n { r with stage := .slice (5 * at_) }

/-- What a request's command does at its turn, in a slice that is awake and in one that is not. -/
theorem AtTurn.acts (h : AtTurn s slice n j r) (hok : ok r.kind = true) : atSlice slice n j ok s f =
    if !domOn s .slice slice.val then .next (sliceMet s slice.val n r (isShared s (placeOf s r.addr).granule))
    else .next (f (placeOf s r.addr) r s) := by
  obtain ⟨hr, hn, hst, ⟨g, hsp⟩, hq, hb⟩ := h
  unfold atSlice
  rw [hn]
  dsimp only
  rw [hst, hsp]
  dsimp only
  rw [hq, if_neg (by simp [hr, hok, hb])]
  rfl

theorem AtTurn.serves (h : AtTurn s slice n j r) (hok : ok r.kind = true) (hon : domOn s .slice slice.val = true) :
    atSlice slice n j ok s f = .next (f (placeOf s r.addr) r s) := by
  rw [h.acts hok, hon]
  rfl

section Kinds
variable (h : AtTurn s slice n j r) (hon : domOn s .slice slice.val = true)
include h hon

theorem AtTurn.load (hk : r.kind = .load) : exec (.sliceLoad slice n j) s = .next (serve n j (placeOf s r.addr) r s) :=
  (h.serves (by rw [hk]) hon : execSliceLoad slice n j s = _)

theorem AtTurn.store (hk : r.kind = .store) : exec (.sliceStore slice n j) s = .next (serve n j (placeOf s r.addr) r s) :=
  (h.serves (by rw [hk]) hon : execSliceStore slice n j s = _)

theorem AtTurn.atomic {fn ops} (hk : r.kind = .atomic fn ops) : exec (.sliceAtomic slice n j) s = .next (serve n j (placeOf s r.addr) r s) :=
  (h.serves (by rw [hk]) hon : execSliceAtomic slice n j s = _)

theorem AtTurn.reduction {fn ops} (hk : r.kind = .red fn ops) : exec (.sliceReduction slice n j) s = .next (serve n j (placeOf s r.addr) r s) :=
  (h.serves (by rw [hk]) hon : execSliceReduction slice n j s = _)

theorem AtTurn.prefetch (hk : r.kind = .prefetch) :
    exec (.rangePrefetch slice n j) s = .next (serveRange n j rangePrefetch (placeOf s r.addr) r s) :=
  (h.serves (by rw [hk]) hon : execRangePrefetch slice n j s = _)

theorem AtTurn.flush (hk : r.kind = .flush) : exec (.rangeFlush slice n j) s = .next (serveRange n j rangeFlush (placeOf s r.addr) r s) :=
  (h.serves (by rw [hk]) hon : execRangeFlush slice n j s = _)

theorem AtTurn.invalidate (hk : r.kind = .invalidate) :
    exec (.rangeInvalidate slice n j) s = .next (serveRange n j rangeInvalidate (placeOf s r.addr) r s) :=
  (h.serves (by rw [hk]) hon : execRangeInvalidate slice n j s = _)

theorem AtTurn.dead (hk : r.kind = .dead) : exec (.rangeDead slice n j) s = .next (serveRange n j rangeDead (placeOf s r.addr) r s) :=
  (h.serves (by rw [hk]) hon : execRangeDead slice n j s = _)

end Kinds

end Turn

theorem sliceDom_congr {t s : State} {i : Nat} (h : t.sliceDoms = s.sliceDoms) : domOf t .slice i = domOf s .slice i := by
  unfold domOf domsOf
  rw [h]

theorem setReq_find (s : State) (n : Nat) (r : Req) : find (setReq s n r).net n = some r := find_put_same ..

/-- The wake of a slice, and the wait that the request is charged (R240). -/
theorem sliceMet_wakes {s : State} {i n : Nat} {r : Req} (hoff : (domOf s .slice i).state = .off) :
    let t := sliceMet s i n r false
    domOf t .slice i = ⟨.waking, now s + 300⟩ ∧ find t.net n = some { r with stage := .slice (5 * (now s + 300)) }
      ∧ (sliceOf t i).wakeWait = satAdd (sliceOf s i).wakeWait 300 := by
  intro t
  let u := setSliceStatus (demandWake s .slice i) i 5
  have hdom : domOf (demandWake s .slice i) .slice i = ⟨.waking, now s + 300⟩ := by
    unfold demandWake
    rw [if_pos hoff]
    exact domOf_setDom s (k := .slice) (by decide) i ⟨.waking, now s + 300⟩
  have hus : usableAt s .slice i = now s + 300 := by
    unfold usableAt
    rw [hoff]
    rfl
  have hu : (sliceOf u i).wakeWait = (sliceOf s i).wakeWait := by
    refine (congrArg Slice.wakeWait (setSlice_self ..)).trans ?_
    unfold demandWake
    dsimp only
    split <;> rfl
  have ht : t = setReq (mapSlice u i fun x => { x with wakeWait := satAdd x.wakeWait (now s + 300 - now s) }) n
      { r with stage := .slice (5 * (now s + 300)) } := by
    simp only [t, sliceMet, hus]
    rfl
  clear_value t
  subst ht
  refine ⟨(sliceDom_congr (s := demandWake s .slice i) ?_).trans hdom, setReq_find _ _ _, ?_⟩
  · exact mapSlice_sliceDoms (demandWake s .slice i) i fun x => x.flag 5 (now (demandWake s .slice i))
  rw [Nat.add_sub_cancel_left, ← hu]
  exact congrArg Slice.wakeWait (setSlice_self u i _)

/-- Settles O36: every command of a slice goes through the same turn. -/
theorem sliceServesAtItsTurn : Obligations.SliceServesAtItsTurn := by
  intro s slice n g j r hr q hn hst hsp hq hb
  have h : AtTurn s slice n j r := ⟨live_of hr, hn, hst, ⟨g, hsp⟩, hq, hb⟩
  refine ⟨fun hon => ⟨h.load hon, h.store hon, fun _ _ => h.atomic hon, fun _ _ => h.reduction hon, h.prefetch hon, h.flush hon,
    h.invalidate hon, h.dead hon⟩, fun hoff hsh hk => ?_⟩
  obtain ⟨h1, h2, h3⟩ := sliceMet_wakes (n := n) (r := r) hoff
  refine ⟨_, ?_, congrArg Dom.state h1, congrArg Dom.until_ h1, h2, h3⟩
  have hx : execSliceLoad slice n j s = _ := h.acts (by rw [hk])
  rw [show isShared s (placeOf s r.addr).granule = false from hsh] at hx
  exact hx.trans (if_pos (by simp [domOn, hoff]))

end Sys2Proof.Machine
end

section
/-! PROOF. The frames of a slice: what an access leaves of its lines (R219 to R223, R227, R231). -/

namespace Sys2Proof.Machine

/-! ### Lines of a frame -/

/-- Slice y holds the lines of x, but for the frame of a set and way, whose halves are those that f gives. -/
structure Lines (y x : Slice) (set way : Nat) (f : Bool → Option Line) : Prop where
  others : ∀ k, k ≠ 16 * set + way → look y.frames k {} = look x.frames k {}
  half : ∀ b, halfOf (frameOf y set way) b = f b

section Lines
variable {x y z : Slice} {set way : Nat} {f g : Bool → Option Line}

theorem Lines.trans (a : Lines z y set way f) (b : Lines y x set way g) : Lines z x set way f :=
  ⟨fun k hk => (a.others k hk).trans (b.others k hk), a.half⟩

theorem Lines.congr (a : Lines y x set way f) (h : ∀ b, f b = g b) : Lines y x set way g := ⟨a.others, fun b => (a.half b).trans (h b)⟩

theorem Lines.of_frames (h : y.frames = x.frames) : Lines y x set way (halfOf (frameOf x set way)) :=
  ⟨fun k _ => by rw [h], fun b => by rw [frameOf, h]; rfl⟩

theorem frameOf_setFrame (x : Slice) (set way : Nat) (fr : Frame) : frameOf (setFrame x set way fr) set way = fr := look_put_same ..

theorem lines_setFrame (x : Slice) (set way : Nat) (fr : Frame) : Lines (setFrame x set way fr) x set way (halfOf fr) :=
  ⟨fun k hk => look_put_ne _ _ _ _ _ hk, fun b => by rw [frameOf_setFrame]⟩

theorem halfOf_setHalf (fr : Frame) (h : Bool) (l : Option Line) (b : Bool) :
    halfOf (setHalf fr h l) b = if b = h then l else halfOf fr b := by
  cases h <;> cases b <;> rfl

theorem lines_setHalf (x : Slice) (set way : Nat) (h : Bool) (l : Option Line) :
    Lines (setFrame x set way (setHalf (frameOf x set way) h l)) x set way (fun b => if b = h then l else halfOf (frameOf x set way) b) :=
  (lines_setFrame ..).congr fun _ => halfOf_setHalf ..

theorem lines_useFrame (x : Slice) (set way : Nat) : Lines (useFrame x set way) x set way (halfOf (frameOf x set way)) :=
  have h := (lines_setFrame x set way { frameOf x set way with used := x.clock + 1 }).congr (g := halfOf (frameOf x set way))
    fun b => by cases b <;> rfl
  ⟨h.others, h.half⟩

theorem findLine_stands {granule tag : Nat} {h : Bool} {l : Line} (hf : findLine x set granule tag = some (way, h, l)) :
    halfOf (frameOf x set way) h = some l := by
  unfold findLine at hf
  obtain ⟨w, -, hw⟩ := List.exists_of_findSome?_eq_some hf
  obtain ⟨b, -, hb⟩ := List.exists_of_findSome?_eq_some hw
  cases hl : halfOf (frameOf x set w) b with
  | none => simp [hl] at hb
  | some l' =>
    simp only [hl] at hb
    split at hb
    · obtain ⟨rfl, rfl, rfl⟩ : w = way ∧ b = h ∧ l' = l := by simpa using hb
      exact hl
    · cases hb

end Lines

/-- What an access to a line leaves of its slice beside the frames. -/
structure KeepsRest (y x : Slice) : Prop where
  fills : y.fills = x.fills
  wb : y.wb = x.wb
  merges : y.wbMerges = x.wbMerges
  splits : y.pairSplits = x.pairSplits

theorem KeepsRest.trans {x y z : Slice} (a : KeepsRest z y) (b : KeepsRest y x) : KeepsRest z x :=
  ⟨a.fills.trans b.fills, a.wb.trans b.wb, a.merges.trans b.merges, a.splits.trans b.splits⟩

/-! ### A request's work on a line (R227, R231) -/

theorem putUnit_keeps (l : Line) (k : Nat) (u : Nat × Nat) : (putUnit l k u).halfOnly = l.halfOnly ∧ (putUnit l k u).valid = l.valid
    ∧ (putUnit l k u).dirty = l.dirty ∧ (putUnit l k u).dead = l.dead := ⟨rfl, rfl, rfl, rfl⟩

/-- Until it has written, a request leaves the line as it found it. -/
def Applied.Untouched (l : Line) (a : Applied) : Prop := a.wrote = false → a.line = l

/-- A finding noted in a request's list. -/
def Applied.noted (a : Applied) (k : Nat) (f : Checked) : Applied := if f.cls.1 = 0 then a else { a with bad := a.bad ++ [(k, f)] }

theorem noted_untouched {l : Line} {a : Applied} (k : Nat) (f : Checked) (h : a.Untouched l) : (a.noted k f).Untouched l := by
  unfold Applied.noted
  split <;> exact h

theorem writeSector_untouched {l : Line} {a : Applied} (k d mask : Nat) (h : a.Untouched l) : (writeSector a k d mask).Untouched l := by
  have hb := noted_untouched k (if mask = 2 ^ 32 - 1 then .clean 0 else a.find k) h
  unfold writeSector
  dsimp only
  change Applied.Untouched l (match (if mask = 2 ^ 32 - 1 then Checked.clean 0 else a.find k).data? with
    | some old => { a.noted k (if mask = 2 ^ 32 - 1 then .clean 0 else a.find k) with
        line := { putUnit (a.noted k (if mask = 2 ^ 32 - 1 then .clean 0 else a.find k)).line k _ with
                  valid := _, dirty := _ }
        fresh := _, wrote := true }
    | none => { a.noted k (if mask = 2 ^ 32 - 1 then .clean 0 else a.find k) with poison := true })
  split
  · exact fun hw => absurd hw (by simp)
  · exact hb

theorem locationOp_untouched {l : Line} {a : Applied} (addr size : Nat) (op : DWord → DWord × List (Nat × DWord)) (h : a.Untouched l) :
    (locationOp a addr size op).Untouched l := by
  intro hw
  unfold locationOp at hw ⊢
  dsimp only at hw ⊢
  split at hw
  · exact h hw
  · exact writeSector_untouched _ _ _ h hw

theorem foldl_untouched {α : Type} {l : Line} {f : Applied → α → Applied} (hf : ∀ a x, a.Untouched l → (f a x).Untouched l) (xs : List α)
    {a : Applied} (h : a.Untouched l) : (xs.foldl f a).Untouched l := by
  induction xs generalizing a with
  | nil => exact h
  | cons x xs ih => exact ih (hf a x h)

/-- A request that writes nothing leaves the line in whole form. -/
theorem applyReq_untouched (l : Line) (r : Req) : (applyReq l r).Untouched l.expand := by
  have start : Applied.Untouched l.expand { line := l.expand, was := l } := fun _ => rfl
  unfold applyReq
  dsimp only
  split
  · refine foldl_untouched (fun a k h => ?_) _ start
    have hb := noted_untouched k (a.find k) h
    split <;> exact hb
  · split
    · exact start
    · exact foldl_untouched (fun a k h => writeSector_untouched _ _ _ h) _ start
  · exact foldl_untouched (fun a k h => locationOp_untouched _ _ _ h) _ start
  · exact foldl_untouched (fun a k h => locationOp_untouched _ _ _ h) _ start
  · exact start

theorem applyReq_line {l : Line} {r : Req} (hl : l.halfOnly = false) (hw : (applyReq l r).wrote = false) : (applyReq l r).line = l :=
  (applyReq_untouched l r hw).trans (by simp [Line.expand, hl])

/-- A load writes nothing. -/
theorem applyReq_load {l : Line} {r : Req} (hk : r.kind = .load) : (applyReq l r).wrote = false := by
  unfold applyReq
  rw [hk]
  refine List.foldlRecOn (motive := fun a : Applied => a.wrote = false) _ _ rfl fun a ha k _ => ?_
  dsimp only
  repeat' split
  all_goals exact ha

end Sys2Proof.Machine
end

section
/-! PROOF. What each part of a slice's turn leaves: places, evictions, fills and the turn's end (R219 to R226, R233). -/

namespace Sys2Proof.Machine

/-! ### Parts of a turn -/

/-- A turn's state after a part that works on slices and requests only. -/
structure Wrought (u t : State) : Prop where
  rest : u = { t with slices := u.slices, net := u.net }

theorem Wrought.refl (s : State) : Wrought s s := ⟨rfl⟩

theorem Wrought.trans {u t s : State} (a : Wrought u t) (b : Wrought t s) : Wrought u s :=
  ⟨by have h := a.rest; rw [b.rest] at h; exact h⟩

theorem setSlice_wrought (s : State) (i : Nat) (x : Slice) : Wrought (setSlice s i x) s := ⟨rfl⟩
theorem setReq_wrought (s : State) (n : Nat) (r : Req) : Wrought (setReq s n r) s := ⟨rfl⟩

section Wrought
variable {u t : State} (h : Wrought u t)
include h

theorem Wrought.dram : u.dram = t.dram := by rw [h.rest]
theorem Wrought.shelf : u.shelf = t.shelf := by rw [h.rest]
theorem Wrought.clm : u.clm = t.clm := by rw [h.rest]
theorem Wrought.pchs : u.pchs = t.pchs := by rw [h.rest]
theorem Wrought.parts : u.parts = t.parts := by rw [h.rest]
theorem Wrought.boot : u.boot = t.boot := by rw [h.rest]
theorem Wrought.granules : u.granules = t.granules := by rw [h.rest]

theorem Wrought.waysOf (p : Nat) : waysOf u p = Machine.waysOf t p := by
  rw [h.rest]
  rfl

theorem Wrought.shareOf (p : Nat) : shareOf u p = Machine.shareOf t p := by
  rw [h.rest]
  rfl

theorem Wrought.compressing (p : Nat) : compressing u p = Machine.compressing t p := by
  rw [h.rest]
  rfl

theorem Wrought.vaultRaw (P off : Nat) : vaultRaw u P off = Machine.vaultRaw t P off := by
  rw [h.rest]
  rfl

end Wrought

/-! ### Choosing a way (R219, R222) -/

/-- The choice of a way reads the frames and the ways of the partition only. -/
theorem victimWay_congr {u t : State} {y x : Slice} (q : Place) (hw : waysOf u q.part = waysOf t q.part) (hf : y.frames = x.frames) :
    victimWay u y q = victimWay t x q := by
  unfold victimWay frameOf
  rw [hw, hf]

theorem pairHalf_congr {u t : State} {y x : Slice} (q : Place) (hw : waysOf u q.part = waysOf t q.part) (hf : y.frames = x.frames) :
    pairHalf u y q = pairHalf t x q := by
  unfold pairHalf frameOf
  rw [hw, hf]

/-- The step of the search for the least recently used way. -/
def older (x : Slice) (set : Nat) (best : Option Nat) (w : Nat) : Option Nat :=
  match best with
  | none => some w
  | some b => if (frameOf x set w).used < (frameOf x set b).used then some w else best

/-- The least recently used of a list of ways. -/
theorem foldl_older (x : Slice) (set : Nat) (l : List Nat) (best : Option Nat) :
    (∀ b, best = some b → ∃ w, l.foldl (older x set) best = some w ∧ (w = b ∨ w ∈ l)
        ∧ (frameOf x set w).used ≤ (frameOf x set b).used ∧ ∀ v ∈ l, (frameOf x set w).used ≤ (frameOf x set v).used)
      ∧ (best = none → l ≠ [] → ∃ w, l.foldl (older x set) best = some w ∧ w ∈ l ∧ ∀ v ∈ l, (frameOf x set w).used ≤ (frameOf x set v).used) := by
  induction l generalizing best with
  | nil => exact ⟨fun b hb => ⟨b, hb, .inl rfl, Nat.le_refl _, fun v hv => absurd hv (List.not_mem_nil)⟩, fun _ h => absurd rfl h⟩
  | cons a l ih =>
    have go (b : Nat) : ∃ w, l.foldl (older x set) (some b) = some w ∧ (w = b ∨ w ∈ l)
        ∧ (frameOf x set w).used ≤ (frameOf x set b).used ∧ ∀ v ∈ l, (frameOf x set w).used ≤ (frameOf x set v).used := (ih (some b)).1 b rfl
    refine ⟨fun b hb => ?_, fun hb _ => ?_⟩
    · subst hb
      rw [List.foldl_cons, older]
      split
      next hlt =>
        obtain ⟨w, h1, h2, h3, h4⟩ := go a
        refine ⟨w, h1, .inr ?_, by omega, fun v hv => ?_⟩
        · rcases h2 with rfl | h2
          · exact List.mem_cons_self
          · exact List.mem_cons_of_mem _ h2
        · rcases List.mem_cons.1 hv with rfl | hv
          · exact h3
          · exact h4 v hv
      next hge =>
        obtain ⟨w, h1, h2, h3, h4⟩ := go b
        refine ⟨w, h1, h2.imp id (List.mem_cons_of_mem _), h3, fun v hv => ?_⟩
        rcases List.mem_cons.1 hv with rfl | hv
        · omega
        · exact h4 v hv
    · subst hb
      obtain ⟨w, h1, h2, h3, h4⟩ := go a
      refine ⟨w, h1, ?_, fun v hv => ?_⟩
      · rcases h2 with rfl | h2
        · exact List.mem_cons_self
        · exact List.mem_cons_of_mem _ h2
      · rcases List.mem_cons.1 hv with rfl | hv
        · exact h3
        · exact h4 v hv

/-- An allocation takes the lowest free way, else the least recently used (R219). -/
theorem victimWay_takes (s : State) (x : Slice) (q : Place) (hne : waysOf s q.part ≠ []) :
    let free := fun w => isValid (frameOf x q.set w).half0 = false ∧ isValid (frameOf x q.set w).half1 = false
    ∃ w, victimWay s x q = some w ∧ w ∈ waysOf s q.part
      ∧ (free w → ∀ v ∈ waysOf s q.part, v < w → ¬ free v)
      ∧ (¬ free w → ∀ v ∈ waysOf s q.part, ¬ free v ∧ (frameOf x q.set w).used ≤ (frameOf x q.set v).used) := by
  intro free
  have hsort : (waysOf s q.part).Pairwise (· < ·) := List.Pairwise.filter _ List.pairwise_lt_range
  let pick := fun w => !isValid (frameOf x q.set w).half0 && !isValid (frameOf x q.set w).half1
  have hpick (w : Nat) : pick w = true ↔ free w := by simp [pick, free]
  have hdef : victimWay s x q = match (waysOf s q.part).find? pick with
    | some w => some w
    | none => (waysOf s q.part).foldl (older x q.set) none := rfl
  cases hf : (waysOf s q.part).find? pick with
  | some w =>
    rw [hf] at hdef
    obtain ⟨hw, as, bs, hl, has⟩ := List.find?_eq_some_iff_append.1 hf
    refine ⟨w, hdef, List.mem_of_find?_eq_some hf, fun _ v hv hlt hfree => ?_, fun h => absurd ((hpick w).1 hw) h⟩
    rw [hl] at hv hsort
    rcases List.mem_append.1 hv with h | h
    · exact absurd ((hpick v).2 hfree) (by simpa using has v h)
    · rcases List.mem_cons.1 h with rfl | h
      · omega
      · have := (List.pairwise_cons.1 (List.pairwise_append.1 hsort).2.1).1 v h
        omega
  | none =>
    rw [hf] at hdef
    have hnone (v : Nat) (hv : v ∈ waysOf s q.part) : ¬ free v := fun h =>
      List.find?_eq_none.1 hf v hv ((hpick v).2 h)
    obtain ⟨w, h1, h2, h3⟩ := (foldl_older x q.set (waysOf s q.part) none).2 rfl hne
    exact ⟨w, hdef.trans h1, h2, fun h => absurd h (hnone w h2), fun _ v hv => ⟨hnone v hv, h3 v hv⟩⟩

/-! ### Evictions (R219, R223) -/

/-- What a part of a turn does to the slice's lines: it names its effects and no wait. -/
structure Places (u t : Turn) (q : Place) (way : Nat) (f : Bool → Option Line) : Prop where
  state : Wrought u.s t.s
  net : u.s.net = t.s.net
  lines : Lines (sliceOf u.s q.i) (sliceOf t.s q.i) q.set way f
  rest : KeepsRest (sliceOf u.s q.i) (sliceOf t.s q.i)
  effs : u.effs = t.effs
  stall : u.stall = t.stall

theorem Places.refl (t : Turn) (q : Place) (way : Nat) : Places t t q way (halfOf (frameOf (sliceOf t.s q.i) q.set way)) :=
  ⟨.refl _, rfl, .of_frames rfl, ⟨rfl, rfl, rfl, rfl⟩, rfl, rfl⟩

theorem Places.trans {v u t : Turn} {q : Place} {way : Nat} {f g : Bool → Option Line} (a : Places v u q way f) (b : Places u t q way g) :
    Places v t q way f :=
  ⟨a.state.trans b.state, a.net.trans b.net, a.lines.trans b.lines, a.rest.trans b.rest, a.effs.trans b.effs, a.stall.trans b.stall⟩

theorem Places.congr {u t : Turn} {q : Place} {way : Nat} {f g : Bool → Option Line} (a : Places u t q way f) (h : ∀ b, f b = g b) :
    Places u t q way g := { a with lines := a.lines.congr h }

/-- A frame written in its slice. -/
def Turn.putFrame (t : Turn) (q : Place) (way : Nat) (fr : Frame) : Turn :=
  { t with s := setSlice t.s q.i (setFrame (sliceOf t.s q.i) q.set way fr) }

theorem setFrame_places (t : Turn) (q : Place) (way : Nat) (fr : Frame) : Places (t.putFrame q way fr) t q way (halfOf fr) := by
  unfold Turn.putFrame
  refine ⟨setSlice_wrought .., rfl, ?_, ?_, rfl, rfl⟩ <;> dsimp only <;> rw [setSlice_self]
  · exact lines_setFrame ..
  · exact ⟨rfl, rfl, rfl, rfl⟩

/-- A half that holds no dirty line is dropped without a write-back. -/
theorem evictHalf_drops (t : Turn) (q : Place) (way : Nat) (h : Bool)
    (hc : ∀ l, halfOf (frameOf (sliceOf t.s q.i) q.set way) h = some l → l.dead = true ∨ l.dirty = 0) :
    Places (evictHalf q way h t) t q way (fun b => if b = h then none else halfOf (frameOf (sliceOf t.s q.i) q.set way) b) := by
  unfold evictHalf
  dsimp only
  cases hl : halfOf (frameOf (sliceOf t.s q.i) q.set way) h with
  | none =>
    refine (Places.refl t q way).congr fun b => ?_
    by_cases hb : b = h
    · rw [if_pos hb, hb, hl]
    · rw [if_neg hb]
  | some l =>
    dsimp only
    rw [if_pos (by simpa using hc l hl)]
    exact (setFrame_places t q way _).congr fun b => halfOf_setHalf ..

theorem evictFrame_clears (t : Turn) (q : Place) (way : Nat)
    (hc : ∀ h l, halfOf (frameOf (sliceOf t.s q.i) q.set way) h = some l → l.dead = true ∨ l.dirty = 0) :
    Places (evictFrame q way t) t q way (fun _ => none) := by
  have h0 := evictHalf_drops t q way false (hc false)
  have h1 := evictHalf_drops (evictHalf q way false t) q way true fun l hl => hc true l (by rw [h0.lines.half] at hl; simpa using hl)
  refine (h1.trans h0).congr fun b => ?_
  rw [h0.lines.half]
  cases b <;> rfl

/-- A line that stays in its form goes back to its place. -/
theorem putLine_here (t : Turn) (q : Place) (way : Nat) (h : Bool) (l : Line) :
    Places (putLine q way h false l t) t q way
      (fun b => if b = h then some l else halfOf (frameOf (sliceOf t.s q.i) q.set way) b) :=
  (setFrame_places t q way _).congr fun _ => halfOf_setHalf ..

/-- A written line that fits its half no longer takes the whole frame: its clean partner is dropped and the split counted (R223). -/
theorem putLine_splits (t : Turn) (q : Place) (way : Nat) (h : Bool) (l p : Line) (hs : l.shrink = none)
    (hp : halfOf (frameOf (sliceOf t.s q.i) q.set way) (!h) = some p) (hd : p.dead = false) (hc : p.dirty = 0) :
    let u := putLine q way h true l t
    (frameOf (sliceOf u.s q.i) q.set way).half0 = some l ∧ (frameOf (sliceOf u.s q.i) q.set way).half1 = none
      ∧ (sliceOf u.s q.i).pairSplits = satAdd (sliceOf t.s q.i).pairSplits 1 ∧ u.effs = t.effs ∧ u.stall = t.stall := by
  let x := sliceOf t.s q.i
  let t0 : Turn := { t with s := setSlice t.s q.i { x with pairSplits := satAdd x.pairSplits 1 } }
  have hx0 : sliceOf t0.s q.i = { x with pairSplits := satAdd x.pairSplits 1 } := setSlice_self ..
  have hv : isValid (halfOf (frameOf x q.set way) (!h)) = true := by rw [hp, isValid, hd]; rfl
  have h1 := evictHalf_drops t0 q way (!h) fun m hm => by
    rw [hx0] at hm
    exact .inr ((Option.some.inj (hm.symm.trans hp)) ▸ hc)
  let t1 := evictHalf q way (!h) t0
  let fr : Frame := { frameOf (sliceOf t1.s q.i) q.set way with half0 := some l, half1 := none }
  have h2 := setFrame_places t1 q way fr
  intro u
  have hu : u = t1.putFrame q way fr := by
    have hu' : u = splitPair q way h l t := by
      simp only [u, putLine, hs]
      rfl
    rw [hu', splitPair]
    dsimp only
    rw [if_pos hv]
    rfl
  rw [hu]
  refine ⟨h2.lines.half false, h2.lines.half true, ?_, h2.effs.trans h1.effs, h2.stall.trans h1.stall⟩
  rw [h2.rest.splits, h1.rest.splits, hx0]

/-! ### A request on a line that stands (R226, R227) -/

/-- The request with what its work on the line has given it. -/
def Req.given (r : Req) (a : Applied) (i : Nat) : Req :=
  { r with resp := BitVec.ofNat 512 a.resp, olds := a.olds, poison := a.poison, why := sectorWhy i a.bad, stage := .inSlice }

/-- A request on a resident line: its answer or its wait, and the line as it left it. -/
structure Serves (u t : Turn) (q : Place) (n way : Nat) (h : Bool) (a : Applied) (r : Req) (more : List SliceEff) : Prop where
  state : Wrought u.s t.s
  net : u.s.net = put t.s.net n (r.given a q.i)
  lines : Lines (sliceOf u.s q.i) (sliceOf t.s q.i) q.set way
    (fun b => if b = h ∧ a.wrote = true then some a.line else halfOf (frameOf (sliceOf t.s q.i) q.set way) b)
  rest : KeepsRest (sliceOf u.s q.i) (sliceOf t.s q.i)
  effs : u.effs = t.effs ++ more
  stall : u.stall = t.stall

theorem serveResident_serves (t : Turn) (q : Place) (n : Nat) (r : Req) (way : Nat) (h : Bool) (l : Line) (answer : List SliceEff)
    (hb : fillOf (sliceOf t.s q.i) q.line = none → (applyReq l r).bad = []) (hh : (applyReq l r).wrote = true → l.halfOnly = false) :
    Serves (serveResident t q n r way h l answer) t q n way h (applyReq l r) r
      (if (fillOf (sliceOf t.s q.i) q.line).isSome then [.join q.i q.line ⟨n, 0, way, h, (applyReq l r).bad⟩] else answer) := by
  unfold serveResident
  dsimp only
  generalize applyReq l r = a at hb hh ⊢
  have hsl : sliceOf (respond t.s n r a q.i) q.i = sliceOf t.s q.i := rfl
  rw [hsl]
  have hrep : (if (fillOf (sliceOf t.s q.i) q.line).isSome = true then respond t.s n r a q.i
      else sectorReports (respond t.s n r a q.i) q way h none r a.bad) = respond t.s n r a q.i := by
    cases hf : fillOf (sliceOf t.s q.i) q.line with
    | none => rw [hb hf]; rfl
    | some f => rfl
  rw [hrep, hsl]
  generalize (if (fillOf (sliceOf t.s q.i) q.line).isSome = true then _ else answer) = more
  let v : Turn := { t with s := setSlice (respond t.s n r a q.i) q.i (useFrame (sliceOf t.s q.i) q.set way), effs := t.effs ++ more }
  have hv : sliceOf v.s q.i = useFrame (sliceOf t.s q.i) q.set way := setSlice_self ..
  have hu := lines_useFrame (sliceOf t.s q.i) q.set way
  have hvr : KeepsRest (sliceOf v.s q.i) (sliceOf t.s q.i) := by rw [hv]; exact ⟨rfl, rfl, rfl, rfl⟩
  have hvw : Wrought v.s t.s := ⟨rfl⟩
  by_cases hw : a.wrote = true
  · rw [if_pos hw, hh hw]
    have hp := putLine_here v q way h a.line
    refine ⟨hp.state.trans hvw, hp.net, ?_, hp.rest.trans hvr, hp.effs, hp.stall⟩
    refine (hp.lines.trans (hv ▸ hu)).congr fun b => ?_
    rw [hv, hu.half]
    by_cases hb : b = h <;> simp [hb, hw]
  · rw [if_neg hw]
    refine ⟨hvw, rfl, ?_, hvr, rfl, rfl⟩
    refine (hv ▸ hu : Lines (sliceOf v.s q.i) _ _ _ _).congr fun b => ?_
    rw [if_neg fun h => hw h.2]

/-! ### The end of a turn (R225) -/

theorem noteAct_keeps (s : State) (i pc : Nat) : sliceOf (noteAct s i pc) i = { sliceOf s i with lastAct := some pc } := setSlice_self ..

theorem answered_slice (s : State) (i pc n : Nat) (r : Req) (c : Nat) :
    sliceOf (answer (noteAct s i pc) n r c) i = { sliceOf s i with lastAct := some pc } := noteAct_keeps ..

theorem endTurn_runs {t : Turn} (i pc : Nat) (h : t.stall = none) : endTurn t i pc = runEffs (noteAct t.s i pc) pc t.effs := by
  unfold endTurn
  dsimp only
  rw [h]

/-- A turn whose one effect is an answer. -/
theorem endTurn_answers {t : Turn} {i pc n dt : Nat} {r : Req} (h : t.stall = none) (he : t.effs = [.answer n dt]) (hn : find t.s.net n = some r) :
    endTurn t i pc = answer (noteAct t.s i pc) n r (pc + dt) := by
  have hn' : find (noteAct t.s i pc).net n = some r := hn
  rw [endTurn_runs i pc h, he]
  change (match find (noteAct t.s i pc).net n with | some r => _ | none => _) = _
  rw [hn']

end Sys2Proof.Machine
end

section
/-! PROOF. Requests on a resident line (R226, R231, R236, R237): the first part of O37. -/

namespace Sys2Proof.Machine

section Resident
variable {s : State} {n way : Nat} {j : Fin 5} {r : Req} {q : Place} {h : Bool} {l : Line} (hsh : isShared s q.granule = false)
  (hf : findLine (sliceOf s q.i) q.set q.granule q.tag = some (way, h, l)) (hd : l.dead = false)
include hf hd

omit hsh in
theorem access_resident (hn : ∀ k ∈ needed r, l.valid.getLsbD k = true)
    (ht : scheduledAt s q r = true ∨ ∀ k ∈ touched r, l.valid.getLsbD k = true) :
    access s q n r = serveResident { s := s } q n r way h l [.answer n (hitTime r)] := by
  unfold access
  dsimp only
  rw [hf]
  dsimp only
  rw [if_neg (by simp [hd]), if_pos (List.all_eq_true.2 hn), if_pos]
  rcases ht with ht | ht
  · simp [ht]
  · simp only [Bool.or_eq_true, List.all_eq_true]
    exact .inr ht

include hsh in
/-- A request on a resident line is answered in its hit time, with what its work on the line gave it. -/
theorem serve_resident (hl : l.halfOnly = false) (hfl : (sliceOf s q.i).fills = []) (hb : (applyReq l r).bad = [])
    (hw : writesNothing r = false) (hn : ∀ k ∈ needed r, l.valid.getLsbD k = true)
    (ht : scheduledAt s q r = true ∨ ∀ k ∈ touched r, l.valid.getLsbD k = true) :
    let t := serve n j q r s
    (find t.net n = some { r.given (applyReq l r) q.i with stage := .answered (pclk s j.val + hitTime r + 24 * r.hops) })
      ∧ t.dram = s.dram ∧ t.shelf = s.shelf ∧ t.clm = s.clm
      ∧ halfOf (frameOf (sliceOf t q.i) q.set way) h = some (applyReq l r).line := by
  have hfill : fillOf (sliceOf s q.i) q.line = none := by rw [fillOf, hfl]; rfl
  have hs := serveResident_serves { s := s } q n r way h l [.answer n (hitTime r)] (fun _ => hb) fun _ => hl
  have ha := access_resident (n := n) hf hd hn ht
  rw [show fillOf (sliceOf ({ s := s } : Turn).s q.i) q.line = none from hfill] at hs
  generalize serveResident { s := s } q n r way h l [.answer n (hitTime r)] = u at hs ha
  have hserve : serve n j q r s = endTurn u q.i (pclk s j.val) := by
    unfold serve
    rw [hw, hsh, ha]
    rfl
  have hend := endTurn_answers (i := q.i) (pc := pclk s j.val) (n := n) (dt := hitTime r) (r := r.given (applyReq l r) q.i) hs.stall hs.effs
    (by rw [hs.net]; exact find_put_same ..)
  intro t
  have htt : t = answer (noteAct u.s q.i (pclk s j.val)) n (r.given (applyReq l r) q.i) (pclk s j.val + hitTime r) := hserve.trans hend
  clear_value t
  subst htt
  refine ⟨setReq_find .., hs.state.dram, hs.state.shelf, hs.state.clm, ?_⟩
  rw [answered_slice]
  refine (hs.lines.half h).trans ?_
  by_cases hwr : (applyReq l r).wrote = true
  · rw [if_pos ⟨rfl, hwr⟩]
  · rw [if_neg fun h => hwr h.2, applyReq_line hl (Bool.eq_false_iff.2 hwr)]
    exact findLine_stands hf

end Resident

/-! ### Range operations (R236, R237) -/

/-- A range request that has no more to do is answered 11 PCLK after its turn. -/
theorem rangeDone_answers {t : Turn} {n i pc : Nat} {r : Req} (hs : t.stall = none) (he : t.effs = []) :
    endTurn (rangeDone t n r 11) i pc
      = answer (noteAct (setReq t.s n { r with stage := .inSlice }) i pc) n { r with stage := .inSlice } (pc + 11) :=
  endTurn_answers hs (by rw [rangeDone, he]; rfl) (setReq_find ..)

/-- Of a range request's answer: the line that it left in its place, and the vault as it was. -/
theorem serveRange_answers {s : State} {n : Nat} {j : Fin 5} {q : Place} {r : Req} {f : Place → Nat → Req → State → Turn} {u : Turn}
    (hsh : isShared s q.granule = false) (hf : f q n r s = rangeDone u n r 11) (hs : u.stall = none) (he : u.effs = []) (hu : u.s.dram = s.dram) :
    let t := serveRange n j f q r s
    (∃ r', find t.net n = some r' ∧ r'.stage = .answered (pclk s j.val + 11 + 24 * r.hops)) ∧ t.dram = s.dram
      ∧ (sliceOf t q.i).frames = (sliceOf u.s q.i).frames := by
  intro t
  have ht : t = answer (noteAct (setReq u.s n { r with stage := .inSlice }) q.i (pclk s j.val)) n { r with stage := .inSlice }
      (pclk s j.val + 11) := by
    simp only [t, serveRange]
    rw [hsh, hf]
    exact rangeDone_answers hs he
  clear_value t
  subst ht
  refine ⟨⟨_, setReq_find .., rfl⟩, hu, ?_⟩
  rw [answered_slice]
  rfl

section Range
variable {s : State} {n way : Nat} {r : Req} {q : Place} {h : Bool} {l : Line}
  (hf : findLine (sliceOf s q.i) q.set q.granule q.tag = some (way, h, l)) (hd : l.dead = false)
include hf

theorem rangeDead_marks : rangeDead q n r s = rangeDone (Turn.putFrame { s := s } q way (setHalf (frameOf (sliceOf s q.i) q.set way) h
    (some { dead := true, tag := q.tag, granule := q.granule, halfOnly := l.halfOnly }))) n r 11 := by
  unfold rangeDead
  dsimp only
  rw [hf]
  rfl

include hd

theorem rangePrefetch_uses : rangePrefetch q n r s = rangeDone { s := setSlice s q.i (useFrame (sliceOf s q.i) q.set way) } n r 11 := by
  unfold rangePrefetch
  dsimp only
  rw [hf]
  exact if_neg (by simp [hd])

omit hd in
theorem rangeFlush_leaves (hc : l.dirty = 0) : rangeFlush q n r s = rangeDone { s := s } n r 11 := by
  unfold rangeFlush
  dsimp only
  rw [hf]
  exact if_pos (by simp [hc])

omit hd in
theorem rangeInvalidate_drops (hc : l.dirty = 0) : rangeInvalidate q n r s =
    rangeDone (Turn.putFrame { s := s } q way (setHalf (frameOf (sliceOf s q.i) q.set way) h none)) n r 11 := by
  unfold rangeInvalidate
  dsimp only
  rw [hf]
  exact if_pos (by simp [hc])

end Range

theorem writesNothing_of {r : Req} (h : r.mask ≠ 0 ∨ r.kind ≠ .store) : writesNothing r = false := by
  unfold writesNothing
  split
  next hk => simpa using h.resolve_right fun hn => hn hk
  next => rfl

theorem needed_load {r : Req} (hk : r.kind = .load) : needed r = touched r := by
  unfold needed wholeSectors
  rw [hk]
  rfl

theorem hitTime_of (r : Req) : hitTime r = if isAtomic r then 15 else 11 := rfl

end Sys2Proof.Machine
end

section
/-! PROOF. Requests on an absent line: the place it takes, its fetch, and what passes the slice (R226 to R228, R233). -/

namespace Sys2Proof.Machine

/-! ### What stands before an allocation (R225, R230) -/

theorem memRaw_empty {s : State} {q : Place} (h : (sliceOf s q.i).wb = []) : memRaw s q = vaultRaw s q.P q.off := by
  unfold memRaw entriesOf
  rw [h]
  rfl

/-- Training on a miss changes the slice's trackers only. -/
theorem trainMiss_places (s : State) (q : Place) (a way : Nat) :
    Places { s := (trainMiss s q a).1 } { s := s } q way (halfOf (frameOf (sliceOf s q.i) q.set way))
      ∧ (sliceOf (trainMiss s q a).1 q.i).frames = (sliceOf s q.i).frames := by
  have key (y : Slice) (hf : y.frames = (sliceOf s q.i).frames) (hr : KeepsRest y (sliceOf s q.i)) :
      Places { s := setSlice s q.i y } { s := s } q way (halfOf (frameOf (sliceOf s q.i) q.set way))
        ∧ (sliceOf (setSlice s q.i y) q.i).frames = (sliceOf s q.i).frames := by
    have hy := setSlice_self s q.i y
    exact ⟨⟨setSlice_wrought .., rfl, hy.symm ▸ .of_frames hf, hy.symm ▸ hr, rfl, rfl⟩, hy.symm ▸ hf⟩
  unfold trainMiss
  dsimp only
  split
  · exact key _ rfl ⟨rfl, rfl, rfl, rfl⟩
  · split
    · exact key _ rfl ⟨rfl, rfl, rfl, rfl⟩
    · exact ⟨Places.refl { s := s } q way, rfl⟩

/-- A turn that has the place for a line: nothing is under fill, and its effects so far are `pre`. -/
structure Ready (v : Turn) (s : State) (q : Place) (way : Nat) (f : Bool → Option Line) (pre : List SliceEff) : Prop where
  state : Wrought v.s s
  net : v.s.net = s.net
  lines : Lines (sliceOf v.s q.i) (sliceOf s q.i) q.set way f
  fills : (sliceOf v.s q.i).fills = []
  effs : v.effs = pre
  stall : v.stall = none

theorem Places.ready {v : Turn} {s : State} {q : Place} {way : Nat} {f : Bool → Option Line} (a : Places v { s := s } q way f)
    (h : (sliceOf s q.i).fills = []) : Ready v s q way f [] :=
  ⟨a.state, a.net, a.lines, a.rest.fills.trans h, a.effs, a.stall⟩

/-! ### The fetch of a line (R226) -/

/-- What a request leaves of a line that it finds. -/
def keptLine (l : Line) (r : Req) : Line := if (applyReq l r).wrote then (applyReq l r).line else l

/-- A turn that fetches a line into a half: the line stands there, and the request waits for the fill. -/
structure Fetches (u v : Turn) (q : Place) (n way : Nat) (h : Bool) (l : Line) (r : Req) : Prop where
  state : Wrought u.s v.s
  net : ∃ r', find u.s.net n = some r' ∧ r'.stage = .inSlice
  lines : Lines (sliceOf u.s q.i) (sliceOf v.s q.i) q.set way
    (fun b => if b = h then some l else halfOf (frameOf (sliceOf v.s q.i) q.set way) b)
  fills : ∃ f, (sliceOf u.s q.i).fills = [f] ∧ f.lineAddr = q.line ∧ f.place = (way, h) ∧ f.waiters = [] ∧ f.back = none
  wb : (sliceOf u.s q.i).wb = (sliceOf v.s q.i).wb
  effs : ∃ w : Waiter, w.req = n ∧ u.effs = v.effs ++ [.send q.P { slice := q.i, kind := .fetch q.line, scheduled := laneSlot r, off := q.off },
    .join q.i q.line w]
  stall : u.stall = v.stall

/-- The slice with the fetched line in its place and its fill under way. -/
def Slice.filling (x : Slice) (q : Place) (way : Nat) (h : Bool) (l : Line) (raw : BitVec 1024 × BitVec 128) : Slice :=
  { setFrame x q.set way (setHalf (frameOf x q.set way) h (some l)) with
    fills := x.fills ++ [{ lineAddr := q.line, part := q.part, place := (way, h), waiters := [], raw := raw, pch := q.P, off := q.off }] }

def Turn.filling (t : Turn) (q : Place) (r : Req) (way : Nat) (h : Bool) (l : Line) (raw : BitVec 1024 × BitVec 128) : Turn :=
  { t with s := setSlice t.s q.i ((sliceOf t.s q.i).filling q way h l raw)
           effs := t.effs ++ [.send q.P { slice := q.i, kind := .fetch q.line, scheduled := laneSlot r, off := q.off }] }

theorem startFill_eq (t : Turn) (q : Place) (n : Nat) (r : Req) (way : Nat) (h : Bool) (l : Line) (raw : BitVec 1024 × BitVec 128) :
    startFill t q n r way h l raw = serveFilled (t.filling q r way h l raw) q n r way h l := rfl

theorem startFill_fetches (t : Turn) (q : Place) (n : Nat) (r : Req) (way : Nat) (h : Bool) (l : Line) (raw : BitVec 1024 × BitVec 128)
    (hfl : (sliceOf t.s q.i).fills = []) (hh : (applyReq l r).wrote = true → l.halfOnly = false) :
    Fetches (startFill t q n r way h l raw) t q n way h (keptLine l r) r := by
  have hx : sliceOf (t.filling q r way h l raw).s q.i = (sliceOf t.s q.i).filling q way h l raw := setSlice_self ..
  have hlines : Lines (sliceOf (t.filling q r way h l raw).s q.i) (sliceOf t.s q.i) q.set way
      (fun b => if b = h then some l else halfOf (frameOf (sliceOf t.s q.i) q.set way) b) := by
    rw [hx]
    exact ⟨(lines_setHalf ..).others, (lines_setHalf ..).half⟩
  have hfills : (sliceOf (t.filling q r way h l raw).s q.i).fills =
      [{ lineAddr := q.line, part := q.part, place := (way, h), waiters := [], raw := raw, pch := q.P, off := q.off }] := by
    rw [hx, Slice.filling, hfl]
    rfl
  have hwb : (sliceOf (t.filling q r way h l raw).s q.i).wb = (sliceOf t.s q.i).wb := by rw [hx]; rfl
  have heffs : (t.filling q r way h l raw).effs = t.effs ++ [.send q.P { slice := q.i, kind := .fetch q.line, scheduled := laneSlot r, off := q.off }] := rfl
  have hstate : Wrought (t.filling q r way h l raw).s t.s := ⟨rfl⟩
  have hstall : (t.filling q r way h l raw).stall = t.stall := rfl
  rw [startFill_eq]
  generalize t.filling q r way h l raw = v at hlines hfills hwb heffs hstate hstall ⊢
  by_cases hk : r.kind = .prefetch
  · have hw : keptLine l r = l := by simp [keptLine, applyReq, hk]
    have hs : serveFilled v q n r way h l = { v with
        s := setReq (setSlice v.s q.i (useFrame (sliceOf v.s q.i) q.set way)) n { r with stage := .inSlice }
        effs := v.effs ++ [.join q.i q.line ⟨n, 0, way, h, []⟩] } := by
      unfold serveFilled
      rw [hk]
    have hsl : sliceOf (serveFilled v q n r way h l).s q.i = useFrame (sliceOf v.s q.i) q.set way := by
      rw [hs]
      exact setSlice_self v.s q.i _
    have hu := lines_useFrame (sliceOf v.s q.i) q.set way
    refine ⟨?_, ⟨{ r with stage := .inSlice }, ?_, rfl⟩, ?_, ⟨_, (congrArg Slice.fills hsl).trans hfills, rfl, rfl, rfl, rfl⟩, ?_, ⟨⟨n, 0, way, h, []⟩, rfl, ?_⟩, ?_⟩
    · rw [hs]; exact (setReq_wrought _ _ _).trans ((setSlice_wrought _ _ _).trans hstate)
    · rw [hs]; exact setReq_find ..
    · rw [hsl, hw]
      exact (hu.trans hlines).congr fun b => hlines.half b
    · rw [hsl]; exact hwb
    · rw [hs, heffs]; simp
    · rw [hs]; exact hstall
  · have hs : serveFilled v q n r way h l = serveResident v q n r way h l [] := by
      unfold serveFilled
      split
      next h => exact absurd h hk
      next => rfl
    have hfill : (fillOf (sliceOf v.s q.i) q.line).isSome = true := by
      rw [fillOf, hfills]
      simp
    have hr := serveResident_serves v q n r way h l [] (fun h => by rw [h] at hfill; cases hfill) hh
    rw [if_pos hfill] at hr
    rw [hs]
    refine ⟨hr.state.trans hstate, ⟨r.given (applyReq l r) q.i, by rw [hr.net]; exact find_put_same .., rfl⟩, ?_,
      ⟨_, hr.rest.fills.trans hfills, rfl, rfl, rfl, rfl⟩, hr.rest.wb.trans hwb, ⟨⟨n, 0, way, h, (applyReq l r).bad⟩, rfl, ?_⟩, hr.stall.trans hstall⟩
    · refine (hr.lines.trans hlines).congr fun b => ?_
      rw [hlines.half]
      unfold keptLine
      by_cases hb : b = h <;> by_cases hw : (applyReq l r).wrote = true <;> simp [hb, hw]
    · rw [hr.effs, heffs]
      simp

end Sys2Proof.Machine
end

section
/-! PROOF. How a turn on an absent line ends: its fill, its answer or its request to the vault (R225 to R228, R234). -/

namespace Sys2Proof.Machine

/-! ### Effects (R235, R252) -/

def SliceEff.isSend : SliceEff → Bool
  | .send _ _ => true
  | _ => false

theorem runEffs_append (s : State) (base : Nat) (a b : List SliceEff) : runEffs s base (a ++ b) = runEffs (runEffs s base a) base b :=
  List.foldl_append ..

/-- Requests to controllers change the queues only. -/
theorem runEffs_sends (s : State) (base : Nat) (l : List SliceEff) (h : l.all SliceEff.isSend = true) :
    runEffs s base l = { s with pchs := (runEffs s base l).pchs } := by
  refine List.foldlRecOn (motive := fun u : State => u = { s with pchs := u.pchs }) _ _ rfl fun u hu e he => ?_
  have hs := List.all_eq_true.1 h e he
  cases e with
  | send P c =>
    change sendCtrl u P { c with arrive := base + 8 } = _
    rw [hu]
    rfl
  | answer n dt => cases hs
  | join i line w => cases hs

theorem sendCtrl_queue (s : State) (P : Nat) (c : CtrlReq) : (pchOf (sendCtrl s P c) P).queue = (pchOf s P).queue ++ [c] :=
  congrArg Pch.queue (setPch_self ..)

theorem sendCtrl_mem {s : State} {P P' : Nat} {c c' : CtrlReq} (h : c' ∈ (pchOf s P').queue) : c' ∈ (pchOf (sendCtrl s P c) P').queue := by
  unfold sendCtrl
  rw [pchOf_setPch]
  split
  next he => exact List.mem_append_left _ (he ▸ h)
  next => exact h

theorem joinFill_waits {s : State} {i line : Nat} {f : Fill} (w : Waiter) (hf : (sliceOf s i).fills = [f]) (hl : f.lineAddr = line) :
    joinFill s i line w = setSlice s i { sliceOf s i with fills := [{ f with waiters := f.waiters ++ [w] }] } := by
  have hx : fillOf (sliceOf s i) line = some f := by simp [fillOf, hf, hl]
  have hm : (sliceOf s i).fills.map (fun g => if g = f then { g with waiters := g.waiters ++ [w] } else g)
      = [{ f with waiters := f.waiters ++ [w] }] := by rw [hf, List.map_singleton, if_pos rfl]
  unfold joinFill
  dsimp only
  rw [hx]
  dsimp only
  rw [hm]

/-- What a turn that fetches a line leaves of the module. -/
structure Filled (t s : State) (q : Place) (n way : Nat) (h : Bool) (f : Bool → Option Line) (wb : SMap WbEntry) : Prop where
  dram : t.dram = s.dram
  fills : ∃ g, (sliceOf t q.i).fills = [g] ∧ g.lineAddr = q.line ∧ g.place = (way, h) ∧ g.waiters.map (·.req) = [n] ∧ g.back = none
  net : ∃ r', find t.net n = some r' ∧ r'.stage = .inSlice
  lines : Lines (sliceOf t q.i) (sliceOf s q.i) q.set way f
  wb : (sliceOf t q.i).wb = wb

/-- The request to the controller that a fetch sends at PCLK pc. -/
def fetchReq (q : Place) (r : Req) (pc : Nat) : CtrlReq :=
  { slice := q.i, kind := .fetch q.line, arrive := pc + 8, scheduled := laneSlot r, off := q.off }

/-- The end of a turn that fetches a line. -/
theorem endTurn_fetches {u v : Turn} {s : State} {q : Place} {n way : Nat} {h : Bool} {l : Line} {r : Req} {g : Bool → Option Line}
    {pre : List SliceEff} (pc : Nat) (hv : Ready v s q way g pre) (hu : Fetches u v q n way h l r) (hp : pre.all SliceEff.isSend = true) :
    let t := endTurn u q.i pc
    Filled t s q n way h (fun b => if b = h then some l else g b) (sliceOf v.s q.i).wb
      ∧ (pre = [] → (pchOf t q.P).queue = (pchOf s q.P).queue ++ [fetchReq q r pc])
      ∧ (∀ P c, pre = [.send P c] → { c with arrive := pc + 8 } ∈ (pchOf t P).queue) := by
  obtain ⟨w, hwn, heffs⟩ := hu.effs
  obtain ⟨f, hf, hfl, hfp, hfw, hfb⟩ := hu.fills
  let s0 := noteAct u.s q.i pc
  let s1 := runEffs s0 pc pre
  have h1 : s1 = { s0 with pchs := s1.pchs } := runEffs_sends s0 pc pre hp
  have hsl0 : sliceOf s0 q.i = { sliceOf u.s q.i with lastAct := some pc } := noteAct_keeps ..
  have hsl1 : sliceOf (sendCtrl s1 q.P (fetchReq q r pc)) q.i = { sliceOf u.s q.i with lastAct := some pc } := by
    rw [← hsl0, h1]
    rfl
  have hend : endTurn u q.i pc = joinFill (sendCtrl s1 q.P (fetchReq q r pc)) q.i q.line { w with from_ := pc } := by
    rw [endTurn_runs _ _ (hu.stall.trans hv.stall), heffs, hv.effs, runEffs_append]
    rfl
  have hj := joinFill_waits (s := sendCtrl s1 q.P (fetchReq q r pc)) (i := q.i) (line := q.line) { w with from_ := pc }
    (by rw [hsl1]; exact hf) hfl
  rw [hsl1] at hj
  intro t
  have ht := hend.trans hj
  change t = _ at ht
  clear_value t
  subst ht
  refine ⟨⟨?_, ⟨{ f with waiters := f.waiters ++ [{ w with from_ := pc }] }, ?_, hfl, hfp, by simp [hfw, hwn], hfb⟩, ?_, ?_, ?_⟩, fun hpre => ?_,
    fun P c hpre => ?_⟩
  · change s1.dram = _
    rw [h1]
    exact hu.state.dram.trans hv.state.dram
  · rw [setSlice_self]
  · obtain ⟨r', h2, h3⟩ := hu.net
    refine ⟨r', ?_, h3⟩
    change find s1.net n = _
    rw [h1]
    exact h2
  · rw [setSlice_self]
    have hl := (hu.lines.trans hv.lines).congr (g := fun b => if b = h then some l else g b) fun b => by rw [hv.lines.half]
    exact ⟨hl.others, hl.half⟩
  · rw [setSlice_self]
    exact hu.wb
  · refine (sendCtrl_queue s1 q.P (fetchReq q r pc)).trans ?_
    have hs : s1 = s0 := by simp only [s1, hpre]; rfl
    rw [hs, pchOf, show s0.pchs = s.pchs from hu.state.pchs.trans hv.state.pchs]
    rfl
  · refine sendCtrl_mem (s := s1) (P := q.P) (c := fetchReq q r pc) ?_
    have hs : s1 = sendCtrl s0 P { c with arrive := pc + 8 } := by simp only [s1, hpre]; rfl
    rw [hs, sendCtrl_queue]
    exact List.mem_append_right _ (List.mem_singleton_self _)

/-! ### The place of a line (R219, R222) -/

theorem lineFromVault_form (q : Place) (raw : BitVec 1024 × BitVec 128) : (lineFromVault q raw).halfOnly = false := by
  unfold lineFromVault
  generalize List.range 4 = ks
  refine List.foldlRecOn (motive := fun l : Line => l.halfOnly = false) ks _ rfl ?_
  intro l hl k _
  exact (putUnit_keeps l k _).1.trans hl

section Alloc
variable {t : Turn} {q : Place} {n way : Nat} {r : Req} {h : Bool} {l : Line}

theorem allocFetch_frame (hs : (placesInHalf r && compressing t.s q.part) = false) (hv : victimWay t.s (sliceOf t.s q.i) q = some way) :
    allocFetch t q n r =
      startFill (evictFrame q way t) q n r way false (lineFromVault q (memRaw t.s q)) (memRaw t.s q) := by
  unfold allocFetch allocPlace
  dsimp only
  rw [hs, if_neg (by decide)]
  generalize lineFromVault q (memRaw t.s q) = full
  dsimp only [Option.bind]
  rw [hv]
  rfl

variable (hk : placesInHalf r = true) (hc : compressing t.s q.part = true) (hl : (lineFromVault q (memRaw t.s q)).shrink = some l)
include hk hc hl

theorem allocFetch_half (hp : pairHalf t.s (sliceOf t.s q.i) q = some (way, h)) :
    allocFetch t q n r = startFill t q n r way h l (memRaw t.s q) := by
  unfold allocFetch allocPlace
  dsimp only
  rw [hk, hc, Bool.and_self, if_pos rfl, hl]
  dsimp only [Option.bind]
  rw [hp]
  rfl

theorem allocFetch_shrunk (hp : pairHalf t.s (sliceOf t.s q.i) q = none) (hv : victimWay t.s (sliceOf t.s q.i) q = some way) :
    allocFetch t q n r = startFill (evictFrame q way t) q n r way false l (memRaw t.s q) := by
  unfold allocFetch allocPlace
  dsimp only
  rw [hk, hc, Bool.and_self, if_pos rfl, hl]
  dsimp only [Option.bind]
  rw [hp]
  dsimp only [Option.map]
  rw [hv]
  rfl

end Alloc

/-! ### A scheduled request on an absent line (R227, R230) -/

/-- The turn of a scheduled request whose line is absent, before it allocates: a load has trained the detector. -/
def missTurn (s : State) (q : Place) (r : Req) : Turn := if isLoad r then { s := (trainMiss s q r.addr).1 } else { s := s }

theorem missTurn_places (s : State) (q : Place) (r : Req) (way : Nat) :
    Places (missTurn s q r) { s := s } q way (halfOf (frameOf (sliceOf s q.i) q.set way))
      ∧ (sliceOf (missTurn s q r).s q.i).frames = (sliceOf s q.i).frames := by
  unfold missTurn
  split
  · exact trainMiss_places ..
  · exact ⟨Places.refl { s := s } q way, rfl⟩

section Absent
variable {s : State} {q : Place} {n : Nat} {r : Req} {j : Fin 5} (hf : findLine (sliceOf s q.i) q.set q.granule q.tag = none)
  (hfl : (sliceOf s q.i).fills = []) (hwb : (sliceOf s q.i).wb = []) (hsh : isShared s q.granule = false)
include hf hfl hwb

theorem access_absent : access s q n r = meetAbsent { s := s } q n r (scheduledAt s q r) := by
  have hw : wbOf (sliceOf s q.i) q.line = none := by rw [wbOf, hwb]; rfl
  have hx : fillOf (sliceOf s q.i) q.line = none := by rw [fillOf, hfl]; rfl
  unfold access
  dsimp only
  rw [hf]
  dsimp only
  rw [hw, hx]
  rfl

include hsh in
theorem serve_absent (hn : writesNothing r = false) : serve n j q r s = endTurn (meetAbsent { s := s } q n r (scheduledAt s q r)) q.i (pclk s j.val) := by
  unfold serve
  rw [hn, hsh, access_absent hf hfl hwb]
  rfl

theorem rangePrefetch_absent (hs : scheduledAt s q r = true) (hk : r.kind = .prefetch) :
    rangePrefetch q n r s = allocFetch (missTurn s q r) q n r := by
  have hw : wbOf (sliceOf s q.i) q.line = none := by rw [wbOf, hwb]; rfl
  have hx : fillOf (sliceOf s q.i) q.line = none := by rw [fillOf, hfl]; rfl
  unfold rangePrefetch missTurn isLoad
  dsimp only
  rw [hf, hk]
  dsimp only
  rw [hw, hs, hx]
  rfl

omit hf hfl hwb in
/-- A scheduled request that does not store whole sectors, and does not bypass, fetches its line. -/
theorem meetAbsent_fetches (hw : wholeSectors r = false) (hb : isLoad r = true → (trainMiss s q r.addr).2 = false) :
    meetAbsent { s := s } q n r true = allocFetch (missTurn s q r) q n r := by
  unfold meetAbsent missTurn
  rw [hw]
  cases hl : isLoad r with
  | true =>
    dsimp only
    rw [hb hl]
    rfl
  | false => rfl

omit hf hfl in
/-- The words that a request on an absent line fetches are those of the vault. -/
theorem missTurn_raw : memRaw (missTurn s q r).s q = vaultRaw s q.P q.off := by
  obtain ⟨hp, -⟩ := missTurn_places s q r 0
  rw [memRaw_empty (hp.rest.wb.trans hwb)]
  exact hp.state.vaultRaw ..

end Absent

end Sys2Proof.Machine
end

section
/-! PROOF. An absent line's fetch into a clean, a dirty and a compressed frame (R219, R222, R226, R233). -/

namespace Sys2Proof.Machine

/-- No line of a frame has to be written back. -/
def CleanFrame (f : Frame) : Prop := ∀ h l, halfOf f h = some l → l.dead = true ∨ l.dirty = 0

theorem cleanFrame_of {f : Frame} (h0 : ∀ l, f.half0 = some l → l.dead = true ∨ l.dirty = 0)
    (h1 : ∀ l, f.half1 = some l → l.dead = true ∨ l.dirty = 0) : CleanFrame f := by
  intro h l
  cases h
  · exact h0 l
  · exact h1 l

theorem keptLine_load {l : Line} {r : Req} (hk : r.kind = .load) : keptLine l r = l := by
  rw [keptLine, applyReq_load hk]
  rfl

section Fetch
variable {s : State} {q : Place} {n way : Nat} {r : Req} (pc : Nat) (hfl : (sliceOf s q.i).fills = []) (hwb : (sliceOf s q.i).wb = [])
include hfl hwb

/-- A line fetched into a frame that is cleared for it. -/
theorem filled_frame (l : Line) (raw : BitVec 1024 × BitVec 128) (hc : CleanFrame (frameOf (sliceOf s q.i) q.set way))
    (hh : (applyReq l r).wrote = true → l.halfOnly = false) :
    let t := endTurn (startFill (evictFrame q way (missTurn s q r)) q n r way false l raw) q.i pc
    Filled t s q n way false (fun b => if b = false then some (keptLine l r) else none) []
      ∧ (pchOf t q.P).queue = (pchOf s q.P).queue ++ [fetchReq q r pc] := by
  obtain ⟨hp, -⟩ := missTurn_places s q r way
  have he := evictFrame_clears (missTurn s q r) q way fun h l hl => hc h l ((hp.lines.half h).symm.trans hl)
  have hv := (he.trans hp).ready hfl
  obtain ⟨h1, h2, -⟩ := endTurn_fetches pc hv (startFill_fetches (evictFrame q way (missTurn s q r)) q n r way false l raw hv.fills hh) rfl
  rw [(he.trans hp).rest.wb.trans hwb] at h1
  exact ⟨h1, h2 rfl⟩

/-- A request fetches its line into the frame that the allocation takes. -/
theorem fetch_frame (hs : (placesInHalf r && compressing s q.part) = false) (hv : victimWay s (sliceOf s q.i) q = some way)
    (hc : CleanFrame (frameOf (sliceOf s q.i) q.set way)) :
    let t := endTurn (allocFetch (missTurn s q r) q n r) q.i pc
    Filled t s q n way false (fun b => if b = false then some (keptLine (lineFromVault q (vaultRaw s q.P q.off)) r) else none) []
      ∧ (pchOf t q.P).queue = (pchOf s q.P).queue ++ [fetchReq q r pc] := by
  obtain ⟨hp, hframes⟩ := missTurn_places s q r way
  rw [allocFetch_frame (by rw [hp.state.compressing]; exact hs) ((victimWay_congr q (hp.state.waysOf _) hframes).trans hv), missTurn_raw hwb]
  exact filled_frame pc hfl hwb _ _ hc fun _ => lineFromVault_form ..

variable (hk : r.kind = .load) (hcomp : compressing s q.part = true) {l : Line} (hl : (lineFromVault q (vaultRaw s q.P q.off)).shrink = some l)
include hk hcomp hl

/-- A compressible line goes beside a compressed one (R222). -/
theorem fetch_half {h : Bool} (hv : pairHalf s (sliceOf s q.i) q = some (way, h)) :
    Filled (endTurn (allocFetch (missTurn s q r) q n r) q.i pc) s q n way h
      (fun b => if b = h then some l else halfOf (frameOf (sliceOf s q.i) q.set way) b) [] := by
  obtain ⟨hp, hframes⟩ := missTurn_places s q r way
  rw [← missTurn_raw (r := r) hwb] at hl
  rw [allocFetch_half (by rw [placesInHalf, hk]) (by rw [hp.state.compressing]; exact hcomp) hl
    ((pairHalf_congr q (hp.state.waysOf _) hframes).trans hv)]
  have hready := hp.ready hfl
  obtain ⟨h1, -⟩ := endTurn_fetches pc hready (startFill_fetches (missTurn s q r) q n r way h l (memRaw (missTurn s q r).s q) hready.fills
    fun h => by rw [applyReq_load hk] at h; cases h) rfl
  rw [hp.rest.wb.trans hwb, keptLine_load hk] at h1
  exact h1

/-- Where no half is free it takes a frame. -/
theorem fetch_shrunk (hv : pairHalf s (sliceOf s q.i) q = none) (hw : victimWay s (sliceOf s q.i) q = some way)
    (hc : CleanFrame (frameOf (sliceOf s q.i) q.set way)) :
    Filled (endTurn (allocFetch (missTurn s q r) q n r) q.i pc) s q n way false (fun b => if b = false then some l else none) [] := by
  obtain ⟨hp, hframes⟩ := missTurn_places s q r way
  rw [← missTurn_raw (r := r) hwb] at hl
  rw [allocFetch_shrunk (by rw [placesInHalf, hk]) (by rw [hp.state.compressing]; exact hcomp) hl
    ((pairHalf_congr q (hp.state.waysOf _) hframes).trans hv) ((victimWay_congr q (hp.state.waysOf _) hframes).trans hw)]
  have h1 := (filled_frame (n := n) (r := r) pc hfl hwb l (memRaw (missTurn s q r).s q) hc fun h => by rw [applyReq_load hk] at h; cases h).1
  rw [keptLine_load hk] at h1
  exact h1

end Fetch

/-! ### The write-back of a dirty line (R219, R233) -/

theorem noteSectors_clean (s : State) (q : Place) (way : Nat) (h : Bool) (l : Line)
    (hc : ∀ k, k < 4 → l.dirty.getLsbD k = true → (l.sector k).cls.1 = 0) :
    (List.range 4).foldl (fun s k => if l.dirty.getLsbD k then noteSector s q.i q.part true (placeLoc q.set way h k none) (l.sector k) else s) s = s := by
  refine List.foldlRecOn (motive := fun u : State => u = s) _ _ rfl fun u hu k hk => ?_
  split
  next hd =>
    rw [noteSector, if_pos (hc k (List.mem_range.1 hk) hd)]
    exact hu
  next => exact hu

/-- The buffer entry of a dirty line. -/
def Line.entry (l : Line) (q : Place) (way : Nat) (h : Bool) (a order : Nat) : WbEntry :=
  { lineAddr := a, part := q.part, granule := l.granule, data := (readDirty l).data, chk := (readDirty l).chk, valid := (readDirty l).valid
    dirty := (readDirty l).dirty, set := q.set, way := way, half := h, order := order }

theorem expand_keeps (l : Line) : l.expand.valid = l.valid ∧ l.expand.dirty = l.dirty := by
  unfold Line.expand
  split
  · exact ⟨rfl, rfl⟩
  · generalize List.range 4 = ks
    refine List.foldlRecOn (motive := fun m : Line => m.valid = l.valid ∧ m.dirty = l.dirty) ks _ ⟨rfl, rfl⟩ ?_
    intro m hm k _
    obtain ⟨-, h1, h2, -⟩ := putUnit_keeps m k (l.unitAlone k)
    exact ⟨h1.trans hm.1, h2.trans hm.2⟩

theorem readDirty_keeps (l : Line) : (readDirty l).valid = l.valid ∧ (readDirty l).dirty = l.dirty := by
  unfold readDirty
  generalize List.range 4 = ks
  refine List.foldlRecOn (motive := fun m : Line => m.valid = l.valid ∧ m.dirty = l.dirty) ks _ (expand_keeps l) ?_
  intro m hm k _
  generalize unitOf (l.sector k) = w
  split
  · obtain ⟨-, h1, h2, -⟩ := putUnit_keeps m k w
    exact ⟨h1.trans hm.1, h2.trans hm.2⟩
  · exact hm

section Evict
variable {t : Turn} {q : Place} {way e : Nat} {share : List Nat} {v : Line}

theorem takeEntry_first {s : State} {x : Slice} {p : Nat} (hsh : shareOf s p = e :: share) (hwb : x.wb = []) : takeEntry s x p = some (e, none) := by
  unfold takeEntry
  dsimp only
  rw [hsh, hwb]
  rfl

/-- The turn once a dirty line stands in the buffer's entry e. -/
def Turn.buffered (t : Turn) (q : Place) (e : Nat) (w : WbEntry) (c : SliceEff) : Turn :=
  { s := setSlice t.s q.i { sliceOf t.s q.i with wb := [(e, w)], clock := (sliceOf t.s q.i).clock + 1 }
    effs := t.effs ++ [c], stall := t.stall, full := t.full }

/-- The controller request of a write-back. -/
def backReq (q : Place) (e off : Nat) : CtrlReq := { slice := q.i, kind := .writeBack e, scheduled := true, off := off }

theorem writeBack_buffers {a P off : Nat} {h : Bool} (hsh : shareOf t.s q.part = e :: share) (hwb : (sliceOf t.s q.i).wb = [])
    (hc : ∀ k, k < 4 → v.dirty.getLsbD k = true → (v.sector k).cls.1 = 0) : ∃ order,
    writeBack t q way h v a P off = t.buffered q e (v.entry q way h a order) (.send P (backReq q e off)) := by
  refine ⟨(sliceOf t.s q.i).clock + 1, ?_⟩
  unfold writeBack
  rw [takeEntry_first hsh hwb]
  dsimp only
  rw [noteSectors_clean t.s q way h v hc, hwb]
  unfold Turn.buffered
  rw [Option.isSome_none, Bool.and_false, Bool.or_false]
  cases t.stall <;> rfl

/-- A dirty line of an else empty frame is evicted: it stands in the buffer, and its write-back is before the controller. -/
theorem evictFrame_buffers (hsh : shareOf t.s q.part = e :: share) (hwb : (sliceOf t.s q.i).wb = [])
    (h0 : (frameOf (sliceOf t.s q.i) q.set way).half0 = some v) (h1 : (frameOf (sliceOf t.s q.i) q.set way).half1 = none) (hd : v.dead = false)
    (hv : v.dirty ≠ 0) (hc : ∀ k, k < 4 → v.dirty.getLsbD k = true → (v.sector k).cls.1 = 0) :
    let a := lineAddrOf t.s q.i q.set v
    let u := evictFrame q way t
    ∃ order, Wrought u.s t.s ∧ u.s.net = t.s.net ∧ Lines (sliceOf u.s q.i) (sliceOf t.s q.i) q.set way (fun _ => none)
      ∧ (sliceOf u.s q.i).fills = (sliceOf t.s q.i).fills ∧ (sliceOf u.s q.i).wb = [(e, v.entry q way false a order)]
      ∧ u.effs = t.effs ++ [.send (vaultPlace t.s (128 * a)).1 (backReq q e (vaultPlace t.s (128 * a)).2)] ∧ u.stall = t.stall := by
  intro a u
  let t1 := t.putFrame q way (setHalf (frameOf (sliceOf t.s q.i) q.set way) false none)
  have hp := (setFrame_places t q way (setHalf (frameOf (sliceOf t.s q.i) q.set way) false none)).congr (g := fun _ => none) fun b => by
    rw [halfOf_setHalf]
    cases b
    · rfl
    · exact h1
  obtain ⟨order, hw⟩ := writeBack_buffers (t := t1) (q := q) (way := way) (v := v) (a := a) (P := (vaultPlace t.s (128 * a)).1)
    (off := (vaultPlace t.s (128 * a)).2) (h := false) hsh (hp.rest.wb.trans hwb) hc
  have hu0 : evictHalf q way false t =
      t1.buffered q e (v.entry q way false a order) (.send (vaultPlace t.s (128 * a)).1 (backReq q e (vaultPlace t.s (128 * a)).2)) := by
    rw [← hw]
    unfold evictHalf
    dsimp only
    rw [show halfOf (frameOf (sliceOf t.s q.i) q.set way) false = some v from h0]
    exact if_neg (by simpa [hd] using hv)
  generalize hz : t1.buffered q e _ _ = z at hu0
  have hsl : sliceOf z.s q.i = { sliceOf t1.s q.i with wb := [(e, v.entry q way false a order)], clock := (sliceOf t1.s q.i).clock + 1 } := by
    rw [← hz]
    exact setSlice_self ..
  have hl : Lines (sliceOf z.s q.i) (sliceOf t.s q.i) q.set way (fun _ => none) := by
    rw [hsl]
    exact ⟨hp.lines.others, hp.lines.half⟩
  have hu : u = z := by
    simp only [u, evictFrame, hu0]
    unfold evictHalf
    dsimp only
    rw [hl.half]
  rw [hu]
  refine ⟨order, ?_, ?_, hl, ?_, ?_, ?_, ?_⟩
  · rw [← hz]; exact Wrought.trans ⟨rfl⟩ hp.state
  · rw [← hz]; exact hp.net
  · rw [hsl]; exact hp.rest.fills
  · rw [hsl]
  · rw [← hz]; exact congrArg (· ++ _) hp.effs
  · rw [← hz]; exact hp.stall

end Evict

theorem Wrought.lineAddrOf {u t : State} (h : Wrought u t) (i set : Nat) (l : Line) : lineAddrOf u i set l = Machine.lineAddrOf t i set l := by
  rw [h.rest]
  rfl

theorem Wrought.vaultPlace {u t : State} (h : Wrought u t) (a : Nat) : vaultPlace u a = Machine.vaultPlace t a := by
  rw [h.rest]
  rfl

/-- A request fetches its line into a frame whose dirty line goes into the buffer. -/
theorem fetch_dirty {s : State} {q : Place} {n way e : Nat} {r : Req} {share : List Nat} {v : Line} (pc : Nat) (hfl : (sliceOf s q.i).fills = [])
    (hwb : (sliceOf s q.i).wb = []) (hs : (placesInHalf r && compressing s q.part) = false) (hw : victimWay s (sliceOf s q.i) q = some way)
    (hsh : shareOf s q.part = e :: share) (h0 : (frameOf (sliceOf s q.i) q.set way).half0 = some v)
    (h1 : (frameOf (sliceOf s q.i) q.set way).half1 = none) (hd : v.dead = false) (hv : v.dirty ≠ 0)
    (hc : ∀ k, k < 4 → v.dirty.getLsbD k = true → (v.sector k).cls.1 = 0) :
    let t := endTurn (allocFetch (missTurn s q r) q n r) q.i pc
    let a := lineAddrOf s q.i q.set v
    ∃ order c, Filled t s q n way false (fun b => if b = false then some (keptLine (lineFromVault q (vaultRaw s q.P q.off)) r) else none)
        [(e, v.entry q way false a order)]
      ∧ c ∈ (pchOf t (vaultPlace s (128 * a)).1).queue ∧ c.slice = q.i ∧ c.kind = .writeBack e ∧ c.arrive = pc + 8 := by
  obtain ⟨hp, hframes⟩ := missTurn_places s q r way
  rw [allocFetch_frame (by rw [hp.state.compressing]; exact hs) ((victimWay_congr q (hp.state.waysOf _) hframes).trans hw), missTurn_raw hwb]
  have half (b : Bool) : halfOf (frameOf (sliceOf (missTurn s q r).s q.i) q.set way) b = halfOf (frameOf (sliceOf s q.i) q.set way) b :=
    hp.lines.half b
  obtain ⟨order, k1, k2, k3, k4, k5, k6, k7⟩ := evictFrame_buffers (t := missTurn s q r) (q := q) (way := way) ((hp.state.shareOf _).trans hsh)
    (hp.rest.wb.trans hwb) ((half false).trans h0) ((half true).trans h1) hd hv hc
  rw [hp.state.lineAddrOf, hp.state.vaultPlace, hp.effs] at k6
  rw [hp.state.lineAddrOf] at k5
  have hready : Ready (evictFrame q way (missTurn s q r)) s q way (fun _ => none)
      [.send (vaultPlace s (128 * lineAddrOf s q.i q.set v)).1 (backReq q e (vaultPlace s (128 * lineAddrOf s q.i q.set v)).2)] :=
    ⟨k1.trans hp.state, k2.trans hp.net, k3.trans hp.lines, k4.trans (hp.rest.fills.trans hfl), k6, k7.trans hp.stall⟩
  obtain ⟨g1, -, g2⟩ := endTurn_fetches pc hready (startFill_fetches (evictFrame q way (missTurn s q r)) q n r way false
    (lineFromVault q (vaultRaw s q.P q.off)) (vaultRaw s q.P q.off) hready.fills fun _ => lineFromVault_form ..) rfl
  rw [k5] at g1
  exact ⟨order, _, g1, g2 _ _ rfl, rfl, rfl, rfl⟩

end Sys2Proof.Machine
end

section
/-! PROOF. Stores of whole sectors, requests that pass the slice, and lines in the write-back buffer (R227, R228, R232, R234). -/

namespace Sys2Proof.Machine

/-! ### A store of whole sectors (R227) -/

theorem writeSector_whole (a : Applied) (k d : Nat) : (writeSector a k d (2 ^ 32 - 1)).bad = a.bad := by
  unfold writeSector
  rw [if_pos rfl]
  rfl

theorem touched_store {r : Req} (hk : r.kind = .store) :
    touched r = ((List.range 2).filter fun k => bits r.mask.toNat (32 * k) 32 ≠ 0).map (r.addr % 128 / 32 + ·) := by
  unfold touched
  rw [hk]

/-- It meets no stored sector. -/
theorem applyReq_whole {l : Line} {r : Req} (hk : r.kind = .store) (hw : wholeSectors r = true) (hs : r.skip = false) :
    (applyReq l r).bad = [] := by
  have hm : ∀ k ∈ touched r, bits r.mask.toNat (32 * (k - r.addr % 128 / 32)) 32 = 2 ^ 32 - 1 := by
    intro k hk'
    rw [touched_store hk] at hk'
    obtain ⟨i, hi, rfl⟩ := List.mem_map.1 hk'
    obtain ⟨hi, hne⟩ := List.mem_filter.1 hi
    rw [Nat.add_sub_cancel_left]
    unfold wholeSectors at hw
    rw [hk] at hw
    have := List.all_eq_true.1 hw i hi
    simpa [of_decide_eq_true hne] using this
  unfold applyReq
  dsimp only
  rw [hk]
  dsimp only
  rw [hs, if_neg (by decide)]
  refine List.foldlRecOn (motive := fun a : Applied => a.bad = []) _ _ rfl fun a ha k hk' => ?_
  rw [hm k hk', writeSector_whole]
  exact ha

section Store
variable {s : State} {q : Place} {n way : Nat} {r : Req} (pc : Nat)

/-- A store of whole sectors allocates without a fetch and is answered in its hit time. -/
theorem allocStore_answers (hfl : (sliceOf s q.i).fills = []) (hk : r.kind = .store) (hw : wholeSectors r = true) (hs : r.skip = false)
    (hv : victimWay s (sliceOf s q.i) q = some way) (hc : CleanFrame (frameOf (sliceOf s q.i) q.set way)) :
    let t := endTurn (allocStore { s := s } q n r) q.i pc
    (∃ r', find t.net n = some r' ∧ r'.stage = .answered (pc + 11 + 24 * r.hops))
      ∧ Lines (sliceOf t q.i) (sliceOf s q.i) q.set way
          (fun b => if b = false then some (applyReq { tag := q.tag, granule := q.granule } r).line else none)
      ∧ (sliceOf t q.i).fills = [] ∧ t.pchs = s.pchs ∧ t.dram = s.dram := by
  let l : Line := { tag := q.tag, granule := q.granule }
  have hp := evictFrame_clears { s := s } q way hc
  let u := evictFrame q way { s := s }
  let fr : Frame := { frameOf (sliceOf u.s q.i) q.set way with half0 := some l }
  have hq := ((setFrame_places u q way fr).trans hp).congr (g := fun b => if b = false then some l else none) fun b => by
    cases b
    · rfl
    · exact hp.lines.half true
  let v := u.putFrame q way fr
  have hvf : fillOf (sliceOf v.s q.i) q.line = none := by rw [fillOf, hq.rest.fills.trans hfl]; rfl
  have hr := serveResident_serves v q n r way false l [.answer n 11] (fun _ => applyReq_whole hk hw hs) fun _ => rfl
  rw [hvf] at hr
  have ha : allocStore { s := s } q n r = serveResident v q n r way false l [.answer n 11] := by
    unfold allocStore
    rw [show victimWay ({ s := s } : Turn).s (sliceOf ({ s := s } : Turn).s q.i) q = some way from hv]
    rfl
  rw [ha]
  generalize serveResident v q n r way false l [.answer n 11] = z at hr
  have hend := endTurn_answers (i := q.i) (pc := pc) (n := n) (dt := 11) (r := r.given (applyReq l r) q.i) (hr.stall.trans hq.stall)
    (hr.effs.trans (by rw [hq.effs]; rfl)) (by rw [hr.net]; exact find_put_same ..)
  intro t
  have ht : t = _ := hend
  clear_value t
  subst ht
  rw [answered_slice]
  refine ⟨⟨_, setReq_find .., rfl⟩, ?_, hr.rest.fills.trans (hq.rest.fills.trans hfl), hr.state.pchs.trans hq.state.pchs, hr.state.dram.trans hq.state.dram⟩
  have hl := (hr.lines.trans hq.lines).congr (g := fun b => if b = false then some (applyReq l r).line else none) fun b => by
    rw [hq.lines.half]
    cases b
    · by_cases hwr : (applyReq l r).wrote = true
      · rw [if_pos ⟨rfl, hwr⟩, if_pos rfl]
      · rw [if_neg fun h => hwr h.2, if_pos rfl, if_pos rfl, applyReq_line rfl (Bool.eq_false_iff.2 hwr)]
    · rfl
  exact ⟨hl.others, hl.half⟩

end Store

/-! ### Requests that pass the slice (R228) -/

/-- The end of a turn whose one effect is a request to a controller. -/
theorem endTurn_sends {t : Turn} {P : Nat} {c : CtrlReq} (i pc : Nat) (h : t.stall = none) (he : t.effs = [.send P c]) :
    endTurn t i pc = sendCtrl (noteAct t.s i pc) P { c with arrive := pc + 8 } := by
  rw [endTurn_runs _ _ h, he]
  rfl

theorem sent_slice (s : State) (i pc P : Nat) (c : CtrlReq) : sliceOf (sendCtrl (noteAct s i pc) P c) i = { sliceOf s i with lastAct := some pc } :=
  noteAct_keeps ..

theorem passBy_load {s : State} {q : Place} {n pc : Nat} {r : Req} (hwb : (sliceOf s q.i).wb = []) (hk : r.kind = .load) :
    let t := endTurn (passBy { s := s } q n r) q.i pc
    ∃ c, (sliceOf t q.i).frames = (sliceOf s q.i).frames ∧ (sliceOf t q.i).fills = (sliceOf s q.i).fills
      ∧ (pchOf t q.P).queue = (pchOf s q.P).queue ++ [c] ∧ c.kind = .uncached n ∧ c.arrive = pc + 8 ∧ c.need = secMask (touched r)
      ∧ c.raw = some (vaultRaw s q.P q.off) ∧ t.dram = s.dram := by
  have hp : passBy { s := s } q n r = { s := setReq s n { r with stage := .inSlice }
                                        effs := [uncachedReq q n r (some (memRaw s q)) (secMask (touched r))] } := by
    unfold passBy
    rw [hk]
    rfl
  intro t
  have ht := endTurn_sends (t := passBy { s := s } q n r) q.i pc (by rw [hp]) (by rw [hp]; rfl)
  change t = _ at ht
  clear_value t
  rw [hp, memRaw_empty hwb] at ht
  subst ht
  rw [sent_slice, sendCtrl_queue]
  exact ⟨_, rfl, rfl, rfl, rfl, rfl, rfl, rfl, rfl⟩

theorem vaultNote_keeps (s : State) (P off k : Nat) (f : Checked) : (vaultNote s P off k f).slices = s.slices ∧ (vaultNote s P off k f).pchs = s.pchs := by
  unfold vaultNote
  split
  · exact ⟨rfl, rfl⟩
  · dsimp only
    have m := reportFinding_mild (setVault s (P / 64) ((vaultOf s (P / 64)).flag (if f.cls.1 = 1 then 1 else 2) (now s))) (P / 128) 3 (P / 64 % 2) 8 f
      (vaultLoc P off k)
    rw [m.rest]
    exact ⟨rfl, rfl⟩

theorem vaultFault_mild (s : State) (part : Option Nat) (P : Nat) (f : Checked) : Mild (vaultFault s part P f) s := by
  unfold vaultFault
  split
  · exact raiseFaultO_mild ..
  · exact .refl s

theorem vaultMerge_keeps (s : State) (part : Option Nat) (P off k d mask : Nat) :
    (vaultMerge s part P off k d mask).slices = s.slices ∧ (vaultMerge s part P off k d mask).pchs = s.pchs := by
  unfold vaultMerge
  dsimp only
  generalize wordMerge s.dram vaultCodec (vaultWord P off + k) d mask = w
  have h := vaultNote_keeps { s with dram := w.1 } P off k w.2
  rw [(vaultFault_mild ..).rest]
  exact h

/-- A store in the vault leaves the slices and the queues of the controllers. -/
theorem vaultStore_keeps (s : State) (part : Option Nat) (P off : Nat) (r : Req) (secs : List Nat) :
    (vaultStore s part P off r secs).slices = s.slices ∧ (vaultStore s part P off r secs).pchs = s.pchs := by
  unfold vaultStore
  dsimp only
  split
  · exact ⟨rfl, rfl⟩
  · refine List.foldlRecOn (motive := fun t : State => t.slices = s.slices ∧ t.pchs = s.pchs) _ _ ⟨rfl, rfl⟩ fun t ht k _ => ?_
    have h := vaultMerge_keeps t part P off k (bits r.data.toNat (256 * (k - r.addr % 128 / 32)) 256)
      (bits r.mask.toNat (32 * (k - r.addr % 128 / 32)) 32)
    exact ⟨h.1.trans ht.1, h.2.trans ht.2⟩

theorem passBy_store {s : State} {q : Place} {n pc : Nat} {r : Req} (hk : r.kind = .store) :
    let t := endTurn (passBy { s := s } q n r) q.i pc
    ∃ c, (sliceOf t q.i).frames = (sliceOf s q.i).frames ∧ (pchOf t q.P).queue = (pchOf s q.P).queue ++ [c] ∧ c.kind = .uncached n
      ∧ c.arrive = pc + 8 ∧ t.dram = (vaultStore s (some q.part) q.P q.off r (touched r)).dram := by
  have hp : passBy { s := s } q n r =
      { s := setReq (vaultStore s (some q.part) q.P q.off r (touched r)) n { r with stage := .inSlice }
        effs := [uncachedReq q n r (some (0, 0)) 0] } := by
    unfold passBy
    rw [hk]
    rfl
  obtain ⟨h1, h2⟩ := vaultStore_keeps s (some q.part) q.P q.off r (touched r)
  intro t
  have ht := endTurn_sends (t := passBy { s := s } q n r) q.i pc (by rw [hp]) (by rw [hp]; rfl)
  change t = _ at ht
  clear_value t
  rw [hp] at ht
  generalize vaultStore s (some q.part) q.P q.off r (touched r) = v at h1 h2 ht ⊢
  subst ht
  rw [sent_slice, sendCtrl_queue]
  refine ⟨_, ?_, congrArg (· ++ _) ?_, rfl, rfl, rfl⟩
  · change (sliceOf v q.i).frames = _
    rw [sliceOf, h1]
    rfl
  · change (pchOf v q.P).queue = _
    rw [pchOf, h2]
    rfl

end Sys2Proof.Machine
end

section
/-! PROOF. Lines in the write-back buffer, and the whole of the requests' turn (R232, R234): O37. -/

namespace Sys2Proof.Machine

section Buffer
variable {s : State} {q : Place} {n key : Nat} {r : Req} {e : WbEntry} (hfl : (sliceOf s q.i).fills = []) (hwb : (sliceOf s q.i).wb = [(key, e)])

theorem needed_touched (r : Req) {k : Nat} (h : k ∈ needed r) : k ∈ touched r := by
  unfold needed at h
  split at h
  · cases h
  · split at h
    · exact List.mem_of_mem_filter h
    · exact h

/-- The line of a buffer entry. -/
def WbEntry.line (e : WbEntry) (q : Place) : Line :=
  { tag := q.tag, granule := e.granule, valid := e.valid, dirty := e.dirty, data := e.data, chk := e.chk }

/-- The entry after a request has written its line. -/
def WbEntry.written (e : WbEntry) (l : Line) : WbEntry := { e with data := l.data, chk := l.chk, valid := l.valid, dirty := l.dirty }

include hwb

theorem access_buffered (hf : findLine (sliceOf s q.i) q.set q.granule q.tag = none) (hl : e.lineAddr = q.line) :
    access s q n r = meetBuffer { s := s } q n r key e := by
  have hw : wbOf (sliceOf s q.i) q.line = some (key, e) := by simp [wbOf, hwb, hl]
  unfold access
  dsimp only
  rw [hf]
  dsimp only
  rw [hw]

/-- The turn of a request whose line is in the buffer. -/
theorem serve_buffered {j : Fin 5} (hf : findLine (sliceOf s q.i) q.set q.granule q.tag = none) (hl : e.lineAddr = q.line)
    (hsh : isShared s q.granule = false) (hn : writesNothing r = false) :
    serve n j q r s = endTurn (meetBuffer { s := s } q n r key e) q.i (pclk s j.val) := by
  unfold serve
  rw [hn, hsh, access_buffered hwb hf hl]
  rfl

include hfl in
/-- A line in the buffer is served from its entry, 4 PCLK later than a resident one (R232). -/
theorem meetBuffer_answers (pc : Nat) (hv : ∀ k ∈ touched r, e.valid.getLsbD k = true) (hb : (applyReq (e.line q) r).bad = []) :
    let t := endTurn (meetBuffer { s := s } q n r key e) q.i pc
    find t.net n = some { r.given (applyReq (e.line q) r) q.i with stage := .answered (pc + (hitTime r + 4) + 24 * r.hops) }
      ∧ (sliceOf t q.i).frames = (sliceOf s q.i).frames
      ∧ (sliceOf t q.i).wb = [(key, if (applyReq (e.line q) r).wrote then e.written (applyReq (e.line q) r).line else e)]
      ∧ (sliceOf t q.i).wbMerges = satAdd (sliceOf s q.i).wbMerges 1 ∧ t.pchs = s.pchs ∧ t.dram = s.dram := by
  have hm : wbMissing e r = [] := List.filter_eq_nil_iff.2 fun k hk => by simp [hv k (needed_touched r hk)]
  have hline : wbLine s q e r = e.line q := by rw [wbLine, hm]; rfl
  have hreads : wbReads s q e r = s := by rw [wbReads, hm]; rfl
  have hany : (isLoad r && (touched r).any fun k => !e.valid.getLsbD k) = false := by
    rw [Bool.and_eq_false_iff]
    exact .inr (List.any_eq_false.2 fun k hk => by simp [hv k hk])
  generalize ha : applyReq (e.line q) r = a at hb
  let v := respond s n r a q.i
  let y : Slice := { sliceOf s q.i with wb := [(key, if a.wrote then e.written a.line else e)], wbMerges := satAdd (sliceOf s q.i).wbMerges 1 }
  have hu : meetBuffer { s := s } q n r key e = { s := setSlice v q.i y, effs := [.answer n (hitTime r + 4)] } := by
    unfold meetBuffer
    rw [hany, if_neg (by decide)]
    dsimp only
    rw [hline, hreads, ha, hb]
    have hrep : sectorReports (respond s n r a q.i) q e.way e.half (some key) r [] = v := rfl
    rw [hrep]
    have hx : sliceOf v q.i = sliceOf s q.i := rfl
    have hput (w : WbEntry) : put (sliceOf s q.i).wb key w = [(key, w)] := by rw [hwb, put, if_pos rfl]
    have hs2 : (mapSlice v q.i fun x => { x with wb := put x.wb key (if a.wrote = true then e.written a.line else e), wbMerges := satAdd x.wbMerges 1 })
        = setSlice v q.i y := by
      rw [mapSlice, hx, hput]
    change (fun w : State => ({
      s := w, effs := [] ++ [if (fillOf (sliceOf w q.i) q.line).isSome then .join q.i q.line ⟨n, 0, e.way, e.half, []⟩ else .answer n (hitTime r + 4)] } : Turn))
      (mapSlice v q.i fun x => { x with wb := put x.wb key (if a.wrote = true then e.written a.line else e), wbMerges := satAdd x.wbMerges 1 }) = _
    rw [hs2]
    dsimp only
    have hfill : fillOf (sliceOf (setSlice v q.i y) q.i) q.line = none := by
      rw [setSlice_self, fillOf, show y.fills = [] from hfl]
      rfl
    rw [hfill]
    rfl
  have hend := endTurn_answers (t := meetBuffer { s := s } q n r key e) (i := q.i) (pc := pc) (n := n) (dt := hitTime r + 4) (r := r.given a q.i)
    (by rw [hu]) (by rw [hu]) (by rw [hu]; exact find_put_same ..)
  rw [hu] at hend ⊢
  intro t
  have ht : t = _ := hend
  clear_value t
  subst ht
  rw [answered_slice, setSlice_self]
  exact ⟨setReq_find .., rfl, rfl, rfl, rfl, rfl⟩

end Buffer

/-! ### The requests' turn -/

/-- A request that has written a line enables some byte. -/
theorem writesNothing_of_wrote {l : Line} {r : Req} (h : (applyReq l r).wrote = true) : writesNothing r = false := by
  by_cases hk : r.kind = .store
  · refine writesNothing_of (.inl fun hm => ?_)
    have ht : touched r = [] := by simp [touched_store hk, hm, bits]
    unfold applyReq at h
    dsimp only at h
    rw [hk] at h
    dsimp only at h
    rw [ht] at h
    split at h <;> cases h
  · exact writesNothing_of (.inr hk)

/-- A request that needs the sectors which it writes in part (R227). -/
theorem partialWrite_facts {r : Req} (h : (∃ fn ops, r.kind = .atomic fn ops) ∨ (∃ fn ops, r.kind = .red fn ops)
    ∨ (r.kind = .store ∧ wholeSectors r = false)) :
    wholeSectors r = false ∧ isLoad r = false ∧ placesInHalf r = false ∧ writesNothing r = false := by
  rcases h with ⟨fn, ops, hk⟩ | ⟨fn, ops, hk⟩ | ⟨hk, hw⟩
  · simp [wholeSectors, isLoad, placesInHalf, writesNothing, hk]
  · simp [wholeSectors, isLoad, placesInHalf, writesNothing, hk]
  · refine ⟨hw, by rw [isLoad, hk], by rw [placesInHalf, hk], writesNothing_of (.inl fun hm => ?_)⟩
    simp [wholeSectors, hk, hm, bits] at hw

theorem serveRange_eq {s : State} {q : Place} (n : Nat) (j : Fin 5) (f : Place → Nat → Req → State → Turn) (r : Req)
    (h : isShared s q.granule = false) : serveRange n j f q r s = endTurn (f q n r s) q.i (pclk s j.val) := by
  unfold serveRange
  rw [h]
  rfl

/-- Settles O37: on a resident line, on an absent one, and on one in the write-back buffer. -/
theorem sliceHits : Obligations.SliceHits := by
  refine ⟨fun s slice n g way h l j r hr => ?resident, fun s x q hne => victimWay_takes s x q hne,
    fun s slice n g way j r hr => ?absent, fun t q way h l p hs hp hd hc => putLine_splits t q way h l p hs hp hd hc⟩
  case resident =>
    intro q x hn hst hsp hq hon hsh hfl _ _ hfirst hf hd hl hb
    have ht : AtTurn s slice n j r := ⟨live_of hr, hn, hst, ⟨g, hsp⟩, hq, hfirst⟩
    have hx : x = sliceOf s q.i := by rw [hq]
    rw [hx] at hf hfl
    rw [← hq]
    have served (hw : writesNothing r = false) (hv : ∀ k ∈ needed r, l.valid.getLsbD k = true)
        (ho : scheduledAt s q r = true ∨ ∀ k ∈ touched r, l.valid.getLsbD k = true) := serve_resident (n := n) (j := j) hsh hf hd hl hfl hb hw hv ho
    have frames {t : State} {fr : Slice} (he : (sliceOf t q.i).frames = fr.frames) (b : Bool) :
        halfOf (frameOf (sliceOf t q.i) q.set way) b = halfOf (frameOf fr q.set way) b := by rw [frameOf, he]; rfl
    refine ⟨fun hk hm hv => ?load, fun hk hm hs hv => ?store, fun fn ops hk hs hv => ?atomic, fun fn ops hk hs hv => ?red, fun hk => ?prefetch,
      fun hk hc => ?flush, fun hk hc => ?invalidate, fun hk => ?dead⟩
    case load =>
      obtain ⟨h1, h2, h3, h4, -⟩ := served (writesNothing_of (.inl hm)) (by rw [needed_load hk]; exact hv) (.inr hv)
      exact ⟨_, _, ht.load hon hk, h1, by simp [hitTime_of, isAtomic, hk], rfl, rfl, h2, h3, h4⟩
    case store =>
      obtain ⟨h1, h2, h3, h4, h5⟩ := served (writesNothing_of (.inl hm)) hv (.inl hs)
      exact ⟨_, _, ht.store hon hk, h1, by simp [hitTime_of, isAtomic, hk], h2, h3, h4, h5⟩
    case atomic =>
      obtain ⟨h1, h2, -⟩ := served (writesNothing_of (.inr (by simp [hk]))) hv (.inl hs)
      exact ⟨_, _, ht.atomic hon hk, h1, by simp [hitTime_of, isAtomic, hk], rfl, h2⟩
    case red =>
      obtain ⟨h1, h2, -, -, h5⟩ := served (writesNothing_of (.inr (by simp [hk]))) hv (.inl hs)
      exact ⟨_, _, ht.reduction hon hk, h1, by simp [hitTime_of, isAtomic, hk], h2, fun _ => h5⟩
    case prefetch =>
      obtain ⟨⟨r', h1, h2⟩, h3, h4⟩ := serveRange_answers (j := j) hsh (rangePrefetch_uses (n := n) (r := r) hf hd) rfl rfl rfl
      refine ⟨_, r', ht.prefetch hon hk, h1, h2, h3, (frames h4 h).trans ?_⟩
      rw [setSlice_self, (lines_useFrame ..).half]
      exact findLine_stands hf
    case flush =>
      obtain ⟨⟨r', h1, h2⟩, h3, h4⟩ := serveRange_answers (j := j) hsh (rangeFlush_leaves (n := n) (r := r) hf hc) rfl rfl rfl
      exact ⟨_, r', ht.flush hon hk, h1, h2, h3, by rw [h4, hx]⟩
    case invalidate =>
      obtain ⟨⟨r', h1, h2⟩, h3, h4⟩ := serveRange_answers (j := j) hsh (rangeInvalidate_drops (n := n) (r := r) hf hc) rfl rfl rfl
      refine ⟨_, r', ht.invalidate hon hk, h1, h2, h3, (frames h4 h).trans ?_⟩
      rw [(setFrame_places ..).lines.half, halfOf_setHalf, if_pos rfl]
    case dead =>
      obtain ⟨⟨r', h1, h2⟩, h3, h4⟩ := serveRange_answers (j := j) hsh (rangeDead_marks (n := n) (r := r) hf) rfl rfl rfl
      refine ⟨_, r', ht.dead hon hk, h1, h2, h3, (frames h4 h).trans ?_⟩
      rw [(setFrame_places ..).lines.half, halfOf_setHalf, if_pos rfl]
  case absent =>
    intro pc q i x old fetched kept fetch others answered waiting clean load run partialWrite hn hst hsp hq hon hsh hfirst hfl hfind
    have ht : AtTurn s slice n j r := ⟨live_of hr, hn, hst, ⟨g, hsp⟩, hq, hq ▸ hfirst⟩
    have hon' : domOn s .slice slice.val = true := hq ▸ hon
    have loads (hk : r.kind = .load) : run (serve n j q r s) := .inl ⟨hk, ht.load hon' hk⟩
    have stores (hk : r.kind = .store) : run (serve n j q r s) := .inr (.inl ⟨hk, ht.store hon' hk⟩)
    have writes (hk : partialWrite) : run (serve n j q r s) := by
      rcases hk with ⟨fn, ops, hk⟩ | ⟨fn, ops, hk⟩ | ⟨hk, -⟩
      · exact .inr (.inr (.inl ⟨⟨fn, ops, hk⟩, ht.atomic hon' hk⟩))
      · exact .inr (.inr (.inr ⟨⟨fn, ops, hk⟩, ht.reduction hon' hk⟩))
      · exact stores hk
    have waits {t : State} {w : Nat} {h : Bool} {f : Bool → Option Line} {wb : SMap WbEntry} (hf : Filled t s q n w h f wb) : waiting t w h := by
      obtain ⟨g, h1, h2, h3, h4, h5⟩ := hf.fills
      obtain ⟨r', h6, h7⟩ := hf.net
      exact ⟨g, r', h1, h2, h3, h4, h5, h6, h7⟩
    refine ⟨fun hwb hs => ⟨fun hk hcomp hv h0 h1 => ?frame, fun v e share hk hcomp hv h0 h1 hd hdirty hclean hshare => ?dirty,
        fun h l hk hcomp hl hv => ?half, fun l hk hcomp hl hp hv h0 h1 => ?shrunk, fun hk hw hm hskip hv h0 h1 => ?whole,
        fun hk hcomp hv h0 h1 => ?prefetch⟩,
      fun hwb hs => ⟨fun hk => ?passedLoad, fun hk hw hm => ?passedStore⟩,
      fun key e hwb he hvalid hb => ⟨fun hk => ?bufferedLoad, fun hk hw => ?bufferedWrite⟩⟩
    case frame =>
      have hkind : wholeSectors r = false ∧ (isLoad r = true → (trainMiss s q r.addr).2 = false) ∧ writesNothing r = false
          ∧ (placesInHalf r && compressing s q.part) = false ∧ run (serve n j q r s) := by
        rcases hk with ⟨hk, hm⟩ | hk
        · refine ⟨by rw [wholeSectors, hk], fun _ => hm, writesNothing_of (.inr (by simp [hk])), ?_, loads hk⟩
          rcases hcomp with hc | hp
          · rw [hc, Bool.and_false]
          · rw [(partialWrite_facts hp).2.2.1, Bool.false_and]
        · obtain ⟨h1, h2, h3, h4⟩ := partialWrite_facts hk
          exact ⟨h1, fun h => absurd (h2.symm.trans h) (by decide), h4, by rw [h3, Bool.false_and], writes hk⟩
      obtain ⟨hw, hb, hnothing, hplace, hrun⟩ := hkind
      obtain ⟨h2, h3⟩ := fetch_frame (n := n) pc hfl hwb hplace hv (cleanFrame_of h0 h1)
      rw [← meetAbsent_fetches hw hb, ← hs, ← serve_absent hfind hfl hwb hsh hnothing] at h2 h3
      exact ⟨_, hrun, waits h2, h2.lines.others, h2.lines.half false, h2.lines.half true, h3, h2.wb, h2.dram⟩
    case dirty =>
      obtain ⟨hk, hm⟩ := hk
      obtain ⟨order, c, h2, h3, h4, h5, h6⟩ := fetch_dirty (n := n) (r := r) pc hfl hwb (by rw [hcomp, Bool.and_false]) hv hshare h0 h1 hd hdirty hclean
      rw [← meetAbsent_fetches (by rw [wholeSectors, hk]) fun _ => hm, ← hs,
        ← serve_absent hfind hfl hwb hsh (writesNothing_of (.inr (by simp [hk])))] at h2 h3
      exact ⟨_, _, c, loads hk, waits h2, h2.lines.others, h2.lines.half false, h2.wb, rfl, (readDirty_keeps v).2, rfl, (readDirty_keeps v).1,
        h3, h4, h5, h6, h2.dram⟩
    case half =>
      obtain ⟨hk, hm⟩ := hk
      have h2 := fetch_half (n := n) pc hfl hwb hk hcomp hl hv
      rw [← meetAbsent_fetches (by rw [wholeSectors, hk]) fun _ => hm, ← hs,
        ← serve_absent hfind hfl hwb hsh (writesNothing_of (.inr (by simp [hk])))] at h2
      refine ⟨_, loads hk, waits h2, h2.lines.others, (h2.lines.half h).trans (if_pos rfl), (h2.lines.half (!h)).trans (if_neg ?_), h2.wb, h2.dram⟩
      cases h <;> decide
    case shrunk =>
      obtain ⟨hk, hm⟩ := hk
      have h2 := fetch_shrunk (n := n) pc hfl hwb hk hcomp hl hp hv (cleanFrame_of h0 h1)
      rw [← meetAbsent_fetches (by rw [wholeSectors, hk]) fun _ => hm, ← hs,
        ← serve_absent hfind hfl hwb hsh (writesNothing_of (.inr (by simp [hk])))] at h2
      exact ⟨_, loads hk, waits h2, h2.lines.others, h2.lines.half false, h2.lines.half true, h2.dram⟩
    case whole =>
      obtain ⟨h2, h3, h4, h5, h6⟩ := allocStore_answers (n := n) pc hfl hk hw hskip hv (cleanFrame_of h0 h1)
      have ha : meetAbsent { s := s } q n r true = allocStore { s := s } q n r := by
        unfold meetAbsent
        rw [hw]
        rfl
      rw [← ha, ← hs, ← serve_absent hfind hfl hwb hsh (writesNothing_of (.inl hm))] at h2 h3 h4 h5 h6
      exact ⟨_, stores hk, h2, h3.others, h4, h3.half false, h3.half true, h5, h6⟩
    case prefetch =>
      obtain ⟨h2, h3⟩ := fetch_frame (n := n) (r := r) pc hfl hwb (by rw [hcomp, Bool.and_false]) hv (cleanFrame_of h0 h1)
      rw [← rangePrefetch_absent hfind hfl hwb hs hk, ← serveRange_eq n j rangePrefetch r hsh] at h2 h3
      have hkept : keptLine fetched r = fetched := by simp [keptLine, applyReq, hk]
      exact ⟨_, ht.prefetch hon' hk, waits h2, h2.lines.others, (h2.lines.half false).trans (congrArg some hkept), h3, h2.dram⟩
    case passedLoad =>
      obtain ⟨c, h2, h3, h4, h5, h6, h7, h8, h9⟩ := passBy_load (n := n) (pc := pc) hwb hk
      have hserve : serve n j q r s = endTurn (passBy { s := s } q n r) q.i pc := by
        rw [serve_absent hfind hfl hwb hsh (writesNothing_of (.inr (by simp [hk]))), hs]
        rfl
      rw [← hserve] at h2 h3 h4 h9
      exact ⟨_, c, loads hk, h2, h3.trans hfl, h4, h5, h6, h7, h8, h9⟩
    case passedStore =>
      obtain ⟨c, h2, h3, h4, h5, h6⟩ := passBy_store (s := s) (q := q) (n := n) (pc := pc) hk
      have hserve : serve n j q r s = endTurn (passBy { s := s } q n r) q.i pc := by
        rw [serve_absent hfind hfl hwb hsh (writesNothing_of (.inl hm)), hs]
        rfl
      rw [← hserve] at h2 h3 h6
      exact ⟨_, c, stores hk, h2, h3, h4, h5, h6⟩
    case bufferedLoad =>
      obtain ⟨h2, h3, h4, h5, h6, h7⟩ := meetBuffer_answers (n := n) hfl hwb pc hvalid hb
      rw [← serve_buffered (j := j) hwb hfind he hsh (writesNothing_of (.inr (by simp [hk])))] at h2 h3 h4 h5 h6 h7
      rw [applyReq_load hk] at h4
      exact ⟨_, _, loads hk, h2, by simp [hitTime_of, isAtomic, hk], rfl, h3, h4.trans hwb.symm, h5, h6, h7⟩
    case bufferedWrite =>
      obtain ⟨h2, h3, h4, h5, h6, h7⟩ := meetBuffer_answers (n := n) hfl hwb pc hvalid hb
      rw [← serve_buffered (j := j) hwb hfind he hsh (writesNothing_of_wrote hw)] at h2 h3 h4 h5 h6 h7
      exact ⟨_, e.written (applyReq (e.line q) r).line, hk.elim writes stores, ⟨_, h2, rfl⟩, h3, h4.trans (by rw [show (applyReq (e.line q) r).wrote = true from hw]; rfl),
        rfl, rfl, rfl, rfl, h5, h6, h7⟩

end Sys2Proof.Machine
end

section
/-! PROOF. Fills and acknowledgements of a slice, and the controllers' windows, refresh and modes (R226, R233, R252 to R258, R276): O38. -/

namespace Sys2Proof.Machine

/-! ### Fills (R226) -/

theorem vaultNote_rest (s : State) (P off k : Nat) (f : Checked) :
    vaultNote s P off k f = { s with vaults := (vaultNote s P off k f).vaults, collectors := (vaultNote s P off k f).collectors } := by
  unfold vaultNote reportFinding
  split
  · rfl
  · dsimp only
    split <;> rfl

theorem vaultReport_rest (s : State) (P off : Nat) (raw : BitVec 1024 × BitVec 128) (need : BitVec 4) : vaultReport s P off raw need =
    { s with vaults := (vaultReport s P off raw need).vaults, collectors := (vaultReport s P off raw need).collectors } := by
  unfold vaultReport
  generalize List.range 4 = ks
  refine List.foldlRecOn (motive := fun t : State => t = { s with vaults := t.vaults, collectors := t.collectors }) ks _ rfl ?_
  intro t ht k _
  split
  · have h := vaultNote_rest t P off k (vaultFinding raw k)
    rw [ht] at h ⊢
    exact h
  · exact ht

/-- The slice once its one fill has come back and its words are reported. -/
def fillCame (s : State) (i pc : Nat) (f : Fill) : State :=
  vaultReport (setSlice s i { sliceOf s i with fills := [], lastAct := some pc }) f.pch f.off f.raw 15

theorem fillCame_keeps (s : State) (i pc : Nat) (f : Fill) : let t := fillCame s i pc f
    (sliceOf t i).fills = [] ∧ (sliceOf t i).frames = (sliceOf s i).frames ∧ t.net = s.net ∧ t.dram = s.dram := by
  have hsl : sliceOf (fillCame s i pc f) i = { sliceOf s i with fills := [], lastAct := some pc } := by
    unfold fillCame
    rw [vaultReport_rest]
    exact setSlice_self s i _
  refine ⟨by rw [hsl], by rw [hsl], ?_, ?_⟩ <;> unfold fillCame <;> rw [vaultReport_rest] <;> rfl

/-- The waiters of a fill whose words are all correctable are answered in their order. -/
theorem sliceFillComplete_answers {s : State} {slice : Fin 512} {j : Fin 5} {f : Fill} (hr : s.sup.inReset = false)
    (hf : (sliceOf s slice.val).fills = [f]) (hb : f.back = some (pclk s j.val)) (hl : f.lost = false) (hw : vaultWhy f.pch f.raw 15 = none) :
    exec (.sliceFillComplete slice j) s = .next
      (f.waiters.zipIdx.foldl (fun u w => answerWaiter u (placeOf s (128 * f.lineAddr)) false (pclk s j.val) w.2 w.1)
        (fillCame s slice.val (pclk s j.val) f)) := by
  have he : (sliceOf s slice.val).fills.erase f = [] := by rw [hf, List.erase_cons_head]
  have hfind : (sliceOf s slice.val).fills.find? (·.back = some (pclk s j.val)) = some f := by
    rw [hf, List.find?_cons, hb, decide_eq_true rfl]
  change execSliceFillComplete slice j s = _
  unfold execSliceFillComplete
  dsimp only
  rw [hfind]
  dsimp only
  rw [hw, he, hl]
  exact onlyIf_on (live_of hr)

theorem answerWaiter_first {s : State} {q : Place} {F : Nat} {w : Waiter} {r : Req} (hn : find s.net w.req = some r) (hb : w.bad = []) :
    answerWaiter s q false F 0 w = answer s w.req r (F + missTime r - 96) := by
  unfold answerWaiter
  rw [hn, hb]
  simp [sectorReports]

/-- The request that waited for a line is answered at its miss time. -/
theorem sliceFillComplete_one {s : State} {slice : Fin 512} {j : Fin 5} {f : Fill} {w : Waiter} {r : Req} (hr : s.sup.inReset = false)
    (hf : (sliceOf s slice.val).fills = [f]) (hb : f.back = some (pclk s j.val)) (hl : f.lost = false) (hw : vaultWhy f.pch f.raw 15 = none)
    (h1 : f.waiters = [w]) (hbad : w.bad = []) (hn : find s.net w.req = some r) :
    ∃ t r', exec (.sliceFillComplete slice j) s = .next t ∧ (sliceOf t slice.val).fills = []
      ∧ (sliceOf t slice.val).frames = (sliceOf s slice.val).frames ∧ find t.net w.req = some r'
      ∧ r'.stage = .answered (pclk s j.val + missTime r - 96 + 24 * r.hops) ∧ r'.resp = r.resp ∧ t.dram = s.dram := by
  have hx := sliceFillComplete_answers hr hf hb hl hw
  have hk := fillCame_keeps s slice.val (pclk s j.val) f
  generalize fillCame s slice.val (pclk s j.val) f = u at hx hk
  obtain ⟨h2, h3, h4, h5⟩ := hk
  have ha := answerWaiter_first (s := u) (q := placeOf s (128 * f.lineAddr)) (F := pclk s j.val) (w := w) (r := r) (by rw [h4]; exact hn) hbad
  rw [h1] at hx
  generalize pclk s j.val + missTime r - 96 = c at ha ⊢
  exact ⟨_, { r with stage := .answered (c + 24 * r.hops) }, hx.trans (congrArg _ ha), h2, h3, setReq_find .., rfl, rfl, h5⟩

/-! ### Acknowledgements (R233) -/

theorem noteSector_clean {s : State} {i part : Nat} {faults : Bool} {loc : Nat} {f : Checked} (h : f.cls.1 = 0) : noteSector s i part faults loc f = s := by
  rw [noteSector, if_pos h]

theorem vaultPut_dram (s : State) (P off k : Nat) (f : Checked) : vaultPut s P off k f = { s with dram := (vaultPut s P off k f).dram } := by
  unfold vaultPut
  cases f <;> rfl

/-- An entry whose words are sound lands in the vault alone. -/
theorem landEntry_dram {s : State} {i key : Nat} {e : WbEntry}
    (h : ∀ k < 4, (getUnit { tag := 0, granule := e.granule, data := e.data, chk := e.chk } k).cls.1 = 0) :
    landEntry s i key e = { s with dram := (landEntry s i key e).dram } := by
  unfold landEntry
  dsimp only
  split
  · rfl
  · refine List.foldlRecOn (motive := fun t : State => t = { s with dram := t.dram }) _ _ rfl fun t ht k hk => ?_
    split
    · rw [noteSector_clean (h k (List.mem_range.1 hk)), vaultPut_dram, ht]
    · exact ht

/-- The slice without an acknowledged entry. -/
def ackedSlice (x : Slice) (pc key : Nat) : Slice := { x with lastAct := some pc, wb := drop x.wb key }

/-- An acknowledged entry lands, and what waits behind its share is to take its place. -/
theorem writeBackAck_frees {s : State} {slice : Fin 512} {j : Fin 5} {key : Nat} {e : WbEntry} (hr : s.sup.inReset = false)
    (hf : (sliceOf s slice.val).wb.find? (fun e => e.2.ack = some (pclk s j.val)) = some (key, e)) (hw : e.waiters = [])
    (hc : ∀ k < 4, (getUnit { tag := 0, granule := e.granule, data := e.data, chk := e.chk } k).cls.1 = 0) :
    ∃ u, exec (.writeBackAck slice j) s = .next (takeFreed u slice.val key)
      ∧ sliceOf u slice.val = ackedSlice (sliceOf s slice.val) (pclk s j.val) key ∧ u.dram = (landEntry s slice.val key e).dram
      ∧ u.pchs = s.pchs ∧ shareOf u = shareOf s := by
  let v := mapSlice { s with dram := (landEntry s slice.val key e).dram } slice.val fun x => { x with lastAct := some (pclk s j.val) }
  refine ⟨mapSlice v slice.val fun x => { x with wb := drop x.wb key }, ?_, ?_, rfl, rfl, rfl⟩
  · change execWriteBackAck slice j s = _
    unfold execWriteBackAck
    dsimp only
    rw [hf]
    dsimp only
    rw [hw]
    refine onlyIf_next (live_of hr) ?_
    change freeEntry (mapSlice (landEntry s slice.val key e) slice.val fun x => { x with lastAct := some (pclk s j.val) }) slice.val key = _
    rw [landEntry_dram hc]
    rfl
  · have hv : sliceOf v slice.val = { sliceOf s slice.val with lastAct := some (pclk s j.val) } := setSlice_self ..
    exact (setSlice_self ..).trans (by rw [hv]; rfl)

/-- A controller's queue with a write-back entry renamed. -/
def Pch.renamed (x : Pch) (i old new : Nat) : Pch := { x with queue := x.queue.map (renameReq i old new) }

theorem takeFreed_none {u : State} {i key : Nat} (h : ∀ b ∈ (sliceOf u i).wb, b.1 < 16) : takeFreed u i key = u := by
  have hb : (sliceOf u i).wb.filter (fun e => decide (16 ≤ e.1) && decide (key ∈ shareOf u e.2.part)) = [] :=
    List.filter_eq_nil_iff.2 fun b hm => by have := h b hm; simp; omega
  unfold takeFreed
  dsimp only
  rw [hb]

/-- The line that waits behind a share takes the freed entry (R235). -/
theorem takeFreed_one {u : State} {i key behind : Nat} {b : WbEntry} (hk : key < 16) (hw : (sliceOf u i).wb = [(behind, b)]) (hb : 16 ≤ behind)
    (hsh : key ∈ shareOf u b.part) (hs : b.stalled = []) : takeFreed u i key =
      { setSlice u i { sliceOf u i with wb := [(key, b)] } with
        pchs := u.pchs.map fun p => (p.1, p.2.renamed i behind key) } := by
  have hf : (sliceOf u i).wb.filter (fun e => decide (16 ≤ e.1) && decide (key ∈ shareOf u e.2.part)) = [(behind, b)] := by
    rw [hw]
    simp [hb, hsh]
  have hbs : ({ b with stalled := b.stalled.map fun w => (w.1, w.2.1, w.2.2.map (renameEff i behind key)) } : WbEntry) = b := by
    cases b
    simp only at hs
    rw [hs]
    rfl
  have hm : ((put (drop (sliceOf u i).wb behind) key b).map fun e => (e.1, { e.2 with stalled := e.2.stalled.map fun w =>
        (w.1, w.2.1, w.2.2.map (renameEff i behind key)) })) = [(key, b)] := by
    rw [hw, drop, if_pos rfl, put, List.map_singleton, hbs]
  unfold takeFreed
  dsimp only
  rw [hf]
  dsimp only [List.foldl]
  rw [if_pos hk, hm]
  rfl

theorem drop_mem {α : Type} {m : SMap α} {k : Nat} {x : Nat × α} (h : x ∈ drop m k) : x ∈ m := by
  induction m with
  | nil => exact h
  | cons a m ih =>
    obtain ⟨b, w⟩ := a
    unfold drop at h
    split at h
    · exact List.mem_cons_of_mem _ h
    · split at h
      · exact h
      · rcases List.mem_cons.1 h with rfl | h
        · exact List.mem_cons_self
        · exact List.mem_cons_of_mem _ (ih h)

/-! ### Windows (R252, R253) -/

/-- The one request before a controller takes its class's window. -/
theorem dramWindow_takes {s : State} {pch : Fin 1024} {j : Fin 5} {cls : Bool} {c : CtrlReq} {line : Nat} (hr : s.sup.inReset = false)
    (ho : openWindow s pch.val (pclk s j.val) = some cls) (hq : (pchOf s pch.val).queue = [c]) (hw : waitsFor cls (pclk s j.val) c = true)
    (hf : c.first = none) (hk : c.kind = .fetch line) (hd : inDomainReset s 3 (pch.val / 64) = false) :
    ∃ t, exec (.dramWindow pch j) s = .next t
      ∧ (pchOf t pch.val).queue = [{ c with first := some (pclk s j.val), window := some (pclk s j.val) }] ∧ t.dram = s.dram ∧ t.vaults = s.vaults := by
  let pc := pclk s j.val
  let c1 : CtrlReq := { c with first := some pc }
  have hmap : ((pchOf s pch.val).queue.map fun c => if waitsFor cls pc c then { c with first := some (c.first.getD pc) } else c) = [c1] := by
    rw [hq, List.map_singleton, if_pos hw, hf]
    rfl
  have hfirst : firstWaiting cls pc [c1] = some c1 := by
    have hw1 : waitsFor cls pc c1 = true := hw
    rw [firstWaiting, List.filter_cons, if_pos hw1]
    rfl
  let u := setPch s pch.val { pchOf s pch.val with queue := [], lastWindow := some pc, taken := (pchOf s pch.val).taken.filter (pc / 4096 * 4096 ≤ ·) ++ [pc] }
  have hdrop : dropAtVault u pch.val c1 = (u, c1) := if_pos (by rw [show inDomainReset u 3 (pch.val / 64) = false from hd]; rfl)
  refine ⟨setPch u pch.val { pchOf u pch.val with queue := (pchOf u pch.val).queue ++ [{ c1 with window := some pc }] }, ?_, ?_, rfl, rfl⟩
  · change execDramWindow pch j s = _
    unfold execDramWindow
    dsimp only
    rw [ho]
    dsimp only
    rw [hmap, hfirst]
    dsimp only
    refine onlyIf_next (live_of hr) ?_
    rw [show pc - c1.first.getD pc = 0 from Nat.sub_self pc, if_pos rfl, List.erase_cons_head, hdrop]
    unfold atWindow
    rw [show c1.kind = .fetch line from hk]
  · rw [setPch_self, show (pchOf u pch.val).queue = [] from congrArg Pch.queue (setPch_self ..)]
    rfl

/-- Settles O38. -/
theorem fillsWindowsAndRefresh : Obligations.FillsWindowsAndRefresh := by
  intro s slice pch vault j hr i P pc x v
  refine ⟨fun f hf hb hl hw => ⟨fun h0 => ?idle, fun w r h1 hbad hn => ?waiter⟩, fun key e hf hw hc => ⟨fun hall => ?ack, fun behind b hk hwb hb hsh hst => ?behind⟩,
    fun c hc => ?arrival, fun cls c line ho hq hw hf hk hd => dramWindow_takes hr ho hq hw hf hk hd, fun c line hc hk => ?data,
    fun h => onlyIf_on ?start, fun h1 h2 => onlyIf_on ?stop, fun m hm hn => ?mult, fun p hp hn => ?pace, fun b hb hq => ?mode⟩
  case idle =>
    have hx := sliceFillComplete_answers (j := j) hr hf hb hl hw
    have hkeep := fillCame_keeps s slice.val (pclk s j.val) f
    generalize fillCame s slice.val (pclk s j.val) f = u at hx hkeep
    rw [h0] at hx
    exact ⟨u, hx, hkeep⟩
  case waiter => exact sliceFillComplete_one hr hf hb hl hw h1 hbad hn
  case ack =>
    obtain ⟨u, h1, h2, h3, -, -⟩ := writeBackAck_frees hr hf hw hc
    refine ⟨u, h1.trans (congrArg _ (takeFreed_none fun b hm => ?_)), h3, by rw [h2]; rfl⟩
    rw [h2] at hm
    exact hall b (drop_mem hm)
  case behind =>
    obtain ⟨u, h1, h2, h3, h4, h5⟩ := writeBackAck_frees hr hf hw hc
    have hu : (sliceOf u i).wb = [(behind, b)] := by
      rw [h2, ackedSlice, hwb, drop, if_pos rfl]
    have ht := takeFreed_one hk hu hb (by rw [h5]; exact hsh) hst
    refine ⟨_, h1.trans (congrArg _ ht), h3, congrArg Slice.wb (setSlice_self u i _), fun P => ?_⟩
    change (look (u.pchs.map fun p : Nat × Pch => (p.1, p.2.renamed i behind key)) P {}).queue = _
    rw [look, find_map_values (fun y : Pch => y.renamed i behind key), h4, pchOf, look]
    cases find s.pchs P <;> rfl
  case arrival =>
    refine ⟨setPch s P { x with queue := x.queue.map fun d => if d = c then { c with arrived := true } else d }, ?_,
      congrArg Pch.queue (setPch_self ..), rfl⟩
    change execControllerRequestArrival pch j s = _
    unfold execControllerRequestArrival
    dsimp only
    rw [hc]
    exact onlyIf_on (live_of hr)
  case data =>
    let u := setPch s P { x with queue := x.queue.erase c }
    let fills := fun y : Slice =>
      { y with fills := y.fills.map fun f : Fill => if f.lineAddr = line && f.back.isNone then { f with back := some pc } else f }
    refine ⟨mapSlice u c.slice fills, ?_, congrArg Pch.queue (setPch_self s P _), congrArg Slice.fills (setSlice_self u c.slice (fills (sliceOf u c.slice))), rfl⟩
    change execDramDataReturn pch j s = _
    unfold execDramDataReturn
    dsimp only
    rw [hc]
    dsimp only
    rw [hk]
    exact onlyIf_next (live_of hr) rfl
  case start => simp [live_of hr, P] at h ⊢; exact h
  case stop => simp [live_of hr, P, x] at h1 h2 ⊢; exact ⟨h1, h2⟩
  case mult =>
    let y : Vault := { v with mult := m, multNext := none, multPrev := v.mult, multAt := now s
                              fillSpans := if v.fillSpans = [] then [] else (now s, m) :: v.fillSpans }
    have hy : vaultOf (replanVault (setVault s vault.val y) vault.val) vault.val = y := setVault_self ..
    refine ⟨replanVault (setVault s vault.val y) vault.val, ?_, ?_⟩
    · change execRefreshMultiplierChange vault s = _
      unfold execRefreshMultiplierChange
      dsimp only
      rw [show (vaultOf s vault.val).multNext = some m from hm]
      exact onlyIf_on (by simp [live_of hr, hn])
    · rw [hy]
      exact ⟨rfl, rfl, rfl, rfl, rfl, rfl, rfl⟩
  case pace =>
    intro s'
    change execPaceLevelChange vault s = _
    unfold execPaceLevelChange
    dsimp only
    rw [show (vaultOf s vault.val).paceNext = some p from hp]
    exact onlyIf_on (by simp [live_of hr, hn])
  case mode =>
    change execNearBankModeSwitch pch s = _
    unfold execNearBankModeSwitch
    dsimp only
    rw [show (pchOf s pch.val).modeWrite = some b from hb]
    refine onlyIf_on ?_
    rw [live_of hr, Bool.true_and, List.all_eq_true]
    intro c hc
    cases ha : c.arrived
    · rfl
    · rw [hq c hc ha]
      rfl

end Sys2Proof.Machine
end

section
/-! PROOF. The delivery of descriptors, acceptances and the clear of HELD (R279, R324 to R326, R338): O50. -/

namespace Sys2Proof.Machine

/-! ### The descriptor at the front of a ring's fetched ones (R324, R325) -/

section
variable {s : State} {ring : Fin 262144} {r : Ring} {d : BitVec 512} {b : Nat} {rest : List (BitVec 512 × Nat)}

/-- The front descriptor of a ring is due, and no command of the curator keeps it waiting. -/
structure FrontDue (s : State) (ring : Fin 262144) (r : Ring) (d : BitVec 512) (b : Nat) (rest : List (BitVec 512 × Nat)) : Prop where
  inReset : s.sup.inReset = false
  ring : find s.rings ring.val = some r
  front : r.fetched = (d, b) :: rest
  due : b ≤ now s
  free : sdKind d = 1 ∨ sdKind d = 3 → commandPart s ≠ some r.part

theorem FrontDue.deliver (h : FrontDue s ring r d b rest) {mine : Nat → Bool} (hm : mine (sdKind d) = true)
    (act : State → Nat → Ring → BitVec 512 → BitVec 16 → State) :
    deliver ring mine act s = .next
      (if sdStatus s r.part d ≠ 0 then
        accept s ring.val { r with fetched := rest } d (sdStatus s r.part d) (r.head - BitVec.ofNat 16 rest.length)
      else act (setRing s ring.val { r with fetched := rest }) ring.val { r with fetched := rest } d
        (r.head - BitVec.ofNat 16 rest.length)) := by
  obtain ⟨hr, hf, hq, hb, hh⟩ := h
  unfold Machine.deliver
  dsimp only
  rw [hf]
  dsimp only
  rw [hq]
  refine onlyIf_on ?_
  by_cases hk : sdKind d = 1 ∨ sdKind d = 3
  · have := hh hk
    simp [live_of hr, hm, hb, this]
  · rw [not_or] at hk
    simp [live_of hr, hm, hb, hk.1, hk.2]

theorem FrontDue.refused (h : FrontDue s ring r d b rest) (hs : sdStatus s r.part d ≠ 0) {mine : Nat → Bool}
    (hm : mine (sdKind d) = true) (act : State → Nat → Ring → BitVec 512 → BitVec 16 → State) :
    Machine.deliver ring mine act s = .next
      (accept s ring.val { r with fetched := rest } d (sdStatus s r.part d) (r.head - BitVec.ofNat 16 rest.length)) := by
  rw [h.deliver hm, if_pos hs]

theorem FrontDue.acts (h : FrontDue s ring r d b rest) (hs : sdStatus s r.part d = 0) {mine : Nat → Bool}
    (hm : mine (sdKind d) = true) (act : State → Nat → Ring → BitVec 512 → BitVec 16 → State) :
    Machine.deliver ring mine act s = .next
      (act (setRing s ring.val { r with fetched := rest }) ring.val { r with fetched := rest } d
        (r.head - BitVec.ofNat 16 rest.length)) := by
  rw [h.deliver hm, if_neg (by simp [hs])]

end

/-- An acceptance changes nothing but the rings. -/
theorem acknowledge_rest (s : State) (id : Nat) (d : BitVec 512) (h : BitVec 16) (always : Bool) :
    acknowledge s id d h always = { s with rings := (acknowledge s id d h always).rings } := by
  unfold acknowledge
  split
  · split <;> rfl
  · rfl

@[simp] theorem acknowledge_parts (s : State) (id : Nat) (d : BitVec 512) (h : BitVec 16) (always : Bool) :
    (acknowledge s id d h always).parts = s.parts := by rw [acknowledge_rest]

/-- A descriptor whose ACK is 0 asks for no acceptance (R326). -/
theorem acknowledge_unasked (s : State) (id : Nat) {d : BitVec 512} (h : BitVec 16) (hd : d.getLsbD 8 = false) :
    acknowledge s id d h false = s := by
  unfold acknowledge
  split
  · rw [hd]; rfl
  · rfl

/-! ### What a sound descriptor does (R47, R49, R51, R279) -/

/-- The first evaluation of the run that a RUN's descriptor asks for (R49, R52). -/
def firstEval (s : State) (p : Nat) (d : BitVec 512) : EvalStep :=
  let t := find (partOf s p).bound (sdWord d 1)
  let first := if sdWord d 2 = 0xFFFFFFFF then (t.map (·.entryStep)).getD 0 else sdWord d 2
  let e := roundUp (now s + 1) 4
  { index := first, planned := e + ((t.bind (·.steps[first]?)).map (·.lead)).getD 500, at_ := e }

/-- The run that a RUN's descriptor puts under way. -/
def startedRun (s : State) (id p : Nat) (d : BitVec 512) (h : BitVec 16) : RunCtx :=
  { handle := sdWord d 1, cq := sdWord d 3, sq := id, tag := sdTag d, sqHead := h, eval := some (firstEval s p d) }

/-- RUN puts a run under way whose first evaluation is at the next multiple of 4 (R49, R52). -/
theorem run_acts (s : State) (ring : Fin 262144) {r : Ring} {d : BitVec 512} {b : Nat} {rest : List (BitVec 512 × Nat)}
    (h : FrontDue s ring r d b rest) (hs : sdStatus s r.part d = 0) (hk : sdKind d = 1) :
    ∃ t c e, exec (.run ring) s = .next t ∧ (partOf t r.part).run = some c ∧ (partOf t r.part).runState = .gated
      ∧ c.handle = sdWord d 1 ∧ c.cq = sdWord d 3 ∧ c.next = none ∧ c.exec = none ∧ c.eval = some e
      ∧ e.at_ = roundUp (now s + 1) 4 ∧ (sdWord d 2 ≠ 0xFFFFFFFF → e.index = sdWord d 2)
      ∧ (partOf t r.part).steps = 0 ∧ (partOf t r.part).gates = [] ∧ t.dram = s.dram ∧ t.shelf = s.shelf ∧ t.clm = s.clm := by
  rw [show exec (.run ring) s = execRun ring s from rfl]
  unfold execRun
  rw [h.acts hs (by simp [hk])]
  refine ⟨_, startedRun s ring.val r.part d (r.head - BitVec.ofNat 16 rest.length), firstEval s r.part d, rfl, ?_⟩
  simp only [partOf_congr (acknowledge_parts ..), setPart_self]
  rw [acknowledge_rest]
  refine ⟨rfl, trivial, rfl, rfl, rfl, rfl, rfl, rfl, fun hi => ?_, trivial, trivial, rfl, rfl, rfl⟩
  exact if_neg hi

/-- GATE adds to its counter, which stops at its largest value (R47). -/
theorem gate_acts (s : State) (ring : Fin 262144) {r : Ring} {d : BitVec 512} {b : Nat} {rest : List (BitVec 512 × Nat)}
    (h : FrontDue s ring r d b rest) (hs : sdStatus s r.part d = 0) (hk : sdKind d = 2) :
    ∃ t, exec (.gate ring) s = .next t
      ∧ look (partOf t r.part).gates (sdWord d 1) 0 = min (look (partOf s r.part).gates (sdWord d 1) 0 + sdWord d 2) 0xFFFFFFFF
      ∧ (∀ g, g ≠ sdWord d 1 → look (partOf t r.part).gates g 0 = look (partOf s r.part).gates g 0)
      ∧ t.dram = s.dram ∧ t.shelf = s.shelf ∧ t.clm = s.clm := by
  rw [show exec (.gate ring) s = execGate ring s from rfl]
  unfold execGate
  rw [h.acts hs (by simp [hk])]
  refine ⟨_, rfl, ?_⟩
  have hg (x : Part) (c : Bool) (t : Nat) : (if c then x.flag 3 t else x).gates = x.gates := by cases c <;> rfl
  simp only [partOf_congr (acknowledge_parts ..), setPart_self]
  rw [acknowledge_rest]
  refine ⟨?_, fun g hne => ?_, rfl, rfl, rfl⟩
  · rw [look_put_same]; rfl
  · rw [look_put_ne _ _ _ _ _ hne]
    split <;> rfl

/-- STOP ends a run with no step committed, and any other after its steps (R49, R51). -/
theorem stop_acts (s : State) (ring : Fin 262144) {r : Ring} {d : BitVec 512} {b : Nat} {rest : List (BitVec 512 × Nat)} {c : RunCtx}
    (h : FrontDue s ring r d b rest) (hs : sdStatus s r.part d = 0) (hk : sdKind d = 3) (hc : (partOf s r.part).run = some c) :
    (c.exec.isSome = true ∨ c.next.isSome = true →
        ∃ t, exec (.stop ring) s = .next t ∧ (partOf t r.part).run = some { c with eval := none } ∧ (partOf t r.part).runState = .stopping)
      ∧ (c.exec = none → c.next = none → ∃ t, exec (.stop ring) s = .next t ∧ (partOf t r.part).run = none) := by
  rw [show exec (.stop ring) s = execStop ring s from rfl]
  unfold execStop
  rw [h.acts hs (by simp [hk])]
  have hp (h' : BitVec 16) (r' : Ring) : partOf (acknowledge (setRing s ring.val r') ring.val d h' true) r.part = partOf s r.part :=
    partOf_congr (acknowledge_parts ..) _
  refine ⟨fun he => ⟨_, rfl, ?_⟩, fun he hn => ⟨_, rfl, ?_⟩⟩
  · dsimp only
    rw [hp, hc]
    dsimp only
    rw [if_neg (by simp only [Bool.and_eq_true, Option.isNone_iff_eq_none]; rintro ⟨h1, h2⟩; simp [h1, h2] at he), setPart_self]
    exact ⟨rfl, rfl⟩
  · dsimp only
    rw [hp, hc]
    dsimp only
    rw [if_pos (by simp [he, hn])]
    have m := (runCompletion_mild (endRun (acknowledge (setRing s ring.val { r with fetched := rest }) ring.val d
      (r.head - BitVec.ofNat 16 rest.length) true) r.part) r.part c 0).part r.part
    rw [m, endRun_part]

/-- The job that an ENGINE's descriptor gives its context. -/
def ringJob (s : State) (id e p : Nat) (d : BitVec 512) (h : BitVec 16) : EngJob :=
  { desc := BitVec.ofNat 384 (d.toNat / 2 ^ 128), part := p, ring := some (id, sdTag d, h), from_ := 5 * now s
    held := inDomainReset s 2 (e / 6) }

/-- ENGINE queues its job for its port's context (R279). -/
theorem engine_acts (s : State) (ring : Fin 262144) {r : Ring} {d : BitVec 512} {b : Nat} {rest : List (BitVec 512 × Nat)}
    (h : FrontDue s ring r d b rest) (hs : sdStatus s r.part d = 0) (hk : sdKind d = 4) :
    let e := 6 * (sdWord d 1 % 8) + bits (sdWord d 1) 3 3
    ∃ t q, exec (.engine ring) s = .next t ∧ (engOf t e).queue = (engOf s e).queue ++ [(portOfRing ring.val, q)]
      ∧ q.desc = BitVec.ofNat 384 (d.toNat / 2 ^ 128) ∧ q.part = r.part
      ∧ q.ring = some (ring.val, sdTag d, r.head - BitVec.ofNat 16 rest.length) ∧ q.held = inDomainReset s 2 (e / 6) := by
  rw [show exec (.engine ring) s = execEngine ring s from rfl]
  unfold execEngine
  rw [h.acts hs (by simp [hk])]
  intro e
  refine ⟨_, ringJob s ring.val e r.part d (r.head - BitVec.ofNat 16 rest.length), rfl, ?_⟩
  dsimp only
  rw [setEng_self]
  exact ⟨rfl, rfl, rfl, rfl, rfl⟩

/-! ### Acceptances, and the clear of HELD (R326, R338) -/

/-- Posting an entry changes no ring but the one that it is for. -/
theorem postEntryAt_ring (s : State) {id id' : Nat} (e : BitVec 512) (pc : Nat) (h : id' ≠ id) :
    find (postEntryAt s id e pc).rings id' = find s.rings id' := by
  unfold postEntryAt
  split
  · rfl
  split
  · rfl
  split
  · exact find_put_ne _ _ _ _ h
  · exact find_put_ne _ _ _ _ h

theorem acceptance_posts (s : State) (ring : Fin 262144) {r : Ring} {b : Nat} {e : BitVec 512} {more : List (BitVec 512 × Nat)}
    (hr : s.sup.inReset = false) (hf : find s.rings ring.val = some r) (ha : r.accept = (e, b) :: more) (hb : b ≤ now s) :
    ∃ t, exec (.acceptanceCompletionPost ring) s = .next t ∧ t.dram = s.dram ∧ t.shelf = s.shelf
      ∧ (r.cq ≠ ring.val → (find t.rings ring.val).map (·.accept) = some more) := by
  have m := postEntry_mild (setRing s ring.val { r with accept := more }) r.cq (restamp s r.part e)
  refine ⟨_, ?_, m.dram, m.shelf, fun hc => ?_⟩
  · change execAcceptanceCompletionPost ring s = _
    unfold execAcceptanceCompletionPost
    rw [hf]
    dsimp only
    rw [ha]
    exact onlyIf_on (by simp [live_of hr, hb])
  · unfold postEntry
    rw [postEntryAt_ring _ _ _ (Ne.symm hc)]
    change Option.map _ (find (put s.rings ring.val { r with accept := more }) ring.val) = _
    rw [find_put_same]
    rfl

theorem clearHeld_acts (s : State) (part : Fin 8) (hr : s.sup.inReset = false) (hd : s.boot.deaccessioned = false)
    (ho : owned (partOf s part.val) = true) (hh : (partOf s part.val).held = true) :
    ∃ t, exec (.rgsJobHeldClear part) s = .next t ∧ t = { s with parts := t.parts, ports := t.ports }
      ∧ (partOf t part.val).held = decide (find (partOf s part.val).setAt 32 = some (now s))
      ∧ (partOf t part.val).heldClearedAt = some (now s)
      ∧ (∀ q ∈ t.ports, (partOf s part.val).ports.getLsbD q.1 = true → 5 * (now s + 1) ≤ q.2.nextFetch) := by
  have hp : partOf (clearHeld s part.val) part.val =
      { partOf s part.val with held := find (partOf s part.val).setAt 32 = some (now s), heldClearedAt := some (now s) } :=
    partOf_mapPart_same s part.val fun x => { x with held := find x.setAt 32 = some (now s), heldClearedAt := some (now s) }
  refine ⟨clearHeld s part.val, onlyIf_on (by simp [regsOpen, live_of hr, hd, ho, hh]), rfl, ?_, ?_, ?_⟩
  · rw [hp]
  · rw [hp]
  · intro q hq hb
    unfold clearHeld at hq
    dsimp only at hq
    obtain ⟨q0, -, rfl⟩ := List.mem_map.1 hq
    rw [partOf_mapPart_same] at hb ⊢
    dsimp only at hb ⊢
    split at hb
    · next hc => rw [if_pos hc]; exact Nat.le_max_right _ _
    · next hc => exact absurd hb hc

/-- Settles O50: a descriptor that fails a check is answered, a sound one acts, and acceptances and the clear of HELD do as they say. -/
theorem descriptorsAreDelivered : Obligations.DescriptorsAreDelivered := by
  unfold Obligations.DescriptorsAreDelivered
  intro s ring part r d b rest hr hf id p r' h
  refine ⟨fun hq hb => ?_, fun e more ha hb => acceptance_posts s ring hr hf ha hb, fun hd ho hh => clearHeld_acts s part hr hd ho hh⟩
  have front (hc : sdKind d = 1 ∨ sdKind d = 3 → commandPart s ≠ some r.part) : FrontDue s ring r d b rest := ⟨hr, hf, hq, hb, hc⟩
  have other {k : Nat} (hk : sdKind d = k) (h1 : k ≠ 1) (h3 : k ≠ 3) : FrontDue s ring r d b rest := front (by omega)
  refine ⟨fun hs => ⟨fun hk => ?_, fun hk hc => ?_, fun hk => ?_, fun hk hc => ?_, fun hk => ?_⟩,
    fun hs => ⟨fun hk hd => ?_, fun hk hc => ?_, fun hk => ?_, fun c hk hc hrun => ?_, fun hk => ?_⟩⟩
  · change execSubmissionNop ring s = _
    unfold execSubmissionNop
    exact (front (by omega)).refused hs (by simpa using hk) _
  · change execRun ring s = _
    unfold execRun
    exact (front fun _ => hc).refused hs (by simp [hk]) _
  · change execGate ring s = _
    unfold execGate
    exact (other hk (by decide) (by decide)).refused hs (by simp [hk]) _
  · change execStop ring s = _
    unfold execStop
    exact (front fun _ => hc).refused hs (by simp [hk]) _
  · change execEngine ring s = _
    unfold execEngine
    exact (other hk (by decide) (by decide)).refused hs (by simp [hk]) _
  · change execSubmissionNop ring s = _
    unfold execSubmissionNop
    rw [(other hk (by decide) (by decide)).acts hs (by simp [hk])]
    exact congrArg _ (acknowledge_unasked _ _ _ hd)
  · exact run_acts s ring (front fun _ => hc) hs hk
  · exact gate_acts s ring (other hk (by decide) (by decide)) hs hk
  · exact stop_acts s ring (front fun _ => hc) hs hk hrun
  · exact engine_acts s ring (other hk (by decide) (by decide)) hs hk

end Sys2Proof.Machine
end

section
/-! PROOF. Doorbells, fetches and held entries (R320 to R323, R328, R329, R447): O49. -/

namespace Sys2Proof.Machine

/-! ### Doorbells (R321, R322) -/

theorem portOf_mapPort_same (s : State) (p : Nat) (f : Port → Port) : portOf (mapPort s p f) p = f (portOf s p) := setPort_self ..

theorem queueRing_rings (s : State) (id b : Nat) : (queueRing s id b).rings = s.rings := by
  unfold queueRing
  split <;> rfl

theorem sendVector_rings (s : State) (port vec : Nat) : (sendVector s port vec).rings = s.rings := by
  unfold sendVector
  dsimp only
  split
  · rfl
  · split <;> rfl

theorem ringTail_ring (s : State) (p id : Nat) (r : Ring) (t : BitVec 16) :
    find (ringTail s p id r t).rings id = some { r with tail := t } := by
  unfold ringTail
  dsimp only
  rw [queueRing_rings]
  exact find_put_same ..

theorem ringHeadTo_ring (s : State) (p id : Nat) (r : Ring) (h : BitVec 16) (arm : Bool) :
    ∃ r', find (ringHeadTo s p id r h arm).rings id = some r' ∧ r'.head = h ∧ r'.tail = r.tail := by
  unfold ringHeadTo
  split
  · rw [sendVector_rings]
    exact ⟨_, find_put_same .., rfl, rfl⟩
  · exact ⟨_, find_put_same .., rfl, rfl⟩

/-- The words that a doorbell write can refuse whatever its ring (R321, R322). -/
theorem doorbell_ignored {s : State} {port : Fin 8} {ring : Fin 32768} {be : BitVec 4} {value : BitVec 32}
    (h : be ≠ 15 ∨ bits value.toNat 17 15 ≠ 0 ∨ ownerOfPort s port.val = none ∨ find s.rings (32768 * port.val + ring.val) = none) :
    doorbell port ring be value s = ignoreDoorbell s port.val := by
  unfold doorbell
  dsimp only
  split
  · rfl
  · next hc =>
    simp only [Bool.or_eq_true, decide_eq_true_eq, Option.isNone_iff_eq_none, not_or, ne_eq, Decidable.not_not] at hc
    obtain ⟨⟨h1, h2⟩, h3⟩ := hc
    rw [(h.resolve_left (· h1)).resolve_left (· h2) |>.resolve_left h3]

section
variable {s : State} {port : Fin 8} {ring : Fin 32768} {value : BitVec 32} {r : Ring}

/-- A whole write of an index to a ring that there is, by a port with an owner. -/
structure RungRing (s : State) (port : Fin 8) (ring : Fin 32768) (value : BitVec 32) (r : Ring) : Prop where
  owner : (ownerOfPort s port.val).isSome = true
  reserved : bits value.toNat 17 15 = 0
  ring : find s.rings (32768 * port.val + ring.val) = some r

theorem RungRing.doorbell (h : RungRing s port ring value r) :
    doorbell port ring 15 value s =
      if r.type_ = 0 then
        if value.getLsbD 16 || ringEntries r < (value.setWidth 16 - r.head).toNat then ignoreDoorbell s port.val
        else ringTail s port.val (32768 * port.val + ring.val) r (value.setWidth 16)
      else if (r.tail - r.head).toNat < (value.setWidth 16 - r.head).toNat then ignoreDoorbell s port.val
      else ringHeadTo s port.val (32768 * port.val + ring.val) r (value.setWidth 16) (value.getLsbD 16) := by
  obtain ⟨ho, hb, hf⟩ := h
  unfold Machine.doorbell
  dsimp only
  rw [if_neg (by simp [hb, Option.ne_none_iff_isSome.2 ho]), hf]

/-- ARM is bit 16 of a doorbell's word, and stands in no other field of it. -/
theorem arm_fields (value : BitVec 32) : (value ||| 0x10000#32).setWidth 16 = value.setWidth 16
    ∧ (value ||| 0x10000#32).getLsbD 16 = true ∧ bits (value ||| 0x10000#32).toNat 17 15 = bits value.toNat 17 15 := by
  have hx (v : BitVec 32) : bits v.toNat 17 15 = (v.extractLsb' 17 15).toNat := by
    rw [BitVec.extractLsb'_toNat]; rfl
  refine ⟨?_, ?_, ?_⟩
  · rw [BitVec.setWidth_or, show (0x10000#32).setWidth 16 = 0#16 from by decide, BitVec.or_zero]
  · rw [BitVec.getLsbD_or, show (0x10000#32).getLsbD 16 = true from by decide, Bool.or_true]
  · rw [hx, hx, BitVec.extractLsb'_or, show (0x10000#32).extractLsb' 17 15 = 0#15 from by decide, BitVec.or_zero]

theorem RungRing.armed (h : RungRing s port ring value r) : RungRing s port ring (value ||| 0x10000#32) r :=
  ⟨h.owner, (arm_fields value).2.2.trans h.reserved, h.ring⟩

end

/-! ### Fetches (R323, R447) -/

/-- The one ring that waits in a port's queue is the next to fetch. -/
theorem nextRing_only {s : State} {p id : Nat} {r : Ring} (hx : (portOf s p).fetch = none) (hq : (portOf s p).fetchQueue = [id])
    (hf : find s.rings id = some r) (hm : mayFetch s r.part = true) (hn : fetchCount r ≠ 0) : nextRing s p = some id := by
  have hu : 0 < unfetched (portOf s p) id r := by
    unfold unfetched
    rw [hx]
    dsimp only
    unfold fetchCount at hn
    omega
  unfold nextRing
  dsimp only
  rw [hx, hq]
  simp [hf, hm, hu]

theorem fetchReadIssue_acts (s : State) (port : Fin 8) (j : Fin 5) {id : Nat} {r : Ring} (hr : s.sup.inReset = false)
    (hd : inDomainReset s 1 port.val = false) (hx : (portOf s port.val).fetch = none) (hq : (portOf s port.val).fetchQueue = [id])
    (hf : find s.rings id = some r) (hm : mayFetch s r.part = true) (hn : fetchCount r ≠ 0)
    (hb : beforeFetch s port.val (pclk s j.val) = false) (ho : hostReadsOut s port.val < 256)
    (hc : (portOf s port.val).nextFetch ≤ pclk s j.val) (h16 : 16 ≤ pclk s j.val % 20) (hk : classOfSlot (pclk s j.val) = port.val)
    (hu : look s.slotUse (5 * 65536 + port.val) (pclk s j.val + 1) ≠ pclk s j.val) :
    ∃ t, exec (.fetchReadIssue port j) s = .next t
      ∧ (portOf t port.val).fetch = some ⟨id, r.head, fetchCount r, fetchCount r, pclk s j.val⟩ ∧ t.rings = s.rings := by
  rw [show exec (.fetchReadIssue port j) s = execFetchReadIssue port j s from rfl]
  unfold execFetchReadIssue
  dsimp only
  rw [nextRing_only hx hq hf hm hn]
  dsimp only
  rw [hf]
  dsimp only
  refine ⟨_, onlyIf_on (by simp [live_of hr, hd, hx, hn, hb, ho, hc, h16, hk, hu]), ?_, rfl⟩
  exact congrArg Port.fetch (setPort_self ..)

theorem fetchDataReturn_acts (s : State) (port : Fin 8) (j : Fin 5) {f : Fetch} {r : Ring} (data : List (BitVec 512))
    (hr : s.sup.inReset = false) (hx : (portOf s port.val).fetch = some f) (hf : find s.rings f.ring = some r)
    (hh : r.head = f.first) (hm : mayFetch s r.part = true) (hc : f.issue + 8 ≤ pclk s j.val) (hl : data.length = f.count)
    (hn : f.count ≤ 16) :
    ∃ t, exec (.fetchDataReturn port j data) s = .next t ∧ (portOf t port.val).fetch = none
      ∧ find t.rings f.ring = some { r with head := r.head + BitVec.ofNat 16 f.keep,
                                            fetched := r.fetched ++ (data.take f.keep).map fun d => (d, now s + 1) } := by
  rw [show exec (.fetchDataReturn port j data) s = execFetchDataReturn port j data s from rfl]
  unfold execFetchDataReturn
  dsimp only
  rw [hx]
  dsimp only
  rw [if_neg (by omega), hf]
  dsimp only
  rw [if_neg (by simp [hh, hm])]
  refine ⟨_, onlyIf_on (by simp [live_of hr, hc, hl]), ?_, find_put_same ..⟩
  exact congrArg Port.fetch (setPort_self ..)

theorem fetchTimeout_acts (s : State) (port : Fin 8) {f : Fetch} (hr : s.sup.inReset = false)
    (hd : inDomainReset s 1 port.val = false) (hx : (portOf s port.val).fetch = some f) (hc : f.issue / 5 + 25000000 ≤ now s) :
    ∃ t, exec (.fetchTimeout port) s = .next t ∧ t.resetBegan s .hostPort port.val 6 := by
  refine ⟨_, ?_, resetFor_began s .hostPort port.val 6 hd⟩
  change execFetchTimeout port s = _
  unfold execFetchTimeout
  rw [hx]
  exact onlyIf_on (by simp [live_of hr, hc])

/-! ### Held entries (R329) -/

theorem heldEntry_goes (s : State) (id : Fin 262144) {r : Ring} {e : BitVec 512} {rest : List (BitVec 512)} (hr : s.sup.inReset = false)
    (hf : find s.rings id.val = some r) (hh : r.held = e :: rest) (hn : entryFree s id.val r = true) :
    ∃ t q, exec (.heldEntryWrite id) s = .next t ∧ find t.rings id.val = some { r with held := rest }
      ∧ find t.net s.nextReq = some q ∧ q.origin = .registrar id.val ∧ q.kind = .hostWrite ∧ q.data = e
      ∧ q.route = [(5, portOfRing id.val)] ∧ q.stage = .route (5 * now s) := by
  rw [show exec (.heldEntryWrite id) s = execHeldEntryWrite id s from rfl]
  unfold execHeldEntryWrite
  rw [hf]
  dsimp only
  rw [hh]
  refine ⟨_, _, onlyIf_on (by simp [live_of hr, hn]), find_put_same .., find_put_same .., rfl, rfl, rfl, rfl, rfl⟩

/-- Settles O49: doorbells, fetches, their timeout and the entries that a full ring held. -/
theorem doorbellsAndFetches : Obligations.DoorbellsAndFetches := by
  unfold Obligations.DoorbellsAndFetches
  intro s port ring value r j hr hd p id idx ignored
  have rung (u : State) : onlyIf (live s && !inDomainReset s 1 port.val) s u = .next u := onlyIf_on (by simp [live_of hr, hd])
  have hi : portOf ignored p = { (portOf s p).flag 1 (now s) with dbDropped := satAdd (portOf s p).dbDropped 1 } :=
    portOf_mapPort_same s p fun x => { x.flag 1 (now s) with dbDropped := satAdd x.dbDropped 1 }
  refine ⟨⟨rfl, ?_, ?_⟩, fun be hb => ?_, fun ho hb hf => ?_, ?_, ?_, ?_, ?_⟩
  · rw [hi]
  · rw [hi]; rfl
  · have hg := doorbell_ignored (port := port) (ring := ring) hb
    exact ⟨(rung _).trans (congrArg _ hg), (rung _).trans (congrArg _ hg)⟩
  · have hg : RungRing s port ring value r := ⟨ho, hb, hf⟩
    refine ⟨fun ht ha hc => ⟨?_, ringTail_ring ..⟩, fun ht hc => ?_, fun ht hc => ⟨?_, ?_, fun arm => ringHeadTo_ring ..⟩, fun ht hc => ?_⟩
    · refine (rung _).trans (congrArg _ ?_)
      rw [hg.doorbell, if_pos ht, ha, Bool.false_or, if_neg (by simpa only [decide_eq_true_eq, not_lt] using hc)]
    · refine (rung _).trans (congrArg _ ?_)
      rw [hg.doorbell, if_pos ht, if_pos (by simpa only [Bool.or_eq_true, decide_eq_true_eq] using hc)]
    · refine (rung _).trans (congrArg _ ?_)
      rw [hg.doorbell, if_neg ht, if_neg (Nat.not_lt.2 hc)]
    · refine (rung _).trans (congrArg _ ?_)
      obtain ⟨hw, ha, -⟩ := arm_fields value
      rw [hg.armed.doorbell, hw, ha, if_neg ht, if_neg (Nat.not_lt.2 hc)]
    · refine (rung _).trans (congrArg _ ?_)
      rw [hg.doorbell, if_neg ht, if_pos hc]
  · exact fun hx hq hf hm hn hb ho hc h16 hk hu => fetchReadIssue_acts s port j hr hd hx hq hf hm hn hb ho hc h16 hk hu
  · exact fun f data hx hf hh hm hc hl hn => fetchDataReturn_acts s port j data hr hx hf hh hm hc hl hn
  · exact fun f hx hc => fetchTimeout_acts s port hr hd hx hc
  · exact fun id' e rest hf hh hn => heldEntry_goes s id' hr hf hh hn

end Sys2Proof.Machine
end

section
/-! PROOF. Configuration space, BAR2 and its base (R311, R315 to R318, R351, R430, R444): O48. -/

namespace Sys2Proof.Machine

/-! ### Configuration space (R311) -/

/-- Messages that go out and vectors that stay pending leave the configuration space as it was. -/
theorem sendPending_config (s : State) (p q : Nat) : (portOf (sendPending s p) q).config = (portOf s q).config := by
  unfold sendPending
  dsimp only
  split
  · rfl
  · refine (foldl_field (fun s => (portOf s q).config) (fun s v => emit s (.msix p v)) (fun _ _ => rfl) _ _).trans ?_
    rw [portOf_setPort]
    split
    · next h => rw [h]
    · rfl

theorem configWrite_config (s : State) (p w : Nat) (v : Word) :
    (portOf (configWrite s p w v) p).config = if configReadOnly w then (portOf s p).config else put (portOf s p).config w v := by
  have hu : (portOf (if configReadOnly w then s else setPort s p { portOf s p with config := put (portOf s p).config w v }) p).config
      = if configReadOnly w then (portOf s p).config else put (portOf s p).config w v := by
    split
    · rfl
    · rw [setPort_self]
  unfold configWrite
  dsimp only
  split
  · rw [sendPending_config, portOf_mapPort_same]
    exact hu
  · exact hu

/-- The fixed bits of a word have their value, and the others what the word holds. -/
theorem configRead_bits (p : Port) {w : Nat} (y : Word) (hw : w ≠ capabilityAt 0) :
    let f := configFixed w
    configRead p w y &&& BitVec.ofNat 32 f.1 = BitVec.ofNat 32 f.2 &&& BitVec.ofNat 32 f.1
      ∧ configRead p w y &&& ~~~BitVec.ofNat 32 f.1 = (y ||| BitVec.ofNat 32 f.2) &&& ~~~BitVec.ofNat 32 f.1 := by
  intro f
  have hv : configRead p w y = (y &&& ~~~BitVec.ofNat 32 f.1) ||| BitVec.ofNat 32 f.2 := if_neg hw
  rw [hv]
  generalize BitVec.ofNat 32 f.1 = m
  generalize BitVec.ofNat 32 f.2 = x
  constructor
  · ext i hi
    simp only [BitVec.getElem_and, BitVec.getElem_or, BitVec.getElem_not]
    cases m[i] <;> simp
  · ext i hi
    simp only [BitVec.getElem_and, BitVec.getElem_or, BitVec.getElem_not]
    cases m[i] <;> simp

/-! ### BAR2 (R315 to R318, R444) -/

/-- A request dropped at an edge is what it was, but for its route, its stage and its poison. -/
theorem dropAtEdge_asks (r : Req) (c : Nat) :
    (dropAtEdge r c).origin = r.origin ∧ (dropAtEdge r c).addr = r.addr ∧ (dropAtEdge r c).kind = r.kind
      ∧ (dropAtEdge r c).mask = r.mask ∧ (dropAtEdge r c).data = r.data := by
  unfold dropAtEdge
  split <;> exact ⟨rfl, rfl, rfl, rfl, rfl⟩

/-- A BAR2 access that its partition reaches goes out as the module's next request, and changes no memory and no port. -/
theorem bar2Send_sends (s : State) (port tag a part : Nat) (kind : ReqKind) (lanes : BitVec 64) (d : BitVec 512) :
    (∃ r, find (bar2Send s port tag a part kind lanes d).net s.nextReq = some r ∧ r.origin = .bar2 port tag ∧ r.addr = a ∧ r.kind = kind
        ∧ r.mask = lanes ∧ r.data = d)
      ∧ (bar2Send s port tag a part kind lanes d).ports = s.ports ∧ (bar2Send s port tag a part kind lanes d).shelf = s.shelf
      ∧ (bar2Send s port tag a part kind lanes d).dram = s.dram ∧ (bar2Send s port tag a part kind lanes d).clm = s.clm := by
  unfold bar2Send
  dsimp only
  rw [charge_parts]
  refine ⟨⟨_, find_put_same .., ?_⟩, rfl, rfl, rfl, rfl⟩
  dsimp only
  split
  · exact dropAtEdge_asks ..
  · exact ⟨rfl, rfl, rfl, rfl, rfl⟩

section
variable {s : State} {port : Fin 8} {off : BitVec 36} {lanes : BitVec 64} (hr : s.sup.inReset = false)
  (hd : inDomainReset s 1 port.val = false)
include hr hd

theorem bar2Read_sends {a part : Nat} (tag : BitVec 10) (ht : bar2Target s port.val off lanes = some (a, part)) :
    ∃ t r, exec (.bar2Read port off lanes tag) s = .next t ∧ find t.net s.nextReq = some r ∧ r.origin = .bar2 port.val tag.toNat
      ∧ r.addr = a ∧ r.kind = .load ∧ r.mask = lanes ∧ (portOf t port.val).bar2Rd = satAdd (portOf s port.val).bar2Rd 1
      ∧ t.shelf = s.shelf ∧ t.dram = s.dram ∧ t.clm = s.clm := by
  have hp := portOf_mapPort_same s port.val fun x => { x with bar2Rd := satAdd x.bar2Rd 1 }
  obtain ⟨⟨r, hf, ho, ha, hk, hm, -⟩, hports, hshelf, hdram, hclm⟩ :=
    bar2Send_sends (mapPort s port.val fun x => { x with bar2Rd := satAdd x.bar2Rd 1 }) port.val tag.toNat a part .load lanes 0
  refine ⟨_, r, ?_, hf, ho, ha, hk, hm, ?_, hshelf, hdram, hclm⟩
  · change execBar2Read port off lanes tag s = _
    unfold execBar2Read
    dsimp only
    rw [ht]
    exact onlyIf_on (by simp [live_of hr, hd])
  · rw [portOf, hports]
    exact congrArg Port.bar2Rd hp

theorem bar2Write_sends {a part : Nat} (data : BitVec 512) (ht : bar2Target s port.val off lanes = some (a, part)) :
    ∃ t r, exec (.bar2Write port off lanes data) s = .next t ∧ find t.net s.nextReq = some r ∧ r.addr = a ∧ r.kind = .store
      ∧ r.mask = lanes ∧ r.data = data ∧ (portOf t port.val).bar2Wr = satAdd (portOf s port.val).bar2Wr 1
      ∧ t.shelf = s.shelf ∧ t.dram = s.dram ∧ t.clm = s.clm := by
  have hp := portOf_mapPort_same s port.val fun x => { x with bar2Wr := satAdd x.bar2Wr 1 }
  obtain ⟨⟨r, hf, -, ha, hk, hm, hdat⟩, hports, hshelf, hdram, hclm⟩ :=
    bar2Send_sends (mapPort s port.val fun x => { x with bar2Wr := satAdd x.bar2Wr 1 }) port.val 1024 a part .store lanes data
  refine ⟨_, r, ?_, hf, ha, hk, hm, hdat, ?_, hshelf, hdram, hclm⟩
  · change execBar2Write port off lanes data s = _
    unfold execBar2Write
    dsimp only
    rw [ht]
    exact onlyIf_on (by simp [live_of hr, hd])
  · rw [portOf, hports]
    exact congrArg Port.bar2Wr hp

theorem bar2_refused (tag : BitVec 10) (data : BitVec 512) (ht : bar2Target s port.val off lanes = none) :
    exec (.bar2Read port off lanes tag) s
        = .next (emit (refuseBar2 s port.val) (.bar2 port.val tag.toNat (BitVec.allOnes 512) false))
      ∧ exec (.bar2Write port off lanes data) s = .next (refuseBar2 s port.val) := by
  constructor
  · change execBar2Read port off lanes tag s = _
    unfold execBar2Read
    dsimp only
    rw [ht]
    exact onlyIf_on (by simp [live_of hr, hd])
  · change execBar2Write port off lanes data s = _
    unfold execBar2Write
    dsimp only
    rw [ht]
    exact onlyIf_on (by simp [live_of hr, hd])

end

theorem bar2_completes {s : State} {n p : Nat} {tag : BitVec 10} {r : Req} {c : Nat} (hr : s.sup.inReset = false)
    (hf : find s.net n = some r) (ho : r.origin = .bar2 p tag.toNat) (hs : r.stage = .answered c) (hc : c ≤ 5 * now s + 4) :
    let done := emit { s with net := drop s.net n } (.bar2 p tag.toNat r.resp r.poison)
    exec (.bar2ReadCompletion n) s = .next (if r.poison && r.why.isNone then raiseFault done r.part ⟨6, 2, p, 0, none⟩ else done) := by
  intro done
  have ht : tag.toNat < 1024 := tag.isLt
  change execBar2ReadCompletion n s = _
  unfold execBar2ReadCompletion
  rw [hf]
  dsimp only
  rw [ho, hs]
  exact onlyIf_on (by simp [live_of hr, ht, hc])

theorem bar2Base_commits (s : State) (who : Requester) (port : Fin 8) (value : BitVec 32) (hr : s.sup.inReset = false) :
    ∃ t, exec (.hpBar2BaseWrite who port true value) s = .next t
      ∧ (portOf t port.val).bar2Base = BitVec.ofNat 64 (bits value.toNat 4 12 * 2 ^ 36) ∧ t.dram = s.dram ∧ t.shelf = s.shelf := by
  refine ⟨_, onlyIf_on (by simp [live_of hr]), ?_⟩
  split
  · next h => exact ⟨h.symm, rfl, rfl⟩
  · exact ⟨congrArg Port.bar2Base (setPort_self ..), rfl, rfl⟩

/-- Settles O48: configuration space, the accesses of BAR2, their completion and its base. -/
theorem configurationAndBar2 : Obligations.ConfigurationAndBar2 := by
  unfold Obligations.ConfigurationAndBar2
  intro s port offset off lanes data tag value who hr hd p x
  have refused := portOf_mapPort_same s port.val fun x => { x.flag 2 (now s) with refused := satAdd x.refused 1 }
  refine ⟨fun hp => ?_, fun a part ht => ⟨bar2Read_sends hr hd tag ht, bar2Write_sends hr hd data ht⟩, fun ht => ?_,
    fun n r c hf ho hs hc => bar2_completes hr hf ho hs hc, bar2Base_commits s who port value hr, onlyIf_off (by simp)⟩
  · intro w f
    have asked (write : Bool) : exec (.configRequest port write offset value) s = .next (if write then configWrite s p w value
        else emit s (.config p (configRead x w ((find x.config w).getD (Config.configWord w))))) :=
      onlyIf_on (by rw [live_of hr, hd, hp]; rfl)
    refine ⟨fun hw => ⟨_, asked true, ?_⟩, fun hw => ⟨_, asked true, ?_⟩, _, asked false, fun hw => ?_, fun y hw hy => ?_⟩
    · rw [if_pos rfl, configWrite_config, hw]
      exact find_put_same ..
    · rw [if_pos rfl, configWrite_config, hw]
      rfl
    · exact (configRead_bits x _ hw).1
    · rw [hy]
      exact (configRead_bits x y hw).2
  · obtain ⟨h1, h2⟩ := bar2_refused hr hd tag data ht
    exact ⟨h1, h2, congrArg Port.refused refused, congrArg Port.status refused⟩

end Sys2Proof.Machine
end

section
/-! PROOF. The protocol of the curator's mailboxes (R341 to R343, R348, R350, R447): O51. -/

namespace Sys2Proof.Machine

/-! ### The response of a command (R342) -/

/-- The state with the response written, before the channel's interrupt goes out. -/
def responded (s : State) (r : Running) (status check : Nat) (results : SMap Word) : State :=
  let u := setChan s r.chan { chanBlock s r.chan with
    rsp := (responseWords s r status check results).filter fun x => x.2 ≠ 0, state := .done }
  { u with curator := { s.curator with
      running := none, lastPart := namedPart s r, freeAt := if now s = endBeat r then r.start + ceilDiv r.t 4 else now s } }

/-- What an interrupt leaves as it was. -/
theorem interrupt_keeps {α : Type} (φ : State → α) (he : ∀ s o, φ (emit s o) = φ s) (hp : ∀ s i x, φ (setPort s i x) = φ s) (s : State)
    (r : Running) (status check : Nat) (results : SMap Word) :
    φ (respondWith s r status check results) = φ (responded s r status check results) := by
  have hr : respondWith s r status check results = (
      if !(chanBlock s r.chan).irqEn then responded s r status check results
      else if r.chan = 32 then raiseIbi (responded s r status check results) 0x01
      else sendVector (responded s r status check results) (r.chan / 4) (chanBlock s r.chan).vector.toNat) := rfl
  rw [hr]
  generalize responded s r status check results = u
  split
  · rfl
  · split
    · unfold raiseIbi
      split
      · exact he ..
      · rfl
    · unfold sendVector
      dsimp only
      split
      · rfl
      · split
        · exact hp ..
        · exact he ..

theorem respondWith_curator (s : State) (r : Running) (status check : Nat) (results : SMap Word) :
    (respondWith s r status check results).curator = { s.curator with
      running := none, lastPart := namedPart s r, freeAt := if now s = endBeat r then r.start + ceilDiv r.t 4 else now s } :=
  interrupt_keeps State.curator (fun _ _ => rfl) (fun _ _ _ => rfl) s r status check results

theorem respondWith_parts (s : State) (r : Running) (status check : Nat) (results : SMap Word) :
    (respondWith s r status check results).parts = s.parts :=
  interrupt_keeps State.parts (fun _ _ => rfl) (fun _ _ _ => rfl) s r status check results

theorem respondWith_granules (s : State) (r : Running) (status check : Nat) (results : SMap Word) :
    (respondWith s r status check results).granules = s.granules :=
  interrupt_keeps State.granules (fun _ _ => rfl) (fun _ _ _ => rfl) s r status check results

theorem respondWith_chan (s : State) (r : Running) (status check : Nat) (results : SMap Word) :
    chanBlock (respondWith s r status check results) r.chan = { chanBlock s r.chan with
      rsp := (responseWords s r status check results).filter fun x => x.2 ≠ 0, state := .done } := by
  rw [chanBlock, interrupt_keeps State.chans (fun _ _ => rfl) (fun _ _ _ => rfl)]
  exact look_put_same ..

/-- A command that is taken back leaves the curator as it was. -/
theorem undoCommand_curator (s : State) (r : Running) : (undoCommand s r).curator = s.curator := by
  unfold undoCommand
  split <;> rfl

/-! ### Arrival and start (R342, R348) -/

theorem startNext_idle {s : State} (h : s.curator.queue = []) : startNext s = s := by
  unfold startNext
  rw [h]

theorem startNext_busy {s : State} {r : Running} (h : s.curator.running = some r) : startNext s = s := by
  unfold startNext
  split
  · rfl
  · rw [if_pos]
    unfold curatorFree
    rw [h]
    simp

/-- The run that starts with channel n's captured block, with the verdict of its checks. -/
def startedCommand (s : State) (n : Nat) : Running :=
  let c := chanBlock s n
  let v := (evaluate (cmdTime s c.captured).2 n c.captured).1
  { chan := n, start := now s, arrived := c.arrivedAt, t := (cmdTime s c.captured).1, block := c.captured, check := v.check
    status := v.status, image := v.image, fw := v.fw, results := v.results, half := v.half }

/-- The command that alone waits before a free curator starts, and delivers no job fault but PARTITION_DESTROY's. -/
theorem startNext_starts {s : State} {n : Nat} (hq : s.curator.queue = [n]) (hf : curatorFree s = true)
    (ho : opcodeOf (chanBlock s n).captured ≠ 0x103) :
    (startNext s).curator.running = some (startedCommand s n) ∧ (startNext s).curator.queue = []
      ∧ (chanBlock (startNext s) n).state = .running := by
  unfold startNext
  rw [hq]
  dsimp only
  rw [if_neg (by simp [hf])]
  unfold destroyFault
  dsimp only
  rw [if_neg (fun h => ho h.1)]
  refine ⟨rfl, rfl, ?_⟩
  exact congrArg Chan.state (look_put_same ..)

section
variable {s : State} {chan : Fin 33}

theorem commandArrival_queues (hr : s.sup.inReset = false) (ha : arrives s chan.val = true)
    (hl : ∀ k, k < chan.val → arrives s k = false) :
    let s' := setChan s chan.val { chanBlock s chan.val with goAt := none, arrivedAt := now s }
    exec (.commandArrival chan) s = .next (startNext { s' with curator := { s'.curator with queue := s'.curator.queue ++ [chan.val] } }) := by
  have h0 : (List.range chan.val).any (arrives s) = false := List.any_eq_false.2 fun k hk => by simp [hl k (List.mem_range.1 hk)]
  exact onlyIf_on (by rw [live_of hr, ha, h0]; rfl)

theorem mailboxGo_submits (hr : s.sup.inReset = false) : exec (.mailboxGo chan) s = .next (submit s chan.val) :=
  onlyIf_on (live_of hr)

end

/-! ### The end of a command (R342, R350) -/

section
variable {s : State} {r : Running} (hr : s.sup.inReset = false) (hrun : s.curator.running = some r) (hq : s.curator.queue = [])
  (hn : now s = replyBeat r)
include hr hrun hq hn

theorem commandEnd_late {status : Nat} (hl : lateStatus s r = some status) :
    exec .commandEnd s = .next (respondWith (undoCommand s r) r status 1 []) := by
  change execCommandEnd s = _
  unfold execCommandEnd
  rw [hrun]
  dsimp only
  rw [hl]
  refine (onlyIf_on (by rw [live_of hr]; simpa using hn)).trans (congrArg _ (startNext_idle ?_))
  rw [respondWith_curator, undoCommand_curator]
  exact hq

theorem commandEnd_answers (hl : lateStatus s r = none) (he : effectMade s r = true) : exec .commandEnd s = .next (endCommand s r) := by
  change execCommandEnd s = _
  unfold execCommandEnd
  rw [hrun]
  dsimp only
  rw [hl]
  refine (onlyIf_on (by rw [live_of hr, he]; simpa using hn)).trans (congrArg _ (startNext_idle ?_))
  unfold endCommand
  rw [respondWith_curator]
  have hm (m : Bool) : (if m then moveEpoch s else s).curator.queue = [] := by cases m <;> exact hq
  exact hm _

end

theorem endCommand_failed {s : State} {r : Running} (h : r.status ≠ 0) : endCommand s r = respondWith s r r.status r.check r.results := by
  unfold endCommand
  cases cmdRow (opcodeOf r.block) <;> simp [h]

theorem endCommand_passed {s : State} {r : Running} {x : CmdRow} (h : r.status = 0) (hx : cmdRow (opcodeOf r.block) = some x) :
    endCommand s r = respondWith (if x.moves then moveEpoch s else s) r r.status r.check r.results := by
  unfold endCommand
  rw [hx]
  simp [h]

/-- Settles O51: GO, arrival, start, end and timeout of a mailbox command. -/
theorem mailboxProtocol : Obligations.MailboxProtocol := by
  unfold Obligations.MailboxProtocol
  intro s chan r hr n c
  refine ⟨fun hv h1 h2 hl => ?_, fun hv => ?_, fun ha hl => ⟨fun hrun => ?_, fun hf hq ho => ?_⟩,
    fun hrun hq hn => ⟨fun status hl => commandEnd_late hr hrun hq hn hl, fun hl hs => ?_, fun x hl hs he hx => ?_⟩,
    fun status check results => ?_, fun hrun hn hd => ?_⟩
  · rw [mailboxGo_submits hr]
    unfold submit
    simp only [c, n] at h1 h2 ⊢
    simp [h1, h2, hv, hl]
  · rw [mailboxGo_submits hr]
    unfold submit
    simp only [c, n] at hv ⊢
    rw [if_pos]
    rcases hv with hv | hv | hv <;> simp [hv]
  · rw [commandArrival_queues hr ha hl]
    exact congrArg _ (startNext_busy (r := r) hrun)
  · have hx := commandArrival_queues hr ha hl
    dsimp only at hx ⊢
    generalize hqq : ({ setChan s chan.val { chanBlock s chan.val with goAt := none, arrivedAt := now s } with
      curator := _ } : State) = q at hx ⊢
    have hc : chanBlock q n = { c with goAt := none, arrivedAt := now s } := by rw [← hqq]; exact look_put_same ..
    have hb : q.beat = s.beat := by rw [← hqq]; rfl
    have hcq : q.curator.queue = [n] := by
      rw [← hqq]
      change s.curator.queue ++ [n] = [n]
      rw [hq]
      rfl
    have hfq : curatorFree q = true := by rw [← hqq]; exact hf
    obtain ⟨h1, h2, h3⟩ := startNext_starts hcq hfq (by rw [hc]; exact ho)
    have hs : startedCommand q n = { startedCommand q n with arrived := now s, block := c.captured, start := now s } := by
      unfold startedCommand now
      rw [hc, hb]
      rfl
    refine ⟨_, _, hx, h1, h2, rfl, ?_, ?_, ?_, ?_, ?_, ?_, ?_, rfl, h3⟩
    · exact congrArg Running.start hs
    · exact congrArg Running.arrived hs
    · exact congrArg Running.block hs
    all_goals unfold startedCommand; rw [hc]
  · rw [commandEnd_answers hr hrun hq hn hl (by simp [effectMade, hs]), endCommand_failed hs]
  · refine ⟨_, commandEnd_answers hr hrun hq hn hl he, ?_⟩
    rw [endCommand_passed hs hx, respondWith_curator, respondWith_chan, respondWith_parts, respondWith_granules]
    cases x.moves <;> exact ⟨rfl, rfl, rfl, rfl, rfl⟩
  · intro t
    have ht : t = respondWith s r status check results := rfl
    clear_value t
    subst ht
    rw [respondWith_chan, respondWith_curator, respondWith_parts]
    exact ⟨rfl, rfl, rfl, fun h => if_pos h, rfl⟩
  · refine ⟨_, ?_, resetFor_began s .curator 0 4 hd⟩
    change execMailboxCommandTimeout s = _
    unfold execMailboxCommandTimeout
    rw [hrun]
    exact onlyIf_on (by rw [live_of hr]; simpa using hn)

end Sys2Proof.Machine
end

section
/-! PROOF. The partition commands on a state whose ring map lists a key twice: O52. -/

namespace Sys2Proof.Machine

/-- A command that is due changes the state as its row says, and keeps its results for the response. -/
theorem applyWith_due {op : Nat} {b : Bool} {s : State} {r : Running} (f : State → Nat → Running → State × SMap Word)
    (h : dueCommand s op b = some r) :
    applyWith op b s f = .next ((f s (runningPart s r) r).1.applied r (f s (runningPart s r) r).2) := by
  unfold applyWith
  rw [h]
  rfl

/-! ### What a PARTITION_DESTROY does to the rings (R357, R360) -/

theorem stopCsv_keeps (s : State) (P : Nat) : (stopCsv s P).rings = s.rings ∧ (stopCsv s P).slices = s.slices := by
  unfold stopCsv
  dsimp only
  split <;> split <;> split <;> exact ⟨rfl, rfl⟩

theorem stopPart_keeps (s : State) (p : Nat) : (stopPart s p).rings = s.rings ∧ (stopPart s p).slices = s.slices := by
  unfold stopPart
  generalize List.range 1024 = l
  exact ⟨foldl_field State.rings _ (fun s P => (stopCsv_keeps s P).1) _ _, foldl_field State.slices _ (fun s P => (stopCsv_keeps s P).2) _ _⟩

theorem deleteRings_rings (l : List (Nat × Ring)) (s : State) :
    (l.foldl (fun s r => deleteRing s r.1) s).rings = l.foldl (fun m r => drop m r.1) s.rings := by
  induction l generalizing s with
  | nil => rfl
  | cons a l ih => exact ih _

/-- With no line in a slice, a destruction deletes the keys under which a ring of the partition is listed. -/
theorem destroyPart_rings (s : State) (p : Nat) (hs : s.slices = []) :
    (destroyPart s p).rings = (s.rings.filter fun r => r.2.part = p).foldl (fun m r => drop m r.1) s.rings := by
  obtain ⟨hr, hl⟩ := stopPart_keeps s p
  have hp (pick : Nat → Nat → Line → Bool) (wb : WbEntry → Bool) : purge (stopPart s p) pick wb = stopPart s p := by
    unfold purge
    rw [hl, hs, List.foldl_nil]
  unfold destroyPart
  dsimp only
  rw [hp]
  refine (foldl_field State.rings darkWing (fun _ _ => rfl) (wingList (partOf s p)) _).trans ?_
  rw [deleteRings_rings]
  dsimp only
  rw [hr]

theorem partitionDestroy_due {s : State} {r : Running} (h : dueCommand s 0x103 false = some r) :
    exec .partitionDestroy s = .next ((destroyPart s (runningPart s r)).applied r []) :=
  applyWith_due (fun s p _ => (destroyPart s p, [])) h

/-! ### The state -/

/-- A PARTITION_DESTROY of partition 0, under way and at its exact end. -/
def destroyDue : Running := { chan := 32, start := 0, arrived := 0, t := 0, block := [(0, 0x103)], check := 0, status := 0 }

/-- A ring of a partition. -/
def ringOf (p : Nat) : Ring := { type_ := 1, base := 0, log2 := 4, part := p, cq := 0, vector := 0 }

/-- A state whose ring map lists key 0 twice: the ring of partition 1, and behind it one of partition 0, which is being destroyed. -/
def doubledOwner : State := { State.reset with
  sup := { State.reset.sup with inReset := false }
  rings := [(0, ringOf 1), (0, ringOf 0)]
  curator := { running := some destroyDue } }

theorem doubledOwner_destroys : dueCommand doubledOwner 0x103 false = some destroyDue := rfl

/-- The destruction deletes the first ring listed under the key, which is partition 1's. -/
theorem doubledOwner_ring : find (destroyPart doubledOwner 0).rings 0 = some (ringOf 0) := by
  rw [destroyPart_rings _ _ rfl]
  rfl

/-- Refutes O52: the statement ranges over every state, also one whose ring map lists a key twice. In `doubledOwner` partition 0's ring is
listed behind partition 1's under one key: PARTITION_DESTROY of partition 0 deletes the key, and with it partition 1's ring, where the
statement says that every other partition's ring is still found. -/
theorem not_queriesSettingsAndPartitionCommands : ¬ Obligations.QueriesSettingsAndPartitionCommands := by
  intro h
  obtain ⟨-, -, -, -, -, -, -, -, -, -, -, hd⟩ := h doubledOwner destroyDue
  obtain ⟨t, ht, -, -, -, -, -, -, -, hothers⟩ := hd doubledOwner_destroys
  have hx : exec .partitionDestroy doubledOwner = .next ((destroyPart doubledOwner 0).applied destroyDue []) := by
    rw [partitionDestroy_due doubledOwner_destroys, show runningPart doubledOwner destroyDue = 0 from rfl]
  rw [hx] at ht
  injection ht with he
  obtain ⟨-, -, -, -, -, -, -, -, -, -, -, -, hrings⟩ := hothers 1 (by decide)
  obtain ⟨z, hz, hp, -⟩ := hrings 0 (ringOf 1) rfl rfl
  have hring (u : State) : (u.applied destroyDue []).rings = u.rings := rfl
  have hc : find t.rings 0 = some (ringOf 0) := by rw [← he, hring, doubledOwner_ring]
  rw [hz] at hc
  injection hc with hzr
  rw [hzr] at hp
  exact absurd hp (by decide)

end Sys2Proof.Machine
end

section
/-! PROOF. The granule, ring, timetable, retirement, reset and firmware commands at their end (R358 to R365, R425, R447): O53. -/

namespace Sys2Proof.Machine

/-! ### A purge keeps every partition's resources (R216) -/

theorem KeepsParts.after {t u s : State} (h : KeepsParts u s) (hb : t.boot = u.boot) (hp : t.parts = u.parts) : KeepsParts t s :=
  (KeepsParts.of_eq hb hp).trans h

theorem noteSector_keepsParts (s : State) (i part : Nat) (faults : Bool) (loc : Nat) (f : Checked) :
    KeepsParts (noteSector s i part faults loc f) s := by
  unfold noteSector
  split
  · exact .refl _
  · dsimp only
    split
    · exact (faultFinding_mild ..).keepsParts.trans (.of_eq rfl rfl)
    · exact .of_eq rfl rfl

theorem noteSector_if_keepsParts (c : Prop) [Decidable c] (s : State) (i part : Nat) (faults : Bool) (loc : Nat) (f : Checked) :
    KeepsParts (if c then noteSector s i part faults loc f else s) s := by
  split
  · exact noteSector_keepsParts ..
  · exact .refl _

theorem vaultPut_keepsParts (s : State) (P off k : Nat) (f : Checked) : KeepsParts (vaultPut s P off k f) s := by
  unfold vaultPut
  dsimp only
  split <;> exact .of_eq rfl rfl

theorem landEntry_keepsParts (s : State) (i key : Nat) (e : WbEntry) : KeepsParts (landEntry s i key e) s := by
  unfold landEntry
  dsimp only
  split
  · exact .refl _
  · refine KeepsParts.foldl (fun u k => ?_) _ _
    split
    · exact (noteSector_keepsParts ..).trans (vaultPut_keepsParts ..)
    · exact .refl _

theorem takeFreed_keepsParts (s : State) (i key : Nat) : KeepsParts (takeFreed s i key) s := by
  unfold takeFreed
  dsimp only
  split
  · exact .refl _
  · split
    · exact .of_eq rfl rfl
    · exact .refl _

theorem sectorReports_keepsParts (s : State) (q : Place) (way : Nat) (h : Bool) (wb : Option Nat) (r : Req) (bad : List (Nat × Checked)) :
    KeepsParts (sectorReports s q way h wb r bad) s :=
  KeepsParts.foldl (fun _ _ => noteSector_keepsParts ..) _ _

theorem joinFill_keepsParts (s : State) (i line : Nat) (w : Waiter) : KeepsParts (joinFill s i line w) s := by
  unfold joinFill
  dsimp only
  split
  · exact .of_eq rfl rfl
  · split
    · unfold answerWaiter
      split
      · exact .refl _
      · exact (sectorReports_keepsParts ..).after rfl rfl
    · exact .refl _

theorem runEffs_keepsParts (s : State) (base : Nat) (l : List SliceEff) : KeepsParts (runEffs s base l) s := by
  refine KeepsParts.foldl (fun u e => ?_) _ _
  cases e with
  | answer n dt =>
    dsimp only
    split
    · exact .of_eq rfl rfl
    · exact .refl _
  | send P c => exact .of_eq rfl rfl
  | join i line w => exact joinFill_keepsParts ..

theorem landNow_keepsParts (s : State) (i key : Nat) (e : WbEntry) : KeepsParts (landNow s i key e) s := by
  unfold landNow
  dsimp only
  refine (KeepsParts.foldl (fun u w => ?_) _ _).trans
    ((runEffs_keepsParts ..).trans ((takeFreed_keepsParts ..).trans ((landEntry_keepsParts s i key e).after rfl rfl)))
  refine (runEffs_keepsParts ..).trans ?_
  split
  · exact .of_eq rfl rfl
  · exact .refl _

theorem purgeHalf_keepsParts (s : State) (i set way : Nat) (h : Bool) (l : Line) : KeepsParts (purgeHalf s i set way h l) s := by
  unfold purgeHalf
  dsimp only
  exact ((landEntry_keepsParts ..).trans (KeepsParts.foldl (fun u k => noteSector_if_keepsParts ..) _ _)).after rfl rfl

theorem purge_keepsParts (s : State) (pick : Nat → Nat → Line → Bool) (wb : WbEntry → Bool) : KeepsParts (purge s pick wb) s := by
  refine KeepsParts.foldl (fun u x => ?_) _ _
  dsimp only
  refine (KeepsParts.foldl (fun v f => KeepsParts.foldl (fun v h => ?_) _ _) _ _).trans (KeepsParts.foldl (fun v e => landNow_keepsParts ..) _ _)
  split
  · split
    · exact purgeHalf_keepsParts ..
    · exact .refl _
  · exact .refl _

theorem purgeGranule_wings (s : State) (g p : Nat) : (partOf (purgeGranule s g) p).wings = (partOf s p).wings := by
  unfold purgeGranule
  rw [(purge_keepsParts s _ _).part p]

theorem purgeGranule_granules (s : State) (g : Nat) : (purgeGranule s g).granules = s.granules := by simp

/-! ### Retirement (R425) -/

theorem curatorLog_flash (s : State) (a b c d : Nat) : (curatorLog s a b c d).flash = s.flash := by
  have h := curatorLog_calm s a b c d
  exact h.2.2.1

/-- What the table of retirement records holds, it keeps. -/
theorem autoRecord_records (s : State) (r : BitVec 256) : ∀ x ∈ s.flash.retire, x ∈ (autoRecord s r).flash.retire := by
  intro x hx
  unfold autoRecord
  split
  · exact hx
  · split
    · exact hx
    · rw [curatorLog_flash]
      exact List.mem_append_left _ hx

theorem afterRecord_records (s : State) (r : BitVec 256) : ∀ x ∈ s.flash.retire, x ∈ (afterRecord s r).flash.retire := by
  unfold afterRecord
  dsimp only
  split
  · exact autoRecord_records s _
  · split
    · exact autoRecord_records s _
    · exact fun _ h => h

theorem retire_records (s : State) (x : BitVec 256) :
    x ∈ (afterRecord (addRecord s x) x).flash.retire ∧ (∀ y ∈ s.flash.retire, y ∈ (afterRecord (addRecord s x) x).flash.retire)
      ∧ (afterRecord (addRecord s x) x).dram = s.dram ∧ (afterRecord (addRecord s x) x).shelf = s.shelf := by
  have hk := afterRecord_records (addRecord s x) x
  refine ⟨hk x (List.mem_append_right _ (List.mem_singleton.2 rfl)), fun y hy => hk y (List.mem_append_left _ hy), ?_, ?_⟩
  · simp
  · simp

/-! ### Slots of the firmware's flash (R364) -/

theorem slotOf_setSlot (s : State) (a b : Bool) (x : FwSlot) : slotOf (setSlot s a x) b = if b = a then x else slotOf s b := by
  cases a <;> cases b <;> rfl

theorem slotOf_preferred (s : State) (a b : Bool) :
    slotOf ({ s with flash := { s.flash with preferredB := a } } : State) b = slotOf s b := by cases b <;> rfl

theorem slotOf_applied (s : State) (r : Running) (l : SMap Word) (b : Bool) : slotOf (s.applied r l) b = slotOf s b := by cases b <;> rfl

/-! ### Resets (R361, R447) -/

/-- A reset of a domain in reset starts nothing (R446). -/
theorem resetFor_idle {s : State} {k : DomainKind} {i : Nat} (cause : Nat) (h : inDomainReset s (domCode k) i = true) : resetFor s k i cause = s :=
  if_pos h

/-- The DOMAIN_RESET command is under way, its reset started or met. -/
def resetUnderWay (t : State) (k : DomainKind) (i : Nat) (r : Running) : State :=
  let c : Running := { r with applied := true, results := [], until_ := look t.resets (256 * domCode k + i) 0 }
  { t with curator := { t.curator with running := some c } }

theorem domainReset_due {s : State} {r : Running} {k : DomainKind} (hd : dueCommand s 0x600 true = some r)
    (hk : resetKind (arg s r.block 0 % 16) = some k) :
    exec .domainReset s = .next (resetUnderWay (resetFor s k (bits (arg s r.block 0) 8 8) 8) k (bits (arg s r.block 0) 8 8) r) := by
  change execDomainReset s = _
  unfold execDomainReset
  rw [hd]
  dsimp only
  rw [hk]
  dsimp only
  unfold resetUnderWay
  rfl

/-! ### The settlement -/

section
variable {s : State} {r : Running}

theorem granuleAssign_pins (hd : dueCommand s 0x200 false = some r) (hw : bits (arg s r.block 0) 10 2 = 2) :
    let g : Granule := { kind := .pinned, part := runningPart s r, pch := arg s r.block 1 }
    exec .granuleAssign s = .next (({ s with granules := put s.granules (arg s r.block 0 % 1024) g } : State).applied r []) := by
  intro g
  change execGranuleAssign s = _
  unfold execGranuleAssign
  rw [applyWith_due _ hd]
  dsimp only
  rw [if_pos hw]

theorem granuleAssign_interleaves {h : Bool} {k : Nat} (hd : dueCommand s 0x200 false = some r) (hw : bits (arg s r.block 0) 10 2 = 1)
    (hh : r.half = some h) (hk : freeRank s h = some k) :
    ∃ t, exec .granuleAssign s = .next (t.applied r [(0, BitVec.ofNat 32 (b2n h + 2 * k))])
      ∧ find t.granules (arg s r.block 0 % 1024) = some { kind := .interleaved, part := runningPart s r, half := h, rank := k }
      ∧ (partOf t (runningPart s r)).half = some h ∧ t.dram = s.dram ∧ t.rings = s.rings := by
  rw [show exec .granuleAssign s = execGranuleAssign s from rfl]
  unfold execGranuleAssign
  rw [applyWith_due _ hd]
  dsimp only
  rw [if_neg (by omega), hh]
  dsimp only [Option.getD]
  rw [hk]
  refine ⟨_, rfl, find_put_same .., ?_, rfl, rfl⟩
  exact congrArg Part.half (partOf_mapPart_same s (runningPart s r) fun x => { x with half := some h })

theorem granuleRelease_frees (hd : dueCommand s 0x201 false = some r) :
    ∃ t : State, exec .granuleRelease s = .next (t.applied r []) ∧ t.granules = drop s.granules (arg s r.block 0 % 1024)
      ∧ (partOf t (runningPart s r)).wings = (partOf s (runningPart s r)).wings := by
  rw [show exec .granuleRelease s = execGranuleRelease s from rfl]
  unfold execGranuleRelease
  rw [applyWith_due _ hd]
  refine ⟨_, rfl, ?_, ?_⟩
  · exact congrArg (drop · _) (purgeGranule_granules ..)
  · dsimp only
    rw [partOf_mapPart_same]
    exact purgeGranule_wings ..

theorem granuleShare_shares {y : Granule} (hd : dueCommand s 0x202 false = some r)
    (hy : find s.granules (arg s r.block 0 % 1024) = some y) :
    ∃ t : State, exec .granuleShare s = .next (t.applied r [])
      ∧ find t.granules (arg s r.block 0 % 1024) = some { y with shared := (arg s r.block 0).testBit 16 } := by
  have hu : (if (arg s r.block 0).testBit 16 then purgeGranule s (arg s r.block 0 % 1024) else s).granules = s.granules := by
    split
    · exact purgeGranule_granules ..
    · rfl
  rw [show exec .granuleShare s = execGranuleShare s from rfl]
  unfold execGranuleShare
  rw [applyWith_due _ hd]
  dsimp only
  rw [hu, hy]
  exact ⟨_, rfl, find_put_same ..⟩

theorem timetableBind_binds {i : Timetable} {h : Nat} (hd : dueCommand s 0x400 false = some r) (hi : r.image = some i)
    (hh : (List.range 16).find? (fun h => (find (partOf s (runningPart s r)).bound h).isNone) = some h) :
    ∃ t : State, exec .timetableBind s = .next (t.applied r [(0, BitVec.ofNat 32 h)])
      ∧ find (partOf t (runningPart s r)).bound h = some (placeImage s i)
      ∧ ((partOf s (runningPart s r)).runState = .unbound → (partOf t (runningPart s r)).runState = .bound)
      ∧ ((partOf s (runningPart s r)).runState ≠ .unbound → (partOf t (runningPart s r)).runState = (partOf s (runningPart s r)).runState)
      ∧ t = { s with parts := t.parts } := by
  rw [show exec .timetableBind s = execTimetableBind s from rfl]
  unfold execTimetableBind
  rw [applyWith_due _ hd]
  rw [hi, hh]
  refine ⟨_, rfl, ?_, ?_, ?_, rfl⟩
  · rw [partOf_mapPart_same]
    exact find_put_same ..
  · rw [partOf_mapPart_same]
    intro hu
    dsimp only
    rw [hu]
  · rw [partOf_mapPart_same]
    intro hu
    dsimp only
    split
    · next he => exact absurd he hu
    · rfl

end

/-- Settles O53: the granule, near-bank, ring, timetable, retirement, reset and firmware commands. -/
theorem resourceAndMaintenanceCommands : Obligations.ResourceAndMaintenanceCommands := by
  unfold Obligations.ResourceAndMaintenanceCommands
  intro s r p x w v g spare
  refine ⟨fun hd => ⟨fun hw => granuleAssign_pins hd hw, fun h k hw hh hk => granuleAssign_interleaves hd hw hh hk⟩,
    fun hd => granuleRelease_frees hd, fun y hd hy => granuleShare_shares hd hy, fun hd => ?nbMode, fun hd => ?create, fun hd => ?delete,
    fun i h hd hi hh => timetableBind_binds hd hi hh, fun hd => ?unbind, fun hd => ?retire, fun k hd hk hr => ?reset, fun k hd hk hr => ?met,
    fun hd => ?chunk, fun hd => ?update, fun hd => ?raise⟩
  case nbMode =>
    rw [show exec .nbMode s = execNbMode s from rfl]
    unfold execNbMode
    rw [applyWith_due _ hd]
  case create =>
    rw [show exec .ringCreate s = execRingCreate s from rfl]
    unfold execRingCreate
    rw [applyWith_due _ hd]
    exact ⟨_, _, rfl, find_put_same .., rfl, rfl, rfl, rfl, rfl, rfl, rfl, rfl, rfl⟩
  case delete =>
    rw [show exec .ringDelete s = execRingDelete s from rfl]
    unfold execRingDelete
    rw [applyWith_due _ hd]
    exact ⟨_, rfl, rfl, rfl⟩
  case unbind =>
    rw [show exec .timetableUnbind s = execTimetableUnbind s from rfl]
    unfold execTimetableUnbind
    rw [applyWith_due _ hd]
    refine ⟨_, rfl, ?_, rfl⟩
    dsimp only
    rw [partOf_mapPart_same]
  case retire =>
    rw [show exec .retire s = execRetire s from rfl]
    unfold execRetire
    rw [applyWith_due _ hd]
    dsimp only
    refine ⟨fun hm => by rw [if_pos hm], fun hm => ?_⟩
    have hk := retire_records s (recordArg s r.block)
    rw [if_neg hm]
    generalize afterRecord (addRecord s (recordArg s r.block)) (recordArg s r.block) = u at hk ⊢
    exact ⟨_, rfl, hk⟩
  case reset => exact ⟨_, domainReset_due hd hk, resetFor_began s k (bits w 8 8) 8 hr⟩
  case met =>
    refine ⟨_, domainReset_due hd hk, ?_⟩
    rw [resetFor_idle 8 hr]
    rfl
  case chunk =>
    rw [show exec .fwChunk s = execFwChunk s from rfl]
    unfold execFwChunk
    rw [applyWith_due _ hd]
    refine ⟨_, rfl, ?_, ?_⟩
    · dsimp only
      rw [slotOf_applied, slotOf_setSlot, if_neg (Bool.not_ne_self _)]
    · dsimp only
      rw [slotOf_applied, slotOf_setSlot, if_pos rfl]
  case update =>
    rw [show exec .fwUpdate s = execFwUpdate s from rfl]
    unfold execFwUpdate
    rw [applyWith_due _ hd]
    refine ⟨_, rfl, rfl, ?_, ?_, rfl⟩
    · dsimp only
      rw [slotOf_applied, slotOf_preferred, slotOf_setSlot, if_pos rfl]
    · dsimp only
      rw [slotOf_applied, slotOf_preferred, slotOf_setSlot, if_neg (Bool.not_ne_self _)]
  case raise =>
    rw [show exec .fwSecurityRaise s = execFwSecurityRaise s from rfl]
    unfold execFwSecurityRaise
    rw [applyWith_due _ hd]

end Sys2Proof.Machine
end

section
/-! PROOF. Raw operations on stored codewords (R33, R414, R415, R452, R453), for O56. -/

namespace Sys2Proof.Machine

/-! ### The write of ERR_RAW_CTL (R414) -/

theorem putBits_target : ∀ (t : BitVec 2) (a b : Bool), (putBit (putBit t 0 a) 1 b).toNat = b2n a + 2 * b2n b := by decide

theorem bits_target (v : BitVec 32) : bits v.toNat 2 2 = b2n (v.getLsbD 2) + 2 * b2n (v.getLsbD 3) := by
  have hb (i : Nat) : b2n (v.getLsbD i) = v.toNat / 2 ^ i % 2 := by
    rw [BitVec.getLsbD, Nat.testBit_eq_decide_div_mod_eq]
    unfold b2n
    split
    · next h => exact (of_decide_eq_true h).symm
    · next h => have := of_decide_eq_false (eq_false_of_ne_true h); omega
  rw [hb, hb]
  unfold bits
  rw [Nat.shiftRight_eq_div_pow]
  omega

/-- The error block after a whole write of ERR_RAW_CTL, but for GO. -/
def rawWritten (s : State) (value : Word) : ErrLog :=
  let l := s.errLog
  { l with
    rawWrite := value.getLsbD 1
    rawTarget := putBit (putBit l.rawTarget 0 (value.getLsbD 2)) 1 (value.getLsbD 3)
    rawEnable := value.getLsbD 4
    rawFrom := if value.getLsbD 4 = l.rawEnable then l.rawFrom else if now s < l.rawFrom then now s else now s + 1 }

theorem rawControl_whole (s : State) (value : Word) : rawControl s (BitVec.allOnes 32) value =
    if value.getLsbD 0 then rawStart (setErrLog s (rawWritten s value)) else setErrLog s (rawWritten s value) := by
  have h (i : Nat) (hi : i < 32) : (BitVec.allOnes 32).getLsbD i = true := by rw [BitVec.getLsbD_allOnes]; exact decide_eq_true hi
  unfold rawControl
  simp only [h 1 (by decide), h 2 (by decide), h 3 (by decide), h 4 (by decide), if_true, BitVec.allOnes_and]
  rfl

/-- The operation that the registers ask for. -/
def askedOp (s : State) (l : ErrLog) : RawOp :=
  ⟨l.rawWrite, l.rawTarget.toNat, now s + rawBeats l.rawTarget.toNat, l.rawLoc, l.rawData, l.rawCheck⟩

theorem rawStart_starts {s : State} {l : ErrLog} (hc : coldHeld s = false) (ho : l.rawOp = none) (ht : l.rawTarget ≠ 3) :
    rawStart (setErrLog s l) = rawSend (setErrLog s { l with rawOp := some (askedOp s l) }) (askedOp s l) := by
  unfold rawStart
  refine if_neg ?_
  have hd : rawDead (setErrLog s l) = false := hc
  have hs : (setErrLog s l).errLog = l := rfl
  rw [hd, hs, ho]
  simpa using ht

/-- Only an operation on the vaults names a vault word. -/
theorem rawRef_word {o : RawOp} {P off : Nat} (h : rawRef o = some (.word P off)) : 2 ≤ o.target := by
  unfold rawRef at h
  dsimp only at h
  split at h
  · split at h
    · exact CodeRef.noConfusion (Option.some.inj h)
    · cases h
  · exact CodeRef.noConfusion (Option.some.inj h)
  · rename_i h0 h1
    have n0 : o.target ≠ 0 := h0
    have n1 : o.target ≠ 1 := h1
    omega

/-- An operation of which the fabric need not know sends nothing. -/
theorem rawSend_stays {s : State} {o : RawOp} (h : o.target < 2 ∨ rawRefused s o = true) : rawSend s o = s := by
  unfold rawSend
  split
  · next P off hr =>
    have := rawRef_word hr
    exact if_pos (h.resolve_left (by omega))
  · rfl

/-- One on a vault word goes into the fabric in class 8 (R33). -/
theorem rawSend_sends {s : State} {o : RawOp} (ht : o.target = 2) (hr : rawRefused s o = false) :
    ∃ q, rawSend s o = addReq s q ∧ q.origin = .curator ∧ q.cls = 8 ∧ q.lane = none ∧ q.stage = .route (5 * now s) := by
  unfold rawSend
  have href : ∃ P off, rawRef o = some (.word P off) := by
    unfold rawRef
    rw [ht]
    exact ⟨_, _, rfl⟩
  obtain ⟨P, off, href⟩ := href
  rw [href]
  dsimp only
  rw [hr]
  exact ⟨_, rfl, rfl, rfl, rfl, rfl⟩

/-- A raw operation has started: it is the one that the write asks for, and what else of the module changed is its request. -/
def RawStarted (t s : State) (op : RawOp) : Prop :=
  t.errLog.rawOp = some op ∧ t = { s with errLog := t.errLog, net := t.net, nextReq := t.nextReq }
    ∧ (op.target ≠ 2 ∨ rawRefused s op = true → t.net = s.net)
    ∧ (op.target = 2 → rawRefused s op = false → ∃ q, find t.net s.nextReq = some q ∧ q.origin = .curator ∧ q.cls = 8
      ∧ q.lane = none ∧ q.stage = .route (5 * now s))

theorem rawSend_started (s : State) (l : ErrLog) (o : RawOp) (ht : o.target ≠ 3) (ht4 : o.target < 4) :
    RawStarted (rawSend (setErrLog s { l with rawOp := some o }) o) s o := by
  have hr (l : ErrLog) : rawRefused (setErrLog s l) o = rawRefused s o := rfl
  by_cases h : o.target = 2 ∧ rawRefused s o = false
  · obtain ⟨q, hq, h1, h2, h3, h4⟩ := rawSend_sends (s := setErrLog s { l with rawOp := some o }) h.1 ((hr _).trans h.2)
    rw [hq]
    refine ⟨rfl, rfl, fun hn => ?_, fun _ _ => ⟨_, find_put_same .., h1, h2, h3, h4⟩⟩
    rcases hn with hn | hn
    · exact absurd h.1 hn
    · rw [h.2] at hn
      cases hn
  · rw [rawSend_stays]
    · refine ⟨rfl, rfl, fun _ => rfl, fun h2 h3 => absurd ⟨h2, h3⟩ h⟩
    · rw [hr]
      by_cases h2 : o.target = 2
      · refine .inr ?_
        cases hx : rawRefused s o
        · exact absurd ⟨h2, hx⟩ h
        · rfl
      · exact .inl (by omega)

theorem rawGo_starts {s : State} {value : BitVec 32} (hg : value.getLsbD 0 = true) (hc : coldHeld s = false) (ho : s.errLog.rawOp = none)
    (ht : bits value.toNat 2 2 ≠ 3) :
    RawStarted (rawControl s (BitVec.allOnes 32) value) s ⟨value.getLsbD 1, bits value.toNat 2 2, now s + rawBeats (bits value.toNat 2 2),
      s.errLog.rawLoc, s.errLog.rawData, s.errLog.rawCheck⟩ := by
  have hb : (rawWritten s value).rawTarget.toNat = bits value.toNat 2 2 := (putBits_target _ _ _).trans (bits_target value).symm
  have ha : askedOp s (rawWritten s value) = ⟨value.getLsbD 1, bits value.toNat 2 2, now s + rawBeats (bits value.toNat 2 2),
      s.errLog.rawLoc, s.errLog.rawData, s.errLog.rawCheck⟩ := by
    unfold askedOp
    rw [hb]
    rfl
  have h3 : (rawWritten s value).rawTarget ≠ 3 := fun h => ht (by rw [← hb, h]; rfl)
  rw [rawControl_whole, if_pos hg, rawStart_starts (l := rawWritten s value) hc ho h3, ha]
  exact rawSend_started _ _ _ ht (Nat.mod_lt _ (by decide))

theorem rawMode_enables {s : State} {value : BitVec 32} (hr : s.sup.inReset = false) (hg : value.getLsbD 0 = false) (hd : s.boot.deaccessioned = false) :
    exec (.rawModeEnable value) s = .next (setErrLog s (rawWritten s value)) := by
  have hx : rawControl s (BitVec.allOnes 32) value = setErrLog s (rawWritten s value) := by
    rw [rawControl_whole, hg]
    rfl
  rw [← hx]
  exact onlyIf_on (by rw [live_of hr, hd, hg]; rfl)

/-! ### The end of a raw operation (R414, R415, R453) -/

theorem rawRelease_none {s : State} (h : s.errLog.rawHeld = []) :
    rawRelease s = setErrLog s { s.errLog with rawHeld := [], rawOp := none } := by
  unfold rawRelease
  rw [h]
  rfl

/-- The state at a raw operation's end, after what it has done. -/
def rawDoneState (t : State) (b : Nat) : State :=
  setErrLog t { t.errLog with rawDone := true, setAt := put t.errLog.setAt 2 b, rawHeld := [], rawOp := none }

theorem rawOperationDone_ends {s : State} {o : RawOp} (hr : s.sup.inReset = false) (ho : s.errLog.rawOp = some o) (he : o.end_ = now s)
    (hh : (rawAct s o).errLog.rawHeld = []) : exec .rawOperationDone s = .next (rawDoneState (rawAct s o) (now s)) := by
  change execRawOperationDone s = _
  unfold execRawOperationDone
  rw [ho]
  dsimp only
  rw [rawRelease_none (by exact hh)]
  exact onlyIf_on (by rw [live_of hr]; simpa using he)

theorem rawAct_dead {s : State} {o : RawOp} (h : coldHeld s = true) : rawAct s o = s := if_pos h

theorem rawAct_live {s : State} {o : RawOp} {c : CodeRef} (h : coldHeld s = false) (hc : rawRef o = some c) : rawAct s o =
    if rawRefused s o then setErrLog s { s.errLog with rawRefused := true, setAt := put s.errLog.setAt 3 (now s) }
    else if o.write then forgetFix (codePut s c (rawValue o).1 (rawValue o).2) c else rawReadInto s o := by
  unfold rawAct
  rw [hc]
  exact if_neg (by rw [show rawDead s = coldHeld s from rfl, h]; simp)

theorem rawReadInto_reads {s : State} {o : RawOp} {c : CodeRef} (hc : rawRef o = some c) : rawReadInto s o =
    setErrLog s { s.errLog with
      rawData := (List.range (rawWords o.target)).foldl
        (fun m i => put m i (BitVec.ofNat 32 (bits (codeGet s c).1 (32 * i) 32))) s.errLog.rawData
      rawCheck := BitVec.ofNat 32 (codeGet s c).2 } := by
  unfold rawReadInto
  rw [hc]

theorem look_puts {α : Type} (f : Nat → α) (d : α) (n : Nat) (m : SMap α) {i : Nat} (h : i < n) :
    look ((List.range n).foldl (fun m i => put m i (f i)) m) i d = f i := by
  induction n with
  | zero => exact absurd h (Nat.not_lt_zero i)
  | succ n ih =>
    rw [List.range_succ, List.foldl_append]
    by_cases hi : i = n
    · subst hi
      exact look_put_same ..
    · exact (look_put_ne _ _ _ _ _ hi).trans (ih (by omega))

theorem withShelf_keeps (s : State) (m : List Host.Cell) :
    ({ s with shelf := m } : State).clm = s.clm ∧ ({ s with shelf := m } : State).errLog = s.errLog := ⟨rfl, rfl⟩
theorem withDram_keeps (s : State) (m : List Host.Cell) :
    ({ s with dram := m } : State).clm = s.clm ∧ ({ s with dram := m } : State).errLog = s.errLog := ⟨rfl, rfl⟩

theorem codePut_keeps (s : State) (c : CodeRef) (d e : Nat) : (codePut s c d e).clm = s.clm ∧ (codePut s c d e).errLog = s.errLog := by
  cases c with
  | shelf row => exact withShelf_keeps s _
  | unit i f h k =>
    unfold codePut
    dsimp only
    split
    · exact ⟨setSlice_clm .., setSlice_errLog ..⟩
    · exact ⟨rfl, rfl⟩
  | quad i f h k q =>
    unfold codePut
    dsimp only
    split
    · exact ⟨setSlice_clm .., setSlice_errLog ..⟩
    · exact ⟨rfl, rfl⟩
  | word P off => exact withDram_keeps s _

theorem forgetFix_rest (s : State) (c : CodeRef) : forgetFix s c = { s with collectors := (forgetFix s c).collectors } := by
  unfold forgetFix
  dsimp only
  split <;> rfl

/-- A raw write at its end stores the codeword that the registers hold. -/
theorem rawAct_writes {s : State} {o : RawOp} {c : CodeRef} (h : coldHeld s = false) (hc : rawRef o = some c)
    (hf : rawRefused s o = false) (hw : o.write = true) :
    rawAct s o = forgetFix (codePut s c (rawValue o).1 (rawValue o).2) c := by
  rw [rawAct_live h hc, hf, hw]
  rfl

theorem rawAct_reads {s : State} {o : RawOp} {c : CodeRef} (h : coldHeld s = false) (hc : rawRef o = some c)
    (hf : rawRefused s o = false) (hw : o.write = false) : rawAct s o = rawReadInto s o := by
  rw [rawAct_live h hc, hf, hw]
  rfl

theorem rawAct_refuses {s : State} {o : RawOp} {c : CodeRef} (h : coldHeld s = false) (hc : rawRef o = some c)
    (hf : rawRefused s o = true) : rawAct s o = setErrLog s { s.errLog with rawRefused := true, setAt := put s.errLog.setAt 3 (now s) } := by
  rw [rawAct_live h hc, hf]
  rfl

end Sys2Proof.Machine
end

section
/-! PROOF. The cycles, visits, write-backs and laps of the scrubbers (R416 to R418), and O56. -/

namespace Sys2Proof.Machine

/-! ### What a scrub's finding leaves as it was (R417) -/

theorem scrubOf_setScrub (s : State) (x : Scrubber) (y : Scrub) : scrubOf (setScrub s x y) x = y := by
  unfold scrubOf setScrub
  rw [colOf_setCol, if_pos rfl]
  exact look_put_same ..

/-- A scrubber's own entry is apart from the reports that wait before a collector. -/
theorem setScrub_queue (s : State) (x : Scrubber) (y : Scrub) (k : Nat) : (colOf (setScrub s x y) k).queue = (colOf s k).queue := by
  unfold setScrub
  rw [colOf_setCol]
  split
  · next h => rw [h]
  · rfl

theorem setLap_keeps (s : State) (u : ScrubUnit) (l : Lap) (k : Nat) :
    (colOf (setLap s u l) k).queue = (colOf s k).queue ∧ (colOf (setLap s u l) k).scrubs = (colOf s k).scrubs := by
  unfold setLap
  rw [colOf_setCol]
  split
  · next h => rw [h]; exact ⟨rfl, rfl⟩
  · exact ⟨rfl, rfl⟩

/-- The state after findings of scrubber x in visit n: no codeword, owner or present report is touched, the visit goes on, and what waits
to be mended is added to. -/
structure Scanned (x : Scrubber) (n : Nat) (t s : State) : Prop where
  shelf : t.shelf = s.shelf
  dram : t.dram = s.dram
  bankGroups : t.bankGroups = s.bankGroups
  sliceDoms : t.sliceDoms = s.sliceDoms
  granules : t.granules = s.granules
  lines : ∀ i f h, lineOf t i f h = lineOf s i f h
  part : ∀ p, partOf t p = { partOf s p with faults := (partOf t p).faults }
  faults : ∀ p f, f ∈ (partOf s p).faults → f ∈ (partOf t p).faults
  queue : ∀ k h, h ∈ (colOf s k).queue → h ∈ (colOf t k).queue
  pos : (scrubOf t x).pos = (scrubOf s x).pos
  fix : ∀ l, (scrubOf s x).fix = some (n, l) → ∃ l', (scrubOf t x).fix = some (n, l') ∧ ∀ e ∈ l, e ∈ l'

namespace Scanned
variable {x : Scrubber} {n : Nat} {t u s : State}

theorem refl (s : State) : Scanned x n s s :=
  ⟨rfl, rfl, rfl, rfl, rfl, fun _ _ _ => rfl, fun _ => rfl, fun _ _ h => h, fun _ _ h => h, rfl, fun l h => ⟨l, h, fun _ he => he⟩⟩

theorem trans (a : Scanned x n t u) (b : Scanned x n u s) : Scanned x n t s where
  shelf := a.shelf.trans b.shelf
  dram := a.dram.trans b.dram
  bankGroups := a.bankGroups.trans b.bankGroups
  sliceDoms := a.sliceDoms.trans b.sliceDoms
  granules := a.granules.trans b.granules
  lines i f h := (a.lines i f h).trans (b.lines i f h)
  part p := by
    have h := a.part p
    rw [b.part p] at h
    exact h
  faults p f h := a.faults p f (b.faults p f h)
  queue k h hm := a.queue k h (b.queue k h hm)
  pos := a.pos.trans b.pos
  fix l h := by
    obtain ⟨l', h', hl'⟩ := b.fix l h
    obtain ⟨l'', h'', hl''⟩ := a.fix l' h'
    exact ⟨l'', h'', fun e he => hl'' e (hl' e he)⟩

theorem foldl {α : Type} {g : State → α → State} (h : ∀ s a, Scanned x n (g s a) s) (l : List α) (s : State) :
    Scanned x n (l.foldl g s) s := by
  induction l generalizing s with
  | nil => exact refl s
  | cons a l ih => exact (ih _).trans (h s a)

theorem owned (a : Scanned x n t s) (p : Nat) : owned (partOf t p) = Machine.owned (partOf s p) := by rw [a.part p]; rfl

/-- Every codeword reads as it did, belongs to whom it did, and is scrubbed as it was. -/
theorem code (a : Scanned x n t s) (r : CodeRef) :
    codeGet t r = codeGet s r ∧ scrubbed t r = scrubbed s r ∧ codeOwner t r = codeOwner s r := by
  have hw (w : Nat) : ownerOfWing t w = ownerOfWing s w := by
    unfold ownerOfWing ownerWhere
    refine congrArg (List.find? · _) (funext fun p => ?_)
    rw [a.part p]
    rfl
  have hd (k : SwKind) (hk : k = .bankGroup ∨ k = .slice) (i : Nat) : domOn t k i = domOn s k i := by
    unfold domOn domOf
    rcases hk with rfl | rfl
    · rw [show domsOf t .bankGroup = domsOf s .bankGroup from a.bankGroups]
    · rw [show domsOf t .slice = domsOf s .slice from a.sliceDoms]
  have hg (g : Nat) : ownerOfGranule t g = ownerOfGranule s g := by
    unfold ownerOfGranule
    rw [a.granules]
  unfold codeGet scrubbed codeOwner
  cases r with
  | shelf row => exact ⟨by dsimp only; rw [a.shelf], hd _ (.inl rfl) _, hw _⟩
  | unit i f h k =>
    dsimp only
    rw [a.lines, hd _ (.inr rfl), funext fun l : Line => hg l.granule]
    exact ⟨rfl, rfl, rfl⟩
  | quad i f h k q =>
    dsimp only
    rw [a.lines, hd _ (.inr rfl), funext fun l : Line => hg l.granule]
    exact ⟨rfl, rfl, rfl⟩
  | word P off =>
    dsimp only
    refine ⟨by rw [a.dram], rfl, ?_⟩
    unfold granuleAt pinnedAt
    rw [a.granules]

end Scanned

section
variable (x : Scrubber) (n : Nat)

theorem report_scanned (s : State) (k : Nat) (r : Report) : Scanned x n (report s k r) s := by
  have hq (j : Nat) : (colOf (report s k r) j).scrubs = (colOf s j).scrubs := by
    unfold report reportOwned
    rw [colOf_setCol]
    split
    · next h => rw [h]
    · rfl
  have hs : scrubOf (report s k r) x = scrubOf s x := by unfold scrubOf; rw [hq]
  refine ⟨rfl, rfl, rfl, rfl, rfl, fun _ _ _ => rfl, fun _ => rfl, fun _ _ h => h, fun j h hm => ?_, by rw [hs],
    fun l h => ⟨l, by rw [hs]; exact h, fun _ he => he⟩⟩
  unfold report reportOwned
  rw [colOf_setCol]
  split
  · next he => subst he; exact List.mem_append_left _ hm
  · exact hm

theorem report_hears (s : State) (k : Nat) (r : Report) : ∃ q ∈ (colOf (report s k r) k).queue, q.rep = r := by
  unfold report reportOwned
  rw [colOf_setCol, if_pos rfl]
  exact ⟨_, List.mem_append_right _ (List.mem_singleton.2 rfl), rfl⟩

theorem setSliceStatus_scanned (s : State) (i b : Nat) : Scanned x n (setSliceStatus s i b) s := by
  refine ⟨rfl, rfl, rfl, rfl, rfl, fun j f h => ?_, fun _ => rfl, fun _ _ h => h, fun _ _ h => h, rfl, fun l h => ⟨l, h, fun _ he => he⟩⟩
  unfold lineOf setSliceStatus mapSlice
  rw [sliceOf_setSlice]
  split
  · next he => rw [he]; rfl
  · rfl

theorem setVault_scanned (s : State) (v : Nat) (y : Vault) : Scanned x n (setVault s v y) s :=
  ⟨rfl, rfl, rfl, rfl, rfl, fun _ _ _ => rfl, fun _ => rfl, fun _ _ h => h, fun _ _ h => h, rfl, fun l h => ⟨l, h, fun _ he => he⟩⟩

theorem raiseFaultO_scanned (s : State) (p : Option Nat) (f : FaultRec) : Scanned x n (raiseFaultO s p f) s := by
  unfold raiseFaultO raiseFault
  split
  · split
    · refine ⟨rfl, rfl, rfl, rfl, rfl, fun _ _ _ => rfl, fun q => ?_, fun q e he => ?_, fun _ _ h => h, rfl, fun l h => ⟨l, h, fun _ he => he⟩⟩
      · rw [partOf_mapPart]
        split
        · next h => subst h; rfl
        · rfl
      · rw [partOf_mapPart]
        split
        · next h => subst h; exact List.mem_append_left _ he
        · exact he
    · exact .refl s
  · exact .refl s

/-- Stack of the collector that hears of a codeword. -/
def codeStack : CodeRef → Nat
  | .shelf row => row / 2064 / 14 / 16000
  | .unit i _ _ _ | .quad i _ _ _ _ => i / 64
  | .word P _ => P / 128

theorem scrubReport_scanned (s : State) (r : CodeRef) (f : Checked) : Scanned x n (scrubReport s r f) s := by
  unfold scrubReport
  cases r with
  | shelf row => exact report_scanned ..
  | unit i fr h k => exact (report_scanned ..).trans (setSliceStatus_scanned ..)
  | quad i fr h k q => exact (report_scanned ..).trans (setSliceStatus_scanned ..)
  | word P off => exact (report_scanned ..).trans (setVault_scanned ..)

theorem scrubReport_hears (s : State) (r : CodeRef) (f : Checked) :
    ∃ q ∈ (colOf (scrubReport s r f) (codeStack r)).queue, q.rep.scrub = true ∧ q.rep.cls = BitVec.ofNat 4 f.cls.1 := by
  have said (u : State) (k kind unit mem loc : Nat) :
      ∃ q ∈ (colOf (report u k (mkReport kind unit mem f loc true)) k).queue, q.rep.scrub = true ∧ q.rep.cls = BitVec.ofNat 4 f.cls.1 := by
    obtain ⟨q, hm, hq⟩ := report_hears u k (mkReport kind unit mem f loc true)
    exact ⟨q, hm, by rw [hq]; rfl, by rw [hq]; rfl⟩
  unfold scrubReport
  cases r with
  | shelf row => exact said ..
  | unit i fr h k => exact said ..
  | quad i fr h k q => exact said ..
  | word P off => exact said ..

/-- A codeword joins those that wait to be mended. -/
theorem keepFix_scanned (s : State) (e : Nat × Nat × Nat) :
    Scanned x n (setScrub s x { scrubOf s x with fix := some (n, (((scrubOf s x).fix.map (·.2)).getD []) ++ [e]) }) s := by
  refine ⟨rfl, rfl, rfl, rfl, rfl, fun _ _ _ => rfl, fun _ => rfl, fun _ _ h => h, fun k h hm => ?_, ?_, fun l hl => ?_⟩
  · rw [setScrub_queue]
    exact hm
  · rw [scrubOf_setScrub]
  · rw [scrubOf_setScrub, hl]
    exact ⟨_, rfl, fun e he => List.mem_append_left _ he⟩

/-- The codeword is one that a visit reports and has mended. -/
def Mendable (f : Checked) : Prop := (∃ d z raw, f = .corrected d z raw) ∨ (∃ z raw, f = .bad z raw)

theorem scrubFinding_sound {s : State} {r : CodeRef} {k : Nat}
    (h : scrubbed s r = true → (∃ d, codeCheck r (codeGet s r).1 (codeGet s r).2 = .clean d)
      ∨ codeCheck r (codeGet s r).1 (codeGet s r).2 = .marker ∨ codeCheck r (codeGet s r).1 (codeGet s r).2 = .poison) :
    scrubFinding s x n r k = s := by
  unfold scrubFinding
  dsimp only
  split
  · rfl
  · next hs =>
    rcases h (by simpa using hs) with ⟨d, hf⟩ | hf | hf <;> rw [hf]

/-- The state in which a mendable codeword has been reported, and its owner faulted where it is uncorrectable. -/
def scrubTold (s : State) (r : CodeRef) (f : Checked) : State :=
  match f with
  | .bad .. => raiseFaultO (scrubReport s r f) (codeOwner s r) (scrubFault r f)
  | _ => scrubReport s r f

theorem scrubFinding_keeps {s : State} {r : CodeRef} (k : Nat) (hs : scrubbed s r = true) {f : Checked}
    (hf : codeCheck r (codeGet s r).1 (codeGet s r).2 = f) (hm : Mendable f) :
    scrubFinding s x n r k = setScrub (scrubTold s r f) x { scrubOf (scrubTold s r f) x with
      fix := some (n, (((scrubOf (scrubTold s r f) x).fix.map (·.2)).getD []) ++ [(k, (codeGet s r).1, (codeGet s r).2)]) } := by
  unfold scrubFinding
  dsimp only
  rw [if_neg (by simp [hs]), hf]
  rcases hm with ⟨d, z, raw, rfl⟩ | ⟨z, raw, rfl⟩ <;> rfl

theorem scrubTold_scanned (s : State) (r : CodeRef) (f : Checked) : Scanned x n (scrubTold s r f) s := by
  unfold scrubTold
  split
  · exact (raiseFaultO_scanned ..).trans (scrubReport_scanned ..)
  · exact scrubReport_scanned ..

theorem scrubTold_hears (s : State) (r : CodeRef) (f : Checked) :
    ∃ q ∈ (colOf (scrubTold s r f) (codeStack r)).queue, q.rep.scrub = true ∧ q.rep.cls = BitVec.ofNat 4 f.cls.1 := by
  obtain ⟨q, hq, h1, h2⟩ := scrubReport_hears s r f
  refine ⟨q, ?_, h1, h2⟩
  unfold scrubTold
  split
  · exact (raiseFaultO_scanned (.slice 0) 0 _ _ _).queue _ _ hq
  · exact hq

theorem scrubTold_faults {s : State} {r : CodeRef} {z raw p : Nat} (ho : codeOwner s r = some p) (hp : owned (partOf s p) = true) :
    scrubFault r (.bad z raw) ∈ (partOf (scrubTold s r (.bad z raw)) p).faults := by
  unfold scrubTold
  dsimp only
  rw [ho]
  exact raiseFault_mem _ _ _ (((scrubReport_scanned (.slice 0) 0 s r (.bad z raw)).owned p).trans hp)

theorem scrubFinding_scanned (s : State) (r : CodeRef) (k : Nat) : Scanned x n (scrubFinding s x n r k) s := by
  by_cases hs : scrubbed s r = true
  · by_cases hm : Mendable (codeCheck r (codeGet s r).1 (codeGet s r).2)
    · rw [scrubFinding_keeps x n k hs rfl hm]
      exact (keepFix_scanned ..).trans (scrubTold_scanned ..)
    · rw [scrubFinding_sound]
      · exact .refl s
      · intro _
        cases hf : codeCheck r (codeGet s r).1 (codeGet s r).2 with
        | clean d => exact .inl ⟨d, rfl⟩
        | marker => exact .inr (.inl rfl)
        | poison => exact .inr (.inr rfl)
        | corrected d y raw => exact absurd (hf ▸ .inl ⟨d, y, raw, rfl⟩) hm
        | bad y raw => exact absurd (hf ▸ .inr ⟨y, raw, rfl⟩) hm
  · rw [scrubFinding_sound]
    · exact .refl s
    · exact fun h => absurd h hs

/-- A visit that reads a mendable codeword reports it and keeps it to be mended. -/
theorem scan_finds {s : State} {l : List (CodeRef × Nat)} {r : CodeRef} {k : Nat} {f : Checked} (hl : (r, k) ∈ l)
    (hs : scrubbed s r = true) (hf : codeCheck r (codeGet s r).1 (codeGet s r).2 = f) (hm : Mendable f) :
    let t := l.foldl (fun s r => scrubFinding s x n r.1 r.2) s
    (∃ m, (scrubOf t x).fix = some (n, m) ∧ (k, (codeGet s r).1, (codeGet s r).2) ∈ m)
      ∧ (∃ q ∈ (colOf t (codeStack r)).queue, q.rep.scrub = true ∧ q.rep.cls = BitVec.ofNat 4 f.cls.1)
      ∧ (∀ z raw p, f = .bad z raw → codeOwner s r = some p → owned (partOf s p) = true → scrubFault r f ∈ (partOf t p).faults) := by
  obtain ⟨l1, l2, rfl⟩ := List.append_of_mem hl
  intro t
  obtain ⟨u, h1, h2⟩ : ∃ u, Scanned x n u s ∧ Scanned x n t (scrubFinding u x n r k) := by
    refine ⟨l1.foldl (fun s r => scrubFinding s x n r.1 r.2) s, .foldl (fun _ _ => scrubFinding_scanned ..) _ _, ?_⟩
    simp only [t, List.foldl_append, List.foldl_cons]
    exact .foldl (fun _ _ => scrubFinding_scanned ..) _ _
  obtain ⟨hg, hsc, hco⟩ := h1.code r
  have hk := scrubFinding_keeps x n k (hsc.trans hs) (by rw [hg]; exact hf) hm
  have h3 : Scanned x n (scrubFinding u x n r k) (scrubTold u r f) := hk ▸ keepFix_scanned ..
  refine ⟨?_, ?_, fun z raw p hz ho hp => ?_⟩
  · have hx : (scrubOf (scrubFinding u x n r k) x).fix = some (n,
        (((scrubOf (scrubTold u r f) x).fix.map (·.2)).getD []) ++ [(k, (codeGet u r).1, (codeGet u r).2)]) := by
      rw [hk, scrubOf_setScrub]
    obtain ⟨m, hm1, hm2⟩ := h2.fix _ hx
    refine ⟨m, hm1, hm2 _ ?_⟩
    rw [hg]
    exact List.mem_append_right _ (List.mem_singleton.2 rfl)
  · obtain ⟨q, hq, hq1, hq2⟩ := scrubTold_hears u r f
    exact ⟨q, h2.queue _ _ (h3.queue _ _ hq), hq1, hq2⟩
  · subst hz
    exact h2.faults _ _ (h3.faults _ _ (scrubTold_faults (hco.trans ho) ((h1.owned p).trans hp)))

end

/-! ### Visits (R416, R417) -/

/-- The state at the end of a visit that is not the last of its lap. -/
def visited (s : State) (x : Scrubber) (g : Nat) : State :=
  let l := lapNow s (scrubUnit x)
  setScrub (setLap s (scrubUnit x) { l with began := some (l.began.getD (now s)) }) x
    { scrubOf s x with pos := (scrubOf s x).pos + 1, usedAt := some g }

theorem visited_scrub (s : State) (x : Scrubber) (g : Nat) :
    scrubOf (visited s x g) x = { scrubOf s x with pos := (scrubOf s x).pos + 1, usedAt := some g } := scrubOf_setScrub ..

theorem visited_queue (s : State) (x : Scrubber) (g k : Nat) : (colOf (visited s x g) k).queue = (colOf s k).queue :=
  (setScrub_queue ..).trans (setLap_keeps ..).1

theorem scrubRead_visits {s : State} {x : Scrubber} {j : Fin 8} {g : Nat} (hon : scrubOn s (scrubUnit x) = true)
    (ht : scrubTime s x j.val = some g) (hf : (scrubOf s x).fix = none) (hl : (scrubOf s x).pos + 1 < lapLength (scrubPlace x).2) :
    exec (.scrubRead ⟨x, j⟩) s = .next (visited
      ((codesAt s x (scrubOf s x).pos).zipIdx.foldl (fun u r => scrubFinding u x (scrubOf s x).pos r.1 r.2) s) x g) := by
  have hp : (scrubOf ((codesAt s x (scrubOf s x).pos).zipIdx.foldl (fun u r => scrubFinding u x (scrubOf s x).pos r.1 r.2) s) x).pos
      = (scrubOf s x).pos :=
    (Scanned.foldl (x := x) (n := (scrubOf s x).pos) (fun _ _ => scrubFinding_scanned ..) _ s).pos
  change execScrubRead ⟨x, j⟩ s = _
  unfold execScrubRead
  dsimp only
  rw [ht]
  dsimp only
  refine (onlyIf_on (by rw [hon, hf]; rfl)).trans (congrArg _ ?_)
  unfold scrubVisit
  dsimp only
  rw [if_neg (by omega)]
  generalize (codesAt s x (scrubOf s x).pos).zipIdx.foldl (fun u r => scrubFinding u x (scrubOf s x).pos r.1 r.2) s = u at hp ⊢
  unfold endVisit
  dsimp only
  rw [if_pos (by rw [hp]; exact hl)]
  rfl

/-- The codewords of a scrubber's visit are heard of by the collector of its stack. -/
theorem codesAt_stack {s : State} {x : Scrubber} {n : Nat} {r : CodeRef} (hn : n < lapLength (scrubPlace x).2) (hr : r ∈ codesAt s x n) :
    codeStack r = (scrubPlace x).1 := by
  cases x with
  | bank b =>
    have hb : lapLength (scrubPlace (.bank b)).2 = 2064 := if_pos (Nat.mod_lt _ (by decide))
    rw [hb] at hn
    rw [List.mem_singleton.1 hr]
    change (b.val * 2064 + n) / 2064 / 14 / 16000 = b.val / 224000
    omega
  | slice i =>
    obtain ⟨q, -, rfl⟩ := List.mem_map.1 hr
    rfl
  | pch P =>
    obtain ⟨q, -, rfl⟩ := List.mem_map.1 hr
    rfl

theorem mem_zipIdx_of_get {α : Type} {l : List α} {k : Nat} {a : α} (h : l[k]? = some a) : (a, k) ∈ l.zipIdx := by
  rw [List.mem_iff_getElem?]
  exact ⟨k, by rw [List.getElem?_zipIdx, h]; simp⟩

/-- A visit that finds every codeword sound moves on, and touches nothing but its collector. -/
theorem scan_sound {s : State} {x : Scrubber} {n : Nat} (l : List (CodeRef × Nat))
    (h : ∀ e ∈ l, scrubbed s e.1 = true → (∃ d, codeCheck e.1 (codeGet s e.1).1 (codeGet s e.1).2 = .clean d)
      ∨ codeCheck e.1 (codeGet s e.1).1 (codeGet s e.1).2 = .marker ∨ codeCheck e.1 (codeGet s e.1).1 (codeGet s e.1).2 = .poison) :
    l.foldl (fun u r => scrubFinding u x n r.1 r.2) s = s := by
  induction l with
  | nil => rfl
  | cons e l ih =>
    rw [List.foldl_cons, scrubFinding_sound x n (h e List.mem_cons_self)]
    exact ih fun e he => h e (List.mem_cons_of_mem _ he)

/-! ### The cycles that scrubbers use (R416) -/

theorem scrubTime_bank {s : State} {b : Fin 1792000} {j g : Nat} (h : scrubTime s (.bank b) j = some g) :
    gclk s (b.val / 14000) j % 4096 = 0 ∧ bankIdle s (b.val / 14) (b.val % 14) (wtime s (b.val / 14000) j) = true := by
  unfold scrubTime at h
  dsimp only at h
  split at h
  · next hc =>
    simp only [Bool.and_eq_true, decide_eq_true_eq] at hc
    obtain ⟨⟨⟨⟨-, hg⟩, hb⟩, -⟩, -⟩ := hc
    exact ⟨hg, hb⟩
  · cases h

theorem scrubTime_slice {s : State} {i : Fin 512} {j g : Nat} (h : scrubTime s (.slice i) j = some g) :
    g = pclk s j ∧ g % 64 = 0 ∧ sliceIdle s i.val g = true := by
  unfold scrubTime at h
  dsimp only at h
  split at h
  · next hc =>
    simp only [Bool.and_eq_true, decide_eq_true_eq] at hc
    obtain ⟨⟨⟨⟨-, hg⟩, -⟩, hi⟩, -⟩ := hc
    cases h
    exact ⟨rfl, hg, hi⟩
  · cases h

theorem scrubTime_pch {s : State} {P : Fin 1024} {j g : Nat} (h : scrubTime s (.pch P) j = some g) :
    g = pclk s j ∧ (openWindow s P.val g).isSome = true
      ∧ (∀ w, g / 4096 * 4096 ≤ w → w < g → windowWasFree s P.val w = false)
      ∧ (∀ u, (scrubOf s (.pch P)).usedAt = some u → u < g / 4096 * 4096) := by
  unfold scrubTime at h
  dsimp only at h
  split at h
  · next hc =>
    simp only [Bool.and_eq_true] at hc
    obtain ⟨-, hw⟩ := hc
    have hg : pclk s j = g := Option.some.inj h
    rw [hg] at hw
    unfold windowFree at hw
    simp only [Bool.and_eq_true, List.all_eq_true, List.mem_range] at hw
    obtain ⟨⟨⟨-, hu⟩, hall⟩, ho⟩ := hw
    refine ⟨hg.symm, ?_, fun w h1 h2 => ?_, fun u he => ?_⟩
    · split at ho
      · next hopen => rw [hopen]; rfl
      · cases ho
    · have := hall (w - g / 4096 * 4096) (by omega)
      rw [Nat.add_sub_cancel' h1] at this
      simpa using this
    · rw [he] at hu
      exact of_decide_eq_true hu
  · cases h

/-! ### Mending (R417) -/

section
variable {s : State} {x : Scrubber} {n k d e : Nat} {r : CodeRef} (hr : (codesAt s x n)[k]? = some r) (hs : scrubbed s r = true)
include hr

theorem scrubMend_written (h : codeGet s r ≠ (d, e)) : scrubMend s x n (k, d, e) = s := by
  unfold scrubMend
  dsimp only
  rw [hr]
  exact if_neg (by simp [h])

include hs

theorem scrubMend_corrects {v z raw : Nat} (h : codeGet s r = (d, e)) (hc : codeCheck r d e = .corrected v z raw) :
    scrubMend s x n (k, d, e) = codePut s r v (codeEncode r v) := by
  unfold scrubMend
  dsimp only
  rw [hr]
  dsimp only
  rw [if_pos (by simp [hs, h]), hc]

theorem scrubMend_poisons {z raw : Nat} (h : codeGet s r = (d, e)) (hc : codeCheck r d e = .bad z raw) :
    scrubMend s x n (k, d, e) = codePut s r (codePoison r).1 (codePoison r).2 := by
  unfold scrubMend
  dsimp only
  rw [hr]
  dsimp only
  rw [if_pos (by simp [hs, h]), hc]

end

/-! ### The settlement -/

theorem rawOperations (s : State) (value : BitVec 32) (hr : s.sup.inReset = false) :
    let l := s.errLog
    let target := bits value.toNat 2 2
    (value.getLsbD 0 = true → coldHeld s = false → l.rawOp = none → target ≠ 3 →
        let op : RawOp := ⟨value.getLsbD 1, target, now s + rawBeats target, l.rawLoc, l.rawData, l.rawCheck⟩
        (value.getLsbD 1 = false → ∃ t, exec (.rawRead value) s = .next t ∧ RawStarted t s op)
        ∧ (value.getLsbD 1 = true → ∃ t, exec (.rawWrite value) s = .next t ∧ RawStarted t s op))
    ∧ (value.getLsbD 0 = false → s.boot.deaccessioned = false → ∃ t, exec (.rawModeEnable value) s = .next t
        ∧ t.errLog.rawEnable = value.getLsbD 4 ∧ t.errLog.rawOp = l.rawOp ∧ t = { s with errLog := t.errLog })
    ∧ (coldHeld s = true → ∀ o, l.rawOp = some o → o.end_ = now s → l.rawHeld = [] →
        ∃ t, exec .rawOperationDone s = .next t ∧ t = { s with errLog := t.errLog } ∧ t.errLog.rawOp = none ∧ t.errLog.rawData = l.rawData)
    ∧ (∀ o c, coldHeld s = false → l.rawOp = some o → o.end_ = now s → rawRef o = some c → l.rawHeld = [] →
        (rawRefused s o = true → ∃ t, exec .rawOperationDone s = .next t ∧ t.errLog.rawRefused = true ∧ t.errLog.rawDone = true
          ∧ t.errLog.rawOp = none ∧ t = { s with errLog := t.errLog })
        ∧ (rawRefused s o = false → o.write = false →
          ∃ t, exec .rawOperationDone s = .next t ∧ t.errLog.rawDone = true ∧ t.errLog.rawOp = none ∧ t = { s with errLog := t.errLog }
            ∧ t.errLog.rawCheck = BitVec.ofNat 32 (codeGet s c).2
            ∧ ∀ i, i < rawWords o.target → look t.errLog.rawData i 0 = BitVec.ofNat 32 (bits (codeGet s c).1 (32 * i) 32))
        ∧ (rawRefused s o = false → o.write = true →
          ∃ t, exec .rawOperationDone s = .next t ∧ t.errLog.rawDone = true ∧ t.errLog.rawOp = none
            ∧ t.shelf = (codePut s c (rawValue o).1 (rawValue o).2).shelf ∧ t.dram = (codePut s c (rawValue o).1 (rawValue o).2).dram
            ∧ t.slices = (codePut s c (rawValue o).1 (rawValue o).2).slices ∧ t.clm = s.clm)) := by
  intro l target
  refine ⟨fun hg hc ho ht => ⟨fun h1 => ?_, fun h1 => ?_⟩, fun hg hd => ?_, fun hc o ho he hh => ?_,
    fun o c hc ho he href hh => ⟨fun hf => ?_, fun hf hw => ?_, fun hf hw => ?_⟩⟩
  · have hd : s.boot.deaccessioned = false := (Bool.or_eq_false_iff.1 hc).2
    exact ⟨_, onlyIf_on (by rw [live_of hr, hd, hg, h1]; rfl), rawGo_starts hg hc ho ht⟩
  · have hd : s.boot.deaccessioned = false := (Bool.or_eq_false_iff.1 hc).2
    exact ⟨_, onlyIf_on (by rw [live_of hr, hd, hg, h1]; rfl), rawGo_starts hg hc ho ht⟩
  · exact ⟨_, rawMode_enables hr hg hd, rfl, rfl, rfl⟩
  · refine ⟨_, rawOperationDone_ends hr ho he (by rw [rawAct_dead hc]; exact hh), ?_⟩
    rw [rawAct_dead hc]
    exact ⟨rfl, rfl, rfl⟩
  · refine ⟨_, rawOperationDone_ends hr ho he (by rw [rawAct_refuses hc href hf]; exact hh), ?_⟩
    rw [rawAct_refuses hc href hf]
    exact ⟨rfl, rfl, rfl, rfl⟩
  · have hx := (rawAct_reads hc href hf hw).trans (rawReadInto_reads href)
    refine ⟨_, rawOperationDone_ends hr ho he (by rw [hx]; exact hh), ?_⟩
    rw [hx]
    refine ⟨rfl, rfl, rfl, rfl, fun i hi => look_puts (fun i => BitVec.ofNat 32 (bits (codeGet s c).1 (32 * i) 32)) 0 _ _ hi⟩
  · have hx := (rawAct_writes hc href hf hw).trans (forgetFix_rest _ _)
    obtain ⟨hclm, herr⟩ := codePut_keeps s c (rawValue o).1 (rawValue o).2
    refine ⟨_, rawOperationDone_ends hr ho he ?_, ?_⟩
    · rw [hx]
      exact (congrArg ErrLog.rawHeld herr).trans hh
    · rw [hx]
      generalize codePut s c (rawValue o).1 (rawValue o).2 = u at hclm ⊢
      exact ⟨rfl, rfl, rfl, rfl, rfl, hclm⟩

theorem scrubVisits (s : State) (x : Scrubber) (j : Fin 8) (g : Nat) (hon : scrubOn s (scrubUnit x) = true)
    (ht : scrubTime s x j.val = some g) :
    let y := scrubOf s x
    (y.fix = none → y.pos + 1 < lapLength (scrubPlace x).2 →
      ((∀ r ∈ codesAt s x y.pos, scrubbed s r = true →
          (∃ d, codeCheck r (codeGet s r).1 (codeGet s r).2 = .clean d) ∨ codeCheck r (codeGet s r).1 (codeGet s r).2 = .marker
            ∨ codeCheck r (codeGet s r).1 (codeGet s r).2 = .poison) →
        ∃ t, exec (.scrubRead ⟨x, j⟩) s = .next t ∧ t = { s with collectors := t.collectors }
          ∧ scrubOf t x = { y with pos := y.pos + 1, usedAt := some g })
      ∧ (∀ k r, (codesAt s x y.pos)[k]? = some r → scrubbed s r = true →
        let f := codeCheck r (codeGet s r).1 (codeGet s r).2
        (∃ d z raw, f = .corrected d z raw) ∨ (∃ z raw, f = .bad z raw) →
        ∃ t l q, exec (.scrubRead ⟨x, j⟩) s = .next t ∧ (scrubOf t x).pos = y.pos + 1 ∧ (scrubOf t x).fix = some (y.pos, l)
          ∧ (k, (codeGet s r).1, (codeGet s r).2) ∈ l
          ∧ q ∈ (colOf t (scrubPlace x).1).queue ∧ q.rep.scrub = true ∧ q.rep.cls = BitVec.ofNat 4 f.cls.1
          ∧ t.shelf = s.shelf ∧ t.dram = s.dram
          ∧ (∀ z raw p, f = .bad z raw → codeOwner s r = some p → owned (partOf s p) = true → scrubFault r f ∈ (partOf t p).faults)))
    ∧ (∀ n l, y.fix = some (n, l) →
      let t := l.foldl (fun s c => scrubMend s x n c) s
      exec (.scrubWriteBack ⟨x, j⟩) s = .next (setScrub t x { scrubOf t x with fix := none, usedAt := some g })) := by
  intro y
  refine ⟨fun hf hl => ⟨fun hc => ?_, fun k r hk hs hm => ?_⟩, fun n l hf => ?_⟩
  · refine ⟨_, scrubRead_visits hon ht hf hl, ?_⟩
    rw [scan_sound _ fun e he hs => hc e.1 (List.fst_mem_of_mem_zipIdx he) hs]
    exact ⟨rfl, visited_scrub ..⟩
  · obtain ⟨⟨m, hm1, hm2⟩, ⟨q, hq, hq1, hq2⟩, hfa⟩ := scan_finds x y.pos (mem_zipIdx_of_get hk) hs rfl hm
    have hsc : Scanned x y.pos ((codesAt s x y.pos).zipIdx.foldl (fun u r => scrubFinding u x y.pos r.1 r.2) s) s :=
      .foldl (fun _ _ => scrubFinding_scanned ..) _ _
    have hx := scrubRead_visits hon ht hf hl
    change exec (.scrubRead ⟨x, j⟩) s = .next (visited ((codesAt s x y.pos).zipIdx.foldl (fun u r => scrubFinding u x y.pos r.1 r.2) s) x g) at hx
    rw [codesAt_stack (by omega) (List.mem_of_getElem? hk)] at hq
    generalize (codesAt s x y.pos).zipIdx.foldl (fun u r => scrubFinding u x y.pos r.1 r.2) s = u at *
    refine ⟨_, m, q, hx, ?_, ?_, hm2, ?_, hq1, hq2, hsc.shelf, hsc.dram, hfa⟩
    · rw [visited_scrub]
      exact congrArg (· + 1) hsc.pos
    · rw [visited_scrub]
      exact hm1
    · rw [visited_queue]
      exact hq
  · change execScrubWriteBack ⟨x, j⟩ s = _
    unfold execScrubWriteBack
    dsimp only
    rw [show (scrubOf s x).fix = some (n, l) from hf, ht]
    exact onlyIf_on hon

theorem scrubLapLate_sets (s : State) (u : ScrubUnit) (b : Nat) (hr : s.sup.inReset = false) (hl : (lapNow s u).began = some b)
    (hn : now s = b + 86400 * 250000000) :
    ∃ t, exec (.scrubLapLate u) s = .next t ∧ (colOf t (lapOf u).1).scrubLate = true ∧ t = { s with collectors := t.collectors } := by
  refine ⟨_, onlyIf_on (by rw [live_of hr, hl, Option.map_some, hn]; simp), ?_, rfl⟩
  rw [colOf_setCol, if_pos rfl]

/-- Settles O56: raw operations, and the cycles, visits, write-backs and laps of the scrubbers. -/
theorem rawAccessAndScrubbing : Obligations.RawAccessAndScrubbing := by
  unfold Obligations.RawAccessAndScrubbing
  refine ⟨rawOperations, scrubVisits, fun s x n k d e r hr hs => ⟨scrubMend_written hr, fun h => ⟨?_, ?_⟩⟩, fun s j g => ⟨?_, ?_, ?_⟩,
    scrubLapLate_sets⟩
  · exact fun v z raw hc => scrubMend_corrects hr hs h hc
  · exact fun z raw hc => scrubMend_poisons hr hs h hc
  · exact fun b h => scrubTime_bank h
  · exact fun i h => scrubTime_slice h
  · exact fun P h => scrubTime_pch h

end Sys2Proof.Machine
end
